-- ==== Sys2Proof/Word.lean ====
section
/-!
DEFINITION. The plain words of the KX-9256 model: bytes, the index types of its units, and the plainest arithmetic on
register values. A register value is a natural number below 2^w, w the width of its entry (Table 03-2 of
spec/03_gazetteer.md); a signed entry holds the two's complement pattern of its width (R58).
-/

namespace Sys2Proof

/-- One byte, as DRAM, host buffers and Pearo Link payloads carry it. -/
abbrev Byte := BitVec 8

/-- A channel number, 0 to 255 (R67). -/
abbrev Chan := Fin 256
/-- A load group LG0 to LG15 (R204). -/
abbrev Grp := Fin 16
/-- A stream queue number, 0 to 63 (R251). -/
abbrev Queue := Fin 64
/-- An event channel EC0 to EC255 (R93). -/
abbrev Ec := Fin 256
/-- An EVIO pin number (R105). -/
abbrev Pin := Fin 256
/-- A time alarm number (R52). -/
abbrev AlarmNo := Fin 16
/-- A DDR5 sub-channel p = 2c + h (R270). -/
abbrev SubCh := Fin 8
/-- A core cycle within a frame, 0 to 24 (Table 00-6). -/
abbrev Cyc := Fin 25

/-- Bits [hi:lo] of v, inclusive, as the manual writes a field (Table 00-6). -/
def bits (v hi lo : Nat) : Nat := (v >>> lo) % 2 ^ (hi + 1 - lo)

/-- Bit i of v. -/
def bit (v i : Nat) : Bool := v.testBit i

/-- The value v with the field of w bits that begins at lo replaced by x (taken modulo 2^w). -/
def putBits (v lo w x : Nat) : Nat :=
  v % 2 ^ lo + (x % 2 ^ w) * 2 ^ lo + (v >>> (lo + w)) * 2 ^ (lo + w)

/-- A truth value as the number a BOOL entry holds (Table 03-2). -/
def ofBool (b : Bool) : Nat := if b then 1 else 0

/-- The signed value of a w-bit two's complement pattern (R58). -/
def toSigned (w v : Nat) : Int :=
  if v % 2 ^ w < 2 ^ (w - 1) then ((v % 2 ^ w : Nat) : Int) else ((v % 2 ^ w : Nat) : Int) - ((2 ^ w : Nat) : Int)

/-- The w-bit two's complement pattern of an integer (R58). -/
def ofSigned (w : Nat) (x : Int) : Nat := (x % ((2 ^ w : Nat) : Int)).toNat

/-- The quotient rounded up. -/
def ceilDiv (a b : Nat) : Nat := (a + b - 1) / b

/-- Round x / d to the nearest integer, a value exactly halfway toward plus infinity (R196). -/
def roundHalfUp (x : Int) (d : Nat) : Int := (2 * x + (d : Int)) / (2 * (d : Int))

/-- Limit x to the closed range from lo to hi. -/
def clampInt (lo hi x : Int) : Int := if x < lo then lo else if hi < x then hi else x

/-- The bytes of v, least significant first, n of them. -/
def toBytesLE (n v : Nat) : List Byte := (List.range n).map fun i => BitVec.ofNat 8 (v >>> (8 * i))

/-- The number whose bytes, least significant first, are bs. -/
def ofBytesLE : List Byte → Nat
  | [] => 0
  | b :: bs => b.toNat + 256 * ofBytesLE bs

/-- The number whose bytes, most significant first, are bs. -/
def ofBytesBE (bs : List Byte) : Nat := bs.foldl (fun a b => a * 256 + b.toNat) 0

/-- The bytes of v, most significant first, n of them. -/
def toBytesBE (n v : Nat) : List Byte := (toBytesLE n v).reverse

end Sys2Proof
end

