-- ==== Sys2Proof/Machine/KMap.lean ====
section
/-!
DEFINITION. Sparse maps from keys to values as lists of pairs with strictly rising keys. The register file, the stores and
the memory of the part are such maps: in the form with a default, no pair holds the value that an unlisted key reads as,
so that equal contents are equal lists.
-/

namespace Sys2Proof.Machine

variable {α : Type}

/-- A sparse map: pairs of key and value, keys strictly rising. -/
abbrev KMap (α : Type) := List (Nat × α)

/-- The value listed at key k: that of the first pair with this key. -/
def kfind (k : Nat) : KMap α → Option α
  | [] => none
  | (j, v) :: r => if j = k then some v else kfind k r

/-- The map with v listed at k. -/
def kput (k : Nat) (v : α) : KMap α → KMap α
  | [] => [(k, v)]
  | (j, w) :: r => if j = k then (k, v) :: r else if k < j then (k, v) :: (j, w) :: r else (j, w) :: kput k v r

/-- The map with nothing listed at k. -/
def kdel (k : Nat) : KMap α → KMap α
  | [] => []
  | (j, w) :: r => if j = k then kdel k r else (j, w) :: kdel k r

/-- Every key of the map is above b, and keys rise strictly. -/
def kabove (b : Nat) : KMap α → Bool
  | [] => true
  | (j, _) :: r => decide (b < j) && kabove j r

/-- Keys rise strictly. -/
def ksorted : KMap α → Bool
  | [] => true
  | (j, _) :: r => kabove j r

/-- The value at k of a map whose unlisted keys read as d gives them. -/
def kget (d : Nat → α) (m : KMap α) (k : Nat) : α := (kfind k m).getD (d k)

/-- The map with v at k, in the form that lists no default. -/
def kset [DecidableEq α] (d : Nat → α) (m : KMap α) (k : Nat) (v : α) : KMap α :=
  if v = d k then kdel k m else kput k v m

/-- The canonical form: keys rise strictly and no pair holds its key's default. -/
def kwf [DecidableEq α] (d : Nat → α) (m : KMap α) : Bool :=
  ksorted m && m.all fun e => decide (e.2 ≠ d e.1)

/-- The map with the pairs whose key fails f taken out. -/
def kkeep (f : Nat → Bool) (m : KMap α) : KMap α := m.filter fun e => f e.1

end Sys2Proof.Machine
end

