-- ==== Sys2Proof/Machine/Names.lean ====
section
/-!
DEFINITION. The entries of the Gazetteer by name: the key of an entry is its index times 256 plus its first subindex,
which is its BAR0 slot number (R57, R67, R68). The names are the manual's, in the order of its parameter tables; where a
table describes a range of indices, the first argument is the unit (channel, group, queue, event channel, pin, ...).
-/

namespace Sys2Proof.Machine

/-- The key of entry G:index.sub (R57, R68). -/
def gkey (index sub : Nat) : Nat := index * 256 + sub

/-! Table 02-3 of spec/02_datum_and_graticule.md -/

def G.ptpPorts : Nat := gkey 0x1200 0x01
def G.ptpRole : Nat := gkey 0x1200 0x02
def G.ptpProfile : Nat := gkey 0x1200 0x03
def G.ptpDomain : Nat := gkey 0x1200 0x04
def G.ptpTransport : Nat := gkey 0x1200 0x05
def G.ptpPriority1 : Nat := gkey 0x1200 0x06
def G.ptpPriority2 : Nat := gkey 0x1200 0x07
def G.ptpAsymA : Nat := gkey 0x1200 0x08
def G.ptpAsymB : Nat := gkey 0x1200 0x09
def G.ptpState : Nat := gkey 0x1200 0x0A
def G.ptpOffset : Nat := gkey 0x1200 0x0B
def G.ptpMeanPath : Nat := gkey 0x1200 0x0C
def G.ptpSelected : Nat := gkey 0x1200 0x0D
def G.ptpGmIdentity : Nat := gkey 0x1200 0x0E
def G.ptpStepsRemoved : Nat := gkey 0x1200 0x0F
def G.ptpLogSync : Nat := gkey 0x1200 0x10
/-! Table 02-7 of spec/02_datum_and_graticule.md -/

def G.alarmTime (u : Nat) : Nat := gkey (0x1230 + u) 0x01
def G.alarmPeriod (u : Nat) : Nat := gkey (0x1230 + u) 0x03
def G.alarmEnable (u : Nat) : Nat := gkey (0x1230 + u) 0x04
def G.alarmStatus (u : Nat) : Nat := gkey (0x1230 + u) 0x05
def G.alarmCount (u : Nat) : Nat := gkey (0x1230 + u) 0x06
/-! Table 02-8 of spec/02_datum_and_graticule.md -/

def G.timeSource : Nat := gkey 0x1210 0x01
def G.refinFreq : Nat := gkey 0x1210 0x02
def G.sclkSelect : Nat := gkey 0x1210 0x03
def G.ppsInDelay : Nat := gkey 0x1210 0x04
def G.ppsSecondsNext : Nat := gkey 0x1210 0x05
def G.ppsOutMode : Nat := gkey 0x1210 0x06
def G.ppsOutWidth : Nat := gkey 0x1210 0x07
def G.syncMode : Nat := gkey 0x1210 0x08
def G.syncInDelay : Nat := gkey 0x1210 0x09
def G.holdoverStability : Nat := gkey 0x1210 0x0A
def G.holdoverLimit : Nat := gkey 0x1210 0x0B
def G.slewMax : Nat := gkey 0x1210 0x0C
def G.stepThreshold : Nat := gkey 0x1210 0x0D
def G.timeState : Nat := gkey 0x1210 0x0E
def G.timeErrorEst : Nat := gkey 0x1210 0x0F
def G.timeFlags : Nat := gkey 0x1210 0x10
def G.timeSticky : Nat := gkey 0x1210 0x11
def G.utcOffset : Nat := gkey 0x1210 0x12
/-! Table 02-9 of spec/02_datum_and_graticule.md -/

def G.epoch : Nat := gkey 0x1220 0x01
def G.fsKhz : Nat := gkey 0x1220 0x03
def G.ticksPerSecond : Nat := gkey 0x1220 0x04
def G.datumNow : Nat := gkey 0x1220 0x05
def G.datumSet : Nat := gkey 0x1220 0x07
def G.tickNow : Nat := gkey 0x1220 0x09
def G.sampleNow : Nat := gkey 0x1220 0x0A
def G.clockState : Nat := gkey 0x1220 0x0B
def G.pipeComp : Nat := gkey 0x1220 0x0C
def G.tickDrift : Nat := gkey 0x1220 0x0D
/-! Table 03-3 of spec/03_gazetteer.md -/

def G.presenceOpen : Nat := gkey 0x1901 0x01
def G.presenceLeft : Nat := gkey 0x1901 0x02
def G.sealIntact : Nat := gkey 0x1901 0x03
def G.gzLock : Nat := gkey 0x1902 0x01
/-! Table 03-4 of spec/03_gazetteer.md -/

def G.installId : Nat := gkey 0x1010 0x01
def G.assetTag : Nat := gkey 0x1010 0x02
def G.commissioned : Nat := gkey 0x1010 0x06
def G.wo1Written : Nat := gkey 0x1010 0x08
/-! Table 03-6 of spec/03_gazetteer.md -/

def G.partNumber : Nat := gkey 0x1000 0x01
def G.stepping : Nat := gkey 0x1000 0x02
def G.ordering : Nat := gkey 0x1000 0x03
def G.serial : Nat := gkey 0x1000 0x04
def G.gzVersion : Nat := gkey 0x1000 0x05
def G.fwVersion : Nat := gkey 0x1000 0x06
/-! Table 03-8 of spec/03_gazetteer.md -/

def G.bpTarget : Nat := gkey 0x10E0 0x01
def G.bpOffset : Nat := gkey 0x10E0 0x02
def G.bpLength : Nat := gkey 0x10E0 0x03
def G.bpData : Nat := gkey 0x10E0 0x04
def G.bpCommit : Nat := gkey 0x10E0 0x05
def G.bpStatus : Nat := gkey 0x10E0 0x06
/-! Table 03-10 of spec/03_gazetteer.md -/

def G.postBusy (i : Nat) : Nat := gkey 0x10F0 (0x01 + i)
def G.postOverrun (i : Nat) : Nat := gkey 0x10F1 (0x01 + i)
/-! Table 03-11 of spec/03_gazetteer.md -/

def G.logTotal : Nat := gkey 0x1018 0x01
def G.logNext : Nat := gkey 0x1018 0x02
def G.logClear : Nat := gkey 0x1018 0x03
def G.logWhen (i : Nat) : Nat := gkey 0x1018 (0x10 + 3 * i)
def G.logWhat (i : Nat) : Nat := gkey 0x1018 (0x11 + 3 * i)
def G.logValue (i : Nat) : Nat := gkey 0x1018 (0x12 + 3 * i)
/-! Table 03-18 of spec/03_gazetteer.md -/

def G.pKind (u : Nat) : Nat := gkey (0x1110 + u) 0x01
def G.pIdentity (u : Nat) : Nat := gkey (0x1110 + u) 0x02
def G.pAddress (u : Nat) : Nat := gkey (0x1110 + u) 0x03
def G.pPort (u : Nat) : Nat := gkey (0x1110 + u) 0x05
def G.pLastTick (u : Nat) : Nat := gkey (0x1110 + u) 0x06
def G.pState (u : Nat) : Nat := gkey (0x1110 + u) 0x07
def G.pRole (u : Nat) : Nat := gkey (0x1110 + u) 0x08
/-! Table 03-19 of spec/03_gazetteer.md -/

def G.plUdpPort : Nat := gkey 0x1100 0x01
def G.plMaxDatagram : Nat := gkey 0x1100 0x02
def G.plAnnounce : Nat := gkey 0x1100 0x03
def G.plAnnounceV4 : Nat := gkey 0x1100 0x04
def G.lldpEnable : Nat := gkey 0x1100 0x05
def G.hostname : Nat := gkey 0x1100 0x06
def G.subsActive : Nat := gkey 0x1100 0x0A
def G.plRxBad : Nat := gkey 0x1100 0x0B
def G.plDuplicates : Nat := gkey 0x1100 0x0C
def G.partnersDropped : Nat := gkey 0x1100 0x0D
def G.mac (u : Nat) : Nat := gkey (0x1101 + u) 0x01
def G.linkMode (u : Nat) : Nat := gkey (0x1101 + u) 0x02
def G.ipv4Addr (u : Nat) : Nat := gkey (0x1101 + u) 0x03
def G.ipv4Prefix (u : Nat) : Nat := gkey (0x1101 + u) 0x04
def G.ipv4Gateway (u : Nat) : Nat := gkey (0x1101 + u) 0x05
def G.ipv6Addr (u : Nat) : Nat := gkey (0x1101 + u) 0x06
def G.ipv6Prefix (u : Nat) : Nat := gkey (0x1101 + u) 0x08
def G.linkUp (u : Nat) : Nat := gkey (0x1101 + u) 0x09
/-! Table 04-5 of spec/04_event_fabric.md -/

def G.evioDir (u : Nat) : Nat := gkey (0x1400 + u) 0x01
def G.evioEdge (u : Nat) : Nat := gkey (0x1400 + u) 0x02
def G.evioFilter (u : Nat) : Nat := gkey (0x1400 + u) 0x03
def G.evioOutMode (u : Nat) : Nat := gkey (0x1400 + u) 0x04
def G.evioOutWidth (u : Nat) : Nat := gkey (0x1400 + u) 0x05
def G.evioSubSet (u : Nat) : Nat := gkey (0x1400 + u) 0x06
def G.evioSubClear (u : Nat) : Nat := gkey (0x1400 + u) 0x07
def G.evioReflexExact (u : Nat) : Nat := gkey (0x1400 + u) 0x08
def G.evioLevel (u : Nat) : Nat := gkey (0x1400 + u) 0x09
def G.evioEdges (u : Nat) : Nat := gkey (0x1400 + u) 0x0A
def G.evioLast (u : Nat) : Nat := gkey (0x1400 + u) 0x0B
def G.evioFlags (u : Nat) : Nat := gkey (0x1400 + u) 0x0D
/-! Table 04-6 of spec/04_event_fabric.md -/

def G.fireAtTick : Nat := gkey 0x10E8 0x01
def G.fireMask : Nat := gkey 0x10E8 0x02
def G.firePending : Nat := gkey 0x10E8 0x06
def G.captureOverflow : Nat := gkey 0x10E8 0x07
def G.fabricFlags : Nat := gkey 0x10E8 0x08
def G.fireDiscarded : Nat := gkey 0x10E8 0x09
/-! Table 04-7 of spec/04_event_fabric.md -/

def G.ecProd (u : Nat) (i : Nat) : Nat := gkey (0x1300 + u) (0x01 + i)
def G.ecMsix (u : Nat) : Nat := gkey (0x1300 + u) 0x11
def G.ecCount (u : Nat) : Nat := gkey (0x1300 + u) 0x12
def G.ecCoalesce (u : Nat) : Nat := gkey (0x1300 + u) 0x13
def G.ecLoopDrops (u : Nat) : Nat := gkey (0x1300 + u) 0x14
def G.ecLast (u : Nat) : Nat := gkey (0x1300 + u) 0x15
def G.ecFlags (u : Nat) : Nat := gkey (0x1300 + u) 0x17
def G.ecSubscribers (u : Nat) : Nat := gkey (0x1300 + u) 0x18
/-! Table 05-6 of spec/05_segments_and_inset.md -/

def G.insetSplit (u : Nat) : Nat := gkey (0x2100 + u) 0x40
def G.gapSeg (u : Nat) : Nat := gkey (0x2100 + u) 0x41
def G.idleSeg (u : Nat) : Nat := gkey (0x2100 + u) 0x42
def G.insetDepth (u : Nat) : Nat := gkey (0x2100 + u) 0x43
def G.insetRunahead (u : Nat) : Nat := gkey (0x2100 + u) 0x44
def G.insetBlocked (u : Nat) : Nat := gkey (0x2100 + u) 0x45
/-! Table 05-8 of spec/05_segments_and_inset.md -/

def G.segDesc (u : Nat) : Nat := gkey (0x4000 + u) 0x01
def G.segState (u : Nat) : Nat := gkey (0x4000 + u) 0x03
def G.segUsers (u : Nat) : Nat := gkey (0x4000 + u) 0x04
/-! Table 05-9 of spec/05_segments_and_inset.md -/

def G.edgeStore : Nat := gkey 0x10E4 0x01
def G.edgeInUse : Nat := gkey 0x10E4 0x02
def G.apBase : Nat := gkey 0x1580 0x01
def G.apDramSize : Nat := gkey 0x1580 0x02
def G.apBlocked : Nat := gkey 0x1580 0x03
def G.apOutside : Nat := gkey 0x1580 0x04
def G.ldHost : Nat := gkey 0x1584 0x01
def G.ldDram : Nat := gkey 0x1584 0x02
def G.ldInsetAddr : Nat := gkey 0x1584 0x03
def G.ldLength : Nat := gkey 0x1584 0x04
def G.ldTarget : Nat := gkey 0x1584 0x05
def G.ldInsetMask : Nat := gkey 0x1584 0x06
def G.ldGo : Nat := gkey 0x1584 0x0A
def G.ldState : Nat := gkey 0x1584 0x0B
def G.ldDoneBytes : Nat := gkey 0x1584 0x0C
def G.ldCrc : Nat := gkey 0x1584 0x0D
def G.ldBlocked : Nat := gkey 0x1584 0x0E
def G.ldMsix : Nat := gkey 0x1584 0x0F
def G.upAddr : Nat := gkey 0x1588 0x01
def G.upChunk : Nat := gkey 0x1588 0x02
def G.upData : Nat := gkey 0x1588 0x03
def G.upCrc : Nat := gkey 0x1588 0x04
/-! Table 06-8 of spec/06_traverse.md -/

def G.seqMode (u : Nat) : Nat := gkey (0x2300 + u) 0x01
def G.trvBase (u : Nat) : Nat := gkey (0x2300 + u) 0x02
def G.trvSize (u : Nat) : Nat := gkey (0x2300 + u) 0x03
def G.trvEntry (u : Nat) : Nat := gkey (0x2300 + u) 0x04
def G.restCode (u : Nat) : Nat := gkey (0x2300 + u) 0x05
def G.syncPart (u : Nat) : Nat := gkey (0x2300 + u) 0x06
def G.wpTable (u : Nat) : Nat := gkey (0x2300 + u) 0x07
def G.evSub (u : Nat) (i : Nat) : Nat := gkey (0x2300 + u) (0x10 + i)
def G.jmpSub (u : Nat) (i : Nat) : Nat := gkey (0x2300 + u) (0x18 + i)
def G.jmpBind (u : Nat) (i : Nat) : Nat := gkey (0x2300 + u) (0x20 + i)
def G.evLatch (u : Nat) : Nat := gkey (0x2300 + u) 0x28
def G.evClear (u : Nat) : Nat := gkey (0x2300 + u) 0x29
def G.evDrops (u : Nat) : Nat := gkey (0x2300 + u) 0x2A
def G.jmpDrops (u : Nat) : Nat := gkey (0x2300 + u) 0x2B
def G.seqState (u : Nat) : Nat := gkey (0x2300 + u) 0x30
def G.seqPc (u : Nat) : Nat := gkey (0x2300 + u) 0x31
def G.seqLoopDepth (u : Nat) : Nat := gkey (0x2300 + u) 0x32
def G.seqCallDepth (u : Nat) : Nat := gkey (0x2300 + u) 0x33
def G.loopRemain (u : Nat) (i : Nat) : Nat := gkey (0x2300 + u) (0x34 + i)
def G.seqSteps (u : Nat) : Nat := gkey (0x2300 + u) 0x3C
def G.seqFlags (u : Nat) : Nat := gkey (0x2300 + u) 0x3D
def G.seqLate (u : Nat) : Nat := gkey (0x2300 + u) 0x3E
def G.syncErrors (u : Nat) : Nat := gkey (0x2300 + u) 0x3F
def G.trvCause (u : Nat) : Nat := gkey (0x2300 + u) 0x48
def G.trvCauseStep (u : Nat) : Nat := gkey (0x2300 + u) 0x49
def G.planNext (u : Nat) : Nat := gkey (0x2300 + u) 0x50
def G.planAt (u : Nat) : Nat := gkey (0x2300 + u) 0x52
def G.planGo (u : Nat) : Nat := gkey (0x2300 + u) 0x53
def G.planState (u : Nat) : Nat := gkey (0x2300 + u) 0x54
/-! Table 07-6 of spec/07_stepped_mode_and_jumps.md -/

def G.stepAdvMask (u : Nat) : Nat := gkey (0x2300 + u) 0x08
def G.stepOut (u : Nat) : Nat := gkey (0x2300 + u) 0x09
def G.stepAnchor (u : Nat) : Nat := gkey (0x2300 + u) 0x0A
def G.stepDelay (u : Nat) : Nat := gkey (0x2300 + u) 0x0B
def G.stepEarly (u : Nat) : Nat := gkey (0x2300 + u) 0x0C
def G.stepCount (u : Nat) : Nat := gkey (0x2300 + u) 0x0D
def G.stepEarlyDrops (u : Nat) : Nat := gkey (0x2300 + u) 0x0E
def G.raReach (u : Nat) : Nat := gkey (0x2300 + u) 0x40
def G.raHeads (u : Nat) : Nat := gkey (0x2300 + u) 0x41
def G.raHeadTicks (u : Nat) : Nat := gkey (0x2300 + u) 0x42
def G.pfFetched (u : Nat) : Nat := gkey (0x2300 + u) 0x43
def G.pfDiscarded (u : Nat) : Nat := gkey (0x2300 + u) 0x44
def G.leadCount (u : Nat) : Nat := gkey (0x2300 + u) 0x45
def G.leadLate (u : Nat) : Nat := gkey (0x2300 + u) 0x46
def G.retractCount (u : Nat) : Nat := gkey (0x2300 + u) 0x47
def G.jmpPend (u : Nat) : Nat := gkey (0x2300 + u) 0x4A
def G.jmpNextAt (u : Nat) : Nat := gkey (0x2300 + u) 0x4B
def G.jmpLastAt (u : Nat) : Nat := gkey (0x2300 + u) 0x4C
def G.jmpCount (u : Nat) : Nat := gkey (0x2300 + u) 0x4D
def G.leadOpen (u : Nat) : Nat := gkey (0x2300 + u) 0x4E
def G.leadDropped (u : Nat) : Nat := gkey (0x2300 + u) 0x4F
/-! Table 08-9 of spec/08_channel_datapath.md -/

def G.dpMode (u : Nat) : Nat := gkey (0x2100 + u) 0x01
def G.interp (u : Nat) : Nat := gkey (0x2100 + u) 0x02
def G.loadGroup (u : Nat) : Nat := gkey (0x2100 + u) 0x03
def G.gain (u : Nat) : Nat := gkey (0x2100 + u) 0x04
def G.offset (u : Nat) : Nat := gkey (0x2100 + u) 0x05
def G.levelCode (u : Nat) : Nat := gkey (0x2100 + u) 0x06
def G.clipLimits (u : Nat) : Nat := gkey (0x2100 + u) 0x07
def G.clipCount (u : Nat) : Nat := gkey (0x2100 + u) 0x08
def G.clipFlags (u : Nat) : Nat := gkey (0x2100 + u) 0x09
def G.interpDelay (u : Nat) : Nat := gkey (0x2100 + u) 0x0A
def G.dpSampleNow (u : Nat) : Nat := gkey (0x2100 + u) 0x0B
/-! Table 08-10 of spec/08_channel_datapath.md -/

def G.toneRec0 (u : Nat) : Nat := gkey (0x2200 + u) 0x01
def G.toneRec1 (u : Nat) : Nat := gkey (0x2200 + u) 0x03
def G.toneRec2 (u : Nat) : Nat := gkey (0x2200 + u) 0x05
def G.toneRec3 (u : Nat) : Nat := gkey (0x2200 + u) 0x07
def G.phaseNow (u : Nat) (i : Nat) : Nat := gkey (0x2200 + u) (0x09 + i)
def G.toneCommits (u : Nat) : Nat := gkey (0x2200 + u) 0x0D
def G.gateMask (u : Nat) : Nat := gkey (0x2200 + u) 0x10
def G.gateSubMute (u : Nat) : Nat := gkey (0x2200 + u) 0x11
def G.gateSubUnmute (u : Nat) : Nat := gkey (0x2200 + u) 0x12
def G.gateDelay (u : Nat) : Nat := gkey (0x2200 + u) 0x13
def G.gateAnchor (u : Nat) : Nat := gkey (0x2200 + u) 0x14
def G.gateState (u : Nat) : Nat := gkey (0x2200 + u) 0x15
def G.gateDrops (u : Nat) : Nat := gkey (0x2200 + u) 0x16
/-! Table 08-11 of spec/08_channel_datapath.md -/

def G.pacedMode (u : Nat) : Nat := gkey (0x2600 + u) 0x01
def G.pacedUnit (u : Nat) : Nat := gkey (0x2600 + u) 0x02
def G.pacedInterval (u : Nat) : Nat := gkey (0x2600 + u) 0x03
def G.pacedStart (u : Nat) : Nat := gkey (0x2600 + u) 0x04
def G.pacedKinds (u : Nat) : Nat := gkey (0x2600 + u) 0x05
def G.pacedSub (u : Nat) : Nat := gkey (0x2600 + u) 0x06
def G.pacedDelay (u : Nat) : Nat := gkey (0x2600 + u) 0x07
def G.pacedAnchor (u : Nat) : Nat := gkey (0x2600 + u) 0x08
def G.pacedPush (u : Nat) : Nat := gkey (0x2600 + u) 0x09
def G.pacedFill (u : Nat) : Nat := gkey (0x2600 + u) 0x0A
def G.pacedApplied (u : Nat) : Nat := gkey (0x2600 + u) 0x0B
def G.pacedStarved (u : Nat) : Nat := gkey (0x2600 + u) 0x0C
def G.pacedFlush (u : Nat) : Nat := gkey (0x2600 + u) 0x0D
def G.pacedRefused (u : Nat) : Nat := gkey (0x2600 + u) 0x0E
def G.pacedDrops (u : Nat) : Nat := gkey (0x2600 + u) 0x0F
/-! Table 08-12 of spec/08_channel_datapath.md -/

def G.lgCmd (u : Nat) : Nat := gkey (0x1A00 + u) 0x01
def G.lgAt (u : Nat) : Nat := gkey (0x1A00 + u) 0x02
def G.lgStrobeAt (u : Nat) : Nat := gkey (0x1A00 + u) 0x03
def G.lgState (u : Nat) : Nat := gkey (0x1A00 + u) 0x04
def G.lgMembers (u : Nat) : Nat := gkey (0x1A00 + u) 0x05
def G.lgStartTick (u : Nat) : Nat := gkey (0x1A00 + u) 0x09
def G.lgStrobes (u : Nat) : Nat := gkey (0x1A00 + u) 0x0A
def G.lgSubStop (u : Nat) : Nat := gkey (0x1A00 + u) 0x0B
def G.lgSubRestart (u : Nat) : Nat := gkey (0x1A00 + u) 0x0C
def G.lgSubStart (u : Nat) : Nat := gkey (0x1A00 + u) 0x0D
def G.lgSubStrobe (u : Nat) : Nat := gkey (0x1A00 + u) 0x0E
def G.lgDrops (u : Nat) : Nat := gkey (0x1A00 + u) 0x0F
/-! Table 09-7 of spec/09_dac_and_outputs.md -/

def G.outSpan (u : Nat) : Nat := gkey (0x2000 + u) 0x01
def G.outEnable (u : Nat) : Nat := gkey (0x2000 + u) 0x02
def G.outState (u : Nat) : Nat := gkey (0x2000 + u) 0x03
def G.spanReadyTick (u : Nat) : Nat := gkey (0x2000 + u) 0x04
def G.parkSub (u : Nat) : Nat := gkey (0x2000 + u) 0x05
def G.parkDrops (u : Nat) : Nat := gkey (0x2000 + u) 0x06
def G.faultCause (u : Nat) : Nat := gkey (0x2000 + u) 0x07
def G.faultClear (u : Nat) : Nat := gkey (0x2000 + u) 0x08
def G.faultCount (u : Nat) : Nat := gkey (0x2000 + u) 0x09
def G.skewAdj (u : Nat) : Nat := gkey (0x2000 + u) 0x0A
def G.skewMeas (u : Nat) : Nat := gkey (0x2000 + u) 0x0B
def G.trimFreezeMax (u : Nat) : Nat := gkey (0x2000 + u) 0x0C
def G.trimFreezeReq (u : Nat) : Nat := gkey (0x2000 + u) 0x0D
def G.trimState (u : Nat) : Nat := gkey (0x2000 + u) 0x0E
def G.trimFlags (u : Nat) : Nat := gkey (0x2000 + u) 0x0F
def G.trimSwaps (u : Nat) : Nat := gkey (0x2000 + u) 0x10
def G.trimWorst (u : Nat) : Nat := gkey (0x2000 + u) 0x11
/-! Table 09-8 of spec/09_dac_and_outputs.md -/

def G.mrkDelayA (u : Nat) : Nat := gkey (0x2400 + u) 0x01
def G.mrkDelayB (u : Nat) : Nat := gkey (0x2400 + u) 0x02
def G.mrkDrive (u : Nat) : Nat := gkey (0x2400 + u) 0x03
def G.mrkForce (u : Nat) : Nat := gkey (0x2400 + u) 0x04
def G.mrkLevel (u : Nat) : Nat := gkey (0x2400 + u) 0x05
def G.mrkEdgesA (u : Nat) : Nat := gkey (0x2400 + u) 0x06
def G.mrkEdgesB (u : Nat) : Nat := gkey (0x2400 + u) 0x07
def G.mrkCut (u : Nat) : Nat := gkey (0x2400 + u) 0x08
/-! Table 10-4 of spec/10_output_watch.md -/

def G.watchStride : Nat := gkey 0x1820 0x01
def G.watchWindow : Nat := gkey 0x1820 0x02
def G.watchConvOk : Nat := gkey 0x1820 0x03
def G.watchVerdictsAll : Nat := gkey 0x1820 0x04
/-! Table 10-5 of spec/10_output_watch.md -/

def G.watchEnable (u : Nat) : Nat := gkey (0x2500 + u) 0x01
def G.watchThresh (u : Nat) : Nat := gkey (0x2500 + u) 0x02
def G.watchPersist (u : Nat) : Nat := gkey (0x2500 + u) 0x03
def G.watchDriftThresh (u : Nat) : Nat := gkey (0x2500 + u) 0x04
def G.watchGainTol (u : Nat) : Nat := gkey (0x2500 + u) 0x05
def G.watchLoadGain (u : Nat) : Nat := gkey (0x2500 + u) 0x06
def G.watchAction (u : Nat) : Nat := gkey (0x2500 + u) 0x07
def G.watchCause (u : Nat) : Nat := gkey (0x2500 + u) 0x08
def G.watchClass (u : Nat) : Nat := gkey (0x2500 + u) 0x09
def G.watchReadings (u : Nat) : Nat := gkey (0x2500 + u) 0x0A
def G.watchBlanked (u : Nat) : Nat := gkey (0x2500 + u) 0x0B
def G.watchDeviations (u : Nat) : Nat := gkey (0x2500 + u) 0x0C
def G.watchVerdicts (u : Nat) : Nat := gkey (0x2500 + u) 0x0D
def G.watchDriftNow (u : Nat) : Nat := gkey (0x2500 + u) 0x0E
def G.watchGainNow (u : Nat) : Nat := gkey (0x2500 + u) 0x0F
def G.watchLast (u : Nat) : Nat := gkey (0x2500 + u) 0x10
def G.watchAperture (u : Nat) : Nat := gkey (0x2500 + u) 0x13
/-! Table 11-7 of spec/11_streaming.md -/

def G.sqEnable (u : Nat) : Nat := gkey (0x1B00 + u) 0x01
def G.sqSource (u : Nat) : Nat := gkey (0x1B00 + u) 0x02
def G.sqRingBase (u : Nat) : Nat := gkey (0x1B00 + u) 0x03
def G.sqRingSize (u : Nat) : Nat := gkey (0x1B00 + u) 0x04
def G.sqRate (u : Nat) : Nat := gkey (0x1B00 + u) 0x05
def G.sqPrefill (u : Nat) : Nat := gkey (0x1B00 + u) 0x06
def G.sqPolicy (u : Nat) : Nat := gkey (0x1B00 + u) 0x07
def G.sqEscWp (u : Nat) : Nat := gkey (0x1B00 + u) 0x08
def G.sqStallOut (u : Nat) : Nat := gkey (0x1B00 + u) 0x09
def G.sqLowMark (u : Nat) : Nat := gkey (0x1B00 + u) 0x0A
def G.sqDescBase (u : Nat) : Nat := gkey (0x1B00 + u) 0x0B
def G.sqDescCount (u : Nat) : Nat := gkey (0x1B00 + u) 0x0C
def G.sqWbAddr (u : Nat) : Nat := gkey (0x1B00 + u) 0x0D
def G.sqMsix (u : Nat) : Nat := gkey (0x1B00 + u) 0x0E
def G.sqState (u : Nat) : Nat := gkey (0x1B00 + u) 0x0F
def G.sqWritten (u : Nat) : Nat := gkey (0x1B00 + u) 0x10
def G.sqReserved (u : Nat) : Nat := gkey (0x1B00 + u) 0x11
def G.sqPlaypos (u : Nat) : Nat := gkey (0x1B00 + u) 0x12
def G.sqAhead (u : Nat) : Nat := gkey (0x1B00 + u) 0x13
def G.sqSkipped (u : Nat) : Nat := gkey (0x1B00 + u) 0x14
def G.sqUnderruns (u : Nat) : Nat := gkey (0x1B00 + u) 0x15
def G.sqGapSamples (u : Nat) : Nat := gkey (0x1B00 + u) 0x16
def G.sqSlip (u : Nat) : Nat := gkey (0x1B00 + u) 0x17
def G.sqLastEvent (u : Nat) : Nat := gkey (0x1B00 + u) 0x18
def G.sqFlags (u : Nat) : Nat := gkey (0x1B00 + u) 0x1B
def G.sqLateRefill (u : Nat) : Nat := gkey (0x1B00 + u) 0x1C
def G.sqDescHead (u : Nat) : Nat := gkey (0x1B00 + u) 0x1D
def G.sqDescDone (u : Nat) : Nat := gkey (0x1B00 + u) 0x1E
def G.sqErrCause (u : Nat) : Nat := gkey (0x1B00 + u) 0x1F
def G.sqFlush (u : Nat) : Nat := gkey (0x1B00 + u) 0x20
def G.sqNetData (u : Nat) : Nat := gkey (0x1B00 + u) 0x21
/-! Table 11-8 of spec/11_streaming.md -/

def G.ingressCeiling : Nat := gkey 0x10D0 0x01
def G.netStreamCeiling : Nat := gkey 0x10D0 0x02
def G.ingressNow : Nat := gkey 0x10D0 0x03
def G.hostLink : Nat := gkey 0x10D0 0x04
def G.hostLostCount : Nat := gkey 0x10D0 0x05
def G.bar2Bad : Nat := gkey 0x10D0 0x06
def G.pcieLink : Nat := gkey 0x10D0 0x07
def G.cplTimeouts : Nat := gkey 0x10D0 0x08
/-! Table 11-9 of spec/11_streaming.md -/

def G.strmState (u : Nat) : Nat := gkey (0x2300 + u) 0x60
def G.strmRepsDone (u : Nat) : Nat := gkey (0x2300 + u) 0x61
def G.strmShort (u : Nat) : Nat := gkey (0x2300 + u) 0x62
/-! Table 12-12 of spec/12_dram_controller.md -/

def G.memState : Nat := gkey 0x1500 0x01
def G.memSpeed : Nat := gkey 0x1500 0x02
def G.memSpeedMax : Nat := gkey 0x1500 0x03
def G.memGrain : Nat := gkey 0x1500 0x04
def G.memDensity : Nat := gkey 0x1500 0x05
def G.memRanks : Nat := gkey 0x1500 0x06
def G.memChannels : Nat := gkey 0x1500 0x07
def G.memFailCause : Nat := gkey 0x1500 0x08
def G.memIdleClose : Nat := gkey 0x1500 0x09
def G.memSrIdle : Nat := gkey 0x1500 0x0A
def G.memSrExitMax : Nat := gkey 0x1500 0x0B
def G.memNrK : Nat := gkey 0x1500 0x0C
def G.memRefreshMode : Nat := gkey 0x1500 0x0D
def G.memLatFixed : Nat := gkey 0x1500 0x0E
def G.memFlags : Nat := gkey 0x1500 0x0F
def G.nrDropped : Nat := gkey 0x1500 0x10
/-! Table 12-13 of spec/12_dram_controller.md -/

def G.tRefiNs : Nat := gkey 0x1501 0x01
def G.tRfcNs : Nat := gkey 0x1501 0x02
def G.tRfcsbNs : Nat := gkey 0x1501 0x03
def G.refPostponed : Nat := gkey 0x1501 0x04
def G.refForced : Nat := gkey 0x1501 0x05
def G.rtPauses : Nat := gkey 0x1501 0x06
def G.quietMax : Nat := gkey 0x1501 0x07
def G.quietReq : Nat := gkey 0x1501 0x08
def G.quietState : Nat := gkey 0x1501 0x09
def G.replays : Nat := gkey 0x1501 0x0A
def G.replayMaxNs : Nat := gkey 0x1501 0x0B
/-! Table 12-14 of spec/12_dram_controller.md -/

def G.eccCorrected : Nat := gkey 0x1503 0x01
def G.eccUncorrectable : Nat := gkey 0x1503 0x02
def G.ueLast : Nat := gkey 0x1503 0x03
def G.scrubPeriod : Nat := gkey 0x1503 0x05
def G.scrubPasses : Nat := gkey 0x1503 0x06
def G.zfState : Nat := gkey 0x1504 0x01
def G.zfFrontier : Nat := gkey 0x1504 0x02
def G.zfDoneTick : Nat := gkey 0x1504 0x03
def G.keyDraws : Nat := gkey 0x1504 0x04
def G.zfRingDone : Nat := gkey 0x1504 0x05
/-! Table 12-15 of spec/12_dram_controller.md -/

def G.portTarget (u : Nat) : Nat := gkey (0x1508 + u) 0x01
def G.portCap (u : Nat) : Nat := gkey (0x1508 + u) 0x02
def G.portShare (u : Nat) : Nat := gkey (0x1508 + u) 0x03
def G.portBytes (u : Nat) : Nat := gkey (0x1508 + u) 0x04
def G.portLatMax (u : Nat) : Nat := gkey (0x1508 + u) 0x05
def G.portLate (u : Nat) : Nat := gkey (0x1508 + u) 0x06
def G.portSrWaits (u : Nat) : Nat := gkey (0x1508 + u) 0x07
/-! Table 12-16 of spec/12_dram_controller.md -/

def G.scRtInterval (u : Nat) : Nat := gkey (0x1510 + u) 0x01
def G.scDrift (u : Nat) : Nat := gkey (0x1510 + u) 0x02
def G.scVrefTrim (u : Nat) : Nat := gkey (0x1510 + u) 0x03
def G.scCe (u : Nat) : Nat := gkey (0x1510 + u) 0x04
def G.scCeDevice (u : Nat) : Nat := gkey (0x1510 + u) 0x05
def G.scRefOwed (u : Nat) : Nat := gkey (0x1510 + u) 0x06
def G.scHot (u : Nat) : Nat := gkey (0x1510 + u) 0x07
def G.scUtil (u : Nat) : Nat := gkey (0x1510 + u) 0x08
/-! Table 13-6 of spec/13_admission.md -/

def G.admCode : Nat := gkey 0x1600 0x01
def G.admCommand : Nat := gkey 0x1600 0x02
def G.admGroup : Nat := gkey 0x1600 0x03
def G.admChannel : Nat := gkey 0x1600 0x04
def G.admObject : Nat := gkey 0x1600 0x05
def G.admDemand : Nat := gkey 0x1600 0x06
def G.admLimit : Nat := gkey 0x1600 0x07
def G.admVerdictTick : Nat := gkey 0x1600 0x08
def G.admTwinCode : Nat := gkey 0x1600 0x09
def G.admPending : Nat := gkey 0x1600 0x0A
def G.admAccepted : Nat := gkey 0x1600 0x0B
def G.admRefused : Nat := gkey 0x1600 0x0C
def G.admDramCeiling : Nat := gkey 0x1600 0x10
def G.admDramReserved : Nat := gkey 0x1600 0x11
def G.admIngressReserved : Nat := gkey 0x1600 0x12
def G.admMirrorCeiling : Nat := gkey 0x1600 0x13
def G.admEventReserved : Nat := gkey 0x1600 0x14
def G.admWaitNs : Nat := gkey 0x1600 0x15
def G.admLead : Nat := gkey 0x1600 0x16
def G.admConstants : Nat := gkey 0x1600 0x17
def G.ecLoad : Nat := gkey 0x1600 0x20
/-! Table 13-7 of spec/13_admission.md -/

def G.admGDram (u : Nat) : Nat := gkey (0x1620 + u) 0x01
def G.admGEntryReady (u : Nat) : Nat := gkey (0x1620 + u) 0x02
def G.admGArmedTick (u : Nat) : Nat := gkey (0x1620 + u) 0x03
/-! Table 13-8 of spec/13_admission.md -/

def G.admChRate (u : Nat) : Nat := gkey (0x2300 + u) 0x70
def G.admChHeads (u : Nat) : Nat := gkey (0x2300 + u) 0x71
def G.admChStep (u : Nat) : Nat := gkey (0x2300 + u) 0x72
def G.admChTone (u : Nat) : Nat := gkey (0x2300 + u) 0x73
/-! Table 14-10 of spec/14_redundant_pair.md -/

def G.pairEnable : Nat := gkey 0x1700 0x01
def G.pairId : Nat := gkey 0x1700 0x02
def G.pairPeerSerial : Nat := gkey 0x1700 0x03
def G.pairPriority : Nat := gkey 0x1700 0x04
def G.pairState : Nat := gkey 0x1700 0x05
def G.pairRole : Nat := gkey 0x1700 0x06
def G.pairAuto : Nat := gkey 0x1700 0x07
def G.pairCmd : Nat := gkey 0x1700 0x08
def G.pairAt : Nat := gkey 0x1700 0x09
def G.shadowFit : Nat := gkey 0x1700 0x0A
def G.pairFlags : Nat := gkey 0x1700 0x0B
def G.digestMatched : Nat := gkey 0x1700 0x0C
def G.lostTicks : Nat := gkey 0x1700 0x0D
def G.takeovers : Nat := gkey 0x1700 0x0E
def G.lastTakeover : Nat := gkey 0x1700 0x0F
def G.linkLatPs : Nat := gkey 0x1700 0x11
def G.mirrorUtil : Nat := gkey 0x1700 0x12
def G.resyncStep : Nat := gkey 0x1700 0x13
def G.resyncLeft : Nat := gkey 0x1700 0x14
def G.joinCause : Nat := gkey 0x1700 0x15
def G.driveState : Nat := gkey 0x1700 0x16
def G.configDigest : Nat := gkey 0x1700 0x17
def G.digestWindow : Nat := gkey 0x1700 0x1B
def G.hbMiss : Nat := gkey 0x1700 0x1C
/-! Table 14-11 of spec/14_redundant_pair.md -/

def G.sqMirrored (u : Nat) : Nat := gkey (0x1B00 + u) 0x22
/-! Table 15-13 of spec/15_startup_selftest_lifecycle.md -/

def G.stState : Nat := gkey 0x1800 0x01
def G.stCmd : Nat := gkey 0x1800 0x02
def G.stPhase : Nat := gkey 0x1800 0x03
def G.stResult : Nat := gkey 0x1800 0x04
def G.stValidity : Nat := gkey 0x1800 0x05
def G.benchRecord : Nat := gkey 0x1800 0x06
def G.stStartKind : Nat := gkey 0x1800 0x07
def G.stForceFull : Nat := gkey 0x1800 0x08
def G.stFailBlocks : Nat := gkey 0x1800 0x09
def G.stLastStartMs : Nat := gkey 0x1800 0x0A
def G.vddNow : Nat := gkey 0x1800 0x10
def G.vddaNow : Nat := gkey 0x1800 0x11
def G.tjNow : Nat := gkey 0x1800 0x12
def G.refinErrNow : Nat := gkey 0x1800 0x13
/-! Table 15-14 of spec/15_startup_selftest_lifecycle.md -/

def G.lcState : Nat := gkey 0x1900 0x01
def G.lcTarget : Nat := gkey 0x1900 0x02
def G.lcGo : Nat := gkey 0x1900 0x03
def G.lcPhase : Nat := gkey 0x1900 0x04
def G.lcTransitions : Nat := gkey 0x1900 0x05
def G.resetCmd : Nat := gkey 0x1900 0x06
def G.resetCause : Nat := gkey 0x1900 0x07
/-! Table 15-15 of spec/15_startup_selftest_lifecycle.md -/

def G.nvCommit : Nat := gkey 0x1903 0x01
def G.nvState : Nat := gkey 0x1903 0x02
def G.nvDigest : Nat := gkey 0x1903 0x03
def G.nvCommits : Nat := gkey 0x1903 0x07
def G.fwImage : Nat := gkey 0x1904 0x01
def G.fwSlotActive : Nat := gkey 0x1904 0x02
def G.fwActivate : Nat := gkey 0x1904 0x03
def G.fwSlotRunning : Nat := gkey 0x1904 0x04
def G.fwUpdateState : Nat := gkey 0x1904 0x05
def G.fwSecurityFloor : Nat := gkey 0x1904 0x06
def G.ikPub : Nat := gkey 0x1905 0x01
def G.ikCert : Nat := gkey 0x1905 0x05
def G.akPub : Nat := gkey 0x1905 0x06
def G.nkPub : Nat := gkey 0x1905 0x0A
def G.keyStatement : Nat := gkey 0x1905 0x0E
def G.attNonce : Nat := gkey 0x1905 0x0F
def G.attState : Nat := gkey 0x1905 0x13
def G.attReport : Nat := gkey 0x1905 0x14
def G.tamperCount : Nat := gkey 0x1906 0x01
def G.tamperLast : Nat := gkey 0x1906 0x02
def G.tamperLatched : Nat := gkey 0x1906 0x04

end Sys2Proof.Machine
end

