-- ==== Sys2Proof/Wire.lean ====
section
/-!
DEFINITION. The operand types of the commands: by which path an access comes, what a frame, a descriptor or a handshake
carries, and what the outside world lets the part measure. Everything here is what an outside party hands to the block;
none of it is state of the block.
-/

namespace Sys2Proof

/-- The path by which an access reaches the back end (R77, LOG_WHAT bits [35:32] of Table 03-12). -/
inductive Path where
  | bar0 (requester : Nat)
  | portA (session : Nat)
  | portB (session : Nat)
  | mirror
  | management
  deriving DecidableEq, Repr

/-- Ethernet port A or B (R80). -/
inductive EthPort where
  | a
  | b
  deriving DecidableEq, Repr

/-- A posting domain of Table 03-9. -/
inductive Domain where
  | analog (c : Chan)
  | ptp
  | serdes
  | phy (p : SubCh)
  deriving DecidableEq, Repr

/-- The form in which a GAZETTEER_WRITE comes: a BAR0 write within one slot (slot = index * 256 + subindex, be the byte
enables, data the 64 data bits; R69), or a whole value from a path that carries whole values (R70). -/
inductive WriteForm where
  | slot (requester slot : Nat) (be : BitVec 8) (data : BitVec 64)
  | whole (path : Path) (index sub value : Nat)
  deriving DecidableEq, Repr

/-- A target of CALL, JUMP or BREV: a step offset or a Waypoint number (field TGT of Table 06-1). -/
inductive Target where
  | offset (o : Nat)
  | waypoint (w : Nat)
  deriving DecidableEq, Repr

/-- The fields of a TONE step (Table 06-2): tone number, set bits F, P, A, M and their values. -/
structure ToneArgs where
  tone  : Nat
  setF  : Bool
  setP  : Bool
  setA  : Bool
  setM  : Bool
  mode  : Bool
  amp   : Nat
  phase : Nat
  ftw   : Nat
  deriving DecidableEq, Repr

/-- The part of a Pearo Link request header that decides its execution (Table 03-14), with where it came from (R80, R85). An address is the number
whose byte i is byte i of its 16-byte IPv6 form, IPv4-mapped for IPv4 (Table 03-18). -/
structure PlHeader where
  port    : EthPort
  source  : Nat
  udpPort : Nat
  session : Nat
  seq     : Nat
  pending : Bool
  more    : Bool
  deriving DecidableEq, Repr

/-- One item of a READ, WRITE, WRITE_BLOCK or SUBSCRIBE payload (Table 03-15). -/
structure PlItem where
  index  : Nat
  sub    : Nat
  type   : Nat
  len    : Nat
  offset : Nat
  value  : List Byte
  deriving DecidableEq, Repr

/-- An announce record (Table 03-17), with the address it came from. -/
structure AnnounceRec where
  serial    : Nat
  role      : Nat
  timeState : Nat
  lifecycle : Nat
  timeErr   : Nat
  pairId    : Nat
  fwVersion : Nat
  hostname  : Nat
  address   : Nat
  deriving DecidableEq, Repr

/-- What an LLDPDU tells of a neighbour (R90). -/
structure LldpRec where
  chassis : Nat
  portId  : Nat
  sysName : Nat
  ttl     : Nat
  deriving DecidableEq, Repr

/-- What every PTP message says of the options it uses (Table 02-2): its domainNumber, its transport and profile numbered as in PTP_TRANSPORT and
PTP_PROFILE, and whether it uses an option that the part does not support. -/
structure PtpHead where
  domain      : Nat
  transport   : Nat
  profile     : Nat
  unsupported : Bool
  deriving DecidableEq, Repr

/-- What a PTP announce tells (R29, Table 02-3): the grandmaster with the fields that the best master clock algorithm (IEEE 1588-2019)
compares, and the UTC offset. -/
structure PtpAnnounce where
  gmIdentity   : Nat
  priority1    : Nat
  clockClass   : Nat
  accuracy     : Nat
  variance     : Nat
  priority2    : Nat
  stepsRemoved : Nat
  utcOffset    : Int
  deriving DecidableEq, Repr

/-- A host stream descriptor (Table 11-2) with the bytes its buffer gave, or the way its read failed (R257). -/
inductive FetchResult where
  | data (bytes : List Byte)
  | error
  deriving DecidableEq, Repr

/-- One fetched stream descriptor: its raw 128 bits and what reading its buffer gave. -/
structure StreamDesc where
  raw    : Nat
  result : FetchResult
  deriving DecidableEq, Repr

/-- The cause of a host loss (R268). -/
inductive HostLossCause where
  | dlDown
  | hotReset
  | d3hot
  | timeouts
  deriving DecidableEq, Repr

/-- What happens to the host link (R268): the host is lost, or a lost link has trained again, to a generation and width. -/
inductive HostEvent where
  | lost (cause : HostLossCause)
  | returned (gen width : Nat)
  deriving DecidableEq, Repr

/-- An access to BAR2 (R256) of so many bytes. -/
inductive Bar2Access where
  | write (bytes value : Nat)
  | read (bytes : Nat)
  deriving DecidableEq, Repr

/-- One record of a capture log (R331). -/
structure LogRecord where
  offset     : Nat
  ec         : Nat
  source     : Nat
  generation : Nat
  deriving DecidableEq, Repr

/-- What a heartbeat carries (class 0 of Table 14-2): tick, pair state, fitness, digest and channel mask. -/
structure Heartbeat where
  tick   : Nat
  state  : Nat
  fit    : Bool
  digest : Nat
  mask   : Nat
  /-- the fault-parked channels the sender counts out of the digest (R335, R336) -/
  parked : Nat
  deriving DecidableEq, Repr

/-- What a join handshake learns of the partner (Table 14-8). -/
structure PeerInfo where
  serial     : Nat
  pairId     : Nat
  peerSerial : Nat
  stepping   : Nat
  fwVersion  : Nat
  gzVersion  : Nat
  priority   : Nat
  lifecycle  : Nat
  clockState : Nat
  timeJoined : Bool
  latencyPs  : Nat
  running    : Bool
  deriving DecidableEq, Repr

/-- The header and body of a firmware slot image (Table 15-2). -/
structure FwSlot where
  magic     : Nat
  format    : Nat
  version   : Nat
  security  : Nat
  length    : Nat
  digest    : Nat
  signature : Nat
  body      : List Byte
  deriving DecidableEq, Repr

/-- What one attempt of initial training finds at one speed grade (R271, R273). -/
structure TrainingResult where
  /-- every sub-channel passed at this grade -/
  passed    : Bool
  /-- the population is one of Table 12-1 -/
  supported : Bool
  /-- DDR channels trained, bits 0 to 3 -/
  channels  : Nat
  /-- 1 for 16 Gb devices, 2 for 32 Gb devices -/
  density   : Nat
  ranks     : Nat
  /-- measured fixed read latency in ns (MEM_LAT_FIXED) -/
  latFixed  : Nat
  deriving DecidableEq, Repr

/-- What a shutdown self-test phase finds (R353, R354, Table 15-4 and Table 15-6). -/
structure PhaseResult where
  /-- the blocks that failed, ST_FAIL_BLOCKS bits of this phase -/
  failBlocks : Nat
  patterns   : Nat
  misr       : Nat
  vddMin     : Nat
  vddMax     : Nat
  vddaMin    : Nat
  vddaMax    : Nat
  tjMin      : Int
  tjMax      : Int
  refinErr   : Nat
  durationMs : Nat
  deriving DecidableEq, Repr

/-- What the part meets at a start-up (R350, Table 15-3). -/
structure BootInfo where
  /-- the outcome of DDR5 training, per grade 6400, 5600, 4800 (R271) -/
  train6400  : TrainingResult
  train5600  : TrainingResult
  train4800  : TrainingResult
  /-- the values measured at start: PIPE_COMP, and the Datum second of the alignment (R44, R45) -/
  pipeComp   : Nat
  alignSec   : Nat
  /-- the seal loop as it stands (R369) -/
  sealOpen   : Bool
  /-- the generation and width to which the host link trains (R249, PCIE_LINK) -/
  linkGen    : Nat
  linkWidth  : Nat
  /-- what the test phases of a full start find; unused by a fast start -/
  phases     : PhaseResult
  patternOk  : Bool
  /-- reset end to ready in ms (ST_LAST_START_MS) -/
  startMs    : Nat
  deriving DecidableEq, Repr

/-- The outcome of the symbol code on one read line (R296): clean, corrected on a device, or uncorrectable. -/
inductive EccOutcome where
  | clean
  | corrected (device : Nat)
  | uncorrectable
  deriving DecidableEq, Repr

/-- A readable value returned by the block, or the way a read ended (R71 to R74, R130, R356). -/
inductive ReadResult where
  | value (v : Nat)
  | bytes (bs : List Byte)
  | poisoned
  | completerAbort
  | unsupported
  deriving DecidableEq, Repr

end Sys2Proof
end

