-- ==== Sys2Proof/Machine/Types.lean ====
section
/-!
DEFINITION. The plain data the machine's state is made of, unit by unit: pulses and latches of the event fabric, a channel's
sequencer and its plans, the datapath's memory, queues and records. Sample instants are counts n of output samples since
EPOCH and ticks are counts k of frames, n = 250 k + s (Table 00-6).
-/

namespace Sys2Proof.Machine

/-- A pulse (R96): its stamp, its source number (Table 04-1; 0xFFF for software, R110) and its generation (R97). -/
structure Pulse where
  tick : Nat
  off  : Nat
  src  : Nat
  gen  : Nat
  deriving DecidableEq, Repr

/-- A producer pulse that asserts in absolute core cycle at_ = 25 k + c and has not yet chosen its slots (R95, R103). -/
structure Producer where
  at_   : Nat
  pulse : Pulse
  deriving DecidableEq, Repr

/-- A pulse on its way to an event channel (R95): the slot it came by (16 for software firing, R99) and the absolute core cycle
in which it reaches the channel. -/
structure Arrival where
  ec    : Nat
  slot  : Nat
  due   : Nat
  pulse : Pulse
  deriving DecidableEq, Repr

/-- A real-time task input holding a pulse, and the absolute core cycle in which it saw it (R100, R101). -/
structure Latch where
  pulse : Pulse
  seen  : Nat
  deriving DecidableEq, Repr

/-- One EVIO pin (R105, R106): the level at the pad, the last accepted level, the level driven, the sample at which a pulse in
progress ends (0 for none), what the drive task did last, with what it found, and the sample after the part's own last change of the pad while that
edge is still to be judged (0 for none). -/
structure PinSt where
  pad       : Bool
  accepted  : Bool
  drive     : Bool
  endAt     : Nat
  lastCyc   : Nat
  lastIn    : Nat
  prevDrive : Bool
  prevEnd   : Nat
  turned    : Nat
  deriving DecidableEq, Repr

/-- A stored sample by name: code 0, REST_CODE, stored sample idx of descriptor d, or the sample at ring position pos of
queue q. -/
inductive Smp where
  | zero
  | rest
  | seg (d idx : Nat)
  | ring (q pos : Nat)
  deriving DecidableEq, Repr

/-- What feeds the interpolator over a span (stage 1 of Table 08-1): a repetition of descriptor d begun at sample start, whose
first stored sample lies at ring position pos if it is stream-resident; a FILL segment looped from start (R121), in a wait or as the gap for samples
without data; from boundary start a held sample or REST_CODE as stored samples; or nothing, the park driver having the output. -/
inductive Src where
  | play (d start pos : Nat)
  | fill (d start : Nat)
  | gap (d start : Nat)
  | hold (s : Smp) (start : Nat)
  | rest (start : Nat)
  | none
  deriving DecidableEq, Repr

/-- Output samples begin_ to end_ - 1 of a plan and their source. -/
structure Span where
  begin_ : Nat
  end_   : Nat
  src    : Src
  deriving DecidableEq, Repr

/-- A commit to the datapath at a sample (R15, R151, R152, R202): fields of a tone (mask bit 0 F, 1 P, 2 A, 3 mode; rec a
TONE_REC), the gain, the offset, the level code, or the gate (R198). -/
inductive Eff where
  | tone (t mask rec : Nat)
  | gain (v : Nat)
  | offset (v : Nat)
  | level (v : Nat)
  | mute (mask : Nat)
  | unmute (mask : Nat)
  | clearHistory
  deriving DecidableEq, Repr

/-- A commit with its sample and its place in the order of Table 01-4 (R15): 2 a start, 3 the strobe, 4 the sequencer, 5 the paced queue, and
after them the gate, UNMUTE (6) before MUTE (7) (R198). -/
structure EffAt where
  n    : Nat
  rank : Nat
  eff  : Eff
  deriving DecidableEq, Repr

/-- A marker edge placed at sample n (R123): line 0 MRK_A, 1 MRK_B; kind of Table 05-4. -/
structure EdgeAt where
  n    : Nat
  line : Nat
  kind : Nat
  deriving DecidableEq, Repr

/-- A change of a Gazetteer value that takes effect at a tick: set, add or set bits; or the count of a complete repetition, begun at sample
start by the play whose first repetition ended at first (R266): STRM_REPS_DONE at key done, or STRM_SHORT at key short where it turns out
short after its tick is closed. -/
inductive RegOp where
  | set (k v : Nat)
  | add (k d : Nat)
  | bits (k m : Nat)
  | rep (done short start first : Nat)
  deriving DecidableEq, Repr

/-- What a decide stage fixed for one tick of one channel (R163). acted holds the generations of the pulses the stage acted
on (R97), and halt tells that a HALT with HOUT 2 leaves the output to the park driver in that tick (R155). -/
structure TickPlan where
  tick   : Nat
  spans  : List Span
  effs   : List EffAt
  edges  : List EdgeAt
  pulses : List Pulse
  acted  : List Nat
  ops    : List RegOp
  halt   : Bool
  deriving DecidableEq, Repr

/-- An entry of the loop stack (R144): the step after the LOOP, the address of its ENDL, the remaining count (none: infinite). -/
structure LoopEntry where
  body   : Nat
  endl   : Nat
  remain : Option Nat
  deriving DecidableEq, Repr

/-- An entry of the call stack (R145). -/
structure CallEntry where
  ret   : Nat
  depth : Nat
  deriving DecidableEq, Repr

/-- A playing step in progress (R142, R143): its step, descriptor, the boundary of the repetition now playing and its ring
position, the complete repetitions still to play including this one (none for PLAYT), whether this repetition is short (R266),
and for PLAYT its latches, flags, the end of its first repetition and sample 0 of the tick that a pulse has resolved for its exit. -/
structure Play where
  pc       : Nat
  d        : Nat
  start    : Nat
  pos      : Nat
  left     : Option Nat
  short    : Bool
  evm      : Nat
  clr      : Bool
  exitTick : Bool
  firstEnd : Nat
  exitAt   : Option Nat
  deriving DecidableEq, Repr

/-- What a wait waits for (R148 to R150, R171). -/
inductive WaitFor where
  | event (evm : Nat) (clr anchor : Bool) (delay : Nat)
  | tick
  | sync (tag : Nat)
  | stepped
  deriving DecidableEq, Repr

/-- A wait entered at boundary since: the step that follows it, its output code (Table 06-4) and its release instant once known. -/
structure Wait where
  pc    : Nat
  next  : Nat
  since : Nat
  out   : Nat
  what  : WaitFor
  rel   : Option Nat
  deriving DecidableEq, Repr

/-- Why a sequencer stands still in a situation that R158 says no admitted program reaches. -/
inductive StuckWhy where
  | emptyStep
  | outsideAllocation
  | loopOverflow
  | loopUnderflow
  | callOverflow
  | callUnderflow
  | noEndl
  | badWaypoint
  | tooManySteps
  deriving DecidableEq, Repr

/-- What a channel's sequencer is doing (SEQ_STATE of Table 06-8). run pc: about to execute step pc at its boundary. -/
inductive Act where
  | off
  | run (pc : Nat)
  | play (p : Play)
  | wait (w : Wait)
  | halted (pc hout since : Nat)
  | parked
  | stuck (pc : Nat) (why : StuckWhy)
  deriving DecidableEq, Repr

/-- An underrun episode (R261 to R264): its policy, its first affected sample, and the stored sample at which it began. -/
structure Episode where
  q      : Nat
  policy : Nat
  since  : Nat
  idx    : Nat
  deriving DecidableEq, Repr

/-- A lead (R177): the LEAD step, the predicted start of its playing step, the instant at which it is to pulse, its generation,
whether that is late, whether it has pulsed, where the path it lies on stands at the end of each tick to come (R178), and the retract that
a stop has laid on it before its pulse. -/
structure Lead where
  pc     : Nat
  start  : Nat
  at_    : Nat
  gen    : Nat
  late   : Bool
  pulsed : Bool
  path   : List (Nat × Act)
  doom   : Option (Nat × Nat)
  deriving DecidableEq, Repr

/-- A piece of the predicted path (R175): descriptor, boundary of its repetition, tick, where its first byte lies in the segment or in the
ring's count of bytes, and its bytes. -/
structure Chunk where
  d     : Nat
  start : Nat
  tick  : Nat
  from_ : Nat
  bytes : Nat
  deriving DecidableEq, Repr

/-- A channel's sequencer after the last decide stage. at_ is the first sample not yet placed. fresh: the boundary at at_ ended a playing step or
began the program, so that stepped mode waits there (R170). last is the last stored sample placed, cands the leads found on the path, carry the
generations that act in a later tick (R97), escaped one more than the tick of the last escape (R265), chunks and heads (descriptor and bytes) what
the planner has fetched (R175), paced the first sample whose paced instants are not yet decided (R201), freed the instants at which unresolved leads
resolved whose places no lead has taken since (R177), untaken the target of the first BREV on the path that was not taken, with the stacks there
(R175), gap the first sample of the last gap that samples without data made and the sample after it (R121, R163), and slip the output samples by
which stalls have moved the program since its start (R264). -/
structure Seq where
  at_     : Nat
  act     : Act
  fresh   : Bool
  seam    : Bool
  m0      : Nat
  last    : Smp
  loops   : List LoopEntry
  calls   : List CallEntry
  armed   : Option (Nat × Nat)
  cands   : List (Nat × Nat × Nat)
  leads   : List Lead
  retr    : List (Nat × Nat)
  carry   : List (Nat × Nat)
  ep      : Option Episode
  escaped : Nat
  chunks  : List Chunk
  heads   : List (Nat × Nat)
  paced   : Nat
  freed   : List Nat
  untaken : Option (Target × List LoopEntry × List CallEntry)
  gap     : Nat × Nat
  slip    : Nat
  deriving DecidableEq, Repr

/-- The datapath of a channel as synthesis has left it (R190, R198, R187): the accumulators of T0 to T3 and the records in force, the muted tones,
gain, offset, level code, the placed stored samples still within the interpolator's span (output position, I, Q), the value that a hold repeats
(R147), the codes of the tick being emitted and of the tick just synthesized, the phases at its sample 0, the level of MRK_A and MRK_B as the
program's edges leave them, the edges on their way to the pins (R186, R233), and the first sample of the last gap that late refills made and the
sample after it (R17). -/
structure Dp where
  acc     : List Nat
  recs    : List Nat
  muted   : Nat
  gain    : Nat
  offset  : Nat
  level   : Nat
  history : List (Nat × Int × Int)
  held    : Int × Int
  emit    : List Int
  next    : List Int
  info    : List Nat
  marks   : Nat
  edges   : List EdgeAt
  late    : Nat × Nat
  deriving DecidableEq, Repr

/-- A load group's pending command and its reservation (R205, R309): the ticks of a pending start, stop and restart, event
strobes to come, what a stop by a STOP pulse carries (R97), and the snapshot of values the start or strobe commits, with the
tick at which they come into force. -/
structure GroupSt where
  startAt   : Option Nat
  stopAt    : Option Nat
  restartAt : Option Nat
  strobes   : List Nat
  stopGen   : Option Nat
  commits   : List (Nat × Nat × Nat)
  deriving DecidableEq, Repr

/-- What a channel holds of the part-wide resources (R309, R312): its charge r_c in bytes per second, the stream queues its program names, and
whether it names a DRAM-resident or stream-resident segment. -/
structure Charge where
  rate   : Nat
  queues : List Nat
  mem    : Bool
  deriving DecidableEq, Repr

/-- A reservation (R309): the group, the channel for the new charge of a plan commit, the charges of its channels, and its verdict tick. -/
structure Resv where
  group   : Nat
  chan    : Option Nat
  charges : KMap Charge
  tick    : Nat
  deriving DecidableEq, Repr

/-- An accepted plan commit that has not taken effect (R162): the channel, its tick, base, size, entry and its verdict tick. -/
structure PlanCommit where
  chan  : Nat
  tick  : Nat
  base  : Nat
  size  : Nat
  entry : Nat
  made  : Nat
  deriving DecidableEq, Repr

/-- What step 2 of a join transfers (Table 14-9): the values of the mirrored entries in force, pending and waiting for the next tick boundary, and the
mirrored stores, in force and as written since. -/
structure ConfigImage where
  regs    : KMap Nat
  pend    : KMap Nat
  bound   : KMap Nat
  edges   : KMap Nat
  newEdge : KMap Nat
  descs   : KMap Nat
  newDesc : KMap Nat
  trav    : KMap Nat
  deriving DecidableEq, Repr

/-- The state image of step 4 of a join (R343): the tick whose decide point has come and the one whose plan is closed last; of every channel the
sequencer with its pending jumps and leads, what is decided of it, and the datapath with its tone accumulators and gate state; the latches; the
paced-queue contents; the groups and their plan commits; the read-only values of groups, sequencers and streams; the positions of plays in the
rings; and for each queue the position W0 that step 6 copies up to. -/
structure StateImage where
  opened : Nat
  closed : Nat
  seqs   : List Seq
  plans  : List (List TickPlan)
  dps    : List Dp
  latches : KMap Latch
  paced  : KMap (List Nat)
  grps   : List GroupSt
  commits : List PlanCommit
  shown  : KMap Nat
  open_  : List (Nat × Nat × Nat × Nat)
  ringTo : KMap Nat
  deriving DecidableEq, Repr

/-- What a step of a join brings or ends in (Table 14-9): it is done on this part; the configuration of the active part; the partner's hash of the
contents; the active part's state image; bytes of a queue's ring from a position on, with the lines that were uncorrectable there; the link was
lost; or the shadow's engine has refused the configuration with an ADM code. -/
inductive JoinResult where
  | done
  | config (image : ConfigImage)
  | content (hash : Nat)
  | image (image : StateImage)
  | ring (q pos : Nat) (bytes : List Byte) (missing : List Nat)
  | linkLost
  | refused (admCode : Nat)
  deriving DecidableEq, Repr

/-- An output of a channel (R217 to R233): parked by its park task, parked by a planned relock, left to the park driver by a HALT with HOUT 2
in the current tick, the tick a of a span-change sequence in progress with its stage (1 reconfiguring, 2 ramp, 3 settled at the new mid-scale)
and its two spans, the span of a further sequence that waits for its end (R223), the trim freeze in progress, the
trim swaps until TRIM_STATE 3 ends and the next position of the trim rotation, whether the hand-off switch is closed and the DAC owns
the output in the current tick, the tick of the last change of either plus one, the marker levels at the pins, whether a low VDDO has opened
the switch, which then waits for a planned change (R374), and the tick from which a channel fault parks the output, until a start after
FAULT_CLEAR (Table 09-6). -/
structure OutSt where
  task      : Bool
  relock    : Bool
  halt      : Bool
  spanAt    : Option Nat
  spanStage : Nat
  spanFrom  : Nat
  spanTo    : Nat
  spanNext  : Option Nat
  freezeTo  : Option Nat
  rotLeft   : Nat
  rotPos    : Nat
  closed    : Bool
  dac       : Bool
  changed   : Nat
  lines     : Nat
  shut      : Bool
  faultAt   : Option Nat
  deriving DecidableEq, Repr

/-- A reading of a monitor converter that waits for its comparison in the next tick (R237 to R242): its tick and offset, whether it is
blanked, whether the switch is open, the expected and the measured values in microvolts, and its threshold. -/
structure WatchRd where
  tick    : Nat
  off     : Nat
  blank   : Bool
  isOpen  : Bool
  expv    : Int
  vd      : Int
  vc      : Int
  thresh  : Int
  deriving DecidableEq, Repr

/-- Output Watch of a channel (R239, R241, R242): the intended codes of the last 4 emitted ticks, the window of compared readings
(measured and expected value, newest first), the runs of readings for which DEVIATION and SHORTED hold, the runs for which DEVIATION,
SHORTED and STUCK do not, the classes that have given a verdict and are not re-armed, and the reading that waits. -/
structure WatchSt where
  codes    : List (Nat × List Int)
  window   : List (Int × Int)
  devRun   : Nat
  shortRun : Nat
  devOff   : Nat
  shortOff : Nat
  stuckOff : Nat
  fired    : Nat
  reading  : Option WatchRd
  deriving DecidableEq, Repr

/-- A refill that the planner of channel chan has asked of port P0 (R175): the tick that needs it, its address and length. -/
structure Want where
  chan : Nat
  tick : Nat
  addr : Nat
  len  : Nat
  deriving DecidableEq, Repr

/-- A request of one line in the memory controller (R276, R280): its port, arrival and deadline in controller cycles, its line number
(address divided by 64), whether it writes, whether it covers the whole line, the bytes it carries (written, or as read), and for a
write the bytes it replaced; waited: it met self-refresh; need: for a refill the tick that needs it (R17). -/
structure DReq where
  port     : Nat
  arrival  : Nat
  deadline : Nat
  line     : Nat
  isWrite  : Bool
  whole    : Bool
  at_      : Nat
  bytes    : List Byte
  old      : List Byte
  waited   : Bool
  need     : Nat
  deriving DecidableEq, Repr

/-- A command issued to a DDR channel, as its retry buffer keeps it (R294): the sub-channel, the rank and bank, what was issued
(0 activate, 1 precharge, 2 read, 3 write, 4 refresh), the row or line, and write data. -/
structure DCmd where
  sub   : Nat
  bank  : Nat
  kind  : Nat
  where_ : Nat
  data  : List Byte
  deriving DecidableEq, Repr

/-- A sub-channel of the memory (R276 to R290): the input queues of its ports in order of arrival, the bank queues (key 32 rank + 4 bank
group + bank), open rows and when each was last accessed, the rotating pointer, the phase and the column commands issued in it, owed refreshes
(key 4 rank + bank index), ranks that are refreshed hot, neighbour samples that wait and the start of the last sequence, the last pause and
whether one is due, whether one is owed after a quiet window, and the command slots of the last millisecond, used and all. -/
structure SubChSt where
  input   : List DReq
  banks   : KMap (List DReq)
  rows    : KMap Nat
  used    : KMap Nat
  pointer : Nat
  writing : Bool
  cols    : Nat
  owed    : KMap Nat
  hot     : KMap Nat
  nr      : List (Nat × Nat)
  nrAt    : Option Nat
  pauseAt : Option Nat
  due     : Bool
  after   : Bool
  busy    : Nat
  slots   : Nat
  deriving DecidableEq, Repr

/-- Where a Pearo Link frame goes (R80): the Ethernet port, the address and the UDP port. -/
structure Dest where
  port    : EthPort
  address : Nat
  udpPort : Nat
  deriving DecidableEq, Repr

/-- An item of a reply or publication (Table 03-15): LEN is the length of the value. -/
structure ReplyItem where
  index  : Nat
  sub    : Nat
  status : Nat
  type   : Nat
  offset : Nat
  value  : List Byte
  deriving DecidableEq, Repr

/-- An announce record (Table 03-17). -/
structure AnnounceMsg where
  serial    : Nat
  role      : Nat
  timeState : Nat
  lifecycle : Nat
  port      : EthPort
  timeErr   : Nat
  pairId    : Nat
  fwVersion : Nat
  hostname  : Nat
  deriving DecidableEq, Repr

/-- A frame that the part sends over Pearo Link (Table 03-14, Table 03-16): a reply with what stands before its items (the identity of a subscription,
R83), a fragment of an attestation report (R92), a publication (R87) or an announce (R88). more is its flag MORE. -/
inductive PlFrame where
  | reply (session seq tick status : Nat) (more : Bool) (head : List Byte) (items : List ReplyItem)
  | report (session seq tick total offset : Nat) (more : Bool) (bytes : List Byte)
  | publication (session subId seq tick : Nat) (more : Bool) (items : List ReplyItem)
  | announce (a : AnnounceMsg)
  deriving DecidableEq, Repr

/-- A mirrored write or command on its way (R332): the tick from which it is in force on both parts, its key and its value, and the path by
which it came and the operation it was there (R78). -/
structure Fwd where
  tick  : Nat
  key   : Nat
  value : Nat
  path  : Path
  op    : Nat
  deriving DecidableEq, Repr

/-- A user NV image (R351): its sequence number, the number of the draw of the NV key that signed it, and the values it holds. -/
structure NvImage where
  seq    : Nat
  key    : Nat
  values : KMap Nat
  deriving DecidableEq, Repr

end Sys2Proof.Machine
end

