-- ==== Sys2Proof/Syntax.lean ====
section
/-!
DEFINITION. The commands of the KX-9256, one constructor per row of spec/opcode_table.json, in the table's order. A command
is a write or read of an entry, a frame, a step of a channel's sequencer, or an event in time or at a pin. Its operands are
what the outside world supplies: the path and value of an access, the data of a read, the result of a measurement, and,
where a stamp needs it, the core cycle of the current tick in which it happens (at_).
-/

namespace Sys2Proof

/-- A command of the block. Each constructor's docstring gives its row of the table. -/
inductive Instr where
  /-- TICK_BOUNDARY (R12). At each graticule tick the emit stage sends the tick's 250 planned samples and the capture and synthesize stages of the
  pipeline advance. -/
  | tickBoundary
  /-- DECIDE_STAGE (R140). At the decide point, core cycle 12 of tick m-2, the sequencer freezes the qualifying latches and places every step, seam,
  commit and edge of tick m. -/
  | decideStage
  /-- PLAY (R142). The PLAY step plays segment SEG COUNT times without a gap, applying its edge list and taking fresh stream samples on each
  repetition. -/
  | play (c : Chan) (seg count : Nat)
  /-- PLAYT (R143). The PLAYT step repeats segment SEG until a latch in EVM qualifies. -/
  | playt (c : Chan) (seg evm : Nat) (clr tickExit : Bool)
  /-- PLAYT_EXIT (R143). A PLAYT ends at a seam or a tick boundary at or after tick k+3 of the qualifying pulse, and clears the latches that
  qualified if CLR is set. -/
  | playtExit (c : Chan)
  /-- LOOP (R144). The LOOP step pushes the loop address and its count onto the loop stack. -/
  | loop (c : Chan) (count : Nat)
  /-- ENDL (R144). The ENDL step repeats the loop body, or pops the loop entry once the count reaches zero. -/
  | endl (c : Chan)
  /-- CALL (R145). The CALL step pushes the return address and the loop stack depth onto the call stack, then goes to its target. -/
  | call (c : Chan) (target : Target)
  /-- RET (R145). The RET step pops the call stack, truncates the loop stack to the recorded depth, and returns. -/
  | ret (c : Chan)
  /-- JUMP (R146). The JUMP step goes to its target and pops the loops whose body does not contain the target. -/
  | jump (c : Chan) (target : Target)
  /-- BREV (R146). The BREV step branches to its target when a latch in EVM qualifies, and otherwise continues. -/
  | brev (c : Chan) (evm : Nat) (clr : Bool) (target : Target)
  /-- WAITEV (R148). The WAITEV step waits for a pulse in any latch of EVM, with its output set by WAITOUT. -/
  | waitev (c : Chan) (evm : Nat) (clr anchor : Bool) (waitout delay : Nat)
  /-- WAITEV_RELEASE (R148). A WAITEV releases at the later of its arrival and the computed instant in tick k+3 plus DELAY. -/
  | waitevRelease (c : Chan)
  /-- WAITTICK (R149). The WAITTICK step waits for an absolute or start-relative tick and offset, and counts as late when that instant has passed. -/
  | waittick (c : Chan) (rel : Bool) (waitout offset tick : Nat)
  /-- WAITTICK_RELEASE (R149). A WAITTICK releases at sample OFFSET of its tick. -/
  | waittickRelease (c : Chan)
  /-- SYNC (R150). A SYNC step makes a participant wait at the group rendezvous; a non-participant passes it in zero time. -/
  | sync (c : Chan) (waitout tag : Nat)
  /-- SYNC_RELEASE (R150). Once every participant has arrived or halted, all waiting participants resume at tick floor(A/250)+1, and unequal tags
  set SYNC_TAG_ERR. -/
  | syncRelease (g : Grp)
  /-- TONE (R151). The TONE step writes the selected frequency, phase, amplitude and mode fields of one tone at its boundary. -/
  | tone (c : Chan) (a : ToneArgs)
  /-- FIRE (R153). The FIRE step pulses the channel's FIRE producer, stamped at its boundary sample. -/
  | fire (c : Chan)
  /-- LEVEL (R152). The LEVEL step writes VALUE into the gain, offset or level code at its boundary. -/
  | level (c : Chan) (target value : Nat)
  /-- LEAD (R154). The LEAD step arms a lead marker of L ticks for the next playing step. -/
  | lead (c : Chan) (ticks : Nat)
  /-- HALT (R155). The HALT step stops the program, sets the output by HOUT, and pulses the HALT producer. -/
  | halt (c : Chan) (hout : Nat)
  /-- STEPPED_ADVANCE (R171). A qualifying advance latch releases the stepped wait at the later of E and J0, clears the latches that qualified, and
  increments STEP_COUNT. -/
  | steppedAdvance (c : Chan)
  /-- JUMP_TAKE_EFFECT (R167). At J a pending jump cuts the source, clears both stacks, runs the Waypoint path and pulses WAYPOINT. -/
  | jumpTakeEffect (c : Chan)
  /-- LEAD_PULSE (R177). A lead's LEAD producer asserts at its due instant, or late at (q+2,0), with at most 8 leads unresolved at once. -/
  | leadPulse (c : Chan)
  /-- RETRACT (R178). A decide stage, stop or park under which the armed step cannot begin at P makes the RETRACT producer assert for a lead that
  has pulsed. -/
  | retract (c : Chan)
  /-- TRAVERSE_STEP_WRITE (R138). A commit of a Traverse step checks its encoding and use, and accepts the step or refuses it. -/
  | traverseStepWrite (p : Path) (n value : Nat)
  /-- EV_CLEAR (R141). A write of EV_CLEAR clears the selected event latches in the core cycle after execution. -/
  | evClear (p : Path) (c : Chan) (mask : Nat)
  /-- PLAN_GO (R162). A write of PLAN_GO submits the channel's new allocation to admission, as a plan commit. -/
  | planGo (p : Path) (c : Chan) (value : Nat)
  /-- PLAN_TAKE_EFFECT (R162). At sample 0 of tick PLAN_AT an accepted plan commit cuts the old program and starts the new one at TRV_ENTRY. -/
  | planTakeEffect (c : Chan)
  /-- GAZETTEER_WRITE (R60). A write to an entry with no row of its own is checked and takes effect according to its class. -/
  | gazetteerWrite (w : WriteForm)
  /-- BAR0_STAGED_WORD_WRITE (R70). A BAR0 write to a word other than the commit word of a multi-word entry places that word in the staging buffer,
  discarding words staged for another entry. -/
  | bar0StagedWordWrite (requester slot : Nat) (high : Bool) (data : BitVec 32)
  /-- BAR0_SNAPSHOT_READ (R71). A BAR0 read of a word other than the commit word snapshots the whole entry into the snapshot buffer. -/
  | bar0SnapshotRead (requester slot : Nat) (be : BitVec 8)
  /-- BAR0_CROSSING_ACCESS (R72). A BAR0 access that spans slots is not executed and is logged with 0x0F. -/
  | bar0CrossingAccess (requester slot : Nat) (write : Bool) (data : Nat)
  /-- BAR0_UNSUPPORTED_REQUEST (R68). A BAR0 request other than a memory read or write completes as Unsupported Request. -/
  | bar0UnsupportedRequest (requester : Nat)
  /-- LOG_CLEAR (R78). A write of LOG_CLEAR invalidates every record and zeroes LOG_TOTAL and LOG_NEXT. -/
  | logClear (p : Path) (value : Nat)
  /-- BP_TARGET (R75). A write of BP_TARGET loads the block buffer from the target and resets BP_OFFSET to 0. -/
  | bpTarget (p : Path) (value : Nat)
  /-- BP_DATA (R75). A read or write of BP_DATA moves 8 bytes at BP_OFFSET, then advances the offset. -/
  | bpData (p : Path) (data : Option Nat)
  /-- BP_COMMIT (R75). A write of BP_COMMIT applies the whole block buffer to its target, under the target's rules. -/
  | bpCommit (p : Path) (value : Nat)
  /-- POST_DONE (R76). A posted transfer into a domain completes, and the domain's busy bit clears. -/
  | postDone (d : Domain)
  /-- READ (R83). A Pearo Link READ returns item values, or their pending values when PENDING is set. -/
  | read (h : PlHeader) (items : List PlItem)
  /-- WRITE (R83). A Pearo Link WRITE executes each item on its own, in order. -/
  | write (h : PlHeader) (items : List PlItem)
  /-- WRITE_BLOCK (R83). A Pearo Link WRITE_BLOCK checks every item, then executes all of them in one back-end step or none of them. -/
  | writeBlock (h : PlHeader) (items : List PlItem)
  /-- SUBSCRIBE (R87). A Pearo Link SUBSCRIBE creates, changes or cancels a subscription. -/
  | subscribe (h : PlHeader) (period subId mode : Nat) (items : List PlItem)
  /-- PUBLICATION (R87). At a subscription's period or on-change comparison the part publishes the sampled values. -/
  | publication (subId : Nat)
  /-- ANNOUNCE (R88). An ANNOUNCE received from a part or host records or refreshes that partner in the partner table. -/
  | announce (port : EthPort) (r : AnnounceRec)
  /-- ANNOUNCE_SEND (R88). Each Datum second the part sends an ANNOUNCE on every enabled port. -/
  | announceSend
  /-- PARTNER_LOST (R88). A partner from which no announce has come for 3.5 s is marked lost, and the PARTNER_LOST producer pulses. -/
  | partnerLost (i : Fin 32) (at_ : Cyc)
  /-- DISCOVER (R88). A DISCOVER request schedules a unicast ANNOUNCE reply. -/
  | discover (h : PlHeader)
  /-- DISCOVER_REPLY (R88). The DISCOVER reply is sent after a delay of SERIAL mod 100 ms. -/
  | discoverReply
  /-- FIRE_REQUEST (R91). A Pearo Link FIRE fires the masked event channels at once, or at AT_TICK. -/
  | fireRequest (h : PlHeader) (mask atTick : Nat) (at_ : Cyc)
  /-- ATTEST (R92). A Pearo Link ATTEST returns the attestation report in fragments, or starts signing for a new nonce. -/
  | attest (h : PlHeader) (nonce resume : Nat)
  /-- LLDP_SEND (R90). Every 30 s each enabled port sends an LLDPDU. -/
  | lldpSend (port : EthPort)
  /-- LLDP_RECEIVE (R90). A received LLDPDU records its neighbour's chassis ID, port ID, system name and TTL. -/
  | lldpReceive (port : EthPort) (r : LldpRec)
  /-- PTP_SYNC_EXCHANGE (R32). A PTP Sync exchange gives one measurement, which steers the Datum and may change TIME_STATE. -/
  | ptpSyncExchange (port : EthPort) (h : PtpHead) (offset meanPath : Int) (at_ : Cyc)
  /-- PTP_ANNOUNCE_RECEIVE (R29). A PTP announce feeds the best master clock algorithm and the port selection. -/
  | ptpAnnounceReceive (port : EthPort) (h : PtpHead) (r : PtpAnnounce)
  /-- PTP_MASTER_LOST (R29). After three missed announces the master counts as lost, and the part switches port or enters HOLDOVER. -/
  | ptpMasterLost (port : EthPort) (at_ : Cyc)
  /-- PPS_IN_EDGE (R31). A PPS_IN rising edge marks a whole TAI second, or is ignored and counted when it lies more than 1 us from its prediction. -/
  | ppsInEdge (err dev : Int) (at_ : Cyc)
  /-- PPS_IN_MISSING (R31). Three missing or rejected PPS edges in a row count as loss of PPS. -/
  | ppsInMissing (at_ : Cyc)
  /-- HOLDOVER_LIMIT (R33). When TIME_ERROR_EST in HOLDOVER exceeds HOLDOVER_LIMIT, the Datum falls to FREE. -/
  | holdoverLimit (at_ : Cyc)
  /-- SLEW_END (R36). The slew has removed the offset, and SLEWING clears. -/
  | slewEnd
  /-- DATUM_STEP (R35). A pending step is applied at the first tick on which all groups are stopped, and it realigns the Graticule. -/
  | datumStep
  /-- REFIN_LOST (R55). Loss of REFIN puts the Datum in HOLDOVER on the internal oscillator and refuses starts with ADM-13. -/
  | refinLost (at_ : Cyc)
  /-- REFIN_RETURN (R56). On the return of REFIN the synthesizer relocks onto it without a step, and the remaining error is slewed out. -/
  | refinReturn (offset : Int)
  /-- SAMPLE_CLOCK_LOST (R22). Loss of the sample clock parks every output, stops every group and releases its plans. -/
  | sampleClockLost (at_ : Cyc)
  /-- TICK_DRIFT_MEASURE (R40). Each second in SCLK mode the part measures the drift of tick instants and sets SCLK_MISMATCH above 400 ps. -/
  | tickDriftMeasure (drift sclkPpb : Int)
  /-- FS_KHZ_WRITE (R39). An accepted write of FS_KHZ starts a relock of the sample clock synthesizer, with the outputs parked. -/
  | fsKhzWrite (p : Path) (value : Nat)
  /-- CLOCK_RELOCKED (R39). The sample clock synthesizer completes its relock. -/
  | clockRelocked
  /-- EPOCH_WRITE (R41). An accepted write of EPOCH renumbers the ticks through a realignment of the Graticule. -/
  | epochWrite (p : Path) (value : Nat)
  /-- DATUM_SET (R53). A write of DATUM_SET in free-run steps the Datum. -/
  | datumSet (p : Path) (value : Nat)
  /-- GRATICULE_ALIGNED (R44). Alignment loads k and n at the next whole second, completes, and sets CLOCK_STATE to 0. -/
  | graticuleAligned (second : Nat)
  /-- PPS_OUT_EDGE (R50). At every whole Datum second PPS_OUT rises and the PPS producer pulses. -/
  | ppsOutEdge
  /-- SYNC_IN_EDGE (R48). A follower measures a SYNC_IN edge and trims its sample clock phase toward it, or sets SYNC_ERR. -/
  | syncInEdge (phasePs : Int)
  /-- ALARM_ENABLE (R52). A write of ALARM_ENABLE arms or disarms a time alarm at the next tick boundary. -/
  | alarmEnable (p : Path) (a : AlarmNo) (value : Nat)
  /-- ALARM (R52). A time alarm fires at ALARM_TIME as a capture, or at each period after it. -/
  | alarm (a : AlarmNo)
  /-- PRESENCE_ASSERT (R65). PRESENCE_N held for 20 ms after 1 s of deassertion opens, or restarts, the 120 s presence window. -/
  | presenceAssert (heldMs releasedMs : Nat)
  /-- PRESENCE_WINDOW_CLOSE (R65). The presence window closes 120 s after it opened. -/
  | presenceWindowClose
  /-- TAMPER (R369). A break of SEAL_LOOP latches a tamper record, closes the presence window and pulses TAMPER. -/
  | tamper (at_ : Cyc)
  /-- EVIO_IN_EDGE (R105). An input edge accepted after the filter is stamped and pulses the EVIO_IN producer. -/
  | evioInEdge (pin : Pin) (rising : Bool) (offset : Nat) (held : Nat)
  /-- EVENT_CHANNEL_ASSERT (R99). Producer pulses reach an event channel after resynchronization, and the merged assertion is delivered to every
  subscribed task. -/
  | eventChannelAssert (ec : Ec)
  /-- EVIO_PULSE_END (R106). A pulse-mode output returns low when EVIO_OUT_WIDTH samples have passed. -/
  | evioPulseEnd (pin : Pin)
  /-- FIRE_MASK (R109). A commit of FIRE_MASK fires the selected channels at once, or schedules a timed firing. -/
  | fireMask (p : Path) (mask : Nat) (at_ : Cyc)
  /-- TIMED_FIRE (R111). A timed software firing asserts in core cycle 0 of FIRE_AT_TICK, or is discarded by a step or realignment. -/
  | timedFire
  /-- SEG_DESC_WRITE (R115). A commit of SEG_DESC checks the whole record and its use, and accepts or refuses it. -/
  | segDescWrite (p : Path) (d value : Nat)
  /-- EDGE_STORE_WRITE (R134). A write of EDGE_STORE is refused whole if it changes an entry in use, and otherwise takes effect at the next tick. -/
  | edgeStoreWrite (p : Path) (data : List Byte)
  /-- BAR4_WRITE (R131). A BAR4 write goes to DRAM at AP_BASE + offset, with bytes in use or beyond the DRAM refused. -/
  | bar4Write (offset : Nat) (data : List (Option Byte))
  /-- BAR4_READ (R130). A BAR4 read returns DRAM bytes, and zeros beyond AP_DRAM_SIZE or in pages not yet filled. -/
  | bar4Read (offset len : Nat)
  /-- LD_GO (R132). A write of LD_GO checks the block and starts a load DMA at the first tick boundary. -/
  | ldGo (p : Path) (value : Nat)
  /-- LOAD_DMA_DONE (R132). A load block ends with LD_STATE 2, 4 or 5 and raises LD_MSIX. -/
  | loadDmaDone (source : List Byte) (hostOk : Bool)
  /-- UP_DATA (R133). A committed upload chunk is written at UP_ADDR, UP_ADDR advances, and UP_CRC accumulates. -/
  | upData (p : Path) (data : List Byte)
  /-- TONE_GATE_MUTE (R198). At its J0 a MUTE pulse sets the effective amplitude of the gated tones to zero. -/
  | toneGateMute (c : Chan)
  /-- TONE_GATE_UNMUTE (R198). At its J0 an UNMUTE pulse restores the amplitude in force of the gated tones. -/
  | toneGateUnmute (c : Chan)
  /-- PACED_PUSH (R200). A write of PACED_PUSH appends a checked entry to the paced queue. -/
  | pacedPush (p : Path) (c : Chan) (entry : Nat)
  /-- PACED_FLUSH (R202). A write of PACED_FLUSH discards every waiting paced entry. -/
  | pacedFlush (p : Path) (c : Chan) (value : Nat)
  /-- PACED_APPLY (R201). At a grid or event instant the head entry of the paced queue is applied, or the instant counts as starved. -/
  | pacedApply (c : Chan)
  /-- ARM (R205). LG_CMD ARM admits the group's configuration and reserves its resources. -/
  | arm (p : Path) (g : Grp)
  /-- START (R205). LG_CMD START arms the group if it is not armed and schedules the start of all members. -/
  | start (p : Path) (g : Grp)
  /-- STOP (R205). LG_CMD STOP schedules the stop of all members. -/
  | stop (p : Path) (g : Grp)
  /-- RESTART (R205). LG_CMD RESTART re-admits the group and schedules a stop and start at one boundary. -/
  | restart (p : Path) (g : Grp)
  /-- STROBE (R205). LG_CMD STROBE schedules the load strobe at the earliest tick. -/
  | strobe (p : Path) (g : Grp)
  /-- DISARM (R205). LG_CMD DISARM releases the group's reservation. -/
  | disarm (p : Path) (g : Grp)
  /-- LG_STROBE_AT (R208). A write of LG_STROBE_AT schedules or cancels the group's one strobe. -/
  | lgStrobeAt (p : Path) (g : Grp) (tick : Nat)
  /-- GROUP_START (R141). At the start tick all members begin at TRV_ENTRY, the DAC takes over, and LG_START pulses. -/
  | groupStart (g : Grp)
  /-- GROUP_STOP (R141). At the first stopped tick all members stop and park, leads retract, and LG_STOP pulses. -/
  | groupStop (g : Grp)
  /-- GROUP_RESTART (R206). At one boundary all members stop and start again under the new reservation. -/
  | groupRestart (g : Grp)
  /-- LOAD_STROBE (R207). The load strobe commits the group's Live writes at sample 0 of its tick and pulses LG_STROBE. -/
  | loadStrobe (g : Grp)
  /-- OUTPUT_PARK (R217). A pulse to the output park task parks the output at mid-scale from tick k+3. -/
  | outputPark (c : Chan)
  /-- SPAN_RAMP_START (R220). At tick a+2 the park driver begins its linear ramp to the new mid-scale. -/
  | spanRampStart (c : Chan)
  /-- SPAN_RAMP_END (R220). At tick a+R+2 the ramp ends, and the new mid-scale is held. -/
  | spanRampEnd (c : Chan)
  /-- SPAN_READY (R221). At tick a+R+3 the span is ready and the group may start. -/
  | spanReady (c : Chan)
  /-- CHANNEL_FAULT (R225). A detected fault cause sets FAULT_CAUSE, pulses FAULT, stops the sequencer, and parks the channel from the next tick. -/
  | channelFault (c : Chan) (cause : Fin 5) (at_ : Cyc)
  /-- FAULT_CLEAR (R226). A write of FAULT_CLEAR clears every bit of FAULT_CAUSE. -/
  | faultClear (p : Path) (c : Chan) (value : Nat)
  /-- VDDO_LOW (R218). VDDO below 1.6 V opens every hand-off switch within 1 us. -/
  | vddoLow
  /-- TRIM_SWAP (R228). Every 80,000 ticks the trim loop swaps the trimmed spare cell into the next active position. -/
  | trimSwap
  /-- TRIM_FREEZE_REQ (R229). A write of TRIM_FREEZE_REQ starts or ends a freeze of the swaps on one channel. -/
  | trimFreezeReq (p : Path) (c : Chan) (ms : Nat)
  /-- TRIM_FREEZE_END (R229). A trim freeze ends when its L ms have passed. -/
  | trimFreezeEnd (c : Chan)
  /-- TRIM_FORCED (R230). A cell estimate that reaches 0.5 LSB ends the freeze at the next swap tick and pulses MARGIN. -/
  | trimForced (c : Chan) (estimate : Nat) (at_ : Cyc)
  /-- WATCH_READING (R237). Each tick each monitor converter reads one channel at its scheduled offset, or blanks the reading. -/
  | watchReading (w : Fin 16) (outP outN : Int) (refOk : Bool)
  /-- WATCH_VERDICT (R242). At core cycle 5 the reading is compared, classes are judged, and the strongest action of the classes that reached a
  verdict is applied. -/
  | watchVerdict (c : Chan)
  /-- WATCH_CAUSE_CLEAR (R245). Writing 1 to a bit of WATCH_CAUSE clears it and re-arms its class. -/
  | watchCauseClear (p : Path) (c : Chan) (mask : Nat)
  /-- SQ_ENABLE (R257). A write of SQ_ENABLE enables or disables a queue and resets its positions and counts. -/
  | sqEnable (p : Path) (q : Queue) (value : Nat)
  /-- DB_TAIL (R257). A DB_TAIL doorbell write posts descriptors, or puts the queue into host error. -/
  | dbTail (offset : Nat) (access : Bar2Access)
  /-- STREAM_DESC_FETCH (R255). The part fetches posted descriptors in batches and pulls their buffers into the ring where there is room. -/
  | streamDescFetch (q : Queue) (descs : List StreamDesc) (at_ : Cyc)
  /-- STREAM_DESC_COMPLETE (R258). A descriptor completes once SQ_WRITTEN passes its last byte, with the write-back and MSI-X that follow. -/
  | streamDescComplete (q : Queue)
  /-- COMPLETION_TIMEOUT (R268). A PCIe read receives no completion within the timeout, and four in a row lose the host. -/
  | completionTimeout (q : Queue)
  /-- HOST_LOST (R268). DL_Down, a hot reset, D3hot or repeated timeouts mark the host lost and stop every PCIe-fed queue. -/
  | hostLost (event : HostEvent)
  /-- SQ_NET_DATA (R259). A committed network stream object is appended at SQ_WRITTEN, or refused when the ring has no room. -/
  | sqNetData (p : Path) (q : Queue) (data : List Byte)
  /-- SQ_FLUSH (R254). A write of SQ_FLUSH sets all positions of the queue to SQ_WRITTEN and discards the descriptors not yet fetched. -/
  | sqFlush (p : Path) (q : Queue) (value : Nat)
  /-- DRAM_TRAINING_DONE (R273). Initial training completes, or falls back a speed grade, or fails at DDR5-4800. -/
  | dramTrainingDone (speed : Nat) (r : TrainingResult)
  /-- DRAM_REQUEST (R276). An access is split into 64-byte requests that enter the port queues with deadlines. -/
  | dramRequest (port : Fin 5) (now deadline addr len : Nat) (data : Option (List Byte))
  /-- DRAM_COMMAND_SLOT (R277). In each command slot a sub-channel issues the first eligible command in the order of the pick. -/
  | dramCommandSlot (p : SubCh) (now : Nat) (ecc : EccOutcome) (sampled : Bool) (at_ : Cyc)
  /-- ROW_IDLE_CLOSE (R278). A bank whose open row has been idle for MEM_IDLE_CLOSE clocks is precharged. -/
  | rowIdleClose (p : SubCh) (rank bank now : Nat)
  /-- REFRESH_DUE (R283). A rank's refresh falls due; it is issued, postponed, or forced on the fourth postponement. -/
  | refreshDue (p : SubCh) (rank now : Nat)
  /-- DEVICE_TEMP_READ (R272). Every 16 ms the devices' refresh-rate field is read, and tREFI is halved above 85 C. -/
  | deviceTempRead (p : SubCh) (rank : Nat) (hot : Bool)
  /-- DQS_OSC_READ (R287). Every 1 ms a sub-channel reads its DQS oscillator and estimates its drift. -/
  | dqsOscRead (p : SubCh) (driftPs now : Nat) (at_ : Cyc)
  /-- RETRAIN_PAUSE (R288). A sub-channel takes a retraining pause when its interval expires or its drift reaches the margin. -/
  | retrainPause (p : SubCh) (now : Nat) (at_ : Cyc)
  /-- QUIET_REQ (R289). A write of QUIET_REQ opens a quiet window, or ends an open one. -/
  | quietReq (p : Path) (ms : Nat)
  /-- QUIET_WINDOW_END (R289). A quiet window ends when its L ms have passed, and the sub-channels take their pauses in order. -/
  | quietWindowEnd
  /-- SELF_REFRESH_ENTER (R292). With no admitted flow and MEM_SR_IDLE elapsed, the controller enters self-refresh. -/
  | selfRefreshEnter (now : Nat)
  /-- SELF_REFRESH_EXIT (R293). A request or an arming makes the controller exit self-refresh within 2,000 ns. -/
  | selfRefreshExit (now : Nat)
  /-- ALERT_N (R294). A parity alert stops the DDR channel and replays its unconfirmed commands; a third alert fails the memory. -/
  | alertN (channel : Fin 4) (at_ : Cyc)
  /-- SCRUB (R298). Scrub reads lines on port P4 and writes corrected lines back. -/
  | scrub (addr : Nat) (ecc : EccOutcome)
  /-- ZERO_FILL (R301). The zero-fill writes encrypted zero lines page by page, ring regions first. -/
  | zeroFill
  /-- ZERO_FILL_DONE (R301). When every page is filled, ZF_STATE reads 0 and ZF_DONE_TICK is recorded. -/
  | zeroFillDone
  /-- ADMISSION_VERDICT (R321). The admission engine evaluates a snapshot and accepts it with a reservation or refuses it with an ADM code. -/
  | admissionVerdict (shadowCode shadowDigest : Nat) (at_ : Cyc)
  /-- HEARTBEAT_SEND (R330). In core cycle 0 of each tick a paired part sends its heartbeat with its digest and fitness. -/
  | heartbeatSend
  /-- HEARTBEAT_RECEIVE (R328). A heartbeat from the twin is received and records the twin's state and fitness. -/
  | heartbeatReceive (h : Heartbeat)
  /-- TWIN_LOST (R328). HB_MISS missed heartbeats lose the twin and pulse PARTNER_LOST. -/
  | twinLost (at_ : Cyc)
  /-- CAPTURE_LOG_SEND (R331). The active part sends the capture log of tick k from core cycle 3 of tick k+1. -/
  | captureLogSend
  /-- CAPTURE_LOG_RECEIVE (R331). The shadow receives a capture log and uses it as the input of its capture stage. -/
  | captureLogReceive (tick : Nat) (records : List LogRecord) (at_ : Cyc)
  /-- LOST_TICK (R331). A log incomplete at core cycle 12 makes the shadow decide from its own captures and pulse MIRROR_LOST_TICK. -/
  | lostTick
  /-- MIRROR_WRITE_RECORD (R332). A forwarded write record takes effect on both parts at tick e. -/
  | mirrorWriteRecord (index sub value : Nat)
  /-- MIRROR_RING_BYTES (R334). Ring bytes carried in class 4 are written to the shadow's ring, and SQ_MIRRORED advances. -/
  | mirrorRingBytes (q : Queue) (data : List Byte)
  /-- CUTOFF_RECORD (R334). A class 2 cutoff record tells the shadow the SQ_MIRRORED value that the active part judged lateness by. -/
  | cutoffRecord (q : Queue) (units : Nat)
  /-- DIGEST_COMPARE (R335). At core cycle 5 each part compares the partner's digest and mask with its own. -/
  | digestCompare
  /-- DRIVE_IN_CHANGE (R337). A change of DRIVE_IN acts on every hand-off switch at the next sample 0 of a tick. -/
  | driveInChange (asserted : Bool)
  /-- DRIVE_CONTENTION (R338). DRIVE_OUT and DRIVE_IN asserted for a whole tick open both parts' switches and fence the priority-2 part. -/
  | driveContention
  /-- JOIN (R342). PAIR_CMD JOIN makes a fenced or conflicted part attempt a join. -/
  | join (p : Path)
  /-- LEAVE (R343). PAIR_CMD LEAVE sends both parts to state ALONE. -/
  | leave (p : Path)
  /-- HANDOVER (R339). PAIR_CMD HANDOVER schedules a planned takeover by a fit shadow. -/
  | handover (p : Path)
  /-- FORCE (R338). PAIR_CMD FORCE asserts DRIVE_OUT and closes the switches if DRIVE_IN is deasserted. -/
  | force (p : Path)
  /-- DRIVE_RELEASE (R339). At its release cycle in tick T-1 the active part deasserts DRIVE_OUT, or aborts the handover if DRIVE_IN does not
  follow. -/
  | driveRelease (followed : Bool)
  /-- TAKEOVER (R339). At boundary T the switches change over, roles swap, and TAKEOVER pulses. -/
  | takeover
  /-- JOIN_HANDSHAKE (R342). With the link up, the handshake checks the join causes and decides the roles. -/
  | joinHandshake (peer : PeerInfo)
  /-- JOIN_STEP_DONE (R343). A join step completes and the join advances to the next step, or to JOINED. -/
  | joinStepDone (r : Machine.JoinResult)
  /-- POWER_ON (R373). PWR_OK held for 10 ms with the monitored rails in range releases the part from reset. -/
  | powerOn (pwrOkMs : Nat) (railsInRange : Bool)
  /-- RST_N (R344). RST_N asserted resets the part. -/
  | rstN (asserted : Bool)
  /-- SUPPLY_MONITOR_RESET (R374). VDD, VDDA or VDDO outside its range for 10 us resets the part with cause 6. -/
  | supplyMonitorReset (durationNs : Nat)
  /-- RESET_CMD (R344). A write of RESET_CMD resets the part with cause 3. -/
  | resetCmd (p : Path) (value : Nat)
  /-- STARTUP (R350). After reset the part runs the fast or full start-up sequence until it is ready. -/
  | startup (b : BootInfo)
  /-- FW_IMAGE (R349). A committed FW_IMAGE is verified and written to the slot that is not running. -/
  | fwImage (p : Path) (image : FwSlot)
  /-- FW_ACTIVATE (R349). A write of FW_ACTIVATE names the slot to try first at the next reset. -/
  | fwActivate (p : Path) (value : Nat)
  /-- NV_COMMIT (R352). A write of NV_COMMIT snapshots, signs and writes the user NV image to the inactive slot. -/
  | nvCommit (p : Path) (value : Nat)
  /-- NV_COMMIT_DONE (R352). The NV commit completes when the slot's sequence word is written. -/
  | nvCommitDone
  /-- SHDN_N_ASSERT (R353). SHDN_N asserted hands over or leaves the pair, stops the groups and starts the shutdown self-test. -/
  | shdnNAssert
  /-- SHDN_N_RELEASE (R357). Release of SHDN_N after a shutdown test resets the part with cause 5. -/
  | shdnNRelease
  /-- RUN (R353). ST_CMD RUN starts the self-test. -/
  | run (p : Path)
  /-- ABORT (R355). ST_CMD ABORT stops a running test within 10 ms, leaving the record incomplete. -/
  | abort (p : Path)
  /-- SELFTEST_PHASE_DONE (R353). A self-test phase completes and the next phase begins. -/
  | selftestPhaseDone (r : PhaseResult)
  /-- SELFTEST_END (R357). A test ends complete or aborted, pulses SELFTEST_END, and the part resets or stays quiesced. -/
  | selftestEnd (at_ : Cyc)
  /-- LC_GO (R364). A write of LC_GO starts a permitted lifecycle transition. -/
  | lcGo (p : Path) (value : Nat)
  /-- LC_TRANSITION_DONE (R364). A lifecycle transition completes its wipe and key rotation, takes the target state, and resets. -/
  | lcTransitionDone
  /-- ATT_NONCE (R368). A write of ATT_NONCE discards the report held and starts signing a new one. -/
  | attNonce (p : Path) (nonce : Nat)
  /-- ATT_SIGN_DONE (R368). Signing completes and ATT_STATE reads 2. -/
  | attSignDone
  /-- SAMPLE_CLOCK_RETURN (R22). When the sample clock returns after a loss, CLOCK_STATE leaves LOST, alignment of the Graticule begins, and the
  Watch windows are emptied. -/
  | sampleClockReturn
  /-- SYNC_IN_MISSING (R48). Three missing SYNC_IN edges in a row make a follower ignore SYNC, keep its own Datum phase, and set SYNC_ERR. -/
  | syncInMissing
  /-- POWER_LOSS (R344). Deassertion of PWR_OK, or loss of power, puts the part in reset: the switches open, the marker and EVIO pins go to high
  impedance, and DRIVE_OUT is held from stored charge until the switches are open. -/
  | powerLoss
  /-- PL_RX_BAD (R86). A received Pearo Link frame with a wrong MAGIC, VERSION, CRC or LENGTH, or an unknown OP, is dropped without a reply and
  counted in PL_RX_BAD. -/
  | plRxBad
  /-- FW_UPDATE_DONE (R349). The write of a verified firmware image to the slot that is not running completes, FW_UPDATE_STATE reads done, and in
  boot recovery the part resets with cause 7 after 100 ms. -/
  | fwUpdateDone
  /-- PTP_MASTER_ANNOUNCE (R30). A port elected master sends its periodic Announce messages, advertising the clockClass that the Datum state gives,
  together with its Sync messages. -/
  | ptpMasterAnnounce (port : EthPort)
  /-- WRITE_ONLY_READ (R74). A BAR0 read of a WO entry returns 0 and writes a record with code 0x04 into the abort log. -/
  | writeOnlyRead (requester slot : Nat)
  deriving DecidableEq, Repr

end Sys2Proof
end

