-- ==== Sys2Proof/Decode.lean ====
section
/-!
DEFINITION. The commands that a word of the table's bits spells. No row of spec/opcode_table.json gives bits: the block's commands come
as accesses, frames and events, so no word spells one. (The 128-bit records of Traverse steps are read and written by
Sys2Proof/Machine/Traverse.lean.)
-/

namespace Sys2Proof

/-- The command that a word spells by the table's bits: none, since the table gives no row any bits. [DEDUCED, assumption 17] -/
def decodeTableWord (_nbits _w : Nat) : Option Instr := none

end Sys2Proof
end

