-- ==== Sys2Proof/Machine/Entries.lean ====
section
/-!
DEFINITION. The attributes of every Gazetteer entry (Table 03-1), as the parameter tables of the chapters state them, one row
per entry: first and last subindex, step between the members of an array, type, access, class, default, posting domain,
persistence, guarding, declared range (R58) and what a write does beyond its class. A default the manual leaves open stands
here as 0 and is a choice of the model (assumption 3).
-/

namespace Sys2Proof.Machine

/-- How a record is carried over Pearo Link (R82): as one integer, as a mask, or as a byte string. -/
inductive ByteForm where
  | int
  | mask
  | bytes
  deriving DecidableEq, Repr

/-- The types of Table 03-2. A STR or BLOB carries its length in bytes; a BLOB longer than 32 bytes is a bulk object. TJ_NOW is
given the type I16, which Table 03-2 does not list (assumption 4). -/
inductive Ty where
  | bool
  | u8
  | u16
  | u32
  | u64
  | i16
  | i32
  | i64
  | bits32
  | bits64
  | ftw48
  | time96
  | str (n : Nat)
  | blob (n : Nat) (f : ByteForm)
  | bulk (n : Nat)
  deriving DecidableEq, Repr

/-- Access codes (R59). -/
inductive Acc where
  | ro
  | rw
  | wo
  | wo1
  deriving DecidableEq, Repr

/-- Classes (R60); none for RO entries. -/
inductive Cls where
  | none
  | live
  | staged
  | fixed
  deriving DecidableEq, Repr

/-- The posting domain an entry names (Table 03-9). -/
inductive Dom where
  | none
  | analog
  | ptp
  | serdes
  | phy
  deriving DecidableEq, Repr

/-- Declared ranges (R58): the values a write may carry. keep m states no range: it names the defined bits of a BITS entry, whose other bits a write
leaves as they are (R73). codes2 n is n fields of two bits whose code 3 is refused, with the bits above them; codesKept n is the same of a BITS
entry whose bits above the fields are reserved (R73). -/
inductive Rng where
  | any
  | between (lo hi : Nat)
  | orIn (v lo hi : Nat)
  | signed (lo hi : Int)
  | oneOf (l : List Nat)
  | mult (m : Nat)
  | multIn (m lo hi : Nat)
  | pow2 (lo hi : Nat)
  | masked (m : Nat)
  | keep (m : Nat)
  | codes2 (n : Nat)
  | codesKept (n : Nat)
  | ecOrNone
  | wholeSeconds
  | clipLimits
  | watchStride
  deriving DecidableEq, Repr

/-- What a write of the entry does beyond the rule of its class: nothing, takes effect when written, takes effect in the next
core cycle (R103), clears the bits written as 1 at once, or has an operation of its own. -/
inductive Kind where
  | plain
  | now
  | sub
  | w1c
  | cmd
  deriving DecidableEq, Repr

/-- The attributes of one entry, or of an array of like entries of one index (Table 03-1). -/
structure Entry where
  sub     : Nat
  subEnd  : Nat
  step    : Nat
  ty      : Ty
  acc     : Acc
  cls     : Cls
  dflt    : Nat
  dom     : Dom
  persist : Bool
  guarded : Bool
  rng     : Rng
  kind    : Kind
  deriving DecidableEq, Repr

/-- G:1000 -/
def entries1000 : List Entry := [
  ⟨1, 1, 1, .u32, .ro, .none, 37462, .none, false, false, .any, .plain⟩,  -- PART_NUMBER
  ⟨2, 2, 1, .u8, .ro, .none, 66, .none, false, false, .any, .plain⟩,  -- STEPPING
  ⟨3, 3, 1, .u8, .ro, .none, 0, .none, false, false, .any, .plain⟩,  -- ORDERING
  ⟨4, 4, 1, .u64, .ro, .none, 0, .none, false, false, .any, .plain⟩,  -- SERIAL
  ⟨5, 5, 1, .u32, .ro, .none, 65536, .none, false, false, .any, .plain⟩,  -- GZ_VERSION
  ⟨6, 6, 1, .u32, .ro, .none, 0, .none, false, false, .any, .plain⟩]  -- FW_VERSION

/-- G:1010 -/
def entries1010 : List Entry := [
  ⟨1, 1, 1, .u64, .wo1, .live, 0, .none, false, false, .any, .plain⟩,  -- INSTALL_ID
  ⟨2, 2, 1, .str 32, .wo1, .live, 0, .none, false, false, .any, .plain⟩,  -- ASSET_TAG
  ⟨6, 6, 1, .time96, .wo1, .live, 0, .none, false, false, .any, .plain⟩,  -- COMMISSIONED
  ⟨8, 8, 1, .bits32, .ro, .none, 0, .none, false, false, .any, .plain⟩]  -- WO1_WRITTEN

/-- G:1018 -/
def entries1018 : List Entry := [
  ⟨1, 1, 1, .u32, .ro, .none, 0, .none, false, false, .any, .plain⟩,  -- LOG_TOTAL
  ⟨2, 2, 1, .u8, .ro, .none, 0, .none, false, false, .any, .plain⟩,  -- LOG_NEXT
  ⟨3, 3, 1, .bool, .wo, .live, 0, .none, false, false, .any, .cmd⟩,  -- LOG_CLEAR
  ⟨16, 253, 3, .u64, .ro, .none, 0, .none, false, false, .any, .plain⟩,  -- LOG_WHEN
  ⟨17, 254, 3, .bits64, .ro, .none, 0, .none, false, false, .any, .plain⟩,  -- LOG_WHAT
  ⟨18, 255, 3, .u64, .ro, .none, 0, .none, false, false, .any, .plain⟩]  -- LOG_VALUE

/-- G:10D0 -/
def entries10D0 : List Entry := [
  ⟨1, 1, 1, .u64, .ro, .none, 48000000000, .none, false, false, .any, .plain⟩,  -- INGRESS_CEILING
  ⟨2, 2, 1, .u64, .ro, .none, 400000000, .none, false, false, .any, .plain⟩,  -- NET_STREAM_CEILING
  ⟨3, 3, 1, .u64, .ro, .none, 0, .none, false, false, .any, .plain⟩,  -- INGRESS_NOW
  ⟨4, 4, 1, .u8, .ro, .none, 1, .none, false, false, .any, .plain⟩,  -- HOST_LINK
  ⟨5, 5, 1, .u32, .ro, .none, 0, .none, false, false, .any, .plain⟩,  -- HOST_LOST_COUNT
  ⟨6, 6, 1, .u32, .ro, .none, 0, .none, false, false, .any, .plain⟩,  -- BAR2_BAD
  ⟨7, 7, 1, .bits32, .ro, .none, 0, .none, false, false, .any, .plain⟩,  -- PCIE_LINK
  ⟨8, 8, 1, .u32, .ro, .none, 0, .none, false, false, .any, .plain⟩]  -- CPL_TIMEOUTS

/-- G:10E0 -/
def entries10E0 : List Entry := [
  ⟨1, 1, 1, .u32, .rw, .live, 0, .none, false, false, .any, .cmd⟩,  -- BP_TARGET
  ⟨2, 2, 1, .u32, .rw, .live, 0, .none, false, false, .mult 8, .now⟩,  -- BP_OFFSET
  ⟨3, 3, 1, .u32, .ro, .none, 0, .none, false, false, .any, .plain⟩,  -- BP_LENGTH
  ⟨4, 4, 1, .u64, .rw, .live, 0, .none, false, false, .any, .cmd⟩,  -- BP_DATA
  ⟨5, 5, 1, .bool, .wo, .live, 0, .none, false, false, .any, .cmd⟩,  -- BP_COMMIT
  ⟨6, 6, 1, .u8, .ro, .none, 0, .none, false, false, .any, .plain⟩]  -- BP_STATUS

/-- G:10E4 -/
def entries10E4 : List Entry := [
  ⟨1, 1, 1, .bulk 262144, .rw, .live, 0, .none, false, false, .any, .cmd⟩,  -- EDGE_STORE
  ⟨2, 2, 1, .u32, .ro, .none, 0, .none, false, false, .any, .plain⟩]  -- EDGE_IN_USE

/-- G:10E8 -/
def entries10E8 : List Entry := [
  ⟨1, 1, 1, .u64, .rw, .live, 0, .none, false, false, .any, .now⟩,  -- FIRE_AT_TICK
  ⟨2, 2, 1, .blob 32 .mask, .wo, .live, 0, .none, false, false, .any, .cmd⟩,  -- FIRE_MASK
  ⟨6, 6, 1, .u8, .ro, .none, 0, .none, false, false, .any, .plain⟩,  -- FIRE_PENDING
  ⟨7, 7, 1, .u32, .ro, .none, 0, .none, false, false, .any, .plain⟩,  -- CAPTURE_OVERFLOW
  ⟨8, 8, 1, .bits32, .rw, .live, 0, .none, false, false, .any, .w1c⟩,  -- FABRIC_FLAGS
  ⟨9, 9, 1, .u32, .ro, .none, 0, .none, false, false, .any, .plain⟩]  -- FIRE_DISCARDED

/-- G:10F0 -/
def entries10F0 : List Entry := [
  ⟨1, 10, 1, .bits32, .ro, .none, 0, .none, false, false, .any, .plain⟩]  -- POST_BUSY

/-- G:10F1 -/
def entries10F1 : List Entry := [
  ⟨1, 10, 1, .bits32, .rw, .live, 0, .none, false, false, .any, .w1c⟩]  -- POST_OVERRUN

/-- G:1100 -/
def entries1100 : List Entry := [
  ⟨1, 1, 1, .u16, .rw, .fixed, 47110, .none, true, true, .any, .plain⟩,  -- PL_UDP_PORT
  ⟨2, 2, 1, .u16, .rw, .live, 1400, .none, false, false, .between 576 8972, .plain⟩,  -- PL_MAX_DATAGRAM
  ⟨3, 3, 1, .bits32, .rw, .live, 3, .none, false, false, .keep 0x3, .plain⟩,  -- PL_ANNOUNCE
  ⟨4, 4, 1, .u32, .rw, .fixed, 4026513418, .none, true, false, .any, .plain⟩,  -- PL_ANNOUNCE_V4
  ⟨5, 5, 1, .bits32, .rw, .live, 3, .none, false, false, .keep 0x3, .plain⟩,  -- LLDP_ENABLE
  ⟨6, 6, 1, .str 32, .rw, .fixed, 0, .none, true, true, .any, .plain⟩,  -- HOSTNAME
  ⟨10, 10, 1, .u8, .ro, .none, 0, .none, false, false, .any, .plain⟩,  -- SUBS_ACTIVE
  ⟨11, 11, 1, .u32, .ro, .none, 0, .none, false, false, .any, .plain⟩,  -- PL_RX_BAD
  ⟨12, 12, 1, .u32, .ro, .none, 0, .none, false, false, .any, .plain⟩,  -- PL_DUPLICATES
  ⟨13, 13, 1, .u32, .ro, .none, 0, .none, false, false, .any, .plain⟩]  -- PARTNERS_DROPPED

/-- G:1101 to G:1102 -/
def entries1101 : List Entry := [
  ⟨1, 1, 1, .u64, .ro, .none, 0, .none, false, false, .any, .plain⟩,  -- MAC
  ⟨2, 2, 1, .u8, .rw, .fixed, 0, .serdes, true, false, .between 0 1, .plain⟩,  -- LINK_MODE
  ⟨3, 3, 1, .u32, .rw, .fixed, 0, .none, true, true, .any, .plain⟩,  -- IPV4_ADDR
  ⟨4, 4, 1, .u8, .rw, .fixed, 24, .none, true, true, .between 1 31, .plain⟩,  -- IPV4_PREFIX
  ⟨5, 5, 1, .u32, .rw, .fixed, 0, .none, true, true, .any, .plain⟩,  -- IPV4_GATEWAY
  ⟨6, 6, 1, .blob 16 .bytes, .rw, .fixed, 0, .none, true, true, .any, .plain⟩,  -- IPV6_ADDR
  ⟨8, 8, 1, .u8, .rw, .fixed, 64, .none, true, true, .any, .plain⟩,  -- IPV6_PREFIX
  ⟨9, 9, 1, .bool, .ro, .none, 0, .none, false, false, .any, .plain⟩]  -- LINK_UP

/-- G:1110 to G:112F -/
def entries1110 : List Entry := [
  ⟨1, 1, 1, .u8, .ro, .none, 0, .none, false, false, .any, .plain⟩,  -- P_KIND
  ⟨2, 2, 1, .u64, .ro, .none, 0, .none, false, false, .any, .plain⟩,  -- P_IDENTITY
  ⟨3, 3, 1, .blob 16 .bytes, .ro, .none, 0, .none, false, false, .any, .plain⟩,  -- P_ADDRESS
  ⟨5, 5, 1, .u8, .ro, .none, 0, .none, false, false, .any, .plain⟩,  -- P_PORT
  ⟨6, 6, 1, .u64, .ro, .none, 0, .none, false, false, .any, .plain⟩,  -- P_LAST_TICK
  ⟨7, 7, 1, .u8, .ro, .none, 0, .none, false, false, .any, .plain⟩,  -- P_STATE
  ⟨8, 8, 1, .u8, .ro, .none, 0, .none, false, false, .any, .plain⟩]  -- P_ROLE

/-- G:1140 to G:1141, whose subindices the manual does not give. [PRESUMED, assumption 97] -/
def entries1140 : List Entry := [
  ⟨1, 1, 1, .blob 32 .bytes, .ro, .none, 0, .none, false, false, .any, .plain⟩,  -- chassis ID
  ⟨5, 5, 1, .blob 32 .bytes, .ro, .none, 0, .none, false, false, .any, .plain⟩,  -- port ID
  ⟨9, 9, 1, .str 32, .ro, .none, 0, .none, false, false, .any, .plain⟩,  -- system name
  ⟨13, 13, 1, .u16, .ro, .none, 0, .none, false, false, .any, .plain⟩]  -- remaining TTL in seconds

/-- G:1200 -/
def entries1200 : List Entry := [
  ⟨1, 1, 1, .bits32, .rw, .staged, 3, .ptp, false, false, .keep 0x3, .plain⟩,  -- PTP_PORTS
  ⟨2, 2, 1, .u8, .rw, .staged, 0, .ptp, false, false, .between 0 1, .plain⟩,  -- PTP_ROLE
  ⟨3, 3, 1, .u8, .rw, .staged, 1, .ptp, false, false, .between 0 1, .plain⟩,  -- PTP_PROFILE
  ⟨4, 4, 1, .u8, .rw, .staged, 0, .ptp, false, false, .between 0 127, .plain⟩,  -- PTP_DOMAIN
  ⟨5, 5, 1, .u8, .rw, .staged, 0, .ptp, false, false, .between 0 2, .plain⟩,  -- PTP_TRANSPORT
  ⟨6, 6, 1, .u8, .rw, .staged, 128, .ptp, false, false, .any, .plain⟩,  -- PTP_PRIORITY1
  ⟨7, 7, 1, .u8, .rw, .staged, 128, .ptp, false, false, .any, .plain⟩,  -- PTP_PRIORITY2
  ⟨8, 8, 1, .i32, .rw, .staged, 0, .ptp, false, false, .any, .plain⟩,  -- PTP_ASYM_A
  ⟨9, 9, 1, .i32, .rw, .staged, 0, .ptp, false, false, .any, .plain⟩,  -- PTP_ASYM_B
  ⟨10, 10, 1, .u8, .ro, .none, 0, .ptp, false, false, .any, .plain⟩,  -- PTP_STATE
  ⟨11, 11, 1, .i64, .ro, .none, 0, .ptp, false, false, .any, .plain⟩,  -- PTP_OFFSET
  ⟨12, 12, 1, .i64, .ro, .none, 0, .ptp, false, false, .any, .plain⟩,  -- PTP_MEAN_PATH
  ⟨13, 13, 1, .u8, .ro, .none, 0, .ptp, false, false, .any, .plain⟩,  -- PTP_SELECTED
  ⟨14, 14, 1, .u64, .ro, .none, 0, .ptp, false, false, .any, .plain⟩,  -- PTP_GM_IDENTITY
  ⟨15, 15, 1, .u16, .ro, .none, 0, .ptp, false, false, .any, .plain⟩,  -- PTP_STEPS_REMOVED
  ⟨16, 16, 1, .i32, .rw, .staged, 4294967293, .ptp, false, false, .signed (-7) 0, .plain⟩]  -- PTP_LOG_SYNC

/-- G:1210 -/
def entries1210 : List Entry := [
  ⟨1, 1, 1, .u8, .rw, .staged, 0, .none, false, false, .between 0 2, .cmd⟩,  -- TIME_SOURCE
  ⟨2, 2, 1, .u8, .rw, .fixed, 0, .none, false, false, .between 0 1, .plain⟩,  -- REFIN_FREQ
  ⟨3, 3, 1, .bool, .rw, .staged, 0, .none, false, false, .any, .cmd⟩,  -- SCLK_SELECT
  ⟨4, 4, 1, .i32, .rw, .staged, 0, .none, false, false, .any, .plain⟩,  -- PPS_IN_DELAY
  ⟨5, 5, 1, .u64, .wo, .live, 0, .none, false, false, .any, .cmd⟩,  -- PPS_SECONDS_NEXT
  ⟨6, 6, 1, .u8, .rw, .live, 1, .none, false, false, .between 0 2, .plain⟩,  -- PPS_OUT_MODE
  ⟨7, 7, 1, .u32, .rw, .live, 1000000, .none, false, false, .between 100 500000000, .plain⟩,  -- PPS_OUT_WIDTH
  ⟨8, 8, 1, .u8, .rw, .staged, 0, .none, false, false, .between 0 3, .cmd⟩,  -- SYNC_MODE
  ⟨9, 9, 1, .i32, .rw, .staged, 0, .none, false, false, .any, .plain⟩,  -- SYNC_IN_DELAY
  ⟨10, 10, 1, .u32, .rw, .staged, 10000, .none, false, false, .any, .plain⟩,  -- HOLDOVER_STABILITY
  ⟨11, 11, 1, .u32, .rw, .staged, 1000, .none, false, false, .any, .plain⟩,  -- HOLDOVER_LIMIT
  ⟨12, 12, 1, .u32, .rw, .staged, 100, .none, false, false, .between 1 50000, .plain⟩,  -- SLEW_MAX
  ⟨13, 13, 1, .u32, .rw, .staged, 1000, .none, false, false, .any, .plain⟩,  -- STEP_THRESHOLD
  ⟨14, 14, 1, .u8, .ro, .none, 0, .none, false, false, .any, .plain⟩,  -- TIME_STATE
  ⟨15, 15, 1, .u32, .ro, .none, 0xFFFFFFFF, .none, false, false, .any, .plain⟩,  -- TIME_ERROR_EST
  ⟨16, 16, 1, .bits32, .ro, .none, 0, .none, false, false, .any, .plain⟩,  -- TIME_FLAGS
  ⟨17, 17, 1, .bits32, .rw, .live, 0, .none, false, false, .any, .w1c⟩,  -- TIME_STICKY
  ⟨18, 18, 1, .i32, .rw, .live, 37, .none, false, false, .any, .plain⟩]  -- UTC_OFFSET

/-- G:1220 -/
def entries1220 : List Entry := [
  ⟨1, 1, 1, .time96, .rw, .staged, 0, .none, false, false, .wholeSeconds, .cmd⟩,  -- EPOCH
  ⟨3, 3, 1, .u32, .rw, .staged, 1250000, .none, false, false, .between 500000 1250000, .cmd⟩,  -- FS_KHZ
  ⟨4, 4, 1, .u32, .ro, .none, 5000000, .none, false, false, .any, .plain⟩,  -- TICKS_PER_SECOND
  ⟨5, 5, 1, .time96, .ro, .none, 0, .none, false, false, .any, .plain⟩,  -- DATUM_NOW
  ⟨7, 7, 1, .time96, .wo, .staged, 0, .none, false, false, .any, .cmd⟩,  -- DATUM_SET
  ⟨9, 9, 1, .u64, .ro, .none, 0, .none, false, false, .any, .plain⟩,  -- TICK_NOW
  ⟨10, 10, 1, .u64, .ro, .none, 0, .none, false, false, .any, .plain⟩,  -- SAMPLE_NOW
  ⟨11, 11, 1, .u8, .ro, .none, 1, .none, false, false, .any, .plain⟩,  -- CLOCK_STATE
  ⟨12, 12, 1, .u32, .ro, .none, 0, .none, false, false, .any, .plain⟩,  -- PIPE_COMP
  ⟨13, 13, 1, .i32, .ro, .none, 0, .none, false, false, .any, .plain⟩]  -- TICK_DRIFT

/-- G:1230 to G:123F -/
def entries1230 : List Entry := [
  ⟨1, 1, 1, .time96, .rw, .live, 0, .none, false, false, .any, .cmd⟩,  -- ALARM_TIME
  ⟨3, 3, 1, .u64, .rw, .live, 0, .none, false, false, .orIn 0 250 18446744073709551615, .plain⟩,  -- ALARM_PERIOD
  ⟨4, 4, 1, .bool, .rw, .live, 0, .none, false, false, .any, .cmd⟩,  -- ALARM_ENABLE
  ⟨5, 5, 1, .bits32, .ro, .none, 0, .none, false, false, .any, .plain⟩,  -- ALARM_STATUS
  ⟨6, 6, 1, .u32, .ro, .none, 0, .none, false, false, .any, .plain⟩]  -- ALARM_COUNT

/-- G:1300 to G:13FF -/
def entries1300 : List Entry := [
  ⟨1, 16, 1, .u16, .rw, .live, 65535, .none, true, false, .orIn 0xFFFF 0 0xEFF, .sub⟩,  -- EC_PROD
  ⟨17, 17, 1, .u16, .rw, .live, 65535, .none, true, false, .ecOrNone, .sub⟩,  -- EC_MSIX
  ⟨18, 18, 1, .u32, .ro, .none, 0, .none, false, false, .any, .plain⟩,  -- EC_COUNT
  ⟨19, 19, 1, .u32, .ro, .none, 0, .none, false, false, .any, .plain⟩,  -- EC_COALESCE
  ⟨20, 20, 1, .u32, .ro, .none, 0, .none, false, false, .any, .plain⟩,  -- EC_LOOP_DROPS
  ⟨21, 21, 1, .blob 16 .int, .ro, .none, 0, .none, false, false, .any, .plain⟩,  -- EC_LAST
  ⟨23, 23, 1, .bits32, .rw, .live, 0, .none, false, false, .any, .w1c⟩,  -- EC_FLAGS
  ⟨24, 24, 1, .u16, .ro, .none, 0, .none, false, false, .any, .plain⟩]  -- EC_SUBSCRIBERS

/-- G:1400 to G:14FF -/
def entries1400 : List Entry := [
  ⟨1, 1, 1, .u8, .rw, .staged, 0, .none, true, false, .between 0 1, .plain⟩,  -- EVIO_DIR
  ⟨2, 2, 1, .u8, .rw, .live, 1, .none, false, false, .between 0 3, .plain⟩,  -- EVIO_EDGE
  ⟨3, 3, 1, .u8, .rw, .live, 0, .none, false, false, .between 0 15, .plain⟩,  -- EVIO_FILTER
  ⟨4, 4, 1, .u8, .rw, .live, 0, .none, false, false, .between 0 2, .plain⟩,  -- EVIO_OUT_MODE
  ⟨5, 5, 1, .u16, .rw, .live, 8, .none, false, false, .between 1 2500, .plain⟩,  -- EVIO_OUT_WIDTH
  ⟨6, 6, 1, .u16, .rw, .live, 65535, .none, false, false, .ecOrNone, .sub⟩,  -- EVIO_SUB_SET
  ⟨7, 7, 1, .u16, .rw, .live, 65535, .none, false, false, .ecOrNone, .sub⟩,  -- EVIO_SUB_CLEAR
  ⟨8, 8, 1, .bool, .rw, .live, 0, .none, false, false, .any, .plain⟩,  -- EVIO_REFLEX_EXACT
  ⟨9, 9, 1, .bool, .ro, .none, 0, .none, false, false, .any, .plain⟩,  -- EVIO_LEVEL
  ⟨10, 10, 1, .u32, .ro, .none, 0, .none, false, false, .any, .plain⟩,  -- EVIO_EDGES
  ⟨11, 11, 1, .blob 16 .int, .ro, .none, 0, .none, false, false, .any, .plain⟩,  -- EVIO_LAST
  ⟨13, 13, 1, .bits32, .rw, .live, 0, .none, false, false, .any, .w1c⟩]  -- EVIO_FLAGS

/-- G:1500 -/
def entries1500 : List Entry := [
  ⟨1, 1, 1, .u8, .ro, .none, 0, .none, false, false, .any, .plain⟩,  -- MEM_STATE
  ⟨2, 2, 1, .u16, .ro, .none, 0, .none, false, false, .any, .plain⟩,  -- MEM_SPEED
  ⟨3, 3, 1, .u16, .rw, .fixed, 6400, .none, true, false, .oneOf [4800, 5600, 6400], .plain⟩,  -- MEM_SPEED_MAX
  ⟨4, 4, 1, .u8, .rw, .fixed, 12, .none, true, false, .between 8 16, .plain⟩,  -- MEM_GRAIN
  ⟨5, 5, 1, .u8, .ro, .none, 0, .none, false, false, .any, .plain⟩,  -- MEM_DENSITY
  ⟨6, 6, 1, .u8, .ro, .none, 0, .none, false, false, .any, .plain⟩,  -- MEM_RANKS
  ⟨7, 7, 1, .bits32, .ro, .none, 0, .none, false, false, .any, .plain⟩,  -- MEM_CHANNELS
  ⟨8, 8, 1, .u8, .ro, .none, 0, .none, false, false, .any, .plain⟩,  -- MEM_FAIL_CAUSE
  ⟨9, 9, 1, .u16, .rw, .staged, 64, .none, true, false, .between 0 1023, .plain⟩,  -- MEM_IDLE_CLOSE
  ⟨10, 10, 1, .u32, .rw, .staged, 100, .none, true, false, .orIn 0 10 1000000, .plain⟩,  -- MEM_SR_IDLE
  ⟨11, 11, 1, .u32, .ro, .none, 2000, .none, false, false, .any, .plain⟩,  -- MEM_SR_EXIT_MAX
  ⟨12, 12, 1, .u8, .rw, .staged, 9, .none, true, false, .between 4 16, .plain⟩,  -- MEM_NR_K
  ⟨13, 13, 1, .u8, .rw, .staged, 0, .none, true, false, .between 0 1, .plain⟩,  -- MEM_REFRESH_MODE
  ⟨14, 14, 1, .u32, .ro, .none, 0, .none, false, false, .any, .plain⟩,  -- MEM_LAT_FIXED
  ⟨15, 15, 1, .bits32, .rw, .live, 0, .none, false, false, .any, .w1c⟩,  -- MEM_FLAGS
  ⟨16, 16, 1, .u64, .ro, .none, 0, .none, false, false, .any, .plain⟩]  -- NR_DROPPED

/-- G:1501 -/
def entries1501 : List Entry := [
  ⟨1, 1, 1, .u32, .ro, .none, 3900, .none, false, false, .any, .plain⟩,  -- T_REFI_NS
  ⟨2, 2, 1, .u32, .ro, .none, 0, .none, false, false, .any, .plain⟩,  -- T_RFC_NS
  ⟨3, 3, 1, .u32, .ro, .none, 0, .none, false, false, .any, .plain⟩,  -- T_RFCSB_NS
  ⟨4, 4, 1, .u64, .ro, .none, 0, .none, false, false, .any, .plain⟩,  -- REF_POSTPONED
  ⟨5, 5, 1, .u64, .ro, .none, 0, .none, false, false, .any, .plain⟩,  -- REF_FORCED
  ⟨6, 6, 1, .u64, .ro, .none, 0, .none, false, false, .any, .plain⟩,  -- RT_PAUSES
  ⟨7, 7, 1, .u32, .rw, .staged, 0, .none, true, false, .any, .plain⟩,  -- QUIET_MAX
  ⟨8, 8, 1, .u32, .wo, .live, 0, .none, false, false, .any, .cmd⟩,  -- QUIET_REQ
  ⟨9, 9, 1, .u8, .ro, .none, 0, .none, false, false, .any, .plain⟩,  -- QUIET_STATE
  ⟨10, 10, 1, .u32, .ro, .none, 0, .none, false, false, .any, .plain⟩,  -- REPLAYS
  ⟨11, 11, 1, .u32, .ro, .none, 500, .none, false, false, .any, .plain⟩]  -- REPLAY_MAX_NS

/-- G:1503 -/
def entries1503 : List Entry := [
  ⟨1, 1, 1, .u64, .ro, .none, 0, .none, false, false, .any, .plain⟩,  -- ECC_CORRECTED
  ⟨2, 2, 1, .u32, .ro, .none, 0, .none, false, false, .any, .plain⟩,  -- ECC_UNCORRECTABLE
  ⟨3, 3, 1, .blob 16 .int, .ro, .none, 0, .none, false, false, .any, .plain⟩,  -- UE_LAST
  ⟨5, 5, 1, .u32, .rw, .staged, 86400, .none, true, false, .orIn 0 3600 604800, .plain⟩,  -- SCRUB_PERIOD
  ⟨6, 6, 1, .u32, .ro, .none, 0, .none, false, false, .any, .plain⟩]  -- SCRUB_PASSES

/-- G:1504 -/
def entries1504 : List Entry := [
  ⟨1, 1, 1, .u8, .ro, .none, 1, .none, false, false, .any, .plain⟩,  -- ZF_STATE
  ⟨2, 2, 1, .u64, .ro, .none, 0, .none, false, false, .any, .plain⟩,  -- ZF_FRONTIER
  ⟨3, 3, 1, .u64, .ro, .none, 0, .none, false, false, .any, .plain⟩,  -- ZF_DONE_TICK
  ⟨4, 4, 1, .u32, .ro, .none, 0, .none, false, false, .any, .plain⟩,  -- KEY_DRAWS
  ⟨5, 5, 1, .bits64, .ro, .none, 0, .none, false, false, .any, .plain⟩]  -- ZF_RING_DONE

/-- G:1508 -/
def entries1508 : List Entry := [
  ⟨1, 1, 1, .u32, .ro, .staged, 0, .none, true, false, .between 1 1000000, .plain⟩,  -- PORT_TARGET
  ⟨2, 2, 1, .u8, .ro, .none, 7, .none, false, false, .any, .plain⟩,  -- PORT_CAP
  ⟨3, 3, 1, .u64, .ro, .staged, 0, .none, true, false, .any, .plain⟩,  -- PORT_SHARE
  ⟨4, 4, 1, .u64, .ro, .none, 0, .none, false, false, .any, .plain⟩,  -- PORT_BYTES
  ⟨5, 5, 1, .u32, .ro, .none, 0, .none, false, false, .any, .plain⟩,  -- PORT_LAT_MAX
  ⟨6, 6, 1, .u64, .ro, .none, 0, .none, false, false, .any, .plain⟩,  -- PORT_LATE
  ⟨7, 7, 1, .u32, .ro, .none, 0, .none, false, false, .any, .plain⟩]  -- PORT_SR_WAITS

/-- G:1509 -/
def entries1509 : List Entry := [
  ⟨1, 1, 1, .u32, .rw, .staged, 20, .none, true, false, .between 1 1000000, .plain⟩,  -- PORT_TARGET
  ⟨2, 2, 1, .u8, .ro, .none, 7, .none, false, false, .any, .plain⟩,  -- PORT_CAP
  ⟨3, 3, 1, .u64, .ro, .staged, 0, .none, true, false, .any, .plain⟩,  -- PORT_SHARE
  ⟨4, 4, 1, .u64, .ro, .none, 0, .none, false, false, .any, .plain⟩,  -- PORT_BYTES
  ⟨5, 5, 1, .u32, .ro, .none, 0, .none, false, false, .any, .plain⟩,  -- PORT_LAT_MAX
  ⟨6, 6, 1, .u64, .ro, .none, 0, .none, false, false, .any, .plain⟩,  -- PORT_LATE
  ⟨7, 7, 1, .u32, .ro, .none, 0, .none, false, false, .any, .plain⟩]  -- PORT_SR_WAITS

/-- G:150A -/
def entries150A : List Entry := [
  ⟨1, 1, 1, .u32, .rw, .staged, 20, .none, true, false, .between 1 1000000, .plain⟩,  -- PORT_TARGET
  ⟨2, 2, 1, .u8, .ro, .none, 7, .none, false, false, .any, .plain⟩,  -- PORT_CAP
  ⟨3, 3, 1, .u64, .ro, .staged, 0, .none, true, false, .any, .plain⟩,  -- PORT_SHARE
  ⟨4, 4, 1, .u64, .ro, .none, 0, .none, false, false, .any, .plain⟩,  -- PORT_BYTES
  ⟨5, 5, 1, .u32, .ro, .none, 0, .none, false, false, .any, .plain⟩,  -- PORT_LAT_MAX
  ⟨6, 6, 1, .u64, .ro, .none, 0, .none, false, false, .any, .plain⟩,  -- PORT_LATE
  ⟨7, 7, 1, .u32, .ro, .none, 0, .none, false, false, .any, .plain⟩]  -- PORT_SR_WAITS

/-- G:150B -/
def entries150B : List Entry := [
  ⟨1, 1, 1, .u32, .rw, .staged, 200, .none, true, false, .between 1 1000000, .plain⟩,  -- PORT_TARGET
  ⟨2, 2, 1, .u8, .ro, .none, 5, .none, false, false, .any, .plain⟩,  -- PORT_CAP
  ⟨3, 3, 1, .u64, .rw, .staged, 8000000000, .none, true, false, .any, .plain⟩,  -- PORT_SHARE
  ⟨4, 4, 1, .u64, .ro, .none, 0, .none, false, false, .any, .plain⟩,  -- PORT_BYTES
  ⟨5, 5, 1, .u32, .ro, .none, 0, .none, false, false, .any, .plain⟩,  -- PORT_LAT_MAX
  ⟨6, 6, 1, .u64, .ro, .none, 0, .none, false, false, .any, .plain⟩,  -- PORT_LATE
  ⟨7, 7, 1, .u32, .ro, .none, 0, .none, false, false, .any, .plain⟩]  -- PORT_SR_WAITS

/-- G:150C -/
def entries150C : List Entry := [
  ⟨1, 1, 1, .u32, .rw, .staged, 10000, .none, true, false, .between 1 1000000, .plain⟩,  -- PORT_TARGET
  ⟨2, 2, 1, .u8, .ro, .none, 3, .none, false, false, .any, .plain⟩,  -- PORT_CAP
  ⟨3, 3, 1, .u64, .rw, .staged, 12800000000, .none, true, false, .any, .plain⟩,  -- PORT_SHARE
  ⟨4, 4, 1, .u64, .ro, .none, 0, .none, false, false, .any, .plain⟩,  -- PORT_BYTES
  ⟨5, 5, 1, .u32, .ro, .none, 0, .none, false, false, .any, .plain⟩,  -- PORT_LAT_MAX
  ⟨6, 6, 1, .u64, .ro, .none, 0, .none, false, false, .any, .plain⟩,  -- PORT_LATE
  ⟨7, 7, 1, .u32, .ro, .none, 0, .none, false, false, .any, .plain⟩]  -- PORT_SR_WAITS

/-- G:1510 to G:1517 -/
def entries1510 : List Entry := [
  ⟨1, 1, 1, .u32, .ro, .none, 16, .none, false, false, .any, .plain⟩,  -- SC_RT_INTERVAL
  ⟨2, 2, 1, .u32, .ro, .none, 0, .none, false, false, .any, .plain⟩,  -- SC_DRIFT
  ⟨3, 3, 1, .i32, .rw, .staged, 0, .phy, true, false, .signed (-32) 32, .plain⟩,  -- SC_VREF_TRIM
  ⟨4, 4, 1, .u64, .ro, .none, 0, .none, false, false, .any, .plain⟩,  -- SC_CE
  ⟨5, 5, 1, .u8, .ro, .none, 255, .none, false, false, .any, .plain⟩,  -- SC_CE_DEVICE
  ⟨6, 6, 1, .u8, .ro, .none, 0, .none, false, false, .any, .plain⟩,  -- SC_REF_OWED
  ⟨7, 7, 1, .bool, .ro, .none, 0, .none, false, false, .any, .plain⟩,  -- SC_HOT
  ⟨8, 8, 1, .u32, .ro, .none, 0, .none, false, false, .any, .plain⟩]  -- SC_UTIL

/-- G:1580 -/
def entries1580 : List Entry := [
  ⟨1, 1, 1, .u64, .rw, .live, 0, .none, false, false, .mult 65536, .now⟩,  -- AP_BASE
  ⟨2, 2, 1, .u64, .ro, .none, 0, .none, false, false, .any, .plain⟩,  -- AP_DRAM_SIZE
  ⟨3, 3, 1, .u32, .ro, .none, 0, .none, false, false, .any, .plain⟩,  -- AP_BLOCKED
  ⟨4, 4, 1, .u32, .ro, .none, 0, .none, false, false, .any, .plain⟩]  -- AP_OUTSIDE

/-- G:1584 -/
def entries1584 : List Entry := [
  ⟨1, 1, 1, .u64, .rw, .live, 0, .none, false, false, .mult 64, .plain⟩,  -- LD_HOST
  ⟨2, 2, 1, .u64, .rw, .live, 0, .none, false, false, .mult 64, .plain⟩,  -- LD_DRAM
  ⟨3, 3, 1, .u16, .rw, .live, 0, .none, false, false, .mult 16, .plain⟩,  -- LD_INSET_ADDR
  ⟨4, 4, 1, .u64, .rw, .live, 0, .none, false, false, .any, .plain⟩,  -- LD_LENGTH
  ⟨5, 5, 1, .u8, .rw, .live, 0, .none, false, false, .between 0 4, .plain⟩,  -- LD_TARGET
  ⟨6, 6, 1, .blob 32 .mask, .rw, .live, 0, .none, false, false, .any, .plain⟩,  -- LD_INSET_MASK
  ⟨10, 10, 1, .bool, .wo, .live, 0, .none, false, false, .any, .cmd⟩,  -- LD_GO
  ⟨11, 11, 1, .u8, .ro, .none, 0, .none, false, false, .any, .plain⟩,  -- LD_STATE
  ⟨12, 12, 1, .u64, .ro, .none, 0, .none, false, false, .any, .plain⟩,  -- LD_DONE_BYTES
  ⟨13, 13, 1, .u32, .ro, .none, 0, .none, false, false, .any, .plain⟩,  -- LD_CRC
  ⟨14, 14, 1, .u64, .ro, .none, 0, .none, false, false, .any, .plain⟩,  -- LD_BLOCKED
  ⟨15, 15, 1, .u16, .rw, .live, 65535, .none, false, false, .ecOrNone, .plain⟩]  -- LD_MSIX

/-- G:1588 -/
def entries1588 : List Entry := [
  ⟨1, 1, 1, .u64, .rw, .live, 0, .none, false, false, .mult 64, .plain⟩,  -- UP_ADDR
  ⟨2, 2, 1, .u32, .rw, .live, 65536, .none, false, false, .multIn 64 64 65536, .plain⟩,  -- UP_CHUNK
  ⟨3, 3, 1, .bulk 65536, .wo, .live, 0, .none, false, false, .any, .cmd⟩,  -- UP_DATA
  ⟨4, 4, 1, .u32, .rw, .live, 0, .none, false, false, .any, .plain⟩]  -- UP_CRC

/-- G:1600 -/
def entries1600 : List Entry := [
  ⟨1, 1, 1, .u8, .ro, .none, 0, .none, false, false, .any, .plain⟩,  -- ADM_CODE
  ⟨2, 2, 1, .u8, .ro, .none, 0, .none, false, false, .any, .plain⟩,  -- ADM_COMMAND
  ⟨3, 3, 1, .u8, .ro, .none, 0, .none, false, false, .any, .plain⟩,  -- ADM_GROUP
  ⟨4, 4, 1, .u16, .ro, .none, 65535, .none, false, false, .any, .plain⟩,  -- ADM_CHANNEL
  ⟨5, 5, 1, .u32, .ro, .none, 4294967295, .none, false, false, .any, .plain⟩,  -- ADM_OBJECT
  ⟨6, 6, 1, .u64, .ro, .none, 0, .none, false, false, .any, .plain⟩,  -- ADM_DEMAND
  ⟨7, 7, 1, .u64, .ro, .none, 0, .none, false, false, .any, .plain⟩,  -- ADM_LIMIT
  ⟨8, 8, 1, .u64, .ro, .none, 0, .none, false, false, .any, .plain⟩,  -- ADM_VERDICT_TICK
  ⟨9, 9, 1, .u8, .ro, .none, 0, .none, false, false, .any, .plain⟩,  -- ADM_TWIN_CODE
  ⟨10, 10, 1, .u8, .ro, .none, 0, .none, false, false, .any, .plain⟩,  -- ADM_PENDING
  ⟨11, 11, 1, .u32, .ro, .none, 0, .none, false, false, .any, .plain⟩,  -- ADM_ACCEPTED
  ⟨12, 12, 1, .u32, .ro, .none, 0, .none, false, false, .any, .plain⟩,  -- ADM_REFUSED
  ⟨16, 16, 1, .u64, .ro, .none, 0, .none, false, false, .any, .plain⟩,  -- ADM_DRAM_CEILING
  ⟨17, 17, 1, .u64, .ro, .none, 0, .none, false, false, .any, .plain⟩,  -- ADM_DRAM_RESERVED
  ⟨18, 18, 1, .u64, .ro, .none, 0, .none, false, false, .any, .plain⟩,  -- ADM_INGRESS_RESERVED
  ⟨19, 19, 1, .u64, .ro, .none, 0, .none, false, false, .any, .plain⟩,  -- ADM_MIRROR_CEILING
  ⟨20, 20, 1, .u8, .ro, .none, 0, .none, false, false, .any, .plain⟩,  -- ADM_EVENT_RESERVED
  ⟨21, 21, 1, .u32, .ro, .none, 0, .none, false, false, .any, .plain⟩,  -- ADM_WAIT_NS
  ⟨22, 22, 1, .u8, .ro, .none, 0, .none, false, false, .any, .plain⟩,  -- ADM_LEAD
  ⟨23, 23, 1, .blob 32 .int, .ro, .none, 0x3e82710010000400258000030d403e800300010079e0000eb85, .none, false, false, .any, .plain⟩,  -- ADM_CONSTANTS
  ⟨32, 32, 1, .bulk 256, .rw, .live, (2 ^ 2048 - 1) / 255, .none, true, false, .any, .cmd⟩]  -- EC_LOAD

/-- G:1620 to G:162F -/
def entries1620 : List Entry := [
  ⟨1, 1, 1, .u64, .ro, .none, 0, .none, false, false, .any, .plain⟩,  -- ADM_G_DRAM
  ⟨2, 2, 1, .u64, .ro, .none, 0, .none, false, false, .any, .plain⟩,  -- ADM_G_ENTRY_READY
  ⟨3, 3, 1, .u64, .ro, .none, 0, .none, false, false, .any, .plain⟩]  -- ADM_G_ARMED_TICK

/-- G:1700 -/
def entries1700 : List Entry := [
  ⟨1, 1, 1, .bool, .rw, .fixed, 0, .none, true, true, .any, .plain⟩,  -- PAIR_ENABLE
  ⟨2, 2, 1, .u64, .rw, .fixed, 0, .none, true, true, .any, .plain⟩,  -- PAIR_ID
  ⟨3, 3, 1, .u64, .rw, .fixed, 0, .none, true, true, .any, .plain⟩,  -- PAIR_PEER_SERIAL
  ⟨4, 4, 1, .u8, .rw, .fixed, 1, .none, true, true, .between 1 2, .plain⟩,  -- PAIR_PRIORITY
  ⟨5, 5, 1, .u8, .ro, .none, 0, .none, false, false, .any, .plain⟩,  -- PAIR_STATE
  ⟨6, 6, 1, .u8, .ro, .none, 0, .none, false, false, .any, .plain⟩,  -- PAIR_ROLE
  ⟨7, 7, 1, .bits32, .rw, .live, 7, .none, true, false, .keep 0x7, .plain⟩,  -- PAIR_AUTO
  ⟨8, 8, 1, .u8, .wo, .live, 0, .none, false, false, .between 1 4, .cmd⟩,  -- PAIR_CMD
  ⟨9, 9, 1, .u64, .rw, .live, 0, .none, false, false, .any, .plain⟩,  -- PAIR_AT
  ⟨10, 10, 1, .bool, .ro, .none, 0, .none, false, false, .any, .plain⟩,  -- SHADOW_FIT
  ⟨11, 11, 1, .bits32, .rw, .live, 0, .none, false, false, .any, .w1c⟩,  -- PAIR_FLAGS
  ⟨12, 12, 1, .u64, .ro, .none, 0, .none, false, false, .any, .plain⟩,  -- DIGEST_MATCHED
  ⟨13, 13, 1, .u32, .ro, .none, 0, .none, false, false, .any, .plain⟩,  -- LOST_TICKS
  ⟨14, 14, 1, .u32, .ro, .none, 0, .none, false, false, .any, .plain⟩,  -- TAKEOVERS
  ⟨15, 15, 1, .blob 16 .int, .ro, .none, 0, .none, false, false, .any, .plain⟩,  -- LAST_TAKEOVER
  ⟨17, 17, 1, .u32, .ro, .none, 0, .none, false, false, .any, .plain⟩,  -- LINK_LAT_PS
  ⟨18, 18, 1, .u32, .ro, .none, 0, .none, false, false, .any, .plain⟩,  -- MIRROR_UTIL
  ⟨19, 19, 1, .u8, .ro, .none, 0, .none, false, false, .any, .plain⟩,  -- RESYNC_STEP
  ⟨20, 20, 1, .u64, .ro, .none, 0, .none, false, false, .any, .plain⟩,  -- RESYNC_LEFT
  ⟨21, 21, 1, .u8, .ro, .none, 0, .none, false, false, .any, .plain⟩,  -- JOIN_CAUSE
  ⟨22, 22, 1, .bits32, .ro, .none, 0, .none, false, false, .any, .plain⟩,  -- DRIVE_STATE
  ⟨23, 23, 1, .blob 32 .bytes, .ro, .none, 0, .none, false, false, .any, .plain⟩,  -- CONFIG_DIGEST
  ⟨27, 27, 1, .u32, .rw, .staged, 65536, .none, true, false, .between 1024 16777216, .plain⟩,  -- DIGEST_WINDOW
  ⟨28, 28, 1, .u8, .rw, .staged, 4, .none, true, false, .between 2 64, .plain⟩]  -- HB_MISS

/-- G:1800 -/
def entries1800 : List Entry := [
  ⟨1, 1, 1, .u8, .ro, .none, 0, .none, false, false, .any, .plain⟩,  -- ST_STATE
  ⟨2, 2, 1, .u8, .wo, .live, 0, .none, false, false, .between 1 2, .cmd⟩,  -- ST_CMD
  ⟨3, 3, 1, .u8, .ro, .none, 0, .none, false, false, .any, .plain⟩,  -- ST_PHASE
  ⟨4, 4, 1, .u8, .ro, .none, 0, .none, false, false, .any, .plain⟩,  -- ST_RESULT
  ⟨5, 5, 1, .bits32, .ro, .none, 0, .none, false, false, .any, .plain⟩,  -- ST_VALIDITY
  ⟨6, 6, 1, .bulk 64, .ro, .none, 0, .none, false, false, .any, .plain⟩,  -- BENCH_RECORD
  ⟨7, 7, 1, .u8, .ro, .none, 0, .none, false, false, .any, .plain⟩,  -- ST_START_KIND
  ⟨8, 8, 1, .bool, .rw, .fixed, 0, .none, true, false, .any, .plain⟩,  -- ST_FORCE_FULL
  ⟨9, 9, 1, .bits32, .ro, .none, 0, .none, false, false, .any, .plain⟩,  -- ST_FAIL_BLOCKS
  ⟨10, 10, 1, .u32, .ro, .none, 0, .none, false, false, .any, .plain⟩,  -- ST_LAST_START_MS
  ⟨16, 16, 1, .u16, .ro, .none, 0, .none, false, false, .any, .plain⟩,  -- VDD_NOW
  ⟨17, 17, 1, .u16, .ro, .none, 0, .none, false, false, .any, .plain⟩,  -- VDDA_NOW
  ⟨18, 18, 1, .i16, .ro, .none, 0, .none, false, false, .any, .plain⟩,  -- TJ_NOW
  ⟨19, 19, 1, .i32, .ro, .none, 0, .none, false, false, .any, .plain⟩]  -- REFIN_ERR_NOW

/-- G:1820 -/
def entries1820 : List Entry := [
  ⟨1, 1, 1, .u16, .rw, .staged, 97, .none, true, false, .watchStride, .plain⟩,  -- WATCH_STRIDE
  ⟨2, 2, 1, .u16, .rw, .staged, 256, .none, true, false, .between 64 4096, .plain⟩,  -- WATCH_WINDOW
  ⟨3, 3, 1, .bits32, .ro, .none, 65535, .none, false, false, .any, .plain⟩,  -- WATCH_CONV_OK
  ⟨4, 4, 1, .u64, .ro, .none, 0, .none, false, false, .any, .plain⟩]  -- WATCH_VERDICTS_ALL

/-- G:1900 -/
def entries1900 : List Entry := [
  ⟨1, 1, 1, .u8, .ro, .none, 0, .none, false, false, .any, .plain⟩,  -- LC_STATE
  ⟨2, 2, 1, .u8, .rw, .live, 0, .none, false, true, .between 0 4, .plain⟩,  -- LC_TARGET
  ⟨3, 3, 1, .bool, .wo, .live, 0, .none, false, true, .any, .cmd⟩,  -- LC_GO
  ⟨4, 4, 1, .u8, .ro, .none, 0, .none, false, false, .any, .plain⟩,  -- LC_PHASE
  ⟨5, 5, 1, .u32, .ro, .none, 0, .none, false, false, .any, .plain⟩,  -- LC_TRANSITIONS
  ⟨6, 6, 1, .bool, .wo, .live, 0, .none, false, false, .any, .cmd⟩,  -- RESET_CMD
  ⟨7, 7, 1, .u8, .ro, .none, 0, .none, false, false, .any, .plain⟩]  -- RESET_CAUSE

/-- G:1901 -/
def entries1901 : List Entry := [
  ⟨1, 1, 1, .bool, .ro, .none, 0, .none, false, false, .any, .plain⟩,  -- PRESENCE_OPEN
  ⟨2, 2, 1, .u32, .ro, .none, 0, .none, false, false, .any, .plain⟩,  -- PRESENCE_LEFT
  ⟨3, 3, 1, .bool, .ro, .none, 0, .none, false, false, .any, .plain⟩]  -- SEAL_INTACT

/-- G:1902 -/
def entries1902 : List Entry := [
  ⟨1, 1, 1, .bool, .rw, .live, 0, .none, true, true, .any, .plain⟩]  -- GZ_LOCK

/-- G:1903 -/
def entries1903 : List Entry := [
  ⟨1, 1, 1, .bool, .wo, .live, 0, .none, false, true, .any, .cmd⟩,  -- NV_COMMIT
  ⟨2, 2, 1, .u8, .ro, .none, 0, .none, false, false, .any, .plain⟩,  -- NV_STATE
  ⟨3, 3, 1, .blob 32 .bytes, .ro, .none, 0, .none, false, false, .any, .plain⟩,  -- NV_DIGEST
  ⟨7, 7, 1, .u32, .ro, .none, 0, .none, false, false, .any, .plain⟩]  -- NV_COMMITS

/-- G:1904 -/
def entries1904 : List Entry := [
  ⟨1, 1, 1, .bulk 8388608, .wo, .live, 0, .none, false, true, .any, .cmd⟩,  -- FW_IMAGE
  ⟨2, 2, 1, .u8, .ro, .none, 0, .none, false, false, .any, .plain⟩,  -- FW_SLOT_ACTIVE
  ⟨3, 3, 1, .u8, .wo, .live, 0, .none, false, true, .between 0 1, .cmd⟩,  -- FW_ACTIVATE
  ⟨4, 4, 1, .u8, .ro, .none, 0, .none, false, false, .any, .plain⟩,  -- FW_SLOT_RUNNING
  ⟨5, 5, 1, .u8, .ro, .none, 0, .none, false, false, .any, .plain⟩,  -- FW_UPDATE_STATE
  ⟨6, 6, 1, .u32, .ro, .none, 0, .none, false, false, .any, .plain⟩]  -- FW_SECURITY_FLOOR

/-- G:1905 -/
def entries1905 : List Entry := [
  ⟨1, 1, 1, .blob 32 .bytes, .ro, .none, 0, .none, false, false, .any, .plain⟩,  -- IK_PUB
  ⟨5, 5, 1, .bulk 7856, .ro, .none, 0, .none, false, false, .any, .plain⟩,  -- IK_CERT
  ⟨6, 6, 1, .blob 32 .bytes, .ro, .none, 0, .none, false, false, .any, .plain⟩,  -- AK_PUB
  ⟨10, 10, 1, .blob 32 .bytes, .ro, .none, 0, .none, false, false, .any, .plain⟩,  -- NK_PUB
  ⟨14, 14, 1, .bulk 7856, .ro, .none, 0, .none, false, false, .any, .plain⟩,  -- KEY_STATEMENT
  ⟨15, 15, 1, .blob 32 .bytes, .wo, .live, 0, .none, false, false, .any, .cmd⟩,  -- ATT_NONCE
  ⟨19, 19, 1, .u8, .ro, .none, 0, .none, false, false, .any, .plain⟩,  -- ATT_STATE
  ⟨20, 20, 1, .bulk 25248, .ro, .none, 0, .none, false, false, .any, .plain⟩]  -- ATT_REPORT

/-- G:1906 -/
def entries1906 : List Entry := [
  ⟨1, 1, 1, .u32, .ro, .none, 0, .none, false, false, .any, .plain⟩,  -- TAMPER_COUNT
  ⟨2, 2, 1, .time96, .ro, .none, 0, .none, false, false, .any, .plain⟩,  -- TAMPER_LAST
  ⟨4, 4, 1, .bool, .ro, .none, 0, .none, false, false, .any, .plain⟩]  -- TAMPER_LATCHED

/-- G:1A00 to G:1A0F -/
def entries1A00 : List Entry := [
  ⟨1, 1, 1, .u8, .wo, .live, 0, .none, false, false, .between 1 6, .cmd⟩,  -- LG_CMD
  ⟨2, 2, 1, .u64, .rw, .live, 0, .none, false, false, .any, .now⟩,  -- LG_AT
  ⟨3, 3, 1, .u64, .rw, .live, 0, .none, false, false, .any, .cmd⟩,  -- LG_STROBE_AT
  ⟨4, 4, 1, .u8, .ro, .none, 0, .none, false, false, .any, .plain⟩,  -- LG_STATE
  ⟨5, 5, 1, .blob 32 .mask, .ro, .none, 0, .none, false, false, .any, .plain⟩,  -- LG_MEMBERS
  ⟨9, 9, 1, .u64, .ro, .none, 0, .none, false, false, .any, .plain⟩,  -- LG_START_TICK
  ⟨10, 10, 1, .u64, .ro, .none, 0, .none, false, false, .any, .plain⟩,  -- LG_STROBES
  ⟨11, 11, 1, .u16, .rw, .live, 65535, .none, false, false, .ecOrNone, .sub⟩,  -- LG_SUB_STOP
  ⟨12, 12, 1, .u16, .rw, .live, 65535, .none, false, false, .ecOrNone, .sub⟩,  -- LG_SUB_RESTART
  ⟨13, 13, 1, .u16, .rw, .live, 65535, .none, false, false, .ecOrNone, .sub⟩,  -- LG_SUB_START
  ⟨14, 14, 1, .u16, .rw, .live, 65535, .none, false, false, .ecOrNone, .sub⟩,  -- LG_SUB_STROBE
  ⟨15, 15, 1, .u32, .ro, .none, 0, .none, false, false, .any, .plain⟩]  -- LG_DROPS

/-- G:1B00 to G:1B3F -/
def entries1B00 : List Entry := [
  ⟨1, 1, 1, .bool, .rw, .staged, 0, .none, false, false, .any, .cmd⟩,  -- SQ_ENABLE
  ⟨2, 2, 1, .u8, .rw, .staged, 0, .none, false, false, .between 0 1, .plain⟩,  -- SQ_SOURCE
  ⟨3, 3, 1, .u64, .rw, .staged, 0, .none, false, false, .mult 65536, .plain⟩,  -- SQ_RING_BASE
  ⟨4, 4, 1, .u64, .rw, .staged, 0, .none, false, false, .multIn 65536 65536 17179869184, .plain⟩,  -- SQ_RING_SIZE
  ⟨5, 5, 1, .u64, .rw, .staged, 0, .none, false, false, .any, .plain⟩,  -- SQ_RATE
  ⟨6, 6, 1, .u64, .rw, .staged, 0, .none, false, false, .any, .plain⟩,  -- SQ_PREFILL
  ⟨7, 7, 1, .u8, .rw, .staged, 0, .none, false, false, .between 0 3, .plain⟩,  -- SQ_POLICY
  ⟨8, 8, 1, .u8, .rw, .staged, 0, .none, false, false, .any, .plain⟩,  -- SQ_ESC_WP
  ⟨9, 9, 1, .u8, .rw, .staged, 0, .none, false, false, .between 0 2, .plain⟩,  -- SQ_STALL_OUT
  ⟨10, 10, 1, .u64, .rw, .live, 0, .none, false, false, .any, .plain⟩,  -- SQ_LOW_MARK
  ⟨11, 11, 1, .u64, .rw, .staged, 0, .none, false, false, .mult 64, .plain⟩,  -- SQ_DESC_BASE
  ⟨12, 12, 1, .u32, .rw, .staged, 16, .none, false, false, .pow2 16 65536, .plain⟩,  -- SQ_DESC_COUNT
  ⟨13, 13, 1, .u64, .rw, .staged, 0, .none, false, false, .mult 8, .plain⟩,  -- SQ_WB_ADDR
  ⟨14, 14, 1, .u16, .rw, .live, 65535, .none, false, false, .ecOrNone, .plain⟩,  -- SQ_MSIX
  ⟨15, 15, 1, .u8, .ro, .none, 0, .none, false, false, .any, .plain⟩,  -- SQ_STATE
  ⟨16, 16, 1, .u64, .ro, .none, 0, .none, false, false, .any, .plain⟩,  -- SQ_WRITTEN
  ⟨17, 17, 1, .u64, .ro, .none, 0, .none, false, false, .any, .plain⟩,  -- SQ_RESERVED
  ⟨18, 18, 1, .u64, .ro, .none, 0, .none, false, false, .any, .plain⟩,  -- SQ_PLAYPOS
  ⟨19, 19, 1, .i64, .ro, .none, 0, .none, false, false, .any, .plain⟩,  -- SQ_AHEAD
  ⟨20, 20, 1, .u64, .ro, .none, 0, .none, false, false, .any, .plain⟩,  -- SQ_SKIPPED
  ⟨21, 21, 1, .u32, .ro, .none, 0, .none, false, false, .any, .plain⟩,  -- SQ_UNDERRUNS
  ⟨22, 22, 1, .u64, .ro, .none, 0, .none, false, false, .any, .plain⟩,  -- SQ_GAP_SAMPLES
  ⟨23, 23, 1, .u64, .ro, .none, 0, .none, false, false, .any, .plain⟩,  -- SQ_SLIP
  ⟨24, 24, 1, .blob 24 .int, .ro, .none, 0, .none, false, false, .any, .plain⟩,  -- SQ_LAST_EVENT
  ⟨27, 27, 1, .bits32, .rw, .live, 0, .none, false, false, .any, .w1c⟩,  -- SQ_FLAGS
  ⟨28, 28, 1, .u32, .ro, .none, 0, .none, false, false, .any, .plain⟩,  -- SQ_LATE_REFILL
  ⟨29, 29, 1, .u32, .ro, .none, 0, .none, false, false, .any, .plain⟩,  -- SQ_DESC_HEAD
  ⟨30, 30, 1, .u32, .ro, .none, 0, .none, false, false, .any, .plain⟩,  -- SQ_DESC_DONE
  ⟨31, 31, 1, .u8, .ro, .none, 0, .none, false, false, .any, .plain⟩,  -- SQ_ERR_CAUSE
  ⟨32, 32, 1, .bool, .wo, .live, 0, .none, false, false, .any, .cmd⟩,  -- SQ_FLUSH
  ⟨33, 33, 1, .bulk 65536, .wo, .live, 0, .none, false, false, .any, .cmd⟩,  -- SQ_NET_DATA
  ⟨34, 34, 1, .u64, .ro, .none, 0, .none, false, false, .any, .plain⟩]  -- SQ_MIRRORED

/-- G:2000 to G:20FF -/
def entries2000 : List Entry := [
  ⟨1, 1, 1, .u8, .rw, .staged, 1, .analog, true, false, .oneOf [0, 1, 2, 4, 5], .plain⟩,  -- OUT_SPAN
  ⟨2, 2, 1, .bool, .rw, .live, 1, .analog, true, false, .any, .plain⟩,  -- OUT_ENABLE
  ⟨3, 3, 1, .u8, .ro, .none, 0, .none, false, false, .any, .plain⟩,  -- OUT_STATE
  ⟨4, 4, 1, .u64, .ro, .none, 0, .none, false, false, .any, .plain⟩,  -- SPAN_READY_TICK
  ⟨5, 5, 1, .u16, .rw, .live, 65535, .none, false, false, .ecOrNone, .sub⟩,  -- PARK_SUB
  ⟨6, 6, 1, .u32, .ro, .none, 0, .none, false, false, .any, .plain⟩,  -- PARK_DROPS
  ⟨7, 7, 1, .bits32, .ro, .none, 0, .none, false, false, .any, .plain⟩,  -- FAULT_CAUSE
  ⟨8, 8, 1, .bool, .wo, .live, 0, .none, false, false, .any, .cmd⟩,  -- FAULT_CLEAR
  ⟨9, 9, 1, .u32, .ro, .none, 0, .none, false, false, .any, .plain⟩,  -- FAULT_COUNT
  ⟨10, 10, 1, .i32, .rw, .staged, 0, .analog, true, false, .signed (-400) 400, .plain⟩,  -- SKEW_ADJ
  ⟨11, 11, 1, .i32, .ro, .none, 0, .none, false, false, .any, .plain⟩,  -- SKEW_MEAS
  ⟨12, 12, 1, .u32, .rw, .staged, 0, .none, true, false, .any, .plain⟩,  -- TRIM_FREEZE_MAX
  ⟨13, 13, 1, .u32, .wo, .live, 0, .none, false, false, .any, .cmd⟩,  -- TRIM_FREEZE_REQ
  ⟨14, 14, 1, .u8, .ro, .none, 0, .none, false, false, .any, .plain⟩,  -- TRIM_STATE
  ⟨15, 15, 1, .bits32, .rw, .live, 0, .none, false, false, .any, .w1c⟩,  -- TRIM_FLAGS
  ⟨16, 16, 1, .u64, .ro, .none, 0, .none, false, false, .any, .plain⟩,  -- TRIM_SWAPS
  ⟨17, 17, 1, .u32, .ro, .none, 0, .none, false, false, .any, .plain⟩]  -- TRIM_WORST

/-- G:2100 to G:21FF -/
def entries2100 : List Entry := [
  ⟨1, 1, 1, .u8, .rw, .staged, 0, .none, true, false, .between 0 2, .plain⟩,  -- DP_MODE
  ⟨2, 2, 1, .u8, .rw, .staged, 1, .none, true, false, .oneOf [1, 2, 4, 8, 16, 32, 64], .plain⟩,  -- INTERP
  ⟨3, 3, 1, .u8, .rw, .staged, 0, .none, true, false, .between 0 15, .cmd⟩,  -- LOAD_GROUP
  ⟨4, 4, 1, .i32, .rw, .live, 1073741824, .none, true, false, .any, .plain⟩,  -- GAIN
  ⟨5, 5, 1, .i32, .rw, .live, 0, .none, true, false, .any, .plain⟩,  -- OFFSET
  ⟨6, 6, 1, .i32, .rw, .live, 0, .none, true, false, .any, .plain⟩,  -- LEVEL_CODE
  ⟨7, 7, 1, .u32, .rw, .staged, 2147450880, .none, true, false, .clipLimits, .plain⟩,  -- CLIP_LIMITS
  ⟨8, 8, 1, .u64, .ro, .none, 0, .none, false, false, .any, .plain⟩,  -- CLIP_COUNT
  ⟨9, 9, 1, .bits32, .rw, .live, 0, .none, false, false, .any, .w1c⟩,  -- CLIP_FLAGS
  ⟨10, 10, 1, .u16, .ro, .none, 0, .none, false, false, .any, .plain⟩,  -- INTERP_DELAY
  ⟨11, 11, 1, .u32, .ro, .none, 0, .none, false, false, .any, .plain⟩,  -- DP_SAMPLE_NOW
  ⟨64, 64, 1, .u32, .rw, .staged, 32768, .none, true, false, .multIn 256 0 65536, .plain⟩,  -- INSET_SPLIT
  ⟨65, 65, 1, .u16, .rw, .staged, 16383, .none, true, false, .between 0 16383, .plain⟩,  -- GAP_SEG
  ⟨66, 66, 1, .u16, .rw, .staged, 16383, .none, true, false, .between 0 16383, .plain⟩,  -- IDLE_SEG
  ⟨67, 67, 1, .u32, .ro, .none, 0, .none, false, false, .any, .plain⟩,  -- INSET_DEPTH
  ⟨68, 68, 1, .u8, .ro, .none, 0, .none, false, false, .any, .plain⟩,  -- INSET_RUNAHEAD
  ⟨69, 69, 1, .u32, .ro, .none, 0, .none, false, false, .any, .plain⟩]  -- INSET_BLOCKED

/-- G:2200 to G:22FF -/
def entries2200 : List Entry := [
  ⟨1, 1, 1, .blob 16 .int, .rw, .live, 0, .none, false, false, .masked (2 ^ 97 - 1), .plain⟩,  -- TONE_REC0
  ⟨3, 3, 1, .blob 16 .int, .rw, .live, 0, .none, false, false, .masked (2 ^ 97 - 1), .plain⟩,  -- TONE_REC1
  ⟨5, 5, 1, .blob 16 .int, .rw, .live, 0, .none, false, false, .masked (2 ^ 97 - 1), .plain⟩,  -- TONE_REC2
  ⟨7, 7, 1, .blob 16 .int, .rw, .live, 0, .none, false, false, .masked (2 ^ 97 - 1), .plain⟩,  -- TONE_REC3
  ⟨9, 12, 1, .u64, .ro, .none, 0, .none, false, false, .any, .plain⟩,  -- PHASE_NOW
  ⟨13, 13, 1, .u64, .ro, .none, 0, .none, false, false, .any, .plain⟩,  -- TONE_COMMITS
  ⟨16, 16, 1, .bits32, .rw, .staged, 15, .none, true, false, .keep 0xF, .plain⟩,  -- GATE_MASK
  ⟨17, 17, 1, .u16, .rw, .live, 65535, .none, false, false, .ecOrNone, .sub⟩,  -- GATE_SUB_MUTE
  ⟨18, 18, 1, .u16, .rw, .live, 65535, .none, false, false, .ecOrNone, .sub⟩,  -- GATE_SUB_UNMUTE
  ⟨19, 19, 1, .u16, .rw, .staged, 0, .none, true, false, .any, .plain⟩,  -- GATE_DELAY
  ⟨20, 20, 1, .bool, .rw, .staged, 0, .none, true, false, .any, .plain⟩,  -- GATE_ANCHOR
  ⟨21, 21, 1, .bits32, .ro, .none, 0, .none, false, false, .any, .plain⟩,  -- GATE_STATE
  ⟨22, 22, 1, .u32, .ro, .none, 0, .none, false, false, .any, .plain⟩]  -- GATE_DROPS

/-- G:2300 to G:23FF -/
def entries2300 : List Entry := [
  ⟨1, 1, 1, .u8, .rw, .staged, 0, .none, true, false, .between 0 1, .plain⟩,  -- SEQ_MODE
  ⟨2, 2, 1, .u32, .rw, .staged, 0, .none, true, false, .mult 16, .plain⟩,  -- TRV_BASE
  ⟨3, 3, 1, .u32, .rw, .staged, 0, .none, true, false, .between 0 262144, .plain⟩,  -- TRV_SIZE
  ⟨4, 4, 1, .u32, .rw, .staged, 0, .none, true, false, .any, .plain⟩,  -- TRV_ENTRY
  ⟨5, 5, 1, .u32, .rw, .staged, 0, .none, true, false, .any, .plain⟩,  -- REST_CODE
  ⟨6, 6, 1, .bool, .rw, .staged, 1, .none, true, false, .any, .plain⟩,  -- SYNC_PART
  ⟨7, 7, 1, .bulk 1024, .rw, .staged, 0, .none, false, false, .any, .cmd⟩,  -- WP_TABLE
  ⟨8, 8, 1, .bits32, .rw, .staged, 1, .none, true, false, .keep 0xFF, .plain⟩,  -- STEP_ADV_MASK
  ⟨9, 9, 1, .u8, .rw, .staged, 0, .none, true, false, .between 0 2, .plain⟩,  -- STEP_OUT
  ⟨10, 10, 1, .bool, .rw, .staged, 0, .none, true, false, .any, .plain⟩,  -- STEP_ANCHOR
  ⟨11, 11, 1, .u16, .rw, .staged, 0, .none, true, false, .any, .plain⟩,  -- STEP_DELAY
  ⟨12, 12, 1, .u8, .rw, .staged, 0, .none, true, false, .between 0 1, .plain⟩,  -- STEP_EARLY
  ⟨13, 13, 1, .u64, .ro, .none, 0, .none, false, false, .any, .plain⟩,  -- STEP_COUNT
  ⟨14, 14, 1, .u32, .ro, .none, 0, .none, false, false, .any, .plain⟩,  -- STEP_EARLY_DROPS
  ⟨16, 23, 1, .u16, .rw, .live, 65535, .none, false, false, .ecOrNone, .sub⟩,  -- EV_SUB
  ⟨24, 31, 1, .u16, .rw, .live, 65535, .none, false, false, .ecOrNone, .sub⟩,  -- JMP_SUB
  ⟨32, 39, 1, .u32, .rw, .staged, 0, .none, false, false, .masked 0xFFFF83FF, .plain⟩,  -- JMP_BIND
  ⟨40, 40, 1, .bits32, .ro, .none, 0, .none, false, false, .any, .plain⟩,  -- EV_LATCH
  ⟨41, 41, 1, .bits32, .wo, .live, 0, .none, false, false, .keep 0xFF, .cmd⟩,  -- EV_CLEAR
  ⟨42, 42, 1, .u32, .ro, .none, 0, .none, false, false, .any, .plain⟩,  -- EV_DROPS
  ⟨43, 43, 1, .u32, .ro, .none, 0, .none, false, false, .any, .plain⟩,  -- JMP_DROPS
  ⟨48, 48, 1, .u8, .ro, .none, 0, .none, false, false, .any, .plain⟩,  -- SEQ_STATE
  ⟨49, 49, 1, .u32, .ro, .none, 0, .none, false, false, .any, .plain⟩,  -- SEQ_PC
  ⟨50, 50, 1, .u8, .ro, .none, 0, .none, false, false, .any, .plain⟩,  -- SEQ_LOOP_DEPTH
  ⟨51, 51, 1, .u8, .ro, .none, 0, .none, false, false, .any, .plain⟩,  -- SEQ_CALL_DEPTH
  ⟨52, 59, 1, .u64, .ro, .none, 0, .none, false, false, .any, .plain⟩,  -- LOOP_REMAIN
  ⟨60, 60, 1, .u64, .ro, .none, 0, .none, false, false, .any, .plain⟩,  -- SEQ_STEPS
  ⟨61, 61, 1, .bits32, .rw, .live, 0, .none, false, false, .any, .w1c⟩,  -- SEQ_FLAGS
  ⟨62, 62, 1, .u32, .ro, .none, 0, .none, false, false, .any, .plain⟩,  -- SEQ_LATE
  ⟨63, 63, 1, .u32, .ro, .none, 0, .none, false, false, .any, .plain⟩,  -- SYNC_ERRORS
  ⟨64, 64, 1, .u8, .ro, .none, 0, .none, false, false, .any, .plain⟩,  -- RA_REACH
  ⟨65, 65, 1, .u8, .ro, .none, 0, .none, false, false, .any, .plain⟩,  -- RA_HEADS
  ⟨66, 66, 1, .u8, .ro, .none, 0, .none, false, false, .any, .plain⟩,  -- RA_HEAD_TICKS
  ⟨67, 67, 1, .u64, .ro, .none, 0, .none, false, false, .any, .plain⟩,  -- PF_FETCHED
  ⟨68, 68, 1, .u64, .ro, .none, 0, .none, false, false, .any, .plain⟩,  -- PF_DISCARDED
  ⟨69, 69, 1, .u32, .ro, .none, 0, .none, false, false, .any, .plain⟩,  -- LEAD_COUNT
  ⟨70, 70, 1, .u32, .ro, .none, 0, .none, false, false, .any, .plain⟩,  -- LEAD_LATE
  ⟨71, 71, 1, .u32, .ro, .none, 0, .none, false, false, .any, .plain⟩,  -- RETRACT_COUNT
  ⟨72, 72, 1, .u8, .ro, .none, 0, .none, false, false, .any, .plain⟩,  -- TRV_CAUSE
  ⟨73, 73, 1, .u32, .ro, .none, 0, .none, false, false, .any, .plain⟩,  -- TRV_CAUSE_STEP
  ⟨74, 74, 1, .bits32, .ro, .none, 0, .none, false, false, .any, .plain⟩,  -- JMP_PEND
  ⟨75, 75, 1, .u64, .ro, .none, 0, .none, false, false, .any, .plain⟩,  -- JMP_NEXT_AT
  ⟨76, 76, 1, .u64, .ro, .none, 0, .none, false, false, .any, .plain⟩,  -- JMP_LAST_AT
  ⟨77, 77, 1, .u32, .ro, .none, 0, .none, false, false, .any, .plain⟩,  -- JMP_COUNT
  ⟨78, 78, 1, .u8, .ro, .none, 0, .none, false, false, .any, .plain⟩,  -- LEAD_OPEN
  ⟨79, 79, 1, .u32, .ro, .none, 0, .none, false, false, .any, .plain⟩,  -- LEAD_DROPPED
  ⟨80, 80, 1, .blob 16 .int, .rw, .live, 0, .none, false, false, .masked (2 ^ 96 - 1), .now⟩,  -- PLAN_NEXT
  ⟨82, 82, 1, .u64, .rw, .live, 0, .none, false, false, .any, .now⟩,  -- PLAN_AT
  ⟨83, 83, 1, .bool, .wo, .live, 0, .none, false, false, .any, .cmd⟩,  -- PLAN_GO
  ⟨84, 84, 1, .u8, .ro, .none, 0, .none, false, false, .any, .plain⟩,  -- PLAN_STATE
  ⟨96, 96, 1, .u8, .ro, .none, 0, .none, false, false, .any, .plain⟩,  -- STRM_STATE
  ⟨97, 97, 1, .u32, .ro, .none, 0, .none, false, false, .any, .plain⟩,  -- STRM_REPS_DONE
  ⟨98, 98, 1, .u32, .ro, .none, 0, .none, false, false, .any, .plain⟩,  -- STRM_SHORT
  ⟨112, 112, 1, .u64, .ro, .none, 0, .none, false, false, .any, .plain⟩,  -- ADM_CH_RATE
  ⟨113, 113, 1, .u8, .ro, .none, 0, .none, false, false, .any, .plain⟩,  -- ADM_CH_HEADS
  ⟨114, 114, 1, .u8, .ro, .none, 0, .none, false, false, .any, .plain⟩,  -- ADM_CH_STEP
  ⟨115, 115, 1, .u8, .ro, .none, 0, .none, false, false, .any, .plain⟩]  -- ADM_CH_TONE

/-- G:2400 to G:24FF -/
def entries2400 : List Entry := [
  ⟨1, 1, 1, .u16, .rw, .staged, 0, .analog, true, false, .between 0 1023, .plain⟩,  -- MRK_DELAY_A
  ⟨2, 2, 1, .u16, .rw, .staged, 0, .analog, true, false, .between 0 1023, .plain⟩,  -- MRK_DELAY_B
  ⟨3, 3, 1, .u8, .rw, .staged, 1, .analog, true, false, .between 0 2, .plain⟩,  -- MRK_DRIVE
  ⟨4, 4, 1, .bits32, .rw, .live, 0, .none, false, false, .codesKept 2, .plain⟩,  -- MRK_FORCE
  ⟨5, 5, 1, .bits32, .ro, .none, 0, .none, false, false, .any, .plain⟩,  -- MRK_LEVEL
  ⟨6, 6, 1, .u64, .ro, .none, 0, .none, false, false, .any, .plain⟩,  -- MRK_EDGES_A
  ⟨7, 7, 1, .u64, .ro, .none, 0, .none, false, false, .any, .plain⟩,  -- MRK_EDGES_B
  ⟨8, 8, 1, .u32, .ro, .none, 0, .none, false, false, .any, .plain⟩]  -- MRK_CUT

/-- G:2500 to G:25FF -/
def entries2500 : List Entry := [
  ⟨1, 1, 1, .bool, .rw, .live, 1, .none, true, false, .any, .plain⟩,  -- WATCH_ENABLE
  ⟨2, 2, 1, .u32, .rw, .live, 10000, .none, true, false, .between 1000 1000000, .plain⟩,  -- WATCH_THRESH
  ⟨3, 3, 1, .u8, .rw, .live, 4, .none, true, false, .between 1 255, .plain⟩,  -- WATCH_PERSIST
  ⟨4, 4, 1, .u32, .rw, .live, 2000, .none, true, false, .between 500 1000000, .plain⟩,  -- WATCH_DRIFT_THRESH
  ⟨5, 5, 1, .u32, .rw, .live, 10000, .none, true, false, .between 1000 500000, .plain⟩,  -- WATCH_GAIN_TOL
  ⟨6, 6, 1, .u32, .rw, .staged, 65536, .none, true, false, .between 32768 131072, .plain⟩,  -- WATCH_LOAD_GAIN
  ⟨7, 7, 1, .bits32, .rw, .live, 357, .none, true, false, .codes2 5, .plain⟩,  -- WATCH_ACTION
  ⟨8, 8, 1, .bits32, .rw, .live, 0, .none, false, false, .any, .w1c⟩,  -- WATCH_CAUSE
  ⟨9, 9, 1, .u8, .ro, .none, 255, .none, false, false, .any, .plain⟩,  -- WATCH_CLASS
  ⟨10, 10, 1, .u64, .ro, .none, 0, .none, false, false, .any, .plain⟩,  -- WATCH_READINGS
  ⟨11, 11, 1, .u32, .ro, .none, 0, .none, false, false, .any, .plain⟩,  -- WATCH_BLANKED
  ⟨12, 12, 1, .u32, .ro, .none, 0, .none, false, false, .any, .plain⟩,  -- WATCH_DEVIATIONS
  ⟨13, 13, 1, .u32, .ro, .none, 0, .none, false, false, .any, .plain⟩,  -- WATCH_VERDICTS
  ⟨14, 14, 1, .i32, .ro, .none, 0, .none, false, false, .any, .plain⟩,  -- WATCH_DRIFT_NOW
  ⟨15, 15, 1, .i32, .ro, .none, 0, .none, false, false, .any, .plain⟩,  -- WATCH_GAIN_NOW
  ⟨16, 16, 1, .blob 24 .int, .ro, .none, 0, .none, false, false, .any, .plain⟩,  -- WATCH_LAST
  ⟨19, 19, 1, .u8, .rw, .staged, 4, .none, true, false, .between 0 7, .plain⟩]  -- WATCH_APERTURE

/-- G:2600 to G:26FF -/
def entries2600 : List Entry := [
  ⟨1, 1, 1, .u8, .rw, .staged, 0, .none, true, false, .between 0 2, .plain⟩,  -- PACED_MODE
  ⟨2, 2, 1, .u8, .rw, .staged, 0, .none, true, false, .between 0 1, .plain⟩,  -- PACED_UNIT
  ⟨3, 3, 1, .u32, .rw, .staged, 1, .none, true, false, .between 1 0xFFFFFFFF, .plain⟩,  -- PACED_INTERVAL
  ⟨4, 4, 1, .u64, .rw, .staged, 0, .none, false, false, .any, .plain⟩,  -- PACED_START
  ⟨5, 5, 1, .bits32, .rw, .staged, 1, .none, true, false, .keep 0x3F, .plain⟩,  -- PACED_KINDS
  ⟨6, 6, 1, .u16, .rw, .live, 65535, .none, false, false, .ecOrNone, .sub⟩,  -- PACED_SUB
  ⟨7, 7, 1, .u16, .rw, .staged, 0, .none, true, false, .any, .plain⟩,  -- PACED_DELAY
  ⟨8, 8, 1, .bool, .rw, .staged, 0, .none, true, false, .any, .plain⟩,  -- PACED_ANCHOR
  ⟨9, 9, 1, .u64, .wo, .live, 0, .none, false, false, .any, .cmd⟩,  -- PACED_PUSH
  ⟨10, 10, 1, .u16, .ro, .none, 0, .none, false, false, .any, .plain⟩,  -- PACED_FILL
  ⟨11, 11, 1, .u64, .ro, .none, 0, .none, false, false, .any, .plain⟩,  -- PACED_APPLIED
  ⟨12, 12, 1, .u32, .ro, .none, 0, .none, false, false, .any, .plain⟩,  -- PACED_STARVED
  ⟨13, 13, 1, .bool, .wo, .live, 0, .none, false, false, .any, .cmd⟩,  -- PACED_FLUSH
  ⟨14, 14, 1, .u32, .ro, .none, 0, .none, false, false, .any, .plain⟩,  -- PACED_REFUSED
  ⟨15, 15, 1, .u32, .ro, .none, 0, .none, false, false, .any, .plain⟩]  -- PACED_DROPS

/-- G:4000 to G:7FFF -/
def entries4000 : List Entry := [
  ⟨1, 1, 1, .blob 16 .int, .rw, .live, 0, .none, false, false, .any, .cmd⟩,  -- SEG_DESC
  ⟨3, 3, 1, .u8, .ro, .none, 0, .none, false, false, .any, .plain⟩,  -- SEG_STATE
  ⟨4, 4, 1, .u16, .ro, .none, 0, .none, false, false, .any, .plain⟩]  -- SEG_USERS

/-- The entries of an index and the first index of its range; an empty list where the index is unpopulated (Table 03-5). -/
def entriesAt (i : Nat) : List Entry :=
  if i = 0x1000 then entries1000 else
  if i = 0x1010 then entries1010 else
  if i = 0x1018 then entries1018 else
  if i = 0x10D0 then entries10D0 else
  if i = 0x10E0 then entries10E0 else
  if i = 0x10E4 then entries10E4 else
  if i = 0x10E8 then entries10E8 else
  if i = 0x10F0 then entries10F0 else
  if i = 0x10F1 then entries10F1 else
  if i = 0x1100 then entries1100 else
  if 0x1101 ≤ i ∧ i < 0x1103 then entries1101 else
  if 0x1110 ≤ i ∧ i < 0x1130 then entries1110 else
  if 0x1140 ≤ i ∧ i < 0x1142 then entries1140 else
  if i = 0x1200 then entries1200 else
  if i = 0x1210 then entries1210 else
  if i = 0x1220 then entries1220 else
  if 0x1230 ≤ i ∧ i < 0x1240 then entries1230 else
  if 0x1300 ≤ i ∧ i < 0x1400 then entries1300 else
  if 0x1400 ≤ i ∧ i < 0x1500 then entries1400 else
  if i = 0x1500 then entries1500 else
  if i = 0x1501 then entries1501 else
  if i = 0x1503 then entries1503 else
  if i = 0x1504 then entries1504 else
  if i = 0x1508 then entries1508 else
  if i = 0x1509 then entries1509 else
  if i = 0x150A then entries150A else
  if i = 0x150B then entries150B else
  if i = 0x150C then entries150C else
  if 0x1510 ≤ i ∧ i < 0x1518 then entries1510 else
  if i = 0x1580 then entries1580 else
  if i = 0x1584 then entries1584 else
  if i = 0x1588 then entries1588 else
  if i = 0x1600 then entries1600 else
  if 0x1620 ≤ i ∧ i < 0x1630 then entries1620 else
  if i = 0x1700 then entries1700 else
  if i = 0x1800 then entries1800 else
  if i = 0x1820 then entries1820 else
  if i = 0x1900 then entries1900 else
  if i = 0x1901 then entries1901 else
  if i = 0x1902 then entries1902 else
  if i = 0x1903 then entries1903 else
  if i = 0x1904 then entries1904 else
  if i = 0x1905 then entries1905 else
  if i = 0x1906 then entries1906 else
  if 0x1A00 ≤ i ∧ i < 0x1A10 then entries1A00 else
  if 0x1B00 ≤ i ∧ i < 0x1B40 then entries1B00 else
  if 0x2000 ≤ i ∧ i < 0x2100 then entries2000 else
  if 0x2100 ≤ i ∧ i < 0x2200 then entries2100 else
  if 0x2200 ≤ i ∧ i < 0x2300 then entries2200 else
  if 0x2300 ≤ i ∧ i < 0x2400 then entries2300 else
  if 0x2400 ≤ i ∧ i < 0x2500 then entries2400 else
  if 0x2500 ≤ i ∧ i < 0x2600 then entries2500 else
  if 0x2600 ≤ i ∧ i < 0x2700 then entries2600 else
  if 0x4000 ≤ i ∧ i < 0x8000 then entries4000 else
  []

end Sys2Proof.Machine
end

