-- ==== Sys2Proof/Machine/State.lean ====
section
/-!
DEFINITION. The state of the part: plain data, every Gazetteer value and every piece of working state the manual gives its
blocks, the queue of waiting commands, the reasons a step can stop, and the state right after reset.
-/

namespace Sys2Proof.Machine

/-- Time (chapter 02): the current tick k and the core cycle of the last event in it, the Datum as last known while the Graticule is not aligned
(units of 2^-16 ns), the counters of R32, the PTP masters heard, the PTP messages of ports A and B counted for an unsupported option (R28), whether
a newly selected port's offset is still to be slewed out (R29), how many frequency words the servo has set (it counts the free words of
`Config.servoWord`), the frequency word in 2^-48 and those of the last 64 s, newest first, each with the Datum at which it was set (R26, R33), the
error at the entry to HOLDOVER in ps and the Datum then, the offset to be slewed out, the Datum when its slew began and a pending step (units of
2^-16 ns), whether starts wait for REFIN and its relock (Table 02-11), the TAI second of the next PPS edge, whether a PPS edge has been taken that
the next is judged by, PPS edges ignored and missing in a row, SYNC edges missing in a row and the trim toward SYNC in ps, for each alarm that is
planned its next firing as a sample index, the tick after the opening of the presence window (0: closed), whether the sample clock is locked, and
the tick whose decide point has come and the tick whose plan is closed last (R12, R163). -/
structure TimeSt where
  tick      : Nat
  cyc       : Nat
  datum     : Nat
  near      : Nat
  far       : Nat
  masterA   : Option PtpAnnounce
  masterB   : Option PtpAnnounce
  ptpBad    : Nat × Nat
  moved     : Bool
  steers    : Nat
  word      : Nat
  words     : List (Nat × Nat)
  holdErr   : Nat
  holdAt    : Nat
  slew      : Int
  slewAt    : Nat
  step      : Option Int
  refinOut  : Bool
  ppsNext   : Option Nat
  ppsSeen   : Bool
  ppsOff    : Nat
  ppsMiss   : Nat
  syncMiss  : Nat
  syncTrim  : Int
  alarms    : KMap Int
  presentAt : Nat
  locked    : Bool
  opened    : Nat
  closed    : Nat
  deriving DecidableEq, Repr

/-- The Gazetteer back end (chapter 03): the values in force, the pending Live and Staged values of channels, the Live values of entries of no load
group that wait for the next tick boundary, the working copy of the user NV image (R60), the BAR0 staging buffer (entry key and staged 32-bit words;
R70), the BAR0 snapshot (entry key, value, mask of the words read from it; R71) and the block buffer (R75). -/
structure GzSt where
  regs  : KMap Nat
  pend  : KMap Nat
  bound : KMap Nat
  work  : KMap Nat
  stage : Option (Nat × KMap Nat)
  snap  : Option (Nat × Nat × Nat)
  block : List Byte
  deriving DecidableEq, Repr

/-- What leaves the part, in the order in which it leaves, newest first. [DEDUCED, assumption 75] -/
inductive Out where
  | frame (dest : Dest) (f : PlFrame)
  | verdict (path : Path) (code : Nat)
  | lldp (port : EthPort) (chassis portId sysName address ttl : Nat)
  | read (r : ReadResult)
  | msix (vector : Nat)
  | evio (pin : Nat) (level : Bool) (n : Nat)
  | evioPins (driven : Bool)
  | marker (c line : Nat) (level : Bool) (n : Nat)
  | markerPins (driven : Bool)
  | hostWrite (addr : Nat) (bytes : List Byte)
  | hostPoison (addr len : Nat)
  | memData (port addr : Nat) (bytes : List Byte)
  | memPoison (port addr : Nat)
  | ppsOut (second widthNs : Nat)
  | syncOut (samples : Nat) (afterPs : Int)
  | ptpAnnounce (port : EthPort) (clockClass priority1 priority2 : Nat)
  | heartbeat (h : Heartbeat)
  | captureLog (tick : Nat) (records : List LogRecord)
  | mirrorWrite (index sub value : Nat)
  | ringBytes (q : Nat) (bytes : List Byte)
  | cutoff (q units : Nat)
  | configImage (i : ConfigImage)
  | contentHash (hash : Nat)
  | stateImage (i : StateImage)
  | ringCopy (q pos : Nat) (bytes : List Byte) (missing : List Nat)
  | pairRequest (cmd : Nat)
  deriving DecidableEq, Repr

/-- A kept reply (R85): the frames it was sent in. -/
structure CacheRec where
  source  : Nat
  udpPort : Nat
  session : Nat
  seq     : Nat
  frames  : List PlFrame
  deriving DecidableEq, Repr

/-- A subscription (R87): where its publications go, its session, its items, the publications sent, the items as last compared, the tick of its
SUBSCRIBE, from which periods and comparisons are counted, and the tick after the last one that published or compared. -/
structure Sub where
  id      : Nat
  dest    : Dest
  session : Nat
  period  : Nat
  mode    : Nat
  items   : List PlItem
  count   : Nat
  seen    : List ReplyItem
  since   : Nat
  done    : Nat
  deriving DecidableEq, Repr

/-- The bytes held for a bulk object on one session (R84). -/
structure BulkBuf where
  session : Nat
  key     : Nat
  bytes   : List Byte
  deriving DecidableEq, Repr

/-- An item of a reply that may wait for its code: the key it is answered under, the code if it has one, and the item without it. -/
structure OwedItem where
  key  : Nat
  code : Option Nat
  item : ReplyItem
  deriving DecidableEq, Repr

/-- A reply that waits for items still to be answered (R83, R308, R332): its request, whether the answer is the frame's STATUS, and its items. -/
structure Owed where
  head  : PlHeader
  frame : Bool
  items : List OwedItem
  deriving DecidableEq, Repr

/-- Pearo Link (chapter 03): kept replies, replies that wait, subscriptions, bulk objects under way, DISCOVER requests not yet answered, the last
neighbour heard on each port with the Datum then (R90), the Datum at which each partner was last heard (R88), and the slots of lost partners, the
one lost longest ago first (R89). -/
structure PlSt where
  owed     : List Owed
  cache    : List CacheRec
  subs     : List Sub
  bulk     : List BulkBuf
  discover : List PlHeader
  lldpA    : Option (LldpRec × Nat)
  lldpB    : Option (LldpRec × Nat)
  heard    : KMap Nat
  lost     : List Nat
  deriving DecidableEq, Repr

/-- The event fabric (chapter 04): producers that have not chosen their slots, pulses on their way to event channels, the
absolute core cycle after the last assertion of each channel (0: none), deliveries per capture tick (R101), waiting timed
firings (tick, mask), the tick after the last interrupt of each channel (R102), the real-time latches (channel latches at
32 c + input, group latches at 8192 + 4 g + input), for each task the cycle in which one of its inputs was taken last, that input and what its latch
held before (R100), the pins, whether output pins are held low after a loss of the sample clock (Table 04-4), RETRACT pulses that wait for the
Graticule (R22), and the capture log of the tick (R112), own and received. -/
structure FabSt where
  producers : List Producer
  arrivals  : List Arrival
  lastAt    : KMap Nat
  captured  : KMap Nat
  fires     : List (Nat × Nat)
  msixAt    : KMap Nat
  latches   : KMap Latch
  taken     : KMap (Nat × Nat × Option Latch)
  evio      : KMap PinSt
  pinsLow   : Bool
  delayed   : List Pulse
  log       : List (Nat × LogRecord)
  deriving DecidableEq, Repr

/-- A load block as it was started (R132): the host and DRAM addresses, the target, the first Inset slot, the length in bytes and the stores
selected. -/
structure LoadBlock where
  host   : Nat
  dram   : Nat
  target : Nat
  slot   : Nat
  length : Nat
  mask   : Nat
  deriving DecidableEq, Repr

/-- Segments and stores (chapter 05) and the Traverse store (chapter 06): descriptors, marker edge store,
Traverse steps, Inset stores (65536 c + slot), DRAM (as pairs of address
and byte), its uncorrectable lines (R297), descriptors and edge-store bytes that wait for the next tick boundary, whether a load block does, and
the block that runs (R132). -/
structure MemSt where
  descs   : KMap Nat
  edges   : KMap Nat
  trav    : KMap Nat
  inset   : KMap Nat
  dram    : List Host.Cell
  bad     : List Nat
  newDesc : KMap Nat
  newEdge : KMap Nat
  ldGo    : Bool
  load    : Option LoadBlock
  deriving DecidableEq, Repr

/-- A command taken for admission (R306): its number as ADM_COMMAND has it, its group, its channel for a plan commit, its path and the operation its
abort-log record would name (R78), LG_AT or PLAN_AT, the values it froze, the tick of its execution and, in a pair, the configuration digest of its
snapshot (R319). -/
structure AdmJob where
  cmd    : Nat
  group  : Nat
  chan   : Nat
  path   : Path
  op     : Nat
  at_    : Nat
  regs   : KMap Nat
  tick   : Nat
  digest : Nat
  deriving DecidableEq, Repr

/-- Admission: waiting jobs in order, reservations, accepted plan commits. -/
structure AdmSt where
  jobs  : List AdmJob
  resv  : List Resv
  plans : List PlanCommit
  deriving DecidableEq, Repr

/-- Streams (chapter 11): per queue the bytes written as of each of the last decide points (queue, tick, written), descriptors
fetched and not completed (queue, end position, irq), where STREAM_LOW stands, the tick after the last
interrupt of a queue, timeouts in a row, the posted tail, the reservations of plays that are not consumed (queue, channel, next position,
end), fetched bytes for which the ring had no room, the bytes ingress took in each of the last ticks, and the words and the pending bits of
the MSI-X table (R249). STREAM_LOW (R254) is at 0 before SQ_AHEAD has first reached the mark, 1 while it may pulse, 2 after it has. -/
structure StrmSt where
  hist   : List (Nat × Nat × Nat)
  descs  : List (Nat × Nat × Bool)
  armed  : KMap Nat
  msixAt : KMap Nat
  tmo    : KMap Nat
  tail   : KMap Nat
  open_  : List (Nat × Nat × Nat × Nat)
  wait   : KMap (List Byte)
  moved  : List (Nat × Nat)
  vectors  : KMap Nat
  msixWait : KMap Nat
  deriving DecidableEq, Repr

/-- The memory controller (chapter 12): its sub-channels, the retry buffers of the DDR channels and the alerts of a replay sequence in
progress, the Datum at the end of a quiet window, the controller cycle of the last request and of the entry to self-refresh, the P3 and P4 credit in
bytes and the tick it was last raised in, the 64 KiB pages filled above the frontier (page numbers), the queues whose ring regions come first
(R301), the line the scrub reads next, the tick after the last DRAM_UNCORRECTABLE pulse, the draws of its two keys, and the refills asked for
that no request has brought yet (R175). -/
structure DramSt where
  subs    : Vector SubChSt 8
  retry   : KMap (List DCmd)
  alerts  : KMap Nat
  quietTo : Option Nat
  lastReq : Nat
  srSince : Option Nat
  credit  : KMap Nat
  creditAt : Nat
  filled  : KMap Nat
  first   : List Nat
  scrubAt : Nat
  ueTick  : Nat
  keys    : Nat × Nat
  wants   : List Want
  deriving DecidableEq, Repr

/-- The redundant pair (chapter 14): DRIVE_OUT, DRIVE_IN as seen and as it acts on the switches, an unanswered FORCE, the tick plus one since which
both drives are asserted, whether a join may start from FENCED or CONFLICT, the partner's last heartbeat, this part's digests (tick, digest, mask),
a planned handover (tick T, row of Table 14-4) and whether DRIVE_OUT has been released for it, mirrored writes not yet in force, received capture
logs, received cutoffs of a queue, for each queue whose ring a join has not copied the position W0 that the copy goes up to (R343), for each queue
the position after the last line that the copy marked missing, and the partner of the join in progress. -/
structure PairSt where
  driveOut : Bool
  driveIn  : Bool
  inActs   : Bool
  force    : Bool
  both     : Nat
  wanted   : Bool
  hb       : Option Heartbeat
  digests  : List (Nat × Nat × Nat)
  handover : Option (Nat × Nat)
  released : Bool
  toSend   : List Fwd
  logs     : KMap (List LogRecord)
  cutoffs  : KMap Nat
  ringTo   : KMap Nat
  missing  : KMap Nat
  peer     : Option PeerInfo
  deriving DecidableEq, Repr

/-- Start-up, self-test, lifecycle and security (chapter 15): PWR_OK with every rail in range, RST_N asserted, the part held in reset, boot
recovery, the user NV image applied, SHDN_N asserted, the kind of the test in progress (0 none, else KIND of Table 15-6; 4 a test
started by SHDN_N that has ended, 5 and 6 one after which the part resets itself in two ticks or one) and what its phases found,
the Benchmark record and its consumed flag, the two NV image slots and the one in force, the snapshot being committed, the intent record, the
two firmware slots, an image being written, the number of random draws and those of the identity, NV and attestation keys (0: none), the key
statement, the nonce held and the report, the seal loop, the first tick at which VDDO is not below 1.6 V (R218), and whether the marker
pins are driven (Table 09-6). -/
structure LifeSt where
  powered  : Bool
  rstN     : Bool
  held     : Bool
  recovery : Bool
  applied  : Bool
  shdn     : Bool
  test     : Nat
  found    : Option PhaseResult
  bench    : List Byte
  used     : Bool
  image0   : Option NvImage
  image1   : Option NvImage
  inForce  : Nat
  commit   : Option (KMap Nat)
  intent   : Option Nat
  flash0   : Option FwSlot
  flash1   : Option FwSlot
  fwNew    : Option FwSlot
  draws    : Nat
  ik       : Nat
  nk       : Nat
  ak       : Nat
  stmt     : List Byte
  nonce    : Option Nat
  report   : List Byte
  sealOk   : Bool
  vddoTo   : Nat
  marksOn  : Bool
  deriving DecidableEq, Repr

/-- The part: everything but the queue of waiting commands. -/
structure Part where
  time  : TimeSt
  gz    : GzSt
  pl    : PlSt
  fab   : FabSt
  mem   : MemSt
  seqs  : Vector Seq 256
  plans : Vector (List TickPlan) 256
  dps   : Vector Dp 256
  outs  : Vector OutSt 256
  watch : Vector WatchSt 256
  grps  : Vector GroupSt 16
  paced : KMap (List Nat)
  strm  : StrmSt
  dram  : DramSt
  adm   : AdmSt
  pair  : PairSt
  life  : LifeSt
  sent  : List Out
  deriving DecidableEq, Repr

/-- The state: the commands that wait, first in first out, and the part. -/
structure State where
  pending : List Instr
  part    : Part
  deriving DecidableEq, Repr

/-- Why a step stops for good. -/
inductive Fault where
  /-- A channel's sequencer stands in a situation that no admitted program reaches (the walk of R158 excludes it) and to which
  the manual gives no effect: an unwritten step, a stack over or under its limits, a LOOP without its ENDL, a Waypoint that is not valid, or
  more zero-time steps than a tick can hold. Raised by DECIDE_STAGE and by the step commands of that channel; safe: the part would go on. -/
  | sequencer (c : Chan) (why : StuckWhy)
  deriving DecidableEq, Repr

/-- Why a command has no meaning. -/
inductive Refusal where
  /-- Raised by an arm of Dispatch for a command that has no meaning yet; safe. -/
  | notModelled (mnemonic : String)
  deriving DecidableEq, Repr

/-- A sequencer at rest (R134). -/
def Seq.idle : Seq :=
  ⟨0, .off, false, false, 0, .zero, [], [], none, [], [], [], [], none, 0, [], [], 0, [], none, (0, 0), 0⟩

/-- A datapath after reset (R134, Table 08-10): gain 16,384 (1.0), everything else zero. -/
def Dp.idle : Dp := ⟨[0, 0, 0, 0], [0, 0, 0, 0], 0, 16384, 0, 0, [], (0, 0), [], [], [], 0, [], (0, 0)⟩

/-- An output after reset (R216 to R218): span 1, parked behind an open switch. -/
def OutSt.idle : OutSt := ⟨false, false, false, none, 0, 1, 1, none, none, 0, 0, false, false, 0, 0, false, none⟩

/-- Watch of a channel after reset. -/
def WatchSt.idle : WatchSt := ⟨[], [], 0, 0, 0, 0, 0, 0, none⟩

/-- A load group after reset: stopped (R134). -/
def GroupSt.idle : GroupSt := ⟨none, none, none, [], none, []⟩

/-- A sub-channel after reset: nothing queued, no row open. -/
def SubChSt.idle : SubChSt := ⟨[], [], [], [], 0, false, 0, [], [], [], none, none, false, false, 0, 0⟩

/-- The memory controller after reset, before training (R301: every page unfilled). -/
def DramSt.idle : DramSt :=
  ⟨Vector.replicate 8 SubChSt.idle, [], [], none, 0, none, [], 0, [], [], 0, 0, (2, 3), []⟩

/-- The pair logic after reset: no partner heard, drive released. -/
def PairSt.idle : PairSt :=
  ⟨false, false, false, false, 0, false, none, [], none, false, [], [], [], [], [], none⟩

/-- Lifecycle, firmware and NV store of a part as shipped: BLANK, no image, no record, no key but the identity key (draw 1).
[DESIGN CHOICE, assumption 10] -/
def LifeSt.blank : LifeSt :=
  ⟨true, false, false, false, false, false, 0, none, [], false, none, none, 0, none, none, none, none, none, 3, 1, 0, 0, [], none, [],
   true, 0, false⟩

/-- The time unit after reset: tick 0, nothing heard. [DESIGN CHOICE, assumption 3] -/
def TimeSt.idle : TimeSt :=
  ⟨0, 0, 0, 0, 0, none, none, (0, 0), false, 0, 0, [], 0, 0, 0, 0, none, false, none, false, 0, 0, 0, 0, [], 0, false, 0, 0⟩

/-- The part at the end of a power-on reset, before start-up (R344, R345, R134): every entry at its default, every store empty, the DRAM
keys drawn (R300), RESET_CAUSE power-on and the seal loop closed. [DESIGN CHOICE, assumption 10] -/
def Part.cold : Part where
  time  := TimeSt.idle
  gz    := ⟨[(G.keyDraws, 1), (G.resetCause, 1), (G.sealIntact, 1)], [], [], [], none, none, []⟩
  pl    := ⟨[], [], [], [], [], none, none, [], []⟩
  fab   := ⟨[], [], [], [], [], [], [], [], [], false, [], []⟩
  mem   := ⟨[], [], [], [], [], [], [], [], false, none⟩
  seqs  := Vector.replicate 256 Seq.idle
  plans := Vector.replicate 256 []
  dps   := Vector.replicate 256 Dp.idle
  outs  := Vector.replicate 256 OutSt.idle
  watch := Vector.replicate 256 WatchSt.idle
  grps  := Vector.replicate 16 GroupSt.idle
  paced := []
  strm  := ⟨[], [], [], [], [], [], [], [], [], [], []⟩
  dram  := DramSt.idle
  adm   := ⟨[], [], []⟩
  pair  := PairSt.idle
  life  := LifeSt.blank
  sent  := []

/-- The block right after a power-on reset, with no command waiting. [DESIGN CHOICE, assumption 16] -/
def State.reset : State := ⟨[], Part.cold⟩

end Sys2Proof.Machine
end

