-- ==== Sys2Proof/Machine/Regs.lean ====
section
/-!
DEFINITION. The register file: finding an entry by index and subindex (R57), its width and its default (Table 03-1), and reading
and writing values in force. Every read or write of a Gazetteer value goes through these operations.
-/

namespace Sys2Proof.Machine

/-- The width of a type in bits (Table 03-2). -/
def tyWidth : Ty → Nat
  | .bool => 1
  | .u8 => 8
  | .u16 => 16
  | .u32 => 32
  | .u64 => 64
  | .i16 => 16
  | .i32 => 32
  | .i64 => 64
  | .bits32 => 32
  | .bits64 => 64
  | .ftw48 => 48
  | .time96 => 96
  | .str n => 8 * n
  | .blob n _ => 8 * n
  | .bulk _ => 64

/-- The BAR0 slots a type occupies (Table 03-2). -/
def tySlots : Ty → Nat
  | .time96 => 2
  | .str n => ceilDiv n 8
  | .blob n _ => ceilDiv n 8
  | _ => 1

/-- A Traverse step as an entry: a 16-byte record of two slots (R135). -/
def stepEntry (sub : Nat) : Entry :=
  ⟨sub, sub, 1, .blob 16 .int, .rw, .live, 0, .none, false, false, .any, .cmd⟩

/-- What stands at an index and subindex: no entry of that index, no such subindex, NUM_SUBS, an entry (with its first
subindex), or a continuation slot of an entry (R57, R58). -/
inductive Hit where
  | noIndex
  | noSub
  | numSubs (n : Nat)
  | entry (e : Entry) (sub : Nat)
  | cont (e : Entry) (sub : Nat)
  deriving DecidableEq, Repr

/-- The subindex at which the entry of an array that covers subindex s begins, if e covers it. -/
def entryFirst (e : Entry) (s : Nat) : Option Nat :=
  let len := tySlots e.ty
  if s < e.sub ∨ e.subEnd + len ≤ s then none
  else
    let i := (s - e.sub) / e.step
    if e.subEnd = e.sub then some e.sub
    else if (s - e.sub) % e.step < len then some (e.sub + i * e.step) else none

/-- The first entry of a list that covers subindex s. -/
def findEntry (s : Nat) : List Entry → Hit
  | [] => .noSub
  | e :: r =>
    match entryFirst e s with
    | some f => if f = s then .entry e f else .cont e f
    | none => findEntry s r

/-- The highest populated subindex of a list of entries (NUM_SUBS, R57). -/
def topSub (l : List Entry) : Nat := l.foldl (fun a e => max a (e.subEnd + tySlots e.ty - 1)) 0

/-- What stands at G:i.s (R57, R67, R135). -/
def lookup (i s : Nat) : Hit :=
  if 0x8000 ≤ i ∧ i < 0xC000 then
    if 32 ≤ s then .noSub
    else if s % 2 = 0 then .entry (stepEntry s) s else .cont (stepEntry (s - 1)) (s - 1)
  else
    let l := entriesAt i
    if l.isEmpty then .noIndex
    else if s = 0 then .numSubs (topSub l)
    else findEntry s l

/-- The entry whose key is k. -/
def entryOf (k : Nat) : Option Entry :=
  match lookup (k / 256) (k % 256) with
  | .entry e _ => some e
  | _ => none

/-- The value a Gazetteer key has after reset where the user NV image holds none (Table 03-1, R63). [DESIGN CHOICE, assumption 3] -/
def regDefault (k : Nat) : Nat := ((entryOf k).map (·.dflt)).getD 0

/-- The width in bits of the value at key k. -/
def regWidth (k : Nat) : Nat := ((entryOf k).map fun e => tyWidth e.ty).getD 64

/-- The value in force of key k (R62). -/
def reg (p : Part) (k : Nat) : Nat := kget regDefault p.gz.regs k

/-- The part with v in force at key k. -/
def setReg (p : Part) (k v : Nat) : Part := { p with gz := { p.gz with regs := kset regDefault p.gz.regs k v } }

/-- A counter moved on by d; it wraps at the width of its entry. -/
def addReg (p : Part) (k d : Nat) : Part := setReg p k ((reg p k + d) % 2 ^ regWidth k)

/-- The bits of m set in the value of key k. -/
def orReg (p : Part) (k m : Nat) : Part := setReg p k (reg p k ||| m)

/-- The bits of m cleared in the value of key k. -/
def clrReg (p : Part) (k m : Nat) : Part := setReg p k (reg p k ^^^ (reg p k &&& m))

/-- A bit of the value of key k. -/
def regBit (p : Part) (k i : Nat) : Bool := bit (reg p k) i

/-- Bit i of the value of key k set or cleared. -/
def setRegBit (p : Part) (k i : Nat) (b : Bool) : Part := setReg p k (putBits (reg p k) i 1 (ofBool b))

/-- One change of a value at its tick. -/
def applyOp (p : Part) : RegOp → Part
  | .set k v => setReg p k v
  | .add k d => addReg p k d
  | .bits k m => orReg p k m
  | .rep done _ _ _ => addReg p done 1

/-- Several changes in order. -/
def applyOps (p : Part) (l : List RegOp) : Part := l.foldl applyOp p

end Sys2Proof.Machine
end

