-- ==== Sys2Proof/Machine/Operands.lean ====
section
/-!
DEFINITION. The operand forms: whether a value fits its entry's type and declared range (R58), the byte forms of a value on Pearo Link
(R82), the type codes of Table 03-2, and the kinds of access that a path number names (Table 03-12).
-/

namespace Sys2Proof.Machine

/-- The signed value of a stored pattern of an entry (R58). -/
def entrySigned (t : Ty) (v : Nat) : Int := toSigned (tyWidth t) v

/-- A value fits its type (R58); the nanoseconds of a TIME96 are below 10^9 (R25). The bytes of a STR are not judged.
[DESIGN CHOICE, assumption 100] -/
def fitsType (t : Ty) (v : Nat) : Bool :=
  decide (v < 2 ^ tyWidth t) &&
    match t with
    | .time96 => decide (bits v 47 16 < 10 ^ 9)
    | _ => true

/-- v is a power of two. -/
def isPow2 (v : Nat) : Bool := decide (v ≠ 0 ∧ 2 ^ Nat.log2 v = v)

/-- None of the n lowest two-bit fields of v holds code 3. -/
def noCode3 (n v : Nat) : Bool := (List.range n).all fun i => decide (bits v (2 * i + 1) (2 * i) ≠ 3)

/-- A value is in its entry's declared range (R58). -/
def inRange (t : Ty) (v : Nat) : Rng → Bool
  | .any => true
  | .between lo hi => decide (lo ≤ v ∧ v ≤ hi)
  | .orIn x lo hi => decide (v = x ∨ (lo ≤ v ∧ v ≤ hi))
  | .signed lo hi => decide (lo ≤ entrySigned t v ∧ entrySigned t v ≤ hi)
  | .oneOf l => l.contains v
  | .mult m => decide (v % m = 0)
  | .multIn m lo hi => decide (v % m = 0 ∧ lo ≤ v ∧ v ≤ hi)
  | .pow2 lo hi => isPow2 v && decide (lo ≤ v ∧ v ≤ hi)
  | .masked m => decide (v &&& m = v)
  | .keep _ => true
  | .codes2 n => decide (v < 4 ^ n) && noCode3 n v
  | .codesKept n => noCode3 n v
  | .ecOrNone => decide (v < 256 ∨ v = 0xFFFF)
  | .wholeSeconds => decide (v % 2 ^ 48 = 0)
  | .clipLimits => decide (toSigned 16 v ≤ toSigned 16 (v >>> 16))
  | .watchStride => decide (v % 2 = 1 ∧ v % 5 ≠ 0)

/-- A value may be written to an entry as far as R58 judges it. -/
def valueOk (e : Entry) (v : Nat) : Bool := fitsType e.ty v && inRange e.ty v e.rng

/-- The value that a write of v leaves: undefined bits of a BITS entry stay as they are (R73). -/
def keptBits (e : Entry) (old v : Nat) : Nat :=
  match e.rng with
  | .keep m => (v &&& m) ||| (old ^^^ (old &&& m))
  | .codesKept n => v % 4 ^ n + (old / 4 ^ n) * 4 ^ n
  | _ => v

/-- The bytes a type takes on Pearo Link (Table 03-2). -/
def tyBytes : Ty → Nat
  | .bool => 1
  | .u8 => 1
  | .u16 => 2
  | .i16 => 2
  | .u32 => 4
  | .i32 => 4
  | .bits32 => 4
  | .ftw48 => 6
  | .u64 => 8
  | .i64 => 8
  | .bits64 => 8
  | .time96 => 12
  | .str n => n
  | .blob n _ => n
  | .bulk n => n

/-- The code of a type (Table 03-2); I16 has none there. [PRESUMED, assumption 4] -/
def tyCode : Ty → Nat
  | .bool => 0x01
  | .u8 => 0x02
  | .u16 => 0x03
  | .u32 => 0x04
  | .u64 => 0x05
  | .i32 => 0x06
  | .i64 => 0x07
  | .bits32 => 0x08
  | .bits64 => 0x09
  | .ftw48 => 0x0A
  | .time96 => 0x0B
  | .str _ => 0x0C
  | .blob _ _ => 0x0D
  | .bulk _ => 0x0D
  | .i16 => 0x03

/-- A value's bytes as Pearo Link carries them (R80, R82): integers and bit records big-endian, masks and byte strings with their first
byte first. -/
def linkBytes (t : Ty) (v : Nat) : List Byte :=
  match t with
  | .str n => toBytesLE n v
  | .blob n .int => toBytesBE n v
  | .blob n _ => toBytesLE n v
  | t => toBytesBE (tyBytes t) v

/-- The value of bytes that Pearo Link carried (R80, R82). -/
def linkValue (t : Ty) (bs : List Byte) : Nat :=
  match t with
  | .str _ => ofBytesLE bs
  | .blob _ .int => ofBytesBE bs
  | .blob _ _ => ofBytesLE bs
  | _ => ofBytesBE bs

/-- A length fits a type: exact, but for strings and bulk objects, which may be shorter (Table 03-2). -/
def lenOk (t : Ty) (n : Nat) : Bool :=
  match t with
  | .str m => decide (n ≤ m)
  | .bulk m => decide (n ≤ m)
  | t => decide (n = tyBytes t)

/-- The number of a path in LOG_WHAT (Table 03-12). -/
def pathCode : Path → Nat
  | .bar0 _ => 0
  | .portA _ => 1
  | .portB _ => 2
  | .mirror => 3
  | .management => 4

/-- The requester ID or the low 16 bits of the session (Table 03-12). -/
def pathWho : Path → Nat
  | .bar0 r => r % 2 ^ 16
  | .portA s => s % 2 ^ 16
  | .portB s => s % 2 ^ 16
  | .mirror => 0
  | .management => 0

/-- The path of a Pearo Link request (R80). -/
def headerPath (h : PlHeader) : Path :=
  match h.port with
  | .a => .portA h.session
  | .b => .portB h.session

/-- Bits [63:0] of a TIME96 are sub-nanoseconds, nanoseconds and the low half of the seconds (R25): the value in units of 2^-16 ns. -/
def timeValue (v : Nat) : Nat := (v >>> 48) * (10 ^ 9 * 2 ^ 16) + v % 2 ^ 48

/-- The TIME96 record of a time in units of 2^-16 ns (R25). -/
def timeRecord (t : Nat) : Nat := (t / (10 ^ 9 * 2 ^ 16)) * 2 ^ 48 + t % (10 ^ 9 * 2 ^ 16)

end Sys2Proof.Machine
end

