-- ==== Sys2Proof/Machine/Flags.lean ====
section
/-!
DEFINITION. Flags: sticky bits that a write of 1 clears (R30, R103 and the flag entries of each chapter), posting-domain busy and overrun bits
(Table 03-9), and the abort log (R78, Table 03-12).
-/

namespace Sys2Proof.Machine

/-- Writing m to a sticky flag entry clears the bits of m at once. -/
def writeOnes (p : Part) (k m : Nat) : Part := clrReg p k m

/-- Counters of Watch verdict classes follow WATCH_CAUSE: the class of each cleared bit is re-armed (R245). -/
def rearm (p : Part) (c : Chan) (m : Nat) : Part :=
  let w := p.watch.get c
  { p with watch := p.watch.set c.val { w with fired := w.fired ^^^ (w.fired &&& m) } c.isLt }

/-- The place of a posting domain: subindex offset and bit in G:10F0 and G:10F1 (Table 03-9). -/
def domainBit : Domain → Nat × Nat
  | .analog c => (c.val / 32, c.val % 32)
  | .ptp => (8, 0)
  | .serdes => (8, 1)
  | .phy s => (9, s.val)

/-- A posting domain is busy (R76). -/
def domainBusy (p : Part) (d : Domain) : Bool := regBit p (G.postBusy (domainBit d).1) (domainBit d).2

/-- A posting domain's busy bit set or cleared (R76). -/
def setBusy (p : Part) (d : Domain) (b : Bool) : Part := setRegBit p (G.postBusy (domainBit d).1) (domainBit d).2 b

/-- A posting domain's overrun flag set (R76). -/
def setOverrun (p : Part) (d : Domain) : Part := setRegBit p (G.postOverrun (domainBit d).1) (domainBit d).2 true

/-- The posting domain of the entry with key k (Table 03-9, Domain column). -/
def domainOf (e : Entry) (k : Nat) : Option Domain :=
  match e.dom with
  | .none => none
  | .analog => some (.analog ⟨k / 256 % 256, Nat.mod_lt _ (by decide)⟩)
  | .ptp => some .ptp
  | .serdes => some .serdes
  | .phy => some (.phy ⟨k / 256 % 8, Nat.mod_lt _ (by decide)⟩)

/-- LOG_WHAT of a record (Table 03-12). -/
def logWhat (code index sub op : Nat) (path : Path) : Nat :=
  code + sub * 2 ^ 8 + index * 2 ^ 16 + pathCode path * 2 ^ 32 + op * 2 ^ 36 + pathWho path * 2 ^ 40 + 2 ^ 63

/-- One record goes into the abort log (R78): 80 records in a ring, LOG_TOTAL saturating. [DEDUCED, assumption 36] -/
def logAbort (p : Part) (path : Path) (op code index sub value : Nat) : Part :=
  let n := reg p G.logNext % 80
  let p := setReg p (G.logWhen n) p.time.tick
  let p := setReg p (G.logWhat n) (logWhat code index sub op path)
  let p := setReg p (G.logValue n) (value % 2 ^ 64)
  let p := setReg p G.logNext ((n + 1) % 80)
  setReg p G.logTotal (min (reg p G.logTotal + 1) 0xFFFFFFFF)

/-- The abort log is emptied (Table 03-11, LOG_CLEAR). -/
def clearLog (p : Part) : Part :=
  let p := (List.range 80).foldl (fun p r => setReg (setReg (setReg p (G.logWhen r) 0) (G.logWhat r) 0) (G.logValue r) 0) p
  setReg (setReg p G.logTotal 0) G.logNext 0

end Sys2Proof.Machine
end

