-- ==== Sys2Proof/Config.lean ====
section
/-!
DEFINITION. What the manual leaves to an implementation or does not state, as constants without a body: nothing can be proved of
their values (the assumption of each is named beside it).
-/

namespace Sys2Proof

/-- The interpolator's coefficient at distance k from its centre for factor i, in units of 2^-18; the manual gives the
response's symmetry, span and mask, not its coefficients (R184, R185; assumption 5). [UNVERIFIED, assumption 5] -/
opaque Config.interpCoef : Nat → Nat → Int

/-- The error of a tone product, by phase and amplitude: the manual gives the precision of intermediate values, not how the
cosine is evaluated (R182, R189, R192; assumption 6). It is limited to one unit of 2^-18 where it is used. [UNVERIFIED, assumption 6] -/
opaque Config.toneError : Nat → Nat → Int

/-- Random bits drawn by the part, by number of the draw: AES-XTS keys, nonces and device keys (R300, R366; assumption 7).
[DESIGN CHOICE, assumption 7] -/
opaque Config.drawn : Nat → Nat

/-- The digest SHA-256 of a byte string, as a 256-bit number (FIPS 180-4, named and not restated by the manual; assumption 8).
[DESIGN CHOICE, assumption 8] -/
opaque Config.sha256 : List Byte → Nat

/-- SLH-DSA verification of a signature over a message under a public key (FIPS 205; assumption 8). [DESIGN CHOICE, assumption 8] -/
opaque Config.slhVerify : Nat → List Byte → List Byte → Bool

/-- SLH-DSA signing with the device key of a number, of a message (FIPS 205; assumption 8). -/
opaque Config.slhSign : Nat → List Byte → List Byte

/-- The public key of a drawn device key (assumption 8). -/
opaque Config.publicKey : Nat → Nat

/-- Whether a partner that released its drive in a tick did so for a loss of clock or for a reset: the part that takes over cannot tell the
two rows of Table 14-4 apart (assumption 12). [UNVERIFIED, assumption 12] -/
opaque Config.releasedByReset : Nat → Bool

/-- The pattern set that a firmware version runs as its self-test, the count of patterns it expects for a set, and the signature of a pass
(R353, R360): properties of the firmware that the manual does not give (assumption 15). [DESIGN CHOICE, assumption 15] -/
opaque Config.coverageId : Nat → Nat

/-- The count of patterns that a firmware version expects for a pattern set (assumption 15). [DESIGN CHOICE, assumption 15] -/
opaque Config.patternCount : Nat → Nat → Nat

/-- The signature that a firmware version holds for a pattern set (assumption 15). -/
opaque Config.goodMisr : Nat → Nat → Nat

/-- The core cycle, before the decide point of its tick, in which the controller detects an uncorrectable line during a refill: the manual says
only that it precedes the decide stage that places the line (R297; assumption 41). [UNVERIFIED, assumption 41] -/
opaque Config.refillErrorCycle : Nat → Nat

/-- How many ticks VDDO stays below 1.6 V, where the part is not reset for it (R374; assumption 104). [UNVERIFIED, assumption 104] -/
opaque Config.vddoTicks : Nat → Nat

/-- The residual skew in ps that the tracker of a channel measures in a tick: the manual bounds the skew at the pins, not the residual (R231;
assumption 88). [UNVERIFIED, assumption 88] -/
opaque Config.skewResidual : Nat → Nat → Int

/-- What the part measures of its supplies, its temperature, REFIN, its links and their occupancy, by entry and tick: the manual names the quantity,
and its value is the board's (R350, R354, R385, Table 03-6, Table 14-10; assumption 92). [UNVERIFIED, assumption 92] -/
opaque Config.measured : Nat → Nat → Nat

/-- The frequency word in 2^-48 that the servo sets from its n-th measurement: the manual gives the word's resolution, not the servo's law (R26;
assumption 105). [UNVERIFIED, assumption 105] -/
opaque Config.servoWord : Nat → Nat

end Sys2Proof
end

