-- ==== Sys2Proof/Machine/Ops.lean ====
section
/-!
DEFINITION. The named operations that every family shares: time and stamps, raising producer pulses, what leaves the part, groups and
their members, planned values, segment descriptors and stored samples, and a channel's plan for a tick.
-/

namespace Sys2Proof.Machine

/-- The absolute core cycle of the present moment, 25 per frame (R12). -/
def acyc (p : Part) : Nat := 25 * p.time.tick + p.time.cyc

/-- The part with the core cycle of the present moment moved to c. -/
def atCyc (p : Part) (c : Nat) : Part := { p with time := { p.time with cyc := c } }

/-- The sample index of sample s of tick k (R42). -/
def nOf (k s : Nat) : Nat := 250 * k + s

/-- The tick after k: the counts before EPOCH pass through the wrap to 0 (R42). -/
def nextTick (k : Nat) : Nat := (k + 1) % 2 ^ 64

/-- Something leaves the part. [DEDUCED, assumption 75] -/
def say (p : Part) (o : Out) : Part := { p with sent := o :: p.sent }

/-- A word of the MSI-X table at reset: every vector masked, as PCI Express has it. [PRESUMED, assumption 90] -/
def vectorDefault (i : Nat) : Nat := if i % 4 = 3 then 1 else 0

/-- Vector v of the MSI-X table is masked: bit 0 of the last of its four words (R249). [PRESUMED, assumption 90] -/
def msixMasked (p : Part) (v : Nat) : Bool := bit (kget vectorDefault p.strm.vectors (4 * v + 3)) 0

/-- An MSI-X message is raised, or waits while its vector is masked; vector 0xFFFF is none, and a lost host receives none (R102, R249, R268). -/
def raiseMsix (p : Part) (v : Nat) : Part :=
  if v < 256 ∧ reg p G.hostLink = 0 then
    if msixMasked p v then { p with strm := { p.strm with msixWait := kput v 1 p.strm.msixWait } } else say p (.msix v)
  else p

/-- A producer asserts with the given stamp and generation in the core cycle that holds the stamp (R95). -/
def raiseAt (p : Part) (tick off src gen : Nat) : Part :=
  { p with fab := { p.fab with producers := p.fab.producers ++ [⟨25 * tick + off / 10, ⟨tick, off, src, gen⟩⟩] } }

/-- A producer asserts now, stamped at the start of the core cycle, generation 0 (Table 04-1). -/
def raiseNow (p : Part) (src : Nat) : Part := raiseAt p p.time.tick (10 * p.time.cyc) src 0

/-- The core domain stands still, and with it the event fabric and the pins (R22). -/
def coreStopped (p : Part) : Bool := decide (reg p G.clockState = 2)

/-- The load group of channel c (R204). -/
def groupOf (p : Part) (c : Nat) : Nat := reg p (G.loadGroup c) % 16

/-- The members of load group g, lowest first (R204). -/
def members (p : Part) (g : Nat) : List Nat := (List.range 256).filter fun c => groupOf p c = g

/-- A group runs while LG_STATE reads 2 to 5 (R205). -/
def groupRuns (p : Part) (g : Nat) : Bool := decide (2 ≤ reg p (G.lgState g))

/-- Some load group runs. -/
def anyRuns (p : Part) : Bool := (List.range 16).any fun g => groupRuns p g

/-- The sequencer of channel c. -/
def seqOf (p : Part) (c : Chan) : Seq := p.seqs.get c

/-- The part with sequencer s in channel c. -/
def setSeq (p : Part) (c : Chan) (s : Seq) : Part := { p with seqs := p.seqs.set c.val s c.isLt }

/-- The datapath of channel c. -/
def dpOf (p : Part) (c : Chan) : Dp := p.dps.get c

/-- The part with datapath d in channel c. -/
def setDp (p : Part) (c : Chan) (d : Dp) : Part := { p with dps := p.dps.set c.val d c.isLt }

/-- The output of channel c. -/
def outOf (p : Part) (c : Chan) : OutSt := p.outs.get c

/-- The part with output o in channel c. -/
def setOut (p : Part) (c : Chan) (o : OutSt) : Part := { p with outs := p.outs.set c.val o c.isLt }

/-- Load group g. -/
def grpOf (p : Part) (g : Grp) : GroupSt := p.grps.get g

/-- The part with load group state x in group g. -/
def setGrp (p : Part) (g : Grp) (x : GroupSt) : Part := { p with grps := p.grps.set g.val x g.isLt }

/-- The value of a list of commits (tick, key, value) at key k: the last one, if any. -/
def lastCommit (k : Nat) (l : List (Nat × Nat × Nat)) : Option Nat :=
  ((l.filter fun e => e.2.1 = k).getLast?).map (·.2.2)

/-- The value that a decide stage works with: a value already committed to a closed tick, else the value in force (R12, R207). -/
def planned (p : Part) (k : Nat) : Nat :=
  match lastCommit k (p.grps.toList.flatMap (·.commits)) with
  | some v => v
  | none => reg p k

/-- The part without values that are committed to a tick not yet come: planned values of it are the values in force. -/
def inForce (p : Part) : Part := { p with grps := Vector.replicate 16 GroupSt.idle }

/-- A segment descriptor (Table 05-1). -/
structure SegDesc where
  base      : Nat
  length    : Nat
  format    : Nat
  residence : Nat
  role      : Nat
  edgePtr   : Nat
  edgeCount : Nat
  tag       : Nat
  deriving DecidableEq, Repr

/-- The fields of a descriptor record (Table 05-1). -/
def readDesc (w : Nat) : SegDesc :=
  ⟨bits w 31 0, bits w 63 32, bits w 65 64, bits w 67 66, bits w 69 68, bits w 95 80, bits w 111 96, bits w 127 112⟩

/-- The number of the built-in zero segment (R120). -/
def zeroSeg : Nat := 16383

/-- The record of descriptor d in force; the built-in zero segment reads as R120 says. -/
def descRecord (p : Part) (d : Nat) : Nat :=
  if d = zeroSeg then 250 * 2 ^ 32 + 2 ^ 66 + 2 ^ 68 else kget (fun _ => 0) p.mem.descs d

/-- Descriptor d in force. -/
def descOf (p : Part) (d : Nat) : SegDesc := readDesc (descRecord p d)

/-- Bytes of a stored sample of a format: 2 for real16, 4 for complex16 (R116). -/
def sampleBytes (format : Nat) : Nat := if format = 1 then 4 else 2

/-- The bytes of a stored sample of descriptor d as channel c plays it: the built-in segment takes the datapath's format
(R120). -/
def segBytes (p : Part) (d : Nat) : Nat := sampleBytes (descOf p d).format

/-- The memory is in its canonical form: addresses rise strictly, and no entry holds what an unlisted address reads as. -/
def Memory.wf (m : List Host.Cell) : Bool := kwf (fun _ => (0 : Byte)) m

/-- The byte of DRAM at an address; a byte that nothing has written reads as zero (R130, R301). [DESIGN CHOICE, assumption 9] -/
def dramByte (m : List Host.Cell) (a : Nat) : Byte := kget (fun _ => (0 : Byte)) m a

/-- n bytes of DRAM from address a. -/
def dramRead (m : List Host.Cell) (a n : Nat) : List Byte := (List.range n).map fun i => dramByte m (a + i)

/-- The memory with these bytes stored at their addresses, in order. -/
def dramPut (m : List Host.Cell) (l : List (Nat × Byte)) : List Host.Cell := l.foldl (fun m e => kset (fun _ => (0 : Byte)) m e.1 e.2) m

/-- The 16-bit slot of channel c's Inset store (R125). [DESIGN CHOICE, assumption 9] -/
def insetSlot (p : Part) (c slot : Nat) : Nat := kget (fun _ => 0) p.mem.inset (65536 * c + slot)

/-- The plan of channel c for tick m, empty if none was made. -/
def planOf (p : Part) (c : Chan) (m : Nat) : TickPlan :=
  ((p.plans.get c).find? fun t => t.tick = m).getD ⟨m, [], [], [], [], [], [], false⟩

/-- The plan of channel c for its tick replaced or added. -/
def putPlan (p : Part) (c : Chan) (t : TickPlan) : Part :=
  { p with plans := p.plans.set c.val (((p.plans.get c).filter fun u => u.tick ≠ t.tick) ++ [t]) c.isLt }

/-- A span is placed in the plan of tick m; an empty span is none. -/
def addSpan (p : Part) (c : Chan) (m : Nat) (s : Span) : Part :=
  if s.begin_ < s.end_ then
    let t := planOf p c m
    putPlan p c { t with spans := t.spans ++ [s] }
  else p

/-- A commit takes its place in a list that is in the order of Table 01-4: after those of its rank (R15). -/
def insertEff (x : EffAt) : List EffAt → List EffAt
  | [] => [x]
  | y :: r => if x.rank < y.rank then x :: y :: r else y :: insertEff x r

/-- A datapath commit is placed in the plan of tick m, at sample n and at its place of Table 01-4 (R15). -/
def addEff (p : Part) (c : Chan) (m rank n : Nat) (e : Eff) : Part :=
  let t := planOf p c m
  putPlan p c { t with effs := insertEff ⟨n, rank, e⟩ t.effs }

/-- Marker edges are placed in the plan of tick m. -/
def addEdges (p : Part) (c : Chan) (m : Nat) (l : List EdgeAt) : Part :=
  if l.isEmpty then p
  else
    let t := planOf p c m
    putPlan p c { t with edges := t.edges ++ l }

/-- A producer pulse of channel c is placed at sample n in the plan of tick m (R163). -/
def addPulse (p : Part) (c : Chan) (m n src gen : Nat) : Part :=
  let t := planOf p c m
  putPlan p c { t with pulses := t.pulses ++ [⟨n / 250, n % 250, src, gen⟩] }

/-- A value of the Gazetteer is to change at tick m. -/
def addOp (p : Part) (c : Chan) (m : Nat) (o : RegOp) : Part :=
  let t := planOf p c m
  putPlan p c { t with ops := t.ops ++ [o] }

/-- The decide stage of tick m acted on a pulse of generation g (R97). -/
def addActed (p : Part) (c : Chan) (m g : Nat) : Part :=
  let t := planOf p c m
  putPlan p c { t with acted := t.acted ++ [g] }

/-- The key of real-time input i of channel c: EV0 to EV7 at 0, JMP0 to JMP7 at 8, MUTE and UNMUTE at 16, PARK at 18, ADVANCE
at 19 (Table 04-2). -/
def chLatch (c i : Nat) : Nat := 32 * c + i

/-- The key of input i of group g: STOP, RESTART, START, STROBE (Table 04-2). -/
def grpLatch (g i : Nat) : Nat := 8192 + 4 * g + i

/-- W_P0, the worst wait of one P0 request in ns (R314). -/
def waitP0 (p : Part) : Nat :=
  reg p G.memLatFixed + 16 + (if reg p G.memRefreshMode = 0 then reg p G.tRfcNs else reg p G.tRfcsbNs) + 1000 + 4 * 48

/-- RA_HEAD_TICKS, the minimum lead (R314). -/
def headTicks (p : Part) : Nat := ceilDiv (waitP0 p * reg p G.ticksPerSecond) (10 ^ 9)

/-- The latch at a key, if it holds a pulse. -/
def latchAt (p : Part) (k : Nat) : Option Latch := kfind k p.fab.latches

/-- The latch at a key is emptied. -/
def dropLatch (p : Part) (k : Nat) : Part := { p with fab := { p.fab with latches := kdel k p.fab.latches } }

/-- Several latches are emptied. -/
def dropLatches (p : Part) (l : List Nat) : Part := l.foldl dropLatch p

/-- The sub-channel of a DRAM byte address (R274). -/
def subOf (p : Part) (a : Nat) : SubCh := ⟨a / 2 ^ reg p G.memGrain % 8, Nat.mod_lt _ (by decide)⟩

/-- The local byte address within the sub-channel (R274). -/
def localOf (p : Part) (a : Nat) : Nat :=
  let g := reg p G.memGrain
  a % 2 ^ g + a / 2 ^ (g + 3) * 2 ^ g

/-- The bank, as 32 rank + 4 bank group + bank, and the row of a DRAM byte address (R275, Table 12-6). -/
def bankRow (p : Part) (a : Nat) : Nat × Nat :=
  let l := localOf p a
  let two := decide (reg p G.memRanks = 2)
  let row := if two then l >>> 19 else l >>> 18
  let rank := if two then bits l 18 18 else 0
  let group := bits l 15 13 ^^^ row % 8
  let bank := bits l 17 16 ^^^ row / 8 % 4
  (32 * rank + 4 * group + bank, row)

/-- An uncorrectable line is met by a read of a port (R297). -/
def recordUe (p : Part) (line port : Nat) : Part :=
  let a := 64 * line
  let rank := (bankRow p a).1 / 32
  let p := orReg (addReg p G.eccUncorrectable 1) G.memFlags 8
  let p := setReg p G.ueLast (a % 2 ^ 38 + port * 2 ^ 38 + (subOf p a).val * 2 ^ 41 + rank * 2 ^ 44 + 2 ^ 63 + p.time.tick % 2 ^ 64 * 2 ^ 64)
  if p.dram.ueTick = p.time.tick + 1 then p
  else raiseNow { p with dram := { p.dram with ueTick := p.time.tick + 1 } } 0xB87

/-- Uncorrectable lines met by a read of n bytes from address a by a port are recorded, lowest first (R297); every line of a failed memory is
one (R295). -/
def recordRange (p : Part) (a n port : Nat) : Part :=
  ((List.range (ceilDiv (a % 64 + n) 64)).filter fun i => decide (reg p G.memState = 3) || p.mem.bad.contains (a / 64 + i)).foldl
    (fun q i => recordUe q (a / 64 + i) port) p

end Sys2Proof.Machine
end

