-- ==== Sys2Proof/Machine/Traverse.lean ====
section
/-!
DEFINITION. Traverse steps and their 128-bit records (R138, Table 06-1, Table 06-2): the steps as data, the ranges of their
fields, and the coding in both directions. A record that is not the coding of a step with its fields in range is refused.
-/

namespace Sys2Proof.Machine

/-- A Traverse step (Table 06-2). lead l holds the number of ticks, 1 to 64. -/
inductive Step where
  | play (seg count : Nat)
  | playt (seg evm : Nat) (clr exit : Bool)
  | loop (count : Nat)
  | endl
  | call (t : Target)
  | ret
  | jump (t : Target)
  | brev (evm : Nat) (clr : Bool) (t : Target)
  | waitev (evm : Nat) (clr anchor : Bool) (waitout delay : Nat)
  | waittick (rel : Bool) (waitout offset tick : Nat)
  | tone (a : ToneArgs)
  | fire
  | level (target value : Nat)
  | lead (l : Nat)
  | halt (hout : Nat)
  | sync (waitout tag : Nat)
  deriving DecidableEq, Repr

/-- A target names a step offset of 18 bits or a Waypoint of 8 bits (field TGT of Table 06-1). -/
def targetOk : Target → Bool
  | .offset o => decide (o < 2 ^ 18)
  | .waypoint w => decide (w < 256)

/-- The fields of a TONE step are in range: at least one set bit, MODE zero unless M (Table 06-2). -/
def toneOk (a : ToneArgs) : Bool :=
  decide (a.tone < 4) && (a.setF || a.setP || a.setA || a.setM) && (a.setM || !a.mode) &&
    decide (a.amp < 2 ^ 16) && decide (a.phase < 2 ^ 32) && decide (a.ftw < 2 ^ 48)

/-- Every field of a step is in the range Table 06-2 gives it. -/
def stepOk : Step → Bool
  | .play seg count => decide (seg < 2 ^ 14) && decide (0 < count) && decide (count < 2 ^ 32)
  | .playt seg evm _ _ => decide (seg < 2 ^ 14) && decide (evm < 256)
  | .loop count => decide (count < 2 ^ 32)
  | .endl => true
  | .call t => targetOk t
  | .ret => true
  | .jump t => targetOk t
  | .brev evm _ t => decide (0 < evm) && decide (evm < 256) && targetOk t
  | .waitev evm _ _ o d => decide (0 < evm) && decide (evm < 256) && decide (o < 3) && decide (d < 2 ^ 16)
  | .waittick _ o s t => decide (o < 3) && decide (s < 250) && decide (t < 2 ^ 64)
  | .tone a => toneOk a
  | .fire => true
  | .level t v => decide (t < 3) && decide (v < 2 ^ 32)
  | .lead l => decide (0 < l) && decide (l ≤ 64)
  | .halt h => decide (h < 3)
  | .sync o g => decide (o < 3) && decide (g < 256)

/-- Field TGT, bits [63:32] (Table 06-1). -/
def encodeTarget : Target → Nat
  | .offset o => o * 2 ^ 32
  | .waypoint w => 2 ^ 63 + w * 2 ^ 32

/-- The 128-bit record of a step (Table 06-1, Table 06-2). -/
def encodeStep : Step → Nat
  | .play seg count => 0x01 + seg * 2 ^ 32 + count * 2 ^ 64
  | .playt seg evm clr ex => 0x02 + ofBool ex * 2 ^ 8 + evm * 2 ^ 16 + ofBool clr * 2 ^ 24 + seg * 2 ^ 32
  | .loop count => 0x03 + count * 2 ^ 64
  | .endl => 0x04
  | .call t => 0x05 + encodeTarget t
  | .ret => 0x06
  | .jump t => 0x07 + encodeTarget t
  | .brev evm clr t => 0x08 + evm * 2 ^ 16 + ofBool clr * 2 ^ 24 + encodeTarget t
  | .waitev evm clr anchor o d =>
      0x09 + ofBool anchor * 2 ^ 8 + o * 2 ^ 12 + evm * 2 ^ 16 + ofBool clr * 2 ^ 24 + d * 2 ^ 32
  | .waittick rel o s t => 0x0A + ofBool rel * 2 ^ 9 + o * 2 ^ 12 + s * 2 ^ 32 + t * 2 ^ 64
  | .tone a =>
      0x0B + a.tone * 2 ^ 8 + ofBool a.setF * 2 ^ 10 + ofBool a.setP * 2 ^ 11 + ofBool a.setA * 2 ^ 12 +
        ofBool a.setM * 2 ^ 13 + ofBool a.mode * 2 ^ 14 + a.amp * 2 ^ 16 + a.phase * 2 ^ 32 + a.ftw * 2 ^ 64
  | .fire => 0x0C
  | .level t v => 0x0D + t * 2 ^ 8 + v * 2 ^ 32
  | .lead l => 0x0E + (l % 64) * 2 ^ 32
  | .halt h => 0x0F + h * 2 ^ 8
  | .sync o g => 0x10 + o * 2 ^ 12 + g * 2 ^ 32

/-- The target field TGT of a record (Table 06-1). -/
def readTarget (w : Nat) : Target := if bit w 63 then .waypoint (bits w 39 32) else .offset (bits w 49 32)

/-- The step whose opcode and fields the bits of a record hold, before any check; none for an opcode outside Table 06-2. -/
def readStep (w : Nat) : Option Step :=
  match w % 256 with
  | 0x01 => some (.play (bits w 45 32) (bits w 95 64))
  | 0x02 => some (.playt (bits w 45 32) (bits w 23 16) (bit w 24) (bit w 8))
  | 0x03 => some (.loop (bits w 95 64))
  | 0x04 => some .endl
  | 0x05 => some (.call (readTarget w))
  | 0x06 => some .ret
  | 0x07 => some (.jump (readTarget w))
  | 0x08 => some (.brev (bits w 23 16) (bit w 24) (readTarget w))
  | 0x09 => some (.waitev (bits w 23 16) (bit w 24) (bit w 8) (bits w 13 12) (bits w 47 32))
  | 0x0A => some (.waittick (bit w 9) (bits w 13 12) (bits w 39 32) (bits w 127 64))
  | 0x0B => some (.tone ⟨bits w 9 8, bit w 10, bit w 11, bit w 12, bit w 13, bit w 14, bits w 31 16, bits w 63 32,
      bits w 111 64⟩)
  | 0x0C => some .fire
  | 0x0D => some (.level (bits w 9 8) (bits w 63 32))
  | 0x0E => some (.lead (if bits w 37 32 = 0 then 64 else bits w 37 32))
  | 0x0F => some (.halt (bits w 9 8))
  | 0x10 => some (.sync (bits w 13 12) (bits w 39 32))
  | _ => none

/-- The step a record holds: its fields are in range and every bit that Table 06-2 does not assign is zero (R138). -/
def decodeStep (w : Nat) : Option Step :=
  match readStep w with
  | some i => if stepOk i && decide (encodeStep i = w) then some i else none
  | none => none

/-- A record that a write of a step accepts: the empty step or a step (R138). -/
def stepRecordOk (w : Nat) : Bool := decide (w = 0) || (decodeStep w).isSome

end Sys2Proof.Machine
end

