-- ==== Sys2Proof/Machine/Sequencer.lean ====
section
/-!
DEFINITION. What a channel's sequencer does (chapters 06, 07 and 11): executing one step at a boundary, advancing a playing step or
a wait to the end of a tick, taking a jump, and the underrun policies. m is the tick whose plan is made; every effect is placed
in that plan. The decide stage and the commands that run a single step use the same operations.
-/

namespace Sys2Proof.Machine

/-- The interpolation factor a decide stage works with (R184). -/
def interpOf (p : Part) (c : Nat) : Nat := planned p (G.interp c)

/-- The step record at offset o of channel c's allocation (R136). -/
def stepWord (p : Part) (c o : Nat) : Nat := kget (fun _ => 0) p.mem.trav (planned p (G.trvBase c) + o)

/-- Waypoint w of channel c: its offset if VALID (R156). -/
def waypoint (p : Part) (c w : Nat) : Option Nat :=
  let e := bits (planned p (G.wpTable c)) (32 * w + 31) (32 * w)
  if bit e 31 then some (bits e 17 0) else none

/-- The offset a target names (R146). -/
def targetOffset (p : Part) (c : Nat) : Target → Option Nat
  | .offset o => some o
  | .waypoint w => waypoint p c w

/-- The action instant J0 of a pulse (R164). -/
def actionInstant (q : Pulse) (delay : Nat) (anchor : Bool) : Nat :=
  250 * (q.tick + 3) + (if anchor then q.off else 0) + delay

/-- A pulse may be acted on by the decide stage of tick m (R140). -/
def qualifies (m : Nat) (q : Pulse) : Bool := decide (q.tick + 3 ≤ m)

/-- The event latches of channel c in mask evm that hold a pulse which the decide stage of tick m may act on (R140). -/
def readyLatches (p : Part) (c evm m : Nat) : List (Nat × Pulse) :=
  (List.range 8).filterMap fun i =>
    if bit evm i then
      match latchAt p (chLatch c i) with
      | some l => if qualifies m l.pulse then some (i, l.pulse) else none
      | none => none
    else none

/-- The earliest stamp of a list of latched pulses, ties to the lower number (R148). -/
def earliest (l : List (Nat × Pulse)) : Option Pulse :=
  l.foldl (fun a e =>
    match a with
    | none => some e.2
    | some q => if nOf e.2.tick e.2.off < nOf q.tick q.off then some e.2 else some q) none

/-- A jump that is pending on channel c: input, J0, whether it is a seam jump, Waypoint, generation (R166, Table 06-5). -/
structure Jump where
  input : Nat
  j0    : Nat
  seam  : Bool
  wp    : Nat
  gen   : Nat
  deriving DecidableEq, Repr

/-- The jumps pending on channel c, lowest input first (R166, R168). -/
def pendingJumps (p : Part) (c : Nat) : List Jump :=
  (List.range 8).filterMap fun i =>
    match latchAt p (chLatch c (8 + i)) with
    | some l =>
      let b := planned p (G.jmpBind c i)
      some ⟨i, actionInstant l.pulse (bits b 31 16) (bit b 9), bit b 8, bits b 7 0, l.pulse.gen⟩
    | none => none

/-- The jump that reaches its instant first among candidates (instant, jump); ties go to the lower input (R168). -/
def firstJump (l : List (Nat × Jump)) : Option (Nat × Jump) :=
  l.foldl (fun a e =>
    match a with
    | none => some e
    | some b => if e.1 < b.1 then some e else some b) none

/-- Pending jumps whose J0 is not later than n are discarded and counted in JMP_DROPS (R168, Table 07-3). [DEDUCED, assumption 30] -/
def dropJumpsTo (p : Part) (c : Chan) (n : Nat) (keep : Option Nat) : Part :=
  (pendingJumps p c).foldl (fun q j =>
    if some j.input = keep then dropLatch q (chLatch c (8 + j.input))
    else if j.j0 ≤ n then addReg (dropLatch q (chLatch c (8 + j.input))) (G.jmpDrops c) 1
    else q) p

/-- Every pending jump of the channel is discarded and counted (Table 07-3). [DEDUCED, assumption 30] -/
def dropAllJumps (p : Part) (c : Chan) : Part :=
  (pendingJumps p c).foldl (fun q j => addReg (dropLatch q (chLatch c (8 + j.input))) (G.jmpDrops c) 1) p

/-- A generation acted on by the stage of tick m whose instant n lies in a later tick is carried there as well (R97). -/
def actOn (p : Part) (c : Chan) (m n g : Nat) : Part :=
  let p := addActed p c m g
  if m < n / 250 then
    let s := seqOf p c
    setSeq p c { s with carry := s.carry ++ [(n / 250, g)] }
  else p

/-- The bytes of channel c's reservation up to position pos that are written and not yet placed are skipped: written, never played
(SQ_SKIPPED). [DEDUCED, assumption 56] -/
def skipTo (p : Part) (c : Chan) (pos : Nat) : Part :=
  (p.strm.open_.filter fun e => e.2.1 = c.val).foldl (fun q e =>
    let n := min (min pos e.2.2.2) (reg q (G.sqWritten e.1)) - e.2.2.1
    if n = 0 then q else addReg q (G.sqSkipped e.1) n) p

/-- The reservation of channel c's play ends: its bytes not placed are skipped (R253, R267). [DEDUCED, assumption 56] -/
def endReservation (p : Part) (c : Chan) : Part :=
  let p := (p.strm.open_.filter fun e => e.2.1 = c.val).foldl (fun q e => skipTo q c e.2.2.2) p
  { p with strm := { p.strm with open_ := p.strm.open_.filter fun e => e.2.1 ≠ c.val } }

/-- SQ_PLAYPOS: the earliest reserved byte that no decide stage has placed or skipped (R253). -/
def playPos (p : Part) (q : Nat) : Nat :=
  (p.strm.open_.filter fun e => e.1 = q).foldl (fun a e => min a e.2.2.1) (reg p (G.sqReserved q))

/-- SQ_AHEAD, signed (R253). -/
def aheadOf (p : Part) (q : Nat) : Int := (reg p (G.sqWritten q) : Int) - (playPos p q : Int)

/-- Where STREAM_LOW of a queue with a mark stands once SQ_AHEAD is a (R254): it can pulse after SQ_AHEAD has reached the mark for the first time,
and after a pulse once it has reached twice the mark. -/
def lowStage (stage : Nat) (a low : Int) : Nat :=
  if stage = 0 ∧ low ≤ a then 1 else if stage = 1 ∧ a < low then 2 else if stage = 2 ∧ 2 * low ≤ a then 1 else stage

/-- The registers SQ_PLAYPOS and SQ_AHEAD brought up to date, and STREAM_LOW raised where SQ_AHEAD has fallen below the mark
(R253, R254). -/
def settleQueue (p : Part) (q : Nat) : Part :=
  let p := setReg (setReg p (G.sqPlaypos q) (playPos p q)) (G.sqAhead q) (ofSigned 64 (aheadOf p q))
  let was := kget (fun _ => 0) p.strm.armed q
  let now := lowStage was (aheadOf p q) (reg p (G.sqLowMark q) : Nat)
  if reg p (G.sqEnable q) ≠ 1 ∨ now = was then p
  else
    let p := { p with strm := { p.strm with armed := kset (fun _ => 0) p.strm.armed q now } }
    if now = 2 then raiseNow p (0xB40 + q) else p

/-- A repetition of descriptor d begins on channel c: a stream-resident one reserves its bytes (R119, R253). Answers the ring
position of its first stored sample. -/
def reserve (p : Part) (c : Chan) (d : Nat) : Part × Nat :=
  let s := descOf p d
  if s.residence = 2 then
    let q := bits s.base 5 0
    let pos := reg p (G.sqReserved q)
    let stop := pos + s.length * segBytes p d
    let p := endReservation p c
    let p := setReg p (G.sqReserved q) stop
    (settleQueue { p with strm := { p.strm with open_ := p.strm.open_ ++ [(q, c.val, pos, stop)] } } q, pos)
  else (endReservation p c, 0)

/-- The stored sample that the source gives at output sample n on channel c at factor i. -/
def sampleAt (p : Part) (src : Src) (n i : Nat) : Smp :=
  match src with
  | .play d start pos =>
    let k := (n - start) / i
    let s := descOf p d
    if d = zeroSeg then .zero
    else if s.residence = 2 then .ring (bits s.base 5 0) (pos + k * segBytes p d) else .seg d k
  | .fill d start =>
    if d = zeroSeg then .zero else .seg d (((n - start) / i) % max 1 (descOf p d).length)
  | .gap d start =>
    if d = zeroSeg then .zero else .seg d (((n - start) / i) % max 1 (descOf p d).length)
  | .hold s _ => s
  | .rest _ => .rest
  | .none => .zero

/-- A span of channel c from begin_ to end_ is placed and its last stored sample is kept for a later hold (R147). -/
def place (p : Part) (c : Chan) (m begin_ end_ : Nat) (src : Src) : Part :=
  if begin_ < end_ then
    let p := addSpan p c m ⟨begin_, end_, src⟩
    let s := seqOf p c
    setSeq p c { s with last := sampleAt p src (end_ - 1) (interpOf p c) }
  else p

/-- A gap of channel c from a to b - 1 is placed: gaps that follow one another are one, looped from its first sample (R121). The last stored
sample stays (R147). -/
def placeLost (p : Part) (c : Chan) (m a b : Nat) : Part :=
  let g := (seqOf p c).gap
  let start := if g.2 = a then g.1 else a
  let p := addSpan p c m ⟨a, b, .gap (planned p (G.gapSeg c)) start⟩
  setSeq p c { seqOf p c with gap := (start, b) }

/-- The marker edges of descriptor d, played from start, that fall on output samples a to b - 1 (R123). -/
def edgesIn (p : Part) (c d start a b : Nat) : List EdgeAt :=
  let s := descOf p d
  (List.range s.edgeCount).filterMap fun k =>
    let e := kget (fun _ => 0) p.mem.edges (s.edgePtr + k)
    let n := start + bits e 27 6 * interpOf p c + bits e 5 0
    if a ≤ n ∧ n < b then some ⟨n, bits e 30 30, bits e 29 28⟩ else none

/-- The source that a wait code stands for from boundary begin_ (Table 06-4). -/
def waitSrc (p : Part) (c : Chan) (code begin_ : Nat) : Src :=
  if code = 0 then .hold (seqOf p c).last begin_
  else if code = 1 then .rest begin_
  else .fill (planned p (G.idleSeg c)) begin_

/-- The bytes of queue q written as of the decide point during tick k: the latest entry of the history not after k (R261). -/
def writtenAt (p : Part) (q k : Nat) : Nat :=
  (p.strm.hist.filter fun e => e.1 = q ∧ e.2.1 ≤ k).foldl (fun a e => max a e.2.2) 0

/-- Stored samples of the play that are on time for tick m (R261): those written before the ring cutoff. -/
def onTime (p : Part) (_c : Chan) (m d pos : Nat) : Nat :=
  (writtenAt p (bits (descOf p d).base 5 0) (m - 2 - headTicks p) - pos) / segBytes p d

/-- The DRAM line that holds a stored sample of a play. -/
def sampleLine (p : Part) (d pos idx : Nat) : Nat :=
  let s := descOf p d
  if s.residence = 0 then (64 * s.base + idx * segBytes p d) / 64
  else
    let q := bits s.base 5 0
    (planned p (G.sqRingBase q) + (pos + idx * segBytes p d) % max 1 (planned p (G.sqRingSize q))) / 64

/-- A stored sample of a play whose DRAM line is uncorrectable (R297). -/
def sampleBad (p : Part) (d pos idx : Nat) : Bool :=
  decide ((descOf p d).residence ≠ 1 ∧ d ≠ zeroSeg) && (decide (reg p G.memState = 3) || p.mem.bad.contains (sampleLine p d pos idx))

/-- The first stored sample from idx to stop - 1 whose badness is b, else stop. -/
def runEnd (p : Part) (d pos : Nat) (b : Bool) : Nat → Nat → Nat → Nat
  | 0, idx, _ => idx
  | fuel + 1, idx, stop =>
    if stop ≤ idx then stop else if sampleBad p d pos idx = b then idx else runEnd p d pos b fuel (idx + 1) stop

/-- Uncorrectable lines that the refill of stored samples idx to stop - 1 has read are recorded (R297): a line counts with the first of its
samples in a repetition. The core cycle of detection lies before the decide point; the manual does not give it. [UNVERIFIED, assumption 41] -/
def recordLost (p : Part) (d pos idx stop : Nat) : Part :=
  let lost := (List.range (stop - idx)).filter fun i =>
    decide (idx + i = 0) || decide (sampleLine p d pos (idx + i) ≠ sampleLine p d pos (idx + i - 1))
  let was := p.time.cyc
  let p := atCyc p (Config.refillErrorCycle (acyc p) % 12)
  atCyc (lost.foldl (fun q i => recordUe q (sampleLine q d pos (idx + i)) 0) p) was

/-- Output samples a to b - 1 of a play are placed with their edges: sound stored samples, and samples of uncorrectable lines as gap,
which makes the repetition short (R163, R297). Answers whether it did. -/
def placePlay (p : Part) (c : Chan) (m d start pos : Nat) : Nat → Nat → Nat → Part × Bool
  | 0, _, _ => (p, false)
  | fuel + 1, a, b =>
    if b ≤ a then (p, false)
    else
      let i := max 1 (interpOf p c)
      let k := (a - start) / i
      let top := (b - 1 - start) / i + 1
      if sampleBad p d pos k then
        let stop := runEnd p d pos false 251 k top
        let e := min b (start + i * stop)
        let p := placeLost (recordLost p d pos k stop) c m a e
        let p := addEdges p c m (edgesIn p c d start a e)
        let s := descOf p d
        let p := if s.residence = 2 then addOp p c m (.add (G.sqGapSamples (bits s.base 5 0)) (e - a)) else p
        ((placePlay p c m d start pos fuel e b).1, true)
      else
        let e := min b (start + i * runEnd p d pos true 251 k top)
        let p := addEdges p c m (edgesIn p c d start a e)
        placePlay (place p c m a e (.play d start pos)) c m d start pos fuel e b

/-- The boundary of channel c moved to n with a new act. fresh: the boundary ends a playing step; seam: it is a seam. -/
def goTo (p : Part) (c : Chan) (n : Nat) (a : Act) (fresh seam : Bool) : Part :=
  let s := seqOf p c
  setSeq p c { s with at_ := n, act := a, fresh := fresh, seam := seam }

/-- A step execution is counted (R159, SEQ_STEPS). -/
def countStep (p : Part) (c : Chan) (m : Nat) : Part := addOp p c m (.add (G.seqSteps c) 1)

/-- The underrun bookkeeping of an episode that begins at sample n (R261). -/
def beginEpisode (p : Part) (c : Chan) (m q policy n idx : Nat) : Part :=
  let s := seqOf p c
  let p := setSeq p c { s with ep := some ⟨q, policy, n, idx⟩ }
  let p := addPulse p c m n (0x800 + c.val) 0
  addOp (addOp p c m (.add (G.sqUnderruns q) 1)) c m (.bits (G.sqFlags q) 1)

/-- An episode ends at sample n: SQ_LAST_EVENT takes its record (R264, Table 11-7). -/
def endEpisode (p : Part) (c : Chan) (m n : Nat) : Part :=
  let s := seqOf p c
  match s.ep with
  | none => p
  | some e =>
    addOp (setSeq p c { s with ep := none }) c m
      (.set (G.sqLastEvent e.q) (e.since + n * 2 ^ 64 + c.val * 2 ^ 128 + e.policy * 2 ^ 136))

/-- The marker edges of the repetition that channel c plays, from sample j on (R167, R233); a stall has kept back those from its first sample
on. [DEDUCED, assumption 80] -/
def edgesLeft (p : Part) (c : Chan) (j : Nat) : Nat :=
  let s := seqOf p c
  match s.act with
  | .play x =>
    let first := match s.ep with
      | some e => if e.policy = 2 then min j e.since else j
      | none => j
    (edgesIn p c x.d x.start first (x.start + (descOf p x.d).length * max 1 (interpOf p c))).length
  | _ => 0

/-- The marker edges of a cut repetition that lie at or after j are cut, and counted with tick m (R167, R233). [DEDUCED, assumption 80] -/
def cutRest (p : Part) (c : Chan) (m j : Nat) : Part :=
  if edgesLeft p c j = 0 then p else addOp p c m (.add (G.mrkCut c) (edgesLeft p c j))

/-- The channel leaves its path at J for offset o of the Waypoint path: the source is cut, both stacks are cleared, the boundary
is J, an episode and its reservation end (R157, R167, R267). -/
def enterPath (p : Part) (c : Chan) (m j : Nat) (o : Option Nat) : Part :=
  let p := endReservation (endEpisode (cutRest p c m j) c m j) c
  let s := seqOf p c
  let a := match o with
    | some x => Act.run x
    | none => Act.stuck 0 .badWaypoint
  setSeq p c { s with at_ := j, act := a, fresh := false, seam := false, loops := [], calls := [], armed := none }

/-- A jump takes effect at J (R167, R168): WAYPOINT pulses, the counters move, the jumps that belonged to the old path go. -/
def jumpAt (p : Part) (c : Chan) (m j wp : Nat) (input : Option Nat) : Part :=
  let p := dropJumpsTo p c j input
  let p := enterPath p c m j (waypoint p c wp)
  let p := addPulse p c m j (0x400 + c.val) 0
  addOp (addOp p c m (.set (G.jmpLastAt c) j)) c m (.add (G.jmpCount c) 1)

/-- A pending jump takes effect at J. -/
def takeJump (p : Part) (c : Chan) (m j : Nat) (x : Jump) : Part :=
  jumpAt (actOn p c m j x.gen) c m j x.wp (some x.input)

/-- The jump that acts at boundary n of a run: a tick jump, or at a seam either kind, whose J0 has been reached (R166). -/
def jumpAtBoundary (p : Part) (c : Chan) (n : Nat) (seam : Bool) : Option Jump :=
  (firstJump (((pendingJumps p c).filter fun j => decide (j.j0 ≤ n) && (seam || !j.seam)).map fun j => (n, j))).map (·.2)

/-- The offset of the ENDL that pairs with a LOOP, searched from offset o at nesting depth k (R144). -/
def findEndl (p : Part) (c : Nat) : Nat → Nat → Nat → Option Nat
  | 0, _, _ => none
  | fuel + 1, o, k =>
    if planned p (G.trvSize c) ≤ o then none
    else
      match stepWord p c o % 256 with
      | 0x03 => findEndl p c fuel (o + 1) (k + 1)
      | 0x04 => if k = 0 then some o else findEndl p c fuel (o + 1) (k - 1)
      | _ => findEndl p c fuel (o + 1) k

/-- The loop stack after a JUMP or a taken BREV to offset o: entries pushed since the current call frame whose body does not
contain o are popped (R146). The top of the stack is the head of the list. -/
def popOut (s : Seq) (o : Nat) : List LoopEntry :=
  let depth := ((s.calls.head?).map (·.depth)).getD 0
  let own := s.loops.take (s.loops.length - depth)
  (own.filter fun e => decide (e.body ≤ o ∧ o < e.endl)) ++ s.loops.drop (s.loops.length - depth)

/-- A sequencer stands still (R158). [DESIGN CHOICE, assumption 18] -/
def getStuck (p : Part) (c : Chan) (pc : Nat) (w : StuckWhy) : Part :=
  let s := seqOf p c
  setSeq p c { s with act := .stuck pc w }

/-- Go to the offset a target names, or stand still where its Waypoint is not VALID. -/
def goTarget (p : Part) (c : Chan) (pc n : Nat) (t : Target) : Part :=
  match targetOffset p c t with
  | some o =>
    let s := seqOf p c
    setSeq p c { s with at_ := n, act := .run o, fresh := false, seam := false, loops := popOut s o }
  | none => getStuck p c pc .badWaypoint

/-- PLAY or PLAYT begins at boundary n: its first repetition starts, an armed LEAD has found its step (R142, R143, R154). -/
def beginPlay (p : Part) (c : Chan) (m pc n d : Nat) (left : Option Nat) (evm : Nat) (clr ex : Bool) : Part :=
  let s := seqOf p c
  let cands := match s.armed with
    | some (lp, l) => s.cands ++ [(lp, l, n)]
    | none => s.cands
  let p := setSeq p c { s with armed := none, cands := cands }
  let r := reserve p c d
  let stop := n + (descOf p d).length * interpOf p c
  let p := goTo r.1 c n (.play ⟨pc, d, n, r.2, left, false, evm, clr, ex, stop, none⟩) false false
  addOp p c m (.set (G.strmRepsDone c) 0)

/-- WAITEV, WAITTICK, SYNC or a stepped wait begins at boundary n. -/
def beginWait (p : Part) (c : Chan) (pc next n out : Nat) (what : WaitFor) (rel : Option Nat) : Part :=
  goTo p c n (.wait ⟨pc, next, n, out, what, rel⟩) false false

/-- One execution of a step at boundary n by channel c, whose next step is pc + 1 (Table 06-3). -/
def execStep (p : Part) (c : Chan) (m pc : Nat) (i : Step) : Part :=
  let p := countStep p c m
  let s := seqOf p c
  let n := s.at_
  match i with
  | .play d count => beginPlay p c m pc n d (some count) 0 false false
  | .playt d evm clr ex => beginPlay p c m pc n d none evm clr ex
  | .loop count =>
    if 8 ≤ s.loops.length then getStuck p c pc .loopOverflow
    else
      match findEndl p c (planned p (G.trvSize c)) (pc + 1) 0 with
      | none => getStuck p c pc .noEndl
      | some e =>
        setSeq p c { s with act := .run (pc + 1), fresh := false, seam := false,
                            loops := ⟨pc + 1, e, if count = 0 then none else some count⟩ :: s.loops }
  | .endl =>
    match s.loops with
    | [] => getStuck p c pc .loopUnderflow
    | e :: r =>
      match e.remain with
      | none => goTo p c n (.run e.body) false false
      | some k =>
        if k ≤ 1 then setSeq p c { s with act := .run (pc + 1), fresh := false, seam := false, loops := r }
        else setSeq p c { s with act := .run e.body, fresh := false, seam := false,
                                 loops := { e with remain := some (k - 1) } :: r }
  | .call t =>
    if 8 ≤ s.calls.length then getStuck p c pc .callOverflow
    else
      match targetOffset p c t with
      | none => getStuck p c pc .badWaypoint
      | some o =>
        setSeq p c { s with act := .run o, fresh := false, seam := false,
                            calls := ⟨pc + 1, s.loops.length⟩ :: s.calls }
  | .ret =>
    match s.calls with
    | [] => getStuck p c pc .callUnderflow
    | e :: r =>
      setSeq p c { s with act := .run e.ret, fresh := false, seam := false, calls := r,
                          loops := s.loops.drop (s.loops.length - e.depth) }
  | .jump t => goTarget p c pc n t
  | .brev evm clr t =>
    let l := readyLatches p c evm m
    if l.isEmpty then
      goTo (setSeq p c { s with untaken := some (s.untaken.getD (t, s.loops, s.calls)) }) c n (.run (pc + 1)) false false
    else
      let p := l.foldl (fun q e => addActed q c m e.2.gen) p
      let p := if clr then dropLatches p (l.map fun e => chLatch c e.1) else p
      goTarget p c pc n t
  | .waitev evm clr anchor out delay => beginWait p c pc (pc + 1) n out (.event evm clr anchor delay) none
  | .waittick rel out off tick =>
    let t := if rel then 250 * (s.m0 + tick) + off + s.slip else 250 * tick + off
    if t ≤ n then
      let p := addOp (addOp p c m (.bits (G.seqFlags c) 1)) c m (.add (G.seqLate c) 1)
      goTo p c n (.run (pc + 1)) false false
    else beginWait p c pc (pc + 1) n out .tick (some t)
  | .sync out tag =>
    if planned p (G.syncPart c) = 1 then beginWait p c pc (pc + 1) n out (.sync tag) none
    else goTo p c n (.run (pc + 1)) false false
  | .tone a =>
    let mask := ofBool a.setF + 2 * ofBool a.setP + 4 * ofBool a.setA + 8 * ofBool a.setM
    let rec_ := a.ftw + a.amp * 2 ^ 48 + a.phase * 2 ^ 64 + ofBool a.mode * 2 ^ 96
    let p := addOp (addEff p c m 4 n (.tone a.tone mask rec_)) c m (.add (G.toneCommits c) 1)
    goTo p c n (.run (pc + 1)) false false
  | .fire => goTo (addPulse p c m n (0x100 + c.val) 0) c n (.run (pc + 1)) false false
  | .level t v =>
    let e := if t = 0 then Eff.gain v else if t = 1 then Eff.offset v else Eff.level v
    goTo (addEff p c m 4 n e) c n (.run (pc + 1)) false false
  | .lead l => setSeq p c { s with act := .run (pc + 1), fresh := false, seam := false, armed := some (pc, l) }
  | .halt h => goTo (addPulse (endEpisode p c m n) c m n (0x500 + c.val) 0) c n (.halted pc h n) false false

/-- A stepped wait begins at boundary n before step pc: STEP_READY pulses (R170). -/
def enterStepped (p : Part) (c : Chan) (m pc n : Nat) : Part :=
  beginWait (addPulse p c m n (0x900 + c.val) 0) c pc pc n (planned p (G.stepOut c)) .stepped none

/-- Step i, if any stands there, runs at the boundary of the cursor pc, unless a jump acts there or stepped mode waits there (R139, R166,
R170). -/
def advStep (p : Part) (c : Chan) (m pc : Nat) (i : Option Step) : Part :=
  let s := seqOf p c
  match jumpAtBoundary p c s.at_ s.seam with
  | some j => takeJump p c m s.at_ j
  | none =>
    if s.fresh ∧ planned p (G.seqMode c) = 1 then enterStepped p c m pc s.at_
    else if planned p (G.trvSize c) ≤ pc then getStuck p c pc .outsideAllocation
    else
      match i with
      | none => getStuck p c pc .emptyStep
      | some i => execStep p c m pc i

/-- The step at the cursor runs at its boundary. -/
def advRun (p : Part) (c : Chan) (m pc : Nat) : Part := advStep p c m pc (decodeStep (stepWord p c pc))

/-- The exit of a PLAYT once a latch qualifies (R143). -/
def resolveExit (p : Part) (c : Chan) (m : Nat) (x : Play) : Part × Play :=
  if x.left = none ∧ x.exitAt = none then
    let l := readyLatches p c x.evm m
    match earliest l with
    | none => (p, x)
    | some q =>
      let t := 250 * (q.tick + 3)
      let p := addActed p c m q.gen
      let p := if x.clr then dropLatches p (l.map fun e => chLatch c e.1) else p
      (p, { x with exitAt := some t })
  else (p, x)

/-- The instant from which a PLAYT ends, once it is resolved: a tick exit not before the end of the first repetition (R143). -/
def exitFrom (x : Play) : Option Nat := x.exitAt.map fun t => if x.exitTick then max t x.firstEnd else t

/-- The repetition of a playing step ends at its seam n (R142, R143, R165, R266): a short one is played again in its place, a
PLAY with none left and a PLAYT whose exit is reached go on with the next step, otherwise the next repetition begins. -/
def seamOf (p : Part) (c : Chan) (m n : Nat) (x : Play) : Part :=
  let p :=
    if x.short then addOp p c m (.add (G.strmShort c) 1)
    else addOp p c m (.rep (G.strmRepsDone c) (G.strmShort c) x.start x.firstEnd)
  let left := if x.short then x.left else x.left.map fun k => k - 1
  let ends := match x.left with
    | some _ => decide (left = some 0)
    | none => (x.exitAt.map fun t => decide (t ≤ n)).getD false
  if ends then goTo (endReservation (endEpisode p c m n) c) c n (.run (x.pc + 1)) true true
  else
    match jumpAtBoundary p c n true with
    | some j => takeJump p c m n j
    | none =>
      let r := reserve p c x.d
      goTo (countStep r.1 c m) c n (.play { x with start := n, pos := r.2, left := left, short := false }) false false

/-- The placed part of a stream play moves SQ_PLAYPOS (R253). -/
def consume (p : Part) (c : Chan) (pos : Nat) : Part :=
  { p with strm := { p.strm with open_ := p.strm.open_.map fun e =>
      if e.2.1 = c.val then (e.1, e.2.1, max e.2.2.1 (min pos e.2.2.2), e.2.2.2) else e } }

/-- Gap or held samples from a to b - 1 in an episode (Table 11-5); a gap loops from the episode's first sample (R121). -/
def placeGap (p : Part) (c : Chan) (m a b : Nat) : Part :=
  let s := seqOf p c
  match s.ep with
  | none => p
  | some e =>
    if a < b then
      let src := if e.policy = 1 then Src.hold s.last e.since else Src.gap (planned p (G.gapSeg c)) e.since
      addOp (addSpan p c m ⟨a, b, src⟩) c m (.add (G.sqGapSamples e.q) (b - a))
    else p

/-- A play of a stream queue places output samples a to b - 1 under the queue's policy (R261 to R266). Answers the sample up to
which it placed, and the play. -/
def placeStream (p : Part) (c : Chan) (m a b : Nat) (x : Play) : Part × Nat × Play :=
  let i := max 1 (interpOf p c)
  let q := bits (descOf p x.d).base 5 0
  let w := segBytes p x.d
  let avail := onTime p c m x.d x.pos
  let top := (b - 1 - x.start) / i
  let s := seqOf p c
  match s.ep with
  | some e =>
    if e.policy = 2 then
      let last := min ((descOf p x.d).length - 1) (e.idx + (250 * (m + 1) - a - 1) / i)
      if a % 250 = 0 ∧ last < avail then
        let slip := a - e.since
        let p := endEpisode p c m a
        let p := addOp (addOp p c m (.add (G.sqSlip q) slip)) c m (.bits (G.sqFlags q) 2)
        let x := { x with start := a - i * e.idx, firstEnd := x.firstEnd + slip }
        let p := setSeq p c { seqOf p c with slip := (seqOf p c).slip + slip }
        (goTo p c a (.play x) false false, a, x)
      else (place p c m a b (waitSrc p c (planned p (G.sqStallOut q)) e.since), b, x)
    else
      let k0 := ceilDiv (a - x.start) i
      if a % 250 = 0 ∧ top < avail then
        let from_ := min b (x.start + i * k0)
        let p := endEpisode (placeGap p c m a from_) c m from_
        let r := placePlay p c m x.d x.start x.pos 252 from_ b
        (consume r.1 c (x.pos + (top + 1) * w), b, { x with short := x.short || r.2 || decide (a < from_) })
      else (consume (skipTo (placeGap p c m a b) c (x.pos + (top + 1) * w)) c (x.pos + (top + 1) * w), b, { x with short := true })
  | none =>
    if top < avail then
      let r := placePlay p c m x.d x.start x.pos 252 a b
      (consume r.1 c (x.pos + (top + 1) * w), b, { x with short := x.short || r.2 })
    else
      let p0 := max a (x.start + i * avail)
      let r := placePlay p c m x.d x.start x.pos 252 a p0
      let p := consume r.1 c (x.pos + avail * w)
      let policy := planned p (G.sqPolicy q)
      let policy := if policy = 3 ∧ (seqOf p c).escaped = m + 1 then 0 else policy
      let p := beginEpisode p c m q policy p0 avail
      (p, p0, { x with short := x.short || r.2 || decide (policy < 2) })

/-- A playing step advances from its boundary towards the end of tick m: to its seam, its exit, a jump, the first missing
sample, or the end of the tick. At its seam it ends or goes on, after every channel that has come less far (R253). -/
def advPlay (p : Part) (c : Chan) (m : Nat) (x : Play) : Part :=
  let rx := resolveExit p c m x
  let p := rx.1
  let x := rx.2
  let s := seqOf p c
  let a := s.at_
  let stop := x.start + (descOf p x.d).length * max 1 (interpOf p c)
  let stall := match s.ep with
    | some e => decide (e.policy = 2)
    | none => false
  let bound := if stall then 250 * (m + 1) else min stop (250 * (m + 1))
  let exit := if x.exitTick && !stall then exitFrom x else none
  let bound := match exit with
    | some t => min bound (max a t)
    | none => bound
  let cut := firstJump (((pendingJumps p c).filter fun j => (!j.seam || stall) && decide (max a j.j0 < bound)).map
    fun j => (max a j.j0, j))
  let b := match cut with
    | some (j, _) => j
    | none => bound
  let r :=
    if (descOf p x.d).residence = 2 ∧ a < b then placeStream p c m a b x
    else
      let r := placePlay p c m x.d x.start x.pos 252 a b
      (r.1, b, { x with short := x.short || r.2 })
  let p := r.1
  let n := r.2.1
  let x := r.2.2
  if n < b then
    match (seqOf p c).ep with
    | some e =>
      if e.policy = 3 then
        let p := jumpAt p c m n (planned p (G.sqEscWp e.q)) none
        let s := seqOf p c
        setSeq p c { s with escaped := m + 1 }
      else goTo p c n (.play x) false false
    | none => goTo p c n (.play x) false false
  else
    match cut with
    | some (j, y) => takeJump p c m j y
    | none =>
      if (exit.map fun t => decide (t ≤ n)).getD false ∧ n < stop ∧ n < 250 * (m + 1) then
        goTo (endReservation (endEpisode p c m n) c) c n (.run (x.pc + 1)) true true
      else if n = stop ∧ a = n ∧ !stall ∧ n < 250 * (m + 1) then seamOf p c m n x
      else goTo p c n (.play x) false false

/-- The release of a wait, as the decide stage of tick m finds it (R148, R171): the instant, the latches that qualified. -/
def resolveWait (p : Part) (c : Chan) (m : Nat) (w : Wait) : Part × Wait :=
  match w.rel, w.what with
  | some _, _ => (p, w)
  | none, .event evm clr anchor delay =>
    let l := readyLatches p c evm m
    match earliest l with
    | none => (p, w)
    | some q =>
      let t := max w.since (actionInstant q delay anchor)
      let p := actOn p c m t q.gen
      let p := if clr then dropLatches p (l.map fun e => chLatch c e.1) else p
      (p, { w with rel := some t })
  | none, .stepped =>
    let mask := planned p (G.stepAdvMask c)
    let early := if planned p (G.stepEarly c) = 1 then
        (List.range 8).filter fun i => bit mask i &&
          match latchAt p (chLatch c i) with
          | some l => qualifies m l.pulse && decide (nOf l.pulse.tick l.pulse.off < w.since)
          | none => false
      else []
    let p := early.foldl (fun q i => addReg (dropLatch q (chLatch c i)) (G.stepEarlyDrops c) 1) p
    let l := readyLatches p c mask m
    match earliest l with
    | none => (p, w)
    | some q =>
      let t := max w.since (actionInstant q (planned p (G.stepDelay c)) (planned p (G.stepAnchor c) = 1))
      let p := dropLatches (actOn p c m t q.gen) (l.map fun e => chLatch c e.1)
      (addOp p c m (.add (G.stepCount c) 1), { w with rel := some t })
  | none, _ => (p, w)

/-- A wait advances towards the end of tick m: to a jump, to its release, or to the end of the tick (R147, R166). -/
def advWait (p : Part) (c : Chan) (m : Nat) (w : Wait) : Part :=
  let r := resolveWait p c m w
  let p := r.1
  let w := r.2
  let a := (seqOf p c).at_
  let bound := match w.rel with
    | some t => min (max a t) (250 * (m + 1))
    | none => 250 * (m + 1)
  let released := match w.rel with
    | some t => decide (max a t < 250 * (m + 1))
    | none => false
  let cut := firstJump (((pendingJumps p c).filter fun j =>
    decide (max a j.j0 < bound) || (!j.seam && released && decide (max a j.j0 = bound))).map fun j => (max a j.j0, j))
  let b := match cut with
    | some (j, _) => j
    | none => bound
  let p := place p c m a b (waitSrc p c w.out w.since)
  match cut with
  | some (j, y) => takeJump p c m j y
  | none => if released then goTo p c b (.run w.next) false false else goTo p c b (.wait w) false false

/-- A halted channel places its output under HOUT up to the end of tick m; a jump has no effect on it (Table 06-4, R155,
Table 07-1 case 7). -/
def advHalted (p : Part) (c : Chan) (m pc h since : Nat) : Part :=
  let a := (seqOf p c).at_
  let hi := 250 * (m + 1)
  let p := dropJumpsTo p c (hi - 1) none
  let hold := Src.hold (seqOf p c).last since
  let p :=
    if h = 0 then place p c m a hi (.rest since)
    else if h = 1 then place p c m a hi hold
    else if a % 250 = 0 then place p c m a hi .none
    else place p c m a hi hold
  goTo p c hi (.halted pc h since) false false

/-- One advance of channel c in the decide stage of tick m. -/
def advance (p : Part) (c : Chan) (m : Nat) : Part :=
  match (seqOf p c).act with
  | .run pc => advRun p c m pc
  | .play x => advPlay p c m x
  | .wait w => advWait p c m w
  | .halted pc h since => advHalted p c m pc h since
  | .off => goTo p c (250 * (m + 1)) .off false false
  | .parked => goTo (dropJumpsTo p c (250 * (m + 1) - 1) none) c (250 * (m + 1)) .parked false false
  | .stuck pc w => goTo p c (250 * (m + 1)) (.stuck pc w) false false

/-- A sequencer that a decide stage still has to advance for tick m. -/
def behind (s : Seq) (m : Nat) : Bool :=
  match s.act with
  | .off => false
  | .stuck _ _ => false
  | _ => decide (s.at_ < 250 * (m + 1))

/-- The channel that is furthest behind, ties to the lower number: plays begin in the order of their start sample (R253). -/
def nextChan (p : Part) (m : Nat) : Option Chan :=
  (List.finRange 256).foldl (fun a c =>
    if behind (seqOf p c) m then
      match a with
      | none => some c
      | some b => if (seqOf p c).at_ < (seqOf p b).at_ then some c else some b
    else a) none

/-- Every channel advanced to the end of tick m, one advance at a time; a sequencer that takes more than its share of the fuel
stands still (R158). -/
def advanceAll (m : Nat) : Nat → Part → Part
  | 0, p =>
    match nextChan p m with
    | none => p
    | some c => getStuck p c 0 .tooManySteps
  | fuel + 1, p =>
    match nextChan p m with
    | none => p
    | some c => advanceAll m fuel (advance p c m)

/-- One channel advanced to the end of tick m. [DESIGN CHOICE, assumption 66] -/
def advanceChan (c : Chan) (m : Nat) : Nat → Part → Part
  | 0, p => if behind (seqOf p c) m then getStuck p c 0 .tooManySteps else p
  | fuel + 1, p => if behind (seqOf p c) m then advanceChan c m fuel (advance p c m) else p

end Sys2Proof.Machine
end

