-- ==== Sys2Proof/Machine/Decide.lean ====
section
/-!
DEFINITION. The decide stage of one tick (R12, R140): group actions and plan commits that fall on it, the load strobe, the tone gate,
rendezvous, the sequencers, the paced queues, the generations of the pulses placed, leads and the prediction, and what the
sequencer entries read in that tick.
-/

namespace Sys2Proof.Machine

/-- Channel number c as a channel, modulo 256. -/
def chan (c : Nat) : Chan := ⟨c % 256, Nat.mod_lt c (by decide)⟩

/-- Group number g as a group, modulo 16. -/
def grp (g : Nat) : Grp := ⟨g % 16, Nat.mod_lt g (by decide)⟩

/-- The load group a channel belongs to once its pending LOAD_GROUP is in force (R60, R204). -/
def nextGroup (p : Part) (c : Nat) : Nat := ((kfind (G.loadGroup c) p.gz.pend).getD (planned p (G.loadGroup c))) % 16

/-- An entry of a channel (Table 03-5): an index from 0x2000 to 0x26FF names its channel in the low byte. -/
def keyChan (k : Nat) : Option Nat := if 0x2000 ≤ k / 256 ∧ k / 256 < 0x2700 then some (k / 256 % 256) else none

/-- The pending values of one channel, of Live entries only or of all. -/
def pendingOf (p : Part) (c : Nat) (liveOnly : Bool) : List (Nat × Nat) :=
  p.gz.pend.filter fun e => keyChan e.1 = some c && (!liveOnly || ((entryOf e.1).map (·.cls)) = some .live)

/-- The values that a start of group g at tick m brings into force (R60, R207). -/
def startCommits (p : Part) (g m : Nat) : List (Nat × Nat × Nat) :=
  (List.range 256).flatMap fun c =>
    if nextGroup p c = g then (pendingOf p c false).map fun e => (m, e.1, e.2)
    else if groupOf p c = g then [(m, G.loadGroup c, nextGroup p c)]
    else []

/-- The values that a restart of group g at tick m brings into force: Staged ones (R60). -/
def restartCommits (p : Part) (g m : Nat) : List (Nat × Nat × Nat) :=
  (members p g).flatMap fun c => ((pendingOf p c false).filter fun e => !(pendingOf p c true).contains e).map fun e => (m, e.1, e.2)

/-- The part as channel c will find it: the values committed to closed ticks in force, and while a start of its group is pending those that wait
for it (R60, R127, R137). -/
def soon (p : Part) (c : Nat) : Part :=
  let frozen := ((p.grps.toList.flatMap (·.commits)).filter fun e => keyChan e.2.1 = some c).map (·.2)
  let waiting := if reg p (G.lgState (nextGroup p c)) = 3 then pendingOf p c false else []
  { inForce p with gz := { p.gz with regs := (frozen ++ waiting).foldl (fun m e => kset regDefault m e.1 e.2) p.gz.regs } }

/-- The part as a plan commit of channel c leaves its allocation (R162). -/
def withPlan (p : Part) (c base size entry : Nat) : Part :=
  setReg (setReg (setReg (inForce p) (G.trvBase c) base) (G.trvSize c) size) (G.trvEntry c) entry

/-- The part under each plan of channel c that counts as in use (R127, R129, R137): the plan in force while its group runs, up to the tick in which
the next takes effect, the plan that is to come into force, and those of accepted plan commits. -/
def plansInUse (p : Part) (c : Nat) : List Part :=
  let g := groupOf p c
  (if groupRuns p g ∧ reg p (G.lgState g) ≠ 3 then [inForce p] else []) ++
    (if groupRuns p g ∨ groupRuns p (nextGroup p c) then [soon p c] else []) ++
    (p.adm.plans.filter fun k => decide (k.chan = c)).map fun k => withPlan p c k.base k.size k.entry

/-- The values that a load strobe of group g at tick m commits (R207). -/
def strobeCommits (p : Part) (g m : Nat) : List (Nat × Nat × Nat) :=
  (members p g).flatMap fun c => (pendingOf p c true).map fun e => (m, e.1, e.2)

/-- Commits are frozen into the plan of their tick, and wait for no other (R207). -/
def freeze (p : Part) (g : Grp) (l : List (Nat × Nat × Nat)) : Part :=
  let x := grpOf p g
  let p := setGrp p g { x with commits := x.commits ++ l }
  { p with gz := { p.gz with pend := l.foldl (fun m e => if kfind e.2.1 m = some e.2.2 then kdel e.2.1 m else m) p.gz.pend } }

/-- LEAD_OPEN of channel c: leads that have pulsed and are neither confirmed nor retracted (Table 07-6). -/
def openLeads (p : Part) (c : Chan) : Nat := ((seqOf p c).leads.filter (·.pulsed)).length + (seqOf p c).retr.length

/-- How many leads of a list wait for one of 8 unresolved ones to resolve (R177). -/
def waitingLeads (p : Part) (c : Chan) (l : List Lead) : Nat :=
  if 8 ≤ openLeads p c then (l.filter fun x => !x.pulsed && decide (x.at_ ≤ nOf p.time.tick (10 * p.time.cyc))).length else 0

/-- Every unresolved lead of a channel that has pulsed is retracted at sample n; one that is due before n still pulses and is retracted then;
the others are dropped, those that wait counted (R177, R178). A lead whose step begins before n, in a closed tick, is left to its step.
[DEDUCED, assumption 29] -/
def retractAll (p : Part) (c : Chan) (n gen : Nat) : Part :=
  let sure := (seqOf p c).leads.filter fun x => decide (x.doom = none ∧ x.start < n)
  let rest := (seqOf p c).leads.filter fun x => !decide (x.doom = none ∧ x.start < n)
  let p := addReg p (G.leadDropped c) (waitingLeads p c rest)
  let s := seqOf p c
  let open_ := rest.filter fun x => x.pulsed && decide (x.doom = none)
  let due := if 8 ≤ openLeads p c then [] else rest.filter fun x => !x.pulsed && decide (x.at_ < n ∧ x.doom = none)
  let doomed := rest.filter fun x => decide (x.doom ≠ none)
  setSeq p c { s with leads := sure ++ doomed ++ due.map fun x => { x with doom := some (n, gen) },
                      armed := none, cands := [], retr := s.retr ++ open_.map fun _ => (n, gen) }

/-- What the planner has fetched for ticks from m on, and its heads, are discarded and counted (R176). -/
def dropFetched (p : Part) (c : Chan) (m : Nat) : Part :=
  let s := seqOf p c
  let gone := ((s.chunks.filter fun x => decide (m ≤ x.tick)).map (·.bytes)).sum + (s.heads.map (·.2)).sum
  let p := { p with dram := { p.dram with wants := p.dram.wants.filter fun w => !decide (w.chan = c.val ∧ m ≤ w.tick) } }
  addReg (setSeq p c { s with chunks := [], heads := [] }) (G.pfDiscarded c) gone

/-- A channel's program ends at tick m: stacks and position are not kept, leads are retracted, pending jumps discarded, the
reservation of its play skipped (R141, R169, R178, R267). -/
def stopChan (p : Part) (c : Chan) (m gen : Nat) : Part :=
  let p := cutRest p c m (max (seqOf p c).at_ (250 * m))
  let p := endReservation (dropAllJumps (retractAll p c (250 * m) gen) c) c
  let p := dropFetched p c m
  let s := seqOf p c
  setSeq p c { s with at_ := 250 * m, act := if s.act = .parked then .parked else .off, fresh := false, seam := false, loops := [], calls := [],
                      ep := none }

/-- Latches of channel c that a start at tick m0 clears: pulses with a capture tick earlier than m0 - 3 (R141). -/
def staleLatches (p : Part) (c m0 : Nat) : List Nat :=
  (List.range 8 ++ [16, 17, 18, 19]).filterMap fun i =>
    match latchAt p (chLatch c i) with
    | some l => if l.pulse.tick + 3 < m0 then some (chLatch c i) else none
    | none => none

/-- The datapath values of channel c in force at a start at sample n: the tone records, gain, offset and level code, the tones
unmuted, the history cleared and the accumulators at F n (R187, R190, R198). -/
def startEffs (p : Part) (c : Nat) (n : Nat) : List (Nat × Eff) :=
  [(n, .tone 0 15 (planned p (G.toneRec0 c))), (n, .tone 1 15 (planned p (G.toneRec1 c))),
   (n, .tone 2 15 (planned p (G.toneRec2 c))), (n, .tone 3 15 (planned p (G.toneRec3 c))),
   (n, .gain (planned p (G.gain c))), (n, .offset (planned p (G.offset c))), (n, .level (planned p (G.levelCode c))),
   (n, .clearHistory)]

/-- Channel c begins its program at tick m, TRV_ENTRY first, both stacks empty (R141); without a program, or while a fault keeps
it parked, it does not play (R136, R226). -/
def startChan (p : Part) (c : Chan) (m : Nat) : Part :=
  let p := dropFetched (dropLatches (dropAllJumps p c) (staleLatches p c m)) c m
  let a :=
    if reg p (G.faultCause c) ≠ 0 then Act.parked
    else if planned p (G.trvSize c) = 0 then Act.off
    else Act.run (planned p (G.trvEntry c))
  let s := seqOf p c
  let p := setSeq p c { s with at_ := 250 * m, act := a, fresh := true, seam := false, m0 := m, last := .zero, loops := [],
                               calls := [], ep := none, armed := none, cands := [],
                               escaped := 0, paced := 250 * m, gap := (0, 0), slip := 0 }
  (startEffs p c (250 * m)).foldl (fun q e => addEff q c m 2 e.1 e.2) p

/-- The members of group g once the commits frozen for it are in force. -/
def plannedMembers (p : Part) (g : Nat) : List Nat := (List.range 256).filter fun c => planned p (G.loadGroup c) % 16 = g

/-- The datapath commits of a strobe of channel c (order 3 of Table 01-4): one tone commit for each TONE_REC (R151). -/
def strobeEffs (c n : Nat) (l : List (Nat × Nat × Nat)) : List (Nat × Eff) :=
  l.filterMap fun e =>
    if e.2.1 = G.toneRec0 c then some (n, .tone 0 15 e.2.2)
    else if e.2.1 = G.toneRec1 c then some (n, .tone 1 15 e.2.2)
    else if e.2.1 = G.toneRec2 c then some (n, .tone 2 15 e.2.2)
    else if e.2.1 = G.toneRec3 c then some (n, .tone 3 15 e.2.2)
    else if e.2.1 = G.gain c then some (n, .gain e.2.2)
    else if e.2.1 = G.offset c then some (n, .offset e.2.2)
    else if e.2.1 = G.levelCode c then some (n, .level e.2.2)
    else none

/-- The strobe of tick m is part of the plan: it comes about whatever LG_STROBE_AT says afterwards (R163, R208). -/
def fixStrobe (p : Part) (g : Grp) (m : Nat) : Part :=
  let x := grpOf p g
  if x.strobes.contains m then p else setGrp p g { x with strobes := x.strobes ++ [m] }

/-- A load strobe of group g at tick m is frozen into the plan (R207). -/
def planStrobe (p : Part) (g : Grp) (m : Nat) : Part :=
  let l := strobeCommits p g m
  let p := freeze (fixStrobe p g m) g l
  (members p g).foldl (fun q c =>
    (strobeEffs c (250 * m) l).foldl (fun q e =>
      let q := addEff q (chan c) m 3 e.1 e.2
      match e.2 with
      | .tone _ _ _ => addOp q (chan c) m (.add (G.toneCommits c) 1)
      | _ => q) q) p

/-- The latest span-ready tick of the members of group g that are in the sequence (R221); 0 if there is none. -/
def spanReady (p : Part) (g : Nat) : Nat :=
  ((List.range 256).filter fun c => nextGroup p c = g).foldl (fun a c => if (outOf p (chan c)).spanAt.isSome then max a (reg p (G.spanReadyTick c)) else a) 0

/-- Group g runs in tick m, as far as its pending commands tell (R141, R205). -/
def runsIn (p : Part) (g : Grp) (m : Nat) : Bool :=
  let x := grpOf p g
  match reg p (G.lgState g) with
  | 2 => true
  | 3 => (x.startAt.map fun t => decide (t ≤ m)).getD false
  | 4 => (x.stopAt.map fun t => decide (m < t)).getD false
  | 5 => true
  | _ => false

/-- A strobe of group g at tick m acts: the group runs, as R205 counts it, from its start command on (R208). [DEDUCED, assumption 81] -/
def strobeActs (p : Part) (g : Grp) (m : Nat) : Bool := decide (reg p (G.lgState g) = 3) || runsIn p g m

/-- A pulse of the group control task acts on the group at tick k + 3 (Table 04-2, R206, R208). -/
def groupPulse (p : Part) (g : Grp) (m : Nat) (input : Nat) : Part :=
  match latchAt p (grpLatch g input) with
  | none => p
  | some l =>
    if qualifies m l.pulse then
      let p := dropLatch p (grpLatch g input)
      let x := grpOf p g
      let st := reg p (G.lgState g)
      if input = 0 ∧ st = 2 then
        setReg (setGrp p g { x with stopAt := some m, stopGen := some l.pulse.gen }) (G.lgState g) 4
      else if input = 1 ∧ st = 2 then
        setReg (setGrp p g { x with restartAt := some m, stopGen := some l.pulse.gen }) (G.lgState g) 5
      else if input = 2 ∧ st = 1 then setReg (setGrp p g { x with startAt := some (max m (max (spanReady p g) (reg p (G.admGEntryReady g)))) }) (G.lgState g) 3
      else if input = 3 ∧ 2 ≤ st then (if strobeActs p g m then setGrp p g { x with strobes := (x.strobes.filter fun t => t ≠ m) ++ [m] } else p)
      else addReg p (G.lgDrops g) 1
    else p

/-- A strobe of group g falls on tick m (R208). -/
def strobesAt (p : Part) (g : Grp) (m : Nat) : Bool :=
  (grpOf p g).strobes.contains m || decide (reg p (G.lgStrobeAt g) = m ∧ m ≠ 0)

/-- What falls on tick m for group g: its stop, restart or start, and its strobe (Table 01-4 order 2 and 3, R209). -/
def groupTick (p : Part) (g : Grp) (m : Nat) : Part :=
  let p := (List.range 4).foldl (fun q i => groupPulse q g m i) p
  let x := grpOf p g
  let gen := (x.stopGen.map (· + 1)).getD 0
  if x.stopAt = some m then (members p g).foldl (fun q c => stopChan q (chan c) m gen) p
  else if x.restartAt = some m then
    let p := (members p g).foldl (fun q c => stopChan q (chan c) m gen) p
    let p := freeze p g (restartCommits p g m)
    let p := if strobesAt p g m then planStrobe p g m else p
    (plannedMembers p g).foldl (fun q c => startChan q (chan c) m) p
  else if x.startAt = some m then
    let p := freeze p g (startCommits p g m)
    let p := if strobesAt p g m then fixStrobe p g m else p
    (plannedMembers p g).foldl (fun q c => startChan q (chan c) m) p
  else if strobeActs p g m && strobesAt p g m then planStrobe p g m
  else p

/-- A pending stop or restart of group g at tick m or before cancels a plan commit of tick m (R162). -/
def commitCancelled (p : Part) (g : Grp) (m : Nat) : Bool :=
  let x := grpOf p g
  ((x.stopAt.map fun t => decide (t ≤ m)).getD false) || ((x.restartAt.map fun t => decide (t ≤ m)).getD false)

/-- A channel has executed HALT (R155). -/
def isHalted : Act → Bool
  | .halted _ _ _ => true
  | _ => false

/-- Channel c stands at a seam or in a wait at sample 0 of tick m, as its old program has it (R169). -/
def atSeam (p : Part) (c : Chan) (m : Nat) : Bool :=
  let s := seqOf p c
  match s.act with
  | .run _ => s.seam
  | .wait _ => true
  | .play x => decide (x.start + (descOf p x.d).length * max 1 (interpOf p c) = 250 * m)
  | _ => false

/-- A plan commit that falls on tick m (R162): the new allocation is in force from sample 0, the old program is cut, the new one
begins at its entry, at a seam where the old one had one or waited (R169); an empty one leaves the output to the park driver. A channel
parked by a fault stays parked (R226), and a halted one stays halted while it has a program (R155). [DEDUCED, assumption 78] -/
def commitTick (p : Part) (m : Nat) (k : PlanCommit) : Part :=
  let c := chan k.chan
  let g := grp (groupOf p k.chan)
  if k.tick = m ∧ groupRuns p g ∧ !commitCancelled p g m then
    let seam := atSeam p c m
    let p := freeze p g [(m, G.trvBase c, k.base), (m, G.trvSize c, k.size), (m, G.trvEntry c, k.entry)]
    let a := (seqOf p c).act
    if a = .parked ∨ (isHalted a ∧ k.size ≠ 0) then p
    else if k.size = 0 then
      let p := endReservation (endEpisode (cutRest p c m (250 * m)) c m (250 * m)) c
      let s := seqOf p c
      setSeq p c { s with at_ := 250 * m, act := .off, loops := [], calls := [], armed := none }
    else
      let p := enterPath p c m (250 * m) (some k.entry)
      setSeq p c { seqOf p c with seam := seam }
  else p

/-- The gate action of input i of channel c, 16 MUTE and 17 UNMUTE, where its J0 falls in tick m or before (R198). -/
def gateInput (c : Chan) (m : Nat) (p : Part) (i : Nat) : Part :=
  match latchAt p (chLatch c i) with
  | none => p
  | some l =>
    let j := actionInstant l.pulse (planned p (G.gateDelay c)) (planned p (G.gateAnchor c) = 1)
    if qualifies m l.pulse ∧ j < 250 * (m + 1) then
      let mask := planned p (G.gateMask c) % 16
      let p := dropLatch p (chLatch c i)
      if i = 16 then addEff p c m 7 (max j (250 * m)) (.mute mask) else addEff p c m 6 (max j (250 * m)) (.unmute mask)
    else p

/-- The gate actions of channel c for tick m, while its group runs (R198). -/
def gateTick (p : Part) (c : Chan) (m : Nat) : Part :=
  if runsIn p (grp (planned p (G.loadGroup c))) m then [17, 16].foldl (gateInput c m) p else p

/-- The channels of group g that take part in its rendezvous: those that play a program with SYNC_PART TRUE (R150). -/
def participants (p : Part) (g : Nat) : List Nat :=
  (plannedMembers p g).filter fun c => planned p (G.syncPart c) = 1 && decide ((seqOf p (chan c)).act ≠ .off)

/-- A participant has arrived: it waits at a SYNC, has halted, or is parked by a fault (R150). -/
def arrivedAt (s : Seq) : Option Nat :=
  match s.act with
  | .wait w =>
    match w.what with
    | .sync _ => some w.since
    | _ => none
  | .halted _ _ _ => some 0
  | .parked => some 0
  | _ => none

/-- The tags held at the rendezvous of group g. -/
def syncTags (p : Part) (g : Nat) : List Nat :=
  (participants p g).filterMap fun c =>
    match (seqOf p (chan c)).act with
    | .wait w =>
      match w.what with
      | .sync t => some t
      | _ => none
    | _ => none

/-- The rendezvous of group g, seen by the decide stage of tick m: when every participant has arrived, those that wait go on at
sample 0 of the tick after the latest arrival; unequal tags are recorded (R150). -/
def syncTick (p : Part) (g : Grp) (m : Nat) : Part :=
  let l := participants p g
  let at_ := l.filterMap fun c => arrivedAt (seqOf p (chan c))
  let tags := syncTags p g
  if at_.length = l.length ∧ tags ≠ [] then
    let t := max m (at_.foldl max 0 / 250 + 1)
    let uneven := tags.any fun a => tags.any fun b => a ≠ b
    l.foldl (fun q c =>
      let s := seqOf q (chan c)
      match s.act with
      | .wait w =>
        match w.what, w.rel with
        | .sync _, none =>
          let q := setSeq q (chan c) { s with act := .wait { w with rel := some (250 * t) } }
          if uneven then
            addOp (addOp q (chan c) m (.bits (G.seqFlags c) 2)) (chan c) m (.add (G.syncErrors c) 1)
          else q
        | _, _ => q
      | _ => q) p
  else p

/-- The waiting entries of channel c's paced queue, oldest first (R200). -/
def pacedQueue (p : Part) (c : Nat) : List Nat := kget (fun _ => []) p.paced c

/-- The datapath commit a paced entry makes (Table 05-5 of kinds: Table 08-5). -/
def pacedEff (e : Nat) : Option Eff :=
  let t := bits e 57 56
  match bits e 63 60 with
  | 0 => some (.level (ofSigned 32 (toSigned 16 (bits e 15 0))))
  | 1 => some (.tone t 1 (bits e 47 0))
  | 2 => some (.tone t 4 (bits e 15 0 * 2 ^ 48))
  | 3 => some (.tone t 2 (bits e 31 0 * 2 ^ 64))
  | 4 => some (.gain (bits e 31 0))
  | 5 => some (.offset (bits e 31 0))
  | _ => none

/-- One instant of channel c's paced queue at sample n of tick m: the head entry is applied and removed, or the instant finds none
(R201, R202). -/
def pacedInstant (p : Part) (c : Chan) (m n : Nat) : Part :=
  match pacedQueue p c with
  | [] => addOp p c m (.add (G.pacedStarved c) 1)
  | e :: r =>
    let p := { p with paced := kset (fun _ => []) p.paced c r }
    let p := match pacedEff e with
      | some f =>
        let q := addEff p c m 5 n f
        match f with
        | .tone _ _ _ => addOp q c m (.add (G.toneCommits c) 1)
        | _ => q
      | none => p
    let p := addOp (addOp p c m (.add (G.pacedApplied c) 1)) c m (.set (G.pacedFill c) r.length)
    if r.isEmpty then addPulse p c m n (0xE00 + c.val) 0 else p

/-- The grid instants of a timed paced queue from sample a to b - 1 (R201). -/
def gridInstants (start step a b : Nat) : List Nat :=
  (List.range 25).filterMap fun j =>
    let first := if a ≤ start then 0 else ceilDiv (a - start) step
    let n := start + (first + j) * step
    if a ≤ n ∧ n < b then some n else none

/-- The instants of channel c's paced queue in tick m that no stage has decided yet (R201). -/
def pacedTick (p : Part) (c : Chan) (m : Nat) : Part :=
  let s := seqOf p c
  let hi := 250 * (m + 1)
  if !runsIn p (grp (planned p (G.loadGroup c))) m ∨ hi ≤ s.paced then p
  else
    let mode := planned p (G.pacedMode c)
    let lo := max s.paced (250 * m)
    let p := setSeq p c { s with paced := hi }
    if mode = 1 then
      let start := if planned p (G.pacedStart c) = 0 then s.m0 else planned p (G.pacedStart c)
      let step := planned p (G.pacedInterval c) * (if planned p (G.pacedUnit c) = 0 then 250 else 10)
      (gridInstants (250 * start) (max 1 step) lo hi).foldl (fun q n => pacedInstant q c m n) p
    else if mode = 2 then
      match latchAt p (chLatch c 19) with
      | none => p
      | some l =>
        let j := actionInstant l.pulse (planned p (G.pacedDelay c)) (planned p (G.pacedAnchor c) = 1)
        if qualifies m l.pulse ∧ j < hi then pacedInstant (dropLatch p (chLatch c 19)) c m (max j lo) else p
    else p

/-- A sequencer producer, whose pulses take the generation of their decide stage (R97). -/
def isSeqSource (s : Nat) : Bool := decide (0x100 ≤ s ∧ s < 0x600) || decide (0x900 ≤ s ∧ s < 0xA00)

/-- FIRE steps at one sample produce one pulse (R153). -/
def mergeFires : List Pulse → List Pulse
  | [] => []
  | q :: r =>
    if decide (0x100 ≤ q.src ∧ q.src < 0x200) && r.any (fun x => x.src = q.src && x.tick = q.tick && x.off = q.off) then
      mergeFires r
    else q :: mergeFires r

/-- The generation of the pulses of tick m: one more than the highest generation acted on, 0 if none was (R97). -/
def stageGen (p : Part) (c : Chan) (m : Nat) : Nat :=
  let l := (planOf p c m).acted ++ ((seqOf p c).carry.filter fun e => e.1 = m).map (·.2)
  if l.isEmpty then 0 else l.foldl max 0 + 1

/-- The pulses of tick m take their generation, and generations carried to m are used up (R97, R153). -/
def sealPulses (p : Part) (c : Chan) (m : Nat) : Part :=
  let g := stageGen p c m
  let t := planOf p c m
  if t.pulses.isEmpty ∧ t.acted.isEmpty then p
  else
    let s := seqOf p c
    let p := setSeq p c { s with carry := s.carry.filter fun e => m < e.1 }
    putPlan p c { t with pulses := mergeFires (t.pulses.map fun q => if isSeqSource q.src then { q with gen := g } else q) }

/-- The part as the prediction of channel c sees it: stream data is taken as on time (R174). -/
def optimist (p : Part) : Part :=
  { p with strm := { p.strm with hist := (List.range 64).map fun q => (q, 0, 2 ^ 63) } }

/-- Channel c run ahead over k ticks from tick m (R174), with where it stands at the end of each; a SYNC goes on where every participant has
already arrived. -/
def runAhead (c : Chan) : Nat → Nat → Part × List (Nat × Act) → Part × List (Nat × Act)
  | 0, _, x => x
  | k + 1, m, (p, l) =>
    let q := advanceChan c m 512 (syncTick p (grp (planned p (G.loadGroup c))) m)
    runAhead c k (m + 1) (q, l ++ [((seqOf q c).at_, (seqOf q c).act)])

/-- The memory-resident pieces that a plan of tick m plays (R175). -/
def chunksOf (p : Part) (c : Chan) (m : Nat) : List Chunk :=
  (planOf p c m).spans.filterMap fun s =>
    match s.src with
    | .play d start pos =>
      if d ≠ zeroSeg ∧ (descOf p d).residence ≠ 1 then
        let i := max 1 (interpOf p c)
        let first := ceilDiv (s.begin_ - start) i
        some ⟨d, start, m, pos + first * segBytes p d, (ceilDiv (s.end_ - start) i - first) * segBytes p d⟩
      else none
    | _ => none

/-- The descriptor of the playing step that a path from offset o first reaches, with the stacks it starts from (R144 to R146, R175); BREV steps
are not taken, and waits are passed. -/
def firstPlay (p : Part) (c : Nat) : Nat → Nat → List LoopEntry → List CallEntry → Option Nat
  | 0, _, _, _ => none
  | fuel + 1, o, loops, calls =>
    match decodeStep (stepWord p c o) with
    | some (.play d _) => some d
    | some (.playt d _ _ _) => some d
    | some (.jump t) => (targetOffset p c t).bind fun x => firstPlay p c fuel x (popOut { Seq.idle with loops := loops, calls := calls } x) calls
    | some (.call t) => (targetOffset p c t).bind fun x => firstPlay p c fuel x loops (⟨o + 1, loops.length⟩ :: calls)
    | some .ret =>
      match calls with
      | [] => none
      | e :: r => firstPlay p c fuel e.ret (loops.drop (loops.length - e.depth)) r
    | some (.loop n) =>
      (findEndl p c (planned p (G.trvSize c)) (o + 1) 0).bind fun e =>
        firstPlay p c fuel (o + 1) (⟨o + 1, e, if n = 0 then none else some n⟩ :: loops) calls
    | some .endl =>
      match loops with
      | [] => none
      | e :: r =>
        match e.remain with
        | none => firstPlay p c fuel e.body loops calls
        | some k => if k ≤ 1 then firstPlay p c fuel (o + 1) r calls else firstPlay p c fuel e.body ({ e with remain := some (k - 1) } :: r) calls
    | some (.halt _) => none
    | some _ => firstPlay p c fuel (o + 1) loops calls
    | none => none

/-- The head of a path from offset o of channel c that begins with a memory-resident segment: its descriptor and the bytes of its first
RA_HEAD_TICKS ticks (R175). [DEDUCED, assumption 79] -/
def headOf (p : Part) (c o : Nat) (loops : List LoopEntry) (calls : List CallEntry) : Option (Nat × Nat) :=
  match firstPlay p c 512 o loops calls with
  | some d =>
    if d ≠ zeroSeg ∧ (descOf p d).residence ≠ 1 then
      some (d, min (descOf p d).length (ceilDiv (250 * headTicks p) (max 1 (interpOf p c))) * segBytes p d)
    else none
  | none => none

/-- Heads held for channel c (R175): one per enabled jump input whose Waypoint path needs one, one for the continuation of the wait or
PLAYT at which the prediction s ends, and one for the target of the first BREV that it does not take. -/
def headsOf (p : Part) (c : Chan) (s : Seq) : List (Nat × Nat) :=
  let jumps := (List.range 8).filterMap fun i =>
    let b := planned p (G.jmpBind c i)
    if bit b 15 then (waypoint p c (bits b 7 0)).bind fun o => headOf p c o [] [] else none
  let cont := match s.act with
    | .wait w => if w.rel = none then headOf p c w.next s.loops s.calls else none
    | .play x => if x.left = none ∧ x.exitAt = none ∧ x.evm ≠ 0 then headOf p c (x.pc + 1) s.loops s.calls else none
    | _ => none
  let brev := match s.untaken with
    | some (t, loops, calls) => (targetOffset p c t).bind fun o => headOf p c o (popOut { Seq.idle with loops := loops, calls := calls } o) calls
    | none => none
  jumps ++ cont.toList ++ brev.toList

/-- The refill depth D of channel c (R126). -/
def insetDepth (p : Part) (c : Nat) : Nat :=
  (65536 - planned p (G.insetSplit c)) * interpOf p c / (250 * (if planned p (G.dpMode c) = 1 then 2 else 1))

/-- The planner's run-ahead with no head held (R126). -/
def insetRunahead (p : Part) (c : Nat) : Nat := min 64 (insetDepth p c - 2)

/-- The leads of channel c after the decide stage of tick m (R177, R178): new ones are found, those whose step the plan cannot reach
are retracted or dropped, those whose step begins are confirmed. found holds (LEAD step, L, P) in path order, path where the prediction
stands at the end of each tick after m. A lead that the prediction has left is kept until the fixed plan leaves the path it lies on.
[DEDUCED, assumption 29] -/
def settleLeads (p : Part) (c : Chan) (m : Nat) (found : List (Nat × Nat × Nat)) (path : List (Nat × Act)) : Part :=
  let q := m - 2
  let s := seqOf p c
  let g := stageGen p c m
  let doomed := s.leads.filter fun x => decide (x.doom ≠ none)
  let leads := s.leads.filter fun x => decide (x.doom = none)
  let on (x : Lead) : Bool := found.any fun e => e.1 = x.pc && e.2.2 = x.start
  let past (x : Lead) : Bool := decide (x.start < 250 * m)
  let lost (x : Lead) : Bool := !past x && !on x && (decide (x.path.head? ≠ some (s.at_, s.act)) || decide (x.start / 250 ≤ m))
  let retr := leads.filter fun x => x.pulsed && lost x
  let p := addReg p (G.leadDropped c) (waitingLeads p c (leads.filter fun x => !on x && !past x))
  let kept := (leads.filter fun x => (x.pulsed && !lost x) || (!x.pulsed && (on x || past x))).map fun x =>
    { x with path := if on x then path.take (x.start / 250 - 1 - m) else x.path.drop 1 }
  let fresh := found.filter fun e => !(leads.any fun x => x.pc = e.1 && x.start = e.2.2)
  let new := fresh.map fun e =>
    let due := e.2.2 - 250 * e.2.1
    let first := 250 * (q + 2)
    ({ pc := e.1, start := e.2.2, at_ := max due first, gen := g, late := decide (due < first), pulsed := false,
       path := path.take (e.2.2 / 250 - 1 - m), doom := none } : Lead)
  setSeq p c { s with leads := doomed ++ kept ++ new, cands := [], retr := s.retr ++ retr.map fun _ => (250 * m, g) }

/-- The bytes of a list of pieces that belong to the piece x: the same repetition in the same tick. -/
def bytesFor (l : List Chunk) (x : Chunk) : Nat :=
  ((l.filter fun y => decide (y.d = x.d ∧ y.start = x.start ∧ y.tick = x.tick)).map (·.bytes)).sum

/-- Where n bytes of a memory-resident segment lie in DRAM from byte f on, as address and length: f counts from the segment's base, or in a ring
its bytes since it was enabled. -/
def dramPieces (p : Part) (d f n : Nat) : List (Nat × Nat) :=
  let s := descOf p d
  if n = 0 then []
  else if s.residence = 0 then [(64 * s.base + f, n)]
  else
    let q := bits s.base 5 0
    let base := planned p (G.sqRingBase q)
    let size := max 1 (planned p (G.sqRingSize q))
    let o := f % size
    if o + n ≤ size then [(base + o, n)] else [(base + o, size - o), (base, n - (size - o))]

/-- The refills to ask for (R175): those asked for before that the path still reaches, what is new of it, and new heads; the earliest tick in which
an alternate can begin after tick m is the next (R17). -/
def askFor (p : Part) (c : Chan) (m : Nat) (had reach : List Chunk) (heads : List (Nat × Nat)) : Part :=
  let spread (tick : Nat) (l : List (Nat × Nat)) : List Want := l.map fun e => ⟨c, tick, e.1, e.2⟩
  let held := reach.flatMap fun x => spread x.tick (dramPieces p x.d x.from_ x.bytes)
  let old := p.dram.wants.filter fun w => decide (w.chan ≠ c.val ∨ w.tick < m) ||
    held.any fun y => decide (y.tick = w.tick ∧ y.addr < w.addr + w.len ∧ w.addr < y.addr + y.len)
  let new := reach.flatMap fun x => let b := bytesFor had x; spread x.tick (dramPieces p x.d (x.from_ + b) (x.bytes - b))
  let ends := heads.flatMap fun h =>
    let s := descOf p h.1
    spread (m + 1) (dramPieces p h.1 (if s.residence = 0 then 0 else reg p (G.sqReserved (bits s.base 5 0))) h.2)
  { p with dram := { p.dram with wants := old ++ new ++ ends } }

/-- The planner's fetches of channel c after the stage of tick m (R175, R176): plan is what tick m plays, want what the prediction plays within
reach, heads the heads to hold. What is new is requested, and what is no longer reached is discarded; a head whose segment the path has
entered is the path's. [DEDUCED, assumption 79] -/
def fetchAhead (p : Part) (c : Chan) (m : Nat) (plan want : List Chunk) (heads : List (Nat × Nat)) : Part :=
  let s := seqOf p c
  let had := s.chunks.filter fun x => decide (m ≤ x.tick)
  let lost := heads.foldl (fun l h => l.erase h) s.heads
  let newHeads := s.heads.foldl (fun l h => l.erase h) heads
  let entered (h : Nat × Nat) : Bool := (plan ++ want).any fun x => decide (x.d = h.1) && !had.any fun y => decide (y.d = x.d ∧ y.start = x.start)
  let taken := ((lost.filter entered).map (·.2)).sum
  let fetched := ((want.map fun x => x.bytes - bytesFor had x).sum - taken) + (newHeads.map (·.2)).sum
  let gone := (had.map fun x => x.bytes - bytesFor (plan ++ want) x).sum + ((lost.filter fun h => !entered h).map (·.2)).sum
  let p := askFor (addReg (addReg p (G.pfFetched c) fetched) (G.pfDiscarded c) gone) c m had (plan ++ want) newHeads
  setSeq p c { seqOf p c with chunks := want, heads := heads }

/-- Prediction, heads and leads of channel c after its plan for tick m is fixed (R174 to R178). -/
def predict (p : Part) (c : Chan) (m : Nat) : Part :=
  let s := seqOf p c
  match s.act with
  | .off =>
    if s.leads.isEmpty && s.chunks.isEmpty && s.heads.isEmpty then p else fetchAhead (settleLeads p c m [] []) c m (chunksOf p c m) [] []
  | _ =>
    let p := setSeq p c { s with untaken := none }
    let (ahead, path) := runAhead c 64 (m + 1) (optimist p, [])
    let heads := headsOf p c (seqOf ahead c)
    let reach := min (insetRunahead p c) (insetDepth p c - 2 - heads.length * headTicks p)
    let want := (List.range reach).flatMap fun k => chunksOf ahead c (m + 1 + k)
    let p := settleLeads p c m (seqOf ahead c).cands path
    let p := setReg (setReg p (G.raReach c) reach) (G.raHeads c) heads.length
    fetchAhead p c m (chunksOf p c m) want heads

/-- What SEQ_STATE reads for an act (Table 06-8). [DEDUCED, assumption 31] -/
def seqState : Act → Nat
  | .off => 0
  | .run _ => 1
  | .play _ => 1
  | .wait w =>
    match w.what with
    | .event _ _ _ _ => 2
    | .tick => 3
    | .sync _ => 4
    | .stepped => 7
  | .halted _ _ _ => 5
  | .parked => 6
  | .stuck _ _ => 0

/-- The step an act stands at. -/
def actPc : Act → Nat
  | .off => 0
  | .run pc => pc
  | .play x => x.pc
  | .wait w => w.pc
  | .halted pc _ _ => pc
  | .parked => 0
  | .stuck pc _ => pc

/-- LOOP_REMAIN of level i, outermost first (R144). -/
def loopRemain (s : Seq) (i : Nat) : Nat :=
  match s.loops.reverse[i]? with
  | none => 0
  | some e =>
    match e.remain with
    | none => 2 ^ 64 - 1
    | some k => k - 1

/-- A HALT with HOUT 2 has reached its first tick boundary by tick k (R155). -/
def haltParked (a : Act) (k : Nat) : Bool :=
  match a with
  | .halted _ h since => decide (h = 2 ∧ since ≤ 250 * k)
  | _ => false

/-- What the sequencer entries of channel c read in tick m (Table 06-8, Table 11-9). [DEDUCED, assumption 31] -/
def snapshot (p : Part) (c : Chan) (m : Nat) : Part :=
  let s := seqOf p c
  let strm := match s.ep with
    | none => 0
    | some e => if e.policy = 1 then 2 else if e.policy = 2 then 3 else 1
  let ops := [RegOp.set (G.seqState c) (seqState s.act), .set (G.seqPc c) (actPc s.act),
    .set (G.seqLoopDepth c) s.loops.length, .set (G.seqCallDepth c) s.calls.length, .set (G.strmState c) strm] ++
    (List.range 8).map fun i => RegOp.set (G.loopRemain c i) (loopRemain s i)
  let t := planOf p c m
  putPlan p c { t with ops := t.ops ++ ops, halt := haltParked s.act m }

/-- A channel that the decide stage has to finish: it plays, or it has just stopped. -/
def busy (p : Part) (c : Chan) (m : Nat) : Bool :=
  decide ((seqOf p c).act ≠ .off) || decide (reg p (G.seqState c) ≠ 0) || (p.plans.get c).any fun t => decide (t.tick + 1 ≥ m)

/-- The position a decide stage judges lateness by (R261, R334): SQ_WRITTEN; in a pair SQ_MIRRORED on the active part and the received
cutoff on the shadow. -/
def ringCutoff (p : Part) (q : Nat) : Nat :=
  if reg p G.pairState = 2 ∨ reg p G.pairState = 3 then
    if reg p G.pairRole = 2 then kget (fun _ => 0) p.pair.cutoffs q else reg p (G.sqMirrored q)
  else reg p (G.sqWritten q)

/-- The written positions of the enabled queues are kept as of this decide point (R261). -/
def keepHistory (p : Part) : Part :=
  let k := p.time.tick
  let new := (List.range 64).filterMap fun q =>
    if reg p (G.sqEnable q) = 1 then some (q, k, ringCutoff p q) else none
  { p with strm := { p.strm with hist := (p.strm.hist.filter fun e => decide (k ≤ e.2.1 + 300)) ++ new } }

/-- The decide point of the present tick, whose stage fixes tick m (R12, R15): the inputs are frozen, and the group actions and plan commits of
tick m are in the plan. A command that moves one sequencer finds this done. [DESIGN CHOICE, assumption 66] -/
def openStage (p : Part) : Part :=
  let m := p.time.tick + 2
  if p.time.opened = m then p
  else
    let p := keepHistory (atCyc { p with time := { p.time with opened := m } } 12)
    let p := (List.finRange 16).foldl (fun q g => groupTick q g m) p
    let p := p.adm.plans.foldl (fun q k => commitTick q m k) p
    (List.finRange 256).foldl (fun q c => if (seqOf q c).act = .off then dropJumpsTo q c (250 * (m + 1) - 1) none else q) p

/-- The work of the stage that fixes tick m, after its decide point (R12, R140). -/
def runStage (p : Part) (m : Nat) : Part :=
  let p := (List.finRange 256).foldl (fun q c => gateTick q c m) p
  let p := (List.finRange 16).foldl (fun q g => syncTick q g m) p
  let p := advanceAll m 65536 p
  let p := (List.finRange 256).foldl (fun q c => pacedTick q c m) p
  let p := (List.finRange 256).foldl (fun q c => if busy q c m then snapshot (predict q c m) c m else q) p
  let p := (List.finRange 256).foldl (fun q c => sealPulses q c m) p
  (List.range 64).foldl (fun q i => if reg q (G.sqEnable i) = 1 then settleQueue q i else q) p

/-- The decide stage that runs in the present tick and fixes the tick after the next, once (R12, R140). [DESIGN CHOICE, assumption 66] -/
def decideTick (p : Part) : Part :=
  let m := p.time.tick + 2
  if p.time.closed = m then p
  else
    let p := runStage (openStage p) m
    { p with time := { p.time with closed := m } }

/-- The first channel whose sequencer stands still, with the reason (R158). [DESIGN CHOICE, assumption 18] -/
def stuckChan (p : Part) : Option (Chan × StuckWhy) :=
  (List.finRange 256).findSome? fun c =>
    match (seqOf p c).act with
    | .stuck _ w => some (c, w)
    | _ => none

end Sys2Proof.Machine
end

