-- ==== Sys2Proof/Machine/Walk.lean ====
section
/-!
DEFINITION. The walk of a channel's program that admission makes (R158 to R161, R315, R316): every path from the entries with its stacks,
the checks of Table 06-6, the bounds per frame, the heads and the earliest memory-resident play. The part it is given holds the values of the
set-up that is judged.
-/

namespace Sys2Proof.Machine

/-- A place on a path: the step, the open LOOPs by offset and the calls as return offset and loop depth, innermost first. -/
structure Ctx where
  pc    : Nat
  loops : List Nat
  calls : List (Nat × Nat)
  deriving DecidableEq, Repr

/-- A failed check: its number in Table 06-6 and the offset of the failing step. -/
structure Bad where
  cause : Nat
  step  : Nat
  deriving DecidableEq, Repr

/-- What a place leads to: a failed check, or the places that can follow. -/
inductive Next where
  | bad (b : Bad)
  | go (l : List Ctx)
  deriving DecidableEq, Repr

/-- The step at offset o of channel c. -/
def stepAt (p : Part) (c o : Nat) : Option Step := decodeStep (stepWord p c o)

/-- The bodies of the LOOPs of an allocation: LOOP and ENDL offsets, paired as brackets (R144). -/
def loopBodies (p : Part) (c : Nat) : List (Nat × Nat) :=
  let size := planned p (G.trvSize c)
  (List.range size).filterMap fun o =>
    if stepWord p c o % 256 = 0x03 then (findEndl p c size (o + 1) 0).map fun e => (o, e) else none

/-- A target lies inside a loop body that its source is not in (check 4). -/
def entersBody (bodies : List (Nat × Nat)) (source target : Nat) : Bool :=
  bodies.any fun b => decide (b.1 < target ∧ target < b.2 ∧ ¬ (b.1 < source ∧ source < b.2))

/-- The loops left open by a jump to offset o (R146). -/
def openAfter (bodies : List (Nat × Nat)) (x : Ctx) (o : Nat) : List Nat :=
  let depth := ((x.calls.head?).map (·.2)).getD 0
  let own := x.loops.take (x.loops.length - depth)
  (own.filter fun l => bodies.any fun b => decide (b.1 = l ∧ b.1 < o ∧ o < b.2)) ++ x.loops.drop (x.loops.length - depth)

/-- The places that follow a jump or a branch to a target. -/
def jumpTo (p : Part) (c : Nat) (bodies : List (Nat × Nat)) (x : Ctx) (t : Target) : Next :=
  match targetOffset p c t with
  | none => .bad ⟨3, x.pc⟩
  | some o =>
    if planned p (G.trvSize c) ≤ o then .bad ⟨3, x.pc⟩
    else if entersBody bodies x.pc o then .bad ⟨4, x.pc⟩
    else .go [⟨o, openAfter bodies x o, x.calls⟩]

/-- One step of the walk (Table 06-6, checks 2, 3, 4 and 6). A PLAYT with EVM 0 has no exit, so that no path leads on from it (R143). -/
def follow (p : Part) (c : Nat) (bodies : List (Nat × Nat)) (x : Ctx) : Next :=
  if planned p (G.trvSize c) ≤ x.pc then .bad ⟨2, x.pc⟩
  else
    let next : Ctx := { x with pc := x.pc + 1 }
    match stepAt p c x.pc with
    | none => .bad ⟨2, x.pc⟩
    | some (.loop _) =>
      if 8 ≤ x.loops.length then .bad ⟨6, x.pc⟩
      else if bodies.any fun b => decide (b.1 = x.pc) then .go [{ next with loops := x.pc :: x.loops }]
      else .bad ⟨4, x.pc⟩
    | some .endl =>
      let depth := ((x.calls.head?).map (·.2)).getD 0
      match x.loops with
      | [] => .bad ⟨4, x.pc⟩
      | l :: r =>
        if x.loops.length ≤ depth ∨ !(bodies.contains (l, x.pc)) then .bad ⟨4, x.pc⟩
        else
          let n := match stepAt p c l with
            | some (.loop k) => k
            | _ => 0
          .go ((if n = 1 then [] else [{ x with pc := l + 1 }]) ++ (if n = 0 then [] else [{ next with loops := r }]))
    | some (.call t) =>
      if 8 ≤ x.calls.length then .bad ⟨6, x.pc⟩
      else if x.calls.any fun e => decide (e.1 = x.pc + 1) then .bad ⟨6, x.pc⟩
      else
        match targetOffset p c t with
        | none => .bad ⟨3, x.pc⟩
        | some o =>
          if planned p (G.trvSize c) ≤ o then .bad ⟨3, x.pc⟩
          else if entersBody bodies x.pc o then .bad ⟨4, x.pc⟩
          else .go [⟨o, x.loops, (x.pc + 1, x.loops.length) :: x.calls⟩]
    | some .ret =>
      match x.calls with
      | [] => .bad ⟨6, x.pc⟩
      | (r, d) :: cs => .go [⟨r, x.loops.drop (x.loops.length - d), cs⟩]
    | some (.jump t) => jumpTo p c bodies x t
    | some (.brev _ _ t) =>
      match jumpTo p c bodies x t with
      | .bad b => .bad b
      | .go l => .go (l ++ [next])
    | some (.halt _) => .go []
    | some (.playt _ 0 _ _) => .go []
    | some _ => .go [next]

/-- Every place reached from those that wait, or the first failed check. [DEDUCED, assumption 32] -/
def walk (p : Part) (c : Nat) (bodies : List (Nat × Nat)) : Nat → List Ctx → List Ctx → Option Bad × List Ctx
  | 0, seen, _ => (some ⟨6, 0⟩, seen)
  | _ + 1, seen, [] => (none, seen)
  | fuel + 1, seen, x :: todo =>
    if seen.contains x then walk p c bodies fuel seen todo
    else
      match follow p c bodies x with
      | .bad b => (some b, seen)
      | .go l => walk p c bodies fuel (x :: seen) (l ++ todo)

/-- A PLAY or PLAYT, with its segment. -/
def playedAt (p : Part) (c o : Nat) : Option Nat :=
  match stepAt p c o with
  | some (.play d _) => some d
  | some (.playt d _ _ _) => some d
  | _ => none

/-- The places that follow a place of a program that passed checks 1 to 6. [DEDUCED, assumption 32] -/
def after (p : Part) (c : Nat) (bodies : List (Nat × Nat)) (x : Ctx) : List Ctx :=
  match follow p c bodies x with
  | .go l => l
  | .bad _ => []

/-- Places from which a path without a playing step leads on for ever (check 7): those left when every place is taken out that plays or
whose followers are all out. -/
def endless (p : Part) (c : Nat) (bodies : List (Nat × Nat)) : Nat → List Ctx → List Ctx
  | 0, l => l
  | fuel + 1, l =>
    let keep := l.filter fun x => (playedAt p c x.pc).isNone && (after p c bodies x).any fun y => l.contains y
    if keep.length = l.length then l else endless p c bodies fuel keep

/-- For each place the largest weight of a path that ends with its next playing step, if one follows (R159, R161). -/
def heaviest (p : Part) (c : Nat) (bodies : List (Nat × Nat)) (weight : Ctx → Nat) : Nat → List (Ctx × Nat) → List Ctx → List (Ctx × Nat)
  | 0, v, _ => v
  | fuel + 1, v, l =>
    let new := l.filterMap fun x =>
      if (playedAt p c x.pc).isSome then some (x, weight x)
      else
        match ((after p c bodies x).filterMap fun y => (v.find? fun e => e.1 = y).map (·.2)).max? with
        | some m => some (x, m + weight x)
        | none => none
    if new = v then v else heaviest p c bodies weight fuel new l

/-- What the walk of a program gives: the places reached, those at which a run begins at the entry or after a playing step, those at which one
begins at a bound Waypoint, and its bodies. -/
structure Walked where
  places : List Ctx
  starts : List Ctx
  bound  : List Ctx
  bodies : List (Nat × Nat)
  deriving DecidableEq, Repr

/-- The offsets of the Waypoints bound to enabled jump inputs and to escapes of queues that the channel plays with SQ_POLICY 3 (R158): the
Waypoint number with its offset, if VALID. -/
def boundWaypoints (p : Part) (c : Nat) (queues : List Nat) : List (Nat × Option Nat) :=
  ((List.range 8).filterMap fun i =>
    let b := planned p (G.jmpBind c i)
    if bit b 15 then some (bits b 7 0, waypoint p c (bits b 7 0)) else none) ++
  (queues.filter fun q => decide (reg p (G.sqPolicy q) = 3)).map fun q => (reg p (G.sqEscWp q), waypoint p c (reg p (G.sqEscWp q)))

/-- The stream queues that a list of segments names (R119). -/
def queuesOf (p : Part) (l : List Nat) : List Nat :=
  (l.filterMap fun d => let x := descOf p d; if x.residence = 2 ∧ x.length ≠ 0 then some (x.base % 64) else none).eraseDups

/-- The segments that the playing steps of a list of places name. -/
def segmentsOf (p : Part) (c : Nat) (l : List Ctx) : List Nat := (l.filterMap fun x => playedAt p c x.pc).eraseDups

/-- Fuel for a walk: more than the places a program within its limits can have. -/
def walkFuel : Nat := 2 ^ 24

/-- The walk from the bound Waypoints (R158): those of jump inputs, and the escape Waypoints of queues that the places seen so far play, until
no place adds another; offs are the offsets walked. Answers the failed check, or the offsets and the places. -/
def walkBound (p : Part) (c : Nat) (bodies : List (Nat × Nat)) : Nat → List Nat → List Ctx → Bad ⊕ (List Nat × List Ctx)
  | 0, offs, seen => .inr (offs, seen)
  | fuel + 1, offs, seen =>
    let bound := boundWaypoints p c (queuesOf p (segmentsOf p c seen))
    let all := (bound.filterMap (·.2)).eraseDups
    let new := all.filter fun o => !offs.contains o
    if bound.any fun w => (w.2.map fun o => decide (planned p (G.trvSize c) ≤ o)).getD true then .inl ⟨3, 0xFFFFFFFF⟩
    else
      match new.find? fun o => bodies.any fun b => decide (b.1 < o ∧ o < b.2) with
      | some o => .inl ⟨5, o⟩
      | none =>
        if new.isEmpty then .inr (offs, seen)
        else
          let x := walk p c bodies walkFuel seen (new.map fun o => ⟨o, [], []⟩)
          match x.1 with
          | some b => .inl b
          | none => walkBound p c bodies fuel all x.2

/-- The walk of channel c's program with checks 1 to 7 of Table 06-6, or the first failure (R158). -/
def walkProgram (p : Part) (c : Nat) : Bad ⊕ Walked :=
  let base := planned p (G.trvBase c)
  let size := planned p (G.trvSize c)
  let entry := planned p (G.trvEntry c)
  if 262144 < base + size ∨ base % 16 ≠ 0 ∨ size ≤ entry then .inl ⟨1, 0xFFFFFFFF⟩
  else
    let bodies := loopBodies p c
    let first := walk p c bodies walkFuel [] [⟨entry, [], []⟩]
    match first.1 with
    | some b => .inl b
    | none =>
      match walkBound p c bodies 72 [] first.2 with
      | .inl b => .inl b
      | .inr (offs, places) =>
        match endless p c bodies places.length (places.filter fun x => (playedAt p c x.pc).isNone) with
        | x :: _ => .inl ⟨7, x.pc⟩
        | [] =>
          let next := (places.filter fun x => (playedAt p c x.pc).isSome).flatMap (after p c bodies)
          .inr ⟨places, ([(⟨entry, [], []⟩ : Ctx)] ++ next).eraseDups, offs.map (fun o => (⟨o, [], []⟩ : Ctx)), bodies⟩

/-- A bound and the first step of the path that attains it; first is what a path from the entry or from a playing step has before its own
steps. -/
def boundOf (p : Part) (c : Nat) (w : Walked) (first : Nat) (weight : Ctx → Nat) : Nat × Nat :=
  let v := heaviest p c w.bodies weight (w.places.length + 1) [] w.places
  let all : List (Ctx × Nat) := w.starts.map (fun x => (x, first)) ++ w.bound.map fun x => (x, 0)
  all.foldl (fun (a : Nat × Nat) x =>
    match v.find? fun e => e.1 = x.1 with
    | some e => if a.1 < e.2 + x.2 then (e.2 + x.2, x.1.pc) else a
    | none => a) (0, 0xFFFFFFFF)

/-- The smallest LENGTH times I among the segments a program plays, 0 where it plays none (R159). -/
def shortest (p : Part) (c : Nat) (w : Walked) : Nat :=
  ((segmentsOf p c w.places).map fun d => (descOf p d).length * interpOf p c).min?.getD 0

/-- Plays that can fall in one tick: the quotient of 250 and Pmin, rounded up, plus one. -/
def playsPerTick (p : Part) (c : Nat) (w : Walked) : Nat := ceilDiv 250 (max 1 (shortest p c w)) + 1

/-- The step bound B and the first step of its path (R159); in stepped mode a path begins with the stepped wait, but for a Waypoint's (R170,
R173). -/
def stepBound (p : Part) (c : Nat) (w : Walked) : Nat × Nat :=
  let z := boundOf p c w (if planned p (G.seqMode c) = 1 then 1 else 0) fun _ => 1
  (z.1 * playsPerTick p c w, z.2)

/-- The tone-commit bound and the first TONE step of its path (R161, Table 13-5). -/
def toneBound (p : Part) (c : Nat) (w : Walked) : Nat × Nat :=
  let isTone (o : Nat) : Bool := match stepAt p c o with
    | some (.tone _) => true
    | _ => false
  let z := boundOf p c w 0 fun x => ofBool (isTone x.pc)
  let first := (w.places.filter fun x => isTone x.pc && decide (z.2 ≤ x.pc)).map (·.pc)
  (z.1 * playsPerTick p c w, first.min?.getD 0xFFFFFFFF)

/-- The marker edges of descriptor d, as stored sample, SUB and line and kind (Table 05-4). -/
def edgeWords (p : Part) (d : Nat) : List Nat :=
  let x := descOf p d
  (List.range x.edgeCount).map fun i => kget (fun _ => 0) p.mem.edges (x.edgePtr + i)

/-- The largest number of edges of a segment in 250 consecutive output samples (Emax of R124). -/
def edgeDensity (p : Part) (c d : Nat) : Nat :=
  let pos := (edgeWords p d).map fun e => bits e 27 6 * interpOf p c + bits e 5 0
  (pos.map fun a => (pos.filter fun b => decide (a ≤ b ∧ b < a + 250)).length).max?.getD 0

/-- The edge bound of R124. -/
def edgeBound (p : Part) (c : Nat) (w : Walked) : Nat :=
  playsPerTick p c w * (((segmentsOf p c w.places).map (edgeDensity p c)).max?.getD 0)

/-- A segment is played from memory (R117, R119). -/
def fromMemory (p : Part) (d : Nat) : Bool := decide (d ≠ zeroSeg) && decide ((descOf p d).residence ≠ 1)

/-- Some path from a place first plays a memory-resident segment (R315). -/
def memoryFirst (p : Part) (c : Nat) (bodies : List (Nat × Nat)) : Nat → Ctx → Bool
  | 0, _ => false
  | fuel + 1, x =>
    match playedAt p c x.pc with
    | some d => fromMemory p d
    | none => (after p c bodies x).any (memoryFirst p c bodies fuel)

/-- NH_max (R315). -/
def maxHeads (p : Part) (c : Nat) (w : Walked) : Nat :=
  let mf (x : Ctx) : Bool := memoryFirst p c w.bodies (w.places.length + 1) x
  let jumps := (List.range 8).filter fun i =>
    let b := planned p (G.jmpBind c i)
    bit b 15 && ((waypoint p c (bits b 7 0)).map fun o => mf ⟨o, [], []⟩).getD false
  let waits := w.places.any fun x =>
    match stepAt p c x.pc with
    | some (.playt _ _ _ _) => (after p c w.bodies x).any mf
    | some (.waitev _ _ _ _ _) => (after p c w.bodies x).any mf
    | some (.waittick _ _ _ _) => (after p c w.bodies x).any mf
    | some (.sync _ _) => (after p c w.bodies x).any mf
    | _ => false
  let brevs := w.places.any fun x =>
    match stepAt p c x.pc with
    | some (.brev _ _ t) =>
      match jumpTo p c w.bodies x t with
      | .go l => l.any mf
      | .bad _ => false
    | _ => false
  jumps.length + ofBool waits + ofBool brevs

/-- A place on a timed path: LOOPs with their remaining counts, the sample index reached. -/
structure TimedCtx where
  ctx    : Ctx
  counts : List Nat
  at_    : Nat
  deriving DecidableEq, Repr

/-- The earliest sample at which a memory-resident play begins on a path, if before a limit (R316): waits for events, SYNC and stepped waits
take no time, branches and PLAYT exits go both ways, loops run their counts. -/
def earliestMemory (p : Part) (c : Nat) (bodies : List (Nat × Nat)) (start limit : Nat) : Nat → TimedCtx → Option Nat
  | 0, _ => none
  | fuel + 1, t =>
    if limit ≤ t.at_ then none
    else
      let x := t.ctx
      let go (l : List TimedCtx) : Option Nat := (l.filterMap (earliestMemory p c bodies start limit fuel)).min?
      let next : TimedCtx := { t with ctx := { x with pc := x.pc + 1 } }
      let i := interpOf p c
      match stepAt p c x.pc with
      | some (.play d n) =>
        if fromMemory p d then some t.at_ else go [{ next with at_ := t.at_ + n * (descOf p d).length * i }]
      | some (.playt d evm _ _) =>
        if fromMemory p d then some t.at_
        else if evm = 0 then none
        else
          let one := t.at_ + (descOf p d).length * i
          go [{ next with at_ := one }, { t with at_ := one }]
      | some (.waittick rel _ o k) =>
        go [{ next with at_ := max t.at_ (250 * k + o + if rel then start else 0) }]
      | some (.loop n) => go ((after p c bodies x).map fun y => { t with ctx := y, counts := n :: t.counts })
      | some .endl =>
        match t.counts, x.loops with
        | n :: r, l :: ls =>
          if n = 1 then go [{ next with ctx := { x with pc := x.pc + 1, loops := ls }, counts := r }]
          else go [{ t with ctx := { x with pc := l + 1 }, counts := (n - 1) :: r }]
        | _, _ => none
      | _ => go ((after p c bodies x).map fun y =>
          { t with ctx := y, counts := t.counts.drop (t.counts.length - y.loops.length) })

/-- The tick at which the entry path of channel c begins a memory-resident play within the ticks before a limit (R316), for a start at
tick k. -/
def entryMemory (p : Part) (c k limit : Nat) (bodies : List (Nat × Nat)) : Option Nat :=
  (earliestMemory p c bodies (250 * k) (250 * limit) 4096 ⟨⟨planned p (G.trvEntry c), [], []⟩, [], 250 * k⟩).map (· / 250)

end Sys2Proof.Machine
end

