-- ==== Sys2Proof/Machine/SegmentOps.lean ====
section
/-!
DEFINITION. Segments and the load paths (chapter 05): the checks of a descriptor, what is in use, BAR4, the load DMA and network upload.
-/

namespace Sys2Proof.Machine

/-- One byte into a CRC-32C register (reflected polynomial 0x82F63B78). -/
def crcByte (r : Nat) (b : Byte) : Nat :=
  (List.range 8).foldl (fun r _ => if r % 2 = 1 then (r / 2) ^^^ 0x82F63B78 else r / 2) (r ^^^ b.toNat)

/-- CRC-32C of bytes, carried on from an earlier value. -/
def crc32c (seed : Nat) (l : List Byte) : Nat := (l.foldl crcByte (seed ^^^ 0xFFFFFFFF)) ^^^ 0xFFFFFFFF

/-- The segments named by channel c's program and by its gap and idle segments (R127). -/
def channelSegs (p : Part) (c : Nat) : List Nat :=
  let named := match walkProgram p c with
    | .inl _ => []
    | .inr w => segmentsOf p c w.places
  (planned p (G.gapSeg c) :: planned p (G.idleSeg c) :: named).eraseDups

/-- For every channel whose plan makes segments in use: those segments (R127). -/
def users (p : Part) : List (Nat × List Nat) :=
  (List.range 256).filterMap fun c =>
    let l := ((plansInUse p c).flatMap fun q => channelSegs q c).eraseDups
    if l.isEmpty then none else some (c, l)

/-- Descriptors and edges written since the last tick boundary take effect (R128, R134). -/
def takeSegments (p : Part) : Part :=
  let d := p.mem.newDesc.foldl (fun m e => kset (fun _ => 0) m e.1 e.2) p.mem.descs
  let e := p.mem.newEdge.foldl (fun m e => kset (fun _ => 0) m e.1 e.2) p.mem.edges
  { p with mem := { p.mem with descs := d, edges := e, newDesc := [], newEdge := [] } }

/-- Descriptor d is in use (R127). -/
def segInUse (p : Part) (d : Nat) : Bool := (users p).any fun u => u.2.contains d

/-- SEG_USERS of descriptor d (R127). -/
def segUsers (p : Part) (d : Nat) : Nat := ((users p).filter fun u => u.2.contains d).length

/-- The DRAM byte range of a descriptor (Table 05-3). -/
def dramRange (x : SegDesc) : Nat × Nat := (64 * x.base, 64 * x.base + x.length * sampleBytes x.format)

/-- The Inset slots of a descriptor (Table 05-3). -/
def slotRange (x : SegDesc) : Nat × Nat := (x.base, x.base + x.length * (if x.format = 1 then 2 else 1))

/-- Two half-open ranges overlap. -/
def overlaps (a b : Nat × Nat) : Bool := decide (a.1 < b.2 ∧ b.1 < a.2)

/-- The 64 KiB pages of DRAM in use, as ranges of pages (R127). -/
def pagesInUse (p : Part) : List (Nat × Nat) :=
  ((users p).flatMap (·.2)).eraseDups.filterMap fun d =>
    let x := descOf (takeSegments p) d
    if d ≠ zeroSeg ∧ x.residence = 0 ∧ x.length ≠ 0 then
      let r := dramRange x
      some (r.1 / 65536, (r.2 + 65535) / 65536)
    else none

/-- The ring regions in force (R251). -/
def ringRegions (p : Part) : List (Nat × Nat) :=
  (List.range 64).filterMap fun q =>
    if reg p (G.sqEnable q) = 1 then some (reg p (G.sqRingBase q), reg p (G.sqRingBase q) + reg p (G.sqRingSize q)) else none

/-- The byte ranges that a load path may not write: pages in use and ring regions in force (R131, R251). -/
def blockedRanges (p : Part) : List (Nat × Nat) :=
  ((pagesInUse p).map fun r => (r.1 * 65536, r.2 * 65536)) ++ ringRegions p

/-- A range of Inset slots of channel c that is in use (R127). -/
def slotsInUse (p : Part) (c : Nat) : List (Nat × Nat) :=
  ((users p).filter fun u => u.1 = c).flatMap fun u =>
    u.2.filterMap fun d =>
      let x := descOf (takeSegments p) d
      if d ≠ zeroSeg ∧ x.residence = 1 ∧ x.length ≠ 0 then some (slotRange x) else none

/-- Entries of the edge store in use, as ranges (R127). -/
def edgesInUse (p : Part) : List (Nat × Nat) :=
  ((users p).flatMap (·.2)).eraseDups.filterMap fun d =>
    let x := descOf (takeSegments p) d
    if d ≠ zeroSeg ∧ x.length ≠ 0 ∧ x.edgeCount ≠ 0 then some (x.edgePtr, x.edgePtr + x.edgeCount) else none

/-- An edge list meets R122 and R123: no reserved bit, no KIND 3, non-decreasing order, STORED below LENGTH. -/
def edgeListOk (length : Nat) : List Nat → Bool
  | [] => true
  | [e] => decide (bits e 31 31 = 0 ∧ bits e 29 28 ≠ 3 ∧ bits e 27 6 < length)
  | e :: f :: r =>
    decide (bits e 31 31 = 0 ∧ bits e 29 28 ≠ 3 ∧ bits e 27 6 < length ∧ bits e 27 0 ≤ bits f 27 0) && edgeListOk length (f :: r)

/-- The checks of Table 05-2 on a record. -/
def descOk (p : Part) (w : Nat) : Bool :=
  let x := readDesc w
  let codes := decide (x.format < 2 ∧ x.residence < 3 ∧ x.role < 2 ∧ bits w 79 70 = 0)
  if x.length = 0 then codes
  else
    let r := dramRange x
    let edges := (List.range x.edgeCount).map fun i => kget (fun _ => 0) p.mem.edges (x.edgePtr + i)
    codes && decide (x.length % 10 = 0 ∧ 50 ≤ x.length) &&
      (decide (x.residence ≠ 0) || (decide (r.2 ≤ reg p G.apDramSize) && !(ringRegions p).any (overlaps r))) &&
      (decide (x.residence ≠ 1) || decide (x.base % 16 = 0 ∧ (slotRange x).2 ≤ 65536)) &&
      (decide (x.residence ≠ 2) || decide (x.base < 64)) &&
      (decide (x.role ≠ 1) || decide (x.residence = 1 ∧ x.edgeCount = 0)) &&
      (decide (x.edgeCount = 0) || (decide (x.edgePtr + x.edgeCount ≤ 65536) && edgeListOk x.length edges))

/-- A record differs from the one in force in USER_TAG only (R128). -/
def onlyTag (a b : Nat) : Bool := decide (a % 2 ^ 112 = b % 2 ^ 112)

/-- A write of SEG_DESC of descriptor d (R115, R120, R128): accepted, it takes effect at the next tick boundary. Answers the code. -/
def writeDesc (p : Part) (d w : Nat) : Part × Nat :=
  if d = zeroSeg then (p, 0x03)
  else if !descOk p w then (p, 0x06)
  else if segInUse p d && !onlyTag w (descRecord (takeSegments p) d) then (p, 0x07)
  else ({ p with mem := { p.mem with newDesc := kput d w p.mem.newDesc } }, 0)

/-- The 32-bit words of a byte string. -/
def wordsLE : List Byte → List Nat
  | a :: b :: c :: d :: r => ofBytesLE [a, b, c, d] :: wordsLE r
  | [] => []
  | l => [ofBytesLE l]

/-- A write of EDGE_STORE from its first entry on (R134): refused whole where it changes an entry in use. -/
def writeEdges (p : Part) (data : List Byte) : Part × Nat :=
  if 262144 < data.length then (p, 0x06)
  else
    let new := (wordsLE data).zipIdx.map fun e => (e.2, e.1)
    let used := edgesInUse p
    let changed := new.filter fun e => decide (e.2 ≠ kget (fun _ => 0) (takeSegments p).mem.edges e.1)
    if changed.any fun e => used.any fun r => decide (r.1 ≤ e.1 ∧ e.1 < r.2) then (p, 0x07)
    else ({ p with mem := { p.mem with newEdge := new.foldl (fun m e => kput e.1 e.2 m) p.mem.newEdge } }, 0)

/-- The 64 KiB page of an address is marked filled (R301). -/
def fillPage (p : Part) (a : Nat) : Part :=
  let g := a / 65536
  if reg p G.zfState = 0 ∨ g * 65536 < reg p G.zfFrontier then p
  else { p with dram := { p.dram with filled := kput g 1 p.dram.filled } }

/-- A line of DRAM is written with some of its bytes (R276, R297): a whole line heals an uncorrectable one, a part of one is dropped.
Answers whether it was dropped. -/
def writeLine (p : Part) (line : Nat) (bytes : List (Nat × Byte)) : Part × Bool :=
  if bytes.isEmpty then (p, false)
  else if p.mem.bad.contains line ∧ bytes.length < 64 then (p, true)
  else
    let m := dramPut p.mem.dram bytes
    (fillPage { p with mem := { p.mem with dram := m, bad := p.mem.bad.filter fun b => decide (b ≠ line) } } (64 * line), false)

/-- Bytes at addresses, grouped by line and written by a port (R276); a partial write of an uncorrectable line meets it in its read (R297).
Answers how many bytes were dropped. [DESIGN CHOICE, assumption 34] -/
def writeBytes (p : Part) (port : Nat) (l : List (Nat × Byte)) : Part × Nat :=
  let lines := ((l.map fun e => e.1 / 64).eraseDups)
  if reg p G.memState = 3 then (p, l.length)
  else
    lines.foldl (fun a n =>
      let these := l.filter fun e => decide (e.1 / 64 = n)
      let r := writeLine a.1 n these
      if r.2 then (recordUe r.1 n port, a.2 + these.length) else (r.1, a.2)) (p, 0)

/-- Which bytes of a write a load path lets through (R131): not in a blocked range. -/
def passBytes (p : Part) (l : List (Nat × Byte)) : List (Nat × Byte) :=
  let blocked := blockedRanges p
  l.filter fun e => !blocked.any fun r => decide (r.1 ≤ e.1 ∧ e.1 < r.2)

/-- A BAR4 write (R130, R131, R356): bytes outside the space are dropped, blocked bytes are counted once per request. -/
def bar4Store (p : Part) (off : Nat) (data : List (Option Byte)) : Part :=
  if p.life.test ≠ 0 then addReg p G.apBlocked 1
  else
    let base := reg p G.apBase + off
    let size := reg p G.apDramSize
    let all := data.zipIdx.filterMap fun e => e.1.map fun b => (base + e.2, b)
    let p := if all.any fun e => decide (size ≤ e.1) then addReg p G.apOutside 1 else p
    let inside := all.filter fun e => decide (e.1 < size)
    let pass := passBytes p inside
    let r := writeBytes p 3 pass
    if pass.length < inside.length ∨ r.2 ≠ 0 then addReg r.1 G.apBlocked 1 else r.1

/-- A range of DRAM meets an uncorrectable line (R297). -/
def meetsBad (p : Part) (a n : Nat) : Bool :=
  (decide (reg p G.memState = 3) && decide (0 < n)) || p.mem.bad.any fun l => overlaps (64 * l, 64 * l + 64) (a, a + n)

/-- A BAR4 read (R130, Table 12-9, R356). [DESIGN CHOICE, assumption 74] -/
def bar4Load (p : Part) (off len : Nat) : Part × ReadResult :=
  if p.life.test ≠ 0 then (p, .completerAbort)
  else
    let base := reg p G.apBase + off
    let size := reg p G.apDramSize
    let p := if size < base + len ∧ 0 < len then addReg p G.apOutside 1 else p
    let inside := min len (size - base)
    if 0 < inside ∧ meetsBad p base inside then (recordRange p base inside 3, .poisoned)
    else (p, .bytes (dramRead p.mem.dram base inside ++ List.replicate (len - inside) 0))

/-- LD_LENGTH obeys Table 05-7 for the target in force. -/
def loadLengthOk (p : Part) : Bool :=
  let n := reg p G.ldLength
  let t := reg p G.ldTarget
  if t < 2 then decide (n ≠ 0 ∧ n % 64 = 0)
  else decide (n ≠ 0 ∧ n % 32 = 0 ∧ reg p G.ldInsetAddr * 2 + n ≤ 131072)

/-- A write of LD_GO TRUE (R132). Answers the code; an accepted block starts at the next tick boundary. -/
def loadGo (p : Part) : Part × Nat :=
  if reg p G.ldState = 1 ∨ p.mem.ldGo ∨ 4 < reg p G.ldTarget ∨ !loadLengthOk p then (p, 0x06)
  else ({ p with mem := { p.mem with ldGo := true } }, 0)

/-- The channels that a block selects (LD_INSET_MASK). -/
def loadChans (b : LoadBlock) : List Nat := (List.range 256).filter fun c => bit b.mask c

/-- The block that the G:1584 entries in force describe. -/
def loadBlock (p : Part) : LoadBlock :=
  ⟨reg p G.ldHost, reg p G.ldDram, reg p G.ldTarget, reg p G.ldInsetAddr, reg p G.ldLength, reg p G.ldInsetMask⟩

/-- A block of an Inset target selects a channel and stays below every INSET_SPLIT (R132). -/
def loadFits (p : Part) (b : LoadBlock) : Bool :=
  decide (b.target < 2) || (!(loadChans b).isEmpty && (loadChans b).all fun c => decide (b.slot + b.length / 2 ≤ reg p (G.insetSplit c)))

/-- A block whose LD_GO was accepted starts with the values in force at the boundary, or is not started (R132). [DESIGN CHOICE, assumption 44] -/
def startLoad (p : Part) : Part :=
  if !p.mem.ldGo then p
  else
    let b := loadBlock p
    let good := decide (b.target ≤ 4) && loadLengthOk p && loadFits p b
    let p := { p with mem := { p.mem with ldGo := false, load := if good then some b else none } }
    let p := setReg (setReg (setReg p G.ldDoneBytes 0) G.ldCrc 0) G.ldBlocked 0
    setReg p G.ldState (if good then 1 else 3)

/-- One 32-byte line of a block is written into channel c's Inset store (R131): refused where the line is in use. -/
def writeInsetLine (p : Part) (c slot : Nat) (bytes : List Byte) : Part :=
  let line := slot / 16 * 16
  if (slotsInUse p c).any (overlaps (line, line + 16)) then
    addReg (addReg p (G.insetBlocked c) 1) G.ldBlocked 32
  else
    let words := (List.range 16).map fun i => ofBytesLE ((bytes.drop (2 * i)).take 2)
    let m := words.zipIdx.foldl (fun m e => kset (fun _ => 0) m (65536 * c + slot + e.2) e.1) p.mem.inset
    { p with mem := { p.mem with inset := m } }

/-- Lines of n bytes of a byte string. -/
def linesOf (n : Nat) (l : List Byte) : List (List Byte) := (List.range (ceilDiv l.length n)).map fun i => (l.drop (n * i)).take n

/-- The source bytes of a block that reads DRAM: zeros for an uncorrectable line (Table 12-9). -/
def loadSource (p : Part) (a n : Nat) : List Byte :=
  (List.range n).map fun i => if meetsBad p ((a + i) / 64 * 64) 64 then 0 else dramByte p.mem.dram (a + i)

/-- The Inset lines of a block go to every selected store. -/
def spreadLines (p : Part) (b : LoadBlock) (lines : List (List Byte)) : Part :=
  lines.zipIdx.foldl (fun q e => (loadChans b).foldl (fun q c => writeInsetLine q c (b.slot + 16 * e.2) e.1) q) p

/-- The running block ends (R132): source holds what host memory gave for a target that reads it, hostOk whether the host answered.
[DESIGN CHOICE, assumption 44] -/
def finishLoad (p : Part) (source : List Byte) (hostOk : Bool) : Part :=
  match p.mem.load with
  | none => p
  | some b =>
    let t := b.target
    let n := b.length
    let dram := b.dram
    let host := b.host
    let own := (dramRead p.mem.dram dram n)
    let src : List Byte :=
      if t = 0 ∨ t = 2 then source.take n
      else if t = 1 then own
      else if t = 3 then loadSource p dram n
      else ((loadChans b).head?.map fun c => (List.range (n / 2)).flatMap fun i => toBytesLE 2 (insetSlot p c (b.slot + i))).getD []
    let p := { p with mem := { p.mem with load := none } }
    let p := setReg (setReg p G.ldDoneBytes src.length) G.ldCrc (crc32c 0 src)
    let p := if t = 1 ∨ t = 3 then recordRange p dram n 3 else p
    let p :=
      if t = 0 then
        let all := src.zipIdx.map fun e => (dram + e.2, e.1)
        let inside := all.filter fun e => decide (e.1 < reg p G.apDramSize)
        let pass := passBytes p inside
        let r := writeBytes p 3 pass
        addReg r.1 G.ldBlocked (all.length - pass.length + r.2)
      else if t = 1 then
        (List.range (n / 64)).foldl (fun q i =>
          if meetsBad q (dram + 64 * i) 64 then say q (.hostPoison (host + 64 * i) 64)
          else say q (.hostWrite (host + 64 * i) (dramRead q.mem.dram (dram + 64 * i) 64))) p
      else if t = 2 then spreadLines p b (linesOf 32 src)
      else if t = 3 then
        let lost := ((List.range (n / 64)).filter fun i => meetsBad p (dram + 64 * i) 64).length
        addReg (spreadLines p b (linesOf 32 src)) G.ldBlocked (64 * lost)
      else say p (.hostWrite host src)
    let p := setReg p G.ldState (if !hostOk then 4 else if reg p G.ldBlocked ≠ 0 then 5 else 2)
    if reg p G.ldMsix = 0 then p else raiseMsix p (reg p G.ldMsix)

/-- A running block ends with a host error (R132, R268, R353). -/
def abortLoad (p : Part) : Part :=
  let p := { p with mem := { p.mem with ldGo := false, load := none } }
  if reg p G.ldState = 1 then setReg p G.ldState 4 else p

/-- A chunk of network upload is committed, or refused whole (R133). Answers the code. -/
def commitUpload (p : Part) (data : List Byte) : Part × Nat :=
  let a := reg p G.upAddr
  if data.length ≠ reg p G.upChunk ∨ reg p G.apDramSize < a + data.length then (p, 0x06)
  else if (blockedRanges p).any (overlaps (a, a + data.length)) then (p, 0x07)
  else
    let r := writeBytes p 3 (data.zipIdx.map fun e => (a + e.2, e.1))
    let p := setReg r.1 G.upAddr (a + data.length)
    (setReg p G.upCrc (crc32c (reg p G.upCrc) data), 0)

/-- SEG_STATE of descriptor d (Table 05-8). -/
def segState (p : Part) (d : Nat) : Nat :=
  if d = zeroSeg then 3 else if (descOf p d).length = 0 then 0 else if segInUse p d then 2 else 1

end Sys2Proof.Machine
end

