-- ==== Sys2Proof/Machine/FabricOps.lean ====
section
/-!
DEFINITION. The event fabric (chapter 04): producers choose their slots, pulses merge into an assertion, and the assertion reaches the
direct tasks and, through the capture stage, the real-time task inputs.
-/

namespace Sys2Proof.Machine

/-- The event channels and slots that select a producer source now (R93, R103). -/
def slotsOf (p : Part) (src : Nat) : List (Nat × Nat) :=
  p.gz.regs.filterMap fun e =>
    let i := e.1 / 256
    let s := e.1 % 256
    if 0x1300 ≤ i ∧ i < 0x1400 ∧ 1 ≤ s ∧ s ≤ 16 ∧ e.2 = src then some (i - 0x1300, s - 1) else none

/-- The arrivals a producer pulse makes: one on each slot that selects it, two core cycles after it asserted (R95). -/
def arrivalsOf (p : Part) (x : Producer) : List Arrival :=
  (slotsOf p x.pulse.src).map fun e => ⟨e.1, e.2, x.at_ + 2, x.pulse⟩

/-- Producers that have asserted by absolute core cycle t choose their slots by the selection in force (R103). -/
def settle (p : Part) (t : Nat) : Part :=
  let due := p.fab.producers.filter fun x => decide (x.at_ ≤ t)
  { p with fab := { p.fab with producers := p.fab.producers.filter (fun x => decide (t < x.at_)),
                               arrivals := p.fab.arrivals ++ due.flatMap (arrivalsOf p) } }

/-- A subscription entry of a real-time task input: the key of its latch (Table 04-2). -/
def rtLatch (k : Nat) : Option Nat :=
  let i := k / 256
  let s := k % 256
  if 0x2300 ≤ i ∧ i < 0x2400 ∧ 0x10 ≤ s ∧ s < 0x20 then some (chLatch (i % 256) (s - 0x10))
  else if 0x2200 ≤ i ∧ i < 0x2300 ∧ (s = 0x11 ∨ s = 0x12) then some (chLatch (i % 256) (s - 0x11 + 16))
  else if 0x2000 ≤ i ∧ i < 0x2100 ∧ s = 0x05 then some (chLatch (i % 256) 18)
  else if 0x2600 ≤ i ∧ i < 0x2700 ∧ s = 0x06 then some (chLatch (i % 256) 19)
  else if 0x1A00 ≤ i ∧ i < 0x1A10 ∧ 0x0B ≤ s ∧ s ≤ 0x0E then some (grpLatch (i - 0x1A00) (s - 0x0B))
  else none

/-- A subscription entry of an EVIO drive input: the pin and the input (Table 04-2). -/
def pinInput (k : Nat) : Option (Nat × Nat) :=
  let i := k / 256
  let s := k % 256
  if 0x1400 ≤ i ∧ i < 0x1500 ∧ (s = 0x06 ∨ s = 0x07) then some (i - 0x1400, s - 0x06) else none

/-- The keys of listed entries that hold event channel ec. -/
def holding (p : Part) (ec : Nat) : List Nat := p.gz.regs.filterMap fun e => if e.2 = ec then some e.1 else none

/-- The latches of the real-time inputs subscribed to ec, rising (R100). -/
def rtInputs (p : Part) (ec : Nat) : List Nat := (holding p ec).filterMap rtLatch

/-- The drive inputs subscribed to ec (R100). -/
def pinInputs (p : Part) (ec : Nat) : List (Nat × Nat) := (holding p ec).filterMap pinInput

/-- The first latch, the number of inputs and the drop counter of the task a latch belongs to (R100, Table 04-2). -/
def taskOf (l : Nat) : Nat × Nat × Nat :=
  if 8192 ≤ l then
    let g := (l - 8192) / 4
    (grpLatch g 0, 4, G.lgDrops g)
  else
    let c := l / 32
    let i := l % 32
    if i < 8 then (chLatch c 0, 8, G.evDrops c)
    else if i < 16 then (chLatch c 8, 8, G.jmpDrops c)
    else if i < 18 then (chLatch c 16, 2, G.gateDrops c)
    else if i = 18 then (chLatch c 18, 1, G.parkDrops c)
    else (chLatch c 19, 1, G.pacedDrops c)

/-- A jump input that is not enabled (R157). -/
def jumpDisabled (p : Part) (l : Nat) : Bool :=
  decide (l < 8192 ∧ 8 ≤ l % 32 ∧ l % 32 < 16) && !bit (reg p (G.jmpBind (l / 32) (l % 32 - 8))) 15

/-- The latch at key l set to x, or emptied. -/
def setLatch (p : Part) (l : Nat) (x : Option Latch) : Part :=
  { p with fab := { p.fab with latches := match x with
                                          | some y => kput l y p.fab.latches
                                          | none => kdel l p.fab.latches } }

/-- A pulse is latched (Table 04-3): of two pulses before the decide point the latch holds the earlier stamp, and the other is counted as absorbed. -/
def holdPulse (p : Part) (l t drops : Nat) (q : Pulse) : Part :=
  match latchAt p l with
  | none => setLatch p l (some ⟨q, t⟩)
  | some x =>
    let p := addReg p drops 1
    if nOf q.tick q.off < nOf x.pulse.tick x.pulse.off then setLatch p l (some ⟨q, t⟩) else p

/-- A pulse reaches the input of latch l in absolute core cycle t (R100, Table 04-3): of several inputs of one task in one cycle the lowest is taken,
whatever their latches hold, and each other is counted; the event latches are independent. -/
def latchPulse (p : Part) (l t : Nat) (q : Pulse) : Part :=
  let k := taskOf l
  let take (p : Part) : Part :=
    holdPulse { p with fab := { p.fab with taken := kput k.1 (t, l, latchAt p l) p.fab.taken } } l t k.2.2 q
  if jumpDisabled p l then addReg p k.2.2 1
  else if l < 8192 ∧ l % 32 < 8 then holdPulse p l t k.2.2 q
  else
    match kfind k.1 p.fab.taken with
    | none => take p
    | some (c, j, was) =>
      if c ≠ t then take p
      else if j ≤ l then addReg p k.2.2 1
      else take (setLatch (if was = none then addReg p k.2.2 1 else p) j was)

/-- One assertion reaches the real-time inputs of latches ls: of several inputs of one task the lowest is taken (Table 04-3). -/
def latchAll (p : Part) (t : Nat) (q : Pulse) : List Nat → List Nat → Part
  | _, [] => p
  | seen, l :: ls =>
    let k := taskOf l
    if seen.contains k.1 then latchAll (addReg p k.2.2 1) t q seen ls
    else latchAll (latchPulse p l t q) t q (k.1 :: seen) ls

/-- A pin, low and idle if nothing has driven it. -/
def pinOf (p : Part) (n : Nat) : PinSt := (kfind n p.fab.evio).getD ⟨false, false, false, 0, 0, 0, false, 0, 0⟩

/-- The part with pin state x at pin n. -/
def setPin (p : Part) (n : Nat) (x : PinSt) : Part := { p with fab := { p.fab with evio := kput n x p.fab.evio } }

/-- This part is the shadow of a pair (R112). -/
def isShadow (p : Part) : Bool := decide (reg p G.pairRole = 2)

/-- The drive tasks' levels reach the pads: not on a shadow, and not after a loss of the sample clock until the Graticule is aligned
(Table 04-4). -/
def pinsDriven (p : Part) : Bool := !isShadow p && !p.fab.pinsLow

/-- A pin is driven to a level at sample n; a shadow runs the task without driving the pin (Table 04-4). [DEDUCED, assumption 69] -/
def drivePin (p : Part) (pin : Nat) (level : Bool) (n endAt : Nat) (x : PinSt) : Part :=
  let x := { x with drive := level, endAt := endAt }
  if !pinsDriven p then setPin p pin x
  else if level = (pinOf p pin).drive then setPin p pin x
  else say (setPin p pin { x with pad := level, turned := n + 1 }) (.evio pin level n)

/-- An accepted edge is counted and recorded if EVIO_EDGE selects it (R105, R106). -/
def countEdge (p : Part) (pin : Nat) (rising : Bool) (n : Nat) : Part :=
  let sel := reg p (G.evioEdge pin)
  if sel = 3 ∨ (sel = 1 ∧ rising) ∨ (sel = 2 ∧ !rising) then
    setReg (addReg p (G.evioEdges pin) 1) (G.evioLast pin) (n / 250 + n % 250 * 2 ^ 64 + ofBool rising * 2 ^ 72 + 2 ^ 127)
  else p

/-- The part's own last edge at an output pin is judged by what has followed up to sample n (R105, R106): accepted once its level has held for the
filter's samples. closed: nothing more of that level follows. [DEDUCED, assumption 69] -/
def judgePad (p : Part) (pin n : Nat) (closed : Bool) : Part :=
  let x := pinOf p pin
  if x.turned = 0 then p
  else if x.pad = x.accepted then setPin p pin { x with turned := 0 }
  else if x.turned - 1 + reg p (G.evioFilter pin) ≤ n then
    countEdge (setPin p pin { x with accepted := x.pad, turned := 0 }) pin x.pad (x.turned - 1)
  else if closed then setPin p pin { x with turned := 0 }
  else p

/-- The pins' own edges that are older than sample n are judged. -/
def judgePads (p : Part) (n : Nat) : Part := (p.fab.evio.map (·.1)).foldl (fun q pin => judgePad q pin (n - 1) false) p

/-- Every output pin leaves what it drove (R22, Table 04-4): driven low from sample n on, its task idle. [DEDUCED, assumption 69] -/
def lowerPins (p : Part) (n : Nat) : Part :=
  let low (q : Part) (pin : Nat) : Part :=
    let x := pinOf q pin
    if reg q (G.evioDir pin) = 0 then q
    else
      let q := if x.drive && pinsDriven q then say q (.evio pin false n) else q
      setPin q pin { x with drive := false, endAt := 0, turned := 0, pad := x.pad && isShadow q }
  let q := (p.fab.evio.map (·.1)).foldl low p
  { q with fab := { q.fab with pinsLow := true } }

/-- The output pins take the levels of their drive tasks at sample n (Table 04-4). -/
def raisePins (p : Part) (n : Nat) : Part :=
  if isShadow p then p
  else
    (p.fab.evio.map (·.1)).foldl (fun q pin =>
      let x := pinOf q pin
      if reg q (G.evioDir pin) = 0 then q
      else
        let q := setPin q pin { x with pad := x.drive, turned := if x.drive = x.pad then x.turned else n + 1 }
        if x.drive then say q (.evio pin true n) else q) p

/-- The drive task of a pin sees a pulse on an input in absolute core cycle t (R106, R107). -/
def driveTask (p : Part) (pin input t : Nat) (q : Pulse) : Part :=
  let x0 := pinOf p pin
  let again := decide (x0.lastCyc = t + 1)
  if reg p (G.evioDir pin) = 0 ∨ (again && decide (x0.lastIn ≤ input)) then p
  else
      let said := again && pinsDriven p && decide (x0.drive ≠ x0.prevDrive)
      let p := if again then setPin p pin { x0 with drive := x0.prevDrive, endAt := x0.prevEnd, pad := if said then x0.prevDrive else x0.pad,
                                                    turned := if said then 0 else x0.turned }
        else judgePad p pin (10 * t - 1) true
      let p := if said then say p (.evio pin x0.prevDrive (x0.turned - 1)) else p
      let x := pinOf p pin
      let x := { x with lastCyc := t + 1, lastIn := input, prevDrive := x.drive, prevEnd := x.endAt }
      let f := if q.src < 0x100 then reg p (G.evioFilter q.src) else 0
      let n := if reg p (G.evioReflexExact pin) = 1 then nOf q.tick q.off + 30 + 10 * ceilDiv f 10 else 10 * t
      let mode := reg p (G.evioOutMode pin)
      let stop := n + reg p (G.evioOutWidth pin)
      if mode = 0 then
        if input = 0 then
          let p := if x.drive then orReg p (G.evioFlags pin) 2 else p
          drivePin p pin true n stop x
        else if x.drive then drivePin p pin false n 0 x else setPin p pin x
      else if mode = 1 then drivePin p pin (decide (input = 0)) n 0 x
      else drivePin p pin (if input = 0 then !x.drive else false) n 0 x

/-- The pulse that an assertion carries out of the pulses that reach it (R99): the earliest stamp, ties to the lowest slot, with the
highest generation. -/
def mergePulses : List Arrival → Option (Pulse × Nat)
  | [] => none
  | a :: r =>
    match mergePulses r with
    | none => some (a.pulse, a.slot)
    | some (q, s) =>
      let g := max a.pulse.gen q.gen
      let na := nOf a.pulse.tick a.pulse.off
      let nq := nOf q.tick q.off
      if na < nq ∨ (na = nq ∧ a.slot ≤ s) then some ({ a.pulse with gen := g }, a.slot) else some ({ q with gen := g }, s)

/-- The record EC_LAST takes (Table 04-7). -/
def ecLastRecord (q : Pulse) (sw : Bool) : Nat :=
  q.tick + q.off * 2 ^ 64 + q.src * 2 ^ 72 + q.gen * 2 ^ 84 + ofBool sw * 2 ^ 88 + 2 ^ 127

/-- The capture stage delivers an assertion to the real-time inputs subscribed to its channel, at most 64 for one capture tick
(R101); on the active part of a pair it is logged (R112). A shadow takes its pulses from the log instead. -/
def capture (p : Part) (ec t : Nat) (q : Pulse) : Part :=
  let ls := rtInputs p ec
  if ls.isEmpty then p
  else
    let n := kget (fun _ => 0) p.fab.captured q.tick
    if 64 ≤ n then orReg (addReg p G.captureOverflow 1) G.fabricFlags 2
    else
      let p := { p with fab := { p.fab with captured := kset (fun _ => 0) p.fab.captured q.tick (n + 1),
                                            log := p.fab.log ++ [(q.tick, ⟨q.off, ec, q.src, q.gen⟩)] } }
      if isShadow p then p else latchAll p t q [] ls

/-- The interrupt task of event channel ec raises its vector at most once in a tick, that of the cycle in which it acts (R102).
[DESIGN CHOICE, assumption 102] -/
def interruptTask (p : Part) (ec t : Nat) : Part :=
  let v := reg p (G.ecMsix ec)
  if 256 ≤ v ∨ kget (fun _ => 0) p.fab.msixAt ec = t / 25 + 1 then p
  else raiseMsix { p with fab := { p.fab with msixAt := kset (fun _ => 0) p.fab.msixAt ec (t / 25 + 1) } } v

/-- The chain task re-emits the assertion one cycle after it, with its generation plus one (R97, Table 04-8). -/
def chainTask (p : Part) (ec t : Nat) (q : Pulse) : Part :=
  { p with fab := { p.fab with
      producers := p.fab.producers ++ [⟨t, ⟨t / 25, 10 * (t % 25), 0xA00 + ec, q.gen + 1⟩⟩] } }

/-- Event channel ec asserts in absolute core cycle t: its counters, EC_LAST, and every task one cycle later (R95, R99 to R102). -/
def assertion (p : Part) (ec t : Nat) (live : List Arrival) (q : Pulse) : Part :=
  let sw := live.any fun a => a.slot = 16
  let p := setReg (addReg p (G.ecCount ec) 1) (G.ecLast ec) (ecLastRecord q sw)
  let p := if live.length = 1 then p
    else orReg (addReg p (G.ecCoalesce ec) (live.length - 1)) (G.ecFlags ec) 2
  let p := { p with fab := { p.fab with lastAt := kset (fun _ => 0) p.fab.lastAt ec (t + 1) } }
  let p := capture p ec (t + 1) q
  let p := (pinInputs p ec).foldl (fun p x => driveTask p x.1 x.2 (t + 1) q) p
  chainTask (interruptTask p ec (t + 1)) ec (t + 1) q

/-- The pulses that reach event channel ec in absolute core cycle t are taken: those of generation 15 are dropped, the rest assert
the channel or are absorbed in its refractory window (R98, R99). [DEDUCED, assumption 67] -/
def reachChannel (p : Part) (ec t : Nat) : Part :=
  let here := p.fab.arrivals.filter fun a => decide (a.ec = ec ∧ a.due = t)
  let p := { p with fab := { p.fab with arrivals := p.fab.arrivals.filter fun a => decide (¬ (a.ec = ec ∧ a.due = t)) } }
  let loops := here.filter fun a => decide (15 ≤ a.pulse.gen)
  let live := here.filter fun a => decide (a.pulse.gen < 15)
  let p := if loops.isEmpty then p
    else orReg (orReg (addReg p (G.ecLoopDrops ec) loops.length) (G.ecFlags ec) 1) G.fabricFlags 1
  match mergePulses live with
  | none => p
  | some (q, _) =>
    if kget (fun _ => 0) p.fab.lastAt ec = t ∧ t ≠ 0 then
      orReg (addReg p (G.ecCoalesce ec) live.length) (G.ecFlags ec) 4
    else assertion p ec t live q

/-- The least of two optional cycles. -/
def minCycle (a : Option Nat) (b : Nat) : Option Nat := some ((a.map fun x => min x b).getD b)

/-- The absolute core cycle in which the next pulses reach event channel ec, if any are on their way (R95). [DEDUCED, assumption 67] -/
def nextArrival (p : Part) (ec : Nat) : Option Nat :=
  let a := (p.fab.arrivals.filter fun a => decide (a.ec = ec)).foldl (fun m a => minCycle m a.due) none
  (p.fab.producers.filter fun x => (slotsOf p x.pulse.src).any fun e => e.1 = ec).foldl
    (fun m x => minCycle m (x.at_ + 2)) a

/-- The cycles in which pulses will reach event channels, each with its channel (R95). -/
def allDue (p : Part) : List (Nat × Nat) :=
  (p.fab.arrivals.map fun a => (a.due, a.ec)) ++ p.fab.producers.flatMap fun x => (slotsOf p x.pulse.src).map fun e => (x.at_ + 2, e.1)

/-- Order of core cycle and, within a cycle, of event-channel number (R101). -/
def sooner (a b : Nat × Nat) : Bool := decide (a.1 < b.1 ∨ (a.1 = b.1 ∧ a.2 < b.2))

/-- The first of a list of cycles with channels. -/
def firstDue : List (Nat × Nat) → Option (Nat × Nat)
  | [] => none
  | a :: r =>
    match firstDue r with
    | none => some a
    | some b => if sooner b a then some b else some a

/-- Pulses reach event channel ec in absolute core cycle t: producers have chosen their slots by then. -/
def reachAt (p : Part) (ec t : Nat) : Part :=
  let p := settle p (t - 2)
  reachChannel (atCyc p (t - 25 * p.time.tick)) ec t

/-- Everything that reaches an event channel before cycle and channel x does so, in the order of R101, in at most n steps. -/
def reachBefore (x : Nat × Nat) : Nat → Part → Part
  | 0, p => p
  | n + 1, p =>
    match firstDue (allDue p) with
    | none => p
    | some y => if sooner y x then reachBefore x n (reachAt p y.2 y.1) else p

/-- A software pulse on every event channel of a mask, seen in absolute core cycle due (R109, R110). [DEDUCED, assumption 19] -/
def softFire (p : Part) (mask tick off due : Nat) : Part :=
  (List.range 256).foldl (fun p ec =>
    if bit mask ec then
      let p := orReg p (G.ecFlags ec) 8
      { p with fab := { p.fab with arrivals := p.fab.arrivals ++ [⟨ec, 16, due, ⟨tick, off, 0xFFF, 0⟩⟩] } }
    else p) p

/-- Firing a mask at a tick (R91, R109, R111): at once for tick 0, kept for a later tick, refused with 0x06 for a tick that is not
later or when 16 already wait. Answers the abort code. -/
def fire (p : Part) (mask at_ : Nat) : Part × Nat :=
  if at_ = 0 then (softFire p mask p.time.tick (10 * p.time.cyc) (acyc p + 2), 0)
  else if at_ ≤ p.time.tick then (p, 0x06)
  else if 16 ≤ p.fab.fires.length then (orReg p G.fabricFlags 4, 0x06)
  else
    (setReg { p with fab := { p.fab with fires := p.fab.fires ++ [(at_, mask)] } } G.firePending (p.fab.fires.length + 1), 0)

/-- Timed firings whose tick satisfies f are discarded by a Datum step or a realignment (R111). -/
def discardFires (p : Part) (f : Nat → Bool) : Part :=
  let gone := p.fab.fires.filter fun e => f e.1
  if gone.isEmpty then p
  else
    let rest := p.fab.fires.filter fun e => !f e.1
    let p := setReg { p with fab := { p.fab with fires := rest } } G.firePending rest.length
    orReg (addReg p G.fireDiscarded gone.length) G.fabricFlags 8

/-- Timed firings whose tick is t are asserted together in core cycle 0 of the tick (R109, R111).
[DEDUCED, assumption 2; DEDUCED, assumption 19] -/
def fireDue (p : Part) (t : Nat) : Part :=
  let due := p.fab.fires.filter fun e => decide (e.1 = t)
  let rest := p.fab.fires.filter fun e => decide (e.1 ≠ t)
  let p := setReg { p with fab := { p.fab with fires := rest } } G.firePending rest.length
  due.foldl (fun p e => softFire p e.2 t 0 (25 * t + 2)) p

/-- TIMED_FIRE in tick t (R109, R111): the firings of a tick that lies within a realignment are discarded. -/
def fireTick (p : Part) (t : Nat) : Part :=
  if reg p G.clockState = 0 then fireDue p t else discardFires p fun k => decide (k = t)

/-- An edge at the pad of a pin (R105, R106): judged against the last accepted level, accepted if the new level then holds for the
filter's samples and EVIO_EDGE selects it; an accepted edge is counted and recorded, and on an input pin it pulses EVIO_IN in the
core cycle in which acceptance completes. Nothing is captured while the sample clock is lost, and on a shadow no pulse reaches a task (Table 04-4).
[DEDUCED, assumption 69] -/
def padEdge (p : Part) (pin : Nat) (rising : Bool) (off held : Nat) : Part :=
  let k := p.time.tick
  let f := reg p (G.evioFilter pin)
  let p := judgePad (atCyc p (max p.time.cyc (min 24 ((off + f) / 10)))) pin (nOf k off - 1) true
  let x := pinOf p pin
  let p := setPin p pin { x with pad := rising }
  if rising = x.accepted ∨ held < f ∨ coreStopped p then p
  else
    let p := countEdge (setPin p pin { x with pad := rising, accepted := rising }) pin rising (nOf k off)
    let sel := reg p (G.evioEdge pin)
    if (sel = 3 ∨ (sel = 1 ∧ rising) ∨ (sel = 2 ∧ !rising)) ∧ reg p (G.evioDir pin) ≠ 1 ∧ !isShadow p then
      let at_ := 25 * k + (off + f) / 10
      if p.fab.producers.any (fun y => y.pulse.src = pin && y.at_ = at_) then orReg p (G.evioFlags pin) 1
      else { p with fab := { p.fab with producers := p.fab.producers ++ [⟨at_, ⟨k, off, pin, 0⟩⟩] } }
    else p

/-- The pulse of an output pin in mode 0 ends at its last sample (R106). -/
def endPulse (p : Part) (pin : Nat) : Part :=
  let e := (pinOf p pin).endAt
  if e = 0 ∨ coreStopped p then p
  else
    let p := judgePad p pin (e - 1) true
    drivePin p pin false e 0 (pinOf p pin)

end Sys2Proof.Machine
end

