-- ==== Sys2Proof/Machine/Synth.lean ====
section
/-!
DEFINITION. The synthesize stage of one channel and tick (R12, Table 08-1): the stored samples the plan places, the interpolator, the
tones, the combiner, gain and offset, and the clip. Values between stages 2 and 5 are integers in units of 2^-18 (R182).
-/

namespace Sys2Proof.Machine

/-- DI of R185 for factor i. -/
def interpDelay (i : Nat) : Nat := if i ≤ 1 then 0 else 22 * i + 16

/-- The signed 16-bit value of a pattern. -/
def code16 (v : Nat) : Int := toSigned 16 v

/-- The stored sample s as channel c plays it: real value or I, and Q (R116). -/
def smpValue (p : Part) (c : Nat) : Smp → Int × Int
  | .zero => (0, 0)
  | .rest => (code16 (bits (planned p (G.restCode c)) 15 0), code16 (bits (planned p (G.restCode c)) 31 16))
  | .seg d idx =>
    let s := descOf p d
    if s.residence = 0 then
      let a := 64 * s.base + idx * sampleBytes s.format
      let w (k : Nat) : Int := code16 (ofBytesLE (dramRead p.mem.dram (a + 2 * k) 2))
      (w 0, if s.format = 1 then w 1 else 0)
    else if s.format = 1 then
      (code16 (insetSlot p c (s.base + 2 * idx)), code16 (insetSlot p c (s.base + 2 * idx + 1)))
    else (code16 (insetSlot p c (s.base + idx)), 0)
  | .ring q pos =>
    let a := planned p (G.sqRingBase q) + pos % max 1 (planned p (G.sqRingSize q))
    let w (k : Nat) : Int := code16 (ofBytesLE (dramRead p.mem.dram (a + 2 * k) 2))
    (w 0, w 1)

/-- The placements of a span: output positions every i samples from the boundary of its source, with their values (stage 1 of
Table 08-1). A hold repeats the value held, whatever its store holds now (R147). -/
def placements (p : Part) (c i : Nat) (held : Int × Int) (s : Span) : List (Nat × Int × Int) :=
  let start := match s.src with
    | .play _ b _ => b
    | .fill _ b => b
    | .gap _ b => b
    | .hold _ b => b
    | .rest b => b
    | .none => s.begin_
  let k0 := ceilDiv (s.begin_ - start) i
  (List.range 251).filterMap fun k =>
    let n := start + (k0 + k) * i
    if n < s.end_ ∧ s.src ≠ .none then
      match s.src with
      | .hold _ _ => some (n, held)
      | _ => some (n, smpValue p c (sampleAt p s.src n i))
    else none

/-- The value that a later hold repeats, after placements of a source: a gap leaves it as it was (R147, Table 11-5). -/
def heldAfter (held : Int × Int) (s : Src) (l : List (Nat × Int × Int)) : Int × Int :=
  match s with
  | .gap _ _ => held
  | _ => (l.getLast?.map (·.2)).getD held

/-- The placements of spans in order, and the value held after them. -/
def placeSpans (p : Part) (c i : Nat) : Int × Int → List Span → List (Nat × Int × Int) × (Int × Int)
  | held, [] => ([], held)
  | held, s :: r =>
    let l := placements p c i held s
    let x := placeSpans p c i (heldAfter held s.src l) r
    (l ++ x.1, x.2)

/-- The other coefficients of the polyphase branch whose middle coefficient lies d from the centre of the response at factor i. -/
def branchRest (i d : Nat) : Int :=
  let di := interpDelay i
  ((List.range (di / i + 1)).map fun j =>
    let a := d + i * (j + 1)
    let b := i * (j + 1) - d
    (if a ≤ di then Config.interpCoef i a else 0) + (if b ≤ di ∧ b ≠ d then Config.interpCoef i b else 0)).sum

/-- A free coefficient at distance d from the centre, but for what R185 states, that a constant code is reproduced within 1 code: every branch
sums to 1 within 2^-15, by its middle coefficient. [UNVERIFIED, assumption 5] -/
def freeWeight (i d : Nat) : Int :=
  if i < 2 * d then Config.interpCoef i d
  else
    let s := 2 ^ 18 + clampInt (-7) 7 (Config.interpCoef i d) - branchRest i d
    if 2 * d = i then s / 2 else s

/-- No coefficient exceeds the one at the centre (R186). -/
def peaksAtCentre (i : Nat) : Bool := (List.range (interpDelay i + 1)).all fun d => decide (|freeWeight i d| ≤ freeWeight i 0)

/-- The coefficient at distance d from the centre of the response at factor i, in units of 2^-18: free but for what R185 and R186 state. Free
coefficients that do not peak at the centre are no interpolator's; those of a hold stand in for them. [UNVERIFIED, assumption 5] -/
def interpWeight (i d : Nat) : Int :=
  if peaksAtCentre i then freeWeight i d else if 2 * d < i then 2 ^ 18 else if 2 * d = i then 2 ^ 17 else 0

/-- The interpolator at output sample n over its history, in units of 2^-18 (R184, R186). At factor 1 it is the placed sample. -/
def interpAt (i n : Nat) (h : List (Nat × Int × Int)) : Int × Int :=
  if i ≤ 1 then
    match h.find? fun e => e.1 = n with
    | some e => (e.2.1 * 2 ^ 18, e.2.2 * 2 ^ 18)
    | none => (0, 0)
  else
    let di := interpDelay i
    h.foldl (fun a e =>
      if e.1 ≤ n ∧ n ≤ e.1 + 2 * di then
        let w := interpWeight i (if e.1 + di ≤ n then n - e.1 - di else e.1 + di - n)
        (a.1 + w * e.2.1, a.2 + w * e.2.2)
      else a) (0, 0)

/-- The sum of the alternating series of the cosine, terms k to k + 11, for x squared in units of 2^-60 and a running term. -/
def cosSeries (x2 : Int) : Nat → Int → Nat → Int
  | 0, _, _ => 0
  | fuel + 1, t, k =>
    let t' := -(t * x2 / 2 ^ 60) / (((2 * k + 1) * (2 * k + 2) : Nat) : Int)
    t + cosSeries x2 fuel t' (k + 1)

/-- The cosine of a quarter phase r, 0 to 2^20 for a quarter of a cycle, in units of 2^-60, by its power series. 1811004864519280711
is 2^60 times half of pi, rounded. -/
def cosQuarter (r : Nat) : Int :=
  let x : Int := (1811004864519280711 * (r : Int)) / 2 ^ 20
  cosSeries (x * x / 2 ^ 60) 14 (2 ^ 60) 0

/-- The cosine of a phase of 22 bits (R192), in units of 2^-60. -/
def cosFix (ph : Nat) : Int :=
  let q := ph / 2 ^ 20
  let r := ph % 2 ^ 20
  if q = 0 then cosQuarter r
  else if q = 1 then -cosQuarter (2 ^ 20 - r)
  else if q = 2 then -cosQuarter r
  else cosQuarter (2 ^ 20 - r)

/-- v times the cosine of phase φ (48 bits, truncated to 22; R192), v in units of 2^-18, within one unit of 2^-18 of the product: the
manual does not say how the product is formed (assumption 6). [UNVERIFIED, assumption 6] -/
def timesCos (v : Int) (φ : Nat) : Int :=
  let ph := φ % 2 ^ 48 / 2 ^ 26
  if v = 0 then 0 else v * cosFix ph / 2 ^ 60 + clampInt (-1) 1 (Config.toneError ph v.toNat)

/-- The frequency word, amplitude, phase offset and mode of a tone record (Table 08-4). -/
def toneF (r : Nat) : Nat := bits r 47 0
def toneA (r : Nat) : Nat := bits r 63 48
def toneP (r : Nat) : Nat := bits r 95 64
def toneCont (r : Nat) : Bool := bit r 96

/-- The record r with the fields of mask (bit 0 F, 1 P, 2 A, 3 mode) taken from s (R151). -/
def mixTone (mask r s : Nat) : Nat :=
  let r := if bit mask 0 then putBits r 0 48 (toneF s) else r
  let r := if bit mask 1 then putBits r 64 32 (toneP s) else r
  let r := if bit mask 2 then putBits r 48 16 (toneA s) else r
  if bit mask 3 then putBits r 96 1 (ofBool (toneCont s)) else r

/-- The datapath after one commit at sample n (R190, R198). -/
def applyEff (d : Dp) (n : Nat) : Eff → Dp
  | .tone t mask s => { d with recs := d.recs.set t (mixTone mask (d.recs.getD t 0) s) }
  | .gain v => { d with gain := v }
  | .offset v => { d with offset := v }
  | .level v => { d with level := v }
  | .mute m => { d with muted := d.muted ||| m }
  | .unmute m => { d with muted := d.muted ^^^ (d.muted &&& m) }
  | .clearHistory => { d with muted := 0, history := [], held := (0, 0), acc := d.recs.map fun r => toneF r * n % 2 ^ 48 }

/-- The accumulator of tone t at sample n (R190). -/
def phaseAcc (d : Dp) (t n : Nat) : Nat :=
  let r := d.recs.getD t 0
  if toneCont r then d.acc.getD t 0 else toneF r * n % 2 ^ 48

/-- The phase of tone t at sample n (R189). -/
def phaseOf (d : Dp) (t n : Nat) : Nat := (phaseAcc d t n + toneP (d.recs.getD t 0) * 2 ^ 16) % 2 ^ 48

/-- The effective amplitude of tone t: 0 while muted (R191, R198). -/
def ampOf (d : Dp) (t : Nat) : Nat := if bit d.muted t then 0 else toneA (d.recs.getD t 0)

/-- The value of tone t at sample n, in units of 2^-18 code (R189). -/
def toneValue (d : Dp) (t n : Nat) : Int :=
  timesCos (((ampOf d t * 32767 * 2 ^ 18 : Nat) : Int) / 65535) (phaseOf d t n)

/-- u(n) of complex mode, in units of 2^-18 code (R193); the sine is the cosine a quarter cycle back. -/
def upconvert (d : Dp) (n : Nat) (x : Int × Int) : Int :=
  let a := ampOf d 0
  let φ := phaseOf d 0 n
  timesCos (x.1 * a / 65535) φ - timesCos (x.2 * a / 65535) (φ + 3 * 2 ^ 46)

/-- Stage 4 in units of 2^-18 code (Table 08-2). -/
def combine (d : Dp) (mode n : Nat) (x : Int × Int) : Int :=
  if mode = 1 then upconvert d n x + toneValue d 1 n + toneValue d 2 n + toneValue d 3 n
  else x.1 + toneValue d 0 n + toneValue d 1 n + toneValue d 2 n + toneValue d 3 n

/-- Stage 5: gain and offset, rounded once, a half upward (R196). y is in units of 2^-18 code. -/
def gainStage (y : Int) (gain offset : Nat) : Int :=
  roundHalfUp (y * toSigned 32 gain + toSigned 32 offset * 2 ^ 32) (2 ^ 48)

/-- Stage 6: the code limited to CLIP_LIMITS (R197). -/
def clipCode (limits : Nat) (v : Int) : Int := clampInt (code16 (bits limits 15 0)) (code16 (bits limits 31 16)) v

/-- The code of one output sample before and after stage 6 (R181, R199). -/
def sampleCode (d : Dp) (mode i n limits : Nat) : Int × Int :=
  let raw :=
    if mode = 2 then toSigned 32 d.level
    else gainStage (combine d mode n (interpAt i n d.history)) d.gain d.offset
  (raw, clipCode limits (clampInt (-32768) 32767 raw))

/-- The datapath moved from sample n to n + 1: accumulators advance, muted or not (R190, R191). -/
def tickAcc (d : Dp) (n : Nat) : Dp :=
  { d with acc := (List.range 4).map fun t => (phaseAcc d t n + toneF (d.recs.getD t 0)) % 2 ^ 48 }

/-- Samples n to n + k - 1: their codes and how many stage 6 changed, with the commits at their samples applied first (R15). -/
def synthRun (mode i limits : Nat) (effs : List EffAt) : Nat → Nat → Dp → Dp × List Int × Nat
  | 0, _, d => (d, [], 0)
  | k + 1, n, d =>
    let d := effs.foldl (fun d e => if e.n = n then applyEff d n e.eff else d) d
    let z := sampleCode d mode i n limits
    let r := synthRun mode i limits effs k (n + 1) (tickAcc d n)
    (r.1, z.2 :: r.2.1, r.2.2 + if z.1 = z.2 then 0 else 1)

/-- Nothing in the datapath changes from sample to sample: no placement, no commit to come, no tone that sounds. -/
def steady (d : Dp) (effs : List EffAt) : Bool := effs.isEmpty && d.history.isEmpty && (List.range 4).all fun t => decide (ampOf d t = 0)

/-- The samples n to n + 249 of a steady datapath: one code, and the accumulators moved on (R190, R191). -/
def steadyRun (mode i limits n : Nat) (d : Dp) : Dp × List Int × Nat :=
  let z := sampleCode d mode i n limits
  ({ d with acc := (List.range 4).map fun t => (phaseAcc d t n + 250 * toneF (d.recs.getD t 0)) % 2 ^ 48 },
   List.replicate 250 z.2, if z.1 = z.2 then 0 else 250)

/-- The synthesize stage of channel c for tick k: the codes of its 250 samples, the clip count and the phases at its sample 0, with
the history and the edges carried on (R12, R186, R187, R233). -/
def synthTick (p : Part) (c : Chan) (k : Nat) : Part :=
  let t := planOf p c k
  let d := dpOf p c
  let i := max 1 (planned p (G.interp c))
  let mode := planned p (G.dpMode c)
  let limits := planned p (G.clipLimits c)
  let n0 := 250 * k
  let clears := t.effs.any fun e => e.eff = .clearHistory
  let new := placeSpans p c i (if clears then (0, 0) else d.held) t.spans
  let old := if clears then [] else d.history
  let d := t.effs.foldl (fun d e => if e.n = n0 then applyEff d n0 e.eff else d) d
  let d := { d with history := old ++ new.1, held := new.2,
                    edges := d.edges ++ t.edges.map fun e => { e with n := e.n + interpDelay i } }
  let info := (List.range 4).map (fun j => phaseOf d j n0) ++ [d.muted]
  let rest := t.effs.filter fun e => e.n ≠ n0
  let r := if steady d rest then steadyRun mode i limits n0 d else synthRun mode i limits rest 250 n0 d
  let keep := r.1.history.filter fun e => n0 + 250 ≤ e.1 + 2 * interpDelay i
  let p := setDp p c { r.1 with history := keep, next := r.2.1, info := info }
  if r.2.2 = 0 then p else orReg (addReg p (G.clipCount c) r.2.2) (G.clipFlags c) 1

end Sys2Proof.Machine
end

