-- ==== Sys2Proof/Machine/OutputOps.lean ====
section
/-!
DEFINITION. The output of a channel (chapter 09): which driver owns it and whether its hand-off switch is closed, faults, span changes, the trim
loop and the markers at the pins.
-/

namespace Sys2Proof.Machine

/-- Ticks in 10 microseconds, R of R220. -/
def rampTicks (p : Part) : Nat := ceilDiv (10 * reg p G.ticksPerSecond) 1000000

/-- Mid-scale of a span in microvolts, as Vd (Table 09-2, R238). -/
def midScale (span : Nat) : Int := if span = 4 then 250000 else if span = 5 then 500000 else 0

/-- The span of a code in microvolts: half-span of a bipolar span, whole span of a unipolar one (Table 09-2). -/
def spanSize (span : Nat) : Int :=
  if span = 0 then 250000 else if span = 1 then 500000 else if span = 2 then 1000000 else if span = 4 then 500000 else 1000000

/-- The voltage Vd of code z in a span, in microvolts rounded down (R214). [DESIGN CHOICE, assumption 40] -/
def codeVolts (span : Nat) (z : Int) : Int :=
  if 4 ≤ span then (z + 32768) * spanSize span / 65536 else z * spanSize span / 32768

/-- The pair is joined and the partner was last reported fit (R336). -/
def partnerFit (p : Part) : Bool := reg p G.pairState = 3 && ((p.pair.hb.map (·.fit)).getD false)

/-- VDDO stands below 1.6 V (R218, R374). -/
def vddoLow (p : Part) : Bool := decide (p.time.tick < p.life.vddoTo)

/-- Conditions of R218 that hold for every channel of the part, but for the level of VDDO. -/
def switchesWanted (p : Part) : Bool :=
  p.life.powered && !p.life.held && p.life.applied && !isShadow p && !p.pair.inActs && decide (p.life.test = 0) &&
    decide (reg p G.pairState ≠ 5) &&
    !(decide (reg p G.pairRole = 1) && decide (reg p G.clockState = 2) && partnerFit p)

/-- Conditions of R218 that hold for every channel of the part. -/
def switchesAllowed (p : Part) : Bool := switchesWanted p && !vddoLow p

/-- The hand-off switch of channel c is closed only while every condition of R218 holds. -/
def switchClosed (p : Part) (c : Chan) : Bool := switchesAllowed p && decide (reg p (G.outEnable c) = 1)

/-- A channel fault parks the output in tick k (R225, Table 09-6). [DEDUCED, assumption 53] -/
def faultParks (o : OutSt) (k : Nat) : Bool := (o.faultAt.map fun a => decide (a ≤ k)).getD false

/-- The DAC owns the output of channel c in tick k (R217, Table 09-6). -/
def dacOwns (p : Part) (c : Chan) (k : Nat) : Bool :=
  let o := outOf p c
  let st := reg p (G.seqState c)
  decide (st ≠ 0 ∧ st ≠ 6) && !(decide (st = 5) && o.halt) && !o.task && !o.relock && o.spanAt.isNone &&
    !faultParks o k && decide (reg p G.clockState ≠ 2)

/-- OUT_STATE of channel c: the row of Table 09-6 that governs its analog output. [DEDUCED, assumption 53] -/
def outStateOf (p : Part) (c : Chan) : Nat :=
  let o := outOf p c
  if !p.life.powered || vddoLow p || p.life.held || !p.life.applied then 0
  else if isShadow p || p.pair.inActs || decide (p.life.test ≠ 0) then if o.dac then 4 else 0
  else if reg p G.clockState = 2 then 6
  else if o.relock then 1
  else if faultParks o p.time.tick then 5
  else if o.spanAt.isSome then 2
  else if !o.dac then 1
  else if o.closed then 3
  else 4

/-- OUT_STATE follows the output. -/
def putOutState (p : Part) (c : Chan) : Part := setReg p (G.outState c) (outStateOf p c)

/-- Watch's window of a channel is emptied (R241). -/
def emptyWindow (p : Part) (c : Chan) : Part :=
  let w := p.watch.get c
  { p with watch := p.watch.set c.val { w with window := [], stuckOff := 0 } c.isLt }

/-- Every edge in flight of channel c whose pin instant is not before sample n is cut and counted (R233). -/
def cutEdges (p : Part) (c : Chan) (n : Nat) : Part :=
  let d := dpOf p c
  let delay (e : EdgeAt) := if e.line = 0 then reg p (G.mrkDelayA c) else reg p (G.mrkDelayB c)
  let gone := d.edges.filter fun e => decide (n ≤ e.n + delay e)
  let p := setDp p c { d with edges := d.edges.filter fun e => decide (e.n + delay e < n) }
  if gone.isEmpty then p else addReg p (G.mrkCut c) gone.length

/-- The level a line shows at the pin for the program's level, under MRK_FORCE (R234). -/
def forcedLevel (force line : Nat) (b : Bool) : Bool :=
  let f := bits force (2 * line + 1) (2 * line)
  if f = 1 then false else if f = 2 then true else b

/-- The marker pins of the part are driven: not without power or with VDDO low, in reset, on a shadow or in self-test (Table 09-6).
[DEDUCED, assumption 52] -/
def marksDriven (p : Part) : Bool :=
  p.life.powered && !vddoLow p && !p.life.held && p.life.applied && !isShadow p && decide (p.life.test = 0)

/-- The marker pins become driven, each line at its level, or high impedance, where what decides it has changed (Table 09-6).
[DEDUCED, assumption 52] -/
def settleMarkers (p : Part) : Part :=
  if marksDriven p = p.life.marksOn then p
  else
    let p := say { p with life := { p.life with marksOn := marksDriven p } } (.markerPins (marksDriven p))
    if p.life.marksOn then
      (List.finRange 256).foldl (fun q c => [0, 1].foldl (fun q l =>
        if bit (outOf q c).lines l then say q (.marker c.val l true (nOf q.time.tick (10 * q.time.cyc))) else q) q) p
    else p

/-- A marker line of channel c shows a level at sample n, where the pins are driven (Table 09-6). [DEDUCED, assumption 52] -/
def showLine (p : Part) (c : Chan) (line n : Nat) (b : Bool) : Part :=
  let o := outOf p c
  if bit o.lines line = b then p
  else
    let p := setOut p c { o with lines := putBits o.lines line 1 (ofBool b) }
    if p.life.marksOn then say p (.marker c.val line b n) else p

/-- One edge of channel c is applied at its pin instant n (R123, R233): the line takes its level, the edge is counted, and a rise
pulses its producer. [DEDUCED, assumption 52] -/
def applyEdge (p : Part) (c : Chan) (n : Nat) (e : EdgeAt) : Part :=
  let d := dpOf p c
  let was := bit d.marks e.line
  let now := if e.kind = 0 then false else if e.kind = 1 then true else !was
  let p := setDp p c { d with marks := putBits d.marks e.line 1 (ofBool now) }
  let p := addReg p (if e.line = 0 then G.mrkEdgesA c else G.mrkEdgesB c) 1
  let force := reg p (G.mrkForce c)
  let p := showLine p c e.line n (forcedLevel force e.line now)
  if now && !was && decide (bits force (2 * e.line + 1) (2 * e.line) = 0) then
    raiseAt p (n / 250) (n % 250) (0xC00 + 0x100 * e.line + c.val) 0
  else p

/-- A list of edges with their pin instants, put in order of the instant, equal ones staying in list order (R123). -/
def insertEdge (x : Nat × EdgeAt) : List (Nat × EdgeAt) → List (Nat × EdgeAt)
  | [] => [x]
  | y :: r => if x.1 < y.1 then x :: y :: r else y :: insertEdge x r

/-- The group that channel c is in, or moves to, starts or restarts at tick k and has not begun yet. -/
def startDue (p : Part) (c : Chan) (k : Nat) : Bool :=
  [groupOf p c, nextGroup p c].any fun g =>
    let x := grpOf p (grp g)
    [x.startAt, x.restartAt].any fun t => (t.map fun m => decide (m ≤ k)).getD false

/-- A pulse of the output park task parks channel c from tick k on (R217). -/
def parkDue (p : Part) (c : Chan) (k : Nat) : Bool := ((latchAt p (chLatch c 18)).map fun l => decide (l.pulse.tick + 3 ≤ k)).getD false

/-- The markers of channel c in tick k (R233, R234): edges due are applied while the DAC owns the output, and cut otherwise; at a start
tick they wait for the start, and at the first tick of the park task's park for it. -/
def markTick (p : Part) (c : Chan) (k : Nat) : Part :=
  let d := dpOf p c
  if parkDue p c k then p
  else if (outOf p c).dac then
    let delay (e : EdgeAt) := if e.line = 0 then reg p (G.mrkDelayA c) else reg p (G.mrkDelayB c)
    let due := (d.edges.filter fun e => decide ((e.n + delay e) / 250 ≤ k)).map fun e => (e.n + delay e, e)
    let p := setDp p c { d with edges := d.edges.filter fun e => decide (k < (e.n + delay e) / 250) }
    let force := reg p (G.mrkForce c)
    let p := [0, 1].foldl (fun q l => showLine q c l (250 * k) (forcedLevel force l (bit d.marks l))) p
    let l := due.foldl (fun l x => insertEdge x l) []
    let p := (l.filter fun x => decide (x.1 ≤ 250 * k)).foldl (fun q x => applyEdge q c x.1 x.2) p
    let p := setReg p (G.mrkLevel c) (outOf p c).lines
    (l.filter fun x => decide (250 * k < x.1)).foldl (fun q x => applyEdge q c x.1 x.2) p
  else if startDue p c k then p
  else
    let p := cutEdges p c 0
    let p := setDp p c { dpOf p c with marks := 0 }
    let p := [0, 1].foldl (fun q l => showLine q c l (250 * k) false) p
    setReg p (G.mrkLevel c) 0

/-- A group's start or restart at tick k: edges of the old program still in flight are cut and both lines are low (R123, R233). -/
def restartMarks (p : Part) (c : Chan) (k : Nat) : Part :=
  let d := dpOf p c
  let first := 250 * k + interpDelay (max 1 (reg p (G.interp c)))
  let old := d.edges.filter fun e => decide (e.n < first)
  let p := setDp p c { d with edges := d.edges.filter (fun e => decide (first ≤ e.n)), marks := 0 }
  if old.isEmpty then p else addReg p (G.mrkCut c) old.length

/-- The span-change sequence of channel c begins with an arming verdict in tick v (R220, Table 09-3); it runs its full length whatever the two
spans are (R222). A sequence under way completes first, and one for another span follows it (R223). [DEDUCED, assumption 55] -/
def beginSpan (p : Part) (c : Chan) (v : Nat) : Part :=
  match kfind (G.outSpan c) p.gz.pend with
  | none => p
  | some new =>
    let o := outOf p c
    match o.spanAt with
    | some a =>
      let other := decide (new ≠ o.spanTo)
      setReg (setOut p c { o with spanNext := if other then some new else none }) (G.spanReadyTick c)
        (a + (rampTicks p + 3) * (1 + ofBool other))
    | none =>
      if new = reg p (G.outSpan c) then p
      else
        let p := setOut p c { o with spanAt := some (v + 1), spanStage := 1, spanFrom := reg p (G.outSpan c), spanTo := new }
        putOutState (setReg p (G.spanReadyTick c) (v + 1 + rampTicks p + 3)) c

/-- At tick a the span that is being brought in is in force (R220). -/
def takeSpan (p : Part) (c : Chan) (k : Nat) : Part :=
  let o := outOf p c
  if o.spanAt = some k then
    let p := setReg p (G.outSpan c) o.spanTo
    let pend := if kfind (G.outSpan c) p.gz.pend = some o.spanTo then kdel (G.outSpan c) p.gz.pend else p.gz.pend
    emptyWindow { p with gz := { p.gz with pend := pend } } c
  else p

/-- The park driver begins its ramp at tick a + 2 (R220). [DEDUCED, assumption 55] -/
def spanRamp (p : Part) (c : Chan) : Part :=
  let o := outOf p c
  match o.spanAt with
  | some a => if o.spanStage = 1 ∧ a + 2 ≤ p.time.tick then setOut p c { o with spanStage := 2 } else p
  | none => p

/-- The ramp ends at tick a + R + 2 (R220). -/
def spanHold (p : Part) (c : Chan) : Part :=
  let o := outOf p c
  match o.spanAt with
  | some a => if o.spanStage = 2 ∧ a + rampTicks p + 2 ≤ p.time.tick then setOut p c { o with spanStage := 3 } else p
  | none => p

/-- The span is ready at tick a + R + 3 (R220, R221): the sequence is over, and the park driver holds until the start tick, or a further
sequence follows from that tick (R223). [DEDUCED, assumption 55] -/
def spanDone (p : Part) (c : Chan) : Part :=
  let o := outOf p c
  match o.spanAt with
  | some a =>
    if a + rampTicks p + 3 ≤ p.time.tick then
      match o.spanNext with
      | none => putOutState (setOut p c { o with spanAt := none, spanStage := 0, spanFrom := o.spanTo }) c
      | some next =>
        let b := a + rampTicks p + 3
        takeSpan (setOut p c { o with spanAt := some b, spanStage := 1, spanFrom := o.spanTo, spanTo := next, spanNext := none }) c b
    else p
  | none => p

/-- The active part plans to hand over for a cause that PAIR_AUTO bit i enables, detected in core cycle cyc of the present tick (R339,
Table 14-4); row is the cause's row. -/
def autoHandover (p : Part) (i row cyc : Nat) : Part :=
  if reg p G.pairRole = 1 ∧ regBit p G.pairAuto i ∧ partnerFit p ∧ p.pair.handover = none then
    { p with pair := { p.pair with handover := some (p.time.tick + if cyc ≤ 15 then 1 else 2, row) } }
  else p

/-- What a fault of channel c does to the pair: the shadow becomes unfit, and the active part hands over where the partner's channel
is not parked (R339, R341). -/
def pairFault (p : Part) (c : Chan) (cyc : Nat) : Part :=
  if reg p G.pairState < 2 then p
  else if isShadow p then orReg p G.pairFlags 32
  else if (p.pair.hb.map fun h => bit h.parked c.val).getD true then p
  else autoHandover p 1 2 cyc

/-- Edges of the plans of channel c for ticks after k are cut and counted (R233). -/
def dropEdges (p : Part) (c : Chan) (k : Nat) : Part :=
  let n := (((p.plans.get c).filter fun t => decide (k < t.tick)).map (·.edges.length)).sum
  if n = 0 then p else addReg p (G.mrkCut c) n

/-- A channel fault (R16, R225): cause and count, FAULT in the core cycle of detection, the sequencer stopped, what is planned for later
ticks discarded, and the output parked from the next tick. -/
def channelFault (p : Part) (c : Chan) (cause cyc : Nat) : Part :=
  let k := p.time.tick
  let p := atCyc p cyc
  let p := addReg (orReg p (G.faultCause c) (2 ^ cause)) (G.faultCount c) 1
  let p := pairFault (raiseAt p k (10 * cyc) (0x600 + c.val) 0) c cyc
  let p := dropEdges p c k
  let p := stopChan { p with plans := p.plans.set c.val ((p.plans.get c).filter fun t => decide (t.tick ≤ k)) c.isLt } c (k + 1) 0
  let p := setSeq p c { seqOf p c with act := .parked }
  let p := setOut p c { outOf p c with faultAt := some ((outOf p c).faultAt.getD (k + 1)) }
  let p := setDp p c { dpOf p c with next := [] }
  addOp p c (k + 1) (.set (G.seqState c) 6)

/-- FAULT_CLEAR with TRUE clears every bit (R226). -/
def clearFault (p : Part) (c : Chan) : Part := setReg p (G.faultCause c) 0

/-- The output of channel c takes its owner and its switch at sample 0 of tick k (R217 to R219). [DEDUCED, assumption 54] -/
def outTick (p : Part) (c : Chan) (k : Nat) : Part :=
  let p := takeSpan p c k
  let o := outOf p c
  let dac := dacOwns p c k
  let wanted := switchesWanted p && decide (reg p (G.outEnable c) = 1)
  let o := { o with shut := wanted && (o.shut || vddoLow p) }
  let closed := switchClosed p c && !o.shut
  let p := setOut p c (if dac = o.dac ∧ closed = o.closed then o else { o with dac := dac, closed := closed, changed := k + 1 })
  let p := if closed = o.closed then p else emptyWindow p c
  putOutState p c

/-- Every switch opens at once, without a planned change (R218, R224, R374). -/
def openSwitches (p : Part) : Part :=
  (List.finRange 256).foldl (fun q c =>
    let o := outOf q c
    if o.closed then putOutState (emptyWindow (setOut q c { o with closed := false, changed := q.time.tick + 1 }) c) c else q) p

/-- VDDO has fallen below 1.6 V (R218, R374): every switch opens, and closes again only at a planned change once VDDO has returned, within
10 µs unless the part is reset. The manual gives no time for it. [UNVERIFIED, assumption 104] -/
def vddoFalls (p : Part) : Part :=
  let p := { p with life := { p.life with vddoTo := p.time.tick + 1 + Config.vddoTicks p.time.tick % max 1 (rampTicks p) } }
  settleMarkers <| openSwitches ((List.finRange 256).foldl (fun q c =>
    let o := outOf q c
    if o.closed then setOut q c { o with shut := true } else q) p)

/-- The output park task sees its pulse act (R217): the output is parked from tick k + 3 and the program keeps running. -/
def taskPark (p : Part) (c : Chan) : Part :=
  match latchAt p (chLatch c 18) with
  | none => p
  | some l =>
    if l.pulse.tick + 3 ≤ p.time.tick then
      let p := dropLatch p (chLatch c 18)
      markTick (outTick (setOut p c { outOf p c with task := true }) c p.time.tick) c p.time.tick
    else p

/-- TRIM_STATE after a freeze: 3 until a full rotation of 64 swaps has completed (R228, R229); a forced trim goes on (R230). -/
def endFreeze (p : Part) (c : Chan) : Part :=
  let o := outOf p c
  if o.freezeTo.isNone then p
  else
    let p := setOut p c { o with freezeTo := none, rotLeft := 64 }
    if reg p (G.trimState c) = 2 then p else setReg p (G.trimState c) 3

/-- TRIM_FREEZE_REQ as it is accepted or refused (R229): the length in force is bounded, the group must be armed, and TRIM_STATE 3
refuses. Answers the abort code. -/
def freezeCode (p : Part) (c : Chan) (ms : Nat) : Nat :=
  if reg p (G.trimFreezeMax c) < ms ∨ reg p (G.lgState (groupOf p c)) = 0 ∨ reg p (G.trimState c) = 3 then 0x06 else 0

/-- A freeze request takes effect at a tick boundary k (R229); while a forced trim goes on, the next swap ends it (R230). [DEDUCED, assumption 82] -/
def takeFreeze (p : Part) (c : Chan) (k ms : Nat) : Part :=
  if ms = 0 then endFreeze p c
  else
    let o := outOf p c
    let p := setOut p c { o with freezeTo := some (k + ceilDiv (ms * reg p G.ticksPerSecond) 1000) }
    if reg p (G.trimState c) = 2 then p else setReg p (G.trimState c) 1

/-- One swap of the trim loop on channel c (R228 to R230): a freeze suspends it; a forced trim ends the freeze at this swap. -/
def swapCell (p : Part) (c : Chan) : Part :=
  let o := outOf p c
  let st := reg p (G.trimState c)
  if st = 1 then p
  else
    let left := o.rotLeft - 1
    let p := addReg (setOut p c { o with rotPos := (o.rotPos + 1) % 64, rotLeft := left, freezeTo := none }) (G.trimSwaps c) 1
    if st = 3 ∧ left = 0 then setReg p (G.trimState c) 0 else p

/-- A trim swap on every channel, at sample 0 of every tick whose index is a multiple of 80,000 (R228). -/
def trimSwap (p : Part) : Part :=
  if p.time.tick % 80000 = 0 then (List.finRange 256).foldl swapCell p else p

/-- A new estimate of the worst cell of channel c, in 2^-8 LSB (R230). -/
def trimEstimate (p : Part) (c : Chan) (estimate cyc : Nat) : Part :=
  let p := setReg p (G.trimWorst c) estimate
  let st := reg p (G.trimState c)
  if st = 1 ∧ 128 ≤ estimate then
    let p := setReg (setOut p c { outOf p c with rotLeft := 64 }) (G.trimState c) 2
    raiseNow (orReg (atCyc p cyc) (G.trimFlags c) 1) 0xB86
  else if st = 2 ∧ estimate < 64 then setReg p (G.trimState c) (if (outOf p c).rotLeft = 0 then 0 else 3)
  else p

end Sys2Proof.Machine
end

