-- ==== Sys2Proof/Machine/GroupOps.lean ====
section
/-!
DEFINITION. Load groups (chapter 08): what a start, a stop, a restart and a load strobe do at their tick, and the release of a
reservation.
-/

namespace Sys2Proof.Machine

/-- The earliest tick of a command executed now (R205). -/
def earliestTick (p : Part) : Nat := p.time.tick + 3

/-- The decide stage of tick t, in tick t - 2, has begun (R205, R208). -/
def decideBegun (p : Part) (t : Nat) : Bool := decide (t < p.time.tick + 2 ∨ (t = p.time.tick + 2 ∧ 12 ≤ p.time.cyc))

/-- One frozen value comes into force; a changed load gain empties Watch's window (R241). -/
def takeCommit (p : Part) (e : Nat × Nat) : Part :=
  let was := reg p e.1
  let p := setReg p e.1 e.2
  match keyChan e.1 with
  | some c => if e.1 = G.watchLoadGain c ∧ was ≠ e.2 then emptyWindow p (chan c) else p
  | none => p

/-- Values frozen for ticks up to k come into force (R60, R207). -/
def takeCommits (p : Part) (g : Grp) (k : Nat) : Part :=
  let x := grpOf p g
  let p := setGrp p g { x with commits := x.commits.filter fun e => decide (k < e.1) }
  (x.commits.filter fun e => decide (e.1 ≤ k)).foldl (fun q e => takeCommit q e.2) p

/-- The channels of the reserved set with their charges (R309). -/
def chargesOf (l : List Resv) : List (Nat × Charge) := l.flatMap (·.charges)

/-- The stream queues named by a reserved set. -/
def namedQueues (l : List Resv) : List Nat := ((chargesOf l).flatMap (·.2.queues)).eraseDups

/-- The DRAM charge of a reserved set: r_c of its channels and twice the rate of its queues (R312). -/
def chargeOf (p : Part) (l : List Resv) : Nat :=
  ((chargesOf l).map (·.2.rate)).sum + 2 * ((namedQueues l).map fun q => reg p (G.sqRate q)).sum

/-- The P4 term of R312. -/
def fillTerm (p : Part) : Nat := if reg p G.zfState = 1 then reg p (G.portShare 4) else 0

/-- D_DRAM of a reserved set (R312). -/
def dramDemand (p : Part) (l : List Resv) : Nat :=
  let twin := if reg p G.pairState = 3 ∧ reg p G.pairRole = 1 then ((namedQueues l).map fun q => reg p (G.sqRate q)).sum else 0
  chargeOf p l + twin + reg p (G.portShare 3) + fillTerm p

/-- The sum of SQ_RATE over the enabled queues of a reserved set that a source feeds (R260, R313). -/
def ingressSum (p : Part) (l : List Resv) (source : Nat) : Nat :=
  (((namedQueues l).filter fun q => decide (reg p (G.sqEnable q) = 1 ∧ reg p (G.sqSource q) = source)).map fun q => reg p (G.sqRate q)).sum

/-- The subscriptions of the real-time task inputs of channel c (Table 04-2). [DEDUCED, assumption 20] -/
def subsOf (c : Nat) : List Nat :=
  (List.range 8).map (G.evSub c) ++ (List.range 8).map (G.jmpSub c) ++ [G.gateSubMute c, G.gateSubUnmute c, G.parkSub c, G.pacedSub c]

/-- The event channels to which the channels of a reserved set are subscribed, with the values of a snapshot (R318).
[DEDUCED, assumption 20] -/
def eventChannels (regs : KMap Nat) (l : List Resv) : List Nat :=
  (((chargesOf l).flatMap fun e => (subsOf e.1).map (kget regDefault regs)).filter fun n => decide (n < 256)).eraseDups

/-- EC_LOAD of event channel n in a snapshot (R318). -/
def ecLoadOf (regs : KMap Nat) (n : Nat) : Nat := bits (kget regDefault regs G.ecLoad) (8 * n + 7) (8 * n)

/-- The event load of a reserved set (R318). -/
def eventLoad (regs : KMap Nat) (l : List Resv) : Nat := ((eventChannels regs l).map (ecLoadOf regs)).sum

/-- The totals of the reserved set are published (R312, R313, R318, R322); with no reservation they read 0. -/
def publishTotals (p : Part) (regs : KMap Nat) : Part :=
  let l := p.adm.resv
  let p := setReg p G.admDramReserved (if l.isEmpty then 0 else dramDemand p l)
  let p := setReg p G.admIngressReserved (ingressSum p l 0)
  setReg p G.admEventReserved (eventLoad regs l % 256)

/-- Reservations that satisfy f are released, and ADM_G_DRAM follows (R309, Table 13-7). -/
def releaseResv (p : Part) (f : Resv → Bool) : Part :=
  let gone := p.adm.resv.filter f
  let p := { p with adm := { p.adm with resv := p.adm.resv.filter fun r => !f r } }
  if gone.isEmpty then p
  else
    let p := publishTotals p p.gz.regs
    gone.foldl (fun q r => if r.chan.isSome then q else setReg (setReg q (G.admGDram r.group) 0) (G.admGArmedTick r.group) 0) p

/-- Accepted plan commits of the members of group g that satisfy f are cancelled (R162). -/
def cancelCommits (p : Part) (g : Nat) (f : PlanCommit → Bool) : Part :=
  let gone := p.adm.plans.filter fun k => decide (groupOf p k.chan = g) && f k
  let p := { p with adm := { p.adm with plans := p.adm.plans.filter fun k => !(decide (groupOf p k.chan = g) && f k) } }
  let p := gone.foldl (fun q k => setReg q (G.planState k.chan) 0) p
  releaseResv p fun r => decide (r.group = g) && gone.any fun k => decide (r.chan = some k.chan ∧ r.tick = k.made)

/-- Group g, stopped and armed, is disarmed: its reservation is released and freezes of its members end (R206, R229). -/
def disarm (p : Part) (g : Nat) : Part :=
  if reg p (G.lgState g) = 1 then
    let p := releaseResv (setReg p (G.lgState g) 0) fun r => decide (r.group = g)
    (members p g).foldl (fun q c => endFreeze q (chan c)) p
  else p

/-- The output of every member of group g takes its owner and its switch (R219). -/
def outGroup (p : Part) (g k : Nat) : Part := (members p g).foldl (fun q c => outTick q (chan c) k) p

/-- A member begins: its span is ready (R221), and the parks of its park task, of a relock and of a cleared fault end (R226, R227). -/
def beginMember (p : Part) (c : Chan) : Part :=
  let p := spanDone p c
  let cleared := reg p (G.faultCause c) = 0
  setOut p c { outOf p c with task := false, relock := false, faultAt := if cleared then none else (outOf p c).faultAt }

/-- All members of group g begin at tick k (R141, R205, R219). -/
def beginGroup (p : Part) (g : Grp) (k : Nat) : Part :=
  let p := takeCommits p g k
  let p := setReg (setReg p (G.lgState g) 2) (G.lgStartTick g) k
  let p := raiseAt p k 0 (0xB00 + g.val) 0
  let p := (members p g).foldl (fun q c => beginMember q (chan c)) p
  (members p g).foldl (fun q c => markTick q (chan c) q.time.tick) (outGroup p g p.time.tick)

/-- The group's start tick has come (R141, R205). -/
def startGroup (p : Part) (g : Grp) : Part :=
  let x := grpOf p g
  match x.startAt with
  | some m => if m ≤ p.time.tick then beginGroup (setGrp p g { x with startAt := none }) g m else p
  | none => p

/-- Plan commits and members of group g at its first stopped tick m (R141, R162, R217). -/
def haltMembers (p : Part) (g m : Nat) : Part :=
  let p := cancelCommits p g fun k => decide (m ≤ k.tick)
  (members p g).foldl (fun q c => if (seqOf q (chan c)).act = .off then setReg q (G.seqState c) 0 else q) p

/-- The group's first stopped tick has come (R141, R205). -/
def stopGroup (p : Part) (g : Grp) : Part :=
  let x := grpOf p g
  match x.stopAt with
  | some m =>
    if m ≤ p.time.tick then
      let p := raiseAt p m 0 (0xB10 + g.val) 0
      let p := setGrp p g { x with stopAt := none, stopGen := none, strobes := x.strobes.filter fun t => decide (t < m) }
      outGroup (haltMembers (setReg p (G.lgState g) 1) g m) g p.time.tick
    else p
  | none => p

/-- The group's restart tick has come: it stops and starts at one boundary, with no stopped tick between and so no LG_STOP (R205, R206,
Table 04-1). [DEDUCED, assumption 27] -/
def restartGroup (p : Part) (g : Grp) : Part :=
  let x := grpOf p g
  match x.restartAt with
  | some m =>
    if m ≤ p.time.tick then
      let p := setGrp p g { x with restartAt := none, stopGen := none }
      beginGroup (cancelCommits p g fun k => decide (m ≤ k.tick)) g m
    else p
  | none => p

/-- The strobes of group g that have come and that no stop suppresses (R208, R209). -/
def strobesDue (p : Part) (g : Grp) : List Nat :=
  (grpOf p g).strobes.filter fun t => decide (t ≤ p.time.tick) && ((grpOf p g).stopAt.map fun m => decide (t < m)).getD true

/-- A strobe of group g that was planned for tick m takes effect (R207, R208): the frozen values are in force, and LG_STROBE pulses. -/
def strobeAt (g : Grp) (p : Part) (m : Nat) : Part := addReg (raiseAt (takeCommits p g m) m 0 (0xB20 + g.val) 0) (G.lgStrobes g) 1

/-- The group's load strobe tick has come (R207 to R209): what the plan holds for it takes effect, once for each tick; a stop at the same tick
suppresses it, and on a stopped group there is none. -/
def strobeGroup (p : Part) (g : Grp) : Part :=
  let x := grpOf p g
  let due := strobesDue p g
  let p := setGrp p g { x with strobes := x.strobes.filter fun t => decide (p.time.tick < t) }
  let p := if reg p (G.lgStrobeAt g) ≤ p.time.tick then setReg p (G.lgStrobeAt g) 0 else p
  if due.isEmpty then p else outGroup (due.foldl (strobeAt g) p) g p.time.tick

/-- A write of LG_STROBE_AT (R208). Answers the code. -/
def scheduleStrobe (p : Part) (g : Grp) (t : Nat) : Part × Nat :=
  if t ≠ 0 ∧ decideBegun p t then (p, 0x06) else (setReg p (G.lgStrobeAt g) t, 0)

/-- LG_CMD STOP on a running group (Table 08-6). Answers the code. -/
def commandStop (p : Part) (g : Grp) (at_ : Nat) : Part × Nat :=
  if reg p (G.lgState g) ≠ 2 ∨ (at_ ≠ 0 ∧ decideBegun p at_) then (p, 0x06)
  else
    let t := if at_ = 0 then earliestTick p else at_
    (setReg (setGrp p g { grpOf p g with stopAt := some t, stopGen := none }) (G.lgState g) 4, 0)

/-- LG_CMD DISARM (Table 08-6). Answers the code. -/
def commandDisarm (p : Part) (g : Grp) : Part × Nat :=
  if reg p (G.lgState g) = 1 then (disarm p g, 0) else (p, 0x06)

/-- A start of an armed group with LG_AT at_ (R205, R221, R316): not before its members' spans and entry path are ready. Answers the
code. -/
def scheduleStart (p : Part) (g : Grp) (at_ : Nat) : Part × Nat :=
  let ready := max (spanReady p g) (reg p (G.admGEntryReady g))
  if at_ ≠ 0 ∧ (decideBegun p at_ ∨ at_ < ready) then (p, 0x06)
  else
    let t := if at_ = 0 then max (earliestTick p) ready else at_
    (setReg (setGrp p g { grpOf p g with startAt := some t }) (G.lgState g) 3, 0)

/-- A LOAD_GROUP write moves channel c (R204): both groups must be stopped, and both are disarmed (R206). Answers the code. -/
def moveChannel (p : Part) (c v : Nat) : Part × Nat :=
  let new := v % 16
  if groupRuns p (groupOf p c) ∨ groupRuns p new ∨ groupRuns p (nextGroup p c) then (p, 0x07)
  else
    let p := disarm (disarm (disarm p (groupOf p c)) (nextGroup p c)) new
    ({ p with gz := { p.gz with pend := kput (G.loadGroup c) v p.gz.pend } }, 0)

/-- The plan commit of channel c has reached its tick (R162): its allocation is in force, the old charge is released and the new one
stands alone, and the output follows; a stop or restart at its tick or before cancels it. -/
def planTake (p : Part) (c : Chan) : Part :=
  match p.adm.plans.find? fun k => decide (k.chan = c.val ∧ k.tick ≤ p.time.tick) && !commitCancelled p (grp (groupOf p c)) k.tick with
  | none => p
  | some k =>
    let g := groupOf p c
    let p := takeCommits p (grp g) k.tick
    let p := setReg (setReg (setReg p (G.trvBase c) k.base) (G.trvSize c) k.size) (G.trvEntry c) k.entry
    let mine (r : Resv) : Bool := decide (r.group = g ∧ r.chan = some c.val ∧ r.tick = k.made)
    let new := ((p.adm.resv.find? mine).bind fun r => kfind c.val r.charges)
    let resv := (p.adm.resv.filter fun r => !mine r).map fun r =>
      if r.group = g ∧ r.chan = none then
        { r with charges := match new with
                            | some x => kput c.val x r.charges
                            | none => kdel c.val r.charges }
      else r
    let p := { p with adm := { p.adm with plans := p.adm.plans.filter (fun x => decide (x ≠ k)), resv := resv } }
    let p := publishTotals p p.gz.regs
    let p := setReg p (G.admGDram g) (chargeOf p (resv.filter fun r => decide (r.group = g ∧ r.chan = none)))
    let p := setReg p (G.planState c) 3
    let p := if k.size = 0 then setReg p (G.seqState c) 0 else p
    outTick p c p.time.tick

end Sys2Proof.Machine
end

