-- ==== Sys2Proof/Machine/TimeOps.lean ====
section
/-!
DEFINITION. Time (chapter 02): the Datum of a tick, the Datum states and their measurements, slewing and stepping, alarms, the alignment of
the Graticule, and the loss and return of the sample clock. Times are in units of 2^-16 ns (R25).
-/

namespace Sys2Proof.Machine

/-- 2^-16 ns in one second. -/
def secondUnits : Nat := 10 ^ 9 * 2 ^ 16

/-- A tick index as a signed count: before EPOCH counts are kept modulo 2^64 (R42). -/
def signedTick (k : Nat) : Int := toSigned 64 k

/-- EPOCH in units of 2^-16 ns. -/
def epochTime (p : Part) : Int := (timeValue (reg p G.epoch) : Nat)

/-- The Datum instant of sample s of tick k (R42, R43), rounded down to 2^-16 ns. -/
def datumOf (p : Part) (k s : Nat) : Int :=
  epochTime p + (250 * signedTick k + s) * (1000000 * 65536) / (max 1 (reg p G.fsKhz) : Nat)

/-- One tick in units of the Datum, 2^-16 ns, rounded down. -/
def tickUnits (p : Part) : Nat := 250 * (1000000 * 65536) / max 1 (reg p G.fsKhz)

/-- How far tick instants stand from the Datum in units of 2^-16 ns (R40): TICK_DRIFT, in SCLK mode. -/
def tickDrift (p : Part) : Int := if reg p G.sclkSelect = 1 then toSigned 32 (reg p G.tickDrift) * 65536 / 1000 else 0

/-- The Datum at the present moment (DATUM_NOW): from the tick while the Graticule is aligned, with the drift measured in SCLK mode, else
carried on from tick to tick. [DEDUCED, assumption 48] -/
def datumNow (p : Part) : Nat :=
  if reg p G.clockState = 0 then (datumOf p p.time.tick (10 * p.time.cyc) + tickDrift p).toNat else p.time.datum

/-- The sample index of a Datum instant (R42). -/
def sampleIndex (p : Part) (t : Int) : Int := (t - epochTime p) * (reg p G.fsKhz : Int) / ((1000000 * 65536 : Nat) : Int)

/-- A bit of TIME_FLAGS is set, and its sticky copy with it (Table 02-8). -/
def setTimeFlag (p : Part) (i : Nat) : Part := setRegBit (setRegBit p G.timeFlags i true) G.timeSticky i true

/-- A bit of TIME_FLAGS is cleared. -/
def clearTimeFlag (p : Part) (i : Nat) : Part := setRegBit p G.timeFlags i false

/-- The Datum enters a state (R32): the change is a producer of the fabric; FREE has no estimate. -/
def enterTimeState (p : Part) (s : Nat) : Part :=
  let was := reg p G.timeState
  let p := setReg p G.timeState s
  let p := if s = 0 then setReg p G.timeErrorEst 0xFFFFFFFF else p
  let p := { p with time := { p.time with near := 0, far := 0 } }
  if was = s then p else raiseNow p 0xB81

/-- A duration in units of 2^-16 ns as picoseconds. -/
def toPs (x : Int) : Nat := (|x| * 1000 / 65536).toNat

/-- The Datum steps by d (R37): it is known by itself until the Graticule is aligned again. A lost clock stays lost (R22, R40).
[DEDUCED, assumption 49] -/
def stepDatum (p : Part) (d : Int) : Part :=
  let now := (datumNow p : Int) + d
  let p := clearTimeFlag (clearTimeFlag p 0) 5
  let p := setRegBit (if reg p G.clockState = 2 then p else setReg p G.clockState 1) G.timeSticky 8 true
  { p with time := { p.time with datum := now.toNat, slew := 0, step := none } }

/-- The slew of an offset begins (R35, R36). -/
def slewBy (p : Part) (o : Int) : Part :=
  if o = 0 then p else setTimeFlag { p with time := { p.time with slew := o, slewAt := datumNow p } } 5

/-- What a slew at SLEW_MAX has removed by now, in units of 2^-16 ns (R35). -/
def slewed (p : Part) : Nat := (datumNow p - p.time.slewAt) * reg p G.slewMax / 10 ^ 9

/-- What a slew at SLEW_MAX has still to remove (R35). -/
def slewLeft (p : Part) : Int := if 0 ≤ p.time.slew then max 0 (p.time.slew - slewed p) else min 0 (p.time.slew + slewed p)

/-- An offset of a source that has become valid is removed (R35): slewed, or stepped while every group is stopped; while one runs a
step is left pending and the part slews meanwhile. -/
def removeOffset (p : Part) (o : Int) : Part :=
  if |o| ≤ ((reg p G.stepThreshold * 65536 : Nat) : Int) then slewBy p o
  else if anyRuns p then setTimeFlag (slewBy { p with time := { p.time with step := some o } } o) 0
  else stepDatum p o

/-- The frequency words that the servo has set in the last 64 s (R33). -/
def recentWords (p : Part) : List (Nat × Nat) := p.time.words.filter fun x => decide (datumNow p - x.1 < 64 * secondUnits)

/-- The servo sets the frequency word from a measurement (R26). [DEDUCED, assumption 103] -/
def steer (p : Part) : Part :=
  let w := Config.servoWord p.time.steers
  { p with time := { p.time with steers := p.time.steers + 1, word := w, words := (datumNow p, w) :: recentWords p } }

/-- The average of the frequency words of the last 64 s, which HOLDOVER keeps (R33); with none in that time the word stays.
[DEDUCED, assumption 103] -/
def heldWord (p : Part) : Nat :=
  let l := recentWords p
  if l = [] then p.time.word else (l.map (·.2)).sum / l.length

/-- One measurement of the Datum's offset from its source (R32); the first of a newly selected port is slewed out, never stepped (R29). While
REFIN is lost the Datum stays in HOLDOVER (Table 02-11). In ACQUIRING and LOCKED, TIME_ERROR_EST is the magnitude of the last offset measured.
[DESIGN CHOICE, assumption 93] -/
def measure (p : Part) (o : Int) : Part :=
  if regBit p G.timeFlags 1 then p else
  let st := reg p G.timeState
  let p := steer p
  let p := setReg p G.timeErrorEst (min (toPs o) 0xFFFFFFFE)
  let p := if st = 0 ∨ st = 3 then removeOffset (enterTimeState p 1) o else if p.time.moved then slewBy p o else p
  let p := { p with time := { p.time with moved := false } }
  let st := reg p G.timeState
  let near := if |o| ≤ 32768 then p.time.near + 1 else 0
  let far := if 65536 < |o| then p.time.far + 1 else 0
  let p := { p with time := { p.time with near := near, far := far } }
  if st = 1 ∧ 16 ≤ near then enterTimeState p 2
  else if st = 2 ∧ 16 ≤ far then enterTimeState p 1
  else p

/-- The steering source is lost (R32, R33): from ACQUIRING or LOCKED to HOLDOVER, the error at entry and the Datum then
kept, the frequency word at its average. -/
def loseSource (p : Part) : Part :=
  let st := reg p G.timeState
  if st = 1 ∨ st = 2 then
    enterTimeState { p with time := { p.time with holdErr := reg p G.timeErrorEst, holdAt := datumNow p, word := heldWord p } } 3
  else p

/-- The estimate in HOLDOVER (R33): the error at entry and the stability times the time since; with REFIN lost it uses 10 ppm (Table 02-11).
In ps. -/
def holdEstimate (p : Part) : Nat :=
  let stability := if regBit p G.timeFlags 1 then 10000000 else reg p G.holdoverStability
  p.time.holdErr + stability * (datumNow p - p.time.holdAt) / secondUnits

/-- The estimate so far is kept, and counts on from now with another stability (R33, Table 02-11). -/
def restartEstimate (p : Part) : Part := { p with time := { p.time with holdErr := holdEstimate p, holdAt := datumNow p } }

/-- TIME_ERROR_EST as it reads (R33). -/
def errorEstimate (p : Part) : Nat := if reg p G.timeState = 3 then min (holdEstimate p) 0xFFFFFFFE else reg p G.timeErrorEst

/-- A port is enabled for PTP. [PRESUMED, assumption 47] -/
def ptpEnabled (p : Part) (port : EthPort) : Bool := regBit p G.ptpPorts (if port = .a then 0 else 1)

/-- The master heard on a port. -/
def masterOn (p : Part) (port : EthPort) : Option PtpAnnounce := if port = .a then p.time.masterA else p.time.masterB

/-- clockClass that a master port advertises (R30). -/
def clockClass (p : Part) : Nat :=
  if reg p G.timeState = 2 ∧ reg p G.timeSource = 2 then 6 else if reg p G.timeState = 3 then 7 else 248

/-- The fields by which the best master clock algorithm compares masters, the better one first in the order of the list (IEEE 1588-2019).
[PRESUMED, assumption 47] -/
def rankOf (r : PtpAnnounce) : List Nat :=
  [r.priority1, r.clockClass, r.accuracy, r.variance, r.priority2, r.gmIdentity, r.stepsRemoved]

/-- The rank of the part itself as a master (R30, Table 02-3). [PRESUMED, assumption 47] -/
def ownRank (p : Part) : List Nat :=
  [reg p G.ptpPriority1, clockClass p, 0xFE, 0xFFFF, reg p G.ptpPriority2, reg p G.serial, 0]

/-- The part is master on a port (R30): a master-capable port, and with TIME_SOURCE 1 only where the algorithm elects it.
[PRESUMED, assumption 47] -/
def masterAt (p : Part) (port : EthPort) : Bool :=
  decide (reg p G.ptpRole = 1) && ptpEnabled p port &&
    (decide (reg p G.timeSource ≠ 1) || ((masterOn p port).map fun r => decide (ownRank p < rankOf r)).getD true)

/-- The master that a port may take time from: not where the part is master itself (R30). -/
def heardOn (p : Part) (port : EthPort) : Option PtpAnnounce :=
  if ptpEnabled p port && !masterAt p port then masterOn p port else none

/-- The port whose master the best master clock algorithm ranks higher, a tie selecting port A (R29): 0 none, 1 A, 2 B.
[PRESUMED, assumption 47] -/
def selectPort (p : Part) : Nat :=
  match heardOn p .a, heardOn p .b with
  | none, none => 0
  | some _, none => 1
  | none, some _ => 2
  | some x, some y => if rankOf y < rankOf x then 2 else 1

/-- The PTP entries follow the selection (Table 02-3); a change from one port to the other leaves the new master's offset to be slewed out
(R29). -/
def putSelection (p : Part) : Part :=
  let s := selectPort p
  let was := reg p G.ptpSelected
  let p := if was ≠ 0 ∧ s ≠ 0 ∧ s ≠ was then { p with time := { p.time with moved := true } } else p
  let m := if s = 1 then p.time.masterA else if s = 2 then p.time.masterB else none
  let p := setReg p G.ptpSelected s
  let p := setReg p G.ptpState (if s = 0 then 4 else 9)
  match m with
  | none => p
  | some x =>
    let p := setReg (setReg p G.ptpGmIdentity (x.gmIdentity % 2 ^ 64)) G.ptpStepsRemoved (x.stepsRemoved % 2 ^ 16)
    if reg p G.timeSource = 1 then setReg p G.utcOffset (ofSigned 32 x.utcOffset) else p

/-- Alarm a is planned afresh (R52): its next firing is the earliest instant whose capture tick is later than tick k; a one-shot whose
capture tick is not later is marked MISSED. [DESIGN CHOICE, assumption 99] -/
def planAlarm (p : Part) (a : Nat) (k : Int) : Part :=
  let n := sampleIndex p (timeValue (reg p (G.alarmTime a)) : Nat)
  let per : Int := reg p (G.alarmPeriod a)
  let first := 250 * (k + 1)
  let keep (m : KMap Int) : Part := { p with time := { p.time with alarms := m } }
  if per = 0 then
    if first ≤ n then keep (kput a n p.time.alarms)
    else setRegBit (setRegBit (keep (kdel a p.time.alarms)) (G.alarmStatus a) 2 true) G.timeSticky 9 true
  else if first ≤ n then keep (kput a n p.time.alarms)
  else keep (kput a (n + per * ((first - n + per - 1) / per)) p.time.alarms)

/-- Alarm a is armed at tick k: its count restarts (R52). -/
def armAlarm (p : Part) (a k : Nat) : Part :=
  planAlarm (setReg (setReg p (G.alarmCount a) 0) (G.alarmStatus a) 1) a (signedTick k)

/-- Alarm a is disarmed. -/
def disarmAlarm (p : Part) (a : Nat) : Part :=
  setRegBit { p with time := { p.time with alarms := kdel a p.time.alarms } } (G.alarmStatus a) 0 false

/-- Alarm a fires in the present tick if its instant lies in it (R52). A one-shot that has fired stays ARMED, with no firing planned.
[DESIGN CHOICE, assumption 98] -/
def fireAlarm (p : Part) (a : Nat) : Part :=
  match kfind a p.time.alarms with
  | none => p
  | some n =>
    if n / 250 = signedTick p.time.tick ∧ reg p G.clockState = 0 then
      let p := raiseAt p p.time.tick (n % 250).toNat (0xB30 + a) 0
      let p := setRegBit (addReg p (G.alarmCount a) 1) (G.alarmStatus a) 1 true
      let per : Int := reg p (G.alarmPeriod a)
      { p with time := { p.time with alarms := if per = 0 then kdel a p.time.alarms else kput a (n + per) p.time.alarms } }
    else p

/-- A realignment begins (R44): the Datum is carried by itself until it completes. A lost clock stays lost until it returns (R22, R40). -/
def beginAlign (p : Part) : Part :=
  let q := { p with time := { p.time with datum := datumNow p } }
  if reg p G.clockState = 2 then q else setReg q G.clockState 1

/-- The RETRACT pulses that a loss of the clock has delayed assert in core cycle 0 of tick k, stamped in the tick of the loss, and their leads
resolve (R22). [DEDUCED, assumption 28] -/
def releaseRetracts (p : Part) (k : Nat) : Part :=
  (List.finRange 256).foldl (fun q c =>
    let s := seqOf q c
    if s.retr.isEmpty then q
    else
      let l := s.retr.map fun e => (⟨25 * k, ⟨e.1 / 250, 0, 0x300 + c.val, e.2⟩⟩ : Producer)
      let q := addReg q (G.retractCount c) s.retr.length
      { setSeq q c { s with retr := [] } with fab := { q.fab with producers := q.fab.producers ++ l } }) p

/-- A whole Datum second at which the Graticule may be aligned (R44): it comes within 1 s plus 10 ms of the Datum as it stands. -/
def alignsAt (p : Part) (second : Nat) : Bool :=
  decide (p.time.datum ≤ second * secondUnits ∧ second * secondUnits * 100 ≤ p.time.datum * 100 + 101 * secondUnits)

/-- The Graticule is aligned at a whole Datum second (R44): k and n are loaded, delayed RETRACT pulses assert in core cycle 0, alarms
whose capture tick fell before are missed or skipped (R37), and timed firings for ticks before it are discarded (R111). What the pipeline
and the resynchronizers still hold under the old numbers is dropped. [DESIGN CHOICE, assumption 94] -/
def alignGraticule (p : Part) (second : Nat) : Part :=
  if reg p G.clockState = 1 ∧ p.time.locked ∧ alignsAt p second then
    let p := judgePads p (nOf (p.time.tick + 1) 0)
    let k := (((second : Int) - (reg p G.epoch >>> 48 : Nat)) * (reg p G.ticksPerSecond : Int)) % ((2 ^ 64 : Nat) : Int)
    let k := k.toNat
    let p := setReg p G.clockState 0
    let p := { p with time := { p.time with tick := k, cyc := 0, datum := second * secondUnits, opened := 0, closed := 0 },
                      plans := Vector.replicate 256 [], seqs := p.seqs.map fun (s : Seq) => { s with freed := [] } }
    let waiting := p.fab.delayed.map fun q => (⟨25 * k, q⟩ : Producer)
    let p := { p with fab := { p.fab with delayed := [], producers := waiting, arrivals := [], lastAt := [], captured := [] } }
    let p := raisePins (releaseRetracts { p with fab := { p.fab with pinsLow := false } } k) (250 * k)
    let p := (p.time.alarms.map (·.1)).foldl (fun q a => planAlarm q a (signedTick k - 1)) p
    discardFires p fun t => decide (t < k)
  else p

/-- Values frozen for a group and not yet in force are pending again, where none was written since; those of plan commits are not (R22, R60). -/
def unfreeze (p : Part) (g : Grp) : Part :=
  let plan (e : Nat × Nat × Nat) : Bool := p.adm.plans.any fun k =>
    decide (k.tick = e.1) && [G.trvBase k.chan, G.trvSize k.chan, G.trvEntry k.chan].contains e.2.1
  let back := (grpOf p g).commits.filter fun e => !plan e
  { p with gz := { p.gz with pend := back.foldl (fun m e => if (kfind e.2.1 m).isSome then m else kput e.2.1 e.2.2 m) p.gz.pend } }

/-- Every load group stops in the present tick, stopped and disarmed, its reservation is released, and leads are retracted in this tick; the
programs read SEQ_STATE 6 (R22, Table 07-3). -/
def haltGroups (p : Part) : Part :=
  let k := p.time.tick
  let p := (List.finRange 256).foldl (fun q c =>
    let q := endFreeze (dropEdges q c k) c
    if (seqOf q c).act = .off then q
    else
      let q := stopChan { q with plans := q.plans.set c.val [] c.isLt } c k 0
      let s := seqOf q c
      setReg (setSeq q c { s with act := .parked, retr := s.retr.map fun e => (250 * k, e.2) }) (G.seqState c) 6) p
  let p := (List.finRange 16).foldl (fun q (g : Grp) =>
    let st := reg q (G.lgState g)
    let q := if 2 ≤ st then { q with fab := { q.fab with delayed := q.fab.delayed ++ [⟨k, 0, 0xB10 + g.val, 0⟩] } } else q
    setReg (setGrp (unfreeze q g) g GroupSt.idle) (G.lgState g) 0) p
  let p := p.adm.plans.foldl (fun q x => setReg q (G.planState x.chan) 0) p
  let p := releaseResv { p with adm := { p.adm with plans := [] } } fun _ => true
  { p with plans := Vector.replicate 256 [] }

/-- The sample clock is lost (R22, R40, R224): outputs park, markers go low, groups stop and their plans are released.
[DEDUCED, assumption 28] -/
def loseClock (p : Part) (cyc : Nat) : Part :=
  let p := beginAlign (atCyc p cyc)
  let p := setReg { p with time := { p.time with locked := false } } G.clockState 2
  let p := lowerPins (haltGroups p) (nOf p.time.tick (10 * cyc))
  (List.finRange 256).foldl (fun q c =>
    let o := outOf q c
    let closed := switchClosed q c && !o.shut
    let q := [0, 1].foldl (fun q l => showLine q c l (nOf q.time.tick (10 * q.time.cyc)) false) (cutEdges q c 0)
    let o := { o with lines := 0 }
    let q := setDp q c { dpOf q c with marks := 0, emit := [], next := [] }
    let q := setReg (setOut q c { o with dac := false, closed := closed, changed := q.time.tick + 1 }) (G.mrkLevel c) 0
    putOutState q c) p

/-- The sample clock returns (R22): alignment begins, and the Watch windows are emptied (R241). -/
def returnClock (p : Part) : Part :=
  if reg p G.clockState = 2 then
    let p := setReg { p with time := { p.time with locked := true } } G.clockState 1
    (List.finRange 256).foldl (fun q c => putOutState (emptyWindow q c) c) p
  else p

/-- An accepted FS_KHZ relocks the sample clock (R39): every output parks, and the Graticule is realigned afterwards. -/
def relock (p : Part) (khz : Nat) : Part :=
  let p := beginAlign p
  let p := setReg (setReg p G.fsKhz khz) G.ticksPerSecond (4 * khz)
  let p := { p with time := { p.time with locked := false } }
  (List.finRange 256).foldl (fun q c => putOutState (setOut q c { outOf q c with relock := true, dac := false }) c) p

/-- The trim of a SYNC follower is at most half a sample (R48), in ps. -/
def syncWindow (p : Part) : Int := 500000000 / ((max 1 (reg p G.fsKhz) : Nat) : Int)

/-- A follower measures a SYNC_IN edge against its own sample clock, which its trim moves from the phase of its Datum (R47, R48): beyond the
window about that phase it is ignored. A repeater drives the pulse on, 3.2 ns later. -/
def syncEdge (p : Part) (phase : Int) : Part :=
  let mode := reg p G.syncMode
  if mode < 2 then p
  else
    let v := phase - toSigned 32 (reg p G.syncInDelay)
    let p := if mode = 3 then say p (.syncOut 8 (phase + 3200)) else p
    if syncWindow p < |p.time.syncTrim + v| then setTimeFlag { p with time := { p.time with syncTrim := 0, syncMiss := 0 } } 4
    else
      clearTimeFlag { p with time := { p.time with syncTrim := p.time.syncTrim + clampInt (-10) 10 v, syncMiss := 0 } } 4

/-- A SYNC_IN edge is missing (R48). -/
def syncMissing (p : Part) : Part :=
  if reg p G.syncMode < 2 then p
  else
    let n := p.time.syncMiss + 1
    let p := { p with time := { p.time with syncMiss := n } }
    if 3 ≤ n then setTimeFlag { p with time := { p.time with syncTrim := 0 } } 4 else p

/-- PPS is lost after three ignored or three missing edges in a row (R31); the next edge is then the first again.
[DESIGN CHOICE, assumption 95] -/
def losePps (p : Part) : Part := loseSource (setTimeFlag { p with time := { p.time with ppsSeen := false } } 2)

/-- A PPS_IN edge (R31): err is its distance from a whole second of the Datum, before PPS_IN_DELAY, and dev its distance from the instant that
REFIN predicts from the last edge. The seconds value moves on for an ignored edge too. [DESIGN CHOICE, assumption 95] -/
def ppsEdge (p : Part) (err dev : Int) : Part :=
  if reg p G.timeSource ≠ 2 then p
  else
    match p.time.ppsNext with
    | none => p
    | some s =>
      let e := err - toSigned 32 (reg p G.ppsInDelay) * 65536 / 1000
      if p.time.ppsSeen && decide (65536000 < |dev|) then
        let n := p.time.ppsOff + 1
        let p := { p with time := { p.time with ppsOff := n, ppsNext := some ((s + 1) % 2 ^ 48) } }
        if 3 ≤ n then losePps p else p
      else
        let near := (2 * datumNow p + secondUnits) / (2 * secondUnits)
        let p := { p with time := { p.time with ppsSeen := true, ppsOff := 0, ppsMiss := 0, ppsNext := some ((s + 1) % 2 ^ 48) } }
        measure (clearTimeFlag p 2) (((s : Int) - near) * secondUnits - e)

/-- A PPS_IN edge is missing (R31): the seconds value moves on without it. [DESIGN CHOICE, assumption 95] -/
def ppsMissing (p : Part) : Part :=
  if reg p G.timeSource ≠ 2 then p
  else
    let n := p.time.ppsMiss + 1
    let p := { p with time := { p.time with ppsMiss := n, ppsNext := p.time.ppsNext.map fun s => (s + 1) % 2 ^ 48 } }
    if 3 ≤ n then losePps p else p

/-- TIME_SOURCE takes a value (R32, Table 02-1, Table 02-4): free-run is FREE; with another source the old one is lost until the new one
delivers. [DEDUCED, assumption 49] -/
def takeTimeSource (p : Part) (v : Nat) : Part :=
  let was := reg p G.timeSource
  let p := setReg p G.timeSource v
  if v = was then p
  else
    let p := { p with time := { p.time with ppsOff := 0, ppsMiss := 0, ppsSeen := false, moved := false } }
    if v = 0 then enterTimeState p 0 else loseSource p

/-- SCLK_SELECT takes a value (R40): the comparison of SCLK is of SCLK mode only. -/
def takeSclkSelect (p : Part) (v : Nat) : Part :=
  let p := setReg p G.sclkSelect v
  if v = 0 then setReg (clearTimeFlag p 3) G.tickDrift 0 else p

/-- SYNC_MODE takes a value (R47, R48): a part that is no follower keeps its own phase. -/
def takeSyncMode (p : Part) (v : Nat) : Part :=
  let p := setReg p G.syncMode v
  if v < 2 then clearTimeFlag { p with time := { p.time with syncTrim := 0, syncMiss := 0 } } 4 else p

end Sys2Proof.Machine
end

