-- ==== Sys2Proof/Machine/PairOps.lean ====
section
/-!
DEFINITION. The redundant pair (chapter 14): what is mirrored, the digests, fitness, the drive interlock, takeover and joining, and the partner
table that records a twin beside the others (R89).
-/

namespace Sys2Proof.Machine

/-- An entry of this index and subindex is mirrored (Table 14-3). -/
def mirroredAt (i s : Nat) : Bool :=
  decide (i = 0x10E4 ∨ i = 0x10E8 ∨ i = 0x1220 ∨ (0x1230 ≤ i ∧ i < 0x1240) ∨ (0x1300 ≤ i ∧ i < 0x1500) ∨ (i = 0x1600 ∧ s = 0x20) ∨
    (i = 0x1700 ∧ s = 0x09) ∨ (0x1A00 ≤ i ∧ i < 0x1A10) ∨ (0x1B00 ≤ i ∧ i < 0x1B40) ∨
    (0x2000 ≤ i ∧ i < 0x2100 ∧ s ≠ 0x08 ∧ s ≠ 0x0A ∧ s ≠ 0x0C ∧ s ≠ 0x0D) ∨ (0x2100 ≤ i ∧ i < 0x2400) ∨
    (0x2400 ≤ i ∧ i < 0x2500 ∧ 3 < s) ∨ (0x2600 ≤ i ∧ i < 0x2700) ∨ (0x4000 ≤ i ∧ i < 0xC000))

/-- A write of the entry e at key k is mirrored: a sticky flag is part-local (Table 14-3). -/
def mirrored (e : Entry) (k : Nat) : Bool := mirroredAt (k / 256) (k % 256) && decide (e.kind ≠ .w1c)

/-- The part counts as paired (R329). -/
def paired (p : Part) : Bool := decide (reg p G.pairState = 2 ∨ reg p G.pairState = 3)

/-- A mirrored write on this part is forwarded: it is the active part of a pair (R332). -/
def forwards (p : Part) : Bool := paired p && decide (reg p G.pairRole = 1)

/-- A mirrored write is refused with 0x0E: on a shadow, and on an active part from the release cycle of a handover on (R333, Table 14-5). -/
def refusesMirrored (p : Part) : Bool := isShadow p || p.pair.released

/-- A mirrored write accepted by the active part leaves in class 3 and is in force from the next tick (R332). [DEDUCED, assumption 58] -/
def forward (p : Part) (k v : Nat) (path : Path) (op : Nat) : Part :=
  say { p with pair := { p.pair with toSend := p.pair.toSend ++ [⟨p.time.tick + 1, k, v, path, op⟩] } } (.mirrorWrite (k / 256) (k % 256) v)

/-- The pending value of key k, one frozen for a tick not yet come among them, or the value in force (R62). -/
def pendingValue (p : Part) (k : Nat) : Nat :=
  match kfind k p.gz.pend with
  | some v => v
  | none =>
    match kfind k p.gz.bound with
    | some v => v
    | none => planned p k

/-- The keys of the entries of an index: one for each member of an array (R57). -/
def keysAt (i : Nat) : List (Nat × Entry) :=
  (entriesAt i).flatMap fun e => (List.range ((e.subEnd - e.sub) / max 1 e.step + 1)).map fun j => (gkey i (e.sub + j * e.step), e)

/-- The bytes of a value, least significant first, as the configuration digest takes them (assumption 13). -/
def valueBytes (e : Entry) (v : Nat) : List Byte := toBytesLE (ceilDiv (tyWidth e.ty) 8) v

/-- The bytes of the stores of a part that the configuration digest covers besides its registers: edges, descriptors and Traverse steps,
in force and pending. -/
def storeBytes (p : Part) : List Byte × List Byte × List Byte :=
  let both {α : Type} (m n : KMap α) (d : α) (k : Nat) : α × α := (kget (fun _ => d) m k, (kfind k n).getD (kget (fun _ => d) m k))
  ((List.range 65536).flatMap fun i => let x := both p.mem.edges p.mem.newEdge 0 i; toBytesLE 4 x.1 ++ toBytesLE 4 x.2,
   (List.range 16384).flatMap fun d => let x := both p.mem.descs p.mem.newDesc 0 d; toBytesLE 16 x.1 ++ toBytesLE 16 x.2,
   (List.range 262144).flatMap fun n => toBytesLE 16 (kget (fun _ => 0) p.mem.trav n))

/-- The bytes of the mirrored entries of an index that hold a value, in force and pending. -/
def indexBytes (p : Part) (i : Nat) : List Byte :=
  (keysAt i).flatMap fun x =>
    if mirrored x.2 x.1 && decide (x.2.acc = .rw ∧ x.2.kind ≠ .cmd) then valueBytes x.2 (reg p x.1) ++ valueBytes x.2 (pendingValue p x.1) else []

/-- CONFIG_DIGEST: SHA-256 over the values of every mirrored entry, in force and pending, in ascending order (R343).
[DESIGN CHOICE, assumption 13] -/
def configDigest (p : Part) : Nat :=
  let s := storeBytes p
  Config.sha256 (s.1 ++ (List.range (0x4000 - 0x1200)).flatMap (fun j => indexBytes p (0x1200 + j)) ++ s.2.1 ++ s.2.2)

/-- A source that a channel's producers use, with the channel (Table 04-1). -/
def producerChan (src : Nat) : Option Nat :=
  let h := src / 256
  if (1 ≤ h ∧ h ≤ 6) ∨ h = 8 ∨ h = 9 ∨ (0xC ≤ h ∧ h ≤ 0xE) then some (src % 256) else none

/-- The marker levels of channel c at each sample of tick k, as its edges place them (R123, R233). -/
def markerLevels (p : Part) (c : Chan) (k : Nat) : List Nat :=
  let d := dpOf p c
  let delay (e : EdgeAt) := if e.line = 0 then reg p (G.mrkDelayA c) else reg p (G.mrkDelayB c)
  let due := (d.edges.map fun e => (e.n + delay e, e)).foldl (fun l x => insertEdge x l) []
  (List.range 250).map fun s =>
    (due.filter fun x => decide (x.1 ≤ 250 * k + s)).foldl (fun m x =>
      let was := bit m x.2.line
      putBits m x.2.line 1 (ofBool (if x.2.kind = 0 then false else if x.2.kind = 1 then true else !was))) d.marks

/-- The CRC-32C of channel c for tick k (R335): its codes, marker levels, the sequencer's place and its producer pulses, each number least
significant byte first (assumption 13). -/
def channelDigest (p : Part) (c : Chan) (k : Nat) (codes : List Int) : Nat :=
  let pulses := (planOf p c k).pulses.filter fun q => decide (producerChan q.src = some c.val)
  crc32c 0 (codes.flatMap (fun z => toBytesLE 2 (ofSigned 16 z)) ++ (markerLevels p c k).flatMap (toBytesLE 1) ++
    toBytesLE 4 (reg p (G.seqPc c)) ++ toBytesLE 1 (reg p (G.seqLoopDepth c)) ++ toBytesLE 1 (reg p (G.seqCallDepth c)) ++
    (List.range 8).flatMap (fun i => toBytesLE 8 (reg p (G.loopRemain c i))) ++
    pulses.flatMap fun q => toBytesLE 8 q.tick ++ toBytesLE 1 q.off ++ toBytesLE 2 q.src)

/-- One byte into a CRC-64/ECMA-182 register. -/
def crc64Byte (r : Nat) (b : Byte) : Nat :=
  (List.range 8).foldl (fun r _ => if bit r 63 then (2 * r) % 2 ^ 64 ^^^ 0x42F0E1EBA9EA3693 else (2 * r) % 2 ^ 64) (r ^^^ b.toNat * 2 ^ 56)

/-- CRC-64/ECMA-182 of bytes. -/
def crc64 (l : List Byte) : Nat := l.foldl crc64Byte 0

/-- A channel is parked by a fault (R225). -/
def faultParked (p : Part) (c : Nat) : Bool := decide (reg p (G.faultCause c) ≠ 0)

/-- The channels parked by a fault, as a mask. -/
def parkedMask (p : Part) : Nat := (List.range 256).foldl (fun a c => a + ofBool (faultParked p c) * 2 ^ c) 0

/-- The ring of queue q is incomplete on this pair: a join has not copied it up to W0, or SQ_PLAYPOS has not passed a line that the copy marked
missing (R343). -/
def ringIncomplete (p : Part) (q : Nat) : Bool :=
  decide (playPos p q < (kfind q p.pair.ringTo).getD 0 ∨ playPos p q < (kfind q p.pair.missing).getD 0)

/-- The channels whose program names a queue with an incomplete ring (R343). [DEDUCED, assumption 61] -/
def ringReaders (p : Part) : List Nat :=
  if p.pair.ringTo = [] ∧ p.pair.missing = [] then []
  else ((chargesOf p.adm.resv).filter fun e => e.2.queues.any (ringIncomplete p)).map (·.1)

/-- The channels the digest includes (R335): neither part has it parked, and no incomplete ring leaves it out. [DEDUCED, assumption 61] -/
def digestMask (p : Part) : Nat :=
  let theirs := (p.pair.hb.map (·.parked)).getD 0
  let out := ringReaders p
  (List.range 256).foldl (fun a c => a + ofBool (!faultParked p c && !bit theirs c && !out.contains c) * 2 ^ c) 0

/-- The digest of tick k is formed and kept while it can be compared (R335). -/
def keepDigest (p : Part) (k : Nat) : Part :=
  if reg p G.pairState = 3 ∨ (reg p G.pairState = 2 ∧ 5 ≤ reg p G.resyncStep) then
    let m := digestMask p
    let crcs := (List.finRange 256).flatMap fun c =>
      if bit m c.val then toBytesLE 4 (channelDigest p c k (dpOf p c).emit) else []
    let d := crc64 crcs * 2 ^ 64 + k % 2 ^ 64
    { p with pair := { p.pair with digests := ((k, d, m) :: p.pair.digests).take 4 } }
  else p

/-- The shadow is fit (R336). -/
def fitNow (p : Part) : Bool :=
  decide (reg p G.pairState = 3 ∧ reg p G.digestWindow ≤ reg p G.digestMatched ∧ reg p G.clockState = 0 ∧ reg p G.memState = 2) &&
    decide (parkedMask p &&& ((p.pair.hb.map (·.parked)).getD 0) = parkedMask p)

/-- SHADOW_FIT: its own fitness on a shadow, the reported one on the active part (Table 14-10). -/
def shadowFit (p : Part) : Bool := if isShadow p then fitNow p else (p.pair.hb.map (·.fit)).getD false

/-- The heartbeat of the present tick (Table 14-2, R330). -/
def heartbeatOf (p : Part) : Heartbeat :=
  let d := (p.pair.digests.find? fun e => decide (e.1 = p.time.tick)).getD (p.time.tick, 0, digestMask p)
  ⟨p.time.tick, reg p G.pairState, if isShadow p then fitNow p else reg p G.pairState = 3 && decide (reg p G.clockState = 0), d.2.1, d.2.2, parkedMask p⟩

/-- HEALTH_N is released (R327). -/
def healthReleased (p : Part) : Bool :=
  p.life.held || !p.life.powered || vddoLow p || decide (reg p G.clockState = 2 ∨ reg p G.memState = 3 ∨ reg p G.pairState = 5) || decide (parkedMask p ≠ 0)

/-- DRIVE_STATE (Table 14-10). -/
def driveState (p : Part) : Nat := ofBool p.pair.driveOut + 2 * ofBool p.pair.driveIn + 4 * ofBool (healthReleased p)

/-- DRIVE_OUT takes a level; the tick since which both drives are asserted is kept (R338). -/
def setDriveOut (p : Part) (b : Bool) : Part :=
  { p with pair := { p.pair with driveOut := b,
                                 both := if b && p.pair.driveIn then (if p.pair.both = 0 then p.time.tick + 1 else p.pair.both) else 0 } }

/-- DRIVE_IN takes a level (R337). -/
def setDriveIn (p : Part) (b : Bool) : Part :=
  { p with pair := { p.pair with driveIn := b,
                                 both := if b && p.pair.driveOut then (if p.pair.both = 0 then p.time.tick + 1 else p.pair.both) else 0 } }

/-- A shadow that may take the drive sees DRIVE_IN deasserted (R339): for a planned handover, or on its own where PAIR_AUTO bit 0 allows
it; it asserts DRIVE_OUT, and in the second case is active from then on and takes over at the next tick.
[UNVERIFIED, assumption 12; DEDUCED, assumption 59] -/
def seeRelease (p : Part) : Part :=
  if isShadow p ∧ fitNow p then
    match p.pair.handover with
    | some _ => setDriveOut p true
    | none =>
      if regBit p G.pairAuto 0 then
        let row := if Config.releasedByReset p.time.tick then 5 else 4
        setDriveOut { p with pair := { p.pair with handover := some (p.time.tick + 1, row) } } true
      else p
  else p

/-- DRIVE_IN changes (R337): it acts on the switches at the next sample 0, and without a sample clock it opens them at once. -/
def driveIn (p : Part) (b : Bool) : Part :=
  let p := setDriveIn p b
  if b then
    if reg p G.clockState = 2 then openSwitches { p with pair := { p.pair with inActs := true } } else p
  else seeRelease p

/-- PAIR_ROLE takes a value at sample n: the EVIO output pins and the markers are at high impedance on a shadow and driven
otherwise (Table 04-4, Table 09-6). -/
def setRole (p : Part) (role n : Nat) : Part :=
  let was := isShadow p
  let p := settleMarkers (setReg p G.pairRole role)
  if was = isShadow p then p
  else if was then raisePins (say p (.evioPins true)) n
  else say p (.evioPins false)

/-- The queues of a part that becomes active take up fetching from their mirrored positions; those of a shadow are fed by the link
(R269, R340). [DEDUCED, assumption 60] -/
def takeQueues (p : Part) (active : Bool) : Part :=
  (List.range 64).foldl (fun q i =>
    if reg q (G.sqEnable i) = 0 then q
    else if active then
      let q := setReg (setReg (setReg q (G.sqState i) 1) (G.sqDescHead i) 0) (G.sqDescDone i) 0
      { q with strm := { q.strm with tail := kset (fun _ => 0) q.strm.tail i 0, descs := q.strm.descs.filter fun e => decide (e.1 ≠ i) } }
    else setReg q (G.sqState i) 5) p

/-- At sample 0 of a tick DRIVE_IN acts, and an unanswered FORCE is answered (R337, R338). -/
def driveTick (p : Part) : Part :=
  let p := { p with pair := { p.pair with inActs := p.pair.driveIn } }
  if p.pair.force ∧ !p.pair.driveIn then
    let p := { p with pair := { p.pair with force := false } }
    let p := if reg p G.pairState = 5 then setReg p G.pairState 1 else p
    if reg p G.pairRole = 2 then takeQueues (setRole (raiseAt p p.time.tick 0 0xB83 0) 1 (nOf p.time.tick 0)) true else p
  else p

/-- Both drives were asserted for a whole tick (R338). -/
def contend (p : Part) : Part :=
  if p.pair.both ≠ 0 ∧ p.pair.both ≤ p.time.tick ∧ p.pair.driveOut ∧ p.pair.driveIn then
    let p := openSwitches (orReg { p with pair := { p.pair with inActs := true } } G.pairFlags 8)
    if reg p G.pairPriority = 2 then setReg (setDriveOut { p with pair := { p.pair with force := false } } false) G.pairState 5 else p
  else p

/-- PAIR_CMD FORCE (R338). Answers the code. [DEDUCED, assumption 59] -/
def forceDrive (p : Part) : Part × Nat :=
  let st := reg p G.pairState
  if isShadow p ∨ st = 1 ∨ st = 5 then (setDriveOut { p with pair := { p.pair with force := true } } true, 0) else (p, 0x06)

/-- LAST_TAKEOVER takes its record (Table 14-10). -/
def recordTakeover (p : Part) (t row : Nat) (aborted : Bool) : Part :=
  setReg p G.lastTakeover (t % 2 ^ 64 + row * 2 ^ 64 + ofBool aborted * 2 ^ 72)

/-- PAIR_CMD HANDOVER (R339, Table 14-4), on the active part and as it is in force on the shadow. Answers the code. -/
def planHandover (p : Part) (local_ : Bool) : Part × Nat :=
  let e := if local_ then p.time.tick + 1 else p.time.tick
  let at_ := reg p G.pairAt
  if local_ ∧ (reg p G.pairState ≠ 3 ∨ reg p G.pairRole ≠ 1 ∨ !partnerFit p ∨ p.pair.handover.isSome) then (p, 0x06)
  else if at_ ≠ 0 ∧ at_ < e + 3 then (p, 0x06)
  else
    let t := if at_ = 0 then e + 3 else at_
    ({ p with pair := { p.pair with handover := some (t, 1) } }, 0)

/-- The active part releases DRIVE_OUT in tick T - 1 (R339), or ends the handover where the shadow is no longer fit or does not follow. -/
def releaseDrive (p : Part) (followed : Bool) : Part :=
  match p.pair.handover with
  | none => p
  | some (t, row) =>
    if reg p G.pairRole ≠ 1 ∨ p.time.tick + 1 ≠ t then p
    else if partnerFit p ∧ followed then
      let p := setDriveIn (setDriveOut p false) true
      { p with pair := { p.pair with released := true } }
    else recordTakeover { p with pair := { p.pair with handover := none } } t row true

/-- The boundary of a takeover has come (R339, R340): the switches change over and the roles swap. -/
def takeOver (p : Part) : Part :=
  match p.pair.handover with
  | none => p
  | some (t, row) =>
    let gives := p.pair.released
    let takes := !gives && p.pair.driveOut && !p.pair.driveIn && (isShadow p || decide (4 ≤ row))
    if p.time.tick < t ∨ !(gives || takes) then p
    else
      let p := { p with pair := { p.pair with handover := none, released := false, inActs := gives } }
      let p := setRole p (if gives then 2 else 1) (nOf t 0)
      let p := recordTakeover (addReg (raiseAt p t 0 0xB83 0) G.takeovers 1) t row false
      let p := takeQueues p (!gives)
      (List.finRange 256).foldl (fun q c => outTick q c q.time.tick) p

/-- Digest of the present tick against the partner's heartbeat (R335). -/
def compareDigest (p : Part) : Part :=
  match p.pair.hb, p.pair.digests.find? fun e => decide (e.1 = p.time.tick) with
  | some h, some d =>
    if h.tick ≠ p.time.tick then p
    else if h.digest = d.2.1 ∧ h.mask = d.2.2 then addReg p G.digestMatched 1
    else setReg (orReg (raiseAt p p.time.tick 50 0xB84 0) G.pairFlags 1) G.digestMatched 0
  | _, _ => p

/-- The slot of the partner table that holds a partner of this kind and identity (R89). -/
def partnerSlot (p : Part) (kind identity : Nat) : Option Nat :=
  (List.range 32).find? fun i => decide (reg p (G.pKind i) = kind ∧ reg p (G.pIdentity i) = identity)

/-- The slot a newly heard partner takes (R89): an empty one, or else that of the partner lost longest ago. -/
def freeSlot (p : Part) : Option Nat :=
  match (List.range 32).find? fun i => decide (reg p (G.pKind i) = 0) with
  | some i => some i
  | none => p.pl.lost.find? fun i => decide (i < 32 ∧ reg p (G.pState i) = 1)

/-- A partner is heard: recorded, refreshed, or dropped where every slot holds a present one (R88, R89). -/
def hearPartner (p : Part) (kind identity address port role : Nat) : Part :=
  let write (p : Part) (i : Nat) : Part :=
    let p := { p with pl := { p.pl with heard := kput i (datumNow p) p.pl.heard, lost := p.pl.lost.filter fun j => decide (j ≠ i) } }
    let p := setReg (setReg (setReg p (G.pKind i) kind) (G.pIdentity i) identity) (G.pAddress i) address
    setReg (setReg (setReg (setReg p (G.pPort i) port) (G.pLastTick i) p.time.tick) (G.pState i) 0) (G.pRole i) role
  match partnerSlot p kind identity with
  | some i => write p i
  | none =>
    match freeSlot p with
    | some i => write p i
    | none => addReg p G.partnersDropped 1

/-- The partner in slot i is lost: P_STATE, its place among the lost (R89), and PARTNER_LOST in core cycle cyc (R88). -/
def losePartner (p : Part) (i cyc : Nat) : Part :=
  let p := { p with pl := { p.pl with lost := (p.pl.lost.filter fun j => decide (j ≠ i)) ++ [i] } }
  raiseNow (atCyc (setReg p (G.pState i) 1) cyc) 0xB82

/-- Time since the partner in slot i was last heard, by the Datum, in units of 2^-16 ns (R88). [DEDUCED, assumption 46] -/
def sinceHeard (p : Part) (i : Nat) : Nat := datumNow p - (kfind i p.pl.heard).getD 0

/-- The twin is heard over the mirror link (R328). -/
def hearTwin (p : Part) : Part :=
  match p.pair.peer with
  | none => p
  | some x => hearPartner p 2 (x.serial % 2 ^ 64) 0 0 (if reg p G.pairRole = 1 then 2 else 1)

/-- The pair is left for state 1 (R328, R342): a join in progress ends, and nothing more is forwarded. -/
def leavePair (p : Part) : Part :=
  let p := setReg (setReg (setReg p G.pairState 1) G.resyncStep 0) G.resyncLeft 0
  { p with pair := { p.pair with hb := none, handover := none, released := false, digests := [], ringTo := [], missing := [] } }

/-- HB_MISS heartbeats in a row have been missed (R328). -/
def heartbeatsMissed (p : Part) : Bool := (p.pair.hb.map fun h => decide (h.tick + reg p G.hbMiss ≤ p.time.tick)).getD true

/-- The twin is lost once HB_MISS heartbeats in a row have been missed (R328, Table 14-7). -/
def loseTwin (p : Part) (cyc : Nat) : Part :=
  if !paired p ∨ !heartbeatsMissed p then p
  else
    let id := (p.pair.peer.map (·.serial)).getD 0 % 2 ^ 64
    let joining := decide (reg p G.pairState = 2)
    let p := match partnerSlot p 2 id with
      | some i => losePartner p i cyc
      | none => raiseNow (atCyc p cyc) 0xB82
    let keep := p.pair.handover
    let p := leavePair (orReg p G.pairFlags 16)
    let p := { p with pair := { p.pair with handover := if reg p G.pairRole = 1 ∧ p.pair.driveOut then keep else none } }
    if joining then setReg p G.joinCause 10 else p

/-- A join fails with a cause and returns to state 1 (R342). -/
def failJoin (p : Part) (cause : Nat) : Part := setReg (leavePair p) G.joinCause cause

/-- The first failing cause of Table 14-8 that a handshake finds; 0 none. -/
def joinCauseOf (p : Part) (x : PeerInfo) : Nat :=
  let own := reg p G.pairPeerSerial
  let lc := reg p G.lcState
  if reg p G.pairId ≠ x.pairId ∨ (own ≠ 0 ∧ own ≠ x.serial) ∨ (x.peerSerial ≠ 0 ∧ x.peerSerial ≠ reg p G.serial) then 1
  else if reg p G.stepping ≠ x.stepping ∨ reg p G.fwVersion ≠ x.fwVersion ∨ reg p G.gzVersion ≠ x.gzVersion then 2
  else if reg p G.pairPriority = x.priority then 3
  else if (lc ≠ 2 ∧ lc ≠ 3) ∨ (x.lifecycle ≠ 2 ∧ x.lifecycle ≠ 3) then 4
  else if 30000 < x.latencyPs then 5
  else if reg p G.clockState ≠ 0 ∨ x.clockState ≠ 0 ∨ !x.timeJoined then 6
  else if anyRuns p ∧ x.running then 7
  else 0

/-- A handshake decides the role of this part (R342): 1 active, 2 shadow. -/
def joinRole (p : Part) (x : PeerInfo) : Nat := if anyRuns p then 1 else if x.running then 2 else if reg p G.pairPriority = 1 then 1 else 2

/-- A handshake is attempted (R342): with PAIR_ENABLE TRUE in state 1, or after JOIN in states 4 and 5. -/
def mayJoin (p : Part) : Bool :=
  let st := reg p G.pairState
  decide (reg p G.pairEnable = 1) && (decide (st = 1) || (p.pair.wanted && decide (st = 4 ∨ st = 5)))

/-- Key k is that of a mirrored entry that is written (Table 14-3). -/
def mirroredKey (k : Nat) : Bool := ((entryOf k).map fun e => mirrored e k && decide (e.acc = .rw)).getD false

/-- The mirrored entries and stores as the active part sends them (step 2 of Table 14-9). -/
def configImage (p : Part) : ConfigImage :=
  ⟨kkeep mirroredKey p.gz.regs, kkeep mirroredKey p.gz.pend, kkeep mirroredKey p.gz.bound, p.mem.edges, p.mem.newEdge, p.mem.descs,
   p.mem.newDesc, p.mem.trav⟩

/-- A map of mirrored values with those of the active part in place of its own. -/
def takeKeys (own new : KMap Nat) : KMap Nat :=
  (kkeep mirroredKey new).foldl (fun m e => kput e.1 e.2 m) (kkeep (fun k => !mirroredKey k) own)

/-- The shadow applies the active part's mirrored entries (step 2 of Table 14-9), with a relock for a new FS_KHZ and a realignment for a new
EPOCH (R39, R44). -/
def takeConfig (p : Part) (i : ConfigImage) : Part :=
  let fs := kget regDefault i.regs G.fsKhz
  let p := if fs ≠ reg p G.fsKhz then relock p fs else if kget regDefault i.regs G.epoch ≠ reg p G.epoch then beginAlign p else p
  let canon (m : KMap Nat) : KMap Nat := m.foldl (fun a e => kset (fun _ => 0) a e.1 e.2) []
  let mem := { p.mem with edges := canon i.edges, newEdge := i.newEdge, descs := canon i.descs, newDesc := i.newDesc, trav := canon i.trav }
  let own := kkeep (fun k => !mirroredKey k) p.gz.regs
  let p := { p with gz := { p.gz with regs := own, pend := takeKeys p.gz.pend i.pend, bound := takeKeys p.gz.bound i.bound }, mem := mem }
  takeQueues ((kkeep mirroredKey i.regs).foldl (fun q e => setReg q e.1 e.2) p) false

/-- The bytes that a join hashes (step 3 of Table 14-9): DRAM pages in use, the resident region of every Inset store, and the edge store. -/
def contentBytes (p : Part) : List Byte :=
  (pagesInUse p).flatMap (fun r => dramRead p.mem.dram (65536 * r.1) (65536 * (r.2 - r.1))) ++
    (List.range 256).flatMap (fun c => (List.range (reg p (G.insetSplit c))).flatMap fun s => toBytesLE 2 (insetSlot p c s)) ++
    (List.range 65536).flatMap fun i => toBytesLE 4 (kget (fun _ => 0) p.mem.edges i)

/-- The hash of the contents (step 3 of Table 14-9). [DESIGN CHOICE, assumption 13] -/
def contentHash (p : Part) : Nat := Config.sha256 (contentBytes p)

/-- Key k is that of a read-only value of a group, a sequencer or a stream queue, which the state image carries (R343). -/
def imageKey (k : Nat) : Bool :=
  let i := k / 256
  decide ((0x1A00 ≤ i ∧ i < 0x1A10) ∨ (0x1B00 ≤ i ∧ i < 0x1B40) ∨ i / 256 = 0x23) && ((entryOf k).map fun e => decide (e.acc = .ro)).getD false

/-- A datapath without the samples on their way through it, which the shadow synthesizes for itself (step 5 of Table 14-9). -/
def quietDp (d : Dp) : Dp := { d with history := [], emit := [], next := [] }

/-- The state image as the active part records it (step 4 of Table 14-9). [DESIGN CHOICE, assumption 62] -/
def stateImage (p : Part) : StateImage :=
  ⟨p.time.opened, p.time.closed, p.seqs.toList, p.plans.toList, p.dps.toList.map quietDp, p.fab.latches, p.paced, p.grps.toList, p.adm.plans,
   kkeep imageKey p.gz.regs, p.strm.open_, p.pair.ringTo⟩

/-- The shadow loads the state image (step 4 of Table 14-9); catch-up brings it to the tick of the active part. [DESIGN CHOICE, assumption 62] -/
def takeImage (p : Part) (i : StateImage) : Part :=
  let own := kkeep (fun k => !imageKey k) p.gz.regs
  let p := { p with
    time := { p.time with opened := i.opened, closed := i.closed },
    gz := { p.gz with regs := own },
    seqs := Vector.ofFn fun c => i.seqs.getD c.val (p.seqs.get c),
    plans := Vector.ofFn fun c => i.plans.getD c.val (p.plans.get c),
    dps := Vector.ofFn fun c => i.dps.getD c.val (p.dps.get c),
    grps := Vector.ofFn fun g => i.grps.getD g.val (p.grps.get g),
    fab := { p.fab with latches := i.latches },
    paced := i.paced,
    adm := { p.adm with plans := i.commits },
    strm := { p.strm with open_ := i.open_ },
    pair := { p.pair with ringTo := i.ringTo } }
  takeQueues ((kkeep imageKey i.shown).foldl (fun q e => setReg q e.1 e.2) p) false

/-- Queues whose rings a join copies: those enabled, each with the position W0 that SQ_MIRRORED holds at step 2 (Table 14-9). -/
def ringTargets (p : Part) : KMap Nat :=
  ((List.range 64).filter fun q => decide (reg p (G.sqEnable q) = 1)).map fun q => (q, reg p (G.sqWritten q))

/-- Bytes of the rings that step 6 of a join has still to copy (RESYNC_LEFT). -/
def ringLeft (p : Part) : Nat := (p.pair.ringTo.map fun e => e.2 - playPos p e.1).sum

/-- The lines of queue q's ring that hold its positions from a on, n bytes of them. -/
def ringLines (p : Part) (q a n : Nat) : List Nat :=
  let size := max 1 (reg p (G.sqRingSize q))
  ((List.range n).map fun i => (reg p (G.sqRingBase q) + (a + i) % size) / 64).eraseDups

/-- The active part reads a ring from SQ_PLAYPOS to W0 on port P2 and sends it, with its uncorrectable lines marked missing (R343, Table 12-9). -/
def sendRing (p : Part) (e : Nat × Nat) : Part :=
  let a := playPos p e.1
  let n := e.2 - a
  let size := max 1 (reg p (G.sqRingSize e.1))
  let lost := (ringLines p e.1 a n).filter fun l => decide (reg p G.memState = 3) || p.mem.bad.contains l
  let bs := (List.range n).map fun i => dramByte p.mem.dram (reg p (G.sqRingBase e.1) + (a + i) % size)
  if n = 0 then p else say (lost.foldl (fun q l => recordUe q l 2) p) (.ringCopy e.1 a bs lost)

/-- The shadow writes copied ring bytes on port P2 (step 6 of Table 14-9): a line marked missing plays as gap, and its queue is incomplete until
SQ_PLAYPOS has passed the copy. -/
def takeRing (p : Part) (q pos : Nat) (data : List Byte) (missing : List Nat) : Part :=
  let size := max 1 (reg p (G.sqRingSize q))
  let at_ (i : Nat) : Nat := reg p (G.sqRingBase q) + (pos + i) % size
  let cells := (data.zipIdx.map fun e => (at_ e.2, e.1)).filter fun e => !missing.contains (e.1 / 64)
  let lost := (ringLines p q pos data.length).filter missing.contains
  let stop := pos + data.length
  let p := (writeBytes p 2 cells).1
  let p := { p with mem := { p.mem with bad := p.mem.bad ++ lost } }
  let p := if lost = [] then p else { p with pair := { p.pair with missing := kput q stop p.pair.missing } }
  let p := if (kfind q p.pair.ringTo).getD 0 ≤ stop then { p with pair := { p.pair with ringTo := kdel q p.pair.ringTo } } else p
  setReg p G.resyncLeft (ringLeft p)

/-- A handshake that passed: the role is taken, step 2 of Table 14-9 begins, and the drive follows the role (R337, R343). -/
def beginJoin (p : Part) (x : PeerInfo) : Part :=
  let role := joinRole p x
  let p := setReg (setRole (setReg p G.pairState 2) role (nOf p.time.tick (10 * p.time.cyc))) G.resyncStep 2
  let p := setReg (setReg (setReg p G.linkLatPs x.latencyPs) G.joinCause 0) G.digestMatched 0
  let p := { p with pair := { p.pair with peer := some x, wanted := false, hb := none, digests := [], ringTo := if role = 1 then ringTargets p else [],
                                          missing := [] } }
  let p := if role = 1 then say (setDriveOut p true) (.configImage (configImage p)) else setDriveOut (openSwitches p) false
  hearTwin (if role = 2 then takeQueues p false else p)

/-- PAIR_CMD JOIN (R342). Answers the code. -/
def wantJoin (p : Part) : Part × Nat :=
  let st := reg p G.pairState
  if st = 1 ∨ st = 4 ∨ st = 5 then ({ p with pair := { p.pair with wanted := true } }, 0) else (p, 0x06)

/-- PAIR_CMD LEAVE (R343): both parts go to state 1. Answers the code. -/
def leaveCommand (p : Part) : Part × Nat := if paired p then (leavePair (say p (.pairRequest 2)), 0) else (p, 0x06)

/-- The captured assertions of tick k that wait in the log (R112, R331). -/
def logOf (p : Part) (k : Nat) : List LogRecord := (p.fab.log.filter fun e => decide (e.1 = k)).map (·.2)

/-- Logs of ticks up to k are dropped. -/
def dropLogs (p : Part) (k : Nat) : Part := { p with fab := { p.fab with log := p.fab.log.filter fun e => decide (k < e.1) } }

/-- A capture log's records reach the real-time inputs (R112, R331). -/
def takeLog (p : Part) (k : Nat) (l : List LogRecord) : Part :=
  (l.take 64).foldl (fun q r =>
    latchAll q (25 * k + r.offset / 10 + 3) ⟨k, r.offset, r.source, r.generation⟩ [] (rtInputs q r.ec)) p

/-- The active part sends the log of the tick before (R331). -/
def sendLog (p : Part) : Part :=
  let k := (p.time.tick + 2 ^ 64 - 1) % 2 ^ 64
  if forwards p then dropLogs (say p (.captureLog k ((logOf p k).take 64))) k else p

/-- The shadow receives the log of tick k in core cycle cyc (R23, R331): a log that is not complete by core cycle 12 of tick k + 1, or that
comes after the tick was counted as lost, is not used. -/
def receiveLog (p : Part) (k cyc : Nat) (l : List LogRecord) : Part :=
  if isShadow p ∧ paired p ∧ p.time.tick = nextTick k ∧ cyc ≤ 12 ∧ (kfind k p.pair.logs).isNone then
    let p := dropLogs (takeLog p k l) k
    { p with pair := { p.pair with logs := (kput k l p.pair.logs).filter fun e => decide (k ≤ e.1 + 8) } }
  else p

/-- The log of the tick before is incomplete at core cycle 12: the shadow decides from its own captures (R331). -/
def loseTick (p : Part) : Part :=
  let k := (p.time.tick + 2 ^ 64 - 1) % 2 ^ 64
  if isShadow p ∧ (kfind k p.pair.logs).isNone then
    let own := logOf p k
    let p := dropLogs (takeLog p k own) k
    let p := { p with pair := { p.pair with logs := (kput k own p.pair.logs).filter fun e => decide (k ≤ e.1 + 8) } }
    let p := setReg (addReg (orReg p G.pairFlags 6) G.lostTicks 1) G.digestMatched 0
    raiseAt (atCyc p 12) p.time.tick 120 0xB85 0
  else p

/-- Bytes are appended at SQ_WRITTEN on a port (R254): those that land behind SQ_PLAYPOS count as skipped. -/
def storeRing (p : Part) (port q : Nat) (bytes : List Byte) : Part :=
  if bytes.isEmpty then p
  else
    let w := reg p (G.sqWritten q)
    let behind := min bytes.length (playPos p q - w)
    let size := max 1 (reg p (G.sqRingSize q))
    let p := (writeBytes p port (bytes.zipIdx.map fun e => (reg p (G.sqRingBase q) + (w + e.2) % size, e.1))).1
    let p := addReg (setReg p (G.sqWritten q) (w + bytes.length)) (G.sqSkipped q) behind
    settleQueue p q

/-- Ring bytes in class 4 (R334): the active part's leave the link, and the shadow's are written at SQ_WRITTEN. -/
def mirrorBytes (p : Part) (q : Nat) (data : List Byte) : Part :=
  if !paired p ∨ reg p (G.sqEnable q) = 0 then p
  else if isShadow p then
    let p := storeRing p 2 q data
    setReg p (G.sqMirrored q) (reg p (G.sqWritten q))
  else
    let m := reg p (G.sqMirrored q)
    let n := min data.length (reg p (G.sqWritten q) - m)
    let size := max 1 (reg p (G.sqRingSize q))
    let bs := (List.range n).map fun i => dramByte p.mem.dram (reg p (G.sqRingBase q) + (m + i) % size)
    say (setReg p (G.sqMirrored q) (m + n)) (.ringBytes q bs)

/-- A cutoff record (R334): the increase, in units of 64 bytes since the last one, of the position that the decide point last passed used. The active
part sends its own, and for the shadow it is the position of that decide point. -/
def cutoffRecord (p : Part) (q units : Nat) : Part :=
  let was := kget (fun _ => 0) p.pair.cutoffs q
  let k := p.time.opened - 2
  if !paired p then p
  else
    let n := if isShadow p then units else (writtenAt p q k - was) / 64
    let p := { p with pair := { p.pair with cutoffs := kset (fun _ => 0) p.pair.cutoffs q (was + 64 * n) } }
    if isShadow p then { p with strm := { p.strm with hist := p.strm.hist ++ [(q, k, was + 64 * n)] } } else say p (.cutoff q n)

end Sys2Proof.Machine
end

