-- ==== Sys2Proof/Machine/AdmissionOps.lean ====
section
/-!
DEFINITION. Admission (chapter 13): the snapshot of a command, the checks of R321 in their order over the set-up that is judged, the DRAM
ceiling and demand, what a refusal and an acceptance publish and reserve, and the inputs that are locked meanwhile.
-/

namespace Sys2Proof.Machine

/-- The object of a refusal that names none (R322). -/
def noObject : Nat := 0xFFFFFFFF

/-- A refusal (R322): ADM code, failing channel (0xFFFF none), ADM_OBJECT, ADM_DEMAND, ADM_LIMIT, and TRV_CAUSE with TRV_CAUSE_STEP where a
check of Table 06-6 failed. -/
structure Refusing where
  code   : Nat
  chan   : Nat
  object : Nat
  demand : Nat
  limit  : Nat
  cause  : Option (Nat × Nat)
  deriving DecidableEq, Repr

/-- A refusal that concerns no one channel. -/
def partWide (code object demand limit : Nat) : Refusing := ⟨code, 0xFFFF, object, demand, limit, none⟩

/-- The channels a job checks (Table 13-1): those of its group with the Staged values not yet in force (R204, R205), or its one channel. -/
def scopeOf (p : Part) (cmd g c : Nat) : List Nat :=
  if cmd = 8 then [c] else (List.range 256).filter fun i => nextGroup p i = g

/-- The values a snapshot freezes (R306): those in force, those pending of the channels of the group, and for a plan commit PLAN_NEXT in place
of the allocation. -/
def snapRegs (p : Part) (cmd g c : Nat) : KMap Nat :=
  if cmd = 8 then
    let n := reg p (G.planNext c)
    let q := setReg (setReg (setReg p (G.trvBase c) (bits n 31 0)) (G.trvSize c) (bits n 63 32)) (G.trvEntry c) (bits n 95 64)
    q.gz.regs
  else
    p.gz.pend.foldl (fun m e =>
      match keyChan e.1 with
      | some i => if nextGroup p i = g ∨ e.1 = G.loadGroup i then kset regDefault m e.1 e.2 else m
      | none => m) p.gz.regs

/-- The part as a job's snapshot has it: values that can be written as frozen, values that cannot as they are, and the
descriptors and edges written so far (R128, R306, R310). -/
def judged (p : Part) (j : AdmJob) : Part :=
  let ro (k : Nat) : Bool := decide ((entryOf k).map (·.acc) = some .ro)
  let frozen := kkeep (fun k => !ro k) j.regs
  let m := (kkeep ro p.gz.regs).foldl (fun m e => kput e.1 e.2 m) frozen
  takeSegments { inForce p with gz := { p.gz with regs := m, pend := [] } }

/-- C_DRAM in bytes per second (R311): the fraction left by refresh, retraining and neighbour refresh, over the common denominator
1950 · 1000 · 4 · 2^k. [DEDUCED, assumption 68] -/
def dramCeiling (p : Part) : Nat :=
  if reg p G.memState = 0 ∨ reg p G.memState = 1 ∨ reg p G.memState = 3 then 0
  else
    let k := 2 ^ reg p G.memNrK
    let x := 1950 * 1000 * 4 * k
    let ref := reg p G.memRanks * (if reg p G.memRefreshMode = 0 then reg p G.tRfcNs else 4 * reg p G.tRfcsbNs) * 1000 * 4 * k
    let rt := 1950 * 4 * k
    let nr := 48 * 1950 * 1000
    reg p G.memSpeed * 32 * 92 * (x - (ref + rt + nr)) / (100 * x) * 1000000

/-- The mirror ceiling (R319). -/
def mirrorCeiling (p : Part) : Nat := 12500000000 - 600 * reg p G.ticksPerSecond

/-- Bytes of the 64 KiB pages of a queue's ring region that the zero-fill has not filled (R301, R302). -/
def ringUnfilled (p : Part) (q : Nat) : Nat :=
  if reg p G.zfState = 0 then 0
  else
    let first := reg p (G.sqRingBase q) / 65536
    let pages := (List.range (reg p (G.sqRingSize q) / 65536)).filter fun i =>
      decide (reg p G.zfFrontier ≤ (first + i) * 65536) && (kfind (first + i) p.dram.filled).isNone
    65536 * pages.length

/-- The segments that any PLAY or PLAYT of channel c's allocation names: what is locked and looked at where a program fails its walk. -/
def scanSegs (p : Part) (c : Nat) : List Nat := ((List.range (planned p (G.trvSize c))).filterMap (playedAt p c)).eraseDups

/-- A channel as it is judged: its number, its walk and the segments of its playing steps. -/
structure Subject where
  chan : Nat
  walk : Bad ⊕ Walked
  segs : List Nat

/-- Channel c of the set-up that is judged. -/
def subject (p : Part) (c : Nat) : Subject :=
  let w := walkProgram p c
  ⟨c, w, match w with
    | .inl _ => scanSegs p c
    | .inr x => segmentsOf p c x.places⟩

/-- The first of a list that fails a test, with what it fails with. -/
def firstOf {α β : Type} (f : α → Option β) : List α → Option β
  | [] => none
  | x :: r =>
    match f x with
    | some y => some y
    | none => firstOf f r

/-- The offset of the first playing step that names a descriptor. -/
def playOf (p : Part) (c : Nat) (w : Walked) (d : Nat) : Nat :=
  (((w.places.filter fun x => playedAt p c x.pc = some d).map (·.pc)).min?).getD noObject

/-- Segment d does not suit channel c's format and factor (checks 9 of Table 06-6, R115, R124): the figures of the refusal. -/
def segmentFault (p : Part) (c d : Nat) : Option (Nat × Nat) :=
  if d = zeroSeg then none
  else
    let x := descOf p d
    let i := interpOf p c
    if x.length = 0 ∨ !descOk p (descRecord p d) ∨ x.format ≠ (if planned p (G.dpMode c) = 1 then 1 else 0) then some (0, 0)
    else ((edgeWords p d).find? fun e => decide (i ≤ bits e 5 0)).map fun e => (bits e 5 0, i)

/-- Checks 1 to 10 of Table 06-6 and the stepped mask (R158 to R161, R317) of a channel. -/
def validate (p : Part) (s : Subject) : Option Refusing :=
  let c := s.chan
  match s.walk with
  | .inl b => some ⟨4, c, b.step, b.cause, 0, some (b.cause, b.step)⟩
  | .inr w =>
    let step := stepBound p c w
    let tone := toneBound p c w
    let edges := edgeBound p c w
    if planned p (G.seqMode c) = 1 ∧ planned p (G.stepAdvMask c) % 256 = 0 then some ⟨4, c, noObject, 0, 0, none⟩
    else if 24 < step.1 then some ⟨4, c, step.2, step.1, 24, some (8, step.2)⟩
    else if 32 < edges then some ⟨4, c, step.2, edges, 32, some (8, step.2)⟩
    else if 8 < tone.1 then some ⟨6, c, tone.2, tone.1, 8, some (8, tone.2)⟩
    else
      match firstOf (fun d => (segmentFault p c d).map fun f => (d, f)) s.segs with
      | some (d, f) => some ⟨5, c, d, f.1, f.2, some (9, playOf p c w d)⟩
      | none =>
        let short := s.segs.find? fun d => fromMemory p d && decide ((descOf p d).length * interpOf p c < 125)
        short.map fun d => ⟨5, c, d, (descOf p d).length * interpOf p c, 125, some (10, playOf p c w d)⟩

/-- The mode and the gap and idle segments of a channel (R121, R183). -/
def segmentsOk (p : Part) (c : Nat) : Option Refusing :=
  if planned p (G.dpMode c) = 1 ∧ interpOf p c = 1 then some ⟨5, c, noObject, 0, 0, none⟩
  else
    ([planned p (G.gapSeg c), planned p (G.idleSeg c)].find? fun d =>
      decide (d ≠ zeroSeg) && (decide ((descOf p d).role ≠ 1) || (segmentFault p c d).isSome)).map fun d => ⟨5, c, d, 0, 0, none⟩

/-- Every resident segment of a channel's plan lies below its INSET_SPLIT (R124). -/
def insetOk (p : Part) (s : Subject) : Option Refusing :=
  let c := s.chan
  let split := planned p (G.insetSplit c)
  ((planned p (G.gapSeg c) :: planned p (G.idleSeg c) :: s.segs).find? fun d =>
    decide (d ≠ zeroSeg ∧ (descOf p d).residence = 1 ∧ split < (slotRange (descOf p d)).2)).map fun d =>
      ⟨2, c, d, (slotRange (descOf p d)).2, split, none⟩

/-- PACED_INTERVAL against the kinds (R203). -/
def pacedOk (p : Part) (c : Nat) : Option Refusing :=
  let least := if planned p (G.pacedKinds c) &&& 0xE ≠ 0 then 4 else 1
  let i := planned p (G.pacedInterval c)
  if planned p (G.pacedMode c) = 1 ∧ planned p (G.pacedUnit c) = 1 ∧ i < least then some ⟨11, c, noObject, i, least, none⟩ else none

/-- The refill room covers the heads that the program can need (R126, R315). -/
def leadOk (p : Part) (s : Subject) (w : Walked) : Option Refusing :=
  let c := s.chan
  let need := headTicks p * (1 + maxHeads p c w)
  let room := insetDepth p c - 2
  if s.segs.any (fromMemory p) ∧ (room < need ∨ min 64 room < headTicks p) then some ⟨2, c, noObject, need, room, none⟩ else none

/-- The entry path of a plan commit does not begin a memory-resident play too early (R316): start is its commit tick, v the verdict tick. -/
def planEntryOk (p : Part) (c start v : Nat) (w : Walked) : Option Refusing :=
  let limit := v + 2 + headTicks p
  (entryMemory p c start limit w.bodies).map fun t => ⟨2, c, noObject, t, limit, none⟩

/-- The longest freeze a channel may ask for is at most 10,000 ms (R229). -/
def trimOk (p : Part) (c : Nat) : Option Refusing :=
  let trim := reg p (G.trimFreezeMax c)
  if 10000 < trim then some ⟨10, c, noObject, trim, 10000, none⟩ else none

/-- The checks of one channel in the order of R321; plan is the commit tick of a plan commit. A channel without a program has no program to check
(R136); its mode, its paced queue and its freezes are checked as any channel's are (R183, R203, R229). -/
def channelOk (p : Part) (plan : Option Nat) (v : Nat) (s : Subject) : Option Refusing :=
  let c := s.chan
  let own := decide (planned p (G.trvSize c) ≠ 0)
  let late : Option Refusing :=
    match s.walk, plan with
    | .inr w, some k => planEntryOk p c k v w
    | _, _ => none
  let lead : Option Refusing :=
    match s.walk with
    | .inr w => leadOk p s w
    | .inl _ => none
  [if own then validate p s else none, segmentsOk p c, insetOk p s, pacedOk p c, trimOk p c, lead, late].findSome? id

/-- The charge r_c of a channel in bytes per second, rounded up (R312). [DESIGN CHOICE, assumption 21] -/
def rateOf (p : Part) (s : Subject) (w : Walked) : Nat :=
  let c := s.chan
  let i := max 1 (interpOf p c)
  let b := if planned p (G.dpMode c) = 1 then 4 else 2
  let fs := reg p G.fsKhz * 1000
  let heads := maxHeads p c w * headTicks p * 250 * b
  (s.segs.map fun d =>
    let x := descOf p d
    let n := max 1 x.length
    let play := if d ≠ zeroSeg ∧ x.residence = 0 then b * fs * i * n else 0
    ceilDiv (play + heads * fs) (i * i * n)).max?.getD 0

/-- What a channel that passed its checks charges; a channel without a program charges nothing (R136). [DESIGN CHOICE, assumption 21] -/
def chargeMap (p : Part) (l : List Subject) : KMap Charge :=
  l.foldl (fun m s =>
    match s.walk with
    | .inl _ => m
    | .inr w =>
      if planned p (G.trvSize s.chan) = 0 then m
      else kput s.chan ⟨rateOf p s w, queuesOf p s.segs, s.segs.any (fromMemory p)⟩ m) []

/-- The channels of a reserved set that read queue q. -/
def readersOf (set : List Resv) (q : Nat) : List Nat := (((chargesOf set).filter fun e => e.2.queues.contains q).map (·.1)).eraseDups

/-- C_q, the peak consumption of queue q by the channels of a reserved set, in bytes per second, as numerator and denominator (R260). -/
def peakOf (p : Part) (set : List Resv) (q : Nat) : Nat × Nat :=
  (readersOf set q).foldl (fun a c =>
    let i := max 1 (interpOf p c)
    (a.1 * i + (if planned p (G.dpMode c) = 1 then 4 else 2) * reg p G.fsKhz * 1000 * a.2, a.2 * i)) (0, 1)

/-- The checks of Table 11-4 and R252 of one queue. -/
def queueOk (p : Part) (set : List Resv) (starting : Bool) (q : Nat) : Option Refusing :=
  let no (a b : Nat) : Option Refusing := some (partWide 3 q a b)
  let base := reg p (G.sqRingBase q)
  let size := reg p (G.sqRingSize q)
  let other := (List.range 64).any fun i =>
    decide (i ≠ q ∧ reg p (G.sqEnable i) = 1) &&
      overlaps (base, base + size) (reg p (G.sqRingBase i), reg p (G.sqRingBase i) + reg p (G.sqRingSize i))
  let page := (pagesInUse p).any fun r => overlaps (base, base + size) (r.1 * 65536, r.2 * 65536)
  let rate := reg p (G.sqRate q)
  let pre := reg p (G.sqPrefill q)
  let least := ceilDiv (rate * 64) (4 * max 1 (reg p G.fsKhz))
  let ahead := aheadOf p q
  let peak := peakOf p set q
  let n := (readersOf set q).length
  if reg p (G.sqEnable q) = 0 ∨ other ∨ page then no 0 0
  else if rate * peak.2 < peak.1 then no (ceilDiv peak.1 peak.2) rate
  else if pre < least then no pre least
  else if size < 2 * pre then no size (2 * pre)
  else if starting ∧ ahead < (pre : Int) then no (ofSigned 64 ahead) pre
  else if reg p (G.sqPolicy q) = 2 ∧ 1 < n then no n 1
  else none

/-- The queue of a list with the highest SQ_RATE, ties to the lower number. [DEDUCED, assumption 25] -/
def worstQueue (p : Part) (l : List Nat) : Nat :=
  (l.foldl (fun (a : Option Nat) q =>
    match a with
    | none => some q
    | some b => if reg p (G.sqRate b) < reg p (G.sqRate q) ∨ (reg p (G.sqRate b) = reg p (G.sqRate q) ∧ q < b) then some q else some b)
    none).getD noObject

/-- The stream checks (R260, R313): each queue the command names, then the sums over the reserved set. -/
def streamOk (p : Part) (set : List Resv) (named : List Nat) (starting : Bool) : Option Refusing :=
  let sum (source ceiling : Nat) : Option Refusing :=
    if ceiling < ingressSum p set source then
      some (partWide 3 (worstQueue p ((namedQueues set).filter fun q => decide (reg p (G.sqSource q) = source))) (ingressSum p set source) ceiling)
    else none
  [firstOf (queueOk p set starting) named, sum 0 (reg p G.ingressCeiling), sum 1 (reg p G.netStreamCeiling)].findSome? id

/-- Two load groups would read one queue (R211): the queue and the groups. -/
def groupConflict (others : List Resv) (g : Nat) (named : List Nat) : Option Refusing :=
  firstOf (fun q =>
    ((others.find? fun r => decide (r.group ≠ g) && r.charges.any fun e => e.2.queues.contains q)).map fun r =>
      partWide 12 q (min g r.group) (max g r.group)) named

/-- The lifecycle state admits a set-up (R320, R350): OPERATIONAL with no failed start or test, or SERVICE, and no transition in progress. -/
def lifecycleAllows (p : Part) : Bool :=
  decide (((reg p G.lcState = 2 ∧ reg p G.stResult ≠ 2) ∨ reg p G.lcState = 3) ∧ p.life.intent = none)

/-- The clock plan admits a set-up (R320): CLOCK_STATE 0, no SCLK_MISMATCH, REFIN present and the clock relocked since it was lost (Table 02-11),
and the Datum not before EPOCH. -/
def clockOk (p : Part) : Bool :=
  decide (reg p G.clockState = 0) && !regBit p G.timeFlags 3 && !regBit p G.timeFlags 1 && !p.time.refinOut && decide (epochTime p ≤ (datumNow p : Nat))

/-- The refusal of the clock plan (Table 13-5). -/
def clockRefusal (p : Part) : Refusing := partWide 13 noObject (reg p G.clockState) (reg p G.timeFlags)

/-- The event channel with the highest EC_LOAD of a reserved set, ties to the lower number. [DEDUCED, assumption 25] -/
def worstEvent (regs : KMap Nat) (set : List Resv) : Nat :=
  ((eventChannels regs set).foldl (fun (a : Option Nat) n =>
    match a with
    | none => some n
    | some b => if ecLoadOf regs b < ecLoadOf regs n ∨ (ecLoadOf regs b = ecLoadOf regs n ∧ n < b) then some n else some b) none).getD noObject

/-- The part-wide resources that a reserved set needs (R321): event load, stream ingress, DRAM and, in a pair, the mirror link. p is the part, q the
part as the snapshot has it. -/
def resourcesOk (p q : Part) (j : AdmJob) (set : List Resv) (named : List Nat) (pair : Bool) : Option Refusing :=
  let load := eventLoad j.regs set
  if 64 < load then some (partWide 7 (worstEvent j.regs set) load 64)
  else
    match streamOk q set named (decide (j.cmd = 2 ∨ j.cmd = 4)) with
    | some r => some r
    | none =>
      let need := dramDemand p set
      let cap := dramCeiling p
      let rates := ((namedQueues set).map fun i => reg p (G.sqRate i)).sum
      if ((chargesOf set).any fun e => e.2.mem || !e.2.queues.isEmpty) ∧ cap < need then
        if need - fillTerm p ≤ cap then some (partWide 14 noObject (fillTerm p) (need - cap)) else some (partWide 1 noObject need cap)
      else if pair ∧ mirrorCeiling p < rates then some (partWide 8 noObject rates (mirrorCeiling p))
      else none

/-- What an engine finds of the set-up of a snapshot (R321): a refusal, or the candidate's charges. [DEDUCED, assumption 25] -/
def setupOk (p : Part) (j : AdmJob) (pair : Bool) : Refusing ⊕ (KMap Charge × List Subject) :=
  let q := judged p j
  let v := p.time.tick
  let scope := if j.cmd = 8 then [j.chan] else members q j.group
  let plan := if j.cmd = 8 then some (if j.at_ = 0 then v + 3 else j.at_) else none
  let subs := scope.map (subject q)
  let named := (subs.flatMap fun s => queuesOf q s.segs).eraseDups
  let others := p.adm.resv.filter fun r => decide (j.cmd = 8) || !decide (r.group = j.group)
  let charges := chargeMap q subs
  let set := others ++ [⟨j.group, if j.cmd = 8 then some j.chan else none, charges, v⟩]
  let unfilled := (named.find? fun i => decide (ringUnfilled p i ≠ 0)).map fun i => partWide 14 i (ringUnfilled p i) (reg p (G.sqRingSize i))
  let empty := if scope.isEmpty then some (partWide 12 j.group j.group 0) else none
  let quiet := if 256 < reg p G.quietMax then some (partWide 9 noObject (reg p G.quietMax) 256) else none
  match unfilled <|> groupConflict others j.group named <|> empty <|> quiet <|> firstOf (channelOk q plan v) subs <|>
      resourcesOk p q j set named pair with
  | some r => .inl r
  | none => .inr (charges, subs)

/-- What an engine finds for its own snapshot (R321), without the shadow's answer: a refusal, or the candidate's charges. p is the part, q the
part as the snapshot has it. [DEDUCED, assumption 25] -/
def admission (p : Part) (j : AdmJob) : Refusing ⊕ (KMap Charge × List Subject) :=
  let was := kget regDefault j.regs G.pairState
  let pair := decide (was = 2 ∨ was = 3)
  if !lifecycleAllows p then .inl (partWide 15 noObject (reg p G.lcState) (reg p G.stResult))
  else if !clockOk p then .inl (clockRefusal p)
  else if pair && !decide (was = 3 ∧ reg p G.pairState = 3) then .inl (partWide 16 noObject 0 0)
  else setupOk p j pair

/-- A refusal is published (R322): the fields of Table 13-5, the cause of a failed check of Table 06-6, and ADMISSION_REFUSED. -/
def publishRefusal (p : Part) (cmd g : Nat) (r : Refusing) : Part :=
  let p := setReg (setReg (setReg p G.admCode r.code) G.admCommand cmd) G.admGroup g
  let p := setReg (setReg (setReg p G.admChannel r.chan) G.admObject r.object) G.admDemand (r.demand % 2 ^ 64)
  let p := addReg (setReg (setReg p G.admLimit (r.limit % 2 ^ 64)) G.admVerdictTick p.time.tick) G.admRefused 1
  let p := match r.cause with
    | some x => setReg (setReg p (G.trvCause r.chan) x.1) (G.trvCauseStep r.chan) x.2
    | none => p
  raiseNow (setReg p G.admDramCeiling (dramCeiling p)) 0xB88

/-- An acceptance is published (R322). -/
def publishAcceptance (p : Part) (cmd g : Nat) : Part :=
  let p := setReg (setReg (setReg p G.admCode 0) G.admCommand cmd) G.admGroup g
  let p := setReg (setReg (setReg (setReg p G.admChannel 0xFFFF) G.admObject noObject) G.admDemand 0) G.admLimit 0
  setReg (addReg (setReg p G.admVerdictTick p.time.tick) G.admAccepted 1) G.admDramCeiling (dramCeiling p)

/-- The bounds and charges of the channels checked are published (R312, R315, R317). -/
def publishChannels (p q : Part) (charges : KMap Charge) (subs : List Subject) : Part :=
  subs.foldl (fun a s =>
    match s.walk with
    | .inl _ => a
    | .inr w =>
      let c := s.chan
      let a := setReg (setReg a (G.admChRate c) (((kfind c charges).map (·.rate)).getD 0)) (G.admChHeads c) (maxHeads q c w)
      setReg (setReg a (G.admChStep c) ((stepBound q c w).1 % 256)) (G.admChTone c) ((toneBound q c w).1 % 256)) p

/-- The entry-ready tick of a group whose set-up q was accepted at tick v (R316). -/
def entryReady (q : Part) (subs : List Subject) (v : Nat) : Nat :=
  let l := v + 2 + headTicks q
  let early := subs.any fun s =>
    match s.walk with
    | .inl _ => false
    | .inr w => (entryMemory q s.chan (v + 3) l w.bodies).isSome
  if early then l else v + 3

/-- The reservation of a group is made or replaced (R309). -/
def reserveGroup (p : Part) (g : Nat) (charges : KMap Charge) (regs : KMap Nat) (ready : Nat) : Part :=
  let v := p.time.tick
  let resv := (p.adm.resv.filter fun r => !decide (r.group = g)) ++ [⟨g, none, charges, v⟩]
  let p := { p with adm := { p.adm with resv := resv } }
  let p := setReg (setReg p (G.admGEntryReady g) ready) (G.admGArmedTick g) v
  setReg (publishTotals p regs) (G.admGDram g) (chargeOf p (resv.filter fun r => decide (r.group = g)))

/-- The new charge of a plan commit is reserved beside the old one (R309). -/
def reservePlan (p : Part) (g c : Nat) (charges : KMap Charge) (regs : KMap Nat) : Part :=
  let resv := p.adm.resv ++ [⟨g, some c, charges, p.time.tick⟩]
  publishTotals { p with adm := { p.adm with resv := resv } } regs

/-- An accepted command takes its effect (Table 08-6, R162, R205, R316). Answers the code of its reply. [DEDUCED, assumption 23] -/
def grant (p : Part) (j : AdmJob) (charges : KMap Charge) (subs : List Subject) : Part × Nat :=
  let v := p.time.tick
  let q := judged p j
  let g := grp j.group
  let ready := entryReady q subs v
  let early := decide (j.at_ ≠ 0) && (decideBegun p j.at_ || decide (j.at_ < ready))
  if j.cmd = 4 ∧ early then (p, 0x06)
  else
    let p := publishChannels (publishAcceptance p j.cmd j.group) q charges subs
    if j.cmd = 8 then
      let c := chan j.chan
      let t := if j.at_ = 0 then v + 3 else j.at_
      let p := reservePlan p j.group j.chan charges j.regs
      let k : PlanCommit := ⟨j.chan, t, reg q (G.trvBase c), reg q (G.trvSize c), reg q (G.trvEntry c), v⟩
      (setReg { p with adm := { p.adm with plans := p.adm.plans ++ [k] } } (G.planState c) 2, 0)
    else
      let p := reserveGroup p j.group charges j.regs ready
      if j.cmd = 4 then
        let t := if j.at_ = 0 then max (v + 3) ready else j.at_
        (setReg (setGrp p g { grpOf p g with restartAt := some t, stopGen := none }) (G.lgState g) 5, 0)
      else
        let p := setReg p (G.lgState g) 1
        let p := ((List.range 256).filter fun c => nextGroup p c = j.group).foldl (fun a c => beginSpan a (chan c) v) p
        if j.cmd = 2 then scheduleStart p g j.at_ else (p, 0)

/-- A command no longer fits its group, or its tick is too near, when its verdict is given (R162, R205). [DEDUCED, assumption 22] -/
def overtaken (p : Part) (j : AdmJob) : Bool :=
  let st := reg p (G.lgState j.group)
  let fits := if j.cmd = 8 then decide (st = 2 ∨ st = 4) else if j.cmd = 4 then decide (st = 2) else decide (st ≤ 1)
  !fits || (decide (j.cmd ≠ 1 ∧ j.at_ ≠ 0) && decideBegun p j.at_)

/-- The verdict on a job that has left the queue of snapshots (R308, R319, R321). twin and digest are the partner's code and the low half of its
configuration digest. Answers the code of the reply. [DEDUCED, assumption 22] -/
def judgeJob (p : Part) (j : AdmJob) (twin digest : Nat) : Part × Nat :=
  if overtaken p j then
    (if j.cmd = 8 then setReg p (G.planState j.chan) (if decide (j.at_ ≠ 0) && decideBegun p j.at_ then 5 else 0) else p, 0x06)
  else if j.cmd = 2 ∧ reg p (G.lgState j.group) = 1 then
    if clockOk p then scheduleStart p (grp j.group) j.at_ else (publishRefusal p 2 j.group (clockRefusal p), 0x0D)
  else
    let no (p : Part) (r : Refusing) : Part × Nat :=
      (publishRefusal (if j.cmd = 8 then setReg p (G.planState j.chan) 4 else p) j.cmd j.group r, 0x0D)
    match admission p j with
    | .inl r => no p r
    | .inr (charges, subs) =>
      let joined := decide (kget regDefault j.regs G.pairState = 3)
      if joined ∧ (twin ≠ 0 ∨ digest ≠ j.digest % 2 ^ 64) then
        no (setReg p G.admTwinCode (twin % 256)) (partWide 16 noObject (j.digest % 2 ^ 64) (digest % 2 ^ 64))
      else grant p j charges subs

/-- The verdict on a job would reserve DRAM (R293). -/
def reservesMemory (p : Part) (j : AdmJob) : Bool :=
  match admission p j with
  | .inl _ => false
  | .inr (charges, _) => charges.any fun e => e.2.mem || !e.2.queues.isEmpty

/-- The memory is in self-refresh and the verdict on a job would reserve DRAM, so that it is given only after the exit (Table 12-8).
[DEDUCED, assumption 24] -/
def awaitsMemory (p : Part) (j : AdmJob) : Bool := decide (reg p G.memState = 4) && reservesMemory p j

/-- Where the answer to a request goes (R80). -/
def destOf (h : PlHeader) : Dest := ⟨h.port, h.source, h.udpPort⟩

/-- Frames leave, and are kept as the reply to a request with the last 16 of its source, UDP port and session (R80, R85). -/
def sendReply (p : Part) (h : PlHeader) (frames : List PlFrame) : Part :=
  let own (r : CacheRec) : Bool := decide (r.source = h.source ∧ r.udpPort = h.udpPort ∧ r.session = h.session)
  let kept := ((⟨h.source, h.udpPort, h.session, h.seq, frames⟩ : CacheRec) :: p.pl.cache.filter own).take 16
  let p := { p with pl := { p.pl with cache := kept ++ p.pl.cache.filter fun r => !own r } }
  frames.foldl (fun q f => say q (.frame (destOf h) f)) p

/-- The bytes of an item (R81). -/
def itemBytes (x : ReplyItem) : Nat := 12 + 4 * ceilDiv x.value.length 4

/-- Items in as many frames as PL_MAX_DATAGRAM makes of them: room is what a frame holds, left what the first still holds (R80).
[DESIGN CHOICE, assumption 84] -/
def packItems (room : Nat) : Nat → List ReplyItem → List (List ReplyItem)
  | _, [] => [[]]
  | left, x :: r =>
    let n := itemBytes x
    if n ≤ left then
      match packItems room (left - n) r with
      | [] => [[x]]
      | a :: l => (x :: a) :: l
    else
      match packItems room (room - n) r with
      | [] => [[], [x]]
      | a :: l => [] :: (x :: a) :: l

/-- What a frame of at most PL_MAX_DATAGRAM bytes holds beside its header and CRC (R80). -/
def frameRoom (p : Part) : Nat := reg p G.plMaxDatagram - 36

/-- A value longer than one frame holds is cut to it; its LEN says so (R80). [DESIGN CHOICE, assumption 84] -/
def fitItem (p : Part) (x : ReplyItem) : ReplyItem := { x with value := x.value.take ((frameRoom p - 12) / 4 * 4) }

/-- The items of a reply or publication, frame by frame, each with its flag MORE (R80, R81). -/
def framed (p : Part) (head : List Byte) (items : List ReplyItem) : List (Bool × List ReplyItem) :=
  let l := packItems (frameRoom p) (frameRoom p - head.length) (items.map (fitItem p))
  l.zipIdx.map fun e => (decide (e.2 + 1 < l.length), e.1)

/-- A reply leaves, with what stands before its items (R80, R83, R85). -/
def replyHead (p : Part) (h : PlHeader) (status : Nat) (head : List Byte) (items : List ReplyItem) : Part :=
  sendReply p h ((framed p head items).map fun e => .reply h.session h.seq p.time.tick status e.1 head e.2)

/-- A reply leaves (R83). -/
def reply (p : Part) (h : PlHeader) (status : Nat) (items : List ReplyItem) : Part := replyHead p h status [] items

/-- An item with its code (R81). -/
def codedItem (e : OwedItem) : ReplyItem := { e.item with status := e.code.getD 0 }

/-- The first item of a list that has key k and no code takes one. -/
def fillItem (k code : Nat) : List OwedItem → List OwedItem
  | [] => []
  | e :: r => if e.key = k ∧ e.code = none then { e with code := some code } :: r else e :: fillItem k code r

/-- A reply that waits for an item of key k on a path. -/
def owesItem (path : Path) (k : Nat) (o : Owed) : Bool :=
  decide (headerPath o.head = path) && o.items.any fun e => decide (e.key = k ∧ e.code = none)

/-- A writer over Pearo Link learns the code of its access; the other paths carry no status (R74, R83). [DEDUCED, assumption 43] -/
def tell (p : Part) (path : Path) (code : Nat) : Part :=
  match path with
  | .portA _ => say p (.verdict path code)
  | .portB _ => say p (.verdict path code)
  | _ => p

/-- A write that was to be answered later has its code (R308, R332): it goes into the oldest reply that waits for it, which leaves once it
is complete; an access that came with no frame is answered by itself. -/
def answer (p : Part) (path : Path) (k code : Nat) : Part :=
  match p.pl.owed.find? (owesItem path k) with
  | none => tell p path code
  | some o =>
    let items := fillItem k code o.items
    if items.all fun e => e.code.isSome then
      let p := { p with pl := { p.pl with owed := p.pl.owed.erase o } }
      if o.frame then reply p o.head code [] else reply p o.head 0 (items.map codedItem)
    else
      { p with pl := { p.pl with owed := p.pl.owed.map fun x => if x = o then { o with items := items } else x } }

/-- The key of the entry whose write made a job. -/
def jobKey (j : AdmJob) : Nat := if j.cmd = 8 then G.planGo j.chan else G.lgCmd j.group

/-- The engine gives the verdict on the snapshot that has waited longest (R306, R308); a refusal goes into the abort log (R78).
[DEDUCED, assumption 24; DEDUCED, assumption 38] -/
def giveVerdict (p : Part) (twin digest cyc : Nat) : Part :=
  match p.adm.jobs with
  | [] => p
  | j :: r =>
    if awaitsMemory p j then p else
    let p := { atCyc p cyc with adm := { p.adm with jobs := r } }
    let z := judgeJob (setReg p G.admPending r.length) j twin digest
    let k := jobKey j
    let z1 := if z.2 = 0 then z.1 else logAbort z.1 j.path j.op z.2 (k / 256) (k % 256) (if j.cmd = 8 then 1 else j.cmd)
    answer z1 j.path k z.2

/-- A command that invokes admission is executed: its snapshot is taken and waits (R306). Answers the code, if it is refused at once.
[DEDUCED, assumption 23] -/
def submit (p : Part) (cmd g c : Nat) (path : Path) (at_ : Nat) : Part × Nat :=
  if 16 ≤ p.adm.jobs.length then (p, 0x06)
  else
    let digest := if paired p then configDigest p else 0
    let j : AdmJob := ⟨cmd, g, c, path, 1, at_, snapRegs p cmd g c, p.time.tick, digest⟩
    (setReg { p with adm := { p.adm with jobs := p.adm.jobs ++ [j] } } G.admPending (p.adm.jobs.length + 1), 0)

/-- LG_CMD ARM on a stopped group (Table 08-6). Answers the code. -/
def commandArm (p : Part) (g : Nat) (path : Path) : Part × Nat :=
  if 1 < reg p (G.lgState g) then (p, 0x06) else submit p 1 g 0 path 0

/-- LG_CMD START on a stopped group: an armed one uses its reservation, where the clock plan admits starts (R44, R55, Table 08-6). Answers the
code. -/
def commandStart (p : Part) (g : Grp) (path : Path) : Part × Nat :=
  let st := reg p (G.lgState g)
  let at_ := reg p (G.lgAt g)
  if 1 < st ∨ (at_ ≠ 0 ∧ decideBegun p at_) then (p, 0x06)
  else if st = 1 then
    if clockOk p then scheduleStart p g at_ else (publishRefusal p 2 g (clockRefusal p), 0x0D)
  else submit p 2 g 0 path at_

/-- LG_CMD RESTART on a running group (Table 08-6). Answers the code. -/
def commandRestart (p : Part) (g : Nat) (path : Path) : Part × Nat :=
  let at_ := reg p (G.lgAt g)
  if reg p (G.lgState g) ≠ 2 ∨ (at_ ≠ 0 ∧ decideBegun p at_) then (p, 0x06) else submit p 4 g 0 path at_

/-- A write of PLAN_GO TRUE (R162). Answers the code. -/
def planGoes (p : Part) (c : Nat) (path : Path) : Part × Nat :=
  let st := reg p (G.lgState (groupOf p c))
  let at_ := reg p (G.planAt c)
  if st ≠ 2 ∧ st ≠ 4 then (p, 0x06)
  else if at_ ≠ 0 ∧ decideBegun p at_ then (setReg p (G.planState c) 5, 0x06)
  else
    let r := submit p 8 (groupOf p c) c path at_
    if r.2 = 0 then (setReg r.1 (G.planState c) 1, 0) else r

/-- What a waiting snapshot locks (R307): its channels, segments, step ranges and queues. -/
structure Locks where
  chans  : List Nat
  segs   : List Nat
  steps  : List (Nat × Nat)
  queues : List Nat

/-- The locks of a job. -/
def locksOf (p : Part) (j : AdmJob) : Locks :=
  let q := judged p j
  let l := if j.cmd = 8 then [j.chan] else members q j.group
  let segs := (l.flatMap fun c => planned q (G.gapSeg c) :: planned q (G.idleSeg c) :: (subject q c).segs).eraseDups
  ⟨l, segs, l.map fun c => (planned q (G.trvBase c), planned q (G.trvBase c) + planned q (G.trvSize c)), queuesOf q segs⟩

/-- The entry e at key k is an input of a waiting snapshot (R307): a Staged entry of a channel checked, or an entry of a queue named.
[DEDUCED, assumption 26] -/
def lockedEntry (p : Part) (e : Entry) (k : Nat) : Bool :=
  p.adm.jobs.any fun j =>
    let x := locksOf p j
    ((keyChan k).map fun c => decide (e.cls = .staged) && x.chans.contains c).getD false ||
      (decide (0x1B00 ≤ k / 256 ∧ k / 256 < 0x1B40 ∧ e.acc = .rw) && x.queues.contains (k / 256 - 0x1B00))

/-- Descriptor d is an input of a waiting snapshot (R307). [DEDUCED, assumption 26] -/
def lockedDesc (p : Part) (d : Nat) : Bool := p.adm.jobs.any fun j => (locksOf p j).segs.contains d

/-- A step of the store is an input of a waiting snapshot (R307). -/
def lockedStep (p : Part) (n : Nat) : Bool := p.adm.jobs.any fun j => (locksOf p j).steps.any fun r => decide (r.1 ≤ n ∧ n < r.2)

/-- The ranges of the edge store that are inputs of waiting snapshots (R307). -/
def lockedEdges (p : Part) : List (Nat × Nat) :=
  p.adm.jobs.flatMap fun j => (locksOf p j).segs.filterMap fun d =>
    let x := descOf (takeSegments p) d
    if d ≠ zeroSeg ∧ x.length ≠ 0 ∧ x.edgeCount ≠ 0 then some (x.edgePtr, x.edgePtr + x.edgeCount) else none

end Sys2Proof.Machine
end

