-- ==== Sys2Proof/Machine/StreamOps.lean ====
section
/-!
DEFINITION. Streams (chapter 11): enabling a queue, its doorbell, fetching and completing descriptors, network objects, flushing, completion
timeouts and the loss of the host. The paced queue's push and flush (chapter 08) stand here too.
-/

namespace Sys2Proof.Machine

/-- The load groups whose reservations name queue q (R252). -/
def queueGroups (p : Part) (q : Nat) : List Nat :=
  ((p.adm.resv.filter fun r => r.charges.any fun e => e.2.queues.contains q).map (·.group)).eraseDups

/-- A group whose plan names queue q runs (R252). -/
def queueRuns (p : Part) (q : Nat) : Bool := (queueGroups p q).any (groupRuns p)

/-- An accepted write to a queue disarms the armed groups that name it (R252). -/
def disarmReaders (p : Part) (q : Nat) : Part := (queueGroups p q).foldl disarm p

/-- What a queue holds besides its registers is dropped. -/
def dropQueue (p : Part) (q : Nat) : Part :=
  let s := p.strm
  let s := { s with descs := s.descs.filter fun e => decide (e.1 ≠ q), open_ := s.open_.filter fun e => decide (e.1 ≠ q) }
  let hist := s.hist.filter fun e => decide (e.1 ≠ q)
  { p with strm := { s with armed := kdel q s.armed, tmo := kdel q s.tmo, tail := kdel q s.tail, wait := kdel q s.wait, hist := hist } }

/-- Positions and counts of queue q read 0 (R257). -/
def resetQueue (p : Part) (q : Nat) : Part :=
  [G.sqWritten q, G.sqReserved q, G.sqPlaypos q, G.sqAhead q, G.sqSkipped q, G.sqUnderruns q, G.sqGapSamples q, G.sqSlip q, G.sqLateRefill q,
   G.sqDescHead q, G.sqDescDone q, G.sqErrCause q, G.sqMirrored q].foldl (fun a k => setReg a k 0) (dropQueue p q)

/-- The queue's pages come first in the zero-fill (R301). -/
def fillFirst (p : Part) (q : Nat) : Part :=
  if reg p G.zfState = 0 then p
  else { p with dram := { p.dram with first := p.dram.first.filter (fun i => decide (i ≠ q)) ++ [q] } }

/-- A write of SQ_ENABLE (R252, R257): enabling resets positions and counts, and disabling ends fetching. -/
def enableQueue (p : Part) (q v : Nat) : Part :=
  if v = reg p (G.sqEnable q) then p
  else if v = 1 then
    fillFirst (setReg (setReg (resetQueue p q) (G.sqEnable q) 1) (G.sqState q) (if isShadow p then 5 else 1)) q
  else
    let p := dropQueue (setReg (setReg p (G.sqEnable q) 0) (G.sqState q) 0) q
    { p with dram := { p.dram with first := p.dram.first.filter fun i => decide (i ≠ q) } }

/-- A queue in host error (R257): it fetches nothing more. -/
def queueError (p : Part) (q cause : Nat) : Part := setReg (setReg p (G.sqState q) 3) (G.sqErrCause q) cause

/-- The posted tail of queue q. -/
def tailOf (p : Part) (q : Nat) : Nat := kget (fun _ => 0) p.strm.tail q

/-- A write of DB_TAIL (R257). -/
def doorbell (p : Part) (q tail : Nat) : Part :=
  if reg p (G.sqEnable q) = 0 then addReg p G.bar2Bad 1
  else if reg p (G.sqDescCount q) < (tail + 2 ^ 32 - reg p (G.sqDescDone q)) % 2 ^ 32 then queueError p q 1
  else
    let p := { p with strm := { p.strm with tail := kset (fun _ => 0) p.strm.tail q tail } }
    if reg p (G.sqState q) = 1 ∧ tail ≠ reg p (G.sqDescHead q) then setReg p (G.sqState q) 2 else p

/-- The registers of a doorbell page that can be read: offset, width in bytes and value (Table 11-3). -/
def pageRegs (p : Part) (q : Nat) : List (Nat × Nat × Nat) :=
  [(0x008, 4, reg p (G.sqDescHead q)), (0x010, 4, reg p (G.sqDescDone q)), (0x018, 8, reg p (G.sqWritten q)), (0x020, 8, playPos p q),
   (0x028, 4, reg p (G.sqState q))]

/-- The byte at offset a of BAR2 (R249, R256): the doorbell pages, the MSI-X table and its pending bits; what is not listed reads 0. -/
def bar2Byte (p : Part) (a : Nat) : Byte :=
  if a < 0x40000 then
    match (pageRegs p (a / 4096)).find? fun r => decide (r.1 ≤ a % 4096 ∧ a % 4096 < r.1 + r.2.1) with
    | some r => BitVec.ofNat 8 (r.2.2 / 256 ^ (a % 4096 - r.1))
    | none => 0
  else if a < 0x41000 then BitVec.ofNat 8 (kget vectorDefault p.strm.vectors ((a - 0x40000) / 4) / 256 ^ (a % 4))
  else if a < 0x41020 then
    let waits := (List.range 8).filter fun i => (kfind (8 * (a - 0x41000) + i) p.strm.msixWait).isSome
    BitVec.ofNat 8 (waits.map (2 ^ ·)).sum
  else 0

/-- A word of the MSI-X table is written (R249): a vector that is no longer masked sends the message that waits. [PRESUMED, assumption 90] -/
def writeVector (p : Part) (i v : Nat) : Part :=
  let p := { p with strm := { p.strm with vectors := kset vectorDefault p.strm.vectors i (v % 2 ^ 32) } }
  let n := i / 4
  if (kfind n p.strm.msixWait).isSome ∧ !msixMasked p n then
    raiseMsix { p with strm := { p.strm with msixWait := kdel n p.strm.msixWait } } n
  else p

/-- A write of n bytes to BAR2 (R256, R269, R356): aligned words and double words reach DB_TAIL and the MSI-X table, and any other write is counted;
so is a doorbell on a shadow. [DEDUCED, assumption 91] -/
def bar2Write (p : Part) (a n v : Nat) : Part :=
  let whole := decide ((n = 4 ∨ n = 8) ∧ a % n = 0)
  if p.life.test ≠ 0 ∨ !whole then addReg p G.bar2Bad 1
  else if a < 0x40000 ∧ a % 4096 = 0 ∧ !isShadow p then doorbell p (a / 4096) (v % 2 ^ 32)
  else if 0x40000 ≤ a ∧ a < 0x41000 then
    let p := writeVector p ((a - 0x40000) / 4) v
    if n = 8 then writeVector p ((a - 0x40000) / 4 + 1) (v / 2 ^ 32) else p
  else addReg p G.bar2Bad 1

/-- An access to BAR2 (R256); a lost host's does not arrive (R268). -/
def bar2 (p : Part) (a : Nat) : Bar2Access → Part
  | .write n v => if reg p G.hostLink ≠ 0 then p else bar2Write p a n v
  | .read n => if reg p G.hostLink ≠ 0 then p else say p (.read (.bytes ((List.range n).map fun i => bar2Byte p (a + i))))

/-- Ring room of queue q in bytes (R254). -/
def ringRoom (p : Part) (q : Nat) : Nat := playPos p q + reg p (G.sqRingSize q) - reg p (G.sqWritten q)

/-- Ingress appends bytes at SQ_WRITTEN on port P1 (R254, R281). -/
def appendRing (p : Part) (q : Nat) (bytes : List Byte) : Part := storeRing p 1 q bytes

/-- Bytes taken from the host enter the ring as far as there is room; the rest waits (R254). -/
def takeBytes (p : Part) (q : Nat) (bytes : List Byte) : Part :=
  let all := kget (fun _ => []) p.strm.wait q ++ bytes
  let n := min all.length (ringRoom p q)
  let k := p.time.tick
  let moved := ((k, n) :: p.strm.moved).filter fun e => decide (k < e.1 + reg p G.ticksPerSecond / 1000) && decide (e.2 ≠ 0)
  let p := { p with strm := { p.strm with wait := kset (fun _ => []) p.strm.wait q (all.drop n), moved := moved } }
  appendRing p q (all.take n)

/-- INGRESS_NOW: ingress over the last 1 ms in bytes per second (Table 11-8). -/
def ingressNow (p : Part) : Nat :=
  1000 * ((p.strm.moved.filter fun e => decide (p.time.tick < e.1 + reg p G.ticksPerSecond / 1000)).map (·.2)).sum

/-- A host stream descriptor that Table 11-2 allows. -/
def streamDescOk (raw : Nat) : Bool :=
  let len := bits raw 95 64
  decide (bits raw 127 97 = 0 ∧ bits raw 63 0 % 64 = 0 ∧ len % 64 = 0 ∧ 64 ≤ len ∧ len ≤ 16777216)

/-- One posted descriptor is fetched (R255, R257). -/
def fetchOne (p : Part) (q : Nat) (d : StreamDesc) : Part :=
  if reg p (G.sqState q) ≠ 2 ∨ reg p (G.sqDescHead q) = tailOf p q ∨ !(kget (fun _ => []) p.strm.wait q).isEmpty then p
  else if !streamDescOk d.raw then queueError p q 2
  else
    match d.result with
    | .error => queueError p q 3
    | .data bytes =>
      let len := bits d.raw 95 64
      let stop := reg p (G.sqWritten q) + len
      let p := addReg p (G.sqDescHead q) 1
      let p := { p with strm := { p.strm with descs := p.strm.descs ++ [(q, stop, bit d.raw 96)], tmo := kdel q p.strm.tmo } }
      takeBytes p q ((bytes ++ List.replicate (len - bytes.length) 0).take len)

/-- The part fetches up to 16 posted descriptors of queue q and appends what their buffers gave; bytes that found no room go first
(R254, R255). -/
def fetchDescs (p : Part) (q : Nat) (descs : List StreamDesc) (cyc : Nat) : Part :=
  if reg p (G.sqEnable q) = 0 ∨ reg p (G.sqSource q) ≠ 0 ∨ reg p G.hostLink ≠ 0 ∨ isShadow p ∨ reg p (G.sqState q) ≠ 2 ∨ p.life.test ≠ 0 then p
  else
    let p := (descs.take 16).foldl (fun a d => fetchOne a q d) (takeBytes (atCyc p cyc) q [])
    if reg p (G.sqState q) = 2 ∧ reg p (G.sqDescHead q) = tailOf p q ∧ (kget (fun _ => []) p.strm.wait q).isEmpty then setReg p (G.sqState q) 1 else p

/-- The completion write-back of queue q with a status (R258). -/
def writeBack (p : Part) (q status : Nat) : Part :=
  let a := reg p (G.sqWbAddr q)
  if a = 0 ∨ reg p G.hostLink ≠ 0 then p
  else say p (.hostWrite a (toBytesLE 8 (reg p (G.sqDescDone q) + status * 2 ^ 32)))

/-- The oldest fetched descriptor of queue q completes once SQ_WRITTEN has passed its last byte (R255, R258). -/
def completeDesc (p : Part) (q : Nat) : Part :=
  match p.strm.descs.find? fun e => decide (e.1 = q) with
  | none => p
  | some e =>
    if reg p (G.sqWritten q) < e.2.1 then p
    else
      let p := { p with strm := { p.strm with descs := p.strm.descs.erase e } }
      let p := addReg p (G.sqDescDone q) 1
      let p := writeBack p q (reg p (G.sqState q))
      if e.2.2 ∧ kget (fun _ => 0) p.strm.msixAt q ≠ p.time.tick + 1 then
        raiseMsix { p with strm := { p.strm with msixAt := kput q (p.time.tick + 1) p.strm.msixAt } } (reg p (G.sqMsix q))
      else p

/-- A network object is appended at SQ_WRITTEN (R259): whole, or refused with 0x0A where the ring has no room. Answers the code.
[DEDUCED, assumption 72] -/
def netData (p : Part) (q : Nat) (data : List Byte) : Part × Nat :=
  if reg p (G.sqEnable q) = 0 ∨ reg p (G.sqSource q) ≠ 1 ∨ data.length % 64 ≠ 0 ∨ data.length < 64 ∨ 65536 < data.length then (p, 0x06)
  else if ringRoom p q < data.length then (p, 0x0A)
  else (appendRing p q data, 0)

/-- SQ_FLUSH TRUE (R254): positions go to SQ_WRITTEN, and descriptors not yet fetched complete with status 1. Answers the code. -/
def flushQueue (p : Part) (q : Nat) : Part × Nat :=
  if queueRuns p q then (p, 0x07)
  else
    let w := reg p (G.sqWritten q)
    let p := { p with strm := { p.strm with open_ := p.strm.open_.filter fun e => decide (e.1 ≠ q) } }
    let p := settleQueue (setReg p (G.sqReserved q) w) q
    let n := (tailOf p q + 2 ^ 32 - reg p (G.sqDescHead q)) % 2 ^ 32
    if n = 0 then (p, 0)
    else
      let p := addReg (setReg p (G.sqDescHead q) (tailOf p q)) (G.sqDescDone q) n
      let p := if reg p (G.sqState q) = 2 ∧ (kget (fun _ => []) p.strm.wait q).isEmpty then setReg p (G.sqState q) 1 else p
      (writeBack p q 1, 0)

/-- The host is lost (R268): messages that wait are discarded. -/
def loseHost (p : Part) : Part :=
  if reg p G.hostLink ≠ 0 then p
  else
    let p := { p with strm := { p.strm with msixWait := [] } }
    let p := abortLoad (addReg (setReg p G.hostLink 1) G.hostLostCount 1)
    (List.range 64).foldl (fun a q =>
      if reg a (G.sqEnable q) = 1 ∧ reg a (G.sqSource q) = 0 ∧ reg a (G.sqState q) ≠ 5 then setReg a (G.sqState q) 4 else a) p

/-- PCIE_LINK of a link that has trained to a generation and a width (Table 11-8). -/
def linkWord (gen width : Nat) : Nat := gen % 16 + width % 32 * 16

/-- The host is lost, or a lost link returns (R268): a queue in SQ_STATE 4 stays there until it is disabled. -/
def hostEvent (p : Part) : HostEvent → Part
  | .lost _ => loseHost p
  | .returned gen width =>
    if reg p G.hostLink = 1 ∧ p.life.applied then setReg (setReg p G.hostLink 0) G.pcieLink (linkWord gen width) else p

/-- A read of queue q receives no completion (R257, R268): the queue is in host error, and the fourth in a row loses the host. -/
def timeout (p : Part) (q : Nat) : Part :=
  let n := kget (fun _ => 0) p.strm.tmo q + 1
  let p := addReg { p with strm := { p.strm with tmo := kset (fun _ => 0) p.strm.tmo q n } } G.cplTimeouts 1
  let p := if reg p (G.sqState q) = 1 ∨ reg p (G.sqState q) = 2 then queueError p q 4 else p
  if 4 ≤ n then loseHost p else p

/-- A push of a paced entry (R200). Answers the code. -/
def pushPaced (p : Part) (c e : Nat) : Part × Nat :=
  let kind := bits e 63 60
  let allowed := [0xFFFF, 3 * 2 ^ 56 + (2 ^ 48 - 1), 3 * 2 ^ 56 + 0xFFFF, 3 * 2 ^ 56 + 0xFFFFFFFF, 0xFFFFFFFF, 0xFFFFFFFF]
  let l := pacedQueue p c
  if 5 < kind ∨ !regBit p (G.pacedKinds c) kind ∨ bits e 59 0 &&& allowed.getD kind 0 ≠ bits e 59 0 then (p, 0x06)
  else if 1024 ≤ l.length then (addReg p (G.pacedRefused c) 1, 0x06)
  else (setReg { p with paced := kset (fun _ => []) p.paced c (l ++ [e]) } (G.pacedFill c) (l.length + 1), 0)

/-- PACED_FLUSH TRUE (R202, Table 08-11). -/
def flushPaced (p : Part) (c : Nat) : Part := setReg { p with paced := kset (fun _ => []) p.paced c [] } (G.pacedFill c) 0

end Sys2Proof.Machine
end

