-- ==== Sys2Proof/Machine/DramOps.lean ====
section
/-!
DEFINITION. The memory controller (chapter 12): training, the map from addresses to banks, requests and the pick, refresh, neighbour refresh,
retraining and quiet windows, self-refresh, replay, errors, scrub and zero-fill. Times are counts of controller cycles, a quarter of the
memory clock; DDR5 timing is taken as met in every command slot (assumption 14).
-/

namespace Sys2Proof.Machine

/-- The 64 KiB page of a line is not yet filled by the zero-fill (R301). -/
def unfilledLine (p : Part) (line : Nat) : Bool :=
  let g := 64 * line / 65536
  decide (reg p G.zfState = 1 ∧ reg p G.zfFrontier ≤ 65536 * g) && (kfind g p.dram.filled).isNone

/-- Sub-channel i. -/
def subAt (p : Part) (i : SubCh) : SubChSt := p.dram.subs.get i

/-- The part with sub-channel i in state x. -/
def setSub (p : Part) (i : SubCh) (x : SubChSt) : Part := { p with dram := { p.dram with subs := p.dram.subs.set i.val x i.isLt } }

/-- Controller cycles in a microsecond (R281). -/
def cyclesPerUs (p : Part) : Nat := reg p G.memSpeed / 8

/-- The urgency of a request (R281). -/
def urgency (p : Part) (r : DReq) (now : Nat) : Nat :=
  let u := if r.deadline ≤ now then 7 else 8 * (now - r.arrival) / max 1 (r.deadline - r.arrival)
  min u (reg p (G.portCap r.port))

/-- A flow that holds DRAM capacity under admission (R282). -/
def reservingFlow (p : Part) : Bool :=
  (chargesOf p.adm.resv).any (fun e => e.2.mem || !e.2.queues.isEmpty) || (List.range 64).any (fun q => reg p (G.sqEnable q) = 1) ||
    decide (reg p G.pairState = 3)

/-- An admitted flow, which keeps the controller out of self-refresh (R292). -/
def admittedFlow (p : Part) : Bool := reservingFlow p || decide (reg p G.ldState = 1 ∨ reg p G.zfState = 1)

/-- The credit of ports P3 and P4 as of the present tick: a share a tick, up to 64 ticks' worth (R282). -/
def raiseCredit (p : Part) : Part :=
  let d := p.time.tick - p.dram.creditAt
  let up (m : KMap Nat) (n : Nat) : KMap Nat :=
    let s := reg p (G.portShare n) / max 1 (reg p G.ticksPerSecond)
    kset (fun _ => 0) m n (min (64 * s) (kget (fun _ => 0) m n + d * s))
  { p with dram := { p.dram with credit := up (up p.dram.credit 3) 4, creditAt := p.time.tick } }

/-- Port n may move so many bytes now (R282). -/
def mayMove (p : Part) (n bytes : Nat) : Bool :=
  decide (n < 3) || !reservingFlow p || decide (bytes ≤ kget (fun _ => 0) p.dram.credit n)

/-- Bytes moved by port n are counted, and taken from its credit while a reserving flow runs (R282, Table 12-15). -/
def moveBytes (p : Part) (n bytes : Nat) : Part :=
  let c := kget (fun _ => 0) p.dram.credit n
  let p := if n < 3 ∨ !reservingFlow p then p
    else { p with dram := { p.dram with credit := kset (fun _ => 0) p.dram.credit n (c - bytes) } }
  addReg p (G.portBytes n) bytes

/-- A read corrected on a device is counted (R296). -/
def recordCe (p : Part) (line device : Nat) : Part :=
  let i := (subOf p (64 * line)).val
  let rank := (bankRow p (64 * line)).1 / 32
  setReg (addReg (addReg p G.eccCorrected 1) (G.scCe i) 1) (G.scCeDevice i) (device % 16 + 16 * rank)

/-- What a read of a line by a port finds (R296, R297): whether it is uncorrectable. A line of an unfilled page reads as zeros with no access to the
devices (R301). -/
def readOutcome (p : Part) (line port : Nat) (ecc : EccOutcome) : Part × Bool :=
  let ecc := if unfilledLine p line then .clean else ecc
  if p.mem.bad.contains line || decide (ecc = .uncorrectable) then
    let l := if p.mem.bad.contains line then p.mem.bad else line :: p.mem.bad
    (recordUe { p with mem := { p.mem with bad := l } } line port, true)
  else
    match ecc with
    | .corrected d => (recordCe p line d, false)
    | _ => (p, false)

/-- The devices' timing by density (Table 12-13). -/
def setDensity (p : Part) (density : Nat) : Part :=
  setReg (setReg (setReg p G.memDensity density) G.tRfcNs (if density = 2 then 410 else 295)) G.tRfcsbNs (if density = 2 then 190 else 130)

/-- The memory is failed (R273, R295). -/
def failMemory (p : Part) (cause : Nat) : Part := setReg (setReg p G.memState 3) G.memFailCause cause

/-- One attempt of initial training ends (R271, R273): the memory is ready, or the next grade is tried, or the memory has failed. -/
def trainingDone (p : Part) (speed : Nat) (r : TrainingResult) : Part :=
  if 1 < reg p G.memState then p
  else if !r.supported then setReg (failMemory p 3) G.apDramSize 0
  else if r.passed ∧ r.channels % 16 = 15 then
    let size := if r.density = 1 ∧ r.ranks = 1 then 2 ^ 37 else 2 ^ 38
    let p := setDensity (setReg (setReg (setReg p G.memState 2) G.memSpeed speed) G.memRanks r.ranks) r.density
    setReg (setReg (setReg p G.memChannels 15) G.memLatFixed r.latFixed) G.apDramSize size
  else
    let p := setReg p G.memChannels (r.channels % 16)
    if 4800 < speed then setReg p G.memState 1 else setReg (failMemory p 1) G.apDramSize 0

/-- The lines that an access of n bytes from address a touches, each with its first address and its length. -/
def linesTouched (a n : Nat) : List (Nat × Nat × Nat) :=
  if n = 0 then []
  else
    (List.range ((a + n - 1) / 64 - a / 64 + 1)).map fun i =>
      let line := a / 64 + i
      let first := max a (64 * line)
      (line, first, min (a + n) (64 * line + 64) - first)

/-- The controller cycle at which tick k begins, told from the present core cycle and the controller's clock (R17). -/
def cycleOfTick (p : Part) (now k : Nat) : Nat := now + (25 * k - acyc p) * 1250 * reg p G.memSpeed / max 1 (reg p G.fsKhz)

/-- The first tick that needs one of the refills asked for in a range of addresses; a P0 read that no planner asked for is taken as meant for the
tick whose deadline comes next. [DEDUCED, assumption 33] -/
def neededBy (p : Part) (a n : Nat) : Nat :=
  (((p.dram.wants.filter fun w => overlaps (w.addr, w.addr + w.len) (a, a + n)).map (·.tick)).min?).getD (p.time.tick + 2)

/-- A refill asked for without the addresses a to a + n - 1. -/
def cutWant (a n : Nat) (w : Want) : List Want :=
  [{ w with len := min (w.addr + w.len) a - w.addr }, { w with addr := max w.addr (a + n), len := w.addr + w.len - max w.addr (a + n) }].filter fun x =>
    decide (x.len ≠ 0)

/-- A request of port P0 brings the refills asked for in its range (R175). -/
def takeWants (p : Part) (a n : Nat) : Part := { p with dram := { p.dram with wants := p.dram.wants.flatMap (cutWant a n) } }

/-- A request of one line is accepted (R276): a write takes effect in the order of acceptance, with the fill of an unfilled page charged to its port
(R301), and a read takes the bytes as they are. -/
def acceptLine (p : Part) (port now deadline addr : Nat) (data : Option (List Byte)) (x : Nat × Nat × Nat) : Part :=
  let line := x.1
  let first := x.2.1
  let n := x.2.2
  let i := subOf p (64 * line)
  let old := dramRead p.mem.dram first n
  let new := (data.map fun d => ((d.drop (first - addr)) ++ List.replicate n 0).take n)
  let waits := decide (reg p G.memState = 4)
  let need := if port = 0 then neededBy p (64 * line) 64 else 0
  let stop := if port = 0 then cycleOfTick p now (need - 1) else deadline
  let r : DReq := ⟨port, now, stop, line, new.isSome, decide (n = 64), first, new.getD old, old, waits, need⟩
  let p := if port = 0 then takeWants p (64 * line) 64 else p
  let p := if new.isSome && unfilledLine p line then moveBytes p port 65536 else p
  let p := match new with
    | some bs => (writeLine p line (bs.zipIdx.map fun e => (first + e.2, e.1))).1
    | none => p
  let p := if waits then addReg p (G.portSrWaits port) 1 else p
  let s := subAt p i
  setSub p i { s with input := s.input ++ [r] }

/-- An access of a port enters the controller as requests of one line (R276, R280): reads of a failed memory are uncorrectable and writes of it
are dropped (R295); where a port's queue has no room for a line, nothing is accepted yet. [DESIGN CHOICE, assumption 34] -/
def acceptAccess (p : Part) (port now deadline addr len : Nat) (data : Option (List Byte)) : Part :=
  let lines := (linesTouched addr len).filter fun x => decide (64 * x.1 < reg p G.apDramSize)
  let st := reg p G.memState
  if st = 3 then
    if data.isSome then p
    else lines.foldl (fun q x => say (recordUe q x.1 port) (.memPoison port x.2.1)) p
  else if st < 2 then p
  else
    let room (i : SubCh) : Bool :=
      decide (((subAt p i).input.filter fun r => decide (r.port = port)).length + (lines.filter fun x => decide (subOf p (64 * x.1) = i)).length ≤ 64)
    if !(List.finRange 8).all room then p
    else
      let stop := if port = 0 then deadline else now + reg p (G.portTarget port) * cyclesPerUs p
      let p := { p with dram := { p.dram with lastReq := now } }
      lines.foldl (fun q x => acceptLine q port now stop addr data x) p

/-- The request of a list with the highest urgency, ties in order of arrival. -/
def mostUrgent (p : Part) (now : Nat) (l : List DReq) : Option DReq :=
  l.foldl (fun (a : Option DReq) r =>
    match a with
    | none => some r
    | some b => if urgency p b now < urgency p r now then some r else some b) none

/-- The bank a request goes to. -/
def bankOf (p : Part) (r : DReq) : Nat := (bankRow p (64 * r.line)).1

/-- Requests move from the input queues to bank queues that have room, most urgent first; P3 and P4 need credit (R276, R282). -/
def moveInput (i : SubCh) (now : Nat) : Nat → Part → Part
  | 0, p => p
  | fuel + 1, p =>
    let s := subAt p i
    let free := s.input.filter fun r => decide ((kget (fun _ => []) s.banks (bankOf p r)).length < 8) && mayMove p r.port 64
    match mostUrgent p now free with
    | none => p
    | some r =>
      let b := bankOf p r
      let s := { s with input := s.input.erase r, banks := kset (fun _ => []) s.banks b (kget (fun _ => []) s.banks b ++ [r]) }
      moveInput i now fuel (moveBytes (setSub p i s) r.port 64)

/-- A P0 request to a rank, or in same-bank refresh to bank index b of it, is queued (R283, R285). -/
def readsWait (p : Part) (s : SubChSt) (key : Nat) : Bool :=
  let hit (bank : Nat) : Bool := decide (bank / 32 = key / 4) && (decide (reg p G.memRefreshMode = 0) || decide (bank % 4 = key % 4))
  (s.input.any fun r => decide (r.port = 0) && hit (bankOf p r)) || s.banks.any fun e => hit e.1 && e.2.any fun r => decide (r.port = 0)

/-- The banks that a refresh of a key covers (R283, R285). -/
def coveredBy (p : Part) (key bank : Nat) : Bool :=
  decide (bank / 32 = key / 4) && (decide (reg p G.memRefreshMode = 0) || decide (bank % 4 = key % 4))

/-- A command is noted in the retry buffer of its DDR channel: the last 32, newest first (R294). -/
def noteCmd (p : Part) (i : SubCh) (bank kind at_ : Nat) (data : List Byte) : Part :=
  let c := i.val / 2
  let l := (⟨i.val, bank, kind, at_, data⟩ :: kget (fun _ => []) p.dram.retry c).take 32
  { p with dram := { p.dram with retry := kset (fun _ => []) p.dram.retry c l, alerts := kdel c p.dram.alerts } }

/-- SC_REF_OWED follows the owed counts of a sub-channel. -/
def showOwed (p : Part) (i : SubCh) : Part := setReg p (G.scRefOwed i) (((subAt p i).owed.map (·.2)).max?.getD 0)

/-- A refresh of a key issues, or first the precharge of the rows it covers (R278, R283). -/
def issueRefresh (p : Part) (i : SubCh) (key : Nat) : Part :=
  let s := subAt p i
  if s.rows.any fun e => coveredBy p key e.1 then
    noteCmd (setSub p i { s with rows := s.rows.filter fun e => !coveredBy p key e.1 }) i (8 * key) 1 0 []
  else
    let d := kget (fun _ => 0) s.owed key
    showOwed (noteCmd (setSub p i { s with owed := kset (fun _ => 0) s.owed key (d - 1) }) i (8 * key) 4 0 []) i

/-- The first refresh that goes before requests (R277, 1 and 2): forced; in same-bank mode of an idle bank; owed with no P0 request queued. -/
def refreshNow (p : Part) (s : SubChSt) : Option Nat :=
  let forced := s.owed.find? fun e => decide (4 ≤ e.2)
  let idle := s.owed.find? fun e =>
    decide (reg p G.memRefreshMode = 1) && !s.rows.any (fun r => coveredBy p e.1 r.1) && !s.banks.any fun b => coveredBy p e.1 b.1 && !b.2.isEmpty
  let owed := s.owed.find? fun e => !readsWait p s e.1
  [forced, idle, owed].findSome? fun o => o.map (·.1)

/-- A millisecond in controller cycles. -/
def cyclesPerMs (p : Part) : Nat := 1000 * cyclesPerUs p

/-- A pause of sub-channel i may begin (R287, R289, R304): 1 ms after its last, not beside another while an admitted flow runs, after a forced
refresh, not in a quiet window, and after a window in order of sub-channel number. -/
def pauseAllowed (p : Part) (i : SubCh) (now : Nat) : Bool :=
  let s := subAt p i
  let apart (x : SubChSt) (d : Nat) : Bool := (x.pauseAt.map fun t => decide (t + d ≤ now)).getD true
  let others := (List.finRange 8).filter fun j => decide (j ≠ i)
  decide (reg p G.memState = 2 ∧ reg p G.quietState ≠ 1) && apart s (cyclesPerMs p) &&
    !s.owed.any (fun e => decide (4 ≤ e.2)) &&
    (!admittedFlow p || others.all fun j => apart (subAt p j) (cyclesPerUs p)) &&
    (decide (reg p G.quietState ≠ 3) || (s.after && others.all fun j => decide (i < j) || !(subAt p j).after))

/-- Sub-channel i retrains (R287, R288): every bank precharged, the interval adjusted by the drift, which starts from 0 again; after a quiet
window the last sub-channel to pause returns QUIET_STATE to 0 (R289, R290). -/
def takePause (p : Part) (i : SubCh) (now : Nat) : Part :=
  let drift := reg p (G.scDrift i)
  let t := reg p (G.scRtInterval i)
  let t := if 5 < drift then max 1 (t / 2) else if 8 * drift < 10 then min 1024 (2 * t) else t
  let p := setSub p i { subAt p i with rows := [], pauseAt := some now, due := false, after := false }
  let p := addReg (setReg (setReg p (G.scRtInterval i) t) (G.scDrift i) 0) G.rtPauses 1
  if 2 ≤ reg p G.quietState ∧ (List.finRange 8).all fun j => !(subAt p j).after then setReg p G.quietState 0 else p

/-- The heads of the bank queues: bank and most urgent request (R277). -/
def bankHeads (p : Part) (s : SubChSt) (now : Nat) : List (Nat × DReq) :=
  s.banks.filterMap fun e => (mostUrgent p now e.2).map fun r => (e.1, r)

/-- The highest urgency of a list of heads. -/
def topUrgency (p : Part) (now : Nat) (l : List (Nat × DReq)) : Nat := ((l.map fun e => urgency p e.2 now).max?).getD 0

/-- The phase of a sub-channel after its switch, if it switches (R279). -/
def phased (p : Part) (s : SubChSt) (now : Nat) : SubChSt :=
  let own := (bankHeads p s now).filter fun e => decide (e.2.isWrite = s.writing)
  let other := (bankHeads p s now).filter fun e => decide (e.2.isWrite ≠ s.writing)
  if !other.isEmpty && (own.isEmpty || decide (topUrgency p now own < topUrgency p now other) || decide (32 ≤ s.cols)) then
    { s with writing := !s.writing, cols := 0 }
  else s

/-- Head a goes before head b (R277, 3 to 6). -/
def goesBefore (p : Part) (s : SubChSt) (now : Nat) (a b : Nat × DReq) : Bool :=
  let u (x : Nat × DReq) := urgency p x.2 now
  let col (x : Nat × DReq) : Nat := if kfind x.1 s.rows = some (bankRow p (64 * x.2.line)).2 then 0 else 1
  let dist (x : Nat × DReq) := (x.1 + 64 - s.pointer) % 64
  decide (u b < u a) || (decide (u a = u b) && (decide (col a < col b) || (decide (col a = col b) &&
    (decide (a.2.port < b.2.port) || (decide (a.2.port = b.2.port) && decide (dist a < dist b))))))

/-- The head that the pick yields (R277). -/
def pickHead (p : Part) (s : SubChSt) (now : Nat) : Option (Nat × DReq) :=
  ((bankHeads p s now).filter fun e => decide (e.2.isWrite = s.writing)).foldl (fun (a : Option (Nat × DReq)) e =>
    match a with
    | none => some e
    | some b => if goesBefore p s now e b then some e else some b) none

/-- A partial write that cannot be merged is dropped: the bytes that no later write of the same line has replaced go back (R297). -/
def dropWrite (p : Part) (i : SubCh) (r : DReq) : Part :=
  let s := subAt p i
  let later := (s.input ++ s.banks.flatMap (·.2)).filter fun x => x.isWrite && decide (x.line = r.line)
  let back := (r.old.zipIdx.map fun e => (r.at_ + e.2, e.1)).filter fun e =>
    !later.any fun x => decide (x.at_ ≤ e.1 ∧ e.1 < x.at_ + x.bytes.length)
  let m := dramPut p.mem.dram back
  let p := { p with mem := { p.mem with dram := m } }
  if r.port = 3 then addReg p G.apBlocked 1 else p

/-- A request's data moves (R276, R280, R296, R297). [DEDUCED, assumption 57] -/
def serve (p : Part) (i : SubCh) (r : DReq) (now : Nat) (ecc : EccOutcome) : Part :=
  let ns := (now - r.arrival) * 8000 / max 1 (reg p G.memSpeed) + if r.isWrite then 0 else reg p G.memLatFixed
  let p := setReg p (G.portLatMax r.port) (max (reg p (G.portLatMax r.port)) ns)
  let p := if r.deadline < now then addReg p (G.portLate r.port) 1 else p
  if r.isWrite then
    if r.whole then p
    else
      let z := readOutcome p r.line r.port ecc
      if z.2 then dropWrite z.1 i r else z.1
  else
    let z := readOutcome p r.line r.port ecc
    say z.1 (if z.2 then .memPoison r.port r.at_ else .memData r.port r.at_ r.bytes)

/-- The command that the picked head needs issues (R277, R278, R286): a column access to its open row, a precharge of another row, or an
activate. [DEDUCED, assumption 14] -/
def issueFor (p : Part) (i : SubCh) (bank : Nat) (r : DReq) (now : Nat) (ecc : EccOutcome) (sampled : Bool) : Part :=
  let s := subAt p i
  let row := (bankRow p (64 * r.line)).2
  match kfind bank s.rows with
  | some x =>
    if x = row then
      let l := (kget (fun _ => []) s.banks bank).erase r
      let rows := if reg p G.memIdleClose = 0 then kdel bank s.rows else s.rows
      let s := { s with banks := kset (fun _ => []) s.banks bank l, rows := rows, used := kput bank now s.used, cols := s.cols + 1 }
      noteCmd (serve (setSub p i s) i r now ecc) i bank (if r.isWrite then 3 else 2) r.at_ (if r.isWrite then r.bytes else [])
    else noteCmd (setSub p i { s with rows := kdel bank s.rows }) i bank 1 x []
  | none =>
    let s := { s with rows := kput bank row s.rows, used := kput bank now s.used, pointer := (bank + 1) % 64 }
    let full := decide (4 ≤ s.nr.length)
    let s := if sampled && !full then { s with nr := s.nr ++ [(bank, row)] } else s
    let p := noteCmd (setSub p i s) i bank 0 row []
    if sampled && full then addReg p G.nrDropped 1 else p

/-- A neighbour sequence may start, and for which sample (R286). -/
def sequenceNow (p : Part) (s : SubChSt) (now : Nat) : Option (Nat × Nat) :=
  let gap := 2 ^ reg p G.memNrK * 4 * reg p G.memSpeed / 8000
  if (s.nrAt.map fun t => decide (t + gap ≤ now)).getD true then s.nr.head? else none

/-- One command slot of a sub-channel (R277). [DEDUCED, assumption 14] -/
def commandSlot (p : Part) (i : SubCh) (now : Nat) (ecc : EccOutcome) (sampled : Bool) : Part :=
  if reg p G.memState ≠ 2 then p
  else
    let p := raiseCredit p
    let p := moveInput i now (subAt p i).input.length p
    let p := setSub p i { subAt p i with slots := (subAt p i).slots + 1 }
    let used (q : Part) : Part := setSub q i { subAt q i with busy := (subAt q i).busy + 1 }
    let s := subAt p i
    match s.owed.find? fun e => decide (4 ≤ e.2) with
    | some e => used (issueRefresh p i e.1)
    | none =>
      if s.due ∧ pauseAllowed p i now then used (takePause p i now)
      else
        match refreshNow p s with
        | some k => used (issueRefresh p i k)
        | none =>
          match sequenceNow p s now with
          | some x => used (setSub p i { s with nr := s.nr.drop 1, nrAt := some now, rows := kdel x.1 s.rows })
          | none =>
            let s := phased p s now
            let p := setSub p i s
            match pickHead p s now with
            | none => p
            | some e =>
              if (kfind e.1 s.rows).isNone ∧ s.nr.any fun x => decide (x.1 = e.1) then p
              else used (issueFor p i e.1 e.2 now ecc sampled)

/-- A row that has been idle for MEM_IDLE_CLOSE memory clocks, four to a controller cycle, is precharged (R278). -/
def idleClose (p : Part) (i : SubCh) (bank now : Nat) : Part :=
  let s := subAt p i
  if (kfind bank s.rows).isSome ∧ reg p G.memIdleClose ≤ 4 * (now - kget (fun _ => 0) s.used bank) then
    noteCmd (setSub p i { s with rows := kdel bank s.rows }) i bank 1 0 []
  else p

/-- A refresh of a key falls due (R283, R285). -/
def oweRefresh (p : Part) (i : SubCh) (key : Nat) : Part :=
  let s := subAt p i
  let d := kget (fun _ => 0) s.owed key
  let p := if readsWait p s key then addReg p G.refPostponed 1 else p
  let p := if d = 3 then addReg p G.refForced 1 else p
  showOwed (setSub p i { s with owed := kset (fun _ => 0) s.owed key (min 4 (d + 1)) }) i

/-- The refresh of a rank falls due: one of all its banks, or in same-bank mode one for each of the four bank indices (R283, R285). -/
def refreshDue (p : Part) (i : SubCh) (rank : Nat) : Part :=
  if reg p G.memState ≠ 2 then p
  else if reg p G.memRefreshMode = 0 then oweRefresh p i (4 * rank)
  else (List.range 4).foldl (fun q b => oweRefresh q i (4 * rank + b)) p

/-- The refresh-rate field of a rank is read (R272, R283). -/
def tempRead (p : Part) (i : SubCh) (rank : Nat) (hot : Bool) : Part :=
  let s := subAt p i
  let s := { s with hot := kset (fun _ => 0) s.hot rank (ofBool hot) }
  let p := setReg (setSub p i s) (G.scHot i) (ofBool !s.hot.isEmpty)
  let p := if hot then orReg p G.memFlags 2 else p
  setReg p G.tRefiNs (if (List.finRange 8).any fun j => !(subAt p j).hot.isEmpty then 1950 else 3900)

/-- A quiet window ends: each sub-channel owes a pause (R289, R290). -/
def endQuiet (p : Part) (state : Nat) : Part :=
  let p := { p with dram := { p.dram with quietTo := none } }
  setReg ((List.finRange 8).foldl (fun q j => setSub q j { subAt q j with after := true, due := true }) p) G.quietState state

/-- A sub-channel reads its DQS oscillator (R287, R288, R290): the soft margin makes its pause due, and the hard margin ends a quiet window. -/
def oscRead (p : Part) (i : SubCh) (drift : Nat) : Part :=
  let s := subAt p i
  let util := s.busy * 1000000 / max 1 s.slots
  let p := setReg (setReg (setSub p i { s with busy := 0, slots := 0 }) (G.scUtil i) util) (G.scDrift i) drift
  if reg p G.quietState = 1 then
    if 25 ≤ drift then endQuiet (orReg (raiseNow p 0xB86) G.memFlags 1) 2 else p
  else if 10 ≤ drift then setSub p i { subAt p i with due := true }
  else p

/-- A pause of sub-channel i falls due or has been due (R287, R288): it is taken where it may begin, else it stays due. -/
def pauseDue (p : Part) (i : SubCh) (now : Nat) : Part :=
  let s := subAt p i
  let expired := decide ((s.pauseAt.getD 0) + reg p (G.scRtInterval i) * cyclesPerMs p ≤ now)
  if reg p G.memState ≠ 2 ∨ !(s.due || s.after || expired || decide (10 ≤ reg p (G.scDrift i))) then p
  else if pauseAllowed p i now then takePause p i now
  else setSub p i { s with due := true }

/-- A write of QUIET_REQ is accepted or refused (R289). Answers the code. -/
def quietCode (p : Part) (ms : Nat) : Nat := if reg p G.quietMax < ms ∨ 2 ≤ reg p G.quietState then 0x06 else 0

/-- An accepted quiet request takes effect at a tick boundary (R289): the window lasts ms of Datum time. -/
def takeQuiet (p : Part) (ms : Nat) : Part :=
  if ms = 0 then (if reg p G.quietState = 1 then endQuiet p 3 else p)
  else setReg { p with dram := { p.dram with quietTo := some (datumNow p + ms * (secondUnits / 1000)) } } G.quietState 1

/-- The L ms of a quiet window have passed (R289). -/
def quietEnd (p : Part) : Part :=
  match p.dram.quietTo with
  | some t => if t ≤ datumNow p ∧ reg p G.quietState = 1 then endQuiet p 3 else p
  | none => p

/-- Nothing waits in a sub-channel. -/
def subIdle (s : SubChSt) : Bool := s.input.isEmpty && s.banks.all fun e => e.2.isEmpty

/-- The controller enters self-refresh (R292): owed refreshes paid, every bank precharged. A verdict that waits and reserves DRAM makes it abandon
the entry (Table 12-8). -/
def enterSelfRefresh (p : Part) (now : Nat) : Part :=
  let idle := reg p G.memSrIdle
  if reg p G.memState = 2 ∧ !admittedFlow p ∧ idle ≠ 0 ∧ p.dram.lastReq + idle * cyclesPerUs p ≤ now ∧
      !p.adm.jobs.any (reservesMemory p) ∧
      (List.finRange 8).all (fun j => subIdle (subAt p j)) then
    let p := (List.finRange 8).foldl (fun q j => showOwed (setSub q j { subAt q j with rows := [], owed := [] }) j) p
    setReg { p with dram := { p.dram with srSince := some now } } G.memState 4
  else p

/-- The exit from self-refresh (R293), for a request that waits or an admission that needs DRAM: owed counts are 0, and where it lasted longer
than the interval every such sub-channel has paused. -/
def exitSelfRefresh (p : Part) (now : Nat) : Part :=
  if reg p G.memState = 4 ∧ ((List.finRange 8).any (fun j => !subIdle (subAt p j)) ∨ p.adm.jobs.any (reservesMemory p)) then
    let since := p.dram.srSince.getD now
    let p := setReg { p with dram := { p.dram with srSince := none, lastReq := now } } G.memState 2
    (List.finRange 8).foldl (fun q j =>
      let q := showOwed (setSub q j { subAt q j with owed := [], rows := [] }) j
      if reg q (G.scRtInterval j) * cyclesPerMs q < now - since then takePause q j now else q) p
  else p

/-- Commands of a retry buffer are issued again, oldest first (R294): rows open and close as they did. -/
def replay (p : Part) (l : List DCmd) : Part :=
  l.foldr (fun c q =>
    let i : SubCh := ⟨c.sub % 8, Nat.mod_lt _ (by decide)⟩
    let s := subAt q i
    if c.kind = 0 then setSub q i { s with rows := kput c.bank c.where_ s.rows }
    else if c.kind = 1 then setSub q i { s with rows := kdel c.bank s.rows }
    else q) p

/-- A driver reports a parity error (R294, R295): the channel's commands are replayed; the third alert in one sequence fails the memory, and
the active part of a pair hands over where PAIR_AUTO allows it (Table 14-4). -/
def alert (p : Part) (c cyc : Nat) : Part :=
  if reg p G.memState ≠ 2 then p
  else
    let p := atCyc p cyc
    let n := kget (fun _ => 0) p.dram.alerts c + 1
    let p := { p with dram := { p.dram with alerts := kset (fun _ => 0) p.dram.alerts c n } }
    if 3 ≤ n then autoHandover (raiseNow (failMemory p 2) 0xB87) 2 3 cyc
    else
      let p := orReg (addReg p G.replays 1) G.memFlags 4
      let shut (q : Part) (j : Nat) : Part :=
        let i : SubCh := ⟨j % 8, Nat.mod_lt _ (by decide)⟩
        setSub q i { subAt q i with rows := [] }
      replay (shut (shut p (2 * c)) (2 * c + 1)) (kget (fun _ => []) p.dram.retry c)

/-- Scrub reads the next line on port P4 (R297, R298); a correction is written back, an uncorrectable line is recorded. -/
def scrubLine (p : Part) (addr : Nat) (ecc : EccOutcome) : Part :=
  let line := p.dram.scrubAt
  let p1 := raiseCredit p
  if reg p G.scrubPeriod = 0 ∨ reg p G.zfState = 1 ∨ reg p G.memState ≠ 2 ∨ addr / 64 ≠ line ∨ !mayMove p1 4 64 then p
  else
    let p := (readOutcome (moveBytes p1 4 64) line 4 ecc).1
    if reg p G.apDramSize ≤ 64 * (line + 1) then addReg { p with dram := { p.dram with scrubAt := 0 } } G.scrubPasses 1
    else { p with dram := { p.dram with scrubAt := line + 1 } }

/-- A page is filled: it lies below the frontier or is marked (R301). -/
def pageFilled (p : Part) (g : Nat) : Bool := decide (g * 65536 < reg p G.zfFrontier) || (kfind g p.dram.filled).isSome

/-- The first unfilled page of the ring region of queue q. -/
def ringPage (p : Part) (q : Nat) : Option Nat :=
  let first := reg p (G.sqRingBase q) / 65536
  ((List.range (reg p (G.sqRingSize q) / 65536)).map (first + ·)).find? fun g => !pageFilled p g

/-- The sweep stands at the first page that is not filled; marks below it are dropped. -/
def passFilled (p : Part) : Nat → Nat → Part
  | 0, g => setReg p G.zfFrontier (g * 65536)
  | fuel + 1, g =>
    if (kfind g p.dram.filled).isSome then passFilled { p with dram := { p.dram with filled := kdel g p.dram.filled } } fuel (g + 1)
    else setReg p G.zfFrontier (g * 65536)

/-- ZF_RING_DONE (R301). -/
def ringDone (p : Part) : Nat :=
  (List.range 64).foldl (fun a q => a + ofBool (decide (reg p (G.sqEnable q) = 1) && (decide (reg p G.zfState = 0) || (ringPage p q).isNone)) * 2 ^ q) 0

/-- The zero-fill writes one page (R301): of the rings that come first, then of the sweep. An uncorrectable line in it is healed. -/
def fillStep (p : Part) : Part :=
  let p1 := raiseCredit p
  if reg p G.zfState = 0 ∨ reg p G.memState ≠ 2 ∨ reg p G.apDramSize ≤ reg p G.zfFrontier ∨ !mayMove p1 4 65536 then p
  else
    let p := moveBytes p1 4 65536
    let heal (q : Part) (g : Nat) : Part := { q with mem := { q.mem with bad := q.mem.bad.filter fun b => decide (b / 1024 ≠ g) } }
    match p.dram.first.findSome? (ringPage p) with
    | some g => heal { p with dram := { p.dram with filled := kput g 1 p.dram.filled } } g
    | none =>
      let g := reg p G.zfFrontier / 65536
      passFilled (heal p g) (p.dram.filled.length + 1) (g + 1)

/-- Every page is filled (R301). -/
def fillDone (p : Part) : Part :=
  if reg p G.zfState = 1 ∧ reg p G.memState = 2 ∧ reg p G.apDramSize ≤ reg p G.zfFrontier then
    let p := setReg (setReg p G.zfState 0) G.zfDoneTick p.time.tick
    publishTotals { p with dram := { p.dram with filled := [], first := [] } } p.gz.regs
  else p

/-- Two new keys are drawn (R300): the space is wiped, and a zero-fill begins. [DESIGN CHOICE, assumption 7] -/
def drawKeys (p : Part) : Part :=
  let d := p.life.draws
  let p := { p with life := { p.life with draws := d + 2 } }
  let p := { p with dram := { p.dram with keys := (d + 1, d + 2), filled := [], scrubAt := 0 }, mem := { p.mem with dram := [], bad := [] } }
  addReg (setReg (setReg p G.zfState 1) G.zfFrontier 0) G.keyDraws 1

/-- Refills for ticks up to m that no request has shown have been served in time, as admission proves (R17); port P0 has moved their lines (R179).
[DEDUCED, assumption 33] -/
def serveWants (p : Part) (m : Nat) : Part :=
  let due (w : Want) : Bool := decide (w.tick ≤ m)
  let lines := ((p.dram.wants.filter due).map fun w => (linesTouched w.addr w.len).length).sum
  if lines = 0 then p
  else addReg { p with dram := { p.dram with wants := p.dram.wants.filter fun w => !due w } } (G.portBytes 0) (64 * lines)

/-- Lines whose P0 refill, issued for a tick up to m, has not been served (R17). [DEDUCED, assumption 33] -/
def lateLines (p : Part) (m : Nat) : List Nat :=
  ((p.dram.subs.toList.flatMap fun s => s.input ++ s.banks.flatMap (·.2)).filter fun r =>
    decide (r.port = 0 ∧ r.need ≤ m) && !r.isWrite).map (·.line)

/-- What stands in a tick's plan in place of a span whose refill is late (R17, Table 11-6): its spans, and the first late sample with the number of
late ones, if any is. -/
structure Refilled where
  spans : List Span
  first : Option Nat
  lost  : Nat

/-- A span with its late samples as gap. -/
def splitSpan (p : Part) (c : Chan) (late : List Nat) (s : Span) : Refilled :=
  match s.src with
  | .play d start pos =>
    if late.isEmpty ∨ d = zeroSeg ∨ (descOf p d).residence = 1 then ⟨[s], none, 0⟩
    else
      let i := max 1 (interpOf p c)
      let isLate (n : Nat) : Bool := late.contains (sampleLine p d pos ((n - start) / i))
      let ns := (List.range (s.end_ - s.begin_)).map (s.begin_ + ·)
      let src (n : Nat) : Src := if isLate n then .gap (planned p (G.gapSeg c)) n else s.src
      let cut := ns.foldl (fun (l : List Span) n =>
        match l with
        | x :: r => if isLate x.begin_ = isLate n then { x with end_ := n + 1 } :: r else ⟨n, n + 1, src n⟩ :: l
        | [] => [⟨n, n + 1, src n⟩]) []
      ⟨cut.reverse, ns.find? isLate, (ns.filter isLate).length⟩
  | _ => ⟨[s], none, 0⟩

/-- Gaps that follow one another are one, looped from its first sample (R121): was is the last gap so far, its first sample and the sample
after it. -/
def joinGaps : Nat × Nat → List Span → List Span × (Nat × Nat)
  | was, [] => ([], was)
  | was, s :: r =>
    match s.src with
    | .gap d start =>
      let start := if was.2 = s.begin_ then was.1 else start
      let x := joinGaps (start, s.end_) r
      ({ s with src := .gap d start } :: x.1, x.2)
    | _ =>
      let x := joinGaps was r
      (s :: x.1, x.2)

/-- The repetition counted by an operation is short after all. -/
def shortRep (start : Nat) : RegOp → RegOp
  | .rep done short s first => if s = start then .add short 1 else .rep done short s first
  | o => o

/-- The plays whose repetition that began at start has its seam in a closed plan. -/
def repOf (start : Nat) (l : List RegOp) : Option Nat :=
  l.findSome? fun o =>
    match o with
    | .rep _ _ s first => if s = start then some first else none
    | _ => none

/-- The repetition that began at start in the plan of tick m has lost samples to a late refill and is short (R163, R266): one whose seam the plan
holds is counted so there, and where its play goes on a further one takes its place; one that still plays ends short. [DEDUCED, assumption 33] -/
def shortPlay (p : Part) (c : Chan) (m start : Nat) : Part :=
  let t := planOf p c m
  let s := seqOf p c
  match repOf start t.ops, s.act with
  | some first, .play x =>
    let p := putPlan p c { t with ops := t.ops.map (shortRep start) }
    if x.firstEnd = first then setSeq p c { s with act := .play { x with left := x.left.map (· + 1) } } else p
  | some _, _ => putPlan p c { t with ops := t.ops.map (shortRep start) }
  | none, .play x => if x.start = start then setSeq p c { s with act := .play { x with short := true } } else p
  | none, _ => p

/-- What a late refill of a span's samples leaves beside the gap (R17, R267): UNDERRUN at the first of them, the repetition short, and for a stream
SQ_LATE_REFILL and SQ_GAP_SAMPLES. -/
def countLate (p : Part) (c : Chan) (m : Nat) (s : Span) (x : Refilled) : Part :=
  match s.src, x.first with
  | .play d start _, some n =>
    let q := shortPlay (addPulse p c m n (0x800 + c.val) 0) c m start
    let y := descOf q d
    if y.residence = 2 then
      let i := bits y.base 5 0
      addReg (addReg (orReg q (G.sqFlags i) 4) (G.sqLateRefill i) 1) (G.sqGapSamples i) x.lost
    else q
  | _, _ => p

/-- At the start of tick m - 1 the samples of tick m whose refill has not arrived play as gap; the plan's marker edges stay (R17, R163).
[DEDUCED, assumption 33] -/
def lateRefill (p : Part) (c : Chan) (m : Nat) (late : List Nat) : Part :=
  let t := planOf p c m
  let cut := t.spans.map (splitSpan p c late)
  let was := (dpOf p c).late
  let joined := joinGaps was (cut.flatMap (·.spans))
  let p := if joined.2 = was then p else setDp p c { dpOf p c with late := joined.2 }
  let p := if joined.1 = t.spans then p else putPlan p c { t with spans := joined.1 }
  (t.spans.zip cut).foldl (fun q e => countLate q c m e.1 e.2) p

end Sys2Proof.Machine
end

