-- ==== Sys2Proof/Machine/LifeOps.lean ====
section
/-!
DEFINITION. Reset, start-up, firmware, the user NV image, the shutdown self-test, the lifecycle, keys and attestation, presence and tamper
(chapter 15, R64, R65).
-/

namespace Sys2Proof.Machine

/-- Values of the NV store and of the part's identity, which every reset leaves (R345, R351). [DEDUCED, assumption 73] -/
def survives (k : Nat) : Bool :=
  decide ((k / 256 = 0x1000 ∧ k ≠ G.fwVersion) ∨ k / 256 = 0x1010) ||
    [G.gzLock, G.lcState, G.lcTransitions, G.tamperCount, G.tamperLast, G.tamperLatched, G.fwSlotActive, G.fwSecurityFloor,
     G.keyDraws].contains k

/-- Entries of Output Watch that are written: what was written before a self-test stays after it, through the reset that ends it (R248, R357).
[DEDUCED, assumption 89] -/
def watchKept (k : Nat) : Bool :=
  decide (k / 256 = 0x1820 ∨ k / 256 / 256 = 0x25) && ((entryOf k).map fun e => decide (e.acc = .rw ∧ e.kind ≠ .w1c)).getD false

/-- The part after a reset with a cause (R344, R345): what R134 lists is cleared, new DRAM keys are drawn, and the NV store and the flash are as
they were; pads keep the level that stands at them. [DEDUCED, assumption 73] -/
def resetPart (p : Part) (cause : Nat) : Part :=
  let x := p.life
  let life := { LifeSt.blank with powered := x.powered, rstN := x.rstN, held := x.held, shdn := x.shdn, bench := x.bench, used := x.used,
                                  image0 := x.image0, image1 := x.image1, inForce := x.inForce, intent := x.intent, flash0 := x.flash0,
                                  flash1 := x.flash1, draws := x.draws, ik := x.ik, nk := x.nk, ak := x.ak, stmt := x.stmt, sealOk := x.sealOk }
  let once := (p.gz.bound.filter fun e => decide (e.1 / 256 = 0x1010)).foldl (fun m e => kset regDefault m e.1 e.2) p.gz.regs
  let tested := decide (cause = 5)
  let stays (k : Nat) : Bool := survives k || (tested && watchKept k)
  let regs := kset regDefault (kset regDefault (kkeep stays once) G.resetCause cause) G.sealIntact (ofBool x.sealOk)
  let pend := if tested then kkeep watchKept p.gz.pend else []
  let released := (if x.marksOn then [Out.markerPins false] else []) ++ if x.applied ∧ !isShadow p then [Out.evioPins false] else []
  let pads := p.fab.evio.map fun e => (e.1, (⟨e.2.pad, e.2.pad, false, 0, 0, 0, false, 0, 0⟩ : PinSt))
  let c := Part.cold
  drawKeys { c with life := life, gz := { c.gz with regs := regs, pend := pend }, fab := { c.fab with evio := pads }, sent := released ++ p.sent }

/-- A presence window is open (R64, R65). -/
def presenceOpen (p : Part) : Bool := decide (reg p G.presenceOpen = 1)

/-- Any presence window closes (R65). [DESIGN CHOICE, assumption 50] -/
def closePresence (p : Part) : Part := setReg { p with time := { p.time with presentAt := 0 } } G.presenceOpen 0

/-- PRESENCE_N has been held (R65): the window opens, or its 120 s begin again. [DESIGN CHOICE, assumption 50] -/
def openPresence (p : Part) (held released : Nat) : Part :=
  if 20 ≤ held ∧ 1000 ≤ released then setReg { p with time := { p.time with presentAt := p.time.tick + 1 } } G.presenceOpen 1 else p

/-- PRESENCE_LEFT (Table 03-3). -/
def presenceLeft (p : Part) : Nat :=
  if presenceOpen p then 120000 - (p.time.tick + 1 - p.time.presentAt) * 1000 / max 1 (reg p G.ticksPerSecond) else 0

/-- The seal loop is found open (R369). -/
def breakSeal (p : Part) (cyc : Nat) : Part :=
  let p := setReg { p with life := { p.life with sealOk := false } } G.sealIntact 0
  if reg p G.lcState = 0 then p
  else
    let p := addReg (setReg p G.tamperLatched 1) G.tamperCount 1
    raiseNow (closePresence (setReg (atCyc p cyc) G.tamperLast (timeRecord (datumNow p)))) 0xB8A

/-- The header bytes 0 to 63 of a firmware slot (Table 15-2). -/
def fwHeader (s : FwSlot) : List Byte :=
  toBytesLE 4 s.magic ++ toBytesLE 2 s.format ++ toBytesLE 2 0 ++ toBytesLE 4 s.version ++ toBytesLE 4 s.security ++ toBytesLE 4 s.length ++
    toBytesLE 12 0 ++ toBytesLE 32 s.digest

/-- A slot verifies (R347). Key 0 is the Niornek firmware key. -/
def fwVerifies (p : Part) (s : FwSlot) : Bool :=
  decide (s.magic = 0x4B584657 ∧ s.format = 1 ∧ s.length = s.body.length ∧ s.length % 4096 = 0 ∧ s.length ≤ 8380416 ∧
    reg p G.fwSecurityFloor ≤ s.security) &&
    Config.slhVerify (Config.publicKey 0) (fwHeader s) (toBytesLE 7856 s.signature) && decide (Config.sha256 s.body = s.digest)

/-- The slot image that the bytes of a FW_IMAGE object hold (Table 15-2). -/
def fwParse (l : List Byte) : FwSlot :=
  let f (o n : Nat) : Nat := ofBytesLE ((l.drop o).take n)
  ⟨f 0 4, f 4 2, f 8 4, f 12 4, f 16 4, f 32 32, f 64 7856, (l.drop 8192).take (f 16 4)⟩

/-- The content of firmware slot i. -/
def fwSlot (p : Part) (i : Nat) : Option FwSlot := if i = 0 then p.life.flash0 else p.life.flash1

/-- Slot i holds an image that verifies. -/
def slotOk (p : Part) (i : Nat) : Bool := ((fwSlot p i).map (fwVerifies p)).getD false

/-- A FW_IMAGE is checked and its writing begins (R348, R349). Answers the code. -/
def fwBegin (p : Part) (s : FwSlot) : Part × Nat :=
  let lc := reg p G.lcState
  if !presenceOpen p then (p, 0x08)
  else if lc = 4 ∨ (lc = 2 ∧ !p.life.recovery) then (p, 0x0C)
  else if p.life.fwNew.isSome ∨ !fwVerifies p s then (setReg p G.fwUpdateState (if p.life.fwNew.isSome then 2 else 4), 0x06)
  else (setReg { p with life := { p.life with fwNew := some s } } G.fwUpdateState 2, 0)

/-- The image is written (R348, R349): in boot recovery to slot 0, and the part resets. -/
def fwFinish (p : Part) : Part :=
  match p.life.fwNew with
  | none => p
  | some s =>
    if p.life.recovery then
      resetPart (setReg { p with life := { p.life with flash0 := some s, fwNew := none } } G.fwSlotActive 0) 7
    else
      let l := { p.life with fwNew := none }
      let l := if reg p G.fwSlotRunning = 0 then { l with flash1 := some s } else { l with flash0 := some s }
      setReg { p with life := l } G.fwUpdateState 3

/-- FW_ACTIVATE (R349). Answers the code. -/
def fwSelect (p : Part) (v : Nat) : Part × Nat :=
  if !presenceOpen p then (p, 0x08) else if 1 < v ∨ !slotOk p v then (p, 0x06) else (setReg p G.fwSlotActive v, 0)

/-- The bytes of an NV image: its sequence number and its values, each with its key (assumption 13). [DESIGN CHOICE, assumption 13] -/
def nvBytes (i : NvImage) : List Byte :=
  toBytesLE 8 i.seq ++ i.values.flatMap fun e => toBytesLE 4 e.1 ++ toBytesLE (ceilDiv (regWidth e.1) 8) e.2

/-- The NV image in a slot that verifies under the NV key in force (R351). -/
def nvValid (p : Part) (i : Option NvImage) : Option NvImage := i.filter fun x => decide (x.key = p.life.nk ∧ p.life.nk ≠ 0)

/-- The slot of the valid image with the higher sequence number (R351). -/
def nvBest (p : Part) : Option (Nat × NvImage) :=
  match nvValid p p.life.image0, nvValid p p.life.image1 with
  | some a, some b => if a.seq < b.seq then some (1, b) else some (0, a)
  | some a, none => some (0, a)
  | none, some b => some (1, b)
  | none, none => none

/-- The factory defaults, then the user NV image (R351): persistent Staged entries of channels enter as pending values. After a self-test the entries
of Output Watch stay as they are (R248). [DEDUCED, assumption 89] -/
def applyNv (p : Part) : Part :=
  let p := { p with life := { p.life with applied := true } }
  match nvBest p with
  | none => setReg p G.nvState (if p.life.image0.isSome ∨ p.life.image1.isSome then 2 else 0)
  | some (i, x) =>
    let p := { p with life := { p.life with inForce := i } }
    let p := x.values.foldl (fun q e =>
      match entryOf e.1 with
      | none => q
      | some t =>
        if reg p G.resetCause = 5 ∧ watchKept e.1 then q
        else if t.cls = .staged ∧ (keyChan e.1).isSome then { q with gz := { q.gz with pend := kput e.1 e.2 q.gz.pend } }
        else setReg q e.1 e.2) p
    setReg (setReg p G.nvState 1) G.nvDigest (Config.sha256 (nvBytes x))

/-- The values that NV_COMMIT takes (R352): of every persistent entry that does not hold its default, pending values first, and the working copy
of Fixed entries, REFIN_FREQ among them, which the manual does not mark persistent (R57, R60). [DESIGN CHOICE, assumption 85] -/
def nvSnapshot (p : Part) : KMap Nat :=
  let take (m : KMap Nat) (k : Nat) : KMap Nat :=
    match entryOf k with
    | none => m
    | some e =>
      if (e.persist ∨ e.cls = .fixed) ∧ e.acc ≠ .wo1 ∧ k ≠ G.gzLock then
        kset regDefault m k (if e.cls = .fixed then (kfind k p.gz.work).getD (reg p k) else pendingValue p k)
      else m
  ((p.gz.regs ++ p.gz.pend ++ p.gz.bound ++ p.gz.work).map (·.1)).foldl take []

/-- NV_COMMIT TRUE (R352). Answers the code. -/
def nvBegin (p : Part) : Part × Nat :=
  let lc := reg p G.lcState
  if !presenceOpen p then (p, 0x08)
  else if lc = 0 ∨ lc = 4 then (p, 0x0C)
  else if p.life.commit.isSome then (p, 0x06)
  else (setReg { p with life := { p.life with commit := some (nvSnapshot p) } } G.nvState 3, 0)

/-- The pattern set that the running firmware tests with (R353). -/
def coverage (p : Part) : Nat := Config.coverageId (reg p G.fwVersion)

/-- The Benchmark record of a finished test (Table 15-6). -/
def benchBytes (p : Part) (kind : Nat) (r : PhaseResult) : List Byte :=
  let b := toBytesLE 1 kind ++ toBytesLE 3 0 ++ toBytesLE 4 (coverage p) ++ toBytesLE 4 (reg p G.fwVersion) ++ toBytesLE 4 r.durationMs ++
    toBytesLE 8 r.patterns ++ toBytesLE 16 r.misr ++ toBytesLE 2 r.vddMin ++ toBytesLE 2 r.vddMax ++ toBytesLE 2 r.vddaMin ++
    toBytesLE 2 r.vddaMax ++ toBytesLE 2 (ofSigned 16 r.tjMin) ++ toBytesLE 2 (ofSigned 16 r.tjMax) ++ toBytesLE 2 r.refinErr ++
    toBytesLE 2 0 ++ toBytesLE 4 0x9A5C3E71
  b ++ toBytesLE 4 (crc32c 0 (b.take 60))

/-- A field of the Benchmark record. -/
def benchField (p : Part) (o n : Nat) : Nat := ofBytesLE ((p.life.bench.drop o).take n)

/-- ST_VALIDITY of the record as it stands (Table 15-7). -/
def validityOf (p : Part) : Nat :=
  let fw := reg p G.fwVersion
  let cov := benchField p 4 4
  let tj (o : Nat) : Int := toSigned 16 (benchField p o 2)
  let coldest : Int := if reg p G.ordering = 1 then -400 else 0
  let checks := [
    decide (benchField p 56 4 = 0x9A5C3E71), decide (benchField p 60 4 = crc32c 0 (p.life.bench.take 60)),
    decide (benchField p 16 8 = Config.patternCount fw cov),
    decide (7275 ≤ benchField p 40 2 ∧ benchField p 42 2 ≤ 7725 ∧ 9700 ≤ benchField p 44 2 ∧ benchField p 46 2 ≤ 10300),
    decide (tj 50 < 950 ∧ coldest ≤ tj 48), decide (benchField p 52 2 ≤ 5000),
    decide (cov = coverage p ∧ benchField p 8 4 = fw ∧ benchField p 12 4 ≤ 8000), !p.life.used,
    decide (benchField p 24 16 = Config.goodMisr fw cov)]
  checks.zipIdx.foldl (fun a e => a + ofBool e.1 * 2 ^ e.2) 0

/-- ST_RESULT that a record of this validity gives (R360). -/
def resultOf (v : Nat) : Nat := if v % 256 ≠ 255 then 3 else if bit v 8 then 1 else 2

/-- ST_VALIDITY and ST_RESULT of the record. -/
def judgeRecord (p : Part) : Part :=
  if p.life.bench.isEmpty then p
  else
    let v := validityOf p
    setReg (setReg p G.stValidity v) G.stResult (resultOf v)

/-- Initial training over the grades from MEM_SPEED_MAX down (R271). -/
def trainAll (p : Part) (b : BootInfo) : Part :=
  [(6400, b.train6400), (5600, b.train5600), (4800, b.train4800)].foldl
    (fun q e => if e.1 ≤ reg p G.memSpeedMax then trainingDone q e.1 e.2 else q) p

/-- Steps 5 and 6 of a full start (R350): training, the test phases and the pattern phase, a record that is already consumed, new keys.
[DEDUCED, assumption 64] -/
def fullTest (p : Part) (b : BootInfo) : Part :=
  let p := trainAll p b
  let r := b.phases
  let fails := r.failBlocks ||| (if b.patternOk then 0 else 16)
  let p := { p with life := { p.life with bench := benchBytes p 2 r, used := true } }
  let pass := decide (fails = 0 ∧ r.misr = Config.goodMisr (reg p G.fwVersion) (coverage p))
  let p := setReg (setReg (setReg p G.stFailBlocks fails) G.stValidity (validityOf p)) G.stResult (if pass then 1 else 2)
  drawKeys p

/-- A transition runs from its step 2 (R364, R365): groups disarmed, queues disabled, subscriptions ended, new keys. -/
def lcWipe (p : Part) : Part :=
  let p := (List.range 16).foldl disarm p
  let p := (List.range 64).foldl (fun q i => enableQueue q i 0) (releaseResv p fun _ => true)
  setReg (drawKeys { p with pl := { p.pl with subs := [] } }) G.lcPhase 3

/-- Start-up (Table 15-3), as far as it goes: boot recovery where no firmware verifies, an interrupted transition first. The Datum that the
boot information names is the one at which the Graticule is aligned (R44).
[DEDUCED, assumption 64] -/
def startUp (p : Part) (b : BootInfo) : Part :=
  if p.life.held ∨ p.life.applied ∨ p.life.recovery ∨ p.life.intent.isSome ∧ reg p G.lcPhase ≠ 0 then p
  else
    let first := reg p G.fwSlotActive % 2
    match [first, 1 - first].find? (slotOk p) with
    | none => { p with life := { p.life with recovery := true } }
    | some i =>
      let s := (fwSlot p i).getD ⟨0, 0, 0, 0, 0, 0, 0, []⟩
      let p := setReg (setReg p G.fwSlotRunning i) G.fwVersion (s.version % 2 ^ 32)
      if p.life.intent.isSome then lcWipe p
      else
        let p := setReg (setReg (applyNv p) G.hostLink 0) G.pcieLink (linkWord b.linkGen b.linkWidth)
        let p := judgeRecord p
        let fast := decide (reg p G.stResult = 1 ∧ reg p G.stForceFull = 0)
        let p := setReg p G.stStartKind (ofBool !fast)
        let p := if fast then trainAll { p with life := { p.life with used := true } } b else fullTest p b
        let p := { p with time := { p.time with locked := true } }
        let p := { p with time := { p.time with datum := b.alignSec * secondUnits } }
        let p := alignGraticule (setReg p G.pipeComp b.pipeComp) b.alignSec
        let p := setReg (setReg p G.stLastStartMs b.startMs) G.fwSecurityFloor (max (reg p G.fwSecurityFloor) s.security)
        let p := setReg { p with life := { p.life with sealOk := !b.sealOpen } } G.sealIntact (ofBool !b.sealOpen)
        let p := if b.sealOpen then breakSeal p 0 else p
        (List.finRange 256).foldl (fun q c => outTick q c q.time.tick) (settleMarkers (if isShadow p then p else say p (.evioPins true)))

/-- The preconditions of a test (R354). -/
def testConditions (r : PhaseResult) : Bool :=
  decide (7275 ≤ r.vddMin ∧ r.vddMax ≤ 7725 ∧ 9700 ≤ r.vddaMin ∧ r.vddaMax ≤ 10300 ∧ r.refinErr ≤ 5000 ∧ r.tjMax < 950)

/-- A test of a kind begins with phase 1 (R353). -/
def beginTest (p : Part) (kind : Nat) : Part :=
  let p := settleMarkers { p with life := { p.life with test := kind, found := none } }
  setReg (setReg (setReg p G.stState 1) G.stPhase 1) G.stFailBlocks 0

/-- Group g stops at the earliest tick, locally, whatever is pending on it (R353). -/
def stopNow (p : Part) (g : Grp) : Part :=
  let st := reg p (G.lgState g)
  let x := grpOf p g
  let t := earliestTick p
  if st = 3 then setReg (setGrp p g { x with startAt := none }) (G.lgState g) 1
  else if st = 2 ∨ st = 5 then setReg (setGrp p g { x with stopAt := some t, restartAt := none, stopGen := none }) (G.lgState g) 4
  else if st = 4 then setGrp p g { x with stopAt := some (min t (x.stopAt.getD t)) }
  else p

/-- SHDN_N acts once nothing that must finish first is in progress (R353, R370): the pair is left, groups stop, the test begins. -/
def tryShutdown (p : Part) : Part :=
  if !p.life.shdn ∨ p.life.test ≠ 0 ∨ p.life.commit.isSome ∨ p.life.intent.isSome ∨ p.pair.handover.isSome then p
  else
    let p := if paired p then leavePair (say p (.pairRequest 2)) else p
    beginTest ((List.finRange 16).foldl stopNow p) 1

/-- SHDN_N is asserted (R353): a fit shadow takes over first. A part in reset only sees the level. -/
def assertShdn (p : Part) : Part :=
  if p.life.shdn then p
  else
    let p := { p with life := { p.life with shdn := true } }
    if p.life.held ∨ p.life.test ≠ 0 then p
    else if reg p G.pairState = 3 ∧ reg p G.pairRole = 1 ∧ shadowFit p ∧ p.pair.handover = none then
      { p with pair := { p.pair with handover := some (p.time.tick + 4, 1) } }
    else tryShutdown p

/-- SHDN_N is released (R357). -/
def releaseShdn (p : Part) : Part :=
  let p := { p with life := { p.life with shdn := false } }
  if p.life.test = 4 then resetPart p 5 else p

/-- ST_CMD RUN (R353, R370). Answers the code. -/
def runTest (p : Part) : Part × Nat :=
  let lc := reg p G.lcState
  if p.life.test ≠ 0 ∨ p.life.shdn then (p, 0x06)
  else if lc = 0 ∨ lc = 4 then (p, 0x0C)
  else if anyRuns p then (p, 0x07)
  else (beginTest p 3, 0)

/-- ST_CMD ABORT (R355): MARKER is never written. Answers the code. -/
def abortTest (p : Part) : Part × Nat :=
  let st := reg p G.stState
  if p.life.test = 0 ∨ 4 ≤ p.life.test ∨ (st ≠ 1 ∧ st ≠ 2) then (p, 0x06)
  else (setReg (setReg p G.stState 5) G.stPhase 0, 0)

/-- What the phases of a test have found so far (R353, R354). -/
def mergeResult (a b : PhaseResult) : PhaseResult :=
  { b with failBlocks := a.failBlocks ||| b.failBlocks, vddMin := min a.vddMin b.vddMin, vddMax := max a.vddMax b.vddMax,
           vddaMin := min a.vddaMin b.vddaMin, vddaMax := max a.vddaMax b.vddaMax, tjMin := min a.tjMin b.tjMin,
           tjMax := max a.tjMax b.tjMax, refinErr := max a.refinErr b.refinErr }

/-- Phase 1 is over (Table 15-4): switches open, pins no longer driven, a running load DMA ends. -/
def quiesce (p : Part) : Part :=
  let p := abortLoad (openSwitches (if isShadow p then p else say p (.evioPins false)))
  { p with fab := { p.fab with evio := p.fab.evio.map fun e => (e.1, { e.2 with drive := false, endAt := 0 }) } }

/-- A phase of the test is over (R353, R354, R359). -/
def phaseDone (p : Part) (r : PhaseResult) : Part :=
  let ph := reg p G.stPhase
  let st := reg p G.stState
  if p.life.test = 0 ∨ 4 ≤ p.life.test ∨ (st ≠ 1 ∧ st ≠ 2) then p
  else if ph = 1 then
    if anyRuns p then p else setReg (setReg (quiesce p) G.stPhase 2) G.stState 2
  else if ph = 2 then
    if !testConditions r then setReg (setReg p G.stPhase 0) G.stState 4
    else
      let b := (p.life.bench ++ List.replicate 64 0).take 56 ++ List.replicate 8 0
      setReg { p with life := { p.life with bench := b, used := false, found := some r } } G.stPhase 3
  else
    let f := (p.life.found.map fun a => mergeResult a r).getD r
    let p := orReg { p with life := { p.life with found := some f } } G.stFailBlocks (r.failBlocks % 32)
    if ph < 7 then setReg p G.stPhase (ph + 1)
    else
      let p := { p with life := { p.life with bench := benchBytes p p.life.test f } }
      judgeRecord (setReg (setReg p G.stPhase 0) G.stState 3)

/-- A test has ended (R355, R357): SELFTEST_END pulses; a test by ST_CMD resets the part once the pulse has passed the fabric, one by SHDN_N leaves it
quiesced while SHDN_N is asserted. [DEDUCED, assumption 63] -/
def endTest (p : Part) (cyc : Nat) : Part :=
  let st := reg p G.stState
  if p.life.test = 0 ∨ 4 ≤ p.life.test ∨ st < 3 then p
  else
    let p := raiseNow (atCyc p cyc) 0xB89
    { p with life := { p.life with test := if p.life.test = 1 ∧ p.life.shdn then 4 else 5 } }

/-- The self-test of a part that resets itself is a tick nearer to the reset (R357), which the rule gives no time: it comes at the second tick
boundary, when the pulse of the end has reached every task. [DESIGN CHOICE, assumption 96] -/
def ageTest (p : Part) : Part := if p.life.test = 5 then { p with life := { p.life with test := 6 } } else p

/-- A transition of Table 15-9. -/
def lcPermitted (was new : Nat) : Bool :=
  [(0, 1), (0, 4), (1, 2), (1, 4), (2, 3), (2, 4), (3, 2), (3, 1), (3, 4)].contains (was, new)

/-- LC_GO TRUE (R363, R364). Answers the code. [DEDUCED, assumption 65] -/
def lcBegin (p : Part) : Part × Nat :=
  let t := reg p G.lcTarget
  if !presenceOpen p then (p, 0x08)
  else if p.life.test ≠ 0 then (p, 0x0B)
  else if !lcPermitted (reg p G.lcState) t ∨ paired p ∨ p.life.intent.isSome then (p, 0x0C)
  else if anyRuns p then (p, 0x07)
  else (lcWipe { p with life := { p.life with intent := some t } }, 0)

/-- The 80-byte key statement (R366). -/
def statementBytes (p : Part) (lc transitions ak nk : Nat) : List Byte :=
  toBytesLE 8 (reg p G.serial) ++ toBytesLE 1 lc ++ toBytesLE 3 0 ++ toBytesLE 4 transitions ++ toBytesLE 32 (Config.publicKey ak) ++
    toBytesLE 32 (Config.publicKey nk)

/-- Keys rotate at a transition into a state (R366). -/
def rotateKeys (p : Part) (target : Nat) : Part :=
  let x := p.life
  if target = 4 then { p with life := { x with ik := 0, nk := 0, ak := 0, stmt := [] } }
  else
    let nk := x.draws + 1
    let ak := x.draws + 2
    let s := Config.slhSign x.ik (statementBytes p target (reg p G.lcTransitions + 1) ak nk)
    { p with life := { x with draws := x.draws + 2, nk := nk, ak := ak, stmt := s } }

/-- The transition is complete (R364, R365, R370): every store is zeroed, NV images, write-once records, lock and tamper latch are erased, keys
rotate, and the part resets, or begins the test that SHDN_N asked for. It waits for the zero-fill where the memory works.
[DEDUCED, assumption 65] -/
def lcFinish (p : Part) : Part :=
  match p.life.intent with
  | none => p
  | some t =>
    if reg p G.zfState = 1 ∧ (reg p G.memState = 2 ∨ reg p G.memState = 4) then p
    else
      let wp := (List.range 256).foldl (fun q c => setReg q (G.wpTable c) 0) p
      let p := { wp with mem := ⟨[], [], [], [], p.mem.dram, p.mem.bad, [], [], false, none⟩, paced := [] }
      let regs := kkeep (fun k => decide (k / 256 ≠ 0x1010)) p.gz.regs
      let p := { p with gz := { p.gz with regs := regs, work := [] } }
      let p := setReg (setReg p G.gzLock 0) G.tamperLatched 0
      let p := { p with life := { p.life with image0 := none, image1 := none, inForce := 0 } }
      let p := rotateKeys p t
      let p := setReg (addReg (setReg p G.lcState t) G.lcTransitions 1) G.lcPhase 0
      let p := { p with life := { p.life with intent := none } }
      if p.life.shdn then tryShutdown p else resetPart p 4

/-- The commit is complete (R352): the slot that was not in force holds the new image. -/
def nvFinish (p : Part) : Part :=
  match p.life.commit with
  | none => p
  | some m =>
    let best := nvBest p
    let i := match best with
      | some (i, _) => 1 - i
      | none => 0
    let x : NvImage := ⟨((best.map (·.2.seq)).getD 0) + 1, p.life.nk, m⟩
    let l := { p.life with commit := none, inForce := i }
    let l := if i = 0 then { l with image0 := some x } else { l with image1 := some x }
    let p := setReg (setReg { p with life := l } G.nvState 1) G.nvDigest (Config.sha256 (nvBytes x))
    tryShutdown (addReg p G.nvCommits 1)

/-- Keys for attestation exist in the lifecycle state (Table 15-8). -/
def mayAttest (p : Part) : Bool := decide (reg p G.lcState ≠ 0 ∧ reg p G.lcState ≠ 4)

/-- A nonce arrives (R368): a new one discards the report held and starts signing. Answers the code. -/
def attBegin (p : Part) (n : Nat) : Part × Nat :=
  if !mayAttest p then (p, 0x0C)
  else if p.life.nonce = some n then (p, 0)
  else (setReg { p with life := { p.life with nonce := some n, report := [] } } G.attState 1, 0)

/-- The first n bytes of a byte string, zeros after its end. -/
def padTo (n : Nat) (l : List Byte) : List Byte := (l ++ List.replicate (n - l.length) 0).take n

/-- Bytes 0 to 8,159 of an attestation report (Table 15-11). -/
def reportBody (p : Part) : List Byte :=
  let s := fwSlot p (reg p G.fwSlotRunning)
  let sec := (s.map (·.security)).getD 0
  let fw := (s.map fun x => Config.sha256 (fwHeader x ++ x.body)).getD 0
  toBytesLE 4 1 ++ toBytesLE 8 (reg p G.serial) ++ toBytesLE 1 (reg p G.stepping) ++ toBytesLE 1 (reg p G.ordering) ++
    toBytesLE 1 (reg p G.lcState) ++ toBytesLE 1 (reg p G.timeState) ++ toBytesLE 4 (reg p G.fwVersion) ++ toBytesLE 4 sec ++
    toBytesLE 4 (reg p G.lcTransitions) ++ toBytesLE 4 (reg p G.tamperCount) ++ toBytesLE 32 (p.life.nonce.getD 0) ++ toBytesLE 32 fw ++
    toBytesLE 32 (reg p G.nvDigest) ++ toBytesLE 32 (configDigest p) ++ toBytesLE 12 (timeRecord (datumNow p)) ++
    toBytesLE 1 (reg p G.stResult) ++ toBytesLE 1 (reg p G.tamperLatched) ++ toBytesLE 1 (reg p G.pairRole) ++ toBytesLE 1 0 ++
    padTo 64 p.life.bench ++ toBytesLE 32 (Config.publicKey p.life.ak) ++ toBytesLE 32 (Config.publicKey p.life.nk) ++ padTo 7856 p.life.stmt

/-- Signing is complete (R368). -/
def attFinish (p : Part) : Part :=
  if reg p G.attState = 1 then
    let b := reportBody p
    setReg { p with life := { p.life with report := b ++ padTo 17088 (Config.slhSign p.life.ak b) } } G.attState 2
  else p

/-- PWR_OK has been asserted with the rails in range (R344, R373): the part is released from reset unless RST_N is asserted. -/
def powerOn (p : Part) (ms : Nat) (rails : Bool) : Part :=
  if p.life.powered ∨ ms < 10 ∨ !rails then p
  else resetPart { p with life := { p.life with powered := true, held := p.life.rstN } } 1

/-- PWR_OK is deasserted or power is lost (R344): the part is in reset with every switch open. -/
def powerLoss (p : Part) : Part :=
  if !p.life.powered then p
  else resetPart { p with life := { p.life with powered := false, held := true } } 1

/-- RST_N is asserted or released (R344). -/
def resetPin (p : Part) (asserted : Bool) : Part :=
  if asserted then
    if p.life.rstN then p else resetPart { p with life := { p.life with rstN := true, held := true } } 2
  else { p with life := { p.life with rstN := false, held := !p.life.powered } }

/-- A monitored rail was out of range (R374, Table 15-1): 10 µs reset the part. -/
def supplyReset (p : Part) (ns : Nat) : Part := if 10000 ≤ ns ∧ !p.life.held then resetPart p 6 else p

/-- RESET_CMD TRUE (Table 15-1). Answers the code. -/
def commandReset (p : Part) : Part × Nat := if anyRuns p then (p, 0x07) else (resetPart p 3, 0)

end Sys2Proof.Machine
end

