-- ==== Sys2Proof/Machine/Reads.lean ====
section
/-!
DEFINITION. What the Gazetteer's entries read as (R62): values in force, values that follow from the state of a unit, pending values, and
the contents of bulk objects.
-/

namespace Sys2Proof.Machine

/-- Bits for the numbers of a list. -/
def maskOf (l : List Nat) : Nat := l.foldl (fun a i => a ||| 2 ^ i) 0

/-- Entries of the edge store in use (EDGE_IN_USE, Table 05-9). -/
def edgesUsed (p : Part) : Nat :=
  let used := edgesInUse p
  ((List.range 65536).filter fun i => used.any fun r => decide (r.1 ≤ i ∧ i < r.2)).length

/-- EV_LATCH of channel c: the event latches that hold a pulse (Table 06-8). -/
def evLatched (p : Part) (c : Nat) : Nat := maskOf ((List.range 8).filter fun i => (latchAt p (chLatch c i)).isSome)

/-- JMP_NEXT_AT of channel c: the earliest J0 of its pending jumps (Table 07-6); 0 without one. -/
def nextJump (p : Part) (c : Nat) : Nat := (((pendingJumps (inForce p) c).map (·.j0)).min?).getD 0

/-- The public half of a device key by its draw; 0 where there is none (Table 15-15). -/
def keyPub (n : Nat) : Nat := if n = 0 then 0 else Config.publicKey n

/-- Entries that show what the part measures (Table 15-13, Table 14-10, LINK_UP): the Ethernet ports stay down in boot recovery (R348).
[UNVERIFIED, assumption 92] -/
def measuredValue (p : Part) (k : Nat) : Option Nat :=
  let v := Config.measured k p.time.tick % 2 ^ regWidth k
  if [G.vddNow, G.vddaNow, G.tjNow, G.refinErrNow, G.mirrorUtil].contains k then some v
  else if [0, 1].any fun i => decide (k = G.linkUp i) then some (if p.life.recovery then 0 else v % 2)
  else none

/-- Entries of the clock, the links and the security units that follow from their state, by key. -/
def unitValue (p : Part) (k : Nat) : Option Nat :=
  if k = G.tickNow then some p.time.tick
  else if k = G.timeErrorEst then some (errorEstimate p)
  else if k = G.sampleNow then some (nOf p.time.tick 0 % 2 ^ 64)
  else if k = G.datumNow then some (timeRecord (datumNow p) % 2 ^ 96)
  else if k = G.presenceLeft then some (presenceLeft p)
  else if k = G.ingressNow then some (ingressNow p)
  else if k = G.edgeInUse then some (edgesUsed p)
  else if k = G.admWaitNs then some (waitP0 p)
  else if k = G.admLead then some (headTicks p % 256)
  else if k = G.admMirrorCeiling then some (mirrorCeiling p)
  else if k = G.zfRingDone then some (ringDone p)
  else if k = G.shadowFit then some (ofBool (shadowFit p))
  else if k = G.driveState then some (driveState p)
  else if k = G.configDigest then some (configDigest p)
  else if k = G.ikPub then some (keyPub p.life.ik)
  else if k = G.akPub then some (keyPub p.life.ak)
  else if k = G.nkPub then some (keyPub p.life.nk)
  else measuredValue p k

/-- Entries of the channels, by index and subindex, that follow from their state. -/
def channelValue (p : Part) (i s : Nat) : Option Nat :=
  let c := chan i
  let h := i / 256
  if h = 0x20 ∧ s = 0x03 then some (outStateOf p c)
  else if h = 0x20 ∧ s = 0x0B then some (ofSigned 32 (Config.skewResidual c p.time.tick))
  else if h = 0x21 ∧ s = 0x0A then some (interpDelay (reg p (G.interp c)))
  else if h = 0x21 ∧ s = 0x43 then some (insetDepth (inForce p) c)
  else if h = 0x21 ∧ s = 0x44 then some (insetRunahead (inForce p) c)
  else if h = 0x23 ∧ s = 0x28 then some (evLatched p c)
  else if h = 0x23 ∧ s = 0x42 then some (headTicks p % 256)
  else if h = 0x23 ∧ s = 0x4A then some (maskOf ((pendingJumps (inForce p) c).map (·.input)))
  else if h = 0x23 ∧ s = 0x4B then some (nextJump p c)
  else if h = 0x23 ∧ s = 0x4E then some (openLeads p c)
  else if h = 0x26 ∧ s = 0x0A then some (pacedQueue p c).length
  else none

/-- The last neighbour heard on a port (R90): its TTL counts down in seconds. -/
def neighbourValue (p : Part) (x : Option (LldpRec × Nat)) (s : Nat) : Option Nat :=
  x.bind fun e =>
    if s = 0x01 then some e.1.chassis
    else if s = 0x05 then some e.1.portId
    else if s = 0x09 then some e.1.sysName
    else if s = 0x0D then some (e.1.ttl - (datumNow p - e.2) / secondUnits)
    else none

/-- Entries of event channels, pins, groups, queues, descriptors and steps, by index and subindex, that follow from their state. -/
def sharedValue (p : Part) (i s : Nat) : Option Nat :=
  if 0x4000 ≤ i ∧ i < 0x8000 then
    if s = 0x01 then some (descRecord p (i - 0x4000))
    else if s = 0x03 then some (segState p (i - 0x4000))
    else if s = 0x04 then some (segUsers p (i - 0x4000))
    else none
  else if i = 0x1140 then neighbourValue p p.pl.lldpA s
  else if i = 0x1141 then neighbourValue p p.pl.lldpB s
  else if 0x8000 ≤ i ∧ i < 0xC000 then some (kget (fun _ => 0) p.mem.trav (16 * (i - 0x8000) + s / 2))
  else if i / 256 = 0x13 ∧ s = 0x18 then some ((rtInputs p (i % 256)).length + (pinInputs p (i % 256)).length)
  else if i / 256 = 0x14 ∧ (s = 0x0A ∨ s = 0x0B) then some (reg (judgePad p (i % 256) (10 * acyc p) false) (gkey i s))
  else if i / 256 = 0x14 ∧ s = 0x09 then some (ofBool (pinOf p (i % 256)).pad)
  else if 0x1A00 ≤ i ∧ i < 0x1A10 ∧ s = 0x05 then some (maskOf (members p (i - 0x1A00)))
  else if 0x1B00 ≤ i ∧ i < 0x1B40 ∧ s = 0x12 then some (playPos p (i - 0x1B00))
  else if 0x1B00 ≤ i ∧ i < 0x1B40 ∧ s = 0x13 then some (ofSigned 64 (aheadOf p (i - 0x1B00)))
  else none

/-- The value that a read of entry e at key k returns (R62); a bulk object's slot reads as its length (R75). -/
def valueAt (p : Part) (e : Entry) (k : Nat) : Nat :=
  match e.ty with
  | .bulk n => if k = G.upData then reg p G.upChunk else n
  | _ =>
    match unitValue p k with
    | some v => v
    | none =>
      match channelValue p (k / 256) (k % 256) with
      | some v => v
      | none => (sharedValue p (k / 256) (k % 256)).getD (reg p k)

/-- The value that a READ with PENDING returns (R62): a written Live or Staged value not yet in force, else the value in force. -/
def pendingAt (p : Part) (e : Entry) (k : Nat) : Nat :=
  if 0x4000 ≤ k / 256 ∧ k / 256 < 0x8000 ∧ k % 256 = 1 then (kfind (k / 256 - 0x4000) p.mem.newDesc).getD (valueAt p e k)
  else
    match kfind k p.gz.pend with
    | some v => v
    | none =>
      match kfind k p.gz.bound with
      | some v => if e.kind = .w1c then reg p k ^^^ (reg p k &&& v) else v
      | none => (lastCommit k (p.grps.toList.flatMap (·.commits))).getD (valueAt p e k)

/-- The contents of a bulk object (R75, R84); pending ones where asked for (R62). -/
def bulkBytes (p : Part) (k : Nat) (pending : Bool) : List Byte :=
  let value (k : Nat) : Nat := if pending then pendingValue p k else reg p k
  if k = G.edgeStore then
    (List.range 65536).flatMap fun i =>
      let now := kget (fun _ => 0) p.mem.edges i
      toBytesLE 4 (if pending then (kfind i p.mem.newEdge).getD now else now)
  else if k = G.ecLoad then toBytesLE 256 (value k)
  else if k / 256 / 256 = 0x23 ∧ k % 256 = 0x07 then toBytesLE 1024 (value k)
  else if k = G.benchRecord then padTo 64 p.life.bench
  else if k = G.ikCert then
    if p.life.ik = 0 then List.replicate 7856 0
    else padTo 7856 (Config.slhSign 0 (toBytesLE 8 (reg p G.serial) ++ toBytesLE 32 (Config.publicKey p.life.ik)))
  else if k = G.keyStatement then padTo 7856 p.life.stmt
  else if k = G.attReport then padTo 25248 p.life.report
  else []

/-- A bulk object's total length: the number of bytes that its last byte completes (R84, R133, R257, R348). bytes are those held so far, by
which a firmware image announces its length (Table 15-2). -/
def bulkTotal (p : Part) (k : Nat) (bytes : List Byte) : Nat :=
  if k = G.upData then reg p G.upChunk
  else if k = G.fwImage then if bytes.length < 20 then 8388608 else 8192 + ofBytesLE ((bytes.drop 16).take 4)
  else
    match entryOf k with
    | some e => tyBytes e.ty
    | none => 0

end Sys2Proof.Machine
end

