-- ==== Sys2Proof/Machine/Writes.lean ====
section
/-!
DEFINITION. What a write of the Gazetteer does beyond the rule of its class: the effects of the command entries and of bulk objects. Each
answers an abort code, 0 where it was executed.
-/

namespace Sys2Proof.Machine

/-- A BOOL command acts on TRUE; FALSE does nothing. -/
def onTrue (p : Part) (v : Nat) (f : Part → Part × Nat) : Part × Nat := if v = 1 then f p else (p, 0)

/-- An effect that is never refused. -/
def ok (p : Part) : Part × Nat := (p, 0)

/-- A value waits for the next tick boundary (R51, R60). [DEDUCED, assumption 71] -/
def toBoundary (p : Part) (k v : Nat) : Part := { p with gz := { p.gz with bound := kput k v p.gz.bound } }

/-- Bits of a sticky entry to be cleared wait for the next tick boundary (R51). [DEDUCED, assumption 71] -/
def clearLater (p : Part) (k m : Nat) : Part := toBoundary p k ((kfind k p.gz.bound).getD 0 ||| m)

/-- A value waits for the channel's group (R60). -/
def toPending (p : Part) (k v : Nat) : Part := { p with gz := { p.gz with pend := kput k v p.gz.pend } }

/-- LG_STROBE_AT as LG_CMD STROBE writes it (R205, Table 08-6): the earliest tick. -/
def commandStrobe (p : Part) (g : Grp) : Part × Nat := (setReg p (G.lgStrobeAt g) (earliestTick p), 0)

/-- LG_CMD of group g (Table 08-6). -/
def groupCommand (p : Part) (path : Path) (g : Grp) (v : Nat) : Part × Nat :=
  match v with
  | 1 => commandArm p g path
  | 2 => commandStart p g path
  | 3 => commandStop p g (reg p (G.lgAt g))
  | 4 => commandRestart p g path
  | 5 => commandStrobe p g
  | 6 => commandDisarm p g
  | _ => (p, 0x06)

/-- PAIR_CMD (Table 14-10). -/
def pairCommand (p : Part) (v : Nat) : Part × Nat :=
  match v with
  | 1 => wantJoin p
  | 2 => leaveCommand p
  | 3 => planHandover p true
  | 4 => forceDrive p
  | _ => (p, 0x06)

/-- ST_CMD (Table 15-13). -/
def testCommand (p : Part) (v : Nat) : Part × Nat :=
  match v with
  | 1 => runTest p
  | 2 => abortTest p
  | _ => (p, 0x06)

/-- A write of TRIM_FREEZE_REQ of channel c (R229): an accepted one takes effect at the next tick boundary. -/
def freezeRequest (p : Part) (c : Chan) (ms : Nat) : Part × Nat :=
  let code := freezeCode p c ms
  if code = 0 then (toBoundary p (G.trimFreezeReq c) ms, 0) else (p, code)

/-- A write of QUIET_REQ (R289): an accepted one takes effect at the next tick boundary. -/
def quietRequest (p : Part) (ms : Nat) : Part × Nat :=
  let code := quietCode p ms
  if code = 0 then (toBoundary p G.quietReq ms, 0) else (p, code)

/-- A write of DATUM_SET (R53): in free-run the Datum steps to the value. -/
def setDatum (p : Part) (v : Nat) : Part × Nat :=
  if reg p G.timeSource ≠ 0 then (p, 0x06) else (stepDatum p ((timeValue v : Int) - datumNow p), 0)

/-- A write of EPOCH (R41): the ticks are numbered anew by a realignment. -/
def setEpoch (p : Part) (v : Nat) : Part × Nat := (setReg (beginAlign p) G.epoch v, 0)

/-- A step of a plan in use (R137). -/
def stepInUse (p : Part) (n : Nat) : Bool :=
  (List.range 256).any fun c => (plansInUse p c).any fun q => decide (reg q (G.trvBase c) ≤ n ∧ n < reg q (G.trvBase c) + reg q (G.trvSize c))

/-- A commit of Traverse step n (R138). -/
def writeStep (p : Part) (n w : Nat) : Part × Nat :=
  if stepInUse p n || lockedStep p n then (p, 0x07)
  else if !stepRecordOk w then (p, 0x06)
  else ({ p with mem := { p.mem with trav := kset (fun _ => 0) p.mem.trav n w } }, 0)

/-- A commit of SEG_DESC of descriptor d (R115, R307). -/
def commitDesc (p : Part) (d w : Nat) : Part × Nat :=
  if d ≠ zeroSeg && lockedDesc p d && !onlyTag w (descRecord (takeSegments p) d) then (p, 0x07) else writeDesc p d w

/-- A commit of EDGE_STORE (R134, R307). -/
def commitEdges (p : Part) (data : List Byte) : Part × Nat :=
  let new := (wordsLE data).zipIdx.filter fun e => decide (e.1 ≠ kget (fun _ => 0) (takeSegments p).mem.edges e.2)
  let locked := lockedEdges p
  if new.any fun e => locked.any fun r => decide (r.1 ≤ e.2 ∧ e.2 < r.2) then (p, 0x07) else writeEdges p data

/-- EV_CLEAR of channel c (R141): the selected event latches are emptied. -/
def clearEvents (p : Part) (c m : Nat) : Part := dropLatches p (((List.range 8).filter (bit m)).map (chLatch c))

/-- A write of BP_TARGET (R75): the block buffer takes the target's contents; what names no bulk object is refused. -/
def openBlock (p : Part) (v : Nat) : Part × Nat :=
  let k := v % 2 ^ 24
  match (if v < 2 ^ 24 then entryOf k else none) with
  | some ⟨_, _, _, .bulk _, _, _, _, _, _, _, _, _⟩ =>
    let p := setReg (setReg (setReg (setReg p G.bpTarget v) G.bpOffset 0) G.bpLength (bulkTotal p k [])) G.bpStatus 0
    ({ p with gz := { p.gz with block := bulkBytes p k false } }, 0)
  | _ => (setReg p G.bpStatus 0x06, 0x06)

/-- The bytes of a list from an offset replaced by others; a gap before them is zero. -/
def patch (l : List Byte) (o : Nat) (d : List Byte) : List Byte := padTo o l ++ d ++ l.drop (o + d.length)

/-- A write of BP_DATA (R75). -/
def writeBlockData (p : Part) (v : Nat) : Part × Nat :=
  let o := reg p G.bpOffset
  let n := reg p G.bpLength
  if n < o + 8 then (setReg p G.bpStatus 0x06, 0x06)
  else
    let p := setReg (setReg p G.bpOffset (o + 8)) G.bpStatus 0
    ({ p with gz := { p.gz with block := patch p.gz.block o (toBytesLE 8 v) } }, 0)

/-- A read of BP_DATA (R75): 8 bytes at BP_OFFSET. -/
def readBlockData (p : Part) : Part × Nat × Nat :=
  let o := reg p G.bpOffset
  let n := reg p G.bpLength
  if n < o + 8 then (setReg p G.bpStatus 0x06, 0, 0x06)
  else (setReg (setReg p G.bpOffset (o + 8)) G.bpStatus 0, ofBytesLE ((p.gz.block.drop o).take 8), 0)

/-- A Waypoint table with every reserved bit zero (R156). -/
def waypointsOk (data : List Byte) : Bool := (wordsLE data).all fun w => decide (bits w 30 18 = 0)

/-- A bulk object is committed whole (R75, R84); a Waypoint table waits for its channel's group. -/
def bulkEffect (p : Part) (k : Nat) (data : List Byte) : Part × Nat :=
  if k = G.edgeStore then commitEdges p data
  else if k = G.upData then commitUpload p data
  else if k = G.fwImage then fwBegin p (fwParse data)
  else if k = G.ecLoad then
    if data.any fun b => decide (13 < b.toNat) then (p, 0x06) else (toBoundary p G.ecLoad (ofBytesLE data), 0)
  else if 0x1B00 ≤ k / 256 ∧ k / 256 < 0x1B40 then netData p (k / 256 - 0x1B00) data
  else if !waypointsOk data then (p, 0x06)
  else (toPending p k (ofBytesLE data), 0)

/-- Command entries of the part as a whole, by key; none where the key is none of them. -/
def partCommand (p : Part) (k v : Nat) : Option (Part × Nat) :=
  if k = G.logClear then some (onTrue p v fun p => ok (clearLog p))
  else if k = G.bpTarget then some (openBlock p v)
  else if k = G.bpData then some (writeBlockData p v)
  else if k = G.fireMask then some (fire p (v % 2 ^ 256) (if v < 2 ^ 256 then reg p G.fireAtTick else v / 2 ^ 256 - 1))
  else if k = G.timeSource then some (ok (takeTimeSource p v))
  else if k = G.sclkSelect then some (ok (takeSclkSelect p v))
  else if k = G.syncMode then some (ok (takeSyncMode p v))
  else if k = G.epoch then some (setEpoch p v)
  else if k = G.fsKhz then some (ok (relock p v))
  else if k = G.datumSet then some (setDatum p v)
  else if k = G.quietReq then some (quietRequest p v)
  else if k = G.ldGo then some (onTrue p v loadGo)
  else if k = G.pairCmd then some (pairCommand p v)
  else if k = G.stCmd then some (testCommand p v)
  else if k = G.lcGo then some (onTrue p v lcBegin)
  else if k = G.resetCmd then some (onTrue p v commandReset)
  else if k = G.nvCommit then some (onTrue p v nvBegin)
  else if k = G.fwActivate then some (fwSelect p v)
  else if k = G.attNonce then some (attBegin p v)
  else none

/-- Command entries of a channel, by index and subindex. -/
def channelCommand (p : Part) (path : Path) (k v : Nat) : Option (Part × Nat) :=
  let c := chan (k / 256)
  let h := k / 256 / 256
  let s := k % 256
  if h = 0x20 ∧ s = 0x08 then some (onTrue p v fun p => ok (clearFault p c))
  else if h = 0x20 ∧ s = 0x0D then some (freezeRequest p c v)
  else if h = 0x21 ∧ s = 0x03 then some (moveChannel p c v)
  else if h = 0x23 ∧ s = 0x29 then some (ok (clearEvents p c v))
  else if h = 0x23 ∧ s = 0x53 then some (onTrue p v fun p => planGoes p c path)
  else if h = 0x26 ∧ s = 0x09 then some (pushPaced p c v)
  else if h = 0x26 ∧ s = 0x0D then some (onTrue p v fun p => ok (flushPaced p c))
  else none

/-- Command entries of alarms, groups, queues, descriptors and steps, by index and subindex. -/
def sharedCommand (p : Part) (path : Path) (k v : Nat) : Option (Part × Nat) :=
  let i := k / 256
  let s := k % 256
  if 0x8000 ≤ i ∧ i < 0xC000 then some (writeStep p (16 * (i - 0x8000) + s / 2) v)
  else if 0x4000 ≤ i ∧ i < 0x8000 then some (commitDesc p (i - 0x4000) v)
  else if 0x1A00 ≤ i ∧ i < 0x1A10 then
    if s = 0x01 then some (groupCommand p path (grp i) v) else some (scheduleStrobe p (grp i) v)
  else if 0x1B00 ≤ i ∧ i < 0x1B40 ∧ s = 0x01 then some (ok (disarmReaders (enableQueue p (i - 0x1B00) v) (i - 0x1B00)))
  else if 0x1B00 ≤ i ∧ i < 0x1B40 ∧ s = 0x20 then some (onTrue p v fun p => flushQueue p (i - 0x1B00))
  else none

/-- The effect of a command entry (kind cmd); an alarm's entries wait for the tick boundary as other Live entries do. -/
def commandEffect (p : Part) (path : Path) (k v : Nat) : Part × Nat :=
  match partCommand p k v with
  | some r => r
  | none =>
    match channelCommand p path k v with
    | some r => r
    | none => (sharedCommand p path k v).getD (toBoundary p k v, 0)

end Sys2Proof.Machine
end

