-- ==== Sys2Proof/Machine/Backend.lean ====
section
/-!
DEFINITION. The back end (chapter 03): the checks of a write in the order in which it makes them, the effect of a class, forwarding in a
pair, the BAR0 slots with their staging and snapshot buffers, and the block port.
-/

namespace Sys2Proof.Machine

/-- What becomes of a write: it is executed or refused with a code, or its answer follows later under a key (R308, R332). -/
inductive Verdict where
  | done (code : Nat)
  | waits (k : Nat)
  deriving DecidableEq, Repr

/-- A write that a test of the part refuses (Table 15-5). ST_CMD is left to its own rule. [DEDUCED, assumption 63] -/
def testRefuses (p : Part) (k : Nat) : Bool :=
  let i := k / 256
  decide (p.life.test ≠ 0 ∧ k ≠ G.stCmd) && !decide (0x1000 ≤ i ∧ i < 0x1300 ∧ i ≠ 0x10E4 ∧ i ≠ 0x10E8)

/-- A write-once entry that has been written: its bit of WO1_WRITTEN (Table 03-4). -/
def onceBit (k : Nat) : Nat := if k = G.installId then 0 else if k = G.assetTag then 1 else 2

/-- GZ_LOCK refuses the entry (R66). -/
def lockRefuses (p : Part) (e : Entry) : Bool := decide (reg p G.gzLock = 1 ∧ e.acc = .rw ∧ (e.cls = .staged ∨ e.cls = .fixed))

/-- The queue of an entry of G:1B00 to G:1B3F. -/
def keyQueue (k : Nat) : Option Nat := if 0x1B00 ≤ k / 256 ∧ k / 256 < 0x1B40 then some (k / 256 - 0x1B00) else none

/-- A Staged entry refuses a write while what it belongs to runs (R60, R252). -/
def stagedRefuses (p : Part) (e : Entry) (k : Nat) : Bool :=
  decide (e.cls = .staged) &&
    match keyChan k, keyQueue k with
    | some c, _ => groupRuns p (groupOf p c) || groupRuns p (nextGroup p c)
    | none, some q => queueRuns p q
    | none, none => anyRuns p

/-- The posting domain of an entry is busy (R76). [DEDUCED, assumption 51] -/
def postBusy (p : Part) (e : Entry) (k : Nat) : Bool := ((domainOf e k).map (domainBusy p)).getD false

/-- The checks of a write of v to entry e at key k, in their order; 0 where it passes. forwarded: the record of a write accepted by the active part,
which neither the role nor a posting domain refuses (R332). posts: the posting domain is tested. [DEDUCED, assumption 35] -/
def checkWrite (p : Part) (e : Entry) (k v : Nat) (forwarded posts : Bool) : Nat :=
  if e.acc = .ro then 0x03
  else if testRefuses p k then 0x0B
  else if !forwarded && mirrored e k && refusesMirrored p then 0x0E
  else if !valueOk e v then 0x06
  else if e.guarded && !presenceOpen p then 0x08
  else if (decide (e.acc = .wo1) && regBit p G.wo1Written (onceBit k)) || lockRefuses p e then 0x09
  else if stagedRefuses p e k || lockedEntry p e k then 0x07
  else if posts && !forwarded && postBusy p e k then 0x0A
  else 0

/-- A Staged write to a channel disarms its groups, one to a queue the groups that name it (R206, R252). -/
def stagedDisarms (p : Part) (e : Entry) (k : Nat) : Part :=
  if e.cls = .staged then
    match keyChan k, keyQueue k with
    | some c, _ => disarm (disarm p (groupOf p c)) (nextGroup p c)
    | none, some q => disarmReaders p q
    | none, none => p
  else p

/-- An accepted write of an entry with no effect of its own takes effect by its class (R59, R60). -/
def classWrite (p : Part) (e : Entry) (k v : Nat) : Part :=
  if e.acc = .wo1 then setRegBit (toBoundary p k v) G.wo1Written (onceBit k) true
  else
    match e.cls, keyChan k with
    | .fixed, _ => { p with gz := { p.gz with work := kput k v p.gz.work } }
    | .staged, some _ => stagedDisarms (toPending p k v) e k
    | .staged, none => stagedDisarms (setReg p k v) e k
    | .live, some _ => toPending p k v
    | .live, none => toBoundary p k v
    | .none, _ => p

/-- Bits written as 1 are cleared at once; a cleared bit of WATCH_CAUSE re-arms its class (R245). -/
def clearOnes (p : Part) (k m : Nat) : Part :=
  let p := writeOnes p k m
  if k / 256 / 256 = 0x25 ∧ k % 256 = 0x08 then rearm p (chan (k / 256)) m else p

/-- The posting domain of an entry is busy from the transfer on (R76). [DEDUCED, assumption 51] -/
def post (p : Part) (e : Entry) (k : Nat) : Part :=
  match domainOf e k with
  | some d => setBusy p d true
  | none => p

/-- A write that has passed its checks takes effect. Answers the abort code. -/
def applyWrite (p : Part) (path : Path) (e : Entry) (k v : Nat) : Part × Nat :=
  match e.kind with
  | .plain => (post (classWrite p e k v) e k, 0)
  | .now => (setReg p k v, 0)
  | .sub => (setReg (settle p (acyc p)) k v, 0)
  | .w1c => (if k = G.timeSticky then clearLater p k v else clearOnes p k v, 0)
  | .cmd => commandEffect p path k v

/-- A bulk object takes effect; a Waypoint table is a Staged entry of its channel (Table 06-8). -/
def applyBulk (p : Part) (e : Entry) (k : Nat) (data : List Byte) : Part × Nat :=
  let r := bulkEffect p k data
  if r.2 = 0 ∧ (keyChan k).isSome then (stagedDisarms r.1 e k, 0) else r

/-- A bulk object is committed: checked, and forwarded or executed. Network stream data is not forwarded as a write: its ring bytes are
mirrored (R334). -/
def writeBulk (p : Part) (path : Path) (op : Nat) (e : Entry) (k : Nat) (data : List Byte) : Part × Verdict :=
  let code := checkWrite p e k 0 false true
  if code ≠ 0 then (p, .done code)
  else
    let r := applyBulk p e k data
    if mirrored e k && forwards p && (keyQueue k).isNone && decide (r.2 = 0) then (forward p k (ofBytesLE data) path op, .waits k)
    else (r.1, .done r.2)

/-- BP_COMMIT TRUE: the block buffer is applied to its target (R75). [DEDUCED, assumption 39] -/
def commitBlock (p : Part) (path : Path) : Part × Verdict :=
  let k := reg p G.bpTarget
  match entryOf k with
  | none => (setReg p G.bpStatus 0x06, .done 0x06)
  | some e =>
    let r := writeBulk p path 1 e k (padTo (reg p G.bpLength) p.gz.block)
    match r.2 with
    | .done c => (setReg r.1 G.bpStatus c, .done c)
    | .waits j => (setReg r.1 G.bpStatus 0, .waits j)

/-- The snapshot taken last is given the operation that took it (R78). -/
def stampJob (p : Part) (op : Nat) : Part :=
  let l := p.adm.jobs
  { p with adm := { p.adm with jobs := l.dropLast ++ l.getLast?.toList.map fun j => { j with op := op } } }

/-- A write that has passed its checks is executed; one that made a snapshot for admission is answered with its verdict (R308). -/
def runWrite (p : Part) (path : Path) (op : Nat) (e : Entry) (k v : Nat) : Part × Verdict :=
  if k = G.bpCommit then (if v = 1 then commitBlock p path else (p, .done 0))
  else
    let r := applyWrite p path e k v
    if r.2 = 0 ∧ p.adm.jobs.length < r.1.adm.jobs.length then (stampJob r.1 op, .waits k) else (r.1, .done r.2)

/-- A refusal is recorded in the abort log (R78). -/
def logged (path : Path) (op k v : Nat) (r : Part × Verdict) : Part × Verdict :=
  match r.2 with
  | .done 0 => r
  | .done c => (logAbort r.1 path op c (k / 256) (k % 256) v, .done c)
  | .waits _ => r

/-- A posting domain that was busy has its overrun flag set (R76). -/
def noteOverrun (p : Part) (e : Entry) (k code : Nat) : Part :=
  match domainOf e k with
  | some d => if code = 0x0A then setOverrun p d else p
  | none => p

/-- A write of v to entry e at key k is checked, and then executed or forwarded to the shadow (R58 to R66, R76, R332). A firing takes its time from
FIRE_AT_TICK where it executes, so that no refusal of it is foreseen here (R109).
[DEDUCED, assumption 35] -/
def writeEntry (p : Part) (path : Path) (op : Nat) (posts : Bool) (e : Entry) (k w : Nat) : Part × Verdict :=
  let v := keptBits e (reg p k) w
  let code := checkWrite p e k v false posts
  if code ≠ 0 then logged path op k w (noteOverrun p e k code, .done code)
  else
    let r := runWrite p path op e k v
    let refused := match r.2 with
      | .done c => decide (c ≠ 0)
      | .waits _ => false
    if mirrored e k && forwards p && (!refused || decide (k = G.fireMask)) then (forward p k v path op, .waits k) else logged path op k w r

/-- A write of a whole value to G:i.s (R57, R74, R79). -/
def writeAt (p : Part) (path : Path) (op : Nat) (i s v : Nat) : Part × Verdict :=
  match lookup i s with
  | .noIndex => logged path op (gkey i s) v (p, .done 0x01)
  | .noSub => logged path op (gkey i s) v (p, .done 0x02)
  | .cont _ _ => logged path op (gkey i s) v (p, .done 0x02)
  | .numSubs _ => logged path op (gkey i s) v (p, .done 0x03)
  | .entry e _ =>
    match e.ty with
    | .bulk _ => logged path op (gkey i s) v (p, .done 0x03)
    | _ => writeEntry p path op true e (gkey i s) v

/-- The record of a forwarded write is executed on this part (R332). -/
def writeForwarded (p : Part) (path : Path) (op k v : Nat) : Part × Verdict :=
  match entryOf k with
  | none => (p, .done 0x01)
  | some e =>
    match e.ty with
    | .bulk n =>
      let code := checkWrite p e k 0 true false
      if code ≠ 0 then logged path op k v (p, .done code)
      else
        let r := applyBulk p e k (toBytesLE n v)
        logged path op k v (r.1, .done r.2)
    | _ =>
      let code := checkWrite p e k (if k = G.fireMask then v % 2 ^ 256 else v) true false
      if code ≠ 0 then logged path op k v (p, .done code) else logged path op k v (runWrite p path op e k v)

/-! ## BAR0 -/

/-- BAR0 answers nothing once the host is lost (R268). [DEDUCED, assumption 42] -/
def barDead (p : Part) : Bool := p.life.applied && decide (reg p G.hostLink ≠ 0)

/-- Indices that boot recovery serves (R348). [DEDUCED, assumption 42] -/
def recoveryServes (i : Nat) : Bool := [0x1000, 0x1018, 0x10E0, 0x1901, 0x1904].contains i

/-- The commit word of an entry, counted from its first slot's low word (R70). -/
def commitWord (e : Entry) : Nat := ceilDiv (tyWidth e.ty) 32 - 1

/-- The value that staged words, over a base value, make. -/
def overWords (base : Nat) (l : KMap Nat) : Nat := l.foldl (fun v e => putBits v (32 * e.1) 32 e.2) base

/-- Words staged for an entry other than key k are discarded and logged against it (R70). [DEDUCED, assumption 36] -/
def discardStaged (p : Part) (path : Path) (k : Nat) : Part :=
  match p.gz.stage with
  | some (j, l) =>
    if j = k then p
    else logAbort { p with gz := { p.gz with stage := none } } path 3 0x05 (j / 256) (j % 256) (overWords 0 l)
  | none => p

/-- A word below the commit word is staged (R70). -/
def stageWord (p : Part) (k w x : Nat) : Part :=
  let l := match p.gz.stage with
    | some (_, l) => l
    | none => []
  { p with gz := { p.gz with stage := some (k, kput w x l) } }

/-- The commit word applies the entry whole: the staged words, the word itself, and the current value for every other (R70). -/
def commitWords (p : Part) (path : Path) (e : Entry) (k w x : Nat) : Part :=
  let l := match p.gz.stage with
    | some (_, l) => l
    | none => []
  let base := if e.acc = .wo ∨ e.kind = .w1c then 0 else valueAt p e k
  let p := { p with gz := { p.gz with stage := none } }
  (writeEntry p path 1 true e k (putBits (overWords base l) (32 * w) 32 x)).1

/-- One 32-bit word of an entry is written (R69, R70). -/
def barWord (p : Part) (path : Path) (e : Entry) (k w x : Nat) : Part :=
  let cw := commitWord e
  if w < cw then stageWord p k w x else if w = cw then commitWords p path e k w x else p

/-- An entry of type BITS32 or BITS64. -/
def isBits : Ty → Bool
  | .bits32 => true
  | .bits64 => true
  | _ => false

/-- The value with the bytes of data that be enables in it. -/
def mergeBytes (base : Nat) (be : BitVec 8) (data : BitVec 64) : Nat :=
  (List.range 8).foldl (fun v i => if be.getLsbD i then putBits v (8 * i) 8 (bits data.toNat (8 * i + 7) (8 * i)) else v) base

/-- A write of other than whole words (Table 03-7): merged into a BITS entry at once, refused elsewhere.
[DESIGN CHOICE, assumption 101] -/
def narrowWrite (p : Part) (path : Path) (e : Entry) (k : Nat) (be : BitVec 8) (data : BitVec 64) : Part :=
  if isBits e.ty then
    let n := tyWidth e.ty
    let base := if e.kind = .w1c then 0 else valueAt p e k
    if be.toNat % 2 ^ (n / 8) = 0 then p else (writeEntry p path 1 true e k (mergeBytes base be data % 2 ^ n)).1
  else (logged path 1 k data.toNat (p, .done 0x0F)).1

/-- A BAR0 write within the slot i.s (R68 to R74). Byte enables that form no whole word make it narrow. [DESIGN CHOICE, assumption 101] -/
def barWrite (p : Part) (path : Path) (i s : Nat) (be : BitVec 8) (data : BitVec 64) : Part :=
  if barDead p ∨ (p.life.recovery ∧ !recoveryServes i) ∨ be = 0 then p
  else
    let go (e : Entry) (f : Nat) : Part :=
      let k := gkey i f
      let p := discardStaged p path k
      let w := 2 * (s - f)
      match e.ty with
      | .bulk _ => (logged path 1 k data.toNat (p, .done 0x03)).1
      | _ =>
        if be = 0xFF then barWord (barWord p path e k w (data.toNat % 2 ^ 32)) path e k (w + 1) (data.toNat / 2 ^ 32)
        else if be = 0x0F then barWord p path e k w (data.toNat % 2 ^ 32)
        else if be = 0xF0 then barWord p path e k (w + 1) (data.toNat / 2 ^ 32)
        else narrowWrite p path e k be data
    match lookup i s with
    | .entry e f => go e f
    | .cont e f => go e f
    | .noIndex => (logged path 1 (gkey i s) data.toNat (p, .done 0x01)).1
    | .noSub => (logged path 1 (gkey i s) data.toNat (p, .done 0x02)).1
    | .numSubs _ => (logged path 1 (gkey i s) data.toNat (discardStaged p path (gkey i s), .done 0x03)).1

/-- The bytes of a slot's 64 bits that be enables; the others read as 0. -/
def slotBytes (v : Nat) (be : BitVec 8) : Nat := mergeBytes 0 be (BitVec.ofNat 64 v)

/-- A read of slot s of entry e at key k through the snapshot buffer (R69, R71): a word below the commit word is taken from the snapshot of the entry
unless it has been read from it already; then the entry is read anew. [DEDUCED, assumption 37] -/
def snapshotRead (p : Part) (e : Entry) (k w : Nat) (be : BitVec 8) : Part × Nat :=
  let cw := commitWord e
  let low := decide (be.toNat % 16 ≠ 0)
  let high := decide (be.toNat / 16 ≠ 0)
  let now := valueAt p e k
  let words := (if low then 2 ^ w else 0) + (if high then 2 ^ (w + 1) else 0)
  let below := words % 2 ^ cw
  let (had, v) := match p.gz.snap with
    | some (j, v, m) => if j = k then (some m, v) else (none, now)
    | none => (none, now)
  let fresh := decide (below ≠ 0) && (had.map fun m => decide (m &&& below ≠ 0)).getD true
  if fresh then ({ p with gz := { p.gz with snap := some (k, now, words) } }, bits now (32 * w + 63) (32 * w))
  else
    match had with
    | some m => ({ p with gz := { p.gz with snap := some (k, v, m ||| words) } }, bits v (32 * w + 63) (32 * w))
    | none => (p, bits now (32 * w + 63) (32 * w))

/-- A BAR0 read within the slot i.s (R68 to R74). -/
def barRead (p : Part) (path : Path) (i s : Nat) (be : BitVec 8) : Part :=
  let value (p : Part) (v : Nat) : Part := say p (.read (.value (slotBytes v be)))
  if barDead p then p
  else if p.life.recovery ∧ !recoveryServes i then value p 0
  else
    let go (e : Entry) (f : Nat) : Part :=
      if e.acc = .wo then value (logAbort p path 0 0x04 i s 0) 0
      else if gkey i f = G.bpData then
        let r := readBlockData p
        value r.1 r.2.1
      else
        let r := snapshotRead p e (gkey i f) (2 * (s - f)) be
        value r.1 r.2
    match lookup i s with
    | .entry e f => go e f
    | .cont e f => go e f
    | .numSubs n => value p n
    | .noIndex => value p 0
    | .noSub => value p 0

/-- A BAR0 access that selects bytes of more than one slot (R72). -/
def barCrossing (p : Part) (path : Path) (i s : Nat) (write : Bool) (data : Nat) : Part :=
  if barDead p then p
  else
    let p := logAbort p path 4 0x0F i s (if write then data else 0)
    if write then p else say p (.read .completerAbort)

/-- An access by a path reaches the part: not through a lost host, and in boot recovery only where it serves (R268, R348). -/
def reaches (p : Part) (path : Path) (i : Nat) : Bool :=
  match path with
  | .bar0 _ => !barDead p && (!p.life.recovery || recoveryServes i)
  | .mirror => true
  | .management => true
  | _ => !p.life.recovery

/-- A command given as a write of a whole value, by any path. -/
def commandWrite (p : Part) (path : Path) (i s v : Nat) : Part :=
  if !reaches p path i then p
  else
    let p := match path with
      | .bar0 _ =>
        let q := discardStaged p path (gkey i s)
        { q with gz := { q.gz with stage := none } }
      | _ => p
    let r := writeAt p path 1 i s v
    match r.2 with
    | .done c => tell r.1 path c
    | .waits _ => r.1

/-- A command given as a bulk object committed whole, by any path. -/
def commandBulk (p : Part) (path : Path) (k : Nat) (data : List Byte) : Part :=
  match entryOf k with
  | none => p
  | some e =>
    if !reaches p path (k / 256) then p
    else
      let r := logged path 1 k (ofBytesLE (data.take 8)) (writeBulk p path 1 e k data)
      match r.2 with
      | .done c => tell r.1 path c
      | .waits _ => r.1

/-- The next forwarded write whose tick has come takes effect: on the active part the first of those it sent, on the shadow the record
received (R332). [DEDUCED, assumption 58; DESIGN CHOICE, assumption 62] -/
def mirrorWrite (p : Part) (i s v : Nat) : Part :=
  let c := p.time.cyc
  let at0 (q : Part) : Part := atCyc q 0
  if isShadow p then
    if paired p then atCyc (writeForwarded (at0 p) .mirror 1 (gkey i s) v).1 c else p
  else
    match p.pair.toSend with
    | [] => p
    | f :: r =>
      if p.time.tick < f.tick then p
      else
        let q := writeForwarded (at0 { p with pair := { p.pair with toSend := r } }) f.path f.op f.key f.value
        match q.2 with
        | .done code => answer (atCyc q.1 c) f.path f.key code
        | .waits _ => atCyc q.1 c

end Sys2Proof.Machine
end

