-- ==== Sys2Proof/Machine/LinkOps.lean ====
section
/-!
DEFINITION. Pearo Link (chapter 03): requests and their kept replies, items, bulk objects in chunks, subscriptions, the partner table's
announces, firing and attestation, and LLDP.
-/

namespace Sys2Proof.Machine

/-- A kept reply belongs to this request (R85). -/
def repeats (h : PlHeader) (r : CacheRec) : Bool :=
  decide (r.source = h.source ∧ r.udpPort = h.udpPort ∧ r.session = h.session ∧ r.seq = h.seq)

/-- Two requests are the same (R85). -/
def sameRequest (a b : PlHeader) : Bool :=
  decide (a.source = b.source ∧ a.udpPort = b.udpPort ∧ a.session = b.session ∧ a.seq = b.seq)

/-- A request of size bytes is answered from the cache, or executed once (R85); one longer than PL_MAX_DATAGRAM is not accepted (R80), and in boot
recovery the Ethernet ports are down (R348). [DEDUCED, assumption 43] -/
def request (p : Part) (h : PlHeader) (size : Nat) (f : Part → Part) : Part :=
  if p.life.recovery ∨ reg p G.plMaxDatagram < size then p
  else
    match p.pl.cache.find? (repeats h) with
    | some r => r.frames.foldl (fun q x => say q (.frame (destOf h) x)) (addReg p G.plDuplicates 1)
    | none => if (p.pl.owed.any fun o => sameRequest o.head h) || p.pl.discover.any (sameRequest h) then p else f p

/-- The bytes of a frame with these items and a payload header of n bytes (R80, R81). -/
def frameBytes (n : Nat) (items : List PlItem) : Nat := 36 + n + (items.map fun x => 12 + 4 * ceilDiv x.value.length 4).sum

/-- One item of a READ (R62, R74, R83): its status and value. -/
def readItem (p : Part) (pending : Bool) (x : PlItem) : Part × Nat × List Byte :=
  match lookup x.index x.sub with
  | .noIndex => (p, 0x01, [])
  | .noSub => (p, 0x02, [])
  | .cont _ _ => (p, 0x02, [])
  | .numSubs n => if x.type = 0 ∨ x.type = tyCode .u8 then (p, 0, toBytesBE 1 n) else (p, 0x05, [])
  | .entry e s =>
    let k := gkey x.index s
    if x.type ≠ 0 ∧ x.type ≠ tyCode e.ty then (p, 0x05, [])
    else if e.acc = .wo then (p, 0x04, [])
    else if k = G.bpData then
      let r := readBlockData p
      (r.1, r.2.2, if r.2.2 = 0 then toBytesBE 8 r.2.1 else [])
    else
      match e.ty with
      | .bulk _ => (p, 0, ((bulkBytes p k pending).drop x.offset).take x.len)
      | t => (p, 0, linkBytes t (if pending then pendingAt p e k else valueAt p e k))

/-- The type of an item in a reply: that of its entry, where the request names one (Table 03-15). -/
def itemType (x : PlItem) : Nat :=
  match lookup x.index x.sub with
  | .entry e _ => tyCode e.ty
  | .numSubs _ => tyCode .u8
  | _ => x.type

/-- The item of a reply that answers a request's item (R81). -/
def answerItem (x : PlItem) (status : Nat) (value : List Byte) : ReplyItem := ⟨x.index, x.sub, status, itemType x, x.offset, value⟩

/-- The items of a READ in order (R83). -/
def readItems (p : Part) (pending : Bool) : List PlItem → Part × List ReplyItem
  | [] => (p, [])
  | x :: r =>
    let a := readItem p pending x
    let b := readItems a.1 pending r
    (b.1, answerItem x a.2.1 a.2.2 :: b.2)

/-- What a write item asks for: a refusal before its entry is reached, a whole value, or a chunk of a bulk object (R58, R81, R84). -/
inductive Wanted where
  | refuse (code : Nat)
  | value (e : Entry) (k v : Nat)
  | chunk (e : Entry) (k offset : Nat) (bytes : List Byte)

/-- A write item resolved: its entry, its type and length (R57, R58, R79). -/
def wanted (x : PlItem) : Wanted :=
  match lookup x.index x.sub with
  | .noIndex => .refuse 0x01
  | .noSub => .refuse 0x02
  | .cont _ _ => .refuse 0x02
  | .numSubs _ => .refuse 0x03
  | .entry e s =>
    let k := gkey x.index s
    if x.type ≠ tyCode e.ty ∨ x.value.length ≠ x.len then .refuse 0x05
    else
      match e.ty with
      | .bulk _ => if e.acc = .ro then .refuse 0x03 else .chunk e k x.offset x.value
      | t => if lenOk t x.len ∧ x.offset = 0 then .value e k (linkValue t x.value) else .refuse 0x05

/-- The value a write item carries, for the abort log. -/
def itemValue (x : PlItem) : Nat :=
  match wanted x with
  | .value _ _ v => v
  | _ => ofBytesLE (x.value.take 8)

/-- The bytes held for a bulk object on a session (R84). -/
def heldBytes (l : List BulkBuf) (session k : Nat) : List Byte :=
  ((l.find? fun b => decide (b.session = session ∧ b.key = k)).map (·.bytes)).getD []

/-- The held bytes of a bulk object on a session replaced; none are kept for an empty list. -/
def holdBytes (l : List BulkBuf) (session k : Nat) (bytes : List Byte) : List BulkBuf :=
  let rest := l.filter fun b => !decide (b.session = session ∧ b.key = k)
  if bytes.isEmpty then rest else ⟨session, k, bytes⟩ :: rest

/-- A chunk of a bulk object arrives (R84): it is held, refused, or completes the object. -/
inductive Chunked where
  | held (l : List BulkBuf)
  | bad (l : List BulkBuf)
  | whole (l : List BulkBuf) (data : List Byte)

/-- SQ_NET_DATA of a queue, an object of no fixed length (R259). -/
def isNetData (k : Nat) : Bool := (keyQueue k).isSome

/-- A chunk in its place (R84): offset 0 begins the object anew, another must continue what is held; one that runs past the object's length is
refused, and what is held is discarded. An object of a network-fed queue ends with the last of its items in a frame that does not set MORE: last tells
it. [DESIGN CHOICE, assumption 86] -/
def takeChunk (p : Part) (l : List BulkBuf) (session k offset : Nat) (bytes : List Byte) (last : Bool) : Chunked :=
  let held := if offset = 0 then [] else heldBytes l session k
  let l := holdBytes l session k []
  if offset ≠ held.length then .bad l
  else
    let data := held ++ bytes
    let total := bulkTotal p k data
    if total < data.length then .bad l
    else if data.length = total || (last && isNetData k) then .whole l data else .held (holdBytes l session k data)

/-- The part with bulk buffers l. -/
def setBulk (p : Part) (l : List BulkBuf) : Part := { p with pl := { p.pl with bulk := l } }

/-- No later item of a frame is for the entry of x, and the frame does not set MORE. -/
def lastFor (h : PlHeader) (x : PlItem) (r : List PlItem) : Bool :=
  !h.more && !r.any fun y => decide (y.index = x.index ∧ y.sub = x.sub)

/-- One write item is executed (R83, R84). posts: the posting domain is tested. -/
def writeItem (p : Part) (h : PlHeader) (op : Nat) (posts : Bool) (x : PlItem) (last : Bool) : Part × Verdict :=
  let path := headerPath h
  let k := gkey x.index x.sub
  match wanted x with
  | .refuse c => logged path op k (itemValue x) (p, .done c)
  | .value e k v => writeEntry p path op posts e k v
  | .chunk e k o bytes =>
    match takeChunk p p.pl.bulk h.session k o bytes last with
    | .held l => (setBulk p l, .done 0)
    | .bad l => logged path op k (itemValue x) (setBulk p l, .done 0x05)
    | .whole l data => logged path op k (itemValue x) (writeBulk (setBulk p l) path op e k data)

/-- A write item as its reply carries it, with the key under which it is answered (R81). -/
def verdictItem (x : PlItem) : Verdict → OwedItem
  | .done c => ⟨gkey x.index x.sub, some c, answerItem x 0 []⟩
  | .waits k => ⟨k, none, answerItem x 0 []⟩

/-- Write items in order (R83). -/
def writeItems (p : Part) (h : PlHeader) (op : Nat) (posts : Bool) : List PlItem → Part × List OwedItem
  | [] => (p, [])
  | x :: r =>
    let a := writeItem p h op posts x (lastFor h x r)
    let b := writeItems a.1 h op posts r
    (b.1, verdictItem x a.2 :: b.2)

/-- The reply to write items: at once, or when the last of them has its code (R83, R308, R332). -/
def replyItems (p : Part) (h : PlHeader) (l : List OwedItem) : Part :=
  if l.all fun e => e.code.isSome then reply p h 0 (l.map codedItem)
  else { p with pl := { p.pl with owed := p.pl.owed ++ [⟨h, false, l⟩] } }

/-- The code that a READ/WRITE entry's own rules would give; a command's own codes come with its execution (R83). -/
def ownCode (p : Part) (path : Path) (e : Entry) (k v : Nat) : Nat :=
  if e.kind = .cmd ∧ e.acc = .rw then (commandEffect p path k v).2 else 0

/-- The check of one item of a WRITE_BLOCK (R76, R83), with the bulk buffers as the items before it leave them. -/
def checkItem (p : Part) (h : PlHeader) (l : List BulkBuf) (x : PlItem) (last : Bool) : List BulkBuf × Nat :=
  match wanted x with
  | .refuse c => (l, c)
  | .value e k v =>
    let v := keptBits e (reg p k) v
    let code := checkWrite p e k v false true
    (l, if code ≠ 0 then code else ownCode p (headerPath h) e k v)
  | .chunk e k o bytes =>
    match takeChunk p l h.session k o bytes last with
    | .held l => (l, 0)
    | .bad l => (l, 0x05)
    | .whole l data =>
      let code := checkWrite p e k 0 false true
      (l, if code ≠ 0 then code else if e.acc = .rw then (bulkEffect p k data).2 else 0)

/-- The first item of a WRITE_BLOCK that fails its check, with its code. -/
def firstBad (p : Part) (h : PlHeader) : List BulkBuf → List PlItem → Option (PlItem × Nat)
  | _, [] => none
  | l, x :: r =>
    let a := checkItem p h l x (lastFor h x r)
    if a.2 ≠ 0 then some (x, a.2) else firstBad p h a.1 r

/-- The entry of a refused item, for its overrun flag. -/
def itemOverrun (p : Part) (x : PlItem) (code : Nat) : Part :=
  match wanted x with
  | .value e k _ => noteOverrun p e k code
  | _ => p

/-- WRITE_BLOCK (R76, R83): all items are checked, and then all executed in one back-end step, or none. [DEDUCED, assumption 39] -/
def writeBlockFrame (p : Part) (h : PlHeader) (items : List PlItem) : Part :=
  match firstBad p h p.pl.bulk items with
  | some (x, code) =>
    let r := logged (headerPath h) 2 (gkey x.index x.sub) (itemValue x) (itemOverrun p x code, .done code)
    reply r.1 h code [answerItem x code []]
  | none =>
    let r := writeItems p h 2 false items
    replyItems r.1 h r.2

/-! ## Subscriptions -/

/-- The least nonzero identity that no subscription has. -/
def freeSubId (l : List Sub) : Nat := ((List.range 65).find? fun i => decide (i ≠ 0) && !l.any fun s => decide (s.id = i)).getD 65

/-- A subscription's item as it reads now; sampling it has no effect of its own (R83, R87). -/
def sampleItem (p : Part) (x : PlItem) : ReplyItem :=
  let r := (readItem p false x).2
  answerItem x r.1 r.2

/-- The items of a subscription as they read now (R87). -/
def subValues (p : Part) (items : List PlItem) : List ReplyItem := items.map (sampleItem p)

/-- The list of subscriptions and SUBS_ACTIVE follow each other. -/
def setSubs (p : Part) (l : List Sub) : Part := setReg { p with pl := { p.pl with subs := l } } G.subsActive l.length

/-- The reply to a SUBSCRIBE: the identity of the subscription it makes or changes, and a status per item (R83, R87). [DEDUCED, assumption 45] -/
def subReply (p : Part) (h : PlHeader) (id : Nat) (items : List ReplyItem) : Part := replyHead p h 0 (toBytesBE 2 id) items

/-- SUBSCRIBE (R87): creates, changes or cancels; beyond its limits it is refused with 0x06, and so are a MODE that is none, an identity that no
subscription has and the cancelling of identity 0. [DESIGN CHOICE, assumption 87; DEDUCED, assumption 45] -/
def subscribeFrame (p : Part) (h : PlHeader) (period id mode : Nat) (items : List PlItem) : Part :=
  let l := p.pl.subs
  let known := l.any fun s => decide (s.id = id)
  if 3 < mode ∨ (id ≠ 0 ∧ !known) ∨ (mode = 3 ∧ id = 0) then reply p h 0x06 []
  else if mode = 3 then subReply (setSubs p (l.filter fun s => decide (s.id ≠ id))) h id []
  else if 256 < items.length ∨ (period ≠ 0 ∧ period < reg p G.ticksPerSecond / 1000) ∨ (id = 0 ∧ 64 ≤ l.length) then reply p h 0x06 []
  else
    let n := if id = 0 then freeSubId l else id
    let good := items.filter fun x => decide ((sampleItem p x).status = 0)
    let s : Sub := ⟨n, destOf h, h.session, period, mode, good, 0, subValues p good, p.time.tick, p.time.tick + 1⟩
    subReply (setSubs p (l.filter (fun s => decide (s.id ≠ n)) ++ [s])) h n (items.map fun x => answerItem x (sampleItem p x).status [])

/-- The tick is a multiple of n ticks from the SUBSCRIBE. -/
def subDue (p : Part) (s : Sub) (n : Nat) : Bool := decide (n ≠ 0 ∧ (p.time.tick + 2 ^ 64 - s.since) % 2 ^ 64 % n = 0 ∧ s.done ≠ p.time.tick + 1)

/-- A publication of subscription id (R87): at its period, or at a comparison, every TICKS_PER_SECOND / 1,000 ticks, that finds a change.
[DEDUCED, assumption 45] -/
def publish (p : Part) (id : Nat) : Part :=
  match p.pl.subs.find? fun s => decide (s.id = id) with
  | none => p
  | some s =>
    let now := subValues p s.items
    let k := p.time.tick
    let compares := decide (s.mode ≠ 0) && subDue p s (reg p G.ticksPerSecond / 1000)
    let keep (t : Sub) : Part := { p with pl := { p.pl with subs := p.pl.subs.map fun x => if x.id = id then t else x } }
    if (decide (s.mode ≠ 1) && subDue p s s.period) || (compares && decide (now ≠ s.seen)) then
      (framed p [] now).foldl (fun q e => say q (.frame s.dest (.publication s.session id s.count k e.1 e.2)))
        (keep { s with count := s.count + 1, seen := if compares then now else s.seen, done := k + 1 })
    else if compares then keep { s with done := k + 1 }
    else p

/-! ## Partners -/

/-- An ANNOUNCE is heard (R88, R89): role 3 is a host subscriber, any other a peer part; the twin is recorded over the mirror link. -/
def hearAnnounce (p : Part) (port : EthPort) (r : AnnounceRec) : Part :=
  let twin := paired p && decide ((p.pair.peer.map (·.serial)) = some r.serial)
  if p.life.recovery ∨ (r.role ≠ 3 ∧ twin) then p
  else hearPartner p (if r.role = 3 then 3 else 4) r.serial r.address (if port = .a then 1 else 2) r.role

/-- The ports that a mask of an entry enables: bit 0 A, bit 1 B. -/
def portsOf (m : Nat) : List EthPort := (if bit m 0 then [.a] else []) ++ (if bit m 1 then [.b] else [])

/-- ROLE of the part's own announces (Table 03-17): 0 standalone, 1 active, 2 shadow. -/
def ownRole (p : Part) : Nat := if paired p then reg p G.pairRole else 0

/-- The part's own announce record on a port (Table 03-17). -/
def ownAnnounce (p : Part) (port : EthPort) : AnnounceMsg :=
  ⟨reg p G.serial, ownRole p, reg p G.timeState, reg p G.lcState, port, errorEstimate p, if paired p then reg p G.pairId else 0,
    reg p G.fwVersion, reg p G.hostname⟩

/-- An IPv4 address, IPv4-mapped (Table 03-18). -/
def mappedV4 (a : Nat) : Nat := ofBytesLE (List.replicate 10 0 ++ [0xFF, 0xFF] ++ toBytesBE 4 a)

/-- The IPv6 group of the announces, ff15::b810 (R88). -/
def announceV6 : Nat := ofBytesLE ([0xFF, 0x15] ++ List.replicate 12 0 ++ [0xB8, 0x10])

/-- The number of a port in G:1101 and G:1102. -/
def portNo (port : EthPort) : Nat := if port = .a then 0 else 1

/-- The groups to which a port announces (R88): the IPv4 group where the port has an IPv4 address, and the IPv6 group. -/
def announceGroups (p : Part) (port : EthPort) : List Nat :=
  (if reg p (G.ipv4Addr (portNo port)) = 0 then [] else [mappedV4 (reg p G.plAnnounceV4)]) ++ [announceV6]

/-- One ANNOUNCE on each enabled port (R88). -/
def sendAnnounce (p : Part) : Part :=
  if p.life.recovery then p
  else
    (portsOf (reg p G.plAnnounce)).foldl (fun q port =>
      (announceGroups q port).foldl (fun q a => say q (.frame ⟨port, a, reg q G.plUdpPort⟩ (.announce (ownAnnounce q port)))) q) p

/-- A partner heard over the network from which no announce has come for 3.5 s is lost (R88); a lost host's subscriptions end (R87). -/
def partnerTimeout (p : Part) (i cyc : Nat) : Part :=
  let kind := reg p (G.pKind i)
  if (kind ≠ 3 ∧ kind ≠ 4) ∨ reg p (G.pState i) ≠ 0 ∨ sinceHeard p i * 2 < 7 * secondUnits then p
  else
    let p := losePartner p i cyc
    if kind = 3 then setSubs p (p.pl.subs.filter fun s => decide (s.dest.address ≠ reg p (G.pAddress i))) else p

/-- A DISCOVER waits for its delay (R88). -/
def takeDiscover (p : Part) (h : PlHeader) : Part := { p with pl := { p.pl with discover := p.pl.discover ++ [h] } }

/-- The oldest DISCOVER is answered with a unicast ANNOUNCE (R83, R88). -/
def answerDiscover (p : Part) : Part :=
  match p.pl.discover with
  | [] => p
  | h :: r => sendReply { p with pl := { p.pl with discover := r } } h [.announce (ownAnnounce p h.port)]

/-! ## FIRE and ATTEST -/

/-- FIRE (R91, R109, Table 15-5): refused during a test and on a shadow; on the active part of a pair it is forwarded (R332).
[DEDUCED, assumption 38] -/
def fireFrame (p : Part) (h : PlHeader) (mask at_ : Nat) : Part :=
  if p.life.test ≠ 0 then reply p h 0x0B []
  else if refusesMirrored p then reply p h 0x0E []
  else
    let r := fire p mask at_
    if r.2 = 0 ∧ forwards p then
      let p := forward p G.fireMask (mask + (1 + at_) * 2 ^ 256) (headerPath h) 1
      { p with pl := { p.pl with owed := p.pl.owed ++ [⟨h, true, [⟨G.fireMask, none, ⟨0, 0, 0, 0, 0, []⟩⟩]⟩] } }
    else reply r.1 h r.2 []

/-- The report from an offset on, in fragments of at most PL_MAX_DATAGRAM - 44 bytes (R92). -/
def reportFrames (p : Part) (h : PlHeader) (from_ : Nat) : List PlFrame :=
  let n := max 1 (reg p G.plMaxDatagram - 44)
  let total := p.life.report.length
  (List.range (ceilDiv (total - from_) n)).map fun i =>
    let o := from_ + i * n
    .report h.session h.seq p.time.tick total o (decide (o + n < total)) ((p.life.report.drop o).take n)

/-- ATTEST (R92, R368): a new nonce starts signing; the report of the nonce held is sent from RESUME_OFFSET on. -/
def attestFrame (p : Part) (h : PlHeader) (nonce resume : Nat) : Part :=
  if p.life.test ≠ 0 then reply p h 0x0B []
  else if p.life.nonce = some nonce ∧ reg p G.attState = 2 ∧ mayAttest p then sendReply p h (reportFrames p h resume)
  else
    let r := attBegin p nonce
    if r.2 = 0 then sendReply r.1 h [.report h.session h.seq p.time.tick 0 0 false []] else reply r.1 h r.2 []

/-! ## LLDP -/

/-- A port sends an LLDPDU while its bit of LLDP_ENABLE is set (R90): the MAC address of port A, its own, HOSTNAME, its address, and a TTL of 120 s.
[DESIGN CHOICE, assumption 70] -/
def sendLldp (p : Part) (port : EthPort) : Part :=
  let v4 := reg p (G.ipv4Addr (portNo port))
  if (portsOf (reg p G.lldpEnable)).contains port ∧ !p.life.recovery then
    say p (.lldp port (reg p (G.mac 0)) (reg p (G.mac (portNo port))) (reg p G.hostname)
      (if v4 = 0 then reg p (G.ipv6Addr (portNo port)) else mappedV4 v4) 120)
  else p

/-- The last neighbour heard on a port is recorded (R90). [DESIGN CHOICE, assumption 70] -/
def takeLldp (p : Part) (port : EthPort) (r : LldpRec) : Part :=
  if p.life.recovery then p
  else
    match port with
    | .a => { p with pl := { p.pl with lldpA := some (r, datumNow p) } }
    | .b => { p with pl := { p.pl with lldpB := some (r, datumNow p) } }

end Sys2Proof.Machine
end

