-- ==== Sys2Proof/Machine/WatchOps.lean ====
section
/-!
DEFINITION. Output Watch (chapter 10): the schedule of the monitor converters, the intended value of a reading, the comparison, the fault
classes and the verdict. Voltages are in microvolts; a division of the expected value rounds down (assumption 40).
-/

namespace Sys2Proof.Machine

/-- The part with Watch state w in channel c. -/
def setWatch (p : Part) (c : Chan) (w : WatchSt) : Part := { p with watch := p.watch.set c.val w c.isLt }

/-- The channel that converter w reads in tick k (R236). -/
def watchChan (w : Fin 16) (k : Nat) : Chan := chan (16 * w.val + k % 16)

/-- The sample offset of the reading of channel c in tick k (R237). -/
def watchOffset (p : Part) (c : Chan) (k : Nat) : Nat := (reg p G.watchStride * (k / 16) + 10 * (c.val % 16)) % 250

/-- G in units of 2^-16 (R239): the load gain with the switch closed, 1 with it open. -/
def watchGain (p : Part) (c : Chan) : Int := if (outOf p c).closed then (reg p (G.watchLoadGain c) : Int) else 65536

/-- The intended Vd of channel c at offset s of tick k (R239). [DESIGN CHOICE, assumption 40] -/
def intended (p : Part) (c : Chan) (k s : Nat) : Int :=
  let o := outOf p c
  let span := reg p (G.outSpan c)
  let v :=
    if o.dac then codeVolts span ((((p.watch.get c).codes.find? fun e => e.1 = k).map (·.2)).getD [] |>.getD s 0)
    else
      match o.spanAt with
      | some a =>
        if o.spanStage = 2 then
          let t : Int := (8 * (nOf k s) + reg p (G.watchAperture c) : Nat) - (8 * (250 * (a + 2)) : Nat)
          midScale o.spanFrom + (midScale o.spanTo - midScale o.spanFrom) * t / ((8 * 250 * rampTicks p : Nat) : Int)
        else if o.spanStage = 1 ∧ a ≤ k then midScale o.spanFrom
        else midScale span
      | none => midScale span
  watchGain p c * v / 65536

/-- The threshold of a reading (R241, Table 10-1). -/
def watchThreshold (p : Part) (c : Chan) : Int :=
  let t : Int := reg p (G.watchThresh c)
  if (outOf p c).spanStage = 2 then max t 20000 else t

/-- A reading of channel c at offset s of tick k is blanked (Table 10-1). -/
def watchBlanked (p : Part) (c : Chan) (k s : Nat) : Bool :=
  let o := outOf p c
  ((o.spanAt.map fun a => decide (k = a ∨ k = a + 1)).getD false) || decide (o.changed = k + 1 ∧ s ≤ 3) || !regBit p G.watchConvOk (c.val / 16)

/-- WATCH_LAST of a reading (Table 10-5). -/
def watchRecord (r : WatchRd) : Nat :=
  r.tick + r.off * 2 ^ 64 + ofBool r.blank * 2 ^ 72 + ofBool r.isOpen * 2 ^ 73 + ofSigned 32 r.expv * 2 ^ 80 +
    ofSigned 32 r.vd * 2 ^ 112 + ofSigned 32 r.vc * 2 ^ 144

/-- A span that is unipolar (Table 09-2). -/
def unipolar (span : Nat) : Bool := decide (4 ≤ span)

/-- n microvolts to the nearest 0.5 mV of x divided by d, a half upward (R238). [DESIGN CHOICE, assumption 40] -/
def measured (x : Int) (d : Nat) : Int := roundHalfUp x (500 * d) * 500

/-- Vd of the two legs, in microvolts (R238). -/
def differential (span : Nat) (outP outN : Int) : Int := measured (if unipolar span then outP else outP - outN) 1

/-- Vc of the two legs, in microvolts (R238). -/
def common (span : Nat) (outP outN : Int) : Int := if unipolar span then measured outN 1 else measured (outP + outN) 2

/-- Converter w reads the two legs of its channel of the present tick, in microvolts at the load side of the source (R236 to R240), or takes no
reading. -/
def watchRead (p : Part) (w : Fin 16) (outP outN : Int) (refOk : Bool) : Part :=
  if reg p G.clockState = 2 ∨ p.life.test ≠ 0 ∨ !p.life.applied ∨ p.life.held then p
  else
    let p := if refOk then p else setRegBit p G.watchConvOk w.val false
    let k := p.time.tick
    let c := watchChan w k
    if reg p (G.watchEnable c) = 0 then p
    else
      let s := watchOffset p c k
      let span := reg p (G.outSpan c)
      let r : WatchRd := ⟨k, s, watchBlanked p c k s, !(outOf p c).closed, intended p c k s, differential span outP outN, common span outP outN,
        watchThreshold p c⟩
      let p := setReg p (G.watchLast c) (watchRecord r)
      if r.blank then addReg p (G.watchBlanked c) 1 else setWatch p c { p.watch.get c with reading := some r }

/-- The largest of a list of integers less the smallest. -/
def spread : List Int → Int
  | [] => 0
  | x :: r => r.foldl max x - r.foldl min x

/-- STUCK over the last 64 compared readings (Table 10-2). -/
def isStuck (win : List (Int × Int)) (t : Int) : Bool :=
  let l := win.take 64
  decide (l.length = 64 ∧ spread (l.map (·.1)) < t ∧ 8 * t < spread (l.map (·.2)))

/-- The mean of Vd - Vd_exp over a window, rounded down (Table 10-2). -/
def watchMean (win : List (Int × Int)) : Int := (win.map fun e => e.1 - e.2).sum / (max win.length 1 : Nat)

/-- The least-squares slope of Vd on Vd_exp less 1, in ppm rounded down; 0 where Vd_exp does not vary (Table 10-2). -/
def watchSlope (win : List (Int × Int)) : Int :=
  let n : Int := win.length
  let sx := (win.map (·.2)).sum
  let sy := (win.map (·.1)).sum
  let den := n * (win.map fun e => e.2 * e.2).sum - sx * sx
  let num := n * (win.map fun e => e.1 * e.2).sum - sx * sy
  if den = 0 then 0 else 1000000 * (num - den) / den

/-- The statistics of a comparison: for each class of Table 10-2 whether its condition holds, and whether it is re-armed (R242). -/
structure WatchJudge where
  holds : List Bool
  arms  : List Bool
  mean  : Int
  slope : Int
  full  : Bool
  deriving DecidableEq, Repr

/-- The five classes judged on Watch state w, which already holds the reading (Table 10-2, R242). -/
def judge (p : Part) (c : Chan) (w : WatchSt) (t : Int) : WatchJudge :=
  let n := reg p (G.watchPersist c)
  let size := reg p G.watchWindow
  let full := decide (size ≤ w.window.length)
  let win := w.window.take size
  let mean := watchMean win
  let slope := watchSlope win
  let drift : Int := reg p (G.watchDriftThresh c)
  let tol : Int := reg p (G.watchGainTol c)
  let span := reg p (G.outSpan c)
  let range := (if 4 ≤ span then 1 else 2) * spanSize span * watchGain p c / 65536
  let wide := decide (range ≤ 4 * spread (win.map (·.2)))
  let stuck := full && isStuck w.window t
  ⟨[decide (n ≤ w.devRun), stuck, decide (n ≤ w.shortRun), full && decide (drift < |mean|), full && wide && decide (tol < |slope|)],
   [decide (n ≤ w.devOff), decide (64 ≤ w.stuckOff), decide (n ≤ w.shortOff), full && decide (2 * |mean| < drift),
    full && decide (2 * |slope| < tol)], mean, slope, full⟩

/-- A mask of the classes for which a list of five holds. -/
def classMask (l : List Bool) : Nat := (List.range 5).foldl (fun a i => a + ofBool (l.getD i false) * 2 ^ i) 0

/-- The highest-ranked class of a mask (R242): SHORTED, STUCK, GAIN, DRIFT, DEVIATION. -/
def topClass (m : Nat) : Nat :=
  if bit m 2 then 2 else if bit m 1 then 1 else if bit m 4 then 4 else if bit m 3 then 3 else 0

/-- The strongest action of the classes of a mask (R244). -/
def strongest (action m : Nat) : Nat :=
  (List.range 5).foldl (fun a i => if bit m i then max a (bits action (2 * i + 1) (2 * i)) else a) 0

/-- A reading enters the statistics of its channel (R241). -/
def takeReading (w : WatchSt) (size : Nat) (r : WatchRd) : WatchSt :=
  let dev := decide (r.thresh < |r.vd - r.expv| ∨ r.thresh < |r.vc|)
  let short := decide (8 * r.thresh ≤ |r.expv| ∧ |r.vd| ≤ r.thresh)
  let win := ((r.vd, r.expv) :: w.window).take (max size 64)
  { w with reading := none, window := win,
           devRun := if dev then w.devRun + 1 else 0, devOff := if dev then 0 else w.devOff + 1,
           shortRun := if short then w.shortRun + 1 else 0, shortOff := if short then 0 else w.shortOff + 1,
           stuckOff := if decide (size ≤ win.length) && isStuck win r.thresh then 0 else w.stuckOff + 1 }

/-- The actions of a verdict of the classes m at core cycle 5 (R242, R244). -/
def verdict (p : Part) (c : Chan) (m : Nat) : Part :=
  let p := orReg p (G.watchCause c) m
  let p := addReg (addReg p (G.watchVerdicts c) 1) G.watchVerdictsAll 1
  let p := setReg p (G.watchClass c) (topClass m)
  let a := strongest (reg p (G.watchAction c)) m
  let p := if 1 ≤ a then raiseAt p p.time.tick 50 (0x700 + c.val) 0 else p
  if a = 2 then channelFault p c 1 5 else p

/-- The reading of channel c that waits is compared and judged in the tick after it (R241, R242). -/
def watchCompare (p : Part) (c : Chan) : Part :=
  let w0 := p.watch.get c
  match w0.reading with
  | none => p
  | some r =>
    if p.time.tick ≤ r.tick ∨ p.life.test ≠ 0 then p
    else
      let p := atCyc p 5
      let dev := decide (r.thresh < |r.vd - r.expv| ∨ r.thresh < |r.vc|)
      let p := addReg p (G.watchReadings c) 1
      let p := if dev then addReg p (G.watchDeviations c) 1 else p
      let w := takeReading w0 (reg p G.watchWindow) r
      let j := judge p c w r.thresh
      let fired := w.fired ^^^ (w.fired &&& classMask j.arms)
      let hit := classMask j.holds
      let new := hit ^^^ (hit &&& fired)
      let p := setWatch p c { w with fired := fired ||| hit }
      let p := setReg (setReg p (G.watchDriftNow c) (ofSigned 32 j.mean)) (G.watchGainNow c) (ofSigned 32 j.slope)
      if new = 0 then p else verdict p c new

/-- The codes of the tick being emitted join the last four (R239). -/
def keepCodes (p : Part) (c : Chan) (k : Nat) : Part :=
  let w := p.watch.get c
  setWatch p c { w with codes := ((k, (dpOf p c).emit) :: w.codes).take 4 }

end Sys2Proof.Machine
end

