-- ==== Sys2Proof/Machine/TickOps.lean ====
section
/-!
DEFINITION. The tick boundary (R12, R15, R51): what takes effect at sample 0 of a tick, the stages of the pipeline that advance, and the tick
that becomes the present one; how a Part operation is a command's meaning.
-/

namespace Sys2Proof.Machine

/-- The meaning of a command that acts on the part; a part held in reset does nothing (R344). [DEDUCED, assumption 2] -/
def lift (f : Part → Part) (s : State) : Host.Outcome State Fault Refusal :=
  .next { s with part := if s.part.life.held then s.part else f s.part }

/-- The meaning of an event that acts on a part in reset as well. -/
def liftAlways (f : Part → Part) (s : State) : Host.Outcome State Fault Refusal := .next { s with part := f s.part }

/-- The meaning of a command that moves sequencers: a sequencer that stands still in a situation that no admitted program reaches stops the run
(R158). -/
def liftSeq (f : Part → Part) (s : State) : Host.Outcome State Fault Refusal :=
  if s.part.life.held then .next s
  else
    let p := f s.part
    match stuckChan p with
    | some (c, w) => .fault (.sequencer c w)
    | none => .next { s with part := p }

/-- An alarm whose entries were written takes them at tick k (R52): was tells whether it was armed before. While the Graticule is not aligned, k
counts on in the old numbers. [DESIGN CHOICE, assumption 99] -/
def takeAlarm (p : Part) (bound : KMap Nat) (a k : Nat) (was : Bool) : Part :=
  let moved := (kfind (G.alarmTime a) bound).isSome || (kfind (G.alarmPeriod a) bound).isSome
  match kfind (G.alarmEnable a) bound with
  | some 0 => disarmAlarm p a
  | some _ => if was then (if moved then planAlarm p a (signedTick k) else p) else armAlarm p a k
  | none => if was && moved then planAlarm p a (signedTick k) else p

/-- One value written since the last tick boundary comes into force at tick k; requests and sticky bits take their own effect (R31, R51, R229,
R289). -/
def takeValue (p : Part) (k : Nat) (e : Nat × Nat) : Part :=
  if e.1 = G.quietReq then takeQuiet p e.2
  else if e.1 = G.timeSticky then writeOnes p e.1 e.2
  else if e.1 = G.ppsSecondsNext then { p with time := { p.time with ppsNext := some (e.2 % 2 ^ 48) } }
  else if e.1 / 256 / 256 = 0x20 ∧ e.1 % 256 = 0x0D then takeFreeze p (chan (e.1 / 256)) k e.2
  else setReg p e.1 e.2

/-- Live values of entries of no load group come into force at tick k (R51, R60). [DEDUCED, assumption 71] -/
def takeBound (p : Part) (k : Nat) : Part :=
  let bound := p.gz.bound
  let armed := (List.range 16).map fun a => regBit p (G.alarmStatus a) 0
  let p := bound.foldl (fun q e => takeValue q k e) { p with gz := { p.gz with bound := [] } }
  armed.zipIdx.foldl (fun q a => takeAlarm q bound a.2 k a.1) p

/-- What the plan of tick k changes and pulses takes place (R15, R163): values, and producers with their stamps. -/
def takePlan (p : Part) (c : Chan) (k : Nat) : Part :=
  let t := planOf p c k
  let p := if t.effs.any fun e => e.eff = .clearHistory then restartMarks p c k else p
  let p := setOut (applyOps p t.ops) c { outOf p c with halt := t.halt }
  let new := t.pulses.map fun q => (⟨25 * q.tick + q.off / 10, q⟩ : Producer)
  { p with fab := { p.fab with producers := p.fab.producers ++ new } }

/-- The entries of channel c that the datapath shows in the tick about to be emitted (Table 08-9, Table 08-10). -/
def showDatapath (p : Part) (c : Chan) : Part :=
  let d := dpOf p c
  if d.emit = [] then p
  else
    let p := [(G.toneRec0 c, 0), (G.toneRec1 c, 1), (G.toneRec2 c, 2), (G.toneRec3 c, 3)].foldl (fun q e => setReg q e.1 (d.recs.getD e.2 0)) p
    let p := setReg (setReg (setReg p (G.gain c) d.gain) (G.offset c) d.offset) (G.levelCode c) d.level
    let p := (List.range 4).foldl (fun q i => setReg q (G.phaseNow c i) (d.info.getD i 0)) p
    setReg (setReg p (G.gateState c) (d.info.getD 4 0)) (G.dpSampleNow c) (ofSigned 16 (d.emit.headD 0))

/-- The emit stage takes the codes synthesized for the tick. -/
def shiftCodes (p : Part) (c : Chan) : Part :=
  let d := dpOf p c
  setDp p c { d with emit := d.next, next := [] }

/-- Channel c has something to synthesize for tick k: its group runs, whether it plays a program or not (R190), or its plan holds something. -/
def synthesizes (p : Part) (c : Chan) (k : Nat) : Bool :=
  decide ((seqOf p c).act ≠ .off) || runsIn p (grp (planned p (G.loadGroup c))) k || !(planOf p c k).spans.isEmpty || !(planOf p c k).effs.isEmpty

/-- Leads of channel c whose step begins by tick k resolve with its first sample (R177, R178); one that has not pulsed by then is dropped. -/
def confirmLeads (p : Part) (c : Chan) (k : Nat) : Part :=
  let s := seqOf p c
  let ended (x : Lead) : Bool :=
    match x.doom with
    | some r => decide (r.1 / 250 ≤ k)
    | none => decide (x.start / 250 ≤ k) && (x.pulsed || decide (x.at_ / 250 < k))
  let gone := s.leads.filter ended
  if gone.isEmpty then p
  else
    let done := (gone.filter (·.pulsed)).map (·.start)
    let p := addReg p (G.leadDropped c) (waitingLeads p c gone)
    setSeq p c { s with leads := s.leads.filter (fun x => !ended x), freed := s.freed ++ done }

/-- Plans of ticks up to k are used up. -/
def dropPlans (p : Part) (c : Chan) (k : Nat) : Part :=
  { p with plans := p.plans.set c.val ((p.plans.get c).filter fun t => decide (k < t.tick)) c.isLt }

/-- The pipeline of channel c at the boundary to tick k (R12): the plan of tick k takes place, its codes are emitted. -/
def emitStage (p : Part) (c : Chan) (k : Nat) : Part := showDatapath (shiftCodes (takePlan p c k) c) c

/-- The synthesize stage of channel c for the tick after k, with late refills cut out (R12, R17). -/
def synthStage (p : Part) (c : Chan) (late : List Nat) (k : Nat) : Part :=
  let p := dropPlans (confirmLeads (keepCodes p c k) c k) c k
  if synthesizes p c (k + 1) then synthTick (lateRefill p c (k + 1) late) c (k + 1) else p

/-- A Datum that no tick tells moves on by the length of a tick (R22, R44). [DEDUCED, assumption 48] -/
def datumPasses (p : Part) : Part :=
  if reg p G.clockState = 0 then p else { p with time := { p.time with datum := p.time.datum + tickUnits p } }

/-- Pulses in the fabric keep their distance in core cycles when the count of ticks passes through 0 (R42, R95). -/
def wrapCycles (p : Part) : Part :=
  let d := 25 * 2 ^ 64
  { p with fab := { p.fab with producers := p.fab.producers.map fun x => { x with at_ := x.at_ - d },
                               arrivals := p.fab.arrivals.map fun x => { x with due := x.due - d }, lastAt := [], captured := [] } }

/-- The next tick becomes the present one (R12): producers that have asserted by its first core cycle have chosen their slots, and an
unaligned Datum has moved on by a tick (R44). -/
def enterTick (p : Part) : Part :=
  let k := nextTick p.time.tick
  let p := datumPasses (settle p (25 * (p.time.tick + 1) - 1))
  let p := if k = 0 then wrapCycles p else p
  { p with time := { p.time with tick := k, cyc := 0 } }

/-- What happens at sample 0 of tick k (R15, R51, R60, R128, R132, R219, R233, R337), and the synthesize stage for the tick after it. -/
def beginTick (p : Part) (k : Nat) : Part :=
  let p := startLoad (takeSegments (takeBound p k))
  let p := (List.finRange 16).foldl (fun q g => takeCommits q g k) p
  let p := (List.finRange 256).foldl (fun q c => emitStage q c k) p
  let p := driveTick (keepDigest p k)
  let p := settleMarkers ((List.finRange 256).foldl (fun q c => markTick (outTick q c k) c k) p)
  let late := lateLines p (k + 1)
  let p := serveWants p (k + 1)
  (List.finRange 256).foldl (fun q c => synthStage q c late k) p

/-- Capture ticks that no assertion can name any more are no longer counted (R101); the pins' own edges of the tick that has ended are judged
(R106). -/
def dropCaptured (p : Part) (k : Nat) : Part :=
  let p := judgePads p (nOf k 0)
  { p with fab := { p.fab with captured := kkeep (fun t => decide (k < t + 8)) p.fab.captured } }

/-- The boundary to the next tick (R12). While the sample clock is lost there is none, and the time of a tick passes for the Datum alone (R22); a part
whose self-test was started by ST_CMD resets itself (R357).
[DEDUCED, assumption 48] -/
def tickBoundary (p : Part) : Part :=
  if p.life.test = 6 then resetPart p 5
  else if coreStopped p then datumPasses (ageTest p)
  else dropCaptured (beginTick (enterTick (ageTest p)) (nextTick p.time.tick)) (nextTick p.time.tick)

/-- The decide stage (R12, R140): none while the sample clock is lost. -/
def decideStage (p : Part) : Part := if coreStopped p then p else decideTick p

/-- The tick that the present decide stage plans (R12). -/
def planTick (p : Part) : Nat := p.time.tick + 2

/-- A part of the present decide stage, after its decide point; none while the sample clock is lost (R22, R163). -/
def inStage (f : Part → Part) (p : Part) : Part := if coreStopped p then p else f (openStage p)

end Sys2Proof.Machine
end

