-- ==== Sys2Proof/Machine/Access.lean ====
section
/-!
DEFINITION. The meanings of the commands that reach the Gazetteer (chapter 03): writes of entries with no command of their own, the BAR0 slots,
the abort log, the block port, and the end of a posted transfer.
-/

namespace Sys2Proof.Machine

/-- A read of BP_DATA by a path (R75): over BAR0 a read of its slot, by another path the value itself. -/
def readPort (p : Part) (path : Path) : Part :=
  match path with
  | .bar0 _ => barRead p path 0x10E0 0x04 0xFF
  | _ =>
    if !reaches p path 0x10E0 then p
    else
      let r := readBlockData p
      if r.2.2 = 0 then say r.1 (.read (.value r.2.1)) else tell r.1 path r.2.2

/-- GAZETTEER_WRITE (R57 to R74). -/
def execGazetteerWrite (w : WriteForm) (s : State) : Host.Outcome State Fault Refusal :=
  match w with
  | .slot requester slot be data => lift (fun p => barWrite p (.bar0 requester) (slot / 256) (slot % 256) be data) s
  | .whole path index sub value => lift (fun p => commandWrite p path index sub value) s

/-- BAR0_STAGED_WORD_WRITE (R70). -/
def execBar0StagedWordWrite (requester slot : Nat) (high : Bool) (data : BitVec 32) (s : State) : Host.Outcome State Fault Refusal :=
  lift (fun p =>
    if high then barWrite p (.bar0 requester) (slot / 256) (slot % 256) 0xF0 (BitVec.ofNat 64 (data.toNat * 2 ^ 32))
    else barWrite p (.bar0 requester) (slot / 256) (slot % 256) 0x0F (BitVec.ofNat 64 data.toNat)) s

/-- BAR0_SNAPSHOT_READ (R71). -/
def execBar0SnapshotRead (requester slot : Nat) (be : BitVec 8) (s : State) : Host.Outcome State Fault Refusal :=
  lift (fun p => barRead p (.bar0 requester) (slot / 256) (slot % 256) be) s

/-- BAR0_CROSSING_ACCESS (R72). -/
def execBar0CrossingAccess (requester slot : Nat) (write : Bool) (data : Nat) (s : State) : Host.Outcome State Fault Refusal :=
  lift (fun p => barCrossing p (.bar0 requester) (slot / 256) (slot % 256) write data) s

/-- BAR0_UNSUPPORTED_REQUEST (R68). -/
def execBar0UnsupportedRequest (_requester : Nat) (s : State) : Host.Outcome State Fault Refusal :=
  lift (fun p => if barDead p then p else say p (.read .unsupported)) s

/-- LOG_CLEAR (R78). -/
def execLogClear (path : Path) (value : Nat) (s : State) : Host.Outcome State Fault Refusal :=
  lift (fun p => commandWrite p path 0x1018 0x03 value) s

/-- BP_TARGET (R75). -/
def execBpTarget (path : Path) (value : Nat) (s : State) : Host.Outcome State Fault Refusal :=
  lift (fun p => commandWrite p path 0x10E0 0x01 value) s

/-- BP_DATA (R75): a write of data, or a read. -/
def execBpData (path : Path) (data : Option Nat) (s : State) : Host.Outcome State Fault Refusal :=
  match data with
  | some v => lift (fun p => commandWrite p path 0x10E0 0x04 v) s
  | none => lift (fun p => readPort p path) s

/-- BP_COMMIT (R75). -/
def execBpCommit (path : Path) (value : Nat) (s : State) : Host.Outcome State Fault Refusal :=
  lift (fun p => commandWrite p path 0x10E0 0x05 value) s

/-- POST_DONE (R76). -/
def execPostDone (d : Domain) (s : State) : Host.Outcome State Fault Refusal := lift (fun p => setBusy p d false) s

/-- WRITE_ONLY_READ (R74). -/
def execWriteOnlyRead (requester slot : Nat) (s : State) : Host.Outcome State Fault Refusal :=
  lift (fun p => barRead p (.bar0 requester) (slot / 256) (slot % 256) 0xFF) s

end Sys2Proof.Machine
end

