-- ==== Sys2Proof/Machine/Admission.lean ====
section
/-! DEFINITION. The meaning of the verdict of the admission engine (chapter 13). -/

namespace Sys2Proof.Machine

/-- ADMISSION_VERDICT (R308, R321): shadowCode and shadowDigest are the shadow's answer, which only a paired part regards (R319). -/
def execAdmissionVerdict (shadowCode shadowDigest : Nat) (at_ : Cyc) (s : State) : Host.Outcome State Fault Refusal :=
  lift (fun p => giveVerdict p shadowCode shadowDigest at_) s

end Sys2Proof.Machine
end

