-- ==== Sys2Proof/Machine/Datapath.lean ====
section
/-! DEFINITION. The meanings of the commands of the tone gate and the paced queue (chapter 08). -/

namespace Sys2Proof.Machine

/-- A channel whose group runs takes gate action i into the plan of the tick after the next (R198). -/
def gateNow (c : Chan) (i : Nat) : Part → Part := inStage fun p =>
  if runsIn p (grp (planned p (G.loadGroup c))) (planTick p) then gateInput c (planTick p) p i else p

/-- TONE_GATE_MUTE (R198). -/
def execToneGateMute (c : Chan) (s : State) : Host.Outcome State Fault Refusal := lift (gateNow c 16) s

/-- TONE_GATE_UNMUTE (R198). -/
def execToneGateUnmute (c : Chan) (s : State) : Host.Outcome State Fault Refusal := lift (gateNow c 17) s

/-- PACED_PUSH (R200). -/
def execPacedPush (path : Path) (c : Chan) (entry : Nat) (s : State) : Host.Outcome State Fault Refusal :=
  lift (fun p => commandWrite p path (0x2600 + c.val) 0x09 entry) s

/-- PACED_FLUSH (R202). -/
def execPacedFlush (path : Path) (c : Chan) (value : Nat) (s : State) : Host.Outcome State Fault Refusal :=
  lift (fun p => commandWrite p path (0x2600 + c.val) 0x0D value) s

/-- PACED_APPLY (R201): the instants of the tick after the next. -/
def execPacedApply (c : Chan) (s : State) : Host.Outcome State Fault Refusal := lift (inStage fun p => pacedTick p c (planTick p)) s

end Sys2Proof.Machine
end

