-- ==== Sys2Proof/Machine/Dram.lean ====
section
/-!
DEFINITION. The meanings of the commands of the sample memory controller (chapter 12). now is the controller clock of the command.
-/

namespace Sys2Proof.Machine

/-- DRAM_TRAINING_DONE (R273). -/
def execDramTrainingDone (speed : Nat) (r : TrainingResult) (s : State) : Host.Outcome State Fault Refusal :=
  lift (fun p => trainingDone p speed r) s

/-- DRAM_REQUEST (R276). -/
def execDramRequest (port : Fin 5) (now deadline addr len : Nat) (data : Option (List Byte)) (s : State) :
    Host.Outcome State Fault Refusal := lift (fun p => acceptAccess p port now deadline addr len data) s

/-- DRAM_COMMAND_SLOT (R277). -/
def execDramCommandSlot (i : SubCh) (now : Nat) (ecc : EccOutcome) (sampled : Bool) (at_ : Cyc) (s : State) :
    Host.Outcome State Fault Refusal := lift (fun p => commandSlot (atCyc p at_) i now ecc sampled) s

/-- ROW_IDLE_CLOSE (R278). -/
def execRowIdleClose (i : SubCh) (rank bank now : Nat) (s : State) : Host.Outcome State Fault Refusal :=
  lift (fun p => idleClose p i (32 * rank + bank) now) s

/-- REFRESH_DUE (R283, R285). -/
def execRefreshDue (i : SubCh) (rank _now : Nat) (s : State) : Host.Outcome State Fault Refusal := lift (fun p => refreshDue p i rank) s

/-- DEVICE_TEMP_READ (R272). -/
def execDeviceTempRead (i : SubCh) (rank : Nat) (hot : Bool) (s : State) : Host.Outcome State Fault Refusal :=
  lift (fun p => tempRead p i rank hot) s

/-- DQS_OSC_READ (R287). -/
def execDqsOscRead (i : SubCh) (driftPs _now : Nat) (at_ : Cyc) (s : State) : Host.Outcome State Fault Refusal :=
  lift (fun p => oscRead (atCyc p at_) i driftPs) s

/-- RETRAIN_PAUSE (R288). -/
def execRetrainPause (i : SubCh) (now : Nat) (at_ : Cyc) (s : State) : Host.Outcome State Fault Refusal :=
  lift (fun p => pauseDue (atCyc p at_) i now) s

/-- QUIET_REQ (R289). -/
def execQuietReq (path : Path) (ms : Nat) (s : State) : Host.Outcome State Fault Refusal :=
  lift (fun p => commandWrite p path 0x1501 0x08 ms) s

/-- QUIET_WINDOW_END (R289). -/
def execQuietWindowEnd (s : State) : Host.Outcome State Fault Refusal := lift quietEnd s

/-- SELF_REFRESH_ENTER (R292). -/
def execSelfRefreshEnter (now : Nat) (s : State) : Host.Outcome State Fault Refusal := lift (fun p => enterSelfRefresh p now) s

/-- SELF_REFRESH_EXIT (R293). -/
def execSelfRefreshExit (now : Nat) (s : State) : Host.Outcome State Fault Refusal := lift (fun p => exitSelfRefresh p now) s

/-- ALERT_N (R294). -/
def execAlertN (channel : Fin 4) (at_ : Cyc) (s : State) : Host.Outcome State Fault Refusal := lift (fun p => alert p channel at_) s

/-- SCRUB (R298). -/
def execScrub (addr : Nat) (ecc : EccOutcome) (s : State) : Host.Outcome State Fault Refusal := lift (fun p => scrubLine p addr ecc) s

/-- ZERO_FILL (R301). -/
def execZeroFill (s : State) : Host.Outcome State Fault Refusal := lift fillStep s

/-- ZERO_FILL_DONE (R301). -/
def execZeroFillDone (s : State) : Host.Outcome State Fault Refusal := lift fillDone s

end Sys2Proof.Machine
end

