-- ==== Sys2Proof/Machine/Fabric.lean ====
section
/-! DEFINITION. The meanings of the commands of the event fabric and the EVIO pins (chapter 04). -/

namespace Sys2Proof.Machine

/-- The next pulses on their way to event channel ec reach it, where their core cycle lies in the present tick or before (R95, R99), after
everything that reaches a channel before them (R101). While the sample clock is lost nothing does (R22). -/
def assertNext (ec : Nat) (p : Part) : Part :=
  match nextArrival p ec with
  | none => p
  | some t =>
    if p.time.tick < t / 25 ∨ coreStopped p then p
    else reachAt (reachBefore (t, ec) (256 * (t + 1 - ((firstDue (allDue p)).map (·.1)).getD t)) p) ec t

/-- EVIO_IN_EDGE (R105, R106). -/
def execEvioInEdge (pin : Pin) (rising : Bool) (offset held : Nat) (s : State) : Host.Outcome State Fault Refusal :=
  lift (fun p => padEdge p pin rising offset held) s

/-- EVENT_CHANNEL_ASSERT (R99). -/
def execEventChannelAssert (ec : Ec) (s : State) : Host.Outcome State Fault Refusal := lift (assertNext ec) s

/-- EVIO_PULSE_END (R106). -/
def execEvioPulseEnd (pin : Pin) (s : State) : Host.Outcome State Fault Refusal := lift (fun p => endPulse p pin) s

/-- FIRE_MASK (R109): executed in core cycle at_ of the present tick, with the tick that FIRE_AT_TICK holds. -/
def execFireMask (path : Path) (mask : Nat) (at_ : Cyc) (s : State) : Host.Outcome State Fault Refusal :=
  lift (fun p => commandWrite (atCyc p at_) path 0x10E8 0x02 mask) s

/-- TIMED_FIRE (R111): the firings scheduled for the present tick. -/
def execTimedFire (s : State) : Host.Outcome State Fault Refusal := lift (fun p => fireTick (atCyc p 0) p.time.tick) s

end Sys2Proof.Machine
end

