-- ==== Sys2Proof/Machine/Groups.lean ====
section
/-! DEFINITION. The meanings of the commands of the load groups (chapter 08, Table 08-6). -/

namespace Sys2Proof.Machine

/-- LG_CMD of group g is written with a value (Table 08-6). -/
def writeGroup (g : Grp) (path : Path) (v : Nat) (p : Part) : Part := commandWrite p path (0x1A00 + g.val) 0x01 v

/-- ARM (R205). -/
def execArm (path : Path) (g : Grp) (s : State) : Host.Outcome State Fault Refusal := lift (writeGroup g path 1) s

/-- START (R205). -/
def execStart (path : Path) (g : Grp) (s : State) : Host.Outcome State Fault Refusal := lift (writeGroup g path 2) s

/-- STOP (R205). -/
def execStop (path : Path) (g : Grp) (s : State) : Host.Outcome State Fault Refusal := lift (writeGroup g path 3) s

/-- RESTART (R205). -/
def execRestart (path : Path) (g : Grp) (s : State) : Host.Outcome State Fault Refusal := lift (writeGroup g path 4) s

/-- STROBE (R205). -/
def execStrobe (path : Path) (g : Grp) (s : State) : Host.Outcome State Fault Refusal := lift (writeGroup g path 5) s

/-- DISARM (R205). -/
def execDisarm (path : Path) (g : Grp) (s : State) : Host.Outcome State Fault Refusal := lift (writeGroup g path 6) s

/-- LG_STROBE_AT (R208). -/
def execLgStrobeAt (path : Path) (g : Grp) (tick : Nat) (s : State) : Host.Outcome State Fault Refusal :=
  lift (fun p => commandWrite p path (0x1A00 + g.val) 0x03 tick) s

/-- GROUP_START (R141). -/
def execGroupStart (g : Grp) (s : State) : Host.Outcome State Fault Refusal := lift (fun p => startGroup p g) s

/-- GROUP_STOP (R141). -/
def execGroupStop (g : Grp) (s : State) : Host.Outcome State Fault Refusal := lift (fun p => stopGroup p g) s

/-- GROUP_RESTART (R206). -/
def execGroupRestart (g : Grp) (s : State) : Host.Outcome State Fault Refusal := lift (fun p => restartGroup p g) s

/-- LOAD_STROBE (R207). -/
def execLoadStrobe (g : Grp) (s : State) : Host.Outcome State Fault Refusal := lift (fun p => strobeGroup p g) s

end Sys2Proof.Machine
end

