-- ==== Sys2Proof/Machine/Lifecycle.lean ====
section
/-! DEFINITION. The meanings of the commands of reset, start-up, self-test, lifecycle and security (chapters 15 and 16). -/

namespace Sys2Proof.Machine

/-- A whole slot image is committed as FW_IMAGE (R349), as its bytes through the block port or Pearo Link would be. -/
def commitImage (path : Path) (image : FwSlot) (p : Part) : Part :=
  match entryOf G.fwImage with
  | none => p
  | some e =>
    if !reaches p path (G.fwImage / 256) then p
    else
      let code := checkWrite p e G.fwImage 0 false true
      let r := if code ≠ 0 then (p, code) else fwBegin p image
      let l := logged path 1 G.fwImage image.magic (r.1, .done r.2)
      tell l.1 path r.2

/-- POWER_ON (R344, R373). -/
def execPowerOn (pwrOkMs : Nat) (railsInRange : Bool) (s : State) : Host.Outcome State Fault Refusal :=
  liftAlways (fun p => powerOn p pwrOkMs railsInRange) s

/-- POWER_LOSS (R344). -/
def execPowerLoss (s : State) : Host.Outcome State Fault Refusal := liftAlways powerLoss s

/-- RST_N (R344). -/
def execRstN (asserted : Bool) (s : State) : Host.Outcome State Fault Refusal := liftAlways (fun p => resetPin p asserted) s

/-- SUPPLY_MONITOR_RESET (R374). -/
def execSupplyMonitorReset (durationNs : Nat) (s : State) : Host.Outcome State Fault Refusal := lift (fun p => supplyReset p durationNs) s

/-- RESET_CMD (R344). -/
def execResetCmd (path : Path) (value : Nat) (s : State) : Host.Outcome State Fault Refusal :=
  lift (fun p => commandWrite p path 0x1900 0x06 value) s

/-- STARTUP (R350). -/
def execStartup (b : BootInfo) (s : State) : Host.Outcome State Fault Refusal := lift (fun p => startUp p b) s

/-- FW_IMAGE (R349). -/
def execFwImage (path : Path) (image : FwSlot) (s : State) : Host.Outcome State Fault Refusal := lift (commitImage path image) s

/-- FW_UPDATE_DONE (R349). -/
def execFwUpdateDone (s : State) : Host.Outcome State Fault Refusal := lift fwFinish s

/-- FW_ACTIVATE (R349). -/
def execFwActivate (path : Path) (value : Nat) (s : State) : Host.Outcome State Fault Refusal :=
  lift (fun p => commandWrite p path 0x1904 0x03 value) s

/-- NV_COMMIT (R352). -/
def execNvCommit (path : Path) (value : Nat) (s : State) : Host.Outcome State Fault Refusal :=
  lift (fun p => commandWrite p path 0x1903 0x01 value) s

/-- NV_COMMIT_DONE (R352). -/
def execNvCommitDone (s : State) : Host.Outcome State Fault Refusal := lift nvFinish s

/-- SHDN_N_ASSERT (R353). -/
def execShdnNAssert (s : State) : Host.Outcome State Fault Refusal := liftAlways assertShdn s

/-- SHDN_N_RELEASE (R357). -/
def execShdnNRelease (s : State) : Host.Outcome State Fault Refusal := liftAlways releaseShdn s

/-- RUN (R353). -/
def execRun (path : Path) (s : State) : Host.Outcome State Fault Refusal := lift (fun p => commandWrite p path 0x1800 0x02 1) s

/-- ABORT (R355). -/
def execAbort (path : Path) (s : State) : Host.Outcome State Fault Refusal := lift (fun p => commandWrite p path 0x1800 0x02 2) s

/-- SELFTEST_PHASE_DONE (R353). -/
def execSelftestPhaseDone (r : PhaseResult) (s : State) : Host.Outcome State Fault Refusal := lift (fun p => phaseDone p r) s

/-- SELFTEST_END (R357). -/
def execSelftestEnd (at_ : Cyc) (s : State) : Host.Outcome State Fault Refusal := lift (fun p => endTest p at_) s

/-- LC_GO (R364). -/
def execLcGo (path : Path) (value : Nat) (s : State) : Host.Outcome State Fault Refusal :=
  lift (fun p => commandWrite p path 0x1900 0x03 value) s

/-- LC_TRANSITION_DONE (R364). -/
def execLcTransitionDone (s : State) : Host.Outcome State Fault Refusal := lift lcFinish s

/-- ATT_NONCE (R368). -/
def execAttNonce (path : Path) (nonce : Nat) (s : State) : Host.Outcome State Fault Refusal :=
  lift (fun p => commandWrite p path 0x1905 0x0F nonce) s

/-- ATT_SIGN_DONE (R368). -/
def execAttSignDone (s : State) : Host.Outcome State Fault Refusal := lift attFinish s

end Sys2Proof.Machine
end

