-- ==== Sys2Proof/Machine/Link.lean ====
section
/-! DEFINITION. The meanings of the commands of Pearo Link and LLDP (chapter 03). -/

namespace Sys2Proof.Machine

/-- READ (R83). -/
def execRead (h : PlHeader) (items : List PlItem) (s : State) : Host.Outcome State Fault Refusal :=
  lift (fun p => request p h (frameBytes 0 items) fun q =>
    let r := readItems q h.pending items
    reply r.1 h 0 r.2) s

/-- WRITE (R83): each item executes on its own, in order. -/
def execWrite (h : PlHeader) (items : List PlItem) (s : State) : Host.Outcome State Fault Refusal :=
  lift (fun p => request p h (frameBytes 0 items) fun q =>
    let r := writeItems q h 1 true items
    replyItems r.1 h r.2) s

/-- WRITE_BLOCK (R83). -/
def execWriteBlock (h : PlHeader) (items : List PlItem) (s : State) : Host.Outcome State Fault Refusal :=
  lift (fun p => request p h (frameBytes 0 items) fun q => writeBlockFrame q h items) s

/-- SUBSCRIBE (R87). -/
def execSubscribe (h : PlHeader) (period subId mode : Nat) (items : List PlItem) (s : State) : Host.Outcome State Fault Refusal :=
  lift (fun p => request p h (frameBytes 8 items) fun q => subscribeFrame q h period subId mode items) s

/-- PUBLICATION (R87). -/
def execPublication (subId : Nat) (s : State) : Host.Outcome State Fault Refusal := lift (fun p => publish p subId) s

/-- ANNOUNCE (R88). -/
def execAnnounce (port : EthPort) (r : AnnounceRec) (s : State) : Host.Outcome State Fault Refusal := lift (fun p => hearAnnounce p port r) s

/-- ANNOUNCE_SEND (R88). -/
def execAnnounceSend (s : State) : Host.Outcome State Fault Refusal := lift sendAnnounce s

/-- PARTNER_LOST (R88). -/
def execPartnerLost (i : Fin 32) (at_ : Cyc) (s : State) : Host.Outcome State Fault Refusal := lift (fun p => partnerTimeout p i at_) s

/-- DISCOVER (R88). -/
def execDiscover (h : PlHeader) (s : State) : Host.Outcome State Fault Refusal := lift (fun p => request p h 36 fun q => takeDiscover q h) s

/-- DISCOVER_REPLY (R88). -/
def execDiscoverReply (s : State) : Host.Outcome State Fault Refusal := lift answerDiscover s

/-- FIRE_REQUEST (R91): executed in core cycle at_ of the present tick. -/
def execFireRequest (h : PlHeader) (mask atTick : Nat) (at_ : Cyc) (s : State) : Host.Outcome State Fault Refusal :=
  lift (fun p => request (atCyc p at_) h 76 fun q => fireFrame q h mask atTick) s

/-- ATTEST (R92). -/
def execAttest (h : PlHeader) (nonce resume : Nat) (s : State) : Host.Outcome State Fault Refusal :=
  lift (fun p => request p h 72 fun q => attestFrame q h nonce resume) s

/-- LLDP_SEND (R90). -/
def execLldpSend (port : EthPort) (s : State) : Host.Outcome State Fault Refusal := lift (fun p => sendLldp p port) s

/-- LLDP_RECEIVE (R90). -/
def execLldpReceive (port : EthPort) (r : LldpRec) (s : State) : Host.Outcome State Fault Refusal := lift (fun p => takeLldp p port r) s

/-- PL_RX_BAD (R86). -/
def execPlRxBad (s : State) : Host.Outcome State Fault Refusal := lift (fun p => if p.life.recovery then p else addReg p G.plRxBad 1) s

end Sys2Proof.Machine
end

