-- ==== Sys2Proof/Machine/Outputs.lean ====
section
/-! DEFINITION. The meanings of the commands of the outputs and the trim loop (chapter 09). -/

namespace Sys2Proof.Machine

/-- The freeze of channel c ends when its time has passed (R229). -/
def freezeEnds (c : Chan) (p : Part) : Part :=
  match (outOf p c).freezeTo with
  | some t => if t ≤ p.time.tick then endFreeze p c else p
  | none => p

/-- OUTPUT_PARK (R217). -/
def execOutputPark (c : Chan) (s : State) : Host.Outcome State Fault Refusal := lift (fun p => taskPark p c) s

/-- SPAN_RAMP_START (R220). -/
def execSpanRampStart (c : Chan) (s : State) : Host.Outcome State Fault Refusal := lift (fun p => spanRamp p c) s

/-- SPAN_RAMP_END (R220). -/
def execSpanRampEnd (c : Chan) (s : State) : Host.Outcome State Fault Refusal := lift (fun p => spanHold p c) s

/-- SPAN_READY (R221). -/
def execSpanReady (c : Chan) (s : State) : Host.Outcome State Fault Refusal := lift (fun p => spanDone p c) s

/-- CHANNEL_FAULT (R225). -/
def execChannelFault (c : Chan) (cause : Fin 5) (at_ : Cyc) (s : State) : Host.Outcome State Fault Refusal :=
  lift (fun p => channelFault p c cause at_) s

/-- FAULT_CLEAR (R226). -/
def execFaultClear (path : Path) (c : Chan) (value : Nat) (s : State) : Host.Outcome State Fault Refusal :=
  lift (fun p => commandWrite p path (0x2000 + c.val) 0x08 value) s

/-- VDDO_LOW (R218). -/
def execVddoLow (s : State) : Host.Outcome State Fault Refusal := lift vddoFalls s

/-- TRIM_SWAP (R228). -/
def execTrimSwap (s : State) : Host.Outcome State Fault Refusal := lift trimSwap s

/-- TRIM_FREEZE_REQ (R229). -/
def execTrimFreezeReq (path : Path) (c : Chan) (ms : Nat) (s : State) : Host.Outcome State Fault Refusal :=
  lift (fun p => commandWrite p path (0x2000 + c.val) 0x0D ms) s

/-- TRIM_FREEZE_END (R229). -/
def execTrimFreezeEnd (c : Chan) (s : State) : Host.Outcome State Fault Refusal := lift (freezeEnds c) s

/-- TRIM_FORCED (R230). -/
def execTrimForced (c : Chan) (estimate : Nat) (at_ : Cyc) (s : State) : Host.Outcome State Fault Refusal :=
  lift (fun p => trimEstimate p c estimate at_) s

end Sys2Proof.Machine
end

