-- ==== Sys2Proof/Machine/Pair.lean ====
section
/-! DEFINITION. The meanings of the commands of the redundant pair (chapter 14). -/

namespace Sys2Proof.Machine

/-- A paired part sends the heartbeat of the present tick (R330). -/
def sendHeartbeat (p : Part) : Part := if paired p then say p (.heartbeat (heartbeatOf p)) else p

/-- The partner's heartbeat is heard (R328); a part whose pair logic is off ignores the mirror link (Table 14-1). -/
def hearHeartbeat (h : Heartbeat) (p : Part) : Part :=
  if reg p G.pairState = 0 then p else hearTwin { p with pair := { p.pair with hb := some h } }

/-- The reserved set of a part that becomes active, with D_P2 added, fails ADM-01 or ADM-08 (R312, R319, Table 14-8): the code. -/
def pairBudget (p : Part) : Option Nat :=
  let l := p.adm.resv
  let rates := ((namedQueues l).map fun q => reg p (G.sqRate q)).sum
  if l = [] then none
  else if dramCeiling p < chargeOf p l + rates + reg p (G.portShare 3) + fillTerm p then some 1
  else if mirrorCeiling p < rates then some 8
  else none

/-- A handshake with the partner (R342): refused with the first cause of Table 14-8, or the join begins. -/
def handshake (x : PeerInfo) (p : Part) : Part :=
  if !mayJoin p then p
  else
    let p := { p with pair := { p.pair with wanted := false } }
    let cause := joinCauseOf p x
    if cause = 7 then setReg (failJoin p 7) G.pairState 4
    else if cause ≠ 0 then failJoin p cause
    else
      match (if joinRole p x = 1 then pairBudget p else none) with
      | some code => setReg (failJoin p 8) G.admTwinCode code
      | none => beginJoin p x

/-- Step 3 of a join begins (Table 14-9): the hash of the contents goes to the partner. -/
def beginContent (p : Part) : Part :=
  say (setReg (setReg p G.resyncStep 3) G.resyncLeft (contentBytes p).length) (.contentHash (contentHash p))

/-- The contents agree, and step 4 begins (Table 14-9): the active part sends its state image. -/
def beginImage (p : Part) : Part :=
  let p := setReg (setReg p G.resyncStep 4) G.resyncLeft 0
  if isShadow p then p else say p (.stateImage (stateImage p))

/-- The shadow's engine checks the set-up of a group that the image shows armed, and reserves what it needs (R342, cause 8 of Table 14-8); a set-up
that it refuses ends the join. -/
def admitJoined (p : Part) (g : Nat) : Part :=
  let j : AdmJob := ⟨1, g, 0, .mirror, 0, 0, p.gz.regs, p.time.tick, 0⟩
  if reg p (G.lgState g) = 0 ∨ reg p G.pairState ≠ 2 then p
  else
    match setupOk p j true with
    | .inl r => setReg (failJoin p 8) G.admTwinCode r.code
    | .inr (charges, _) => reserveGroup p g charges p.gz.regs (reg p (G.admGEntryReady g))

/-- The shadow loads the state image and admits its groups, and step 5 begins (Table 14-9). -/
def joinImage (p : Part) (i : StateImage) : Part :=
  let p := (List.range 16).foldl admitJoined (takeImage p i)
  if reg p G.pairState = 2 then setReg p G.resyncStep 5 else p

/-- Step 6 of a join begins (Table 14-9): the active part sends the rings. -/
def beginRings (p : Part) : Part :=
  let p := setReg (setReg p G.resyncStep 6) G.resyncLeft (ringLeft p)
  if isShadow p then p else p.pair.ringTo.foldl sendRing p

/-- A step of the join has been done where it ends in no message of the partner (Table 14-9): steps 2 and 4 of the active part, and the later ones. -/
def joinDone (p : Part) : Part :=
  let n := reg p G.resyncStep
  if n = 2 ∧ !isShadow p then beginContent p
  else if n = 4 ∧ !isShadow p then setReg p G.resyncStep 5
  else if n = 5 then beginRings p
  else if n = 6 then
    let p := { p with pair := { p.pair with ringTo := [] } }
    setReg (setReg (setReg p G.resyncStep 7) G.resyncLeft 0) G.pairState 3
  else if n = 7 then setReg p G.resyncStep 0
  else p

/-- A step of the join comes to its end, or the join fails (R343, Table 14-9). [DEDUCED, assumption 61; DESIGN CHOICE, assumption 62] -/
def joinStep (r : JoinResult) (p : Part) : Part :=
  let n := reg p G.resyncStep
  if n = 0 ∨ !paired p then p
  else
    match r with
    | .linkLost => failJoin p 10
    | .refused code => setReg (failJoin p 8) G.admTwinCode (code % 256)
    | .done => joinDone p
    | .config i => if n = 2 ∧ isShadow p then beginContent (takeConfig p i) else p
    | .content h => if n ≠ 3 then p else if h = contentHash p then beginImage p else failJoin p 9
    | .image i => if n = 4 ∧ isShadow p then joinImage p i else p
    | .ring q pos data missing => if n = 6 ∧ isShadow p then takeRing p q pos data missing else p

/-- PAIR_CMD is written with a value (Table 14-10). -/
def writePair (path : Path) (v : Nat) (p : Part) : Part := commandWrite p path 0x1700 0x08 v

/-- HEARTBEAT_SEND (R330). -/
def execHeartbeatSend (s : State) : Host.Outcome State Fault Refusal := lift sendHeartbeat s

/-- HEARTBEAT_RECEIVE (R328). -/
def execHeartbeatReceive (h : Heartbeat) (s : State) : Host.Outcome State Fault Refusal := lift (hearHeartbeat h) s

/-- TWIN_LOST (R328). -/
def execTwinLost (at_ : Cyc) (s : State) : Host.Outcome State Fault Refusal := lift (fun p => loseTwin p at_) s

/-- CAPTURE_LOG_SEND (R331). -/
def execCaptureLogSend (s : State) : Host.Outcome State Fault Refusal := lift sendLog s

/-- CAPTURE_LOG_RECEIVE (R331). -/
def execCaptureLogReceive (tick : Nat) (records : List LogRecord) (at_ : Cyc) (s : State) : Host.Outcome State Fault Refusal :=
  lift (fun p => receiveLog (atCyc p at_) tick at_ records) s

/-- LOST_TICK (R331). -/
def execLostTick (s : State) : Host.Outcome State Fault Refusal := lift loseTick s

/-- MIRROR_WRITE_RECORD (R332). -/
def execMirrorWriteRecord (index sub value : Nat) (s : State) : Host.Outcome State Fault Refusal :=
  lift (fun p => mirrorWrite p index sub value) s

/-- MIRROR_RING_BYTES (R334). -/
def execMirrorRingBytes (q : Queue) (data : List Byte) (s : State) : Host.Outcome State Fault Refusal :=
  lift (fun p => mirrorBytes p q data) s

/-- CUTOFF_RECORD (R334). -/
def execCutoffRecord (q : Queue) (units : Nat) (s : State) : Host.Outcome State Fault Refusal := lift (fun p => cutoffRecord p q units) s

/-- DIGEST_COMPARE (R335), in core cycle 5. -/
def execDigestCompare (s : State) : Host.Outcome State Fault Refusal := lift (fun p => compareDigest (atCyc p 5)) s

/-- DRIVE_IN_CHANGE (R337). -/
def execDriveInChange (asserted : Bool) (s : State) : Host.Outcome State Fault Refusal := lift (fun p => driveIn p asserted) s

/-- DRIVE_CONTENTION (R338). -/
def execDriveContention (s : State) : Host.Outcome State Fault Refusal := lift contend s

/-- JOIN (R342). -/
def execJoin (path : Path) (s : State) : Host.Outcome State Fault Refusal := lift (writePair path 1) s

/-- LEAVE (R343). -/
def execLeave (path : Path) (s : State) : Host.Outcome State Fault Refusal := lift (writePair path 2) s

/-- HANDOVER (R339). -/
def execHandover (path : Path) (s : State) : Host.Outcome State Fault Refusal := lift (writePair path 3) s

/-- FORCE (R338). -/
def execForce (path : Path) (s : State) : Host.Outcome State Fault Refusal := lift (writePair path 4) s

/-- DRIVE_RELEASE (R339). -/
def execDriveRelease (followed : Bool) (s : State) : Host.Outcome State Fault Refusal :=
  lift (fun p => tryShutdown (releaseDrive p followed)) s

/-- TAKEOVER (R339, R340). -/
def execTakeover (s : State) : Host.Outcome State Fault Refusal := lift (fun p => tryShutdown (takeOver p)) s

/-- JOIN_HANDSHAKE (R342). -/
def execJoinHandshake (peer : PeerInfo) (s : State) : Host.Outcome State Fault Refusal := lift (handshake peer) s

/-- JOIN_STEP_DONE (R343). -/
def execJoinStepDone (r : JoinResult) (s : State) : Host.Outcome State Fault Refusal := lift (joinStep r) s

end Sys2Proof.Machine
end

