-- ==== Sys2Proof/Machine/Pipeline.lean ====
section
/-! DEFINITION. The meanings of the commands of the sample pipeline (chapter 01): the tick boundary and the decide stage. -/

namespace Sys2Proof.Machine

/-- TICK_BOUNDARY (R12): the next tick begins; its planned samples are emitted and the stages of the pipeline advance. -/
def execTickBoundary (s : State) : Host.Outcome State Fault Refusal := lift tickBoundary s

/-- DECIDE_STAGE (R12, R140): every sequencer is advanced to the end of the tick after the next. -/
def execDecideStage (s : State) : Host.Outcome State Fault Refusal := liftSeq decideStage s

end Sys2Proof.Machine
end

