-- ==== Sys2Proof/Machine/Segments.lean ====
section
/-! DEFINITION. The meanings of the commands of segments and their load paths (chapter 05), and of BAR4 (chapter 12). -/

namespace Sys2Proof.Machine

/-- SEG_DESC_WRITE (R115). -/
def execSegDescWrite (path : Path) (d value : Nat) (s : State) : Host.Outcome State Fault Refusal :=
  lift (fun p => commandWrite p path (0x4000 + d) 0x01 value) s

/-- EDGE_STORE_WRITE (R134). -/
def execEdgeStoreWrite (path : Path) (data : List Byte) (s : State) : Host.Outcome State Fault Refusal :=
  lift (fun p => commandBulk p path G.edgeStore data) s

/-- BAR4_WRITE (R130, R131). -/
def execBar4Write (offset : Nat) (data : List (Option Byte)) (s : State) : Host.Outcome State Fault Refusal :=
  lift (fun p => if barDead p then p else bar4Store p offset data) s

/-- BAR4_READ (R130). -/
def execBar4Read (offset len : Nat) (s : State) : Host.Outcome State Fault Refusal :=
  lift (fun p =>
    if barDead p then p
    else
      let r := bar4Load p offset len
      say r.1 (.read r.2)) s

/-- LD_GO (R132). -/
def execLdGo (path : Path) (value : Nat) (s : State) : Host.Outcome State Fault Refusal :=
  lift (fun p => commandWrite p path 0x1584 0x0A value) s

/-- LOAD_DMA_DONE (R132). -/
def execLoadDmaDone (source : List Byte) (hostOk : Bool) (s : State) : Host.Outcome State Fault Refusal :=
  lift (fun p => finishLoad p source hostOk) s

/-- UP_DATA (R133). -/
def execUpData (path : Path) (data : List Byte) (s : State) : Host.Outcome State Fault Refusal :=
  lift (fun p => commandBulk p path G.upData data) s

end Sys2Proof.Machine
end

