-- ==== Sys2Proof/Machine/Steps.lean ====
section
/-!
DEFINITION. The meanings of the commands of the sequencer (chapters 06 and 07). A step command is that step of channel c run at its boundary
in the plan of the tick after the next, where the channel stands at a step that this plan has still to run; a release is one advance
of the wait or play at which the channel stands. DECIDE_STAGE runs the same operations on every channel until the plan is whole.
-/

namespace Sys2Proof.Machine

/-- Step i of channel c runs at the cursor, where the plan has still to run a step there (R139, R140). -/
def runStep (c : Chan) (i : Step) : Part → Part := inStage fun p =>
  match (seqOf p c).act with
  | .run pc => if behind (seqOf p c) (planTick p) then advStep p c (planTick p) pc (some i) else p
  | _ => p

/-- A playing PLAYT of channel c advances towards the end of the plan. -/
def runPlayt (c : Chan) : Part → Part := inStage fun p =>
  match (seqOf p c).act with
  | .play x => if x.left = none ∧ behind (seqOf p c) (planTick p) then advPlay p c (planTick p) x else p
  | _ => p

/-- A wait of channel c whose kind passes f advances towards the end of the plan. -/
def runWait (f : WaitFor → Bool) (c : Chan) : Part → Part := inStage fun p =>
  match (seqOf p c).act with
  | .wait w => if f w.what && behind (seqOf p c) (planTick p) then advWait p c (planTick p) w else p
  | _ => p

/-- A WAITEV (R148). -/
def isEventWait : WaitFor → Bool
  | .event _ _ _ _ => true
  | _ => false

/-- Channel c advances where a pending jump has its J0 in the plan or before (R166, R167). -/
def runJump (c : Chan) : Part → Part := inStage fun p =>
  let m := planTick p
  if behind (seqOf p c) m ∧ (pendingJumps p c).any fun j => decide (j.j0 < 250 * (m + 1)) then advance p c m else p

/-- The lead of a list that is the next to pulse: the earliest instant of those that have not. -/
def nextLead : List Lead → Option Lead
  | [] => none
  | x :: r =>
    match nextLead r with
    | none => if x.pulsed then none else some x
    | some y => if !x.pulsed && decide (x.at_ ≤ y.at_) then some x else some y

/-- The first element of a list that is x, replaced by l. -/
def swapOut (x : Lead) (l : List Lead) : List Lead → List Lead
  | [] => []
  | y :: r => if y = x then l ++ r else y :: swapOut x l r

/-- The next lead of channel c is due (R177): its LEAD producer asserts; with 8 leads unresolved it waits, and asserts when the first
of them has resolved whose place no other lead has taken. -/
def pulseLead (c : Chan) (p : Part) : Part :=
  let s := seqOf p c
  match nextLead s.leads with
  | none => p
  | some x =>
    let free := if s.freed.length + openLeads p c < 8 then none else s.freed.min?
    let n := max x.at_ (free.getD 0)
    if p.time.tick < n / 250 ∨ 8 ≤ openLeads p c ∨ coreStopped p then p
    else
      let done := decide (x.start / 250 ≤ p.time.tick)
      let left := match x.doom with
        | some r => { s with leads := swapOut x [] s.leads, retr := s.retr ++ [r] }
        | none => { s with leads := swapOut x (if done then [] else [{ x with pulsed := true }]) s.leads }
      let freed := match free with
        | some t => s.freed.erase t
        | none => s.freed
      let freed := if done ∧ x.doom = none then freed ++ [max n x.start] else freed
      let p := addReg (setSeq p c { left with freed := freed }) (G.leadCount c) 1
      let p := if x.late ∨ x.at_ < n then addReg p (G.leadLate c) 1 else p
      raiseAt p (n / 250) (n % 250) (0x200 + c.val) x.gen

/-- A lead that was retracted makes the RETRACT producer assert, and resolves (R177, R178); none does before the
Graticule is aligned (R22). -/
def pulseRetract (c : Chan) (p : Part) : Part :=
  let s := seqOf p c
  match s.retr with
  | [] => p
  | (n, gen) :: r =>
    if p.time.tick < n / 250 ∨ reg p G.clockState ≠ 0 then p
    else
      raiseAt (addReg (setSeq p c { s with retr := r, freed := s.freed ++ [n] }) (G.retractCount c) 1) (n / 250) (n % 250) (0x300 + c.val) gen

/-- PLAY (R142). -/
def execPlay (c : Chan) (seg count : Nat) (s : State) : Host.Outcome State Fault Refusal := liftSeq (runStep c (.play seg count)) s

/-- PLAYT (R143). -/
def execPlayt (c : Chan) (seg evm : Nat) (clr tickExit : Bool) (s : State) : Host.Outcome State Fault Refusal :=
  liftSeq (runStep c (.playt seg evm clr tickExit)) s

/-- PLAYT_EXIT (R143). -/
def execPlaytExit (c : Chan) (s : State) : Host.Outcome State Fault Refusal := liftSeq (runPlayt c) s

/-- LOOP (R144). -/
def execLoop (c : Chan) (count : Nat) (s : State) : Host.Outcome State Fault Refusal := liftSeq (runStep c (.loop count)) s

/-- ENDL (R144). -/
def execEndl (c : Chan) (s : State) : Host.Outcome State Fault Refusal := liftSeq (runStep c .endl) s

/-- CALL (R145). -/
def execCall (c : Chan) (target : Target) (s : State) : Host.Outcome State Fault Refusal := liftSeq (runStep c (.call target)) s

/-- RET (R145). -/
def execRet (c : Chan) (s : State) : Host.Outcome State Fault Refusal := liftSeq (runStep c .ret) s

/-- JUMP (R146). -/
def execJump (c : Chan) (target : Target) (s : State) : Host.Outcome State Fault Refusal := liftSeq (runStep c (.jump target)) s

/-- BREV (R146). -/
def execBrev (c : Chan) (evm : Nat) (clr : Bool) (target : Target) (s : State) : Host.Outcome State Fault Refusal :=
  liftSeq (runStep c (.brev evm clr target)) s

/-- WAITEV (R148). -/
def execWaitev (c : Chan) (evm : Nat) (clr anchor : Bool) (waitout delay : Nat) (s : State) : Host.Outcome State Fault Refusal :=
  liftSeq (runStep c (.waitev evm clr anchor waitout delay)) s

/-- WAITEV_RELEASE (R148). -/
def execWaitevRelease (c : Chan) (s : State) : Host.Outcome State Fault Refusal := liftSeq (runWait isEventWait c) s

/-- WAITTICK (R149). -/
def execWaittick (c : Chan) (rel : Bool) (waitout offset tick : Nat) (s : State) : Host.Outcome State Fault Refusal :=
  liftSeq (runStep c (.waittick rel waitout offset tick)) s

/-- WAITTICK_RELEASE (R149). -/
def execWaittickRelease (c : Chan) (s : State) : Host.Outcome State Fault Refusal := liftSeq (runWait (fun w => decide (w = .tick)) c) s

/-- SYNC (R150). -/
def execSync (c : Chan) (waitout tag : Nat) (s : State) : Host.Outcome State Fault Refusal := liftSeq (runStep c (.sync waitout tag)) s

/-- SYNC_RELEASE (R150): the rendezvous of group g, as the present decide stage finds it. -/
def execSyncRelease (g : Grp) (s : State) : Host.Outcome State Fault Refusal := lift (inStage fun p => syncTick p g (planTick p)) s

/-- TONE (R151). -/
def execTone (c : Chan) (a : ToneArgs) (s : State) : Host.Outcome State Fault Refusal := liftSeq (runStep c (.tone a)) s

/-- FIRE (R153). -/
def execFire (c : Chan) (s : State) : Host.Outcome State Fault Refusal := liftSeq (runStep c .fire) s

/-- LEVEL (R152). -/
def execLevel (c : Chan) (target value : Nat) (s : State) : Host.Outcome State Fault Refusal := liftSeq (runStep c (.level target value)) s

/-- LEAD (R154). -/
def execLead (c : Chan) (ticks : Nat) (s : State) : Host.Outcome State Fault Refusal := liftSeq (runStep c (.lead ticks)) s

/-- HALT (R155). -/
def execHalt (c : Chan) (hout : Nat) (s : State) : Host.Outcome State Fault Refusal := liftSeq (runStep c (.halt hout)) s

/-- STEPPED_ADVANCE (R171). -/
def execSteppedAdvance (c : Chan) (s : State) : Host.Outcome State Fault Refusal := liftSeq (runWait (fun w => decide (w = .stepped)) c) s

/-- JUMP_TAKE_EFFECT (R167). -/
def execJumpTakeEffect (c : Chan) (s : State) : Host.Outcome State Fault Refusal := liftSeq (runJump c) s

/-- LEAD_PULSE (R177). -/
def execLeadPulse (c : Chan) (s : State) : Host.Outcome State Fault Refusal := lift (pulseLead c) s

/-- RETRACT (R178). -/
def execRetract (c : Chan) (s : State) : Host.Outcome State Fault Refusal := lift (pulseRetract c) s

/-- TRAVERSE_STEP_WRITE (R138). -/
def execTraverseStepWrite (path : Path) (n value : Nat) (s : State) : Host.Outcome State Fault Refusal :=
  lift (fun p => commandWrite p path (0x8000 + n / 16) (2 * (n % 16)) value) s

/-- EV_CLEAR (R141). -/
def execEvClear (path : Path) (c : Chan) (mask : Nat) (s : State) : Host.Outcome State Fault Refusal :=
  lift (fun p => commandWrite p path (0x2300 + c.val) 0x29 mask) s

/-- PLAN_GO (R162). -/
def execPlanGo (path : Path) (c : Chan) (value : Nat) (s : State) : Host.Outcome State Fault Refusal :=
  lift (fun p => commandWrite p path (0x2300 + c.val) 0x53 value) s

/-- PLAN_TAKE_EFFECT (R162). -/
def execPlanTakeEffect (c : Chan) (s : State) : Host.Outcome State Fault Refusal := lift (fun p => planTake p c) s

end Sys2Proof.Machine
end

