-- ==== Sys2Proof/Machine/Stream.lean ====
section
/-! DEFINITION. The meanings of the commands of stream ingress (chapter 11). -/

namespace Sys2Proof.Machine

/-- SQ_ENABLE (R252, R257). -/
def execSqEnable (path : Path) (q : Queue) (value : Nat) (s : State) : Host.Outcome State Fault Refusal :=
  lift (fun p => commandWrite p path (0x1B00 + q.val) 0x01 value) s

/-- DB_TAIL (R256, R257): an access to BAR2. -/
def execDbTail (offset : Nat) (access : Bar2Access) (s : State) : Host.Outcome State Fault Refusal := lift (fun p => bar2 p offset access) s

/-- STREAM_DESC_FETCH (R255). -/
def execStreamDescFetch (q : Queue) (descs : List StreamDesc) (at_ : Cyc) (s : State) : Host.Outcome State Fault Refusal :=
  lift (fun p => fetchDescs p q descs at_) s

/-- STREAM_DESC_COMPLETE (R258). -/
def execStreamDescComplete (q : Queue) (s : State) : Host.Outcome State Fault Refusal := lift (fun p => completeDesc p q) s

/-- COMPLETION_TIMEOUT (R268). -/
def execCompletionTimeout (q : Queue) (s : State) : Host.Outcome State Fault Refusal := lift (fun p => timeout p q) s

/-- HOST_LOST (R268): every cause has the same effect; a link that returns leaves the queues as they are. -/
def execHostLost (event : HostEvent) (s : State) : Host.Outcome State Fault Refusal := lift (fun p => hostEvent p event) s

/-- SQ_NET_DATA (R259). -/
def execSqNetData (path : Path) (q : Queue) (data : List Byte) (s : State) : Host.Outcome State Fault Refusal :=
  lift (fun p => commandBulk p path (G.sqNetData q) data) s

/-- SQ_FLUSH (R254). -/
def execSqFlush (path : Path) (q : Queue) (value : Nat) (s : State) : Host.Outcome State Fault Refusal :=
  lift (fun p => commandWrite p path (0x1B00 + q.val) 0x20 value) s

end Sys2Proof.Machine
end

