-- ==== Sys2Proof/Machine/Time.lean ====
section
/-! DEFINITION. The meanings of the commands of time (chapter 02) and of the presence and seal inputs (chapters 03 and 15). -/

namespace Sys2Proof.Machine

/-- A PTP message of an unsupported option is counted for its port (R28). -/
def countPtp (p : Part) (port : EthPort) : Part :=
  let n := p.time.ptpBad
  { p with time := { p.time with ptpBad := if port = .a then ((n.1 + 1) % 2 ^ 32, n.2) else (n.1, (n.2 + 1) % 2 ^ 32) } }

/-- A PTP message reaches an enabled port (R28): one of another domain, transport or profile than the part's is not for it.
[PRESUMED, assumption 47] -/
def ptpMessage (p : Part) (port : EthPort) (h : PtpHead) (f : Part → Part) : Part :=
  if !ptpEnabled p port then p
  else if h.unsupported ∨ 127 < h.domain then countPtp p port
  else if h.domain = reg p G.ptpDomain ∧ h.transport = reg p G.ptpTransport ∧ h.profile = reg p G.ptpProfile then f p
  else p

/-- A Sync exchange on a port (R29, R32): the selected port steers the Datum in PTP mode; its declared asymmetry is taken off. The Datum moves
by plus the offset. [DESIGN CHOICE, assumption 83] -/
def ptpSync (p : Part) (port : EthPort) (offset meanPath : Int) : Part :=
  if reg p G.timeSource ≠ 1 ∨ reg p G.ptpSelected ≠ (if port = .a then 1 else 2) then p
  else
    let asym := toSigned 32 (reg p (if port = .a then G.ptpAsymA else G.ptpAsymB))
    let o := offset - asym * 65536 / 1000
    measure (setReg (setReg p G.ptpOffset (ofSigned 64 o)) G.ptpMeanPath (ofSigned 64 meanPath)) o

/-- The master heard on a port set or forgotten, and the selection made anew (R29). -/
def setMaster (p : Part) (port : EthPort) (m : Option PtpAnnounce) : Part :=
  match port with
  | .a => putSelection { p with time := { p.time with masterA := m } }
  | .b => putSelection { p with time := { p.time with masterB := m } }

/-- A PTP announce is heard (R29, R89): the grandmaster is a partner of the part as well. -/
def hearMaster (p : Part) (port : EthPort) (r : PtpAnnounce) : Part :=
  hearPartner (setMaster p port (some r)) 1 (r.gmIdentity % 2 ^ 64) 0 (if port = .a then 1 else 2) 0

/-- The master of a port is lost in core cycle cyc (R29): PARTNER_LOST pulses (R88), and the part takes the other port's master, or enters
HOLDOVER. A master of which nothing is heard on this port is not lost. -/
def loseMaster (p : Part) (port : EthPort) (cyc : Nat) : Part :=
  match masterOn p port with
  | none => atCyc p cyc
  | some m =>
    let p := match partnerSlot p 1 (m.gmIdentity % 2 ^ 64) with
      | some i => losePartner p i cyc
      | none => raiseNow (atCyc p cyc) 0xB82
    let p := setMaster p port none
    if reg p G.timeSource = 1 ∧ reg p G.ptpSelected = 0 then loseSource p else p

/-- Past HOLDOVER_LIMIT the Datum falls to FREE (R32, R33). -/
def judgeHoldover (p : Part) : Part :=
  if reg p G.timeState = 3 ∧ reg p G.holdoverLimit * 1000 < holdEstimate p then enterTimeState p 0 else p

/-- The slew in progress has removed its offset, and with it what a pending step was for (R35, R36); at SLEW_MAX it cannot have sooner.
[DEDUCED, assumption 49] -/
def endSlew (p : Part) : Part :=
  if slewLeft p = 0 then clearTimeFlag (clearTimeFlag { p with time := { p.time with slew := 0, step := none } } 0) 5 else p

/-- A pending step is applied once every load group is stopped, by what the slew has not removed (R35, R37). -/
def applyStep (p : Part) : Part :=
  match p.time.step with
  | some _ => if anyRuns p then p else if slewLeft p = 0 then endSlew p else stepDatum p (slewLeft p)
  | none => p

/-- REFIN is lost (Table 02-11): HOLDOVER, with the estimate at 10 ppm, and no start until it is back and the clock has relocked. -/
def loseRefin (p : Part) : Part :=
  let p := restartEstimate p
  loseSource (setTimeFlag { p with time := { p.time with refinOut := true } } 1)

/-- REFIN returns (R56): the synthesizer relocks onto it, and the error that has built up is slewed out. -/
def returnRefin (p : Part) (offset : Int) : Part :=
  if regBit p G.timeFlags 1 then removeOffset (clearTimeFlag (restartEstimate p) 1) offset else p

/-- The synthesizer has relocked (R39, R56): alignment waits for it, and starts after a loss of REFIN that has returned (Table 02-11). -/
def clockRelocks (p : Part) : Part :=
  { p with time := { p.time with locked := true, refinOut := p.time.refinOut && regBit p G.timeFlags 1 } }

/-- The drift of tick instants against the Datum in SCLK mode (R40). -/
def measureDrift (p : Part) (drift sclkPpb : Int) : Part :=
  if reg p G.sclkSelect ≠ 1 then p
  else
    let p := setReg p G.tickDrift (ofSigned 32 drift)
    if 400 < |drift| ∨ 2000 < |sclkPpb| then setTimeFlag p 3 else clearTimeFlag p 3

/-- The whole Datum second that begins in the present tick, if one does, and its sample in the tick: with its first sample while the Graticule is
aligned (R43), anywhere otherwise. [DEDUCED, assumption 48] -/
def secondIn (p : Part) : Option (Nat × Nat) :=
  if reg p G.clockState = 0 then
    if signedTick p.time.tick % (max 1 (reg p G.ticksPerSecond) : Nat) = 0 then
      some ((datumOf p p.time.tick 0 / (secondUnits : Nat)).toNat, 0)
    else none
  else
    let rest := (secondUnits - p.time.datum % secondUnits) % secondUnits
    if rest < tickUnits p then some ((p.time.datum + rest) / secondUnits, min 249 (250 * rest / max 1 (tickUnits p))) else none

/-- A whole Datum second begins (R43, R47, R50): the PPS producer pulses where the core runs, PPS_OUT rises where its mode lets it, and a SYNC
source drives its pulse of 8 samples. -/
def secondEdge (p : Part) : Part :=
  match secondIn p with
  | none => p
  | some (second, s) =>
    let p := if coreStopped p then p else raiseAt (atCyc p (s / 10)) p.time.tick s 0xB80 0
    let mode := reg p G.ppsOutMode
    let st := reg p G.timeState
    let p := if mode = 2 ∨ (mode = 1 ∧ (st = 2 ∨ st = 3)) then say p (.ppsOut second (reg p G.ppsOutWidth)) else p
    if reg p G.syncMode = 1 ∧ !coreStopped p then say p (.syncOut 8 0) else p

/-- A master port sends its Announce with what it advertises (R30, Table 02-3). -/
def sendPtpAnnounce (p : Part) (port : EthPort) : Part :=
  if masterAt p port && !p.life.recovery then
    say p (.ptpAnnounce port (clockClass p) (reg p G.ptpPriority1) (reg p G.ptpPriority2))
  else p

/-- PTP_SYNC_EXCHANGE (R32). -/
def execPtpSyncExchange (port : EthPort) (h : PtpHead) (offset meanPath : Int) (at_ : Cyc) (s : State) : Host.Outcome State Fault Refusal :=
  lift (fun p => ptpMessage (atCyc p at_) port h fun q => ptpSync q port offset meanPath) s

/-- PTP_ANNOUNCE_RECEIVE (R29). -/
def execPtpAnnounceReceive (port : EthPort) (h : PtpHead) (r : PtpAnnounce) (s : State) : Host.Outcome State Fault Refusal :=
  lift (fun p => ptpMessage p port h fun q => hearMaster q port r) s

/-- PTP_MASTER_LOST (R29). -/
def execPtpMasterLost (port : EthPort) (at_ : Cyc) (s : State) : Host.Outcome State Fault Refusal :=
  lift (fun p => loseMaster p port at_) s

/-- PPS_IN_EDGE (R31). -/
def execPpsInEdge (err dev : Int) (at_ : Cyc) (s : State) : Host.Outcome State Fault Refusal :=
  lift (fun p => ppsEdge (atCyc p at_) err dev) s

/-- PPS_IN_MISSING (R31). -/
def execPpsInMissing (at_ : Cyc) (s : State) : Host.Outcome State Fault Refusal := lift (fun p => ppsMissing (atCyc p at_)) s

/-- HOLDOVER_LIMIT (R33). -/
def execHoldoverLimit (at_ : Cyc) (s : State) : Host.Outcome State Fault Refusal := lift (fun p => judgeHoldover (atCyc p at_)) s

/-- SLEW_END (R36). -/
def execSlewEnd (s : State) : Host.Outcome State Fault Refusal := lift endSlew s

/-- DATUM_STEP (R35, R37). -/
def execDatumStep (s : State) : Host.Outcome State Fault Refusal := lift applyStep s

/-- REFIN_LOST (R55). -/
def execRefinLost (at_ : Cyc) (s : State) : Host.Outcome State Fault Refusal := lift (fun p => loseRefin (atCyc p at_)) s

/-- REFIN_RETURN (R56). -/
def execRefinReturn (offset : Int) (s : State) : Host.Outcome State Fault Refusal := lift (fun p => returnRefin p offset) s

/-- SAMPLE_CLOCK_LOST (R22). -/
def execSampleClockLost (at_ : Cyc) (s : State) : Host.Outcome State Fault Refusal := lift (fun p => loseClock p at_) s

/-- SAMPLE_CLOCK_RETURN (R22). -/
def execSampleClockReturn (s : State) : Host.Outcome State Fault Refusal := lift returnClock s

/-- TICK_DRIFT_MEASURE (R40). -/
def execTickDriftMeasure (drift sclkPpb : Int) (s : State) : Host.Outcome State Fault Refusal := lift (fun p => measureDrift p drift sclkPpb) s

/-- FS_KHZ_WRITE (R39). -/
def execFsKhzWrite (path : Path) (value : Nat) (s : State) : Host.Outcome State Fault Refusal :=
  lift (fun p => commandWrite p path 0x1220 0x03 value) s

/-- CLOCK_RELOCKED (R39, R44): alignment waits for it. -/
def execClockRelocked (s : State) : Host.Outcome State Fault Refusal := lift clockRelocks s

/-- EPOCH_WRITE (R41). -/
def execEpochWrite (path : Path) (value : Nat) (s : State) : Host.Outcome State Fault Refusal :=
  lift (fun p => commandWrite p path 0x1220 0x01 value) s

/-- DATUM_SET (R53). -/
def execDatumSet (path : Path) (value : Nat) (s : State) : Host.Outcome State Fault Refusal :=
  lift (fun p => commandWrite p path 0x1220 0x07 value) s

/-- GRATICULE_ALIGNED (R44). -/
def execGraticuleAligned (second : Nat) (s : State) : Host.Outcome State Fault Refusal := lift (fun p => alignGraticule p second) s

/-- PPS_OUT_EDGE (R50). -/
def execPpsOutEdge (s : State) : Host.Outcome State Fault Refusal := lift secondEdge s

/-- SYNC_IN_EDGE (R48). -/
def execSyncInEdge (phasePs : Int) (s : State) : Host.Outcome State Fault Refusal := lift (fun p => syncEdge p phasePs) s

/-- SYNC_IN_MISSING (R48). -/
def execSyncInMissing (s : State) : Host.Outcome State Fault Refusal := lift syncMissing s

/-- ALARM_ENABLE (R52). -/
def execAlarmEnable (path : Path) (a : AlarmNo) (value : Nat) (s : State) : Host.Outcome State Fault Refusal :=
  lift (fun p => commandWrite p path (0x1230 + a.val) 0x04 value) s

/-- ALARM (R52). -/
def execAlarm (a : AlarmNo) (s : State) : Host.Outcome State Fault Refusal := lift (fun p => fireAlarm p a) s

/-- PTP_MASTER_ANNOUNCE (R30). -/
def execPtpMasterAnnounce (port : EthPort) (s : State) : Host.Outcome State Fault Refusal := lift (fun p => sendPtpAnnounce p port) s

/-- PRESENCE_ASSERT (R65). -/
def execPresenceAssert (heldMs releasedMs : Nat) (s : State) : Host.Outcome State Fault Refusal :=
  lift (fun p => openPresence p heldMs releasedMs) s

/-- PRESENCE_WINDOW_CLOSE (R65). -/
def execPresenceWindowClose (s : State) : Host.Outcome State Fault Refusal := lift closePresence s

/-- TAMPER (R369): SEAL_LOOP is found open. -/
def execTamper (at_ : Cyc) (s : State) : Host.Outcome State Fault Refusal := lift (fun p => breakSeal p at_) s

end Sys2Proof.Machine
end

