-- ==== Sys2Proof/Machine/Watch.lean ====
section
/-! DEFINITION. The meanings of the commands of Output Watch (chapter 10). -/

namespace Sys2Proof.Machine

/-- WATCH_READING (R236 to R240). -/
def execWatchReading (w : Fin 16) (outP outN : Int) (refOk : Bool) (s : State) : Host.Outcome State Fault Refusal :=
  lift (fun p => watchRead p w outP outN refOk) s

/-- WATCH_VERDICT (R242). -/
def execWatchVerdict (c : Chan) (s : State) : Host.Outcome State Fault Refusal := lift (fun p => watchCompare p c) s

/-- WATCH_CAUSE_CLEAR (R245). -/
def execWatchCauseClear (path : Path) (c : Chan) (mask : Nat) (s : State) : Host.Outcome State Fault Refusal :=
  lift (fun p => commandWrite p path (0x2500 + c.val) 0x08 mask) s

end Sys2Proof.Machine
end

