-- ==== Sys2Proof/Machine/Dispatch.lean ====
section
/-! DEFINITION. The meaning of every command, one arm per constructor. -/

namespace Sys2Proof.Machine

def exec (i : Instr) (s : State) : Host.Outcome State Fault Refusal :=
  match i with
  | .tickBoundary => Sys2Proof.Machine.execTickBoundary s
  | .decideStage => Sys2Proof.Machine.execDecideStage s
  | .play c seg count => Sys2Proof.Machine.execPlay c seg count s
  | .playt c seg evm clr tickExit => Sys2Proof.Machine.execPlayt c seg evm clr tickExit s
  | .playtExit c => Sys2Proof.Machine.execPlaytExit c s
  | .loop c count => Sys2Proof.Machine.execLoop c count s
  | .endl c => Sys2Proof.Machine.execEndl c s
  | .call c target => Sys2Proof.Machine.execCall c target s
  | .ret c => Sys2Proof.Machine.execRet c s
  | .jump c target => Sys2Proof.Machine.execJump c target s
  | .brev c evm clr target => Sys2Proof.Machine.execBrev c evm clr target s
  | .waitev c evm clr anchor waitout delay => Sys2Proof.Machine.execWaitev c evm clr anchor waitout delay s
  | .waitevRelease c => Sys2Proof.Machine.execWaitevRelease c s
  | .waittick c rel waitout offset tick => Sys2Proof.Machine.execWaittick c rel waitout offset tick s
  | .waittickRelease c => Sys2Proof.Machine.execWaittickRelease c s
  | .sync c waitout tag => Sys2Proof.Machine.execSync c waitout tag s
  | .syncRelease g => Sys2Proof.Machine.execSyncRelease g s
  | .tone c a => Sys2Proof.Machine.execTone c a s
  | .fire c => Sys2Proof.Machine.execFire c s
  | .level c target value => Sys2Proof.Machine.execLevel c target value s
  | .lead c ticks => Sys2Proof.Machine.execLead c ticks s
  | .halt c hout => Sys2Proof.Machine.execHalt c hout s
  | .steppedAdvance c => Sys2Proof.Machine.execSteppedAdvance c s
  | .jumpTakeEffect c => Sys2Proof.Machine.execJumpTakeEffect c s
  | .leadPulse c => Sys2Proof.Machine.execLeadPulse c s
  | .retract c => Sys2Proof.Machine.execRetract c s
  | .traverseStepWrite p n value => Sys2Proof.Machine.execTraverseStepWrite p n value s
  | .evClear p c mask => Sys2Proof.Machine.execEvClear p c mask s
  | .planGo p c value => Sys2Proof.Machine.execPlanGo p c value s
  | .planTakeEffect c => Sys2Proof.Machine.execPlanTakeEffect c s
  | .gazetteerWrite w => Sys2Proof.Machine.execGazetteerWrite w s
  | .bar0StagedWordWrite requester slot high data => Sys2Proof.Machine.execBar0StagedWordWrite requester slot high data s
  | .bar0SnapshotRead requester slot be => Sys2Proof.Machine.execBar0SnapshotRead requester slot be s
  | .bar0CrossingAccess requester slot write data => Sys2Proof.Machine.execBar0CrossingAccess requester slot write data s
  | .bar0UnsupportedRequest requester => Sys2Proof.Machine.execBar0UnsupportedRequest requester s
  | .logClear p value => Sys2Proof.Machine.execLogClear p value s
  | .bpTarget p value => Sys2Proof.Machine.execBpTarget p value s
  | .bpData p data => Sys2Proof.Machine.execBpData p data s
  | .bpCommit p value => Sys2Proof.Machine.execBpCommit p value s
  | .postDone d => Sys2Proof.Machine.execPostDone d s
  | .read h items => Sys2Proof.Machine.execRead h items s
  | .write h items => Sys2Proof.Machine.execWrite h items s
  | .writeBlock h items => Sys2Proof.Machine.execWriteBlock h items s
  | .subscribe h period subId mode items => Sys2Proof.Machine.execSubscribe h period subId mode items s
  | .publication subId => Sys2Proof.Machine.execPublication subId s
  | .announce port r => Sys2Proof.Machine.execAnnounce port r s
  | .announceSend => Sys2Proof.Machine.execAnnounceSend s
  | .partnerLost n at_ => Sys2Proof.Machine.execPartnerLost n at_ s
  | .discover h => Sys2Proof.Machine.execDiscover h s
  | .discoverReply => Sys2Proof.Machine.execDiscoverReply s
  | .fireRequest h mask atTick at_ => Sys2Proof.Machine.execFireRequest h mask atTick at_ s
  | .attest h nonce resume => Sys2Proof.Machine.execAttest h nonce resume s
  | .lldpSend port => Sys2Proof.Machine.execLldpSend port s
  | .lldpReceive port r => Sys2Proof.Machine.execLldpReceive port r s
  | .ptpSyncExchange port h offset meanPath at_ => Sys2Proof.Machine.execPtpSyncExchange port h offset meanPath at_ s
  | .ptpAnnounceReceive port h r => Sys2Proof.Machine.execPtpAnnounceReceive port h r s
  | .ptpMasterLost port at_ => Sys2Proof.Machine.execPtpMasterLost port at_ s
  | .ppsInEdge err dev at_ => Sys2Proof.Machine.execPpsInEdge err dev at_ s
  | .ppsInMissing at_ => Sys2Proof.Machine.execPpsInMissing at_ s
  | .holdoverLimit at_ => Sys2Proof.Machine.execHoldoverLimit at_ s
  | .slewEnd => Sys2Proof.Machine.execSlewEnd s
  | .datumStep => Sys2Proof.Machine.execDatumStep s
  | .refinLost at_ => Sys2Proof.Machine.execRefinLost at_ s
  | .refinReturn offset => Sys2Proof.Machine.execRefinReturn offset s
  | .sampleClockLost at_ => Sys2Proof.Machine.execSampleClockLost at_ s
  | .tickDriftMeasure drift sclkPpb => Sys2Proof.Machine.execTickDriftMeasure drift sclkPpb s
  | .fsKhzWrite p value => Sys2Proof.Machine.execFsKhzWrite p value s
  | .clockRelocked => Sys2Proof.Machine.execClockRelocked s
  | .epochWrite p value => Sys2Proof.Machine.execEpochWrite p value s
  | .datumSet p value => Sys2Proof.Machine.execDatumSet p value s
  | .graticuleAligned second => Sys2Proof.Machine.execGraticuleAligned second s
  | .ppsOutEdge => Sys2Proof.Machine.execPpsOutEdge s
  | .syncInEdge phasePs => Sys2Proof.Machine.execSyncInEdge phasePs s
  | .alarmEnable p a value => Sys2Proof.Machine.execAlarmEnable p a value s
  | .alarm a => Sys2Proof.Machine.execAlarm a s
  | .presenceAssert heldMs releasedMs => Sys2Proof.Machine.execPresenceAssert heldMs releasedMs s
  | .presenceWindowClose => Sys2Proof.Machine.execPresenceWindowClose s
  | .tamper at_ => Sys2Proof.Machine.execTamper at_ s
  | .evioInEdge pin rising offset held => Sys2Proof.Machine.execEvioInEdge pin rising offset held s
  | .eventChannelAssert ec => Sys2Proof.Machine.execEventChannelAssert ec s
  | .evioPulseEnd pin => Sys2Proof.Machine.execEvioPulseEnd pin s
  | .fireMask p mask at_ => Sys2Proof.Machine.execFireMask p mask at_ s
  | .timedFire => Sys2Proof.Machine.execTimedFire s
  | .segDescWrite p d value => Sys2Proof.Machine.execSegDescWrite p d value s
  | .edgeStoreWrite p data => Sys2Proof.Machine.execEdgeStoreWrite p data s
  | .bar4Write offset data => Sys2Proof.Machine.execBar4Write offset data s
  | .bar4Read offset len => Sys2Proof.Machine.execBar4Read offset len s
  | .ldGo p value => Sys2Proof.Machine.execLdGo p value s
  | .loadDmaDone source hostOk => Sys2Proof.Machine.execLoadDmaDone source hostOk s
  | .upData p data => Sys2Proof.Machine.execUpData p data s
  | .toneGateMute c => Sys2Proof.Machine.execToneGateMute c s
  | .toneGateUnmute c => Sys2Proof.Machine.execToneGateUnmute c s
  | .pacedPush p c entry => Sys2Proof.Machine.execPacedPush p c entry s
  | .pacedFlush p c value => Sys2Proof.Machine.execPacedFlush p c value s
  | .pacedApply c => Sys2Proof.Machine.execPacedApply c s
  | .arm p g => Sys2Proof.Machine.execArm p g s
  | .start p g => Sys2Proof.Machine.execStart p g s
  | .stop p g => Sys2Proof.Machine.execStop p g s
  | .restart p g => Sys2Proof.Machine.execRestart p g s
  | .strobe p g => Sys2Proof.Machine.execStrobe p g s
  | .disarm p g => Sys2Proof.Machine.execDisarm p g s
  | .lgStrobeAt p g tick => Sys2Proof.Machine.execLgStrobeAt p g tick s
  | .groupStart g => Sys2Proof.Machine.execGroupStart g s
  | .groupStop g => Sys2Proof.Machine.execGroupStop g s
  | .groupRestart g => Sys2Proof.Machine.execGroupRestart g s
  | .loadStrobe g => Sys2Proof.Machine.execLoadStrobe g s
  | .outputPark c => Sys2Proof.Machine.execOutputPark c s
  | .spanRampStart c => Sys2Proof.Machine.execSpanRampStart c s
  | .spanRampEnd c => Sys2Proof.Machine.execSpanRampEnd c s
  | .spanReady c => Sys2Proof.Machine.execSpanReady c s
  | .channelFault c cause at_ => Sys2Proof.Machine.execChannelFault c cause at_ s
  | .faultClear p c value => Sys2Proof.Machine.execFaultClear p c value s
  | .vddoLow => Sys2Proof.Machine.execVddoLow s
  | .trimSwap => Sys2Proof.Machine.execTrimSwap s
  | .trimFreezeReq p c ms => Sys2Proof.Machine.execTrimFreezeReq p c ms s
  | .trimFreezeEnd c => Sys2Proof.Machine.execTrimFreezeEnd c s
  | .trimForced c estimate at_ => Sys2Proof.Machine.execTrimForced c estimate at_ s
  | .watchReading w vd vc refOk => Sys2Proof.Machine.execWatchReading w vd vc refOk s
  | .watchVerdict c => Sys2Proof.Machine.execWatchVerdict c s
  | .watchCauseClear p c mask => Sys2Proof.Machine.execWatchCauseClear p c mask s
  | .sqEnable p q value => Sys2Proof.Machine.execSqEnable p q value s
  | .dbTail offset access => Sys2Proof.Machine.execDbTail offset access s
  | .streamDescFetch q descs at_ => Sys2Proof.Machine.execStreamDescFetch q descs at_ s
  | .streamDescComplete q => Sys2Proof.Machine.execStreamDescComplete q s
  | .completionTimeout q => Sys2Proof.Machine.execCompletionTimeout q s
  | .hostLost event => Sys2Proof.Machine.execHostLost event s
  | .sqNetData p q data => Sys2Proof.Machine.execSqNetData p q data s
  | .sqFlush p q value => Sys2Proof.Machine.execSqFlush p q value s
  | .dramTrainingDone speed r => Sys2Proof.Machine.execDramTrainingDone speed r s
  | .dramRequest port now deadline addr len data => Sys2Proof.Machine.execDramRequest port now deadline addr len data s
  | .dramCommandSlot p now ecc sampled at_ => Sys2Proof.Machine.execDramCommandSlot p now ecc sampled at_ s
  | .rowIdleClose p rank bank now => Sys2Proof.Machine.execRowIdleClose p rank bank now s
  | .refreshDue p rank now => Sys2Proof.Machine.execRefreshDue p rank now s
  | .deviceTempRead p rank hot => Sys2Proof.Machine.execDeviceTempRead p rank hot s
  | .dqsOscRead p driftPs now at_ => Sys2Proof.Machine.execDqsOscRead p driftPs now at_ s
  | .retrainPause p now at_ => Sys2Proof.Machine.execRetrainPause p now at_ s
  | .quietReq p ms => Sys2Proof.Machine.execQuietReq p ms s
  | .quietWindowEnd => Sys2Proof.Machine.execQuietWindowEnd s
  | .selfRefreshEnter now => Sys2Proof.Machine.execSelfRefreshEnter now s
  | .selfRefreshExit now => Sys2Proof.Machine.execSelfRefreshExit now s
  | .alertN channel at_ => Sys2Proof.Machine.execAlertN channel at_ s
  | .scrub addr ecc => Sys2Proof.Machine.execScrub addr ecc s
  | .zeroFill => Sys2Proof.Machine.execZeroFill s
  | .zeroFillDone => Sys2Proof.Machine.execZeroFillDone s
  | .admissionVerdict shadowCode shadowDigest at_ => Sys2Proof.Machine.execAdmissionVerdict shadowCode shadowDigest at_ s
  | .heartbeatSend => Sys2Proof.Machine.execHeartbeatSend s
  | .heartbeatReceive h => Sys2Proof.Machine.execHeartbeatReceive h s
  | .twinLost at_ => Sys2Proof.Machine.execTwinLost at_ s
  | .captureLogSend => Sys2Proof.Machine.execCaptureLogSend s
  | .captureLogReceive tick records at_ => Sys2Proof.Machine.execCaptureLogReceive tick records at_ s
  | .lostTick => Sys2Proof.Machine.execLostTick s
  | .mirrorWriteRecord index sub value => Sys2Proof.Machine.execMirrorWriteRecord index sub value s
  | .mirrorRingBytes q data => Sys2Proof.Machine.execMirrorRingBytes q data s
  | .cutoffRecord q units => Sys2Proof.Machine.execCutoffRecord q units s
  | .digestCompare => Sys2Proof.Machine.execDigestCompare s
  | .driveInChange asserted => Sys2Proof.Machine.execDriveInChange asserted s
  | .driveContention => Sys2Proof.Machine.execDriveContention s
  | .join p => Sys2Proof.Machine.execJoin p s
  | .leave p => Sys2Proof.Machine.execLeave p s
  | .handover p => Sys2Proof.Machine.execHandover p s
  | .force p => Sys2Proof.Machine.execForce p s
  | .driveRelease followed => Sys2Proof.Machine.execDriveRelease followed s
  | .takeover => Sys2Proof.Machine.execTakeover s
  | .joinHandshake peer => Sys2Proof.Machine.execJoinHandshake peer s
  | .joinStepDone r => Sys2Proof.Machine.execJoinStepDone r s
  | .powerOn pwrOkMs railsInRange => Sys2Proof.Machine.execPowerOn pwrOkMs railsInRange s
  | .rstN asserted => Sys2Proof.Machine.execRstN asserted s
  | .supplyMonitorReset durationNs => Sys2Proof.Machine.execSupplyMonitorReset durationNs s
  | .resetCmd p value => Sys2Proof.Machine.execResetCmd p value s
  | .startup b => Sys2Proof.Machine.execStartup b s
  | .fwImage p image => Sys2Proof.Machine.execFwImage p image s
  | .fwActivate p value => Sys2Proof.Machine.execFwActivate p value s
  | .nvCommit p value => Sys2Proof.Machine.execNvCommit p value s
  | .nvCommitDone => Sys2Proof.Machine.execNvCommitDone s
  | .shdnNAssert => Sys2Proof.Machine.execShdnNAssert s
  | .shdnNRelease => Sys2Proof.Machine.execShdnNRelease s
  | .run p => Sys2Proof.Machine.execRun p s
  | .abort p => Sys2Proof.Machine.execAbort p s
  | .selftestPhaseDone r => Sys2Proof.Machine.execSelftestPhaseDone r s
  | .selftestEnd at_ => Sys2Proof.Machine.execSelftestEnd at_ s
  | .lcGo p value => Sys2Proof.Machine.execLcGo p value s
  | .lcTransitionDone => Sys2Proof.Machine.execLcTransitionDone s
  | .attNonce p nonce => Sys2Proof.Machine.execAttNonce p nonce s
  | .attSignDone => Sys2Proof.Machine.execAttSignDone s
  | .sampleClockReturn => Sys2Proof.Machine.execSampleClockReturn s
  | .syncInMissing => Sys2Proof.Machine.execSyncInMissing s
  | .powerLoss => Sys2Proof.Machine.execPowerLoss s
  | .plRxBad => Sys2Proof.Machine.execPlRxBad s
  | .fwUpdateDone => Sys2Proof.Machine.execFwUpdateDone s
  | .ptpMasterAnnounce port => Sys2Proof.Machine.execPtpMasterAnnounce port s
  | .writeOnlyRead requester slot => Sys2Proof.Machine.execWriteOnlyRead requester slot s

end Sys2Proof.Machine
end

