-- ==== Sys2Proof/Machine/Step.lean ====
section
/-!
DEFINITION. One step of the block: the command at the front of the queue is taken and executed. With no command waiting the block
idles (assumption 11).
-/

namespace Sys2Proof.Machine

/-- The command at the front of the queue is executed on the state that holds the rest of the queue.
[DESIGN CHOICE, assumption 1; DESIGN CHOICE, assumption 11] -/
def step (s : State) : Host.Outcome State Fault Refusal :=
  match s.pending with
  | [] => .next s
  | i :: rest => exec i { s with pending := rest }

/-- The state with the command that a table word spells at the front of its queue; unchanged where the word spells none.
[DESIGN CHOICE, assumption 16; DEDUCED, assumption 17] -/
def State.withFetchWord (s : State) (nbits w : Nat) : State :=
  match decodeTableWord nbits w with
  | some i => { s with pending := i :: s.pending }
  | none => s

end Sys2Proof.Machine
end

