-- ==== Sys2Proof/WellFormed.lean ====
section
/-!
DEFINITION. Which commands are well formed: each operand lies in the range that the spec gives the thing it stands for (a field of a
step in the range of Table 06-2, a value of 128 bits, an offset within a tick, a byte enable of a slot). A command that is not
well formed is none that the outside world can send; the meanings answer for it all the same.
-/

namespace Sys2Proof

/-- A path's session or requester fits its field (Table 03-12, Table 03-14). -/
def pathOk : Path → Bool
  | .bar0 r => decide (r < 2 ^ 16)
  | .portA s => decide (s < 2 ^ 32)
  | .portB s => decide (s < 2 ^ 32)
  | .mirror => true
  | .management => true

/-- A BAR0 slot lies in the space of indices 0x0000 to 0xFFFF (R68). -/
def slotOk (slot : Nat) : Bool := decide (slot < 2 ^ 24)

/-- A Pearo Link header's fields fit (Table 03-14). -/
def headerOk (h : PlHeader) : Bool :=
  decide (h.source < 2 ^ 128) && decide (h.udpPort < 2 ^ 16) && decide (h.session < 2 ^ 32) && decide (h.seq < 2 ^ 32)

/-- An item's fields fit (Table 03-15). -/
def itemOk (i : PlItem) : Bool :=
  decide (i.index < 2 ^ 16) && decide (i.sub < 256) && decide (i.type < 256) && decide (i.len < 2 ^ 32) && decide (i.offset < 2 ^ 32)

/-- A request's header and items fit. -/
def requestOk (h : PlHeader) (l : List PlItem) : Bool := headerOk h && l.all itemOk

/-- A GAZETTEER_WRITE names an entry that can exist: enables of one slot, or a whole value of at most 256 bits (R57, R69). -/
def writeFormOk : WriteForm → Bool
  | .slot r slot _ _ => decide (r < 2 ^ 16) && slotOk slot
  | .whole p i s v => pathOk p && decide (i < 2 ^ 16) && decide (s < 256) && decide (v < 2 ^ 256)

/-- The step constructor with its fields in range (Table 06-2). -/
def stepFits (s : Machine.Step) : Bool := Machine.stepOk s

/-- A PTP message's domainNumber is a byte, and its announce's fields fit (Table 02-2, R29). -/
def ptpOk (h : PtpHead) (r : PtpAnnounce) : Bool :=
  decide (h.domain < 256 ∧ r.gmIdentity < 2 ^ 64 ∧ r.priority1 < 256 ∧ r.clockClass < 256 ∧ r.accuracy < 256 ∧ r.variance < 2 ^ 16 ∧
    r.priority2 < 256 ∧ r.stepsRemoved < 2 ^ 16)

/-- An access to BAR2 lies within its 512 KiB, and a write's value in its bytes (R249, R256). -/
def bar2Ok (offset : Nat) : Bar2Access → Bool
  | .write n v => decide (offset < 2 ^ 19 ∧ 1 ≤ n ∧ n ≤ 8 ∧ v < 256 ^ n)
  | .read n => decide (offset < 2 ^ 19 ∧ 1 ≤ n)

/-- What a step of a join brings fits (R343): a hash of 256 bits, a position of a queue. -/
def joinOk : Machine.JoinResult → Bool
  | .content h => decide (h < 2 ^ 256)
  | .ring q _ _ _ => decide (q < 64)
  | .refused c => decide (c < 256)
  | _ => true

/-- The command's operands are in their ranges. -/
def wellFormed : Instr → Bool
  | .tickBoundary => true
  | .decideStage => true
  | .play _ g n => stepFits (.play g n)
  | .playt _ g e c x => stepFits (.playt g e c x)
  | .playtExit _ => true
  | .loop _ n => stepFits (.loop n)
  | .endl _ => true
  | .call _ t => stepFits (.call t)
  | .ret _ => true
  | .jump _ t => stepFits (.jump t)
  | .brev _ e c t => stepFits (.brev e c t)
  | .waitev _ e c a o d => stepFits (.waitev e c a o d)
  | .waitevRelease _ => true
  | .waittick _ r o s t => stepFits (.waittick r o s t)
  | .waittickRelease _ => true
  | .sync _ o g => stepFits (.sync o g)
  | .syncRelease _ => true
  | .tone _ a => stepFits (.tone a)
  | .fire _ => true
  | .level _ t v => stepFits (.level t v)
  | .lead _ l => stepFits (.lead l)
  | .halt _ h => stepFits (.halt h)
  | .steppedAdvance _ => true
  | .jumpTakeEffect _ => true
  | .leadPulse _ => true
  | .retract _ => true
  | .traverseStepWrite p n v => pathOk p && decide (n < 262144) && decide (v < 2 ^ 128)
  | .evClear p _ m => pathOk p && decide (m < 2 ^ 32)
  | .planGo p _ v => pathOk p && decide (v < 256)
  | .planTakeEffect _ => true
  | .gazetteerWrite w => writeFormOk w
  | .bar0StagedWordWrite r s _ _ => decide (r < 2 ^ 16) && slotOk s
  | .bar0SnapshotRead r s _ => decide (r < 2 ^ 16) && slotOk s
  | .bar0CrossingAccess r s _ d => decide (r < 2 ^ 16) && slotOk s && decide (d < 2 ^ 64)
  | .bar0UnsupportedRequest r => decide (r < 2 ^ 16)
  | .logClear p v => pathOk p && decide (v < 256)
  | .bpTarget p v => pathOk p && decide (v < 2 ^ 32)
  | .bpData p d => pathOk p && decide (d.getD 0 < 2 ^ 64)
  | .bpCommit p v => pathOk p && decide (v < 256)
  | .postDone _ => true
  | .read h l => requestOk h l
  | .write h l => requestOk h l
  | .writeBlock h l => requestOk h l
  | .subscribe h per sid m l => requestOk h l && decide (per < 2 ^ 32) && decide (sid < 2 ^ 16) && decide (m < 256)
  | .publication i => decide (i < 2 ^ 16)
  | .announce _ r => decide (r.serial < 2 ^ 64) && decide (r.address < 2 ^ 128) && decide (r.role < 256)
  | .announceSend => true
  | .partnerLost _ _ => true
  | .discover h => headerOk h
  | .discoverReply => true
  | .fireRequest h m t _ => headerOk h && decide (m < 2 ^ 256) && decide (t < 2 ^ 64)
  | .attest h n r => headerOk h && decide (n < 2 ^ 256) && decide (r < 2 ^ 32)
  | .lldpSend _ => true
  | .lldpReceive _ r => decide (r.ttl < 2 ^ 16)
  | .ptpSyncExchange _ h o m _ => decide (h.domain < 256) && decide (o.natAbs < 2 ^ 63) && decide (m.natAbs < 2 ^ 63)
  | .ptpAnnounceReceive _ h r => ptpOk h r
  | .ptpMasterLost _ _ => true
  | .ppsInEdge e d _ => decide (e.natAbs < 10 ^ 12) && decide (d.natAbs < 10 ^ 12)
  | .ppsInMissing _ => true
  | .holdoverLimit _ => true
  | .slewEnd => true
  | .datumStep => true
  | .refinLost _ => true
  | .refinReturn _ => true
  | .sampleClockLost _ => true
  | .tickDriftMeasure _ _ => true
  | .fsKhzWrite p v => pathOk p && decide (v < 2 ^ 32)
  | .clockRelocked => true
  | .epochWrite p v => pathOk p && decide (v < 2 ^ 96)
  | .datumSet p v => pathOk p && decide (v < 2 ^ 96)
  | .graticuleAligned s => decide (s < 2 ^ 48)
  | .ppsOutEdge => true
  | .syncInEdge _ => true
  | .alarmEnable p _ v => pathOk p && decide (v < 256)
  | .alarm _ => true
  | .presenceAssert _ _ => true
  | .presenceWindowClose => true
  | .tamper _ => true
  | .evioInEdge _ _ o _ => decide (o < 250)
  | .eventChannelAssert _ => true
  | .evioPulseEnd _ => true
  | .fireMask p m _ => pathOk p && decide (m < 2 ^ 256)
  | .timedFire => true
  | .segDescWrite p d v => pathOk p && decide (d < 16384) && decide (v < 2 ^ 128)
  | .edgeStoreWrite p d => pathOk p && decide (d.length ≤ 262144)
  | .bar4Write o d => decide (o + d.length ≤ 2 ^ 32)
  | .bar4Read o n => decide (o + n ≤ 2 ^ 32)
  | .ldGo p v => pathOk p && decide (v < 256)
  | .loadDmaDone _ _ => true
  | .upData p d => pathOk p && decide (d.length ≤ 2 ^ 20)
  | .toneGateMute _ => true
  | .toneGateUnmute _ => true
  | .pacedPush p _ e => pathOk p && decide (e < 2 ^ 64)
  | .pacedFlush p _ v => pathOk p && decide (v < 256)
  | .pacedApply _ => true
  | .arm p _ => pathOk p
  | .start p _ => pathOk p
  | .stop p _ => pathOk p
  | .restart p _ => pathOk p
  | .strobe p _ => pathOk p
  | .disarm p _ => pathOk p
  | .lgStrobeAt p _ t => pathOk p && decide (t < 2 ^ 64)
  | .groupStart _ => true
  | .groupStop _ => true
  | .groupRestart _ => true
  | .loadStrobe _ => true
  | .outputPark _ => true
  | .spanRampStart _ => true
  | .spanRampEnd _ => true
  | .spanReady _ => true
  | .channelFault _ _ _ => true
  | .faultClear p _ v => pathOk p && decide (v < 256)
  | .vddoLow => true
  | .trimSwap => true
  | .trimFreezeReq p _ m => pathOk p && decide (m < 2 ^ 32)
  | .trimFreezeEnd _ => true
  | .trimForced _ e _ => decide (e < 2 ^ 16)
  | .watchReading _ _ _ _ => true
  | .watchVerdict _ => true
  | .watchCauseClear p _ m => pathOk p && decide (m < 2 ^ 32)
  | .sqEnable p _ v => pathOk p && decide (v < 256)
  | .dbTail o x => bar2Ok o x
  | .streamDescFetch _ l _ => l.all fun d => decide (d.raw < 2 ^ 128)
  | .streamDescComplete _ => true
  | .completionTimeout _ => true
  | .hostLost (.lost _) => true
  | .hostLost (.returned g w) => decide (g < 256) && decide (w < 256)
  | .sqNetData p _ _ => pathOk p
  | .sqFlush p _ v => pathOk p && decide (v < 256)
  | .dramTrainingDone s r => decide (s = 4800 ∨ s = 5600 ∨ s = 6400) && decide (r.channels < 16) && decide (r.ranks < 3)
  | .dramRequest _ _ _ a n d => decide (0 < n) && decide (a + n ≤ 2 ^ 40) && decide (((d.getD []).length = n) ∨ d.isNone)
  | .dramCommandSlot _ _ _ _ _ => true
  | .rowIdleClose _ r b _ => decide (r < 2) && decide (b < 32)
  | .refreshDue _ r _ => decide (r < 2)
  | .deviceTempRead _ r _ => decide (r < 2)
  | .dqsOscRead _ d _ _ => decide (d < 2 ^ 16)
  | .retrainPause _ _ _ => true
  | .quietReq p m => pathOk p && decide (m < 2 ^ 32)
  | .quietWindowEnd => true
  | .selfRefreshEnter _ => true
  | .selfRefreshExit _ => true
  | .alertN _ _ => true
  | .scrub a _ => decide (a % 64 = 0)
  | .zeroFill => true
  | .zeroFillDone => true
  | .admissionVerdict c d _ => decide (c < 256) && decide (d < 2 ^ 256)
  | .heartbeatSend => true
  | .heartbeatReceive h => decide (h.tick < 2 ^ 64) && decide (h.mask < 2 ^ 256) && decide (h.parked < 2 ^ 256)
  | .twinLost _ => true
  | .captureLogSend => true
  | .captureLogReceive _ l _ => l.all fun r => decide (r.offset < 250) && decide (r.ec < 256) && decide (r.source < 2 ^ 12)
  | .lostTick => true
  | .mirrorWriteRecord i s _ => decide (i < 2 ^ 16) && decide (s < 256)
  | .mirrorRingBytes _ _ => true
  | .cutoffRecord _ _ => true
  | .digestCompare => true
  | .driveInChange _ => true
  | .driveContention => true
  | .join p => pathOk p
  | .leave p => pathOk p
  | .handover p => pathOk p
  | .force p => pathOk p
  | .driveRelease _ => true
  | .takeover => true
  | .joinHandshake _ => true
  | .joinStepDone r => joinOk r
  | .powerOn _ _ => true
  | .rstN _ => true
  | .supplyMonitorReset _ => true
  | .resetCmd p v => pathOk p && decide (v < 256)
  | .startup _ => true
  | .fwImage p _ => pathOk p
  | .fwActivate p v => pathOk p && decide (v < 256)
  | .nvCommit p v => pathOk p && decide (v < 256)
  | .nvCommitDone => true
  | .shdnNAssert => true
  | .shdnNRelease => true
  | .run p => pathOk p
  | .abort p => pathOk p
  | .selftestPhaseDone _ => true
  | .selftestEnd _ => true
  | .lcGo p v => pathOk p && decide (v < 256)
  | .lcTransitionDone => true
  | .attNonce p n => pathOk p && decide (n < 2 ^ 256)
  | .attSignDone => true
  | .sampleClockReturn => true
  | .syncInMissing => true
  | .powerLoss => true
  | .plRxBad => true
  | .fwUpdateDone => true
  | .ptpMasterAnnounce _ => true
  | .writeOnlyRead r s => decide (r < 2 ^ 16) && slotOk s

end Sys2Proof
end

