-- ==== Sys2Proof/Safety.lean ====
section
/-!
DEFINITION. What a safe run of the block is, what holds of the part in every run, and the words in which claims about commands are stated: when a
written command is one that the part executes, and what a change leaves as it was.
-/

namespace Sys2Proof

/-- The next n steps from s all end in a next state. -/
def runsFor : Nat → Machine.State → Prop
  | 0, _ => True
  | n + 1, s => ∃ t, Machine.step s = .next t ∧ runsFor n t

/-- Every command that waits in s is executed without a fault or a refusal. -/
def safe (s : Machine.State) : Prop := runsFor s.pending.length s

namespace Machine

/-- The part of s is not held in reset (R344). -/
def awake (s : State) : Prop := s.part.life.held = false

/-- What every step keeps: the register file and the memory in canonical form, at most 16 commands waiting for a verdict (R306), 16 timed firings
(R111) and 64 subscriptions (R87). -/
def Sound (p : Part) : Prop :=
  kwf regDefault p.gz.regs = true ∧ Memory.wf p.mem.dram = true ∧ p.adm.jobs.length ≤ 16 ∧ p.fab.fires.length ≤ 16 ∧ p.pl.subs.length ≤ 64

/-- Every value in force is the same in p and q, but for the keys of a list. -/
def SameRegs (p q : Part) (l : List Nat) : Prop := ∀ k, k ∉ l → reg q k = reg p k

/-- q is p but for the values in force at the keys of a list: memory, sequencers, outputs, queues and every other unit are as they were. -/
def OnlyRegs (p q : Part) (l : List Nat) : Prop := q = { p with gz := { p.gz with regs := q.gz.regs } } ∧ SameRegs p q l

/-- The part as a write of the whole entry with key k finds it: over BAR0 staged words are gone, and those of another entry are logged (R70). -/
def cleared (p : Part) (path : Path) (k : Nat) : Part :=
  match path with
  | .bar0 _ => { discardStaged p path k with gz := { (discardStaged p path k).gz with stage := none } }
  | _ => p

/-- A write of v to the entry with key k by a path is executed by this part: the path reaches it, it passes every check (R58 to R66, R76, R307),
and it is not forwarded to a shadow (R332). -/
def Takes (p : Part) (path : Path) (k v : Nat) : Prop :=
  ∃ e, entryOf k = some e ∧ reaches p path (k / 256) = true ∧
    checkWrite (cleared p path k) e k (keptBits e (reg (cleared p path k) k) v) false true = 0 ∧
    ¬ (mirrored e k = true ∧ forwards (cleared p path k) = true)

/-- No sequencer stands still in a situation that no admitted program reaches (R158), but perhaps that of channel c. -/
def OthersMove (p : Part) (c : Chan) : Prop := ∀ d, d ≠ c → ∀ pc w, (seqOf p d).act ≠ .stuck pc w

/-- The decide stage of the present tick is open: its decide point has come, and the sample clock runs (R12, R22, R163). -/
def StageOpen (p : Part) : Prop := p.time.opened = planTick p ∧ reg p G.clockState ≠ 2

/-- Channel c stands at step pc, at a boundary that the present decide stage, which is open, has still to plan; no jump acts there, stepped mode does
not wait there, and the step lies in the channel's allocation (R136, R139, R140, R166, R170). -/
def AtStep (p : Part) (c : Chan) (pc : Nat) : Prop :=
  StageOpen p ∧ (seqOf p c).act = .run pc ∧ (seqOf p c).at_ < 250 * (planTick p + 1) ∧ jumpAtBoundary p c (seqOf p c).at_ (seqOf p c).seam = none ∧
    ¬ ((seqOf p c).fresh = true ∧ planned p (G.seqMode c) = 1) ∧ pc < planned p (G.trvSize c) ∧ OthersMove p c

/-- Nothing but the sequencer and the plans of channel c differs between p and q. -/
def OnlyChan (p q : Part) (c : Chan) : Prop :=
  q = { p with seqs := q.seqs, plans := q.plans } ∧ ∀ d : Chan, d ≠ c → seqOf q d = seqOf p d ∧ ∀ k, planOf q d k = planOf p d k

/-- A step of channel c has added these changes of values, datapath commits, each at its place of Table 01-4 (R15), and pulses to the plan of the
tick after the next, and nothing else but the channel's sequencer has changed (R163). -/
def StepAdds (p q : Part) (c : Chan) (ops : List RegOp) (effs : List EffAt) (pulses : List Pulse) : Prop :=
  OnlyChan p q c ∧ (∀ k, k ≠ planTick p → planOf q c k = planOf p c k) ∧
    planOf q c (planTick p) = { planOf p c (planTick p) with
      ops := (planOf p c (planTick p)).ops ++ ops, effs := effs.foldl (fun l e => insertEff e l) (planOf p c (planTick p)).effs,
      pulses := (planOf p c (planTick p)).pulses ++ pulses }

/-- A playing step of descriptor d has begun at the boundary where channel c stood in p (R142, R143): its play, with the position of its first
stored sample in the ring of the queue that a stream-resident one reserves its bytes from (R253), and the candidate of an armed lead. Outside
the channel, only the queues' counts of reserved, placed and skipped bytes and the STREAM_LOW pulse of the queue can differ. -/
def PlayBegun (p q : Part) (c : Chan) (pc d : Nat) (left : Option Nat) (evm : Nat) (clr ex : Bool) : Prop :=
  let n := (seqOf p c).at_
  let x := descOf p d
  let s := bits x.base 5 0
  let pos := if x.residence = 2 then reg p (G.sqReserved s) else 0
  seqOf q c = { seqOf p c with
    act := .play ⟨pc, d, n, pos, left, false, evm, clr, ex, n + x.length * interpOf p c, none⟩
    fresh := false, seam := false, armed := none,
    cands := match (seqOf p c).armed with
      | some (lp, l) => (seqOf p c).cands ++ [(lp, l, n)]
      | none => (seqOf p c).cands } ∧
  planOf q c (planTick p) = { planOf p c (planTick p) with
    ops := (planOf p c (planTick p)).ops ++ [.add (G.seqSteps c) 1, .set (G.strmRepsDone c) 0] } ∧
  (x.residence = 2 → reg q (G.sqReserved s) = pos + x.length * segBytes p d ∧ (s, c.val, pos, pos + x.length * segBytes p d) ∈ q.strm.open_) ∧
  (∀ e ∈ p.strm.open_, e.2.1 ≠ c.val → e ∈ q.strm.open_) ∧
  q = { p with gz := { p.gz with regs := q.gz.regs }, strm := { p.strm with open_ := q.strm.open_, armed := q.strm.armed },
               fab := { p.fab with producers := q.fab.producers }, seqs := q.seqs, plans := q.plans } ∧
  (∀ k, (∀ i, k ≠ G.sqReserved i ∧ k ≠ G.sqPlaypos i ∧ k ≠ G.sqAhead i ∧ k ≠ G.sqSkipped i) → reg q k = reg p k) ∧
  (∀ e : Chan, e ≠ c → seqOf q e = seqOf p e ∧ ∀ k, planOf q e k = planOf p e k)

/-- The wait w of channel c has ended at sample t (R147): the samples up to t show its output, the next step is about to be executed, and the
decide stage has acted on the generations given. Nothing of another channel, no value in force and no memory has changed. -/
def WaitEnded (p q : Part) (c : Chan) (w : Wait) (t : Nat) (acted : List Nat) : Prop :=
  let n := (seqOf p c).at_
  let m := planTick p
  let src := waitSrc p c w.out w.since
  seqOf q c = { seqOf p c with
    at_ := t, act := .run w.next, fresh := false, seam := false
    last := if n < t then sampleAt p src (t - 1) (interpOf p c) else (seqOf p c).last } ∧
  (planOf q c m).spans = (planOf p c m).spans ++ (if n < t then [⟨n, t, src⟩] else []) ∧
  (planOf q c m).acted = (planOf p c m).acted ++ acted ∧ (planOf q c m).effs = (planOf p c m).effs ∧
  (planOf q c m).pulses = (planOf p c m).pulses ∧ (planOf q c m).edges = (planOf p c m).edges ∧
  (∀ d, d ≠ c → seqOf q d = seqOf p d ∧ ∀ k, planOf q d k = planOf p d k) ∧ q.gz = p.gz ∧ q.mem = p.mem ∧ q.sent = p.sent

/-- A sequencer that waits at a SYNC without a release is given one; any other is as it was (R150). -/
def Seq.released (s : Seq) (n : Nat) : Seq :=
  match s.act with
  | .wait w =>
    match w.what, w.rel with
    | .sync _, none => { s with act := .wait { w with rel := some n } }
    | _, _ => s
  | _ => s

/-- The part executes this request of size bytes: it is not in boot recovery, the frame is not too long, and the part has neither answered it nor
owes it an answer (R80, R85, R348). -/
def Fresh (p : Part) (h : PlHeader) (size : Nat) : Prop :=
  p.life.recovery = false ∧ size ≤ reg p G.plMaxDatagram ∧ p.pl.cache.find? (repeats h) = none ∧
    (∀ o ∈ p.pl.owed, sameRequest o.head h = false) ∧ ∀ o ∈ p.pl.discover, sameRequest h o = false

/-- Between p and q a software pulse has been put on every event channel of a mask: stamped with a tick and an offset, and due in an absolute
core cycle; the channels are flagged as fired (R109, R110). -/
def SoftFired (p q : Part) (mask tick off due : Nat) : Prop :=
  q = { p with gz := { p.gz with regs := q.gz.regs }, fab := { p.fab with arrivals := q.fab.arrivals } } ∧
  q.fab.arrivals = p.fab.arrivals ++ ((List.range 256).filter (bit mask)).map (fun ec => ⟨ec, 16, due, ⟨tick, off, 0xFFF, 0⟩⟩) ∧
  (∀ ec, ec < 256 → reg q (G.ecFlags ec) = if bit mask ec then reg p (G.ecFlags ec) ||| 8 else reg p (G.ecFlags ec)) ∧
  SameRegs p q ((List.range 256).map G.ecFlags)

/-- Only the clock, values in force, producers that have still to choose their slots, and what has left the part differ between p and q. -/
def SameUnits (p q : Part) : Prop :=
  q = { p with time := q.time, gz := { p.gz with regs := q.gz.regs }, fab := { p.fab with producers := q.fab.producers }, sent := q.sent }

/-- A producer has asserted between p and q, at core cycle c of the present tick, stamped there (Table 04-1). -/
def Raised (p q : Part) (c src : Nat) : Prop :=
  q.fab.producers = p.fab.producers ++ [⟨25 * p.time.tick + c, ⟨p.time.tick, 10 * c, src, 0⟩⟩]

/-- A bulk object at key k that comes by a path is committed by this part: the path reaches it, it passes every check, and it is not forwarded
to a shadow (R84, R332, R334). -/
def TakesBulk (p : Part) (path : Path) (k : Nat) : Prop :=
  ∃ e, entryOf k = some e ∧ reaches p path (k / 256) = true ∧ checkWrite p e k 0 false true = 0 ∧
    ¬ (mirrored e k = true ∧ forwards p = true ∧ keyQueue k = none)

/-- The values frozen for group g by tick m are in force in q: each Live or Staged value of a channel that is frozen once (R60, R207). The span of
an output follows its own sequence (R220). -/
def Committed (p q : Part) (g : Grp) (m : Nat) : Prop :=
  ∀ x ∈ (grpOf p g).commits, x.1 ≤ m → (∀ y ∈ (grpOf p g).commits, y.2.1 = x.2.1 → y = x) → (∀ c, x.2.1 ≠ G.outSpan c) →
    (∃ e, entryOf x.2.1 = some e ∧ e.acc = .rw) → (keyChan x.2.1).isSome → reg q x.2.1 = x.2.2

/-- The interpolator at factor i meets Table 08-3 (R185, R186), f being a frequency in units of fS: ripple of at most 0.01 dB in the passband 0.4/i
about 0, at least 90 dB of rejection in the same band about each image centre k/i, and a contribution that peaks at the centre. The coefficients are
free (assumption 5), so that a claim about the spectrum has this as its premise. -/
def MeetsMask (i : Nat) : Prop :=
  let gain (f : ℝ) : ℝ := ((List.range (2 * interpDelay i + 1)).map fun d =>
    let x : Int := (d : Int) - interpDelay i
    (interpWeight i x.natAbs : ℝ) * Real.cos (2 * Real.pi * f * x)).sum / (2 ^ 18 * i)
  (∀ f : ℝ, |f| * i ≤ 2 / 5 → (10 : ℝ) ^ (-(1 / 2000) : ℝ) ≤ gain f ∧ gain f ≤ (10 : ℝ) ^ ((1 / 2000) : ℝ)) ∧
    (∀ (k : Nat) (f : ℝ), 0 < k → 2 * k ≤ i → |f * i - k| ≤ 2 / 5 → |gain f| ≤ (10 : ℝ) ^ (-(9 / 2) : ℝ)) ∧
    ∀ d : Nat, d ≤ interpDelay i → (interpWeight i d).natAbs ≤ (interpWeight i 0).natAbs

/-- The commands that move sequencers: only these can meet a situation that no admitted program reaches (R158). -/
def movesSequencers : Instr → Bool
  | .decideStage => true
  | .play _ _ _ => true
  | .playt _ _ _ _ _ => true
  | .playtExit _ => true
  | .loop _ _ => true
  | .endl _ => true
  | .call _ _ => true
  | .ret _ => true
  | .jump _ _ => true
  | .brev _ _ _ _ => true
  | .waitev _ _ _ _ _ _ => true
  | .waitevRelease _ => true
  | .waittick _ _ _ _ _ => true
  | .waittickRelease _ => true
  | .sync _ _ _ => true
  | .tone _ _ => true
  | .fire _ => true
  | .level _ _ _ => true
  | .lead _ _ => true
  | .halt _ _ => true
  | .steppedAdvance _ => true
  | .jumpTakeEffect _ => true
  | _ => false

/-- The events that a part held in reset meets: power, RST_N and the level of SHDN_N (R344, R353). -/
def reachesHeld : Instr → Bool
  | .powerOn _ _ => true
  | .powerLoss => true
  | .rstN _ => true
  | .shdnNAssert => true
  | .shdnNRelease => true
  | _ => false

end Machine

end Sys2Proof
end

