-- ==== Sys2Proof/Certificates/Slice0/Obligations.lean ====
section
/-!
DEFINITION. The statements about this block. Each names the commands it speaks of and the rules it rests on; OBLIGATIONS.json lists them.
-/

open Sys2Proof Sys2Proof.Machine

/-- The queue of waiting commands is first in, first out. That a step with an empty queue changes nothing is the model's choice (log entry 11).
The model's own readings: log entry 11. -/
def Obligations.StepRunsTheFrontCommand : Prop :=
  (∀ (c : Instr) (rest : List Instr) (s : State), step { s with pending := c :: rest } = exec c { s with pending := rest }) ∧
  (∀ s : State, s.pending = [] → step s = .next s)

/-- Every command completes but where R158 lets none arrive; a part in reset stays as it is (R344).
The model's own readings: log entries 2 and 18. -/
def Obligations.CommandsCompleteOrStopByName : Prop :=
  ∀ (s : State) (c : Instr),
    (movesSequencers c = false → ∃ q, exec c s = .next { s with part := q }) ∧
    (movesSequencers c = true → (∃ q, exec c s = .next { s with part := q }) ∨
      ∃ d w, exec c s = .fault (.sequencer d w) ∧ awake s) ∧
    (s.part.life.held = true → reachesHeld c = false → exec c s = .next s)

/-- The contents of State.reset (R134, R345). Values the spec does not give are the model's choice (log entries 9 and 10).
The model's own readings: log entries 3, 9 and 10. -/
def Obligations.ResetLeavesThePartCold : Prop :=
  let p := State.reset.part
  State.reset.pending = [] ∧ p.life.powered = true ∧ awake State.reset ∧
    (∀ k, k ∉ [G.keyDraws, G.resetCause, G.sealIntact] → reg p k = regDefault k) ∧ reg p G.resetCause = 1 ∧ reg p G.keyDraws = 1 ∧
    reg p G.sealIntact = 1 ∧ (∀ g : Grp, reg p (G.lgState g) = 0) ∧
    (∀ c, (seqOf p c).act = .off ∧ (outOf p c).closed = false ∧ ∀ k, planOf p c k = ⟨k, [], [], [], [], [], [], false⟩) ∧
    (∀ a, dramByte p.mem.dram a = 0) ∧ p.mem.descs = [] ∧ p.mem.edges = [] ∧ p.mem.trav = [] ∧ (∀ i, latchAt p i = none) ∧
    p.fab.producers = [] ∧ p.fab.arrivals = [] ∧ p.fab.fires = [] ∧ p.fab.log = [] ∧ p.strm.descs = [] ∧ p.strm.open_ = [] ∧ p.paced = [] ∧
    p.adm.jobs = [] ∧ p.adm.resv = [] ∧ p.pl.subs = [] ∧ p.pl.cache = [] ∧ reg p G.pairState = 0 ∧ p.pair.driveOut = false ∧ p.sent = [] ∧ Sound p

/-- The invariant of the part: canonical registers and memory, and the limits of R87, R111 and R306; and outputs are only added to. -/
def Obligations.StepsKeepThePartSound : Prop := ∀ s t : State, Sound s.part → step s = .next t → Sound t.part ∧ s.part.sent <:+ t.part.sent

/-- The coding of the Traverse steps (R138, Tables 06-1 and 06-2), in both directions. -/
def Obligations.TraverseRecordsRoundTrip : Prop :=
  (∀ i : Step, stepOk i = true → decodeStep (encodeStep i) = some i ∧ encodeStep i < 2 ^ 128) ∧
  (∀ (w : Nat) (i : Step), decodeStep w = some i → stepOk i = true ∧ encodeStep i = w)

/-- The Gazetteer lock (R66), and the refusals of R59: no value changes, one record is made. The model's own readings: log entry 35. -/
def Obligations.TheLockRefusesStagedAndFixedWrites : Prop :=
  ∀ (s : State) (path : Path) (index sub v : Nat) (e : Entry), awake s → reaches s.part path index = true → sub < 256 →
    lookup index sub = .entry e sub → (∀ n, e.ty ≠ .bulk n) →
    let k := gkey index sub
    let p := cleared s.part path k
    let w := keptBits e (reg p k) v
    let early := p.life.test ≠ 0 ∨ (mirrored e k = true ∧ refusesMirrored p = true) ∨ valueOk e w = false ∨ (e.guarded = true ∧ presenceOpen p = false)
    let refused (code : Nat) : Prop :=
      exec (.gazetteerWrite (.whole path index sub v)) s = .next { s with part := tell (logAbort p path 1 code index sub v) path code } ∧
        (∀ j, j / 256 ≠ 0x1018 → reg (logAbort p path 1 code index sub v) j = reg s.part j) ∧
        (logAbort p path 1 code index sub v).gz.pend = s.part.gz.pend ∧ (logAbort p path 1 code index sub v).gz.bound = s.part.gz.bound ∧
        (logAbort p path 1 code index sub v).gz.work = s.part.gz.work
    (reg s.part G.gzLock = 1 → e.acc = .rw → (e.cls = .staged ∨ e.cls = .fixed) → (∃ code, code ≠ 0 ∧ refused code) ∧ (¬ early → refused 9)) ∧
    (e.acc = .ro → refused 3) ∧
    (e.acc = .wo1 → regBit p G.wo1Written (onceBit k) = true → (∃ code, code ≠ 0 ∧ refused code) ∧ (¬ early → refused 9)) ∧
    (e.cls = .live ∨ e.acc ≠ .rw ∨ k = G.gzLock → lockRefuses p e = false)

/-- PLAY and PLAYT (R142, R143): for every segment, residence, count, mask and flags, the step begins its first repetition at the boundary.
PLAYT_EXIT without the tick flag (R143): the play ends at its seam once the bound of the earliest qualifying pulse has been reached. The model's own
readings: log entry 2. -/
def Obligations.PlaysBeginAndEndAtTheirSeam : Prop :=
  (∀ (s : State) (c : Chan) (pc seg : Nat), awake s → AtStep s.part c pc →
    (∀ count, ∃ q, exec (.play c seg count) s = .next { s with part := q } ∧ PlayBegun s.part q c pc seg (some count) 0 false false) ∧
    (∀ evm clr ex, ∃ q, exec (.playt c seg evm clr ex) s = .next { s with part := q } ∧ PlayBegun s.part q c pc seg none evm clr ex)) ∧
  (∀ (s : State) (c : Chan) (x : Play) (u : Pulse), awake s → StageOpen s.part → (seqOf s.part c).act = .play x → OthersMove s.part c →
    x.left = none → x.exitAt = none → x.exitTick = false → x.short = false → (seqOf s.part c).ep = none →
    (seqOf s.part c).at_ = x.start + (descOf s.part x.d).length * max 1 (interpOf s.part c) →
    (seqOf s.part c).at_ < 250 * (planTick s.part + 1) →
    earliest (readyLatches s.part c x.evm (planTick s.part)) = some u → 250 * (u.tick + 3) ≤ (seqOf s.part c).at_ →
    s.part.strm.open_.filter (fun e => e.2.1 = c.val) = [] →
    ∃ q, exec (.playtExit c) s = .next { s with part := q } ∧
      seqOf q c = { seqOf s.part c with act := .run (x.pc + 1), fresh := true, seam := true } ∧
      (planOf q c (planTick s.part)).acted = (planOf s.part c (planTick s.part)).acted ++ [u.gen] ∧
      (planOf q c (planTick s.part)).ops = (planOf s.part c (planTick s.part)).ops ++
        [.rep (G.strmRepsDone c) (G.strmShort c) x.start x.firstEnd] ∧
      (∀ k, latchAt q k =
        if x.clr ∧ k ∈ (readyLatches s.part c x.evm (planTick s.part)).map (fun e => chLatch c e.1) then none else latchAt s.part k) ∧
      (∀ d, d ≠ c → seqOf q d = seqOf s.part d) ∧ q.gz = s.part.gz ∧ q.mem = s.part.mem ∧ q.sent = s.part.sent)

/-- LOOP and ENDL (R144) and JUMP (R146): each takes no time, counts one executed step and changes the loop stack and the position only. BREV
(R146): untaken without a qualifying latch; taken with one, which it empties if it carries CLR. -/
def Obligations.LoopsAndBranchesMoveThePosition : Prop :=
  (∀ (s : State) (c : Chan) (pc : Nat), awake s → AtStep s.part c pc →
    (∀ count e, (seqOf s.part c).loops.length < 8 → findEndl s.part c (planned s.part (G.trvSize c)) (pc + 1) 0 = some e →
      ∃ q, exec (.loop c count) s = .next { s with part := q } ∧ StepAdds s.part q c [.add (G.seqSteps c) 1] [] [] ∧
        seqOf q c = { seqOf s.part c with
          act := .run (pc + 1), fresh := false, seam := false,
          loops := ⟨pc + 1, e, if count = 0 then none else some count⟩ :: (seqOf s.part c).loops }) ∧
    (∀ e r, (seqOf s.part c).loops = e :: r →
      ∃ q, exec (.endl c) s = .next { s with part := q } ∧ StepAdds s.part q c [.add (G.seqSteps c) 1] [] [] ∧
        seqOf q c = (match e.remain with
          | none => { seqOf s.part c with act := .run e.body, fresh := false, seam := false }
          | some k => if k ≤ 1 then { seqOf s.part c with act := .run (pc + 1), fresh := false, seam := false, loops := r }
            else { seqOf s.part c with act := .run e.body, fresh := false, seam := false, loops := { e with remain := some (k - 1) } :: r })) ∧
    (∀ t o, targetOffset s.part c t = some o →
      ∃ q, exec (.jump c t) s = .next { s with part := q } ∧ StepAdds s.part q c [.add (G.seqSteps c) 1] [] [] ∧
        seqOf q c = { seqOf s.part c with act := .run o, fresh := false, seam := false, loops := popOut (seqOf s.part c) o })) ∧
  (∀ (s : State) (c : Chan) (pc evm : Nat) (clr : Bool) (t : Target), awake s → AtStep s.part c pc →
    (readyLatches s.part c evm (planTick s.part) = [] →
      ∃ q, exec (.brev c evm clr t) s = .next { s with part := q } ∧ StepAdds s.part q c [.add (G.seqSteps c) 1] [] [] ∧
        seqOf q c = { seqOf s.part c with
          act := .run (pc + 1), fresh := false, seam := false, 
          untaken := some ((seqOf s.part c).untaken.getD (t, (seqOf s.part c).loops, (seqOf s.part c).calls)) }) ∧
    (∀ o, readyLatches s.part c evm (planTick s.part) ≠ [] → targetOffset s.part c t = some o →
      ∃ q, exec (.brev c evm clr t) s = .next { s with part := q } ∧
        seqOf q c = { seqOf s.part c with act := .run o, fresh := false, seam := false, loops := popOut (seqOf s.part c) o } ∧
        (planOf q c (planTick s.part)).acted =
          (planOf s.part c (planTick s.part)).acted ++ (readyLatches s.part c evm (planTick s.part)).map (·.2.gen) ∧
        (∀ k, latchAt q k =
          if clr ∧ k ∈ (readyLatches s.part c evm (planTick s.part)).map (fun e => chLatch c e.1) then none else latchAt s.part k) ∧
        (∀ k, reg q k = reg s.part k) ∧ (∀ d, d ≠ c → seqOf q d = seqOf s.part d) ∧ q.mem = s.part.mem ∧ q.sent = s.part.sent))

/-- CALL and RET (R145), for a target that is an offset or a valid Waypoint. -/
def Obligations.CallsReturnWhereTheyCameFrom : Prop :=
  ∀ (s : State) (c : Chan) (pc : Nat), awake s → AtStep s.part c pc →
    (∀ t o, targetOffset s.part c t = some o → (seqOf s.part c).calls.length < 8 →
      ∃ q, exec (.call c t) s = .next { s with part := q } ∧ StepAdds s.part q c [.add (G.seqSteps c) 1] [] [] ∧
        seqOf q c = { seqOf s.part c with
          act := .run o, fresh := false, seam := false,
          calls := ⟨pc + 1, (seqOf s.part c).loops.length⟩ :: (seqOf s.part c).calls }) ∧
    (∀ e r, (seqOf s.part c).calls = e :: r →
      ∃ q, exec (.ret c) s = .next { s with part := q } ∧ StepAdds s.part q c [.add (G.seqSteps c) 1] [] [] ∧
        seqOf q c = { seqOf s.part c with
          act := .run e.ret, fresh := false, seam := false, calls := r,
          loops := (seqOf s.part c).loops.drop ((seqOf s.part c).loops.length - e.depth) })

/-- WAITEV, WAITTICK, SYNC and HALT (R148, R149, R150, R155), in each of their forms. WAITEV_RELEASE, WAITTICK_RELEASE and STEPPED_ADVANCE (R148,
R149, R171) where the release falls into the planned tick. The model's own readings: log entry 2. -/
def Obligations.WaitsHoldAndRelease : Prop :=
  (∀ (s : State) (c : Chan) (pc out : Nat), awake s → AtStep s.part c pc →
    let n := (seqOf s.part c).at_
    (∀ evm clr anchor delay, ∃ q, exec (.waitev c evm clr anchor out delay) s = .next { s with part := q } ∧
      StepAdds s.part q c [.add (G.seqSteps c) 1] [] [] ∧
      seqOf q c = { seqOf s.part c with
        act := .wait ⟨pc, pc + 1, n, out, .event evm clr anchor delay, none⟩, fresh := false, seam := false }) ∧
    (∀ rel offset tick, ∃ q, exec (.waittick c rel out offset tick) s = .next { s with part := q } ∧
      let t := if rel then 250 * ((seqOf s.part c).m0 + tick) + offset + (seqOf s.part c).slip else 250 * tick + offset
      if t ≤ n then
        StepAdds s.part q c [.add (G.seqSteps c) 1, .bits (G.seqFlags c) 1, .add (G.seqLate c) 1] [] [] ∧
          seqOf q c = { seqOf s.part c with act := .run (pc + 1), fresh := false, seam := false }
      else
        StepAdds s.part q c [.add (G.seqSteps c) 1] [] [] ∧
          seqOf q c = { seqOf s.part c with act := .wait ⟨pc, pc + 1, n, out, .tick, some t⟩, fresh := false, seam := false }) ∧
    (∀ tag, ∃ q, exec (.sync c out tag) s = .next { s with part := q } ∧ StepAdds s.part q c [.add (G.seqSteps c) 1] [] [] ∧
      seqOf q c = { seqOf s.part c with
        act := if planned s.part (G.syncPart c) = 1 then .wait ⟨pc, pc + 1, n, out, .sync tag, none⟩ else .run (pc + 1),
        fresh := false, seam := false }) ∧
    (∃ q, exec (.halt c out) s = .next { s with part := q } ∧
      StepAdds s.part q c (.add (G.seqSteps c) 1 :: match (seqOf s.part c).ep with
        | none => []
        | some e => [.set (G.sqLastEvent e.q) (e.since + n * 2 ^ 64 + c.val * 2 ^ 128 + e.policy * 2 ^ 136)]) []
        [⟨n / 250, n % 250, 0x500 + c.val, 0⟩] ∧
      seqOf q c = { seqOf s.part c with act := .halted pc out n, fresh := false, seam := false, ep := none })) ∧
  (∀ (s : State) (c : Chan) (w : Wait), awake s → StageOpen s.part → (seqOf s.part c).act = .wait w → (seqOf s.part c).at_ < 250 * (planTick s.part + 1) →
    pendingJumps s.part c = [] → OthersMove s.part c →
    (∀ t, w.what = .tick → w.rel = some t → max (seqOf s.part c).at_ t < 250 * (planTick s.part + 1) →
      ∃ q, exec (.waittickRelease c) s = .next { s with part := q } ∧
        WaitEnded s.part q c w (max (seqOf s.part c).at_ t) [] ∧ q.fab = s.part.fab ∧
        planOf q c (planTick s.part) = { planOf s.part c (planTick s.part) with spans := (planOf q c (planTick s.part)).spans }) ∧
    (∀ evm clr anchor delay u, w.what = .event evm clr anchor delay → w.rel = none →
      earliest (readyLatches s.part c evm (planTick s.part)) = some u →
      max (seqOf s.part c).at_ (max w.since (actionInstant u delay anchor)) < 250 * (planTick s.part + 1) →
      ∃ q, exec (.waitevRelease c) s = .next { s with part := q } ∧
        WaitEnded s.part q c w (max (seqOf s.part c).at_ (max w.since (actionInstant u delay anchor))) [u.gen] ∧
        (∀ k, latchAt q k =
          if clr ∧ k ∈ (readyLatches s.part c evm (planTick s.part)).map (fun e => chLatch c e.1) then none else latchAt s.part k) ∧
        (planOf q c (planTick s.part)).ops = (planOf s.part c (planTick s.part)).ops) ∧
    (∀ u, w.what = .stepped → w.rel = none → planned s.part (G.stepEarly c) ≠ 1 →
      earliest (readyLatches s.part c (planned s.part (G.stepAdvMask c)) (planTick s.part)) = some u →
      let t := max w.since (actionInstant u (planned s.part (G.stepDelay c)) (planned s.part (G.stepAnchor c) = 1))
      max (seqOf s.part c).at_ t < 250 * (planTick s.part + 1) →
      ∃ q, exec (.steppedAdvance c) s = .next { s with part := q } ∧ WaitEnded s.part q c w (max (seqOf s.part c).at_ t) [u.gen] ∧
        (∀ k, latchAt q k =
          if k ∈ (readyLatches s.part c (planned s.part (G.stepAdvMask c)) (planTick s.part)).map (fun e => chLatch c e.1) then none
          else latchAt s.part k) ∧
        (planOf q c (planTick s.part)).ops = (planOf s.part c (planTick s.part)).ops ++ [.add (G.stepCount c) 1]))

/-- TONE, LEVEL, FIRE and LEAD (R151 to R154): what each adds to the plan at the boundary sample. -/
def Obligations.CommitStepsPlaceTheirEffect : Prop :=
  ∀ (s : State) (c : Chan) (pc : Nat), awake s → AtStep s.part c pc →
    let n := (seqOf s.part c).at_
    let on := { seqOf s.part c with act := .run (pc + 1), fresh := false, seam := false }
    (∀ a : ToneArgs, ∃ q, exec (.tone c a) s = .next { s with part := q } ∧ seqOf q c = on ∧
      StepAdds s.part q c [.add (G.seqSteps c) 1, .add (G.toneCommits c) 1]
        [⟨n, 4, .tone a.tone (ofBool a.setF + 2 * ofBool a.setP + 4 * ofBool a.setA + 8 * ofBool a.setM)
          (a.ftw + a.amp * 2 ^ 48 + a.phase * 2 ^ 64 + ofBool a.mode * 2 ^ 96)⟩] []) ∧
    (∀ target v, ∃ q, exec (.level c target v) s = .next { s with part := q } ∧ seqOf q c = on ∧
      StepAdds s.part q c [.add (G.seqSteps c) 1]
        [⟨n, 4, if target = 0 then .gain v else if target = 1 then .offset v else .level v⟩] []) ∧
    (∃ q, exec (.fire c) s = .next { s with part := q } ∧ seqOf q c = on ∧
      StepAdds s.part q c [.add (G.seqSteps c) 1] [] [⟨n / 250, n % 250, 0x100 + c.val, 0⟩]) ∧
    (∀ ticks, ∃ q, exec (.lead c ticks) s = .next { s with part := q } ∧
      StepAdds s.part q c [.add (G.seqSteps c) 1] [] [] ∧ seqOf q c = { on with armed := some (pc, ticks) })

/-- The manual gives these situations no effect (R158): the step faults, and the fault says which one it was.
The model's own readings: log entry 18. -/
def Obligations.UnadmittedStepsStop : Prop :=
  ∀ (s : State) (c : Chan) (pc : Nat), awake s → AtStep s.part c pc →
    (∀ count, 8 ≤ (seqOf s.part c).loops.length → exec (.loop c count) s = .fault (.sequencer c .loopOverflow)) ∧
    (∀ count, (seqOf s.part c).loops.length < 8 → findEndl s.part c (planned s.part (G.trvSize c)) (pc + 1) 0 = none →
      exec (.loop c count) s = .fault (.sequencer c .noEndl)) ∧
    ((seqOf s.part c).loops = [] → exec (.endl c) s = .fault (.sequencer c .loopUnderflow)) ∧
    (∀ t, 8 ≤ (seqOf s.part c).calls.length → exec (.call c t) s = .fault (.sequencer c .callOverflow)) ∧
    ((seqOf s.part c).calls = [] → exec (.ret c) s = .fault (.sequencer c .callUnderflow)) ∧
    (∀ t, targetOffset s.part c t = none → exec (.jump c t) s = .fault (.sequencer c .badWaypoint) ∧
      ((seqOf s.part c).calls.length < 8 → exec (.call c t) s = .fault (.sequencer c .badWaypoint)))

/-- JUMP_TAKE_EFFECT (R167) of a channel that stands at a step. The model's own readings: log entries 30 and 80. -/
def Obligations.JumpsTakeEffectAtTheBoundary : Prop :=
  ∀ (s : State) (c : Chan) (pc o : Nat) (j : Jump), awake s → StageOpen s.part → (seqOf s.part c).act = .run pc →
    (seqOf s.part c).at_ < 250 * (planTick s.part + 1) → (seqOf s.part c).ep = none → OthersMove s.part c →
    jumpAtBoundary s.part c (seqOf s.part c).at_ (seqOf s.part c).seam = some j → waypoint s.part c j.wp = some o →
    ∃ q, exec (.jumpTakeEffect c) s = .next { s with part := q } ∧
      (seqOf q c).act = .run o ∧ (seqOf q c).at_ = (seqOf s.part c).at_ ∧ (seqOf q c).loops = [] ∧ (seqOf q c).calls = [] ∧
      (seqOf q c).armed = none ∧ (seqOf q c).fresh = false ∧ (seqOf q c).seam = false ∧
      (planOf q c (planTick s.part)).pulses = (planOf s.part c (planTick s.part)).pulses ++
        [⟨(seqOf s.part c).at_ / 250, (seqOf s.part c).at_ % 250, 0x400 + c.val, 0⟩] ∧
      (planOf q c (planTick s.part)).ops = (planOf s.part c (planTick s.part)).ops ++
        [.set (G.jmpLastAt c) (seqOf s.part c).at_, .add (G.jmpCount c) 1] ∧
      (planOf q c (planTick s.part)).acted = (planOf s.part c (planTick s.part)).acted ++ [j.gen] ∧
      latchAt q (chLatch c (8 + j.input)) = none ∧ (∀ d, d ≠ c → seqOf q d = seqOf s.part d) ∧ q.mem = s.part.mem ∧ q.sent = s.part.sent

/-- LEAD_PULSE and RETRACT (R177, R178). The model's own readings: log entry 29. -/
def Obligations.LeadsPulseAndRetract : Prop :=
  ∀ (s : State) (c : Chan), awake s →
    (∀ x, nextLead (seqOf s.part c).leads = some x → openLeads s.part c < 8 → x.doom = none → s.part.time.tick < x.start / 250 →
      let freed := (seqOf s.part c).freed
      let free := if freed.length + openLeads s.part c < 8 then none else freed.min?
      let n := max x.at_ (free.getD 0)
      n / 250 ≤ s.part.time.tick → reg s.part G.clockState ≠ 2 →
      ∃ q, exec (.leadPulse c) s = .next { s with part := q } ∧
        seqOf q c = { seqOf s.part c with
          leads := swapOut x [{ x with pulsed := true }] (seqOf s.part c).leads
          freed := match free with
            | some t => freed.erase t
            | none => freed } ∧
        reg q (G.leadCount c) = (reg s.part (G.leadCount c) + 1) % 2 ^ regWidth (G.leadCount c) ∧
        reg q (G.leadLate c) = (if x.late ∨ x.at_ < n then (reg s.part (G.leadLate c) + 1) % 2 ^ regWidth (G.leadLate c) else reg s.part (G.leadLate c)) ∧
        SameRegs s.part q [G.leadCount c, G.leadLate c] ∧
        q.fab.producers = s.part.fab.producers ++
          [⟨25 * (n / 250) + n % 250 / 10, ⟨n / 250, n % 250, 0x200 + c.val, x.gen⟩⟩] ∧
        q = { s.part with gz := { s.part.gz with regs := q.gz.regs }, fab := { s.part.fab with producers := q.fab.producers }, seqs := q.seqs } ∧
        (∀ d, d ≠ c → seqOf q d = seqOf s.part d)) ∧
    (∀ n gen r, (seqOf s.part c).retr = (n, gen) :: r → n / 250 ≤ s.part.time.tick → reg s.part G.clockState = 0 →
      ∃ q, exec (.retract c) s = .next { s with part := q } ∧ seqOf q c = { seqOf s.part c with retr := r, freed := (seqOf s.part c).freed ++ [n] } ∧
        reg q (G.retractCount c) = (reg s.part (G.retractCount c) + 1) % 2 ^ regWidth (G.retractCount c) ∧
        SameRegs s.part q [G.retractCount c] ∧
        q.fab.producers = s.part.fab.producers ++ [⟨25 * (n / 250) + n % 250 / 10, ⟨n / 250, n % 250, 0x300 + c.val, gen⟩⟩] ∧
        q = { s.part with gz := { s.part.gz with regs := q.gz.regs }, fab := { s.part.fab with producers := q.fab.producers }, seqs := q.seqs } ∧
        (∀ d, d ≠ c → seqOf q d = seqOf s.part d))

/-- DECIDE_STAGE (R12, R140): every sequencer is advanced to the end of the tick after the next. DECIDE_STAGE at rest (R140, R141): it completes,
and no sequencer starts by itself. The model's own readings: log entries 66 and 79. -/
def Obligations.DecideStagesPlanEveryChannel : Prop :=
  (∀ s : State, awake s → stuckChan s.part = none →
    (reg s.part G.clockState = 2 → exec .decideStage s = .next s) ∧
    (reg s.part G.clockState ≠ 2 →
      (s.part.time.closed = planTick s.part → exec .decideStage s = .next s) ∧
      (s.part.time.closed ≠ planTick s.part →
        match stuckChan (decideStage s.part) with
        | some (c, w) => exec .decideStage s = .fault (.sequencer c w)
        | none => ∃ q, exec .decideStage s = .next { s with part := q } ∧ q.time.tick = s.part.time.tick ∧
            q.time.closed = planTick s.part ∧ ∀ c, behind (seqOf q c) (planTick s.part) = false))) ∧
  (∀ s : State, awake s → reg s.part G.clockState ≠ 2 → (∀ c, (seqOf s.part c).act = .off) →
    (∀ g : Grp, reg s.part (G.lgState g) = 0 ∧ (grpOf s.part g).startAt = none ∧ (grpOf s.part g).stopAt = none ∧
      (grpOf s.part g).restartAt = none ∧ ∀ i, i < 4 → latchAt s.part (grpLatch g i) = none) → s.part.adm.plans = [] →
    ∃ q, exec .decideStage s = .next { s with part := q } ∧ (∀ c, (seqOf q c).act = .off ∧ (seqOf q c).at_ = (seqOf s.part c).at_) ∧
      q.time.tick = s.part.time.tick ∧ q.mem = s.part.mem ∧ q.grps = s.part.grps ∧ q.adm = s.part.adm)

/-- TICK_BOUNDARY (R12, R22, R42): the tick counter counts modulo 2^64, and what was synthesized for the tick that begins is emitted in it; without
a sample clock only the Datum and a self-test that has ended move on. The model's own readings: log entries 48, 66 and 96. -/
def Obligations.TickBoundaryBegins : Prop :=
  ∀ s : State, awake s → s.part.life.test ≠ 6 →
    let p := s.part
    (reg p G.clockState ≠ 2 →
      ∃ q, exec .tickBoundary s = .next { s with part := q } ∧ q.time.tick = (p.time.tick + 1) % 2 ^ 64 ∧
        (∀ c, (dpOf q c).emit = (dpOf p c).next) ∧ p.sent <:+ q.sent) ∧
    (reg p G.clockState = 2 → p.life.test ≠ 5 → exec .tickBoundary s =
      .next { s with part := { p with time := { p.time with datum := p.time.datum + tickUnits p } } })

/-- SYNC_RELEASE (R150): who is released, and when; PLAN_TAKE_EFFECT (R162). The model's own readings: log entries 2 and 78. -/
def Obligations.RendezvousAndCommitsTakeEffect : Prop :=
  (∀ (s : State) (g : Grp), awake s → StageOpen s.part →
    let l := participants s.part g
    let arrived := l.filterMap fun c => arrivedAt (seqOf s.part (chan c))
    let t := max (planTick s.part) (arrived.foldl max 0 / 250 + 1)
    arrived.length = l.length → syncTags s.part g ≠ [] →
    ∃ q, exec (.syncRelease g) s = .next { s with part := q } ∧
      (∀ c : Chan, seqOf q c = if c.val ∈ l then (seqOf s.part c).released (250 * t) else seqOf s.part c) ∧
      q = { s.part with seqs := q.seqs, plans := q.plans }) ∧
  (∀ (s : State) (c : Chan) (k : PlanCommit), awake s →
    (s.part.adm.plans.find? fun k => decide (k.chan = c.val ∧ k.tick ≤ s.part.time.tick) &&
      !commitCancelled s.part (grp (groupOf s.part c)) k.tick) = some k →
    ∃ q, exec (.planTakeEffect c) s = .next { s with part := q } ∧ reg q (G.trvBase c) = k.base ∧ reg q (G.trvSize c) = k.size ∧
      reg q (G.trvEntry c) = k.entry ∧ reg q (G.planState c) = 3 ∧ (k.size = 0 → reg q (G.seqState c) = 0) ∧
      q.adm.plans = s.part.adm.plans.filter (fun x => decide (x ≠ k)) ∧ q.seqs = s.part.seqs ∧ q.plans = s.part.plans ∧ q.mem = s.part.mem)

/-- TRAVERSE_STEP_WRITE (R135, R138) and EV_CLEAR (R141) where the write is taken. -/
def Obligations.StepsAndLatchesAreWritten : Prop :=
  ∀ (s : State) (path : Path), awake s →
    (∀ n v, n < 262144 → Takes s.part path (gkey (0x8000 + n / 16) (2 * (n % 16))) v →
      let p := cleared s.part path (gkey (0x8000 + n / 16) (2 * (n % 16)))
      stepInUse p n = false → lockedStep p n = false → stepRecordOk v = true →
      ∃ q, exec (.traverseStepWrite path n v) s = .next { s with part := tell q path 0 } ∧
        (∀ k, kget (fun _ => 0) q.mem.trav k = if k = n then v else kget (fun _ => 0) p.mem.trav k) ∧
        q = { p with mem := { p.mem with trav := q.mem.trav } }) ∧
    (∀ (c : Chan) (mask : Nat), Takes s.part path (gkey (0x2300 + c.val) 0x29) mask →
      let p := cleared s.part path (gkey (0x2300 + c.val) 0x29)
      ∃ q, exec (.evClear path c mask) s = .next { s with part := tell q path 0 } ∧
        (∀ k, latchAt q k = if k ∈ ((List.range 8).filter (bit mask)).map (chLatch c) then none else latchAt p k) ∧
        q = { p with fab := { p.fab with latches := q.fab.latches } })

/-- GAZETTEER_WRITE of a whole value (R59, R60, R73, R76): where the value goes. The model's own readings: log entries 51, 71 and 100. -/
def Obligations.WritesTakeEffectByTheirClass : Prop :=
  ∀ (s : State) (path : Path) (index sub v : Nat) (e : Entry), awake s → sub < 256 → lookup index sub = .entry e sub →
    (∀ n, e.ty ≠ .bulk n) → Takes s.part path (gkey index sub) v →
    let k := gkey index sub
    let p := cleared s.part path k
    let w := keptBits e (reg p k) v
    let gives (r : Part) : Prop := exec (.gazetteerWrite (.whole path index sub v)) s = .next { s with part := tell r path 0 }
    let posted (r : Part) : Part := match domainOf e k with
      | some d => setBusy r d true
      | none => r
    (e.kind = .now → gives (setReg p k w)) ∧
    (e.kind = .sub → gives (setReg (settle p (acyc p)) k w)) ∧
    (e.kind = .w1c → k ≠ G.timeSticky → ¬ (index / 256 = 0x25 ∧ sub = 0x08) → gives (setReg p k (reg p k ^^^ (reg p k &&& w)))) ∧
    (k = G.timeSticky → gives { p with gz := { p.gz with bound := kput k ((kfind k p.gz.bound).getD 0 ||| w) p.gz.bound } }) ∧
    (e.kind = .plain → e.acc = .wo1 →
      gives (posted (setRegBit { p with gz := { p.gz with bound := kput k w p.gz.bound } } G.wo1Written (onceBit k) true))) ∧
    (e.kind = .plain → e.acc ≠ .wo1 →
      (e.cls = .fixed → gives (posted { p with gz := { p.gz with work := kput k w p.gz.work } })) ∧
      (e.cls = .live → keyChan k = none → gives (posted { p with gz := { p.gz with bound := kput k w p.gz.bound } })) ∧
      (e.cls = .live → (keyChan k).isSome → gives (posted { p with gz := { p.gz with pend := kput k w p.gz.pend } })) ∧
      (e.cls = .staged → ∀ c, keyChan k = some c →
        let r := { p with gz := { p.gz with pend := kput k w p.gz.pend } }
        gives (posted (disarm (disarm r (groupOf r c)) (nextGroup r c)))) ∧
      (e.cls = .staged → keyChan k = none → keyQueue k = none → gives (posted (setReg p k w))) ∧
      (e.cls = .staged → keyChan k = none → ∀ q, keyQueue k = some q → gives (posted (disarmReaders (setReg p k w) q))))

/-- BAR0_STAGED_WORD_WRITE and GAZETTEER_WRITE over BAR0 (R69, R70). The model's own readings: log entries 36 and 101. -/
def Obligations.BarWritesMakeWholeWrites : Prop :=
  ∀ (s : State) (requester slot f : Nat) (e : Entry), awake s → reaches s.part (.bar0 requester) (slot / 256) = true →
    (∀ n, e.ty ≠ .bulk n) →
    let k := gkey (slot / 256) f
    let p := discardStaged s.part (.bar0 requester) k
    (∀ (high : Bool) (data : BitVec 32),
      (lookup (slot / 256) (slot % 256) = .entry e f ∨ lookup (slot / 256) (slot % 256) = .cont e f) →
      let w := 2 * (slot % 256 - f) + (if high then 1 else 0)
      w < commitWord e →
      let l := match p.gz.stage with
        | some (_, l) => l
        | none => []
      exec (.bar0StagedWordWrite requester slot high data) s =
        .next { s with part := { p with gz := { p.gz with stage := some (k, kput w data.toNat l) } } }) ∧
    (∀ data : BitVec 64, lookup (slot / 256) (slot % 256) = .entry e f → f = slot % 256 → (∀ l, s.part.gz.stage ≠ some (k, l)) →
      (commitWord e = 0 → valueAt p e k < 2 ^ 32 →
        exec (.gazetteerWrite (.slot requester slot 0x0F data)) s =
          exec (.gazetteerWrite (.whole (.bar0 requester) (slot / 256) f (data.toNat % 2 ^ 32))) s) ∧
      (commitWord e = 1 → valueAt p e k < 2 ^ 64 →
        exec (.gazetteerWrite (.slot requester slot 0xFF data)) s =
          exec (.gazetteerWrite (.whole (.bar0 requester) (slot / 256) f data.toNat)) s))

/-- BAR0_SNAPSHOT_READ (R71, R74). BAR0_CROSSING_ACCESS (R72), BAR0_UNSUPPORTED_REQUEST (R68) and WRITE_ONLY_READ (R74).
The model's own readings: log entries 37 and 42. -/
def Obligations.BarReadsReturnTheSnapshotOrAreRefused : Prop :=
  (∀ (s : State) (requester slot : Nat) (be : BitVec 8), awake s → reaches s.part (.bar0 requester) (slot / 256) = true →
    (∀ (e : Entry) (f : Nat), (lookup (slot / 256) (slot % 256) = .entry e f ∨ lookup (slot / 256) (slot % 256) = .cont e f) →
      e.acc ≠ .wo → gkey (slot / 256) f ≠ G.bpData →
      let k := gkey (slot / 256) f
      let w := 2 * (slot % 256 - f)
      let now := valueAt s.part e k
      let words := (if be.toNat % 16 ≠ 0 then 2 ^ w else 0) + (if be.toNat / 16 ≠ 0 then 2 ^ (w + 1) else 0)
      let below := words % 2 ^ commitWord e
      let gives (snap : Option (Nat × Nat × Nat)) (v : Nat) : Prop :=
        exec (.bar0SnapshotRead requester slot be) s =
          .next { s with part := say { s.part with gz := { s.part.gz with snap := snap } }
                                  (.read (.value (slotBytes (bits v (32 * w + 63) (32 * w)) be))) }
      (below ≠ 0 → (∀ v m, s.part.gz.snap = some (k, v, m) → m &&& below ≠ 0) → gives (some (k, now, words)) now) ∧
      (∀ v m, s.part.gz.snap = some (k, v, m) → m &&& below = 0 → gives (some (k, v, m ||| words)) v) ∧
      (below = 0 → (∀ v m, s.part.gz.snap ≠ some (k, v, m)) → gives s.part.gz.snap now)) ∧
    (∀ n, lookup (slot / 256) (slot % 256) = .numSubs n →
      exec (.bar0SnapshotRead requester slot be) s = .next { s with part := say s.part (.read (.value (slotBytes n be))) }) ∧
    ((lookup (slot / 256) (slot % 256) = .noIndex ∨ lookup (slot / 256) (slot % 256) = .noSub) →
      exec (.bar0SnapshotRead requester slot be) s = .next { s with part := say s.part (.read (.value (slotBytes 0 be))) })) ∧
  (∀ (s : State) (requester slot : Nat), awake s → barDead s.part = false →
    (∀ data, exec (.bar0CrossingAccess requester slot true data) s =
      .next { s with part := logAbort s.part (.bar0 requester) 4 0x0F (slot / 256) (slot % 256) data }) ∧
    (∀ data, exec (.bar0CrossingAccess requester slot false data) s =
      .next { s with part := say (logAbort s.part (.bar0 requester) 4 0x0F (slot / 256) (slot % 256) 0) (.read .completerAbort) }) ∧
    exec (.bar0UnsupportedRequest requester) s = .next { s with part := say s.part (.read .unsupported) } ∧
    (∀ (e : Entry) (f : Nat), reaches s.part (.bar0 requester) (slot / 256) = true → e.acc = .wo →
      (lookup (slot / 256) (slot % 256) = .entry e f ∨ lookup (slot / 256) (slot % 256) = .cont e f) →
      ∃ q, exec (.writeOnlyRead requester slot) s = .next { s with part := say q (.read (.value 0)) } ∧
        q = logAbort s.part (.bar0 requester) 0 0x04 (slot / 256) (slot % 256) 0))

/-- Every refused write (R58, R59, R64, R66, R74, R76, R78): one record, and no other effect. LOG_CLEAR (R78), BP_TARGET, BP_DATA, BP_COMMIT (R75)
and POST_DONE (R76). The model's own readings: log entries 36 and 39. -/
def Obligations.TheAbortLogAndTheBlockPort : Prop :=
  ((∀ (s : State) (path : Path) (index sub v : Nat), awake s → reaches s.part path index = true → sub < 256 →
    let k := gkey index sub
    let p := cleared s.part path k
    let refused (q : Part) (code : Nat) : Prop :=
      exec (.gazetteerWrite (.whole path index sub v)) s = .next { s with part := tell (logAbort q path 1 code index sub v) path code }
    (lookup index sub = .noIndex → refused p 0x01) ∧ (lookup index sub = .noSub → refused p 0x02) ∧
    (∀ n, lookup index sub = .numSubs n → refused p 0x03) ∧
    (∀ e, lookup index sub = .entry e sub → (∀ n, e.ty ≠ .bulk n) →
      let code := checkWrite p e k (keptBits e (reg p k) v) false true
      code ≠ 0 → refused (match domainOf e k with
        | some d => if code = 0x0A then setOverrun p d else p
        | none => p) code)) ∧
  (∀ (p : Part) (path : Path) (op code index sub value : Nat),
    let n := reg p G.logNext % 80
    let q := logAbort p path op code index sub value
    reg q (G.logWhen n) = p.time.tick ∧ reg q (G.logValue n) = value % 2 ^ 64 ∧
    reg q (G.logWhat n) = code + sub * 2 ^ 8 + index * 2 ^ 16 + pathCode path * 2 ^ 32 + op * 2 ^ 36 + pathWho path * 2 ^ 40 + 2 ^ 63 ∧
    reg q G.logNext = (n + 1) % 80 ∧ reg q G.logTotal = min (reg p G.logTotal + 1) 0xFFFFFFFF ∧
    OnlyRegs p q [G.logWhen n, G.logWhat n, G.logValue n, G.logNext, G.logTotal])) ∧
  (∀ (s : State) (path : Path), awake s →
    (Takes s.part path G.logClear 1 → ∃ q, exec (.logClear path 1) s = .next { s with part := tell q path 0 } ∧
      (∀ r, r < 80 → reg q (G.logWhen r) = 0 ∧ reg q (G.logWhat r) = 0 ∧ reg q (G.logValue r) = 0) ∧
      reg q G.logTotal = 0 ∧ reg q G.logNext = 0 ∧
      OnlyRegs (cleared s.part path G.logClear) q (G.logTotal :: G.logNext :: (List.range 80).flatMap fun r => [G.logWhen r, G.logWhat r, G.logValue r])) ∧
    (∀ v e n, Takes s.part path G.bpTarget v → v < 2 ^ 24 → entryOf v = some e → e.ty = .bulk n →
      let p := cleared s.part path G.bpTarget
      ∃ q, exec (.bpTarget path v) s = .next { s with part := tell q path 0 } ∧
        q.gz.block = bulkBytes q v false ∧ reg q G.bpTarget = v ∧ reg q G.bpOffset = 0 ∧ reg q G.bpLength = bulkTotal p v [] ∧
        q = { p with gz := { p.gz with regs := q.gz.regs, block := q.gz.block } } ∧
        SameRegs p q [G.bpTarget, G.bpOffset, G.bpLength, G.bpStatus]) ∧
    (∀ v, Takes s.part path G.bpData v →
      let p := cleared s.part path G.bpData
      let o := reg p G.bpOffset
      o + 8 ≤ reg p G.bpLength → p.gz.block.length = reg p G.bpLength →
      ∃ q, exec (.bpData path (some v)) s = .next { s with part := tell q path 0 } ∧ reg q G.bpOffset = o + 8 ∧
        q.gz.block = p.gz.block.take o ++ toBytesLE 8 v ++ p.gz.block.drop (o + 8) ∧
        q = { p with gz := { p.gz with regs := q.gz.regs, block := q.gz.block } } ∧ SameRegs p q [G.bpOffset, G.bpStatus]) ∧
    (reaches s.part path 0x10E0 = true →
      let o := reg s.part G.bpOffset
      o + 8 ≤ reg s.part G.bpLength →
      ∃ q, exec (.bpData path none) s = .next { s with part := say q (.read (.value (ofBytesLE ((s.part.gz.block.drop o).take 8)))) } ∧
        reg q G.bpOffset = o + 8 ∧ OnlyRegs s.part q [G.bpOffset, G.bpStatus]) ∧
    (Takes s.part path G.bpCommit 1 →
      let p := cleared s.part path G.bpCommit
      let k := reg p G.bpTarget
      let data := padTo (reg p G.bpLength) p.gz.block
      ∀ e r, entryOf k = some e → checkWrite p e k 0 false true = 0 → (mirrored e k && forwards p) = false → applyBulk p e k data = (r, 0) →
        exec (.bpCommit path 1) s = .next { s with part := tell (setReg r G.bpStatus 0) path 0 }) ∧
    (∀ d, ∃ q, exec (.postDone d) s = .next { s with part := q } ∧ domainBusy q d = false ∧
      (∀ d', domainBit d' ≠ domainBit d → domainBusy q d' = domainBusy s.part d') ∧ OnlyRegs s.part q [G.postBusy (domainBit d).1]))

/-- Replies and duplicates (R80, R81, R85): the frames of a reply hold its items in order, none longer than PL_MAX_DATAGRAM, all but the last with
MORE; the reply is kept, and a repeated request is answered with it and executes nothing. The model's own readings: log entries 43 and 84. -/
def Obligations.RequestsAreAnsweredOnce : Prop :=
  (∀ (p : Part) (items : List ReplyItem), 48 ≤ reg p G.plMaxDatagram →
    let l := framed p [] items
    l.flatMap (·.2) = items.map (fitItem p) ∧ (∀ x ∈ items, itemBytes x ≤ frameRoom p → fitItem p x = x) ∧
    (∀ e ∈ l, 36 + (e.2.map itemBytes).sum ≤ reg p G.plMaxDatagram) ∧ l.map (·.1) = List.replicate (l.length - 1) true ++ [false]) ∧
  (∀ (p : Part) (h : PlHeader) (status : Nat) (items : List ReplyItem),
    let q := reply p h status items
    let own (r : CacheRec) : Bool := decide (r.source = h.source ∧ r.udpPort = h.udpPort ∧ r.session = h.session)
    let frames := (framed p [] items).map fun e => PlFrame.reply h.session h.seq p.time.tick status e.1 [] e.2
    q.sent = (frames.map (Out.frame (destOf h))).reverse ++ p.sent ∧
    q.pl.cache.find? (repeats h) = some ⟨h.source, h.udpPort, h.session, h.seq, frames⟩ ∧
    (q.pl.cache.filter own).length ≤ 16 ∧ q.pl.cache.filter (fun r => !own r) = p.pl.cache.filter (fun r => !own r) ∧
    q = { p with pl := { p.pl with cache := q.pl.cache }, sent := q.sent }) ∧
  (∀ (s : State) (h : PlHeader) (r : CacheRec), awake s → s.part.life.recovery = false → s.part.pl.cache.find? (repeats h) = some r →
    let again (p : Part) : Part :=
      { addReg p G.plDuplicates 1 with sent := (r.frames.map (Out.frame (destOf h))).reverse ++ p.sent }
    let t : Host.Outcome State Fault Refusal := .next { s with part := again s.part }
    let fits (n : Nat) : Prop := n ≤ reg s.part G.plMaxDatagram
    (∀ items, fits (frameBytes 0 items) → exec (.read h items) s = t ∧ exec (.write h items) s = t ∧ exec (.writeBlock h items) s = t) ∧
    (∀ period id mode items, fits (frameBytes 8 items) → exec (.subscribe h period id mode items) s = t) ∧
    (∀ nonce resume, fits 72 → exec (.attest h nonce resume) s = t) ∧ (fits 36 → exec (.discover h) s = t) ∧
    (∀ mask tick (c : Cyc), fits 76 → exec (.fireRequest h mask tick c) s = .next { s with part := again (atCyc s.part c) }))

/-- READ (R62, R81, R83). The model's own readings: log entry 42. -/
def Obligations.ReadsAnswerEveryItem : Prop :=
  ∀ (s : State) (h : PlHeader) (items : List PlItem), awake s → Fresh s.part h (frameBytes 0 items) →
    (∀ x ∈ items, gkey x.index x.sub ≠ G.bpData) → (∀ x ∈ items, x.sub < 256) →
    let p := s.part
    let result (x : PlItem) : Nat × List Byte :=
      match lookup x.index x.sub with
      | .noIndex => (0x01, [])
      | .noSub => (0x02, [])
      | .cont _ _ => (0x02, [])
      | .numSubs n => if x.type = 0 ∨ x.type = tyCode .u8 then (0, toBytesBE 1 n) else (0x05, [])
      | .entry e _ =>
        if x.type ≠ 0 ∧ x.type ≠ tyCode e.ty then (0x05, [])
        else if e.acc = .wo then (0x04, [])
        else
          match e.ty with
          | .bulk _ => (0, ((bulkBytes p (gkey x.index x.sub) h.pending).drop x.offset).take x.len)
          | t => (0, linkBytes t (if h.pending then pendingAt p e (gkey x.index x.sub) else valueAt p e (gkey x.index x.sub)))
    let answer (x : PlItem) : ReplyItem := ⟨x.index, x.sub, (result x).1, itemType x, x.offset, (result x).2⟩
    exec (.read h items) s = .next { s with part := reply p h 0 (items.map answer) }

/-- WRITE and WRITE_BLOCK (R58, R76, R81, R83). The model's own readings: log entries 39, 43 and 86. -/
def Obligations.WritesExecuteTheirItems : Prop :=
  ∀ (s : State) (h : PlHeader) (x : PlItem), awake s →
    let path := headerPath h
    let answer (y : PlItem) (code : Nat) : ReplyItem := ⟨y.index, y.sub, code, itemType y, y.offset, []⟩
    (∀ e v, Fresh s.part h (frameBytes 0 [x]) → wanted x = .value e (gkey x.index x.sub) v → x.sub < 256 → e.kind ≠ .cmd →
      Takes s.part path (gkey x.index x.sub) v →
      ∃ r, exec (.gazetteerWrite (.whole path x.index x.sub v)) s = .next { s with part := tell r path 0 } ∧
        exec (.write h [x]) s = .next { s with part := reply r h 0 [answer x 0] } ∧
        exec (.writeBlock h [x]) s = .next { s with part := reply r h 0 [answer x 0] }) ∧
    (∀ code, Fresh s.part h (frameBytes 0 [x]) → wanted x = .refuse code → code ≠ 0 →
      ∃ q, exec (.write h [x]) s = .next { s with part := q } ∧
        q = reply (logAbort s.part path 1 code (gkey x.index x.sub / 256) (gkey x.index x.sub % 256) (itemValue x)) h 0 [answer x code]) ∧
    (∀ items y code, Fresh s.part h (frameBytes 0 items) → firstBad s.part h s.part.pl.bulk items = some (y, code) →
      ∃ q, exec (.writeBlock h items) s = .next { s with part := q } ∧
        q = reply (logAbort (itemOverrun s.part y code) path 2 code (gkey y.index y.sub / 256) (gkey y.index y.sub % 256) (itemValue y)) h code
          [answer y code])

/-- SUBSCRIBE and PUBLICATION (R87). The model's own readings: log entries 2, 45 and 87. -/
def Obligations.SubscriptionsPublish : Prop :=
  ∀ s : State, awake s →
    let p := s.part
    let l := p.pl.subs
    let step := reg p G.ticksPerSecond / 1000
    let replaced (q : Part) (subs : List Sub) : Prop := q.pl.subs = subs ∧ reg q G.subsActive = subs.length ∧
      q = { p with gz := { p.gz with regs := q.gz.regs }, pl := { p.pl with subs := q.pl.subs } } ∧ SameRegs p q [G.subsActive]
    (∀ h period id mode items, Fresh p h (frameBytes 8 items) → mode < 3 → items.length ≤ 256 → (period = 0 ∨ step ≤ period) →
      (id = 0 ∧ l.length < 64 ∨ id ≠ 0 ∧ ∃ x ∈ l, x.id = id) →
      let n := if id = 0 then freeSubId l else id
      let good := items.filter fun x => decide ((sampleItem p x).status = 0)
      let answers : List ReplyItem := items.map fun x => ⟨x.index, x.sub, (sampleItem p x).status, itemType x, x.offset, []⟩
      ∃ q, exec (.subscribe h period id mode items) s = .next { s with part := replyHead q h 0 (toBytesBE 2 n) answers } ∧
        replaced q (l.filter (fun x => decide (x.id ≠ n)) ++
          [⟨n, destOf h, h.session, period, mode, good, 0, good.map (sampleItem p), p.time.tick, p.time.tick + 1⟩])) ∧
    (∀ h period id items, Fresh p h (frameBytes 8 items) → id ≠ 0 → (∃ x ∈ l, x.id = id) →
      ∃ q, exec (.subscribe h period id 3 items) s = .next { s with part := replyHead q h 0 (toBytesBE 2 id) [] } ∧
        replaced q (l.filter fun x => decide (x.id ≠ id))) ∧
    (∀ h period id mode items, Fresh p h (frameBytes 8 items) →
      (3 < mode ∨ (id ≠ 0 ∧ ∀ x ∈ l, x.id ≠ id) ∨ (mode = 3 ∧ id = 0) ∨
        (mode < 3 ∧ (256 < items.length ∨ (period ≠ 0 ∧ period < step) ∨ (id = 0 ∧ 64 ≤ l.length)))) →
      exec (.subscribe h period id mode items) s = .next { s with part := reply p h 0x06 [] }) ∧
    (∀ id x, l.find? (fun y => decide (y.id = id)) = some x →
      let now := x.items.map (sampleItem p)
      let due (n : Nat) : Prop := n ≠ 0 ∧ (p.time.tick + 2 ^ 64 - x.since) % 2 ^ 64 % n = 0 ∧ x.done ≠ p.time.tick + 1
      let compares := x.mode ≠ 0 ∧ due step
      let publishes := (x.mode ≠ 1 ∧ due x.period) ∨ (compares ∧ now ≠ x.seen)
      let kept (y : Sub) : PlSt := { p.pl with subs := l.map fun z => if z.id = id then y else z }
      let frames := (framed p [] now).map fun e => Out.frame x.dest (.publication x.session id x.count p.time.tick e.1 e.2)
      let next := kept { x with count := x.count + 1, seen := if compares then now else x.seen, done := p.time.tick + 1 }
      (publishes → exec (.publication id) s = .next { s with part := { p with pl := next, sent := frames.reverse ++ p.sent } }) ∧
      (¬ publishes → exec (.publication id) s =
        .next { s with part := if compares then { p with pl := kept { x with done := p.time.tick + 1 } } else p })) ∧
    (∀ id, l.find? (fun y => decide (y.id = id)) = none → exec (.publication id) s = .next s)

/-- ANNOUNCE, ANNOUNCE_SEND, PARTNER_LOST, DISCOVER and DISCOVER_REPLY (R87 to R89). The model's own readings: log entries 2 and 46. -/
def Obligations.PartnersAreHeardAndLost : Prop :=
  ∀ s : State, awake s → s.part.life.recovery = false →
    let p := s.part
    let own (port : EthPort) : PlFrame := .announce ⟨reg p G.serial, if paired p then reg p G.pairRole else 0, reg p G.timeState, reg p G.lcState, port,
      errorEstimate p, if paired p then reg p G.pairId else 0, reg p G.fwVersion, reg p G.hostname⟩
    let v4 (port : EthPort) : Nat := reg p (G.ipv4Addr (portNo port))
    let groups (port : EthPort) : List Nat :=
      (if v4 port = 0 then [] else [ofBytesLE (List.replicate 10 0 ++ [0xFF, 0xFF] ++ toBytesBE 4 (reg p G.plAnnounceV4))]) ++
        [ofBytesLE ([0xFF, 0x15] ++ List.replicate 12 0 ++ [0xB8, 0x10])]
    (∀ port r, (r.role ≠ 3 → ¬ (paired p = true ∧ p.pair.peer.map (·.serial) = some r.serial)) →
      let kind := if r.role = 3 then 3 else 4
      (∀ i, (partnerSlot p kind r.serial = some i ∨ (partnerSlot p kind r.serial = none ∧ freeSlot p = some i)) →
        let keys := [G.pKind i, G.pIdentity i, G.pAddress i, G.pPort i, G.pRole i, G.pLastTick i, G.pState i]
        ∃ q, exec (.announce port r) s = .next { s with part := q } ∧ reg q (G.pKind i) = kind ∧ reg q (G.pIdentity i) = r.serial ∧
          reg q (G.pAddress i) = r.address ∧ reg q (G.pPort i) = (if port = .a then 1 else 2) ∧ reg q (G.pRole i) = r.role ∧
          reg q (G.pLastTick i) = p.time.tick ∧ reg q (G.pState i) = 0 ∧ SameRegs p q keys ∧
          sinceHeard q i = 0 ∧ q.pl.lost = p.pl.lost.filter (fun j => decide (j ≠ i)) ∧
          q = { p with gz := { p.gz with regs := q.gz.regs }, pl := { p.pl with heard := q.pl.heard, lost := q.pl.lost } }) ∧
      (partnerSlot p kind r.serial = none → freeSlot p = none →
        exec (.announce port r) s = .next { s with part := addReg p G.partnersDropped 1 })) ∧
    exec .announceSend s = .next { s with part := { p with sent := ((portsOf (reg p G.plAnnounce)).flatMap fun port =>
      (groups port).map fun a => Out.frame ⟨port, a, reg p G.plUdpPort⟩ (own port)).reverse ++ p.sent } } ∧
    (∀ (i : Fin 32) (c : Cyc), (reg p (G.pKind i) = 3 ∨ reg p (G.pKind i) = 4) → reg p (G.pState i) = 0 →
      (7 * secondUnits ≤ sinceHeard p i * 2 →
        ∃ q, exec (.partnerLost i c) s = .next { s with part := q } ∧ reg q (G.pState i) = 1 ∧
          q.pl.lost = p.pl.lost.filter (fun j => decide (j ≠ i.val)) ++ [i.val] ∧
          q.fab.producers = p.fab.producers ++ [⟨25 * p.time.tick + c.val, ⟨p.time.tick, 10 * c.val, 0xB82, 0⟩⟩] ∧
          q.pl.subs = (if reg p (G.pKind i) = 3 then p.pl.subs.filter (fun x => decide (x.dest.address ≠ reg p (G.pAddress i))) else p.pl.subs) ∧
          SameRegs p q [G.pState i, G.subsActive] ∧ q.mem = p.mem ∧ q.seqs = p.seqs ∧ q.plans = p.plans ∧ q.sent = p.sent) ∧
      (sinceHeard p i * 2 < 7 * secondUnits → exec (.partnerLost i c) s = .next s)) ∧
    (∀ h, Fresh p h 36 → exec (.discover h) s = .next { s with part := { p with pl := { p.pl with discover := p.pl.discover ++ [h] } } }) ∧
    (∀ h r, p.pl.discover = h :: r →
      exec .discoverReply s = .next { s with part := sendReply { p with pl := { p.pl with discover := r } } h [own h.port] })

/-- LLDP_SEND, LLDP_RECEIVE (R90) and PL_RX_BAD (R86). The model's own readings: log entry 70. -/
def Obligations.LldpAndBadFrames : Prop :=
  ∀ s : State, awake s → s.part.life.recovery = false →
    let p := s.part
    (∀ port : EthPort, let on := bit (reg p G.lldpEnable) (if port = .a then 0 else 1)
      let v4 := reg p (G.ipv4Addr (portNo port))
      exec (.lldpSend port) s = .next { s with part := if on then { p with
        sent := .lldp port (reg p (G.mac 0)) (reg p (G.mac (portNo port))) (reg p G.hostname)
          (if v4 = 0 then reg p (G.ipv6Addr (portNo port)) else mappedV4 v4) 120 :: p.sent } else p }) ∧
    (∀ r, exec (.lldpReceive .a r) s = .next { s with part := { p with pl := { p.pl with lldpA := some (r, datumNow p) } } } ∧
      exec (.lldpReceive .b r) s = .next { s with part := { p with pl := { p.pl with lldpB := some (r, datumNow p) } } }) ∧
    ∃ q, exec .plRxBad s = .next { s with part := q } ∧ reg q G.plRxBad = (reg p G.plRxBad + 1) % 2 ^ regWidth G.plRxBad ∧
      OnlyRegs p q [G.plRxBad]

/-- ATTEST (R92), ATT_NONCE and ATT_SIGN_DONE (R368). The model's own readings: log entries 8 and 43. -/
def Obligations.AttestRequestsAreServed : Prop :=
  ∀ s : State, awake s →
    let p := s.part
    let begun (p q : Part) (nonce : Nat) : Prop := q.life = { p.life with nonce := some nonce, report := [] } ∧ reg q G.attState = 1 ∧
      SameRegs p q [G.attState] ∧ q.mem = p.mem ∧ q.seqs = p.seqs ∧ q.fab = p.fab
    (∀ h nonce resume, Fresh p h 72 → p.life.test = 0 → mayAttest p = true → p.life.nonce = some nonce → reg p G.attState = 2 →
      let n := max 1 (reg p G.plMaxDatagram - 44)
      let total := p.life.report.length
      let fragment (i : Nat) : PlFrame := .report h.session h.seq p.time.tick total (resume + i * n) (decide (resume + i * n + n < total))
        ((p.life.report.drop (resume + i * n)).take n)
      exec (.attest h nonce resume) s =
        .next { s with part := sendReply p h ((List.range (ceilDiv (total - resume) n)).map fragment) }) ∧
    (∀ h nonce resume, Fresh p h 72 → p.life.test = 0 → mayAttest p = true → p.life.nonce ≠ some nonce →
      ∃ q, exec (.attest h nonce resume) s = .next { s with part := sendReply q h [.report h.session h.seq p.time.tick 0 0 false []] } ∧
        begun p q nonce) ∧
    (∀ h nonce resume, Fresh p h 72 → p.life.test = 0 → mayAttest p = true → p.life.nonce = some nonce → reg p G.attState ≠ 2 →
      exec (.attest h nonce resume) s = .next { s with part := sendReply p h [.report h.session h.seq p.time.tick 0 0 false []] }) ∧
    (∀ h nonce resume, Fresh p h 72 → p.life.test = 0 → mayAttest p = false →
      exec (.attest h nonce resume) s = .next { s with part := reply p h 0x0C [] }) ∧
    (∀ h nonce resume, Fresh p h 72 → p.life.test ≠ 0 → exec (.attest h nonce resume) s = .next { s with part := reply p h 0x0B [] }) ∧
    (∀ path nonce, Takes p path G.attNonce nonce → mayAttest p = true → p.life.nonce ≠ some nonce →
      ∃ q, exec (.attNonce path nonce) s = .next { s with part := tell q path 0 } ∧ begun (cleared p path G.attNonce) q nonce) ∧
    (reg p G.attState = 1 → ∃ q, exec .attSignDone s = .next { s with part := q } ∧ reg q G.attState = 2 ∧ q.life.nonce = p.life.nonce ∧
      reportBody p <+: q.life.report ∧ q.mem = p.mem ∧ q.seqs = p.seqs) ∧
    (reg p G.attState ≠ 1 → exec .attSignDone s = .next s)

/-- FIRE_MASK (R109, R110), FIRE_REQUEST (R91) and TIMED_FIRE (R111). The model's own readings: log entries 2 and 19. -/
def Obligations.FiringsAssertTheirChannels : Prop :=
  ∀ (s : State) (mask : Nat) (c : Cyc), awake s → mask < 2 ^ 256 →
    let now (p q : Part) : Prop := SoftFired p q mask p.time.tick (10 * c.val) (25 * p.time.tick + c.val + 2)
    let later (p q : Part) (t : Nat) : Prop := q.fab = { p.fab with fires := p.fab.fires ++ [(t, mask)] } ∧
      reg q G.firePending = p.fab.fires.length + 1 ∧ SameRegs p q [G.firePending] ∧
      q = { p with gz := { p.gz with regs := q.gz.regs }, fab := q.fab }
    (∀ path, Takes (atCyc s.part c) path G.fireMask mask →
      let p := cleared (atCyc s.part c) path G.fireMask
      let t := reg p G.fireAtTick
      (t = 0 → ∃ q, exec (.fireMask path mask c) s = .next { s with part := tell q path 0 } ∧ now p q) ∧
      (p.time.tick < t → p.fab.fires.length < 16 →
        ∃ q, exec (.fireMask path mask c) s = .next { s with part := tell q path 0 } ∧ later p q t)) ∧
    (∀ h t, Fresh s.part h 76 → s.part.life.test = 0 → refusesMirrored s.part = false → forwards s.part = false →
      let p := atCyc s.part c
      (t = 0 → ∃ q, exec (.fireRequest h mask t c) s = .next { s with part := reply q h 0 [] } ∧ now p q) ∧
      (p.time.tick < t → p.fab.fires.length < 16 →
        ∃ q, exec (.fireRequest h mask t c) s = .next { s with part := reply q h 0 [] } ∧ later p q t)) ∧
    (let p := atCyc s.part 0
     let rest := p.fab.fires.filter fun e => decide (e.1 ≠ p.time.tick)
     let due := p.fab.fires.filter fun e => decide (e.1 = p.time.tick)
     (reg p G.clockState = 0 → ∃ q, exec .timedFire s = .next { s with part := q } ∧ q.fab.fires = rest ∧ reg q G.firePending = rest.length ∧
       q.fab.arrivals = p.fab.arrivals ++ due.flatMap (fun e => ((List.range 256).filter (bit e.2)).map fun ec =>
         ⟨ec, 16, 25 * p.time.tick + 2, ⟨p.time.tick, 0, 0xFFF, 0⟩⟩) ∧
       SameRegs p q (G.firePending :: (List.range 256).map G.ecFlags) ∧ q.mem = p.mem ∧ q.seqs = p.seqs ∧ q.plans = p.plans) ∧
     (reg p G.clockState ≠ 0 → due ≠ [] → ∃ q, exec .timedFire s = .next { s with part := q } ∧ q.fab = { p.fab with fires := rest } ∧
       reg q G.firePending = rest.length ∧ reg q G.fireDiscarded = (reg p G.fireDiscarded + due.length) % 2 ^ regWidth G.fireDiscarded ∧
       OnlyRegs { p with fab := q.fab } q [G.firePending, G.fireDiscarded, G.fabricFlags]) ∧
     (reg p G.clockState ≠ 0 → due = [] → exec .timedFire s = .next { s with part := p }))

/-- EVENT_CHANNEL_ASSERT (R95, R97 to R99), in the order of R101, and its interrupt task (R102). EVIO_IN_EDGE (R105) and EVIO_PULSE_END (R106); what
a part makes of its own edge (R106). The model's own readings: log entries 2, 67, 69, 90 and 102. -/
def Obligations.EventChannelsAssertAndPinsFollow : Prop :=
  (∀ (s : State) (ec : Ec) (t : Nat), awake s → coreStopped s.part = false → nextArrival s.part ec = some t → t / 25 ≤ s.part.time.tick → 2 ≤ t →
    let p0 := reachBefore (t, ec.val) (256 * (t + 1 - ((firstDue (allDue s.part)).map (·.1)).getD t)) s.part
    let p := settle p0 (t - 2)
    let here := p.fab.arrivals.filter fun a => decide (a.ec = ec.val ∧ a.due = t)
    let live := here.filter fun a => decide (a.pulse.gen < 15)
    let loops := here.length - live.length
    let quiet := kget (fun _ => 0) p.fab.lastAt ec = t ∧ t ≠ 0
    (firstDue (allDue s.part) = some (t, ec.val) → p0 = s.part) ∧
    ∃ q, exec (.eventChannelAssert ec) s = .next { s with part := q } ∧ q.time.tick = s.part.time.tick ∧
      (∀ a ∈ q.fab.arrivals, ¬ (a.ec = ec.val ∧ a.due = t)) ∧
      reg q (G.ecLoopDrops ec) = (if loops = 0 then reg p (G.ecLoopDrops ec) else (reg p (G.ecLoopDrops ec) + loops) % 2 ^ regWidth (G.ecLoopDrops ec)) ∧
      (∀ pulse slot, mergePulses live = some (pulse, slot) → ¬ quiet →
        reg q (G.ecCount ec) = (reg p (G.ecCount ec) + 1) % 2 ^ regWidth (G.ecCount ec) ∧
        reg q (G.ecLast ec) = pulse.tick + pulse.off * 2 ^ 64 + pulse.src * 2 ^ 72 + pulse.gen * 2 ^ 84 +
          (if live.any fun a => a.slot = 16 then 2 ^ 88 else 0) + 2 ^ 127 ∧
        ⟨t + 1, ⟨(t + 1) / 25, 10 * ((t + 1) % 25), 0xA00 + ec.val, pulse.gen + 1⟩⟩ ∈ q.fab.producers ∧
        let v := reg p (G.ecMsix ec)
        let again := kget (fun _ => 0) p.fab.msixAt ec = (t + 1) / 25 + 1
        (v < 256 → reg p G.hostLink = 0 → ¬ again →
          (msixMasked p v = false → q.sent.head? = some (.msix v)) ∧ (msixMasked p v = true → kfind v q.strm.msixWait = some 1)) ∧
        (256 ≤ v ∨ again → q.strm.msixWait = p.strm.msixWait ∧ ∀ w, .msix w ∈ q.sent → .msix w ∈ p.sent)) ∧
      (mergePulses live = none ∨ quiet → reg q (G.ecCount ec) = reg p (G.ecCount ec) ∧ reg q (G.ecLast ec) = reg p (G.ecLast ec)) ∧
      (quiet → live ≠ [] → reg q (G.ecCoalesce ec) = (reg p (G.ecCoalesce ec) + live.length) % 2 ^ regWidth (G.ecCoalesce ec)) ∧
      q.mem = s.part.mem ∧ q.seqs = s.part.seqs ∧ q.plans = s.part.plans ∧ q.adm = s.part.adm) ∧
  (∀ (s : State) (ec : Ec), awake s → (coreStopped s.part = true ∨ nextArrival s.part ec = none ∨
      ∃ t, nextArrival s.part ec = some t ∧ s.part.time.tick < t / 25) → exec (.eventChannelAssert ec) s = .next s) ∧
  (∀ (s : State) (pin : Pin), awake s →
    let f := reg s.part (G.evioFilter pin)
    let e := reg s.part (G.evioEdge pin)
    let chosen (rising : Bool) : Prop := e = 3 ∨ (e = 1 ∧ rising = true) ∨ (e = 2 ∧ rising = false)
    let pins (p q : Part) (y : PinSt) : Prop := pinOf q pin = y ∧ (∀ n, n ≠ pin.val → pinOf q n = pinOf p n) ∧ q.mem = p.mem ∧ q.seqs = p.seqs ∧
      q.time = p.time ∧ q.fab.arrivals = p.fab.arrivals
    (∀ rising off held,
      let p := judgePad (atCyc s.part (max s.part.time.cyc (min 24 ((off + f) / 10)))) pin (250 * s.part.time.tick + off - 1) true
      let x := pinOf p pin
      let at_ := 25 * p.time.tick + (off + f) / 10
      let taken := p.fab.producers.any fun y => decide (y.pulse.src = pin.val) && decide (y.at_ = at_)
      let passes := chosen rising ∧ reg p (G.evioDir pin) ≠ 1 ∧ reg p G.pairRole ≠ 2 ∧ taken = false
      ((rising = x.accepted ∨ held < f ∨ reg p G.clockState = 2) →
        ∃ q, exec (.evioInEdge pin rising off held) s = .next { s with part := q } ∧ pins p q { x with pad := rising } ∧
          q.gz = p.gz ∧ q.fab.producers = p.fab.producers) ∧
      (rising ≠ x.accepted → f ≤ held → reg p G.clockState ≠ 2 →
        ∃ q, exec (.evioInEdge pin rising off held) s = .next { s with part := q } ∧ pins p q { x with pad := rising, accepted := rising } ∧
          (chosen rising → reg q (G.evioEdges pin) = (reg p (G.evioEdges pin) + 1) % 2 ^ regWidth (G.evioEdges pin) ∧
            reg q (G.evioLast pin) = (250 * p.time.tick + off) / 250 + (250 * p.time.tick + off) % 250 * 2 ^ 64 +
              (if rising then 2 ^ 72 else 0) + 2 ^ 127) ∧
          (passes → q.fab.producers = p.fab.producers ++ [⟨at_, ⟨p.time.tick, off, pin.val, 0⟩⟩]) ∧
          (¬ passes → q.fab.producers = p.fab.producers) ∧ SameRegs p q [G.evioEdges pin, G.evioLast pin, G.evioFlags pin])) ∧
    (∀ n closed, let x := pinOf s.part pin
      (x.turned = 0 → judgePad s.part pin n closed = s.part) ∧
      (x.turned ≠ 0 → x.pad ≠ x.accepted → x.turned - 1 + f ≤ n →
        let q := judgePad s.part pin n closed
        pins s.part q { x with accepted := x.pad, turned := 0 } ∧ SameRegs s.part q [G.evioEdges pin, G.evioLast pin] ∧
        (chosen x.pad → reg q (G.evioEdges pin) = (reg s.part (G.evioEdges pin) + 1) % 2 ^ regWidth (G.evioEdges pin)))) ∧
    ((pinOf s.part pin).endAt = 0 ∨ coreStopped s.part = true → exec (.evioPulseEnd pin) s = .next s) ∧
    ((pinOf s.part pin).endAt ≠ 0 → coreStopped s.part = false →
      let n := (pinOf s.part pin).endAt
      let p := judgePad s.part pin (n - 1) true
      let x := pinOf p pin
      let falls := x.drive = true ∧ reg p G.pairRole ≠ 2 ∧ p.fab.pinsLow = false
      ∃ q, exec (.evioPulseEnd pin) s = .next { s with part := q } ∧ q.gz = p.gz ∧
        pins p q { x with drive := false, endAt := 0, pad := if falls then false else x.pad, turned := if falls then n + 1 else x.turned } ∧
        q.sent = if falls then .evio pin false n :: p.sent else p.sent))

/-- PTP_SYNC_EXCHANGE (R28, R29, R32) and an accepted PPS_IN_EDGE (R31, R32). The model's own readings: log entries 47, 48, 49, 50, 83, 93, 95, 103
and 105. -/
def Obligations.MeasurementsSteerTheDatum : Prop :=
  ∀ (s : State) (c : Cyc), awake s →
    let p := atCyc s.part c
    let st := reg p G.timeState
    let judged (q : Part) (o : Int) : Prop :=
      reg q G.timeErrorEst = min (|o| * 1000 / 65536).toNat 0xFFFFFFFE ∧
      reg q G.timeState = (if st = 0 ∨ st = 3 then 1 else if st = 1 ∧ |o| ≤ 32768 ∧ 15 ≤ p.time.near then 2
        else if st = 2 ∧ 65536 < |o| ∧ 15 ≤ p.time.far then 1 else st) ∧
      ((st = 1 ∨ st = 2) → q.time.slew = (if p.time.moved = true ∧ o ≠ 0 then o else p.time.slew)) ∧ q.time.moved = false ∧
      q.time.word = Config.servoWord p.time.steers ∧ q.time.words = (datumNow p, q.time.word) :: recentWords p ∧
      SameUnits p q ∧ SameRegs p q [G.timeErrorEst, G.timeState, G.timeFlags, G.timeSticky, G.clockState, G.ptpOffset, G.ptpMeanPath]
    let sync (port : EthPort) (h : PtpHead) (offset meanPath : Int) := exec (.ptpSyncExchange port h offset meanPath c) s
    (∀ port h offset meanPath, ptpEnabled p port = true → h.unsupported = false →
      h = ⟨reg p G.ptpDomain, reg p G.ptpTransport, reg p G.ptpProfile, false⟩ → h.domain ≤ 127 →
      (regBit p G.timeFlags 1 = false → reg p G.timeSource = 1 → reg p G.ptpSelected = (if port = .a then 1 else 2) →
        let o := offset - toSigned 32 (reg p (if port = .a then G.ptpAsymA else G.ptpAsymB)) * 65536 / 1000
        ∃ q, sync port h offset meanPath = .next { s with part := q } ∧ judged q o ∧
          reg q G.ptpOffset = ofSigned 64 o ∧ reg q G.ptpMeanPath = ofSigned 64 meanPath) ∧
      (reg p G.timeSource ≠ 1 ∨ reg p G.ptpSelected ≠ (if port = .a then 1 else 2) → sync port h offset meanPath = .next { s with part := p })) ∧
    (∀ err dev n, regBit p G.timeFlags 1 = false → reg p G.timeSource = 2 → p.time.ppsNext = some n →
      let e := err - toSigned 32 (reg p G.ppsInDelay) * 65536 / 1000
      let second := (2 * datumNow p + secondUnits) / (2 * secondUnits)
      (p.time.ppsSeen = false ∨ |dev| ≤ 65536000) →
      ∃ q, exec (.ppsInEdge err dev c) s = .next { s with part := q } ∧ judged q (((n : Int) - second) * secondUnits - e) ∧
        q.time.ppsNext = some ((n + 1) % 2 ^ 48) ∧ q.time.ppsSeen = true ∧ q.time.ppsOff = 0 ∧ q.time.ppsMiss = 0)

/-- REFIN_LOST (R55), PPS_IN_MISSING and a far PPS_IN_EDGE (R31), PTP_MASTER_LOST (R29, R88) and HOLDOVER_LIMIT (R33).
The model's own readings: log entries 2, 49, 50, 95 and 103. -/
def Obligations.LostSourcesLeadToHoldover : Prop :=
  ∀ (s : State) (c : Cyc), awake s →
    let p := atCyc s.part c
    let st := reg p G.timeState
    let steered := st = 1 ∨ st = 2
    let pulse (src : Nat) : Producer := ⟨25 * p.time.tick + c.val, ⟨p.time.tick, 10 * c.val, src, 0⟩⟩
    let entered (q : Part) : Prop :=
      reg q G.timeState = (if steered then 3 else st) ∧
      (steered → q.time.holdErr = reg p G.timeErrorEst ∧ q.time.holdAt = datumNow p ∧
        (recentWords p ≠ [] → q.time.word = ((recentWords p).map (·.2)).sum / (recentWords p).length))
    let held (q : Part) : Prop := entered q ∧ SameUnits p q ∧
      q.fab.producers = p.fab.producers ++ (if steered then [pulse 0xB81] else [])
    let flagged (q : Part) (i : Nat) : Prop := regBit q G.timeFlags i = true ∧ regBit q G.timeSticky i = true ∧
      SameRegs p q [G.timeState, G.timeFlags, G.timeSticky]
    let next := p.time.ppsNext.map fun n => (n + 1) % 2 ^ 48
    (∃ q, exec (.refinLost c) s = .next { s with part := q } ∧ held q ∧ flagged q 1 ∧ q.time.refinOut = true ∧
      (st = 3 → q.time.holdErr = holdEstimate p ∧ q.time.holdAt = datumNow p)) ∧
    (reg p G.timeSource = 2 →
      (p.time.ppsMiss + 1 < 3 → exec (.ppsInMissing c) s =
        .next { s with part := { p with time := { p.time with ppsMiss := p.time.ppsMiss + 1, ppsNext := next } } }) ∧
      (3 ≤ p.time.ppsMiss + 1 → ∃ q, exec (.ppsInMissing c) s = .next { s with part := q } ∧ held q ∧ flagged q 2 ∧ q.time.ppsNext = next ∧
        q.time.ppsSeen = false) ∧
      (∀ err dev : Int, p.time.ppsNext ≠ none → p.time.ppsSeen = true → 65536000 < |dev| →
        (p.time.ppsOff + 1 < 3 → exec (.ppsInEdge err dev c) s =
          .next { s with part := { p with time := { p.time with ppsOff := p.time.ppsOff + 1, ppsNext := next } } }) ∧
        (3 ≤ p.time.ppsOff + 1 → ∃ q, exec (.ppsInEdge err dev c) s = .next { s with part := q } ∧ held q ∧ flagged q 2 ∧ q.time.ppsNext = next ∧
          q.time.ppsSeen = false))) ∧
    (reg p G.timeSource ≠ 2 → exec (.ppsInMissing c) s = .next { s with part := p } ∧
      ∀ err dev, exec (.ppsInEdge err dev c) s = .next { s with part := p }) ∧
    (∀ port : EthPort, let other : EthPort := if port = .a then .b else .a
      (masterOn p port ≠ none → reg p G.timeSource = 1 → heardOn p other = none →
        ∃ q, exec (.ptpMasterLost port c) s = .next { s with part := q } ∧ entered q ∧ reg q G.ptpSelected = 0 ∧ masterOn q port = none ∧
          q.fab.producers = p.fab.producers ++ pulse 0xB82 :: (if steered then [pulse 0xB81] else [])) ∧
      (masterOn p port = none → exec (.ptpMasterLost port c) s = .next { s with part := p })) ∧
    (st ≠ 3 → exec (.holdoverLimit c) s = .next { s with part := p }) ∧
    (st = 3 →
      let e := p.time.holdErr + (if regBit p G.timeFlags 1 then 10000000 else reg p G.holdoverStability) * (datumNow p - p.time.holdAt) / secondUnits
      errorEstimate p = min e 0xFFFFFFFE ∧
      (e ≤ reg p G.holdoverLimit * 1000 → exec (.holdoverLimit c) s = .next { s with part := p }) ∧
      (reg p G.holdoverLimit * 1000 < e →
        ∃ q, exec (.holdoverLimit c) s = .next { s with part := q } ∧ SameUnits p q ∧ SameRegs p q [G.timeState, G.timeErrorEst] ∧
          reg q G.timeState = 0 ∧ reg q G.timeErrorEst = 0xFFFFFFFF ∧ Raised p q c 0xB81))

/-- PTP_ANNOUNCE_RECEIVE (R28, R29, R89) and PTP_MASTER_LOST (R29, R88), PTP_MASTER_ANNOUNCE (R30). The model's own readings: log entries 46 and 47.
-/
def Obligations.PtpPortsFollowTheBestMaster : Prop :=
  ∀ (s : State) (port : EthPort), awake s →
    let p := s.part
    let other : EthPort := if port = .a then .b else .a
    let selected (q : Part) : Nat :=
      match heardOn q .a, heardOn q .b with
      | none, none => 0
      | some _, none => 1
      | none, some _ => 2
      | some x, some y => if rankOf y < rankOf x then 2 else 1
    let chosen (q : Part) : Prop :=
      reg q G.ptpSelected = selected q ∧ reg q G.ptpState = (if selected q = 0 then 4 else 9) ∧
      (reg p G.ptpSelected ≠ 0 → selected q ≠ 0 → selected q ≠ reg p G.ptpSelected → q.time.moved = true) ∧
      masterOn q other = masterOn p other ∧ q.mem = p.mem ∧ q.seqs = p.seqs ∧ q.plans = p.plans
    let ours (h : PtpHead) : Prop := h = ⟨reg p G.ptpDomain, reg p G.ptpTransport, reg p G.ptpProfile, false⟩ ∧ h.domain ≤ 127
    (∀ h r, ptpEnabled p port = true → ours h →
      ∃ q, exec (.ptpAnnounceReceive port h r) s = .next { s with part := q } ∧ masterOn q port = some r ∧ chosen q ∧
        (reg q G.ptpSelected = (if port = .a then 1 else 2) → reg q G.ptpGmIdentity = r.gmIdentity % 2 ^ 64 ∧
          reg q G.ptpStepsRemoved = r.stepsRemoved % 2 ^ 16) ∧
        (∀ i, partnerSlot p 1 (r.gmIdentity % 2 ^ 64) = some i ∨ (partnerSlot p 1 (r.gmIdentity % 2 ^ 64) = none ∧ freeSlot p = some i) →
          reg q (G.pKind i) = 1 ∧ reg q (G.pIdentity i) = r.gmIdentity % 2 ^ 64 ∧ reg q (G.pState i) = 0) ∧
        reg q G.timeState = reg p G.timeState) ∧
    (∀ h r, ptpEnabled p port = true → (h.unsupported = true ∨ 127 < h.domain) →
      exec (.ptpAnnounceReceive port h r) s = .next { s with part := { p with time := { p.time with
        ptpBad := if port = .a then ((p.time.ptpBad.1 + 1) % 2 ^ 32, p.time.ptpBad.2) else (p.time.ptpBad.1, (p.time.ptpBad.2 + 1) % 2 ^ 32) } } }) ∧
    (∀ h r, ptpEnabled p port = false ∨ (h.unsupported = false ∧ h.domain ≤ 127 ∧ ¬ ours h) →
      exec (.ptpAnnounceReceive port h r) s = .next s) ∧
    (∀ c : Cyc, masterOn p port ≠ none →
      ∃ q, exec (.ptpMasterLost port c) s = .next { s with part := q } ∧ masterOn q port = none ∧ chosen q) ∧
    (let sends := reg p G.ptpRole = 1 ∧ ptpEnabled p port = true ∧ p.life.recovery = false ∧
       (reg p G.timeSource = 1 → ∀ r, masterOn p port = some r → ownRank p < rankOf r)
     let class_ := if reg p G.timeState = 2 ∧ reg p G.timeSource = 2 then 6 else if reg p G.timeState = 3 then 7 else 248
     (sends → exec (.ptpMasterAnnounce port) s = .next { s with part := { p with
       sent := .ptpAnnounce port class_ (reg p G.ptpPriority1) (reg p G.ptpPriority2) :: p.sent } }) ∧
     (¬ sends → exec (.ptpMasterAnnounce port) s = .next s))

/-- SLEW_END (R36), DATUM_STEP (R35, R37), DATUM_SET (R53), REFIN_RETURN (R56) and EPOCH_WRITE (R41).
The model's own readings: log entries 2, 48 and 49. -/
def Obligations.DatumStepsAndSlews : Prop :=
  ∀ s : State, awake s →
    let p := s.part
    let flags := [G.timeFlags, G.timeSticky, G.clockState]
    let done : Int := ((datumNow p - p.time.slewAt) * reg p G.slewMax / 10 ^ 9 : Nat)
    let rest : Int := if 0 ≤ p.time.slew then max 0 (p.time.slew - done) else min 0 (p.time.slew + done)
    let align (p : Part) : Nat := if reg p G.clockState = 2 then 2 else 1
    let stepped (p q : Part) (d : Nat) : Prop := q.time = { p.time with datum := d, slew := 0, step := none } ∧ reg q G.clockState = align p ∧
      regBit q G.timeFlags 0 = false ∧ regBit q G.timeFlags 5 = false ∧ regBit q G.timeSticky 8 = true ∧ SameUnits p q ∧ SameRegs p q flags
    let ended (q : Part) : Prop := q.time = { p.time with slew := 0, step := none } ∧ regBit q G.timeFlags 0 = false ∧
      regBit q G.timeFlags 5 = false ∧ SameUnits p q ∧ SameRegs p q [G.timeFlags]
    (rest = 0 → ∃ q, exec .slewEnd s = .next { s with part := q } ∧ ended q) ∧ (rest ≠ 0 → exec .slewEnd s = .next s) ∧
    (p.time.step ≠ none → anyRuns p = false →
      (rest ≠ 0 → ∃ q, exec .datumStep s = .next { s with part := q } ∧ stepped p q ((datumNow p : Int) + rest).toNat) ∧
      (rest = 0 → ∃ q, exec .datumStep s = .next { s with part := q } ∧ ended q)) ∧
    (p.time.step = none ∨ anyRuns p = true → exec .datumStep s = .next s) ∧
    (∀ path v, Takes p path G.datumSet v → reg p G.timeSource = 0 →
      ∃ q, exec (.datumSet path v) s = .next { s with part := tell q path 0 } ∧ stepped (cleared p path G.datumSet) q (timeValue v)) ∧
    (∀ path v, Takes p path G.epoch v →
      let p := cleared p path G.epoch
      ∃ q, exec (.epochWrite path v) s = .next { s with part := tell q path 0 } ∧ reg q G.epoch = v ∧
        reg q G.clockState = align p ∧ q.time = { p.time with datum := datumNow p } ∧
        SameUnits p q ∧ SameRegs p q [G.epoch, G.clockState]) ∧
    (∀ o : Int, regBit p G.timeFlags 1 = true →
      let t := { p.time with holdErr := holdEstimate p, holdAt := datumNow p }
      let small := |o| ≤ ((reg p G.stepThreshold * 65536 : Nat) : Int)
      ∃ q, exec (.refinReturn o) s = .next { s with part := q } ∧ regBit q G.timeFlags 1 = false ∧ SameUnits p q ∧ SameRegs p q flags ∧
        (o = 0 → q.time = t) ∧
        (o ≠ 0 → small → q.time = { t with slew := o, slewAt := datumNow p } ∧ regBit q G.timeFlags 5 = true) ∧
        (¬ small →
          (anyRuns p = true → q.time = { t with slew := o, slewAt := datumNow p, step := some o } ∧ regBit q G.timeFlags 5 = true ∧
            regBit q G.timeFlags 0 = true) ∧
          (anyRuns p = false → q.time = { t with datum := ((datumNow p : Int) + o).toNat, slew := 0, step := none } ∧
            reg q G.clockState = align p))) ∧
    (∀ o : Int, regBit p G.timeFlags 1 = false → exec (.refinReturn o) s = .next s)

/-- SAMPLE_CLOCK_LOST and SAMPLE_CLOCK_RETURN (R22), FS_KHZ_WRITE and CLOCK_RELOCKED (R39), GRATICULE_ALIGNED (R44, R111). The model's own readings:
log entries 2, 28, 31, 48, 49, 69 and 94. -/
def Obligations.SampleClockComesAndGoes : Prop :=
  ∀ s : State, awake s →
    let p := s.part
    (∀ c : Cyc, ∃ q, exec (.sampleClockLost c) s = .next { s with part := q } ∧ reg q G.clockState = 2 ∧ q.time.locked = false ∧
      (∀ ch, (seqOf q ch).act = if (seqOf p ch).act = .off then .off else .parked) ∧ (∀ g : Grp, reg q (G.lgState g) = 0) ∧
      q.adm.resv = [] ∧ q.adm.plans = [] ∧ q.plans = Vector.replicate 256 [] ∧ (∀ ch, (outOf q ch).dac = false) ∧
      q.time.tick = p.time.tick ∧ q.time.datum = datumNow (atCyc p c) ∧ q.mem = p.mem) ∧
    (reg p G.clockState = 2 → ∃ q, exec .sampleClockReturn s = .next { s with part := q } ∧ reg q G.clockState = 1 ∧ q.time.locked = true ∧
      (∀ ch, (q.watch.get ch).window = []) ∧ q.seqs = p.seqs ∧ q.mem = p.mem ∧ q.grps = p.grps ∧ q.time.tick = p.time.tick) ∧
    (reg p G.clockState ≠ 2 → exec .sampleClockReturn s = .next s) ∧
    (∀ path v, Takes p path G.fsKhz v →
      ∃ q, exec (.fsKhzWrite path v) s = .next { s with part := tell q path 0 } ∧ reg q G.fsKhz = v ∧ reg q G.ticksPerSecond = 4 * v ∧
        reg q G.clockState = (if reg p G.clockState = 2 then 2 else 1) ∧ q.time.locked = false ∧
        (∀ ch, (outOf q ch).relock = true ∧ (outOf q ch).dac = false) ∧ q.mem = p.mem ∧ q.seqs = p.seqs ∧ q.grps = p.grps) ∧
    exec .clockRelocked s = .next { s with part := { p with time := { p.time with
      locked := true, refinOut := p.time.refinOut && regBit p G.timeFlags 1 } } } ∧
    (∀ second : Nat,
      let soon := p.time.datum ≤ second * secondUnits ∧ second * secondUnits * 100 ≤ p.time.datum * 100 + 101 * secondUnits
      let ready := reg p G.clockState = 1 ∧ p.time.locked = true ∧ soon
      (¬ ready → exec (.graticuleAligned second) s = .next s) ∧
      (ready →
        let k := ((((second : Int) - (reg p G.epoch >>> 48 : Nat)) * (reg p G.ticksPerSecond : Int)) % ((2 ^ 64 : Nat) : Int)).toNat
        ∃ q, exec (.graticuleAligned second) s = .next { s with part := q } ∧ reg q G.clockState = 0 ∧ q.time.tick = k ∧ q.time.cyc = 0 ∧
          q.time.datum = second * secondUnits ∧ q.time.opened = 0 ∧ q.time.closed = 0 ∧ q.plans = Vector.replicate 256 [] ∧
          q.fab.delayed = [] ∧ q.fab.arrivals = [] ∧ q.fab.captured = [] ∧
          (∀ r ∈ p.fab.delayed, (⟨25 * k, r⟩ : Producer) ∈ q.fab.producers) ∧ q.fab.fires = p.fab.fires.filter (fun e => decide (k ≤ e.1)) ∧
          (∀ ch, (seqOf q ch).retr = [] ∧ (seqOf q ch).act = (seqOf p ch).act) ∧ q.mem = p.mem ∧ q.adm = p.adm))

/-- PPS_OUT_EDGE (R43, R47, R50), SYNC_IN_EDGE and SYNC_IN_MISSING (R47, R48), TICK_DRIFT_MEASURE (R40).
The model's own readings: log entries 2 and 48. -/
def Obligations.SecondsSyncAndDrift : Prop :=
  ∀ s : State, awake s →
    let p := s.part
    let k := p.time.tick
    let mode := reg p G.ppsOutMode
    let st := reg p G.timeState
    let runs := reg p G.clockState ≠ 2
    let edge (second off : Nat) : Prop := ∃ q, exec .ppsOutEdge s = .next { s with part := q } ∧
      q.fab.producers = p.fab.producers ++ (if runs then [⟨25 * k + off / 10, ⟨k, off, 0xB80, 0⟩⟩] else []) ∧ q.gz = p.gz ∧ SameUnits p q ∧
      q.sent = (if reg p G.syncMode = 1 ∧ runs then [Out.syncOut 8 0] else []) ++
        (if mode = 2 ∨ (mode = 1 ∧ (st = 2 ∨ st = 3)) then [Out.ppsOut second (reg p G.ppsOutWidth)] else []) ++ p.sent
    let whole := signedTick k % (max 1 (reg p G.ticksPerSecond) : Nat) = 0
    let rest := (secondUnits - p.time.datum % secondUnits) % secondUnits
    (reg p G.clockState = 0 → whole → edge (datumOf p k 0 / (secondUnits : Nat)).toNat 0) ∧
    (reg p G.clockState ≠ 0 → rest < tickUnits p →
      edge ((p.time.datum + rest) / secondUnits) (min 249 (250 * rest / max 1 (tickUnits p)))) ∧
    ((reg p G.clockState = 0 ∧ ¬ whole) ∨ (reg p G.clockState ≠ 0 ∧ tickUnits p ≤ rest) → exec .ppsOutEdge s = .next s) ∧
    (∀ phase : Int, 2 ≤ reg p G.syncMode →
      let v := phase - toSigned 32 (reg p G.syncInDelay)
      let w : Int := 500000000 / ((max 1 (reg p G.fsKhz) : Nat) : Int)
      ∃ q, exec (.syncInEdge phase) s = .next { s with part := q } ∧ SameUnits p q ∧ SameRegs p q [G.timeFlags, G.timeSticky] ∧
        q.sent = (if reg p G.syncMode = 3 then [Out.syncOut 8 (phase + 3200)] else []) ++ p.sent ∧
        (|p.time.syncTrim + v| ≤ w → q.time = { p.time with syncTrim := p.time.syncTrim + clampInt (-10) 10 v, syncMiss := 0 } ∧
          regBit q G.timeFlags 4 = false) ∧
        (w < |p.time.syncTrim + v| → q.time = { p.time with syncTrim := 0, syncMiss := 0 } ∧ regBit q G.timeFlags 4 = true ∧
          regBit q G.timeSticky 4 = true)) ∧
    (2 ≤ reg p G.syncMode →
      ∃ q, exec .syncInMissing s = .next { s with part := q } ∧ SameUnits p q ∧
        (3 ≤ p.time.syncMiss + 1 → q.time = { p.time with syncMiss := p.time.syncMiss + 1, syncTrim := 0 } ∧ regBit q G.timeFlags 4 = true ∧
          SameRegs p q [G.timeFlags, G.timeSticky]) ∧
        (p.time.syncMiss + 1 < 3 → q.time = { p.time with syncMiss := p.time.syncMiss + 1 } ∧ q.gz = p.gz)) ∧
    (reg p G.syncMode < 2 → exec .syncInMissing s = .next s ∧ ∀ phase, exec (.syncInEdge phase) s = .next s) ∧
    (∀ drift ppb : Int, (reg p G.sclkSelect = 1 →
        ∃ q, exec (.tickDriftMeasure drift ppb) s = .next { s with part := q } ∧ reg q G.tickDrift = ofSigned 32 drift ∧
          regBit q G.timeFlags 3 = decide (400 < |drift| ∨ 2000 < |ppb|) ∧ SameUnits p q ∧ q.time = p.time ∧
          SameRegs p q [G.tickDrift, G.timeFlags, G.timeSticky]) ∧
      (reg p G.sclkSelect ≠ 1 → exec (.tickDriftMeasure drift ppb) s = .next s))

/-- ALARM_ENABLE and ALARM (R51, R52), PRESENCE_ASSERT and PRESENCE_WINDOW_CLOSE (R65), TAMPER (R369). The model's own readings: log entries 2, 50,
98 and 99. -/
def Obligations.AlarmsPresenceAndSeal : Prop :=
  ∀ s : State, awake s →
    let p := s.part
    (∀ path (a : AlarmNo) v, Takes p path (gkey (0x1230 + a.val) 4) v →
      let k := gkey (0x1230 + a.val) 4
      let p := cleared p path k
      ∃ q, exec (.alarmEnable path a v) s = .next { s with part := tell q path 0 } ∧
        q = { p with gz := { p.gz with bound := kput k v p.gz.bound } }) ∧
    (∀ (a : AlarmNo) (n : Int), kfind a p.time.alarms = some n →
      let here := n / 250 = signedTick p.time.tick ∧ reg p G.clockState = 0
      let per := reg p (G.alarmPeriod a)
      (here → ∃ q, exec (.alarm a) s = .next { s with part := q } ∧
        q.fab.producers = p.fab.producers ++ [⟨25 * p.time.tick + (n % 250).toNat / 10, ⟨p.time.tick, (n % 250).toNat, 0xB30 + a.val, 0⟩⟩] ∧
        reg q (G.alarmCount a) = (reg p (G.alarmCount a) + 1) % 2 ^ regWidth (G.alarmCount a) ∧ regBit q (G.alarmStatus a) 1 = true ∧
        kfind a q.time.alarms = (if per = 0 then none else some (n + per)) ∧ SameUnits p q ∧
        SameRegs p q [G.alarmCount a, G.alarmStatus a]) ∧
      (¬ here → exec (.alarm a) s = .next s)) ∧
    (∀ held released, (20 ≤ held ∧ 1000 ≤ released →
        ∃ q, exec (.presenceAssert held released) s = .next { s with part := q } ∧ presenceOpen q = true ∧
          q.time = { p.time with presentAt := p.time.tick + 1 } ∧ SameUnits p q ∧ SameRegs p q [G.presenceOpen]) ∧
      (held < 20 ∨ released < 1000 → exec (.presenceAssert held released) s = .next s)) ∧
    (∃ q, exec .presenceWindowClose s = .next { s with part := q } ∧ presenceOpen q = false ∧ q.time = { p.time with presentAt := 0 } ∧
      SameUnits p q ∧ SameRegs p q [G.presenceOpen]) ∧
    (∀ c : Cyc, ∃ q, exec (.tamper c) s = .next { s with part := q } ∧ reg q G.sealIntact = 0 ∧ q.life = { p.life with sealOk := false } ∧
      q.mem = p.mem ∧ q.seqs = p.seqs ∧ SameRegs p q [G.sealIntact, G.tamperLatched, G.tamperCount, G.tamperLast, G.presenceOpen] ∧
      (reg p G.lcState = 0 → q.fab = p.fab ∧ SameRegs p q [G.sealIntact]) ∧
      (reg p G.lcState ≠ 0 → reg q G.tamperLatched = 1 ∧ reg q G.tamperCount = (reg p G.tamperCount + 1) % 2 ^ regWidth G.tamperCount ∧
        presenceOpen q = false ∧ Raised p q c 0xB8A))

/-- SEG_DESC_WRITE (R115), EDGE_STORE_WRITE (R134) and UP_DATA (R131, R133). The model's own readings: log entry 34. -/
def Obligations.SegmentsAndUploadsAreWritten : Prop :=
  ∀ (s : State) (path : Path), awake s →
    (∀ d v, d < 16383 → Takes s.part path (gkey (0x4000 + d) 1) v →
      let p := cleared s.part path (gkey (0x4000 + d) 1)
      descOk p v = true → segInUse p d = false → lockedDesc p d = false →
      ∃ q, exec (.segDescWrite path d v) s = .next { s with part := tell q path 0 } ∧
        q = { p with mem := { p.mem with newDesc := kput d v p.mem.newDesc } }) ∧
    (∀ data : List Byte, TakesBulk s.part path G.edgeStore → data.length ≤ 262144 →
      let p := s.part
      let words := wordsLE data
      (∀ i v, words[i]? = some v → v ≠ kget (fun _ => 0) (takeSegments p).mem.edges i →
        ∀ r, r ∈ edgesInUse p ∨ r ∈ lockedEdges p → ¬ (r.1 ≤ i ∧ i < r.2)) →
      ∃ q, exec (.edgeStoreWrite path data) s = .next { s with part := tell q path 0 } ∧
        (∀ i, kfind i q.mem.newEdge = (words[i]?).orElse fun _ => kfind i p.mem.newEdge) ∧
        q = { p with mem := { p.mem with newEdge := q.mem.newEdge } }) ∧
    (∀ data : List Byte, TakesBulk s.part path G.upData →
      let p := s.part
      let a := reg p G.upAddr
      data.length = reg p G.upChunk → a + data.length ≤ reg p G.apDramSize → (blockedRanges p).any (overlaps (a, a + data.length)) = false →
      reg p G.memState ≠ 3 → p.mem.bad = [] →
      ∃ q, exec (.upData path data) s = .next { s with part := tell q path 0 } ∧
        (∀ x, dramByte q.mem.dram x = if a ≤ x ∧ x < a + data.length then data.getD (x - a) 0 else dramByte p.mem.dram x) ∧
        reg q G.upAddr = a + data.length ∧ reg q G.upCrc = crc32c (reg p G.upCrc) data ∧ SameRegs p q [G.upAddr, G.upCrc] ∧
        q.seqs = p.seqs ∧ q.plans = p.plans ∧ q.adm = p.adm)

/-- BAR4_WRITE and BAR4_READ (R130, R131), LD_GO and LOAD_DMA_DONE (R132). The model's own readings: log entries 2, 34 and 44. -/
def Obligations.HostAccessesReachTheMemory : Prop :=
  ∀ s : State, awake s →
    let p := s.part
    let free (l : List (Nat × Nat)) (x : Nat) : Prop := ∀ r ∈ l, ¬ (r.1 ≤ x ∧ x < r.2)
    (barDead p = false → p.life.test = 0 → reg p G.memState ≠ 3 → p.mem.bad = [] →
      (∀ off (data : List (Option Byte)),
        let a := reg p G.apBase + off
        (∀ i b, data[i]? = some (some b) → a + i < reg p G.apDramSize ∧ free (blockedRanges p) (a + i)) →
        ∃ q, exec (.bar4Write off data) s = .next { s with part := q } ∧
          (∀ x, dramByte q.mem.dram x = (if a ≤ x then (data.getD (x - a) none).getD (dramByte p.mem.dram x) else dramByte p.mem.dram x)) ∧
          q.gz = p.gz ∧ q.seqs = p.seqs ∧ q.sent = p.sent ∧ q.adm = p.adm) ∧
      (∀ off len, reg p G.apBase + off + len ≤ reg p G.apDramSize →
        exec (.bar4Read off len) s = .next { s with part := say p (.read (.bytes (dramRead p.mem.dram (reg p G.apBase + off) len))) })) ∧
    (∀ path, Takes p path G.ldGo 1 → reg p G.ldState ≠ 1 → p.mem.ldGo = false → reg p G.ldTarget ≤ 4 →
      reg p G.ldLength ≠ 0 → (if reg p G.ldTarget < 2 then reg p G.ldLength % 64 = 0
        else reg p G.ldLength % 32 = 0 ∧ reg p G.ldInsetAddr * 2 + reg p G.ldLength ≤ 131072) →
      ∃ q, exec (.ldGo path 1) s = .next { s with part := tell q path 0 } ∧
        q = { cleared p path G.ldGo with mem := { p.mem with ldGo := true } }) ∧
    (p.mem.load = none → ∀ source ok, exec (.loadDmaDone source ok) s = .next s) ∧
    (∀ (b : LoadBlock) (source : List Byte) (ok : Bool), p.mem.load = some b →
      ∃ q, exec (.loadDmaDone source ok) s = .next { s with part := q } ∧ q.mem.load = none ∧
        reg q G.ldState = (if ok = false then 4 else if reg q G.ldBlocked ≠ 0 then 5 else 2) ∧
        ((b.target = 0 ∨ b.target = 2) → reg q G.ldDoneBytes = (source.take b.length).length ∧
          reg q G.ldCrc = crc32c 0 (source.take b.length)) ∧
        q.seqs = p.seqs ∧ q.plans = p.plans ∧ q.adm = p.adm ∧
        (b.target = 0 → source.length = b.length → reg p G.memState ≠ 3 → p.mem.bad = [] → reg p G.ldBlocked = 0 →
          (∀ i, i < source.length → b.dram + i < reg p G.apDramSize ∧ free (blockedRanges p) (b.dram + i)) →
          (∀ x, dramByte q.mem.dram x = if b.dram ≤ x ∧ x < b.dram + source.length then source.getD (x - b.dram) 0
            else dramByte p.mem.dram x) ∧ reg q G.ldBlocked = 0))

/-- TONE_GATE_MUTE and TONE_GATE_UNMUTE (R198), PACED_PUSH, PACED_FLUSH and PACED_APPLY (R200 to R202). The model's own readings: log entry 66. -/
def Obligations.TonesAreGatedAndPaced : Prop :=
  ∀ (s : State) (c : Chan), awake s →
    let p := s.part
    let m := planTick p
    let runs := StageOpen p ∧ runsIn p (grp (planned p (G.loadGroup c))) m = true
    let gated (i rank : Nat) (e : Eff) (t : Instr) : Prop := ∀ l, latchAt p (chLatch c i) = some l → l.pulse.tick + 3 ≤ m →
      let j := 250 * (l.pulse.tick + 3) + (if planned p (G.gateAnchor c) = 1 then l.pulse.off else 0) + planned p (G.gateDelay c)
      j < 250 * (m + 1) →
      ∃ q, exec t s = .next { s with part := q } ∧ (∀ k, latchAt q k = if k = chLatch c i then none else latchAt p k) ∧
        planOf q c m = { planOf p c m with effs := insertEff ⟨max j (250 * m), rank, e⟩ (planOf p c m).effs } ∧
        (∀ k, k ≠ m → planOf q c k = planOf p c k) ∧ (∀ d, d ≠ c → ∀ k, planOf q d k = planOf p d k) ∧
        q = { p with fab := { p.fab with latches := q.fab.latches }, plans := q.plans }
    (runs →
      gated 16 7 (.mute (planned p (G.gateMask c) % 16)) (.toneGateMute c) ∧ gated 17 6 (.unmute (planned p (G.gateMask c) % 16)) (.toneGateUnmute c)) ∧
    (∀ path e, Takes p path (G.pacedPush c) e → (pacedEff e).isSome → regBit p (G.pacedKinds c) (bits e 63 60) = true →
      bits e 59 0 &&& [0xFFFF, 0x300FFFFFFFFFFFF, 0x30000000000FFFF, 0x3000000FFFFFFFF, 0xFFFFFFFF, 0xFFFFFFFF].getD (bits e 63 60) 0 = bits e 59 0 →
      (pacedQueue p c).length < 1024 →
      ∃ q, exec (.pacedPush path c e) s = .next { s with part := tell q path 0 } ∧ pacedQueue q c = pacedQueue p c ++ [e] ∧
        reg q (G.pacedFill c) = (pacedQueue p c).length + 1 ∧ (∀ d, d ≠ c.val → pacedQueue q d = pacedQueue p d) ∧
        SameRegs (cleared p path (G.pacedPush c)) q [G.pacedFill c] ∧ q.seqs = p.seqs ∧ q.plans = p.plans ∧ q.mem = p.mem) ∧
    (∀ path, Takes p path (G.pacedFlush c) 1 →
      ∃ q, exec (.pacedFlush path c 1) s = .next { s with part := tell q path 0 } ∧ pacedQueue q c = [] ∧ reg q (G.pacedFill c) = 0 ∧
        (∀ d, d ≠ c.val → pacedQueue q d = pacedQueue p d) ∧ SameRegs (cleared p path (G.pacedFlush c)) q [G.pacedFill c] ∧
        q.seqs = p.seqs ∧ q.plans = p.plans ∧ q.mem = p.mem) ∧
    (∀ l, runs → (seqOf p c).paced ≤ 250 * m → planned p (G.pacedMode c) = 2 →
      latchAt p (chLatch c 19) = some l → l.pulse.tick + 3 ≤ m →
      let j := 250 * (l.pulse.tick + 3) + (if planned p (G.pacedAnchor c) = 1 then l.pulse.off else 0) + planned p (G.pacedDelay c)
      j < 250 * (m + 1) →
      ∃ q, exec (.pacedApply c) s = .next { s with part := q } ∧ latchAt q (chLatch c 19) = none ∧
        (∀ e r f, pacedQueue p c = e :: r → pacedEff e = some f → pacedQueue q c = r ∧
          (planOf q c m).effs = insertEff ⟨max j (250 * m), 5, f⟩ (planOf p c m).effs ∧ RegOp.add (G.pacedApplied c) 1 ∈ (planOf q c m).ops ∧
          RegOp.set (G.pacedFill c) r.length ∈ (planOf q c m).ops) ∧
        (pacedQueue p c = [] → q.paced = p.paced ∧ (planOf q c m).effs = (planOf p c m).effs ∧
          (planOf q c m).ops = (planOf p c m).ops ++ [.add (G.pacedStarved c) 1]) ∧
        q.gz = p.gz ∧ q.mem = p.mem ∧ (∀ d, d ≠ c → seqOf q d = seqOf p d ∧ ∀ k, planOf q d k = planOf p d k)) ∧
    (∀ n e r f, runs → (seqOf p c).paced ≤ 250 * m → planned p (G.pacedMode c) = 1 →
      gridInstants (250 * (if planned p (G.pacedStart c) = 0 then (seqOf p c).m0 else planned p (G.pacedStart c)))
        (max 1 (planned p (G.pacedInterval c) * (if planned p (G.pacedUnit c) = 0 then 250 else 10))) (250 * m) (250 * (m + 1)) = [n] →
      pacedQueue p c = e :: r → pacedEff e = some f →
      ∃ q, exec (.pacedApply c) s = .next { s with part := q } ∧ pacedQueue q c = r ∧ (planOf q c m).effs = insertEff ⟨n, 5, f⟩ (planOf p c m).effs ∧
        RegOp.add (G.pacedApplied c) 1 ∈ (planOf q c m).ops ∧ RegOp.set (G.pacedFill c) r.length ∈ (planOf q c m).ops ∧
        q.fab = p.fab ∧ q.gz = p.gz ∧ q.mem = p.mem)

/-- ARM, START, STOP, RESTART, STROBE, DISARM (R205, R206), LG_STROBE_AT (R208) and PLAN_GO (R162), as taken (R306).
The model's own readings: log entry 23. -/
def Obligations.GroupCommandsAreTaken : Prop :=
  ∀ (s : State) (path : Path) (g : Grp), awake s →
    let p := s.part
    let st := reg p (G.lgState g)
    let at_ := reg p (G.lgAt g)
    let open_ (t : Nat) : Prop := t = 0 ∨ decideBegun p t = false
    let taken (v : Nat) : Prop := Takes p path (G.lgCmd g) v
    let frame (q : Part) : Prop := q.seqs = p.seqs ∧ q.mem = p.mem ∧ q.plans = p.plans ∧ q.time = p.time ∧ q.dps = p.dps
    let waits (i : Instr) (cmd group c t : Nat) (l : List Nat) : Prop :=
      ∃ q j, exec i s = .next { s with part := q } ∧ q.adm = { p.adm with jobs := p.adm.jobs ++ [j] } ∧ j.cmd = cmd ∧ j.group = group ∧
        j.chan = c ∧ j.path = path ∧ j.at_ = t ∧ j.tick = p.time.tick ∧ reg q G.admPending = p.adm.jobs.length + 1 ∧ q.grps = p.grps ∧
        (∀ k, k / 256 ≠ 0x1018 → k ≠ G.admPending → k ∉ l → reg q k = reg p k) ∧ frame q
    (p.adm.jobs.length < 16 →
      (taken 1 → st ≤ 1 → waits (.arm path g) 1 g 0 0 []) ∧
      (taken 2 → st = 0 → open_ at_ → waits (.start path g) 2 g 0 at_ []) ∧
      (taken 4 → st = 2 → open_ at_ → waits (.restart path g) 4 g 0 at_ []) ∧
      (∀ (c : Chan) (h : Nat), groupOf p c = h → Takes p path (G.planGo c) 1 → (reg p (G.lgState h) = 2 ∨ reg p (G.lgState h) = 4) →
        open_ (reg p (G.planAt c)) →
        waits (.planGo path c 1) 8 h c (reg p (G.planAt c)) [G.planState c] ∧
          ∃ q, exec (.planGo path c 1) s = .next { s with part := q } ∧ reg q (G.planState c) = 1)) ∧
    (taken 2 → st = 1 → open_ at_ → clockOk p = true →
      let ready := max (spanReady p g) (reg p (G.admGEntryReady g))
      (at_ = 0 ∨ ready ≤ at_) →
      ∃ q, exec (.start path g) s = .next { s with part := tell q path 0 } ∧ reg q (G.lgState g) = 3 ∧
        (grpOf q g).startAt = some (if at_ = 0 then max (p.time.tick + 3) ready else at_) ∧
        (∀ h, h ≠ g → grpOf q h = grpOf p h ∧ reg q (G.lgState h) = reg p (G.lgState h)) ∧ q.adm = p.adm ∧ frame q) ∧
    (taken 3 → st = 2 → open_ at_ →
      ∃ q, exec (.stop path g) s = .next { s with part := tell q path 0 } ∧ reg q (G.lgState g) = 4 ∧
        grpOf q g = { grpOf p g with stopAt := some (if at_ = 0 then p.time.tick + 3 else at_), stopGen := none } ∧
        (∀ h, h ≠ g → grpOf q h = grpOf p h ∧ reg q (G.lgState h) = reg p (G.lgState h)) ∧ q.adm = p.adm ∧ frame q) ∧
    (taken 5 → ∃ q, exec (.strobe path g) s = .next { s with part := tell q path 0 } ∧ reg q (G.lgStrobeAt g) = p.time.tick + 3 ∧
      SameRegs (cleared p path (G.lgCmd g)) q [G.lgStrobeAt g] ∧ q.grps = p.grps ∧ q.adm = p.adm ∧ frame q) ∧
    (∀ t, Takes p path (G.lgStrobeAt g) t → open_ t →
      ∃ q, exec (.lgStrobeAt path g t) s = .next { s with part := tell q path 0 } ∧ reg q (G.lgStrobeAt g) = t ∧
        SameRegs (cleared p path (G.lgStrobeAt g)) q [G.lgStrobeAt g] ∧ q.grps = p.grps ∧ q.adm = p.adm ∧ frame q) ∧
    (taken 6 → st = 1 → ∃ q, exec (.disarm path g) s = .next { s with part := tell q path 0 } ∧ reg q (G.lgState g) = 0 ∧
      q.adm = { p.adm with resv := p.adm.resv.filter fun r => decide (r.group ≠ g.val) } ∧ q.grps = p.grps ∧
      (∀ h, h ≠ g → reg q (G.lgState h) = reg p (G.lgState h)) ∧ frame q)

/-- GROUP_START and GROUP_STOP (R141, R205), GROUP_RESTART (R206) and LOAD_STROBE (R207 to R209). The model's own readings: log entries 2, 27 and
81. -/
def Obligations.GroupsMoveAtTheirTick : Prop :=
  ∀ (s : State) (g : Grp), awake s →
    let p := s.part
    let x := grpOf p g
    let k := p.time.tick
    let frame (q : Part) : Prop := q.seqs = p.seqs ∧ q.mem = p.mem ∧ q.plans = p.plans ∧ q.time = p.time
    let pulse (m src gen : Nat) : Producer := ⟨25 * m, ⟨m, 0, src, gen⟩⟩
    let come (t : Option Nat) (m : Nat) : Prop := t = some m ∧ m ≤ k
    let idle (t : Option Nat) (i : Instr) : Prop := (∀ m, ¬ come t m) → exec i s = .next s
    (∀ m, come x.startAt m →
      ∃ q, exec (.groupStart g) s = .next { s with part := q } ∧ reg q (G.lgState g) = 2 ∧ reg q (G.lgStartTick g) = m ∧ Committed p q g m ∧
        pulse m (0xB00 + g) 0 ∈ q.fab.producers ∧ (grpOf q g).startAt = none ∧ (∀ h, h ≠ g → grpOf q h = grpOf p h) ∧ q.adm = p.adm ∧ frame q) ∧
    (∀ m, come x.stopAt m →
      ∃ q, exec (.groupStop g) s = .next { s with part := q } ∧ reg q (G.lgState g) = 1 ∧
        grpOf q g = { x with stopAt := none, stopGen := none, strobes := x.strobes.filter fun t => decide (t < m) } ∧
        (∀ h, h ≠ g → grpOf q h = grpOf p h) ∧
        q.fab = { p.fab with producers := p.fab.producers ++ [pulse m (0xB10 + g) 0] } ∧
        q.adm.plans = p.adm.plans.filter (fun a => !(decide (groupOf p a.chan = g) && decide (m ≤ a.tick))) ∧ q.adm.jobs = p.adm.jobs ∧ frame q) ∧
    (∀ m, come x.restartAt m →
      ∃ q, exec (.groupRestart g) s = .next { s with part := q } ∧ reg q (G.lgState g) = 2 ∧ reg q (G.lgStartTick g) = m ∧ Committed p q g m ∧
        pulse m (0xB00 + g) 0 ∈ q.fab.producers ∧ (grpOf q g).restartAt = none ∧ (∀ h, h ≠ g → grpOf q h = grpOf p h) ∧ frame q) ∧
    idle x.startAt (.groupStart g) ∧ idle x.stopAt (.groupStop g) ∧ idle x.restartAt (.groupRestart g) ∧
    (let due := x.strobes.filter fun t => decide (t ≤ k) && decide (∀ m, x.stopAt = some m → t < m)
     let left := if reg p (G.lgStrobeAt g) ≤ k then 0 else reg p (G.lgStrobeAt g)
     (∀ y ∈ x.commits, (keyChan y.2.1).isSome) → ∃ q, exec (.loadStrobe g) s = .next { s with part := q } ∧ (∀ m ∈ due, Committed p q g m) ∧
       reg q (G.lgStrobes g) = (if due = [] then reg p (G.lgStrobes g) else (reg p (G.lgStrobes g) + due.length) % 2 ^ regWidth (G.lgStrobes g)) ∧
       reg q (G.lgStrobeAt g) = left ∧ q.fab = { p.fab with producers := p.fab.producers ++ due.map fun m => pulse m (0xB20 + g) 0 } ∧
       (grpOf q g).strobes = x.strobes.filter (fun t => decide (k < t)) ∧ (∀ h, h ≠ g → grpOf q h = grpOf p h) ∧ q.adm = p.adm ∧ frame q ∧
       (due = [] → SameRegs p q [G.lgStrobeAt g] ∧ (grpOf q g).commits = x.commits))

/-- OUTPUT_PARK (R217), SPAN_RAMP_START, SPAN_RAMP_END, SPAN_READY (R220, R221), CHANNEL_FAULT (R225), FAULT_CLEAR (R226), VDDO_LOW (R218). The
model's own readings: log entries 2, 53, 54, 55 and 104. -/
def Obligations.OutputsParkSpanAndFault : Prop :=
  ∀ (s : State) (c : Chan), awake s →
    let p := s.part
    let o := outOf p c
    let k := p.time.tick
    let others (q : Part) : Prop := (∀ d, d ≠ c → outOf q d = outOf p d ∧ seqOf q d = seqOf p d ∧ dpOf q d = dpOf p d) ∧ q.mem = p.mem
    (∀ l, latchAt p (chLatch c 18) = some l → l.pulse.tick + 3 ≤ k →
      ∃ q, exec (.outputPark c) s = .next { s with part := q } ∧ (outOf q c).task = true ∧ (outOf q c).dac = false ∧
        (∀ i, latchAt q i = if i = chLatch c 18 then none else latchAt p i) ∧ q.seqs = p.seqs ∧ q.plans = p.plans ∧ others q) ∧
    ((∀ l, latchAt p (chLatch c 18) = some l → k < l.pulse.tick + 3) → exec (.outputPark c) s = .next s) ∧
    (∀ a, o.spanAt = some a →
      (o.spanStage = 1 → a + 2 ≤ k → exec (.spanRampStart c) s = .next { s with part := setOut p c { o with spanStage := 2 } }) ∧
      (o.spanStage ≠ 1 ∨ k < a + 2 → exec (.spanRampStart c) s = .next s) ∧
      (o.spanStage = 2 → a + rampTicks p + 2 ≤ k → exec (.spanRampEnd c) s = .next { s with part := setOut p c { o with spanStage := 3 } }) ∧
      (o.spanStage ≠ 2 ∨ k < a + rampTicks p + 2 → exec (.spanRampEnd c) s = .next s) ∧
      (a + rampTicks p + 3 ≤ k → ∃ q, exec (.spanReady c) s = .next { s with part := q } ∧ q.seqs = p.seqs ∧ others q ∧
        (o.spanNext = none → outOf q c = { o with spanAt := none, spanStage := 0, spanFrom := o.spanTo } ∧ SameRegs p q [G.outState c]) ∧
        (∀ next, o.spanNext = some next → reg q (G.outSpan c) = next ∧ SameRegs p q [G.outSpan c] ∧ outOf q c = { o with
          spanAt := some (a + rampTicks p + 3), spanStage := 1, spanFrom := o.spanTo, spanTo := next, spanNext := none })) ∧
      (k < a + rampTicks p + 3 → exec (.spanReady c) s = .next s)) ∧
    (o.spanAt = none → exec (.spanRampStart c) s = .next s ∧ exec (.spanRampEnd c) s = .next s ∧ exec (.spanReady c) s = .next s) ∧
    (∀ (cause : Fin 5) (cyc : Cyc), ∃ q, exec (.channelFault c cause cyc) s = .next { s with part := q } ∧
      reg q (G.faultCause c) = reg p (G.faultCause c) ||| 2 ^ cause.val ∧
      reg q (G.faultCount c) = (reg p (G.faultCount c) + 1) % 2 ^ regWidth (G.faultCount c) ∧ (seqOf q c).act = .parked ∧
      (⟨25 * k + cyc.val, ⟨k, 10 * cyc.val, 0x600 + c.val, 0⟩⟩ : Producer) ∈ q.fab.producers ∧
      outOf q c = { o with faultAt := some (o.faultAt.getD (k + 1)) } ∧
      (dpOf q c).next = [] ∧ (∃ cut, planOf q c (k + 1) = ⟨k + 1, [], [], [], [], [], cut ++ [.set (G.seqState c) 6], false⟩) ∧
      (∀ m, k + 1 < m → planOf q c m = ⟨m, [], [], [], [], [], [], false⟩) ∧ others q) ∧
    (∀ path, Takes p path (G.faultClear c) 1 → ∃ q, exec (.faultClear path c 1) s = .next { s with part := tell q path 0 } ∧
      reg q (G.faultCause c) = 0 ∧ OnlyRegs (cleared p path (G.faultClear c)) q [G.faultCause c]) ∧
    (∃ q, exec .vddoLow s = .next { s with part := q } ∧ vddoLow q = true ∧ (∀ d, (outOf q d).closed = false ∧ (outOf q d).shut = ((outOf p d).shut || (outOf p d).closed)) ∧
      q.seqs = p.seqs ∧ q.mem = p.mem ∧ q.plans = p.plans)

/-- TRIM_SWAP (R228), TRIM_FREEZE_REQ and TRIM_FREEZE_END (R229), TRIM_FORCED (R230). The model's own readings: log entries 2 and 82. -/
def Obligations.TrimLoopsSwapAndFreeze : Prop :=
  ∀ s : State, awake s →
    let p := s.part
    (p.time.tick % 80000 = 0 → ∃ q, exec .trimSwap s = .next { s with part := q } ∧
      (∀ c : Chan, let o := outOf p c
        (reg p (G.trimState c) = 1 → outOf q c = o ∧ reg q (G.trimSwaps c) = reg p (G.trimSwaps c) ∧ reg q (G.trimState c) = 1) ∧
        (reg p (G.trimState c) ≠ 1 →
          outOf q c = { o with rotPos := (o.rotPos + 1) % 64, rotLeft := o.rotLeft - 1, freezeTo := none } ∧
          reg q (G.trimSwaps c) = (reg p (G.trimSwaps c) + 1) % 2 ^ regWidth (G.trimSwaps c) ∧
          reg q (G.trimState c) = (if reg p (G.trimState c) = 3 ∧ o.rotLeft ≤ 1 then 0 else reg p (G.trimState c)))) ∧
      q = { p with gz := { p.gz with regs := q.gz.regs }, outs := q.outs }) ∧
    (p.time.tick % 80000 ≠ 0 → exec .trimSwap s = .next s) ∧
    (∀ path (c : Chan) ms, Takes p path (G.trimFreezeReq c) ms → ms ≤ reg p (G.trimFreezeMax c) → reg p (G.lgState (groupOf p c)) ≠ 0 →
      reg p (G.trimState c) ≠ 3 →
      let p := cleared p path (G.trimFreezeReq c)
      ∃ q, exec (.trimFreezeReq path c ms) s = .next { s with part := tell q path 0 } ∧
        q = { p with gz := { p.gz with bound := kput (G.trimFreezeReq c) ms p.gz.bound } }) ∧
    (∀ (c : Chan) (t : Nat), (outOf p c).freezeTo = some t →
      (t ≤ p.time.tick → ∃ q, exec (.trimFreezeEnd c) s = .next { s with part := q } ∧
        reg q (G.trimState c) = (if reg p (G.trimState c) = 2 then 2 else 3) ∧
        outOf q c = { outOf p c with freezeTo := none, rotLeft := 64 } ∧ SameRegs p q [G.trimState c] ∧ (∀ d, d ≠ c → outOf q d = outOf p d) ∧
        q.seqs = p.seqs ∧ q.mem = p.mem) ∧
      (p.time.tick < t → exec (.trimFreezeEnd c) s = .next s)) ∧
    (∀ (c : Chan) (estimate : Nat) (cyc : Cyc), ∃ q, exec (.trimForced c estimate cyc) s = .next { s with part := q } ∧
      reg q (G.trimWorst c) = estimate ∧ SameRegs p q [G.trimWorst c, G.trimState c, G.trimFlags c] ∧ q.seqs = p.seqs ∧ q.mem = p.mem ∧
      (reg p (G.trimState c) = 1 ∧ 128 ≤ estimate → reg q (G.trimState c) = 2 ∧ regBit q (G.trimFlags c) 0 = true ∧ Raised p q cyc 0xB86) ∧
      (reg p (G.trimState c) ≠ 1 ∨ estimate < 128 → q.fab = p.fab))

/-- WATCH_READING (R236, R237), WATCH_VERDICT (R241 to R244) and WATCH_CAUSE_CLEAR (R245). The model's own readings: log entries 2 and 40. -/
def Obligations.WatchReadsAndJudges : Prop :=
  ∀ s : State, awake s →
    let p := s.part
    let k := p.time.tick
    let frame (q : Part) : Prop := q.mem = p.mem ∧ q.plans = p.plans ∧ q.seqs = p.seqs ∧ q.outs = p.outs ∧ q.fab = p.fab
    (∀ (x : Int) (d : Nat), 0 < d → 500 ∣ measured x d ∧ |d * measured x d - x| ≤ 250 * d) ∧
    (∀ (w : Fin 16) (outP outN : Int) (refOk : Bool), reg p G.clockState ≠ 2 → p.life.test = 0 → p.life.applied = true →
      let p := if refOk then s.part else setRegBit s.part G.watchConvOk w.val false
      let c := chan (16 * w.val + k % 16)
      let off := (reg p G.watchStride * (k / 16) + 10 * (c.val % 16)) % 250
      let one := 4 ≤ reg p (G.outSpan c)
      let vd := measured (if one then outP else outP - outN) 1
      let vc := if one then measured outN 1 else measured (outP + outN) 2
      let r : WatchRd := ⟨k, off, watchBlanked p c k off, !(outOf p c).closed, intended p c k off, vd, vc, watchThreshold p c⟩
      (refOk = false → r.blank = true ∧ regBit p G.watchConvOk w.val = false) ∧
      (reg p (G.watchEnable c) = 0 → exec (.watchReading w outP outN refOk) s = .next { s with part := p }) ∧
      (reg p (G.watchEnable c) ≠ 0 → ∃ q, exec (.watchReading w outP outN refOk) s = .next { s with part := q } ∧
        reg q (G.watchLast c) = watchRecord r ∧ SameRegs p q [G.watchLast c, G.watchBlanked c] ∧ frame q ∧
        (∀ d, d ≠ c → q.watch.get d = p.watch.get d) ∧
        (r.blank = false → q.watch.get c = { p.watch.get c with reading := some r } ∧ reg q (G.watchBlanked c) = reg p (G.watchBlanked c)) ∧
        (r.blank = true → q.watch = p.watch ∧
          reg q (G.watchBlanked c) = (reg p (G.watchBlanked c) + 1) % 2 ^ regWidth (G.watchBlanked c)))) ∧
    (∀ (c : Chan) (r : WatchRd), (p.watch.get c).reading = some r → r.tick < k → p.life.test = 0 →
      let w := takeReading (p.watch.get c) (reg p G.watchWindow) r
      let j := judge p c w r.thresh
      let fired := w.fired ^^^ (w.fired &&& classMask j.arms)
      let new := classMask j.holds ^^^ (classMask j.holds &&& fired)
      let act := strongest (reg p (G.watchAction c)) new
      ∃ q, exec (.watchVerdict c) s = .next { s with part := q } ∧ q.watch.get c = { w with fired := fired ||| classMask j.holds } ∧
        reg q (G.watchReadings c) = (reg p (G.watchReadings c) + 1) % 2 ^ regWidth (G.watchReadings c) ∧
        reg q (G.watchDeviations c) = (if r.thresh < |r.vd - r.expv| ∨ r.thresh < |r.vc|
          then (reg p (G.watchDeviations c) + 1) % 2 ^ regWidth (G.watchDeviations c) else reg p (G.watchDeviations c)) ∧
        reg q (G.watchCause c) = reg p (G.watchCause c) ||| new ∧ reg q (G.watchDriftNow c) = ofSigned 32 j.mean ∧
        reg q (G.watchGainNow c) = ofSigned 32 j.slope ∧
        reg q (G.watchVerdicts c) = (if new = 0 then reg p (G.watchVerdicts c) else (reg p (G.watchVerdicts c) + 1) % 2 ^ regWidth (G.watchVerdicts c)) ∧
        (new ≠ 0 → 1 ≤ act → (⟨25 * k + 5, ⟨k, 50, 0x700 + c.val, 0⟩⟩ : Producer) ∈ q.fab.producers) ∧
        (new ≠ 0 → act = 2 → (seqOf q c).act = .parked ∧ reg q (G.faultCause c) = reg p (G.faultCause c) ||| 2) ∧
        (new = 0 ∨ act < 2 → q.seqs = p.seqs ∧ q.plans = p.plans) ∧ (∀ d, d ≠ c → q.watch.get d = p.watch.get d ∧ seqOf q d = seqOf p d) ∧
        q.mem = p.mem) ∧
    (∀ path (c : Chan) mask, Takes p path (G.watchCause c) mask →
      ∃ q, exec (.watchCauseClear path c mask) s = .next { s with part := tell q path 0 } ∧
        reg q (G.watchCause c) = reg p (G.watchCause c) ^^^ (reg p (G.watchCause c) &&& mask) ∧
        q.watch.get c = { p.watch.get c with fired := (p.watch.get c).fired ^^^ ((p.watch.get c).fired &&& mask) } ∧
        (∀ d, d ≠ c → q.watch.get d = p.watch.get d) ∧ SameRegs (cleared p path (G.watchCause c)) q [G.watchCause c] ∧ frame q)

/-- SQ_ENABLE and DB_TAIL (R252, R257), the MSI-X table of BAR2 (R249), SQ_NET_DATA (R259) and SQ_FLUSH (R254). The model's own readings:
log entries 56, 72, 86, 90 and 91. -/
def Obligations.QueuesAreEnabledAndFed : Prop :=
  ∀ (s : State) (i : Queue) (path : Path), awake s →
    let p := s.part
    let dropped (q : Part) : Prop := (∀ e ∈ q.strm.descs, e.1 ≠ i.val) ∧ (∀ e ∈ q.strm.open_, e.1 ≠ i.val) ∧ kfind i q.strm.tail = none ∧
      kfind i q.strm.wait = none
    (Takes p path (G.sqEnable i) 1 → reg p (G.sqEnable i) ≠ 1 →
      ∃ q, exec (.sqEnable path i 1) s = .next { s with part := tell q path 0 } ∧ reg q (G.sqEnable i) = 1 ∧
        reg q (G.sqState i) = (if reg p G.pairRole = 2 then 5 else 1) ∧ dropped q ∧ q.mem = p.mem ∧ q.seqs = p.seqs ∧
        ∀ k ∈ [G.sqWritten i, G.sqReserved i, G.sqPlaypos i, G.sqAhead i, G.sqSkipped i, G.sqUnderruns i, G.sqGapSamples i, G.sqSlip i,
          G.sqLateRefill i, G.sqDescHead i, G.sqDescDone i, G.sqErrCause i, G.sqMirrored i], reg q k = 0) ∧
    (Takes p path (G.sqEnable i) 0 → reg p (G.sqEnable i) ≠ 0 →
      ∃ q, exec (.sqEnable path i 0) s = .next { s with part := tell q path 0 } ∧ reg q (G.sqEnable i) = 0 ∧ reg q (G.sqState i) = 0 ∧
        dropped q ∧ q.mem = p.mem ∧ q.seqs = p.seqs) ∧
    (∀ n v : Nat, reg p G.hostLink = 0 → (n = 4 ∨ n = 8) →
      let tail := v % 2 ^ 32
      let write : Instr := .dbTail (4096 * i.val) (.write n v)
      let posted := (tail + 2 ^ 32 - reg p (G.sqDescDone i)) % 2 ^ 32
      let bad := reg p (G.sqEnable i) = 0 ∨ reg p G.pairRole = 2 ∨ p.life.test ≠ 0
      (bad → exec write s = .next { s with part := addReg p G.bar2Bad 1 }) ∧
      (¬ bad → reg p (G.sqDescCount i) < posted → ∃ q, exec write s = .next { s with part := q } ∧
        OnlyRegs p q [G.sqState i, G.sqErrCause i] ∧ reg q (G.sqState i) = 3 ∧ reg q (G.sqErrCause i) = 1) ∧
      (¬ bad → posted ≤ reg p (G.sqDescCount i) → ∃ q, exec write s = .next { s with part := q } ∧ tailOf q i = tail ∧
        SameRegs p q [G.sqState i] ∧ q = { p with gz := { p.gz with regs := q.gz.regs }, strm := { p.strm with tail := q.strm.tail } } ∧
        reg q (G.sqState i) = (if reg p (G.sqState i) = 1 ∧ tail ≠ reg p (G.sqDescHead i) then 2 else reg p (G.sqState i)))) ∧
    (∀ off n v : Nat, reg p G.hostLink = 0 → (¬ ((n = 4 ∨ n = 8) ∧ off % n = 0) ∨ (off < 0x40000 ∧ off % 4096 ≠ 0) ∨ 0x41000 ≤ off) →
      exec (.dbTail off (.write n v)) s = .next { s with part := addReg p G.bar2Bad 1 }) ∧
    (∀ v x : Nat, reg p G.hostLink = 0 → p.life.test = 0 → v < 256 → kfind v p.strm.msixWait ≠ none → x % 2 = 0 →
      ∃ q, exec (.dbTail (0x4000C + 16 * v) (.write 4 x)) s = .next { s with part := q } ∧ q.sent = .msix v :: p.sent ∧
        kfind v q.strm.msixWait = none ∧ q.gz = p.gz ∧ q.mem = p.mem) ∧
    (reg p G.hostLink = 0 → ∀ off n : Nat,
      exec (.dbTail off (.read n)) s = .next { s with part := say p (.read (.bytes ((List.range n).map fun j => bar2Byte p (off + j)))) }) ∧
    (let shows (o n v : Nat) : Prop := ∀ j, j < n → bar2Byte p (4096 * i.val + o + j) = BitVec.ofNat 8 (v / 256 ^ j)
     shows 0x008 4 (reg p (G.sqDescHead i)) ∧ shows 0x010 4 (reg p (G.sqDescDone i)) ∧ shows 0x018 8 (reg p (G.sqWritten i)) ∧
       shows 0x020 8 (playPos p i) ∧ shows 0x028 4 (reg p (G.sqState i)) ∧ shows 0x000 8 0 ∧ ∀ o, 0x030 ≤ o → o < 0x1000 → shows o 1 0) ∧
    (reg p G.hostLink ≠ 0 → ∀ off a, exec (.dbTail off a) s = .next s) ∧
    (∀ data : List Byte, TakesBulk p path (G.sqNetData i) → reg p (G.sqEnable i) = 1 → reg p (G.sqSource i) = 1 → data.length % 64 = 0 →
      64 ≤ data.length → data.length ≤ 65536 → data.length ≤ ringRoom p i → data.length ≤ reg p (G.sqRingSize i) →
      reg p G.memState ≠ 3 → p.mem.bad = [] →
      let at_ (j : Nat) : Nat := reg p (G.sqRingBase i) + (reg p (G.sqWritten i) + j) % reg p (G.sqRingSize i)
      ∃ q, exec (.sqNetData path i data) s = .next { s with part := tell q path 0 } ∧ reg q (G.sqWritten i) = reg p (G.sqWritten i) + data.length ∧
        (∀ j, j < data.length → dramByte q.mem.dram (at_ j) = data.getD j 0) ∧
        (∀ x, (∀ j, j < data.length → x ≠ at_ j) → dramByte q.mem.dram x = dramByte p.mem.dram x) ∧ q.seqs = p.seqs ∧ q.plans = p.plans) ∧
    (Takes p path (G.sqFlush i) 1 → queueRuns p i = false →
      let n := (tailOf p i + 2 ^ 32 - reg p (G.sqDescHead i)) % 2 ^ 32
      ∃ q, exec (.sqFlush path i 1) s = .next { s with part := tell q path 0 } ∧ reg q (G.sqReserved i) = reg p (G.sqWritten i) ∧
        reg q (G.sqWritten i) = reg p (G.sqWritten i) ∧ (∀ e ∈ q.strm.open_, e.1 ≠ i.val) ∧ q.mem = p.mem ∧ q.seqs = p.seqs ∧
        (n = 0 → reg q (G.sqDescDone i) = reg p (G.sqDescDone i) ∧ q.sent = p.sent) ∧
        (n ≠ 0 → reg q (G.sqDescHead i) = tailOf p i ∧ reg q (G.sqDescDone i) = (reg p (G.sqDescDone i) + n) % 2 ^ regWidth (G.sqDescDone i)))

/-- STREAM_DESC_FETCH (R255, R257), STREAM_DESC_COMPLETE (R258), COMPLETION_TIMEOUT and HOST_LOST (R268).
The model's own readings: log entries 2 and 56. -/
def Obligations.DescriptorsAreFetchedAndComplete : Prop :=
  ∀ (s : State) (i : Queue), awake s →
    let p := s.part
    let head := (reg p (G.sqDescHead i) + 1) % 2 ^ regWidth (G.sqDescHead i)
    let wait := kget (fun _ => []) p.strm.wait i
    (∀ (d : StreamDesc) (c : Cyc), reg p (G.sqEnable i) ≠ 0 → reg p (G.sqSource i) = 0 → reg p G.hostLink = 0 → reg p G.pairRole ≠ 2 →
      reg p (G.sqState i) = 2 → p.life.test = 0 → reg p (G.sqDescHead i) ≠ tailOf p i → wait = [] →
      let len := bits d.raw 95 64
      (streamDescOk d.raw = false → ∃ q, exec (.streamDescFetch i [d] c) s = .next { s with part := q } ∧ reg q (G.sqState i) = 3 ∧
        reg q (G.sqErrCause i) = 2 ∧ q.mem = p.mem) ∧
      (streamDescOk d.raw = true → d.result = .error → ∃ q, exec (.streamDescFetch i [d] c) s = .next { s with part := q } ∧
        reg q (G.sqState i) = 3 ∧ reg q (G.sqErrCause i) = 3 ∧ q.mem = p.mem) ∧
      (∀ bytes, streamDescOk d.raw = true → d.result = .data bytes → len ≤ ringRoom p i →
        ∃ q, exec (.streamDescFetch i [d] c) s = .next { s with part := q } ∧ reg q (G.sqDescHead i) = head ∧
          reg q (G.sqWritten i) = reg p (G.sqWritten i) + len ∧
          q.strm.descs = p.strm.descs ++ [(i.val, reg p (G.sqWritten i) + len, bit d.raw 96)] ∧
          reg q (G.sqState i) = (if head = tailOf p i then 1 else 2) ∧ q.seqs = p.seqs ∧ q.plans = p.plans)) ∧
    (∀ e, p.strm.descs.find? (fun x => decide (x.1 = i.val)) = some e →
      (reg p (G.sqWritten i) < e.2.1 → exec (.streamDescComplete i) s = .next s) ∧
      (e.2.1 ≤ reg p (G.sqWritten i) →
        ∃ q, exec (.streamDescComplete i) s = .next { s with part := q } ∧ q.strm.descs = p.strm.descs.erase e ∧
          reg q (G.sqDescDone i) = (reg p (G.sqDescDone i) + 1) % 2 ^ regWidth (G.sqDescDone i) ∧ SameRegs p q [G.sqDescDone i] ∧
          (reg p (G.sqWbAddr i) ≠ 0 → reg p G.hostLink = 0 →
            Out.hostWrite (reg p (G.sqWbAddr i)) (toBytesLE 8 (reg q (G.sqDescDone i) + reg p (G.sqState i) * 2 ^ 32)) ∈ q.sent) ∧
          q.mem = p.mem ∧ q.seqs = p.seqs)) ∧
    (p.strm.descs.find? (fun x => decide (x.1 = i.val)) = none → exec (.streamDescComplete i) s = .next s) ∧
    (∃ q, exec (.completionTimeout i) s = .next { s with part := q } ∧
      kget (fun _ => 0) q.strm.tmo i = kget (fun _ => 0) p.strm.tmo i + 1 ∧
      reg q G.cplTimeouts = (reg p G.cplTimeouts + 1) % 2 ^ regWidth G.cplTimeouts ∧
      (reg p (G.sqState i) = 1 ∨ reg p (G.sqState i) = 2 → reg q (G.sqErrCause i) = 4) ∧
      (kget (fun _ => 0) p.strm.tmo i + 1 < 4 → reg q G.hostLink = reg p G.hostLink ∧
        reg q (G.sqState i) = (if reg p (G.sqState i) = 1 ∨ reg p (G.sqState i) = 2 then 3 else reg p (G.sqState i))) ∧
      (4 ≤ kget (fun _ => 0) p.strm.tmo i + 1 → reg q G.hostLink ≠ 0) ∧ q.seqs = p.seqs) ∧
    (∀ cause, (reg p G.hostLink = 0 → ∃ q, exec (.hostLost (.lost cause)) s = .next { s with part := q } ∧ reg q G.hostLink = 1 ∧
        reg q G.hostLostCount = (reg p G.hostLostCount + 1) % 2 ^ regWidth G.hostLostCount ∧ q.mem.ldGo = false ∧ q.mem.load = none ∧
        reg q G.ldState = (if reg p G.ldState = 1 then 4 else reg p G.ldState) ∧
        (∀ j : Queue, reg q (G.sqState j) = if reg p (G.sqEnable j) = 1 ∧ reg p (G.sqSource j) = 0 ∧ reg p (G.sqState j) ≠ 5 then 4
          else reg p (G.sqState j)) ∧ q.seqs = p.seqs ∧ q.plans = p.plans ∧ q.mem.dram = p.mem.dram) ∧
      (reg p G.hostLink ≠ 0 → exec (.hostLost (.lost cause)) s = .next s)) ∧
    (∀ gen width, (reg p G.hostLink = 1 → p.life.applied = true → ∃ q, exec (.hostLost (.returned gen width)) s = .next { s with part := q } ∧
        reg q G.hostLink = 0 ∧ reg q G.pcieLink = gen % 16 + width % 32 * 16 ∧ OnlyRegs p q [G.hostLink, G.pcieLink]) ∧
      (reg p G.hostLink ≠ 1 ∨ p.life.applied = false → exec (.hostLost (.returned gen width)) s = .next s))

/-- DRAM_TRAINING_DONE (R271, R273), DRAM_REQUEST (R276) and DRAM_COMMAND_SLOT (R277, R283). The model's own readings: log entries 14, 33 and 34. -/
def Obligations.MemoryTrainsAndServes : Prop :=
  ∀ s : State, awake s →
    let p := s.part
    (∀ (speed : Nat) (r : TrainingResult), reg p G.memState ≤ 1 →
      ∃ q, exec (.dramTrainingDone speed r) s = .next { s with part := q } ∧
        (r.supported = false → reg q G.memState = 3 ∧ reg q G.memFailCause = 3 ∧ reg q G.apDramSize = 0) ∧
        (r.supported = true → r.passed = true → r.channels % 16 = 15 → reg q G.memState = 2 ∧ reg q G.memSpeed = speed ∧
          reg q G.memRanks = r.ranks ∧ reg q G.memLatFixed = r.latFixed ∧
          reg q G.apDramSize = if r.density = 1 ∧ r.ranks = 1 then 2 ^ 37 else 2 ^ 38) ∧
        (r.supported = true → (r.passed = false ∨ r.channels % 16 ≠ 15) →
          (4800 < speed → reg q G.memState = 1 ∧ reg q G.apDramSize = reg p G.apDramSize) ∧
          (speed ≤ 4800 → reg q G.memState = 3 ∧ reg q G.memFailCause = 1 ∧ reg q G.apDramSize = 0)) ∧
        q.mem = p.mem ∧ q.dram = p.dram ∧ q.seqs = p.seqs) ∧
    (1 < reg p G.memState → ∀ speed r, exec (.dramTrainingDone speed r) s = .next s) ∧
    (∀ (port : Fin 5) (now deadline addr len : Nat) (data : Option (List Byte)), reg p G.memState = 2 → 0 < len →
      64 * ((addr + len - 1) / 64) < reg p G.apDramSize → p.mem.bad = [] →
      (∀ i : SubCh, ((subAt p i).input.filter fun r => decide (r.port = port.val)).length +
        ((linesTouched addr len).filter fun x => decide (subOf p (64 * x.1) = i)).length ≤ 64) →
      let line := addr / 64
      let need := if port.val = 0 then neededBy p (64 * line) 64 else 0
      let stop := if port.val = 0 then cycleOfTick p now (need - 1) else now + reg p (G.portTarget port) * cyclesPerUs p
      ∃ q, exec (.dramRequest port now deadline addr len data) s = .next { s with part := q } ∧ q.dram.lastReq = now ∧
        (∀ x, dramByte q.mem.dram x = match data with
          | some d => if addr ≤ x ∧ x < addr + len then d.getD (x - addr) 0 else dramByte p.mem.dram x
          | none => dramByte p.mem.dram x) ∧
        (line = (addr + len - 1) / 64 →
          (∀ i : SubCh, (subAt q i).input = (subAt p i).input ++ (if subOf p (64 * line) = i then
            [⟨port, now, stop, line, data.isSome, decide (len = 64), addr,
              (data.map fun d => (d ++ List.replicate len 0).take len).getD (dramRead p.mem.dram addr len), dramRead p.mem.dram addr len, false,
              need⟩]
            else [])) ∧
          (port.val = 0 → q.dram.wants = p.dram.wants.flatMap (cutWant (64 * line) 64))) ∧
        (data = none → q.gz = p.gz) ∧ SameRegs p q [G.portBytes port] ∧ q.seqs = p.seqs ∧ q.sent = p.sent) ∧
    (∀ (i : SubCh) (now : Nat) (ecc : EccOutcome) (sampled : Bool) (c : Cyc),
      let x := subAt p i
      (reg p G.memState ≠ 2 → exec (.dramCommandSlot i now ecc sampled c) s = .next { s with part := atCyc p c }) ∧
      (reg p G.memState = 2 → ∃ q, exec (.dramCommandSlot i now ecc sampled c) s = .next { s with part := q } ∧
        (∀ e, x.owed.find? (fun y => decide (4 ≤ y.2)) = some e →
          (subAt q i).busy = x.busy + 1 ∧ q.mem = p.mem ∧ q.sent = p.sent ∧
          ((x.rows.any fun y => coveredBy p e.1 y.1) = true → (subAt q i).rows = x.rows.filter (fun y => !coveredBy p e.1 y.1) ∧
            (subAt q i).owed = x.owed) ∧
          ((x.rows.any fun y => coveredBy p e.1 y.1) = false → (subAt q i).rows = x.rows ∧
            kget (fun _ => 0) (subAt q i).owed e.1 = kget (fun _ => 0) x.owed e.1 - 1)) ∧
        (x.input = [] → x.owed = [] → x.nr = [] → x.due = false → x.banks = [] →
          subAt q i = { x with slots := x.slots + 1 } ∧ q.mem = p.mem ∧ q.sent = p.sent ∧ q.gz = p.gz) ∧
        (∀ b r, x.input = [] → x.owed = [] → x.nr = [] → x.due = false → x.banks = [(b, [r])] → r.isWrite = false → x.writing = false →
          kfind b x.rows = some (bankRow p (64 * r.line)).2 → ecc = .clean → p.mem.bad.contains r.line = false →
          (subAt q i).banks = [] ∧ q.mem = p.mem ∧ q.sent = .memData r.port r.at_ r.bytes :: p.sent)))

/-- ROW_IDLE_CLOSE (R278), REFRESH_DUE (R283), DEVICE_TEMP_READ (R272), DQS_OSC_READ (R287, R290), RETRAIN_PAUSE (R288), ALERT_N (R294).
The model's own readings: log entries 2 and 14. -/
def Obligations.MemoryIsKeptUp : Prop :=
  ∀ (s : State) (i : SubCh), awake s →
    let p := s.part
    let x := subAt p i
    let others (q : Part) : Prop := (∀ j, j ≠ i → subAt q j = subAt p j) ∧ q.mem = p.mem ∧ q.seqs = p.seqs
    (∀ rank bank now, let b := 32 * rank + bank
      ((kfind b x.rows).isSome → reg p G.memIdleClose ≤ 4 * (now - kget (fun _ => 0) x.used b) →
        ∃ q, exec (.rowIdleClose i rank bank now) s = .next { s with part := q } ∧ subAt q i = { x with rows := kdel b x.rows } ∧ others q ∧
          q.gz = p.gz) ∧
      (kfind b x.rows = none ∨ 4 * (now - kget (fun _ => 0) x.used b) < reg p G.memIdleClose →
        exec (.rowIdleClose i rank bank now) s = .next s)) ∧
    (∀ rank now, reg p G.memState = 2 →
      let keys := if reg p G.memRefreshMode = 0 then [4 * rank] else [4 * rank, 4 * rank + 1, 4 * rank + 2, 4 * rank + 3]
      let owes (q : Part) (k : Nat) : Nat := kget (fun _ => 0) (subAt q i).owed k
      let forced := (keys.filter fun k => decide (owes p k = 3)).length
      let late := (keys.filter (readsWait p x)).length
      ∃ q, exec (.refreshDue i rank now) s = .next { s with part := q } ∧
        (∀ k, owes q k = if k ∈ keys then min 4 (owes p k + 1) else owes p k) ∧
        (reg p G.refForced + forced < 2 ^ regWidth G.refForced → reg q G.refForced = reg p G.refForced + forced) ∧
        (reg p G.refPostponed + late < 2 ^ regWidth G.refPostponed → reg q G.refPostponed = reg p G.refPostponed + late) ∧
        SameRegs p q [G.refPostponed, G.refForced, G.scRefOwed i] ∧ others q) ∧
    (∀ rank hot, ∃ q, exec (.deviceTempRead i rank hot) s = .next { s with part := q } ∧
      kget (fun _ => 0) (subAt q i).hot rank = (if hot then 1 else 0) ∧
      reg q G.tRefiNs = (if (List.finRange 8).any (fun j => !(subAt q j).hot.isEmpty) then 1950 else 3900) ∧
      (hot = true → reg q G.tRefiNs = 1950) ∧ SameRegs p q [G.scHot i, G.memFlags, G.tRefiNs] ∧ others q) ∧
    (∀ (drift now : Nat) (c : Cyc), ∃ q, exec (.dqsOscRead i drift now c) s = .next { s with part := q } ∧ reg q (G.scDrift i) = drift ∧
      reg q (G.scUtil i) = x.busy * 1000000 / max 1 x.slots ∧ (subAt q i).slots = 0 ∧ (subAt q i).busy = 0 ∧ q.mem = p.mem ∧
      (reg p G.quietState ≠ 1 → (subAt q i).due = (x.due || decide (10 ≤ drift)) ∧ others q ∧ q.fab = p.fab) ∧
      (reg p G.quietState = 1 → drift < 25 → reg q G.quietState = 1 ∧ others q ∧ q.fab = p.fab) ∧
      (reg p G.quietState = 1 → 25 ≤ drift → reg q G.quietState = 2 ∧ Raised p q c 0xB86 ∧ ∀ j, (subAt q j).due = true ∧ (subAt q j).after = true)) ∧
    (∀ (now : Nat) (c : Cyc), reg p G.memState = 2 →
      (x.due = true ∨ x.after = true ∨ x.pauseAt.getD 0 + reg p (G.scRtInterval i) * cyclesPerMs p ≤ now ∨ 10 ≤ reg p (G.scDrift i)) →
      ∃ q, exec (.retrainPause i now c) s = .next { s with part := q } ∧ others q ∧
        (pauseAllowed p i now = false → subAt q i = { x with due := true } ∧ q.gz = p.gz) ∧
        (pauseAllowed p i now = true → subAt q i = { x with rows := [], pauseAt := some now, due := false, after := false } ∧
          reg q (G.scDrift i) = 0 ∧ reg q G.rtPauses = (reg p G.rtPauses + 1) % 2 ^ regWidth G.rtPauses)) ∧
    (∀ (ch : Fin 4) (c : Cyc), reg p G.memState = 2 →
      let n := kget (fun _ => 0) p.dram.alerts ch + 1
      ∃ q, exec (.alertN ch c) s = .next { s with part := q } ∧ kget (fun _ => 0) q.dram.alerts ch = n ∧ q.mem = p.mem ∧ q.seqs = p.seqs ∧
        (n < 3 → reg q G.memState = 2 ∧ reg q G.replays = (reg p G.replays + 1) % 2 ^ regWidth G.replays ∧ q.fab = p.fab) ∧
        (3 ≤ n → reg q G.memState = 3 ∧ reg q G.memFailCause = 2 ∧ Raised p q c 0xB87))

/-- QUIET_REQ and QUIET_WINDOW_END (R289), SELF_REFRESH_ENTER (R292), SELF_REFRESH_EXIT (R293), SCRUB (R298), ZERO_FILL, ZERO_FILL_DONE (R301).
The model's own readings: log entry 2. -/
def Obligations.MemoryQuietsSleepsAndFills : Prop :=
  ∀ s : State, awake s →
    let p := s.part
    let frame (q : Part) : Prop := q.mem.dram = p.mem.dram ∧ q.seqs = p.seqs ∧ q.plans = p.plans ∧ q.sent = p.sent
    let credit : Nat := min (64 * (reg p (G.portShare 4) / max 1 (reg p G.ticksPerSecond)))
      (kget (fun _ => 0) p.dram.credit 4 + (p.time.tick - p.dram.creditAt) * (reg p (G.portShare 4) / max 1 (reg p G.ticksPerSecond)))
    let pays (n : Nat) : Prop := reservingFlow p = false ∨ n ≤ credit
    (∀ path ms, Takes p path G.quietReq ms → ms ≤ reg p G.quietMax → reg p G.quietState < 2 →
      let p := cleared p path G.quietReq
      exec (.quietReq path ms) s = .next { s with part := tell { p with gz := { p.gz with bound := kput G.quietReq ms p.gz.bound } } path 0 }) ∧
    (∀ t, p.dram.quietTo = some t →
      (t ≤ datumNow p → reg p G.quietState = 1 → ∃ q, exec .quietWindowEnd s = .next { s with part := q } ∧ reg q G.quietState = 3 ∧
        q.dram.quietTo = none ∧ (∀ j, (subAt q j).after = true ∧ (subAt q j).due = true) ∧ SameRegs p q [G.quietState] ∧ frame q) ∧
      (datumNow p < t ∨ reg p G.quietState ≠ 1 → exec .quietWindowEnd s = .next s)) ∧
    (∀ now, reg p G.memState = 2 → admittedFlow p = false → reg p G.memSrIdle ≠ 0 → p.dram.lastReq + reg p G.memSrIdle * cyclesPerUs p ≤ now →
      (∀ j, subIdle (subAt p j) = true) → (∀ j ∈ p.adm.jobs, reservesMemory p j = false) →
      ∃ q, exec (.selfRefreshEnter now) s = .next { s with part := q } ∧ reg q G.memState = 4 ∧ q.dram.srSince = some now ∧
        (∀ j, (subAt q j).rows = [] ∧ (subAt q j).owed = []) ∧ frame q) ∧
    (∀ now, reg p G.memState = 4 → ((∃ j ∈ p.adm.jobs, reservesMemory p j = true) ∨ ∃ j, subIdle (subAt p j) = false) →
      ∃ q, exec (.selfRefreshExit now) s = .next { s with part := q } ∧ reg q G.memState = 2 ∧ q.dram.srSince = none ∧ q.dram.lastReq = now ∧
        (∀ j, (subAt q j).owed = [] ∧ (subAt q j).input = (subAt p j).input) ∧ frame q) ∧
    (reg p G.scrubPeriod ≠ 0 → reg p G.zfState ≠ 1 → reg p G.memState = 2 → pays 64 → p.mem.bad.contains p.dram.scrubAt = false →
      ∃ q, exec (.scrub (64 * p.dram.scrubAt) .clean) s = .next { s with part := q } ∧ frame q ∧ q.mem = p.mem ∧
        (64 * (p.dram.scrubAt + 1) < reg p G.apDramSize → q.dram.scrubAt = p.dram.scrubAt + 1 ∧ reg q G.scrubPasses = reg p G.scrubPasses) ∧
        (reg p G.apDramSize ≤ 64 * (p.dram.scrubAt + 1) → q.dram.scrubAt = 0 ∧
          reg q G.scrubPasses = (reg p G.scrubPasses + 1) % 2 ^ regWidth G.scrubPasses)) ∧
    (reg p G.zfState ≠ 0 → reg p G.memState = 2 → reg p G.zfFrontier < reg p G.apDramSize → pays 65536 →
      ∃ q, exec .zeroFill s = .next { s with part := q } ∧ frame q ∧
        (∀ n, p.dram.first.findSome? (ringPage p) = some n → kfind n q.dram.filled = some 1 ∧ reg q G.zfFrontier = reg p G.zfFrontier) ∧
        (p.dram.first.findSome? (ringPage p) = none → (reg p G.zfFrontier / 65536 + 1) * 65536 ≤ reg q G.zfFrontier)) ∧
    (reg p G.zfState = 1 → reg p G.memState = 2 → reg p G.apDramSize ≤ reg p G.zfFrontier →
      ∃ q, exec .zeroFillDone s = .next { s with part := q } ∧ reg q G.zfState = 0 ∧ reg q G.zfDoneTick = p.time.tick ∧ frame q) ∧
    (reg p G.zfState ≠ 1 ∨ reg p G.zfFrontier < reg p G.apDramSize → exec .zeroFillDone s = .next s)

/-- ADMISSION_VERDICT (R306, R308, R309, R321, R322). The model's own readings: log entries 22, 23, 24 and 25. -/
def Obligations.VerdictsAreGivenInOrder : Prop :=
  ∀ (s : State) (twin digest : Nat) (at_ : Cyc), awake s →
    let p := s.part
    let i := Instr.admissionVerdict twin digest at_
    (p.adm.jobs = [] → exec i s = .next s) ∧
    ∀ j r, p.adm.jobs = j :: r → j.group < 16 → j.chan < 256 → (j.cmd = 1 ∨ j.cmd = 2 ∨ j.cmd = 4 ∨ j.cmd = 8) →
      (awaitsMemory p j = true → exec i s = .next s) ∧
      (awaitsMemory p j = false →
        let now := setReg { atCyc p at_ with adm := { p.adm with jobs := r } } G.admPending r.length
        let told (q : Part) (code : Nat) : Prop := p.pl.owed.find? (owesItem j.path (jobKey j)) = none →
          ∀ n, j.path = .portA n → q.sent.head? = some (.verdict (.portA n) code)
        let frame (q : Part) : Prop := q.seqs = p.seqs ∧ q.plans = p.plans ∧ q.mem = p.mem ∧ q.dps = p.dps ∧ q.strm = p.strm ∧
          q.adm.jobs = r ∧ reg q G.admPending = r.length
        let idle (q : Part) : Prop := q.adm.resv = p.adm.resv ∧ q.grps = p.grps ∧ (∀ g : Grp, reg q (G.lgState g) = reg p (G.lgState g)) ∧ frame q
        (overtaken now j = true → ∃ q, exec i s = .next { s with part := q } ∧ idle q ∧ told q 6) ∧
        (overtaken now j = false → j.cmd = 2 → reg p (G.lgState j.group) = 1 → clockOk now = true → j.at_ = 0 →
          ∃ q, exec i s = .next { s with part := q } ∧ frame q ∧ told q 0 ∧ q.adm.resv = p.adm.resv ∧ reg q (G.lgState j.group) = 3) ∧
        (overtaken now j = false → ¬ (j.cmd = 2 ∧ reg p (G.lgState j.group) = 1) →
          (∀ x, admission now j = .inl x → ∃ q, exec i s = .next { s with part := q } ∧ idle q ∧ told q 13 ∧
            reg q G.admCode = x.code ∧ reg q G.admCommand = j.cmd ∧ reg q G.admGroup = j.group ∧ reg q G.admChannel = x.chan ∧
            reg q G.admObject = x.object ∧ reg q G.admDemand = x.demand % 2 ^ 64 ∧ reg q G.admLimit = x.limit % 2 ^ 64 ∧
            reg q G.admRefused = (reg p G.admRefused + 1) % 2 ^ regWidth G.admRefused ∧ reg q G.admAccepted = reg p G.admAccepted ∧
            reg q G.admVerdictTick = p.time.tick ∧
            (⟨25 * p.time.tick + at_.val, ⟨p.time.tick, 10 * at_.val, 0xB88, 0⟩⟩ : Producer) ∈ q.fab.producers ∧
            (j.cmd = 8 → reg q (G.planState j.chan) = 4)) ∧
          (∀ charges subs, admission now j = .inr (charges, subs) → j.at_ = 0 →
            (kget regDefault j.regs G.pairState ≠ 3 ∨ (twin = 0 ∧ digest = j.digest % 2 ^ 64)) →
            ∃ q, exec i s = .next { s with part := q } ∧ frame q ∧ told q 0 ∧ reg q G.admCode = 0 ∧ reg q G.admCommand = j.cmd ∧
              reg q G.admGroup = j.group ∧ reg q G.admAccepted = (reg p G.admAccepted + 1) % 2 ^ regWidth G.admAccepted ∧
              reg q G.admRefused = reg p G.admRefused ∧
              (j.cmd ≠ 8 → q.adm.resv = (p.adm.resv.filter fun x => decide (x.group ≠ j.group)) ++ [⟨j.group, none, charges, p.time.tick⟩] ∧
                reg q (G.lgState j.group) = (if j.cmd = 1 then 1 else if j.cmd = 2 then 3 else 5) ∧
                reg q (G.admGEntryReady j.group) = entryReady (judged now j) subs p.time.tick) ∧
              (j.cmd = 8 → q.adm.resv = p.adm.resv ++ [⟨j.group, some j.chan, charges, p.time.tick⟩] ∧ reg q (G.planState j.chan) = 2 ∧
                ∃ c, q.adm.plans = p.adm.plans ++ [c] ∧ c.chan = j.chan ∧ c.tick = p.time.tick + 3 ∧
                  reg q (G.lgState j.group) = reg p (G.lgState j.group))) ∧
          (∀ y, admission now j = .inr y → kget regDefault j.regs G.pairState = 3 → (twin ≠ 0 ∨ digest ≠ j.digest % 2 ^ 64) →
            ∃ q, exec i s = .next { s with part := q } ∧ idle q ∧ told q 13 ∧ reg q G.admCode = 16 ∧ reg q G.admTwinCode = twin % 256)))

/-- HEARTBEAT_SEND, HEARTBEAT_RECEIVE, TWIN_LOST (R328, R330), CAPTURE_LOG_SEND, CAPTURE_LOG_RECEIVE, LOST_TICK (R331), MIRROR_WRITE_RECORD (R332),
MIRROR_RING_BYTES, CUTOFF_RECORD (R334) and DIGEST_COMPARE (R335). The model's own readings: log entries 2, 13 and 58. -/
def Obligations.PairTrafficIsCarried : Prop :=
  ∀ s : State, awake s →
    let p := s.part
    let k := p.time.tick
    let before := (k + 2 ^ 64 - 1) % 2 ^ 64
    let still (q : Part) : Prop := q.seqs = p.seqs ∧ q.plans = p.plans ∧ q.outs = p.outs ∧ q.dps = p.dps
    let pulse (q : Part) (off src : Nat) : Prop := (⟨25 * k + off / 10, ⟨k, off, src, 0⟩⟩ : Producer) ∈ q.fab.producers
    let plain (e : Entry) : Prop := e.kind = .plain ∧ e.acc ≠ .wo1 ∧ e.cls = .live ∧ ∀ n, e.ty ≠ .bulk n
    let waits (q : Part) (key v : Nat) : Prop := kfind key (if (keyChan key).isSome then q.gz.pend else q.gz.bound) = some v
    (paired p = true → ∃ h, exec .heartbeatSend s = .next { s with part := say p (.heartbeat h) } ∧ h.tick = k ∧ h.state = reg p G.pairState ∧
      (∀ c, c < 256 → bit h.parked c = decide (reg p (G.faultCause c) ≠ 0)) ∧
      h.fit = (if isShadow p then fitNow p else decide (reg p G.pairState = 3 ∧ reg p G.clockState = 0))) ∧
    (paired p = false → exec .heartbeatSend s = .next s) ∧
    (paired p = false ∨ heartbeatsMissed p = false → ∀ at_, exec (.twinLost at_) s = .next s) ∧
    (∀ h, reg p G.pairState = 0 → exec (.heartbeatReceive h) s = .next s) ∧
    (∀ h, reg p G.pairState ≠ 0 →
      (p.pair.peer = none → exec (.heartbeatReceive h) s = .next { s with part := { p with pair := { p.pair with hb := some h } } }) ∧
      (∀ x i, p.pair.peer = some x → partnerSlot p 2 (x.serial % 2 ^ 64) = some i →
        ∃ q, exec (.heartbeatReceive h) s = .next { s with part := q } ∧ q.pair = { p.pair with hb := some h } ∧ reg q (G.pState i) = 0 ∧
          reg q (G.pLastTick i) = k ∧ kfind i q.pl.heard = some (datumNow p) ∧ i ∉ q.pl.lost ∧
          SameRegs p q [G.pKind i, G.pIdentity i, G.pAddress i, G.pPort i, G.pLastTick i, G.pState i, G.pRole i] ∧ still q)) ∧
    (∀ at_ : Cyc, paired p = true → heartbeatsMissed p = true → ∃ q, exec (.twinLost at_) s = .next { s with part := q } ∧ reg q G.pairState = 1 ∧
      reg q G.pairFlags = reg p G.pairFlags ||| 16 ∧ q.pair.hb = none ∧ pulse q (10 * at_.val) 0xB82 ∧
      (reg p G.pairState = 2 → reg q G.joinCause = 10) ∧
      (∀ x i, p.pair.peer = some x → partnerSlot p 2 (x.serial % 2 ^ 64) = some i → reg q (G.pState i) = 1 ∧ q.pl.lost.getLast? = some i) ∧
      q.pair.handover = (if reg p G.pairRole = 1 ∧ p.pair.driveOut = true then p.pair.handover else none) ∧
      reg q G.pairRole = reg p G.pairRole ∧ q.pair.driveOut = p.pair.driveOut ∧ still q) ∧
    (forwards p = true → ∃ q, exec .captureLogSend s = .next { s with part := q } ∧
      q.sent = .captureLog before (((p.fab.log.filter fun e => decide (e.1 = before)).map (·.2)).take 64) :: p.sent ∧
      q.fab = { p.fab with log := p.fab.log.filter fun e => decide (before < e.1) } ∧ q = { p with fab := q.fab, sent := q.sent }) ∧
    (forwards p = false → exec .captureLogSend s = .next s) ∧
    (∀ t l (at_ : Cyc), ¬ (isShadow p = true ∧ paired p = true ∧ k = nextTick t ∧ at_.val ≤ 12 ∧ kfind t p.pair.logs = none) →
      exec (.captureLogReceive t l at_) s = .next { s with part := atCyc p at_ }) ∧
    (∀ t l (at_ : Cyc), isShadow p = true → paired p = true → k = nextTick t → at_.val ≤ 12 → kfind t p.pair.logs = none →
      ∃ q, exec (.captureLogReceive t l at_) s = .next { s with part := q } ∧ kfind t q.pair.logs = some l ∧ (∀ e ∈ q.fab.log, t < e.1) ∧ still q ∧
      (∀ r x, l = [r] → rtInputs p r.ec = [x] → x < 8192 → x % 32 < 8 → jumpDisabled p x = false → latchAt p x = none →
        latchAt q x = some ⟨⟨t, r.offset, r.source, r.generation⟩, 25 * t + r.offset / 10 + 3⟩)) ∧
    (isShadow p = false ∨ (kfind before p.pair.logs).isSome → exec .lostTick s = .next s) ∧
    (isShadow p = true → kfind before p.pair.logs = none → ∃ q, exec .lostTick s = .next { s with part := q } ∧
      reg q G.lostTicks = (reg p G.lostTicks + 1) % 2 ^ regWidth G.lostTicks ∧ reg q G.pairFlags = reg p G.pairFlags ||| 6 ∧
      reg q G.digestMatched = 0 ∧ pulse q 120 0xB85 ∧ still q) ∧
    (∀ i x v e, isShadow p = true → paired p = true → entryOf (gkey i x) = some e → plain e → checkWrite (atCyc p 0) e (gkey i x) v true false = 0 →
      ∃ q, exec (.mirrorWriteRecord i x v) s = .next { s with part := q } ∧ waits q (gkey i x) v ∧ still q ∧ q.mem = p.mem) ∧
    (∀ i x v, isShadow p = true → paired p = false → exec (.mirrorWriteRecord i x v) s = .next s) ∧
    (∀ i x v, isShadow p = false → (p.pair.toSend = [] → exec (.mirrorWriteRecord i x v) s = .next s) ∧
      ∀ f r, p.pair.toSend = f :: r → (k < f.tick → exec (.mirrorWriteRecord i x v) s = .next s) ∧
        ∀ e, f.tick ≤ k → entryOf f.key = some e → plain e → checkWrite (atCyc { p with pair := { p.pair with toSend := r } } 0) e f.key f.value true false = 0 →
          ∃ q, exec (.mirrorWriteRecord i x v) s = .next { s with part := q } ∧ waits q f.key f.value ∧ q.pair.toSend = r ∧ still q ∧ q.mem = p.mem) ∧
    (∀ (i : Queue) (data : List Byte), (paired p = false ∨ reg p (G.sqEnable i) = 0) → exec (.mirrorRingBytes i data) s = .next s) ∧
    (∀ (i : Queue) (data : List Byte), paired p = true → reg p (G.sqEnable i) ≠ 0 → 0 < reg p (G.sqRingSize i) →
      let at_ (m : Nat) : Nat := reg p (G.sqRingBase i) + m % reg p (G.sqRingSize i)
      (isShadow p = false →
        let n := min data.length (reg p (G.sqWritten i) - reg p (G.sqMirrored i))
        ∃ q bs, exec (.mirrorRingBytes i data) s = .next { s with part := q } ∧ q.sent = .ringBytes i bs :: p.sent ∧ bs.length = n ∧
          (∀ j, j < n → bs.getD j 0 = dramByte p.mem.dram (at_ (reg p (G.sqMirrored i) + j))) ∧
          reg q (G.sqMirrored i) = reg p (G.sqMirrored i) + n ∧ SameRegs p q [G.sqMirrored i] ∧ still q ∧ q.mem = p.mem) ∧
      (isShadow p = true → reg p G.memState ≠ 3 → p.mem.bad = [] → data.length ≤ reg p (G.sqRingSize i) →
        ∃ q, exec (.mirrorRingBytes i data) s = .next { s with part := q } ∧
          (∀ j, j < data.length → dramByte q.mem.dram (at_ (reg p (G.sqWritten i) + j)) = data.getD j 0) ∧
          (∀ x, (∀ j, j < data.length → x ≠ at_ (reg p (G.sqWritten i) + j)) → dramByte q.mem.dram x = dramByte p.mem.dram x) ∧
          reg q (G.sqWritten i) = reg p (G.sqWritten i) + data.length ∧ reg q (G.sqMirrored i) = reg p (G.sqWritten i) + data.length ∧ still q)) ∧
    (∀ (i : Queue) (units : Nat), paired p = false → exec (.cutoffRecord i units) s = .next s) ∧
    (∀ (i : Queue) (units : Nat), paired p = true →
      let was := kget (fun _ => 0) p.pair.cutoffs i
      let decided := p.time.opened - 2
      let n := if isShadow p then units else (writtenAt p i decided - was) / 64
      ∃ q, exec (.cutoffRecord i units) s = .next { s with part := q } ∧ kget (fun _ => 0) q.pair.cutoffs i = was + 64 * n ∧
        q = { p with pair := { p.pair with cutoffs := q.pair.cutoffs }, strm := q.strm, sent := q.sent } ∧
        q.strm = (if isShadow p then { p.strm with hist := p.strm.hist ++ [(i.val, decided, was + 64 * n)] } else p.strm) ∧
        q.sent = if isShadow p then p.sent else .cutoff i n :: p.sent) ∧
    (∀ h d, p.pair.hb = some h → p.pair.digests.find? (fun e => decide (e.1 = k)) = some d → h.tick = k →
      ∃ q, exec .digestCompare s = .next { s with part := q } ∧ still q ∧
        (h.digest = d.2.1 → h.mask = d.2.2 → reg q G.digestMatched = (reg p G.digestMatched + 1) % 2 ^ regWidth G.digestMatched ∧
          SameRegs p q [G.digestMatched] ∧ q.fab = p.fab) ∧
        ((h.digest ≠ d.2.1 ∨ h.mask ≠ d.2.2) → reg q G.digestMatched = 0 ∧ reg q G.pairFlags = reg p G.pairFlags ||| 1 ∧ pulse q 50 0xB84)) ∧
    (p.pair.hb = none → exec .digestCompare s = .next { s with part := atCyc p 5 })

/-- DRIVE_IN_CHANGE (R337), DRIVE_CONTENTION and FORCE (R338), HANDOVER, DRIVE_RELEASE and TAKEOVER (R339, R340).
The model's own readings: log entries 2, 12, 59 and 60. -/
def Obligations.DrivePassesBetweenThePair : Prop :=
  ∀ (s : State) (path : Path), awake s →
    let p := s.part
    let k := p.time.tick
    let st := reg p G.pairState
    let opened (q : Part) : Prop := ∀ d, (outOf q d).closed = false
    let still (q : Part) : Prop := q.seqs = p.seqs ∧ q.mem = p.mem ∧ q.plans = p.plans
    (∀ b, ∃ q, exec (.driveInChange b) s = .next { s with part := q } ∧ q.pair.driveIn = b ∧ still q ∧
      (b = true → reg p G.clockState = 2 → opened q ∧ q.pair.inActs = true) ∧
      (b = true → reg p G.clockState ≠ 2 → q = { p with pair := { p.pair with driveIn := true, both := q.pair.both } } ∧
        q.pair.both = (if p.pair.driveOut then (if p.pair.both = 0 then k + 1 else p.pair.both) else 0)) ∧
      (b = false → ¬ (isShadow p = true ∧ fitNow p = true) → q = { p with pair := { p.pair with driveIn := false, both := 0 } }) ∧
      (b = false → isShadow p = true → fitNow p = true →
        (∀ x, p.pair.handover = some x → q.pair.driveOut = true ∧ q.pair.handover = some x) ∧
        (p.pair.handover = none → regBit p G.pairAuto 0 = true → q.pair.driveOut = true ∧
          (q.pair.handover = some (k + 1, 4) ∨ q.pair.handover = some (k + 1, 5))) ∧
        (p.pair.handover = none → regBit p G.pairAuto 0 = false → q.pair.driveOut = p.pair.driveOut ∧ q.pair.handover = none))) ∧
    (let both := p.pair.both ≠ 0 ∧ p.pair.both ≤ k ∧ p.pair.driveOut = true ∧ p.pair.driveIn = true
     (¬ both → exec .driveContention s = .next s) ∧
     (both → ∃ q, exec .driveContention s = .next { s with part := q } ∧ opened q ∧ reg q G.pairFlags = reg p G.pairFlags ||| 8 ∧ still q ∧
       (reg p G.pairPriority = 2 → q.pair.driveOut = false ∧ reg q G.pairState = 5) ∧
       (reg p G.pairPriority ≠ 2 → q.pair.driveOut = true ∧ reg q G.pairState = st))) ∧
    (let c := cleared p path G.pairCmd
     let no (i : Instr) (v : Nat) : Prop := exec i s = .next { s with part := tell (logAbort c path 1 6 0x1700 8 v) path 6 }
     let at_ := reg p G.pairAt
     (Takes p path G.pairCmd 4 →
       ((isShadow p = true ∨ st = 1 ∨ st = 5) → ∃ q, exec (.force path) s = .next { s with part := tell q path 0 } ∧ q.pair.driveOut = true ∧
         q.pair.force = true ∧ q = { c with pair := q.pair }) ∧
       (isShadow p = false → st ≠ 1 → st ≠ 5 → no (.force path) 4)) ∧
     (Takes p path G.pairCmd 3 →
       let can := st = 3 ∧ reg p G.pairRole = 1 ∧ partnerFit p = true ∧ p.pair.handover = none ∧ (at_ = 0 ∨ k + 4 ≤ at_)
       (can → exec (.handover path) s = .next { s with part := tell { c with pair :=
         { c.pair with handover := some (if at_ = 0 then k + 4 else at_, 1) } } path 0 }) ∧
       (¬ can → no (.handover path) 3))) ∧
    (∀ followed t row, p.pair.handover = some (t, row) →
      (¬ (reg p G.pairRole = 1 ∧ k + 1 = t) → exec (.driveRelease followed) s = .next s) ∧
      (reg p G.pairRole = 1 → k + 1 = t → partnerFit p = true → followed = true →
        ∃ q, exec (.driveRelease followed) s = .next { s with part := q } ∧ q.pair.driveOut = false ∧ q.pair.driveIn = true ∧
          q.pair.released = true ∧ q.pair.handover = some (t, row) ∧ q = { p with pair := q.pair }) ∧
      (reg p G.pairRole = 1 → k + 1 = t → (partnerFit p = false ∨ followed = false) → p.life.shdn = false →
        ∃ q, exec (.driveRelease followed) s = .next { s with part := q } ∧ q.pair = { p.pair with handover := none } ∧
          reg q G.lastTakeover = t % 2 ^ 64 + row * 2 ^ 64 + 2 ^ 72 ∧ SameRegs p q [G.lastTakeover] ∧ q.outs = p.outs ∧ still q)) ∧
    (∀ t row, p.pair.handover = some (t, row) →
      let takes := p.pair.released = false ∧ p.pair.driveOut = true ∧ p.pair.driveIn = false ∧ (isShadow p = true ∨ 4 ≤ row)
      ((k < t ∨ (p.pair.released = false ∧ ¬ takes)) → exec .takeover s = .next s) ∧
      (t ≤ k → p.pair.released = true ∨ takes → p.life.shdn = false →
        ∃ q, exec .takeover s = .next { s with part := q } ∧ q.pair.handover = none ∧ q.pair.released = false ∧
          reg q G.takeovers = (reg p G.takeovers + 1) % 2 ^ regWidth G.takeovers ∧ reg q G.lastTakeover = t % 2 ^ 64 + row * 2 ^ 64 ∧
          (⟨25 * t, ⟨t, 0, 0xB83, 0⟩⟩ : Producer) ∈ q.fab.producers ∧ still q ∧
          (p.pair.released = true → reg q G.pairRole = 2 ∧ opened q ∧ ∀ i : Queue, reg p (G.sqEnable i) ≠ 0 → reg q (G.sqState i) = 5) ∧
          (p.pair.released = false → reg q G.pairRole = 1 ∧ (∀ i : Queue, reg p (G.sqEnable i) ≠ 0 → reg q (G.sqState i) = 1) ∧
            (p.life.powered = true → p.life.applied = true → p.life.test = 0 → st ≠ 5 → reg p G.clockState ≠ 2 → vddoLow p = false →
              ∀ d : Chan, reg p (G.outEnable d) = 1 → (outOf p d).shut = false → (outOf q d).closed = true)))) ∧
    (p.pair.handover = none → p.life.shdn = false → exec .takeover s = .next s ∧ ∀ f, exec (.driveRelease f) s = .next s)

/-- JOIN and JOIN_HANDSHAKE (R342), LEAVE and JOIN_STEP_DONE (R343). The model's own readings: log entries 2, 61 and 62. -/
def Obligations.PairsJoinAndPart : Prop :=
  ∀ (s : State) (path : Path), awake s →
    let p := s.part
    let st := reg p G.pairState
    let c := cleared p path G.pairCmd
    let no (i : Instr) (v : Nat) : Prop := exec i s = .next { s with part := tell (logAbort c path 1 6 0x1700 8 v) path 6 }
    let still (q : Part) : Prop := q.seqs = p.seqs ∧ q.mem = p.mem ∧ q.plans = p.plans ∧ q.dps = p.dps
    let ended (q : Part) (state cause : Nat) : Prop := reg q G.pairState = state ∧ reg q G.joinCause = cause ∧ reg q G.resyncStep = 0 ∧
      q.pair.handover = none ∧ q.outs = p.outs ∧ still q
    (Takes p path G.pairCmd 1 →
      ((st = 1 ∨ st = 4 ∨ st = 5) → exec (.join path) s = .next { s with part := tell { c with pair := { c.pair with wanted := true } } path 0 }) ∧
      (st ≠ 1 → st ≠ 4 → st ≠ 5 → no (.join path) 1)) ∧
    (Takes p path G.pairCmd 2 →
      (paired p = true → ∃ q, exec (.leave path) s = .next { s with part := tell q path 0 } ∧ q.sent = .pairRequest 2 :: c.sent ∧
        reg q G.pairState = 1 ∧ reg q G.resyncStep = 0 ∧ reg q G.pairRole = reg p G.pairRole ∧ q.pair.driveOut = p.pair.driveOut ∧
        q.outs = p.outs ∧ still q) ∧
      (paired p = false → no (.leave path) 2)) ∧
    (∀ x : PeerInfo,
      let may := reg p G.pairEnable = 1 ∧ (st = 1 ∨ (p.pair.wanted = true ∧ (st = 4 ∨ st = 5)))
      let cause := joinCauseOf p x
      let role := if anyRuns p then 1 else if x.running then 2 else if reg p G.pairPriority = 1 then 1 else 2
      (¬ may → exec (.joinHandshake x) s = .next s) ∧
      (may → cause ≠ 0 → ∃ q, exec (.joinHandshake x) s = .next { s with part := q } ∧ ended q (if cause = 7 then 4 else 1) cause) ∧
      (may → cause = 0 → ∀ code, role = 1 → pairBudget p = some code →
        ∃ q, exec (.joinHandshake x) s = .next { s with part := q } ∧ ended q 1 8 ∧ reg q G.admTwinCode = code) ∧
      (may → cause = 0 → (role = 1 → pairBudget p = none) →
        ∃ q, exec (.joinHandshake x) s = .next { s with part := q } ∧ reg q G.pairState = 2 ∧ reg q G.pairRole = role ∧ reg q G.resyncStep = 2 ∧
          reg q G.linkLatPs = x.latencyPs ∧ reg q G.joinCause = 0 ∧ reg q G.digestMatched = 0 ∧ q.pair.peer = some x ∧ q.pair.wanted = false ∧
          q.pair.driveOut = decide (role = 1) ∧ (role = 2 → ∀ d, (outOf q d).closed = false) ∧ q.pair.hb = none ∧
          q.pair.ringTo = (if role = 1 then ringTargets p else []) ∧
          (role = 1 → ∃ i, Out.configImage i ∈ q.sent ∧ i.edges = p.mem.edges ∧ i.descs = p.mem.descs ∧ i.trav = p.mem.trav) ∧ still q)) ∧
    (∀ r, reg p G.resyncStep = 0 ∨ paired p = false → exec (.joinStepDone r) s = .next s) ∧
    (paired p = true → reg p G.resyncStep ≠ 0 →
      (∃ q, exec (.joinStepDone .linkLost) s = .next { s with part := q } ∧ ended q 1 10) ∧
      (∀ code, ∃ q, exec (.joinStepDone (.refused code)) s = .next { s with part := q } ∧ ended q 1 8 ∧ reg q G.admTwinCode = code % 256))

/-- JOIN_STEP_DONE through the steps of Table 14-9 (R343): what each message and each end of a step does on either part of the pair.
The model's own readings: log entries 2, 13, 61 and 62. -/
def Obligations.JoinsRunTheirSteps : Prop :=
  ∀ s : State, awake s → paired s.part = true →
    let p := s.part
    let n := reg p G.resyncStep
    let shadow := isShadow p
    let run (r : JoinResult) (q : Part) : Prop := exec (.joinStepDone r) s = .next { s with part := q }
    let still (q : Part) : Prop := q.seqs = p.seqs ∧ q.plans = p.plans ∧ q.outs = p.outs ∧ q.dps = p.dps
    let size (i : Nat) : Nat := reg p (G.sqRingSize i)
    let slot (i pos : Nat) : Nat := reg p (G.sqRingBase i) + pos % size i
    (n = 2 → shadow = false → ∃ q, run .done q ∧ reg q G.resyncStep = 3 ∧ reg q G.resyncLeft = (contentBytes p).length ∧
      SameRegs p q [G.resyncStep, G.resyncLeft] ∧ q.sent = .contentHash (contentHash p) :: p.sent ∧ q.mem = p.mem ∧ q.pair = p.pair ∧ still q) ∧
    (∀ i, n = 2 → shadow = true → kwf regDefault i.regs = true → kwf (fun _ => 0) i.edges = true → kwf (fun _ => 0) i.descs = true →
      kwf (fun _ => 0) i.trav = true →
      ∃ q h, run (.config i) q ∧ reg q G.resyncStep = 3 ∧ (∀ x, mirroredKey x = true → reg q x = kget regDefault i.regs x) ∧
        q.mem = { p.mem with edges := i.edges, newEdge := i.newEdge, descs := i.descs, newDesc := i.newDesc, trav := i.trav } ∧
        Out.contentHash h ∈ q.sent ∧ ∀ x : Queue, reg q (G.sqEnable x) ≠ 0 → reg q (G.sqState x) = 5) ∧
    (∀ h, n = 3 →
      (h ≠ contentHash p → ∃ q, run (.content h) q ∧ reg q G.pairState = 1 ∧ reg q G.joinCause = 9 ∧ reg q G.resyncStep = 0 ∧ q.mem = p.mem ∧ still q) ∧
      (h = contentHash p → ∃ q, run (.content h) q ∧ reg q G.resyncStep = 4 ∧ reg q G.resyncLeft = 0 ∧ SameRegs p q [G.resyncStep, G.resyncLeft] ∧
        q.mem = p.mem ∧ still q ∧ (shadow = true → q.sent = p.sent) ∧
        (shadow = false → ∃ i, q.sent = .stateImage i :: p.sent ∧ i.seqs = p.seqs.toList ∧ i.plans = p.plans.toList ∧
          i.grps = p.grps.toList ∧ i.latches = p.fab.latches ∧ i.paced = p.paced ∧ i.commits = p.adm.plans ∧ i.opened = p.time.opened ∧
          i.ringTo = p.pair.ringTo))) ∧
    (n = 4 → shadow = false → ∃ q, run .done q ∧ reg q G.resyncStep = 5 ∧ OnlyRegs p q [G.resyncStep]) ∧
    (∀ i, n = 4 → shadow = true → reg p G.pairState = 2 → (∀ g : Grp, kfind (G.lgState g) i.shown = none) →
      ∃ q, run (.image i) q ∧ reg q G.resyncStep = 5 ∧ (∀ c : Chan, seqOf q c = i.seqs.getD c (seqOf p c)) ∧
        (∀ g : Grp, grpOf q g = i.grps.getD g (grpOf p g)) ∧ q.fab.latches = i.latches ∧ q.paced = i.paced ∧ q.adm.plans = i.commits ∧
        q.time.opened = i.opened ∧ q.pair.ringTo = i.ringTo ∧ q.mem = p.mem) ∧
    (n = 5 → (shadow = true → ∃ q, run .done q ∧ reg q G.resyncStep = 6 ∧ reg q G.resyncLeft = ringLeft p ∧
        OnlyRegs p q [G.resyncStep, G.resyncLeft]) ∧
      (∀ i w, shadow = false → p.pair.ringTo = [(i, w)] → playPos p i < w → 0 < size i → reg p G.memState ≠ 3 → p.mem.bad = [] →
        ∃ q bs, run .done q ∧ reg q G.resyncStep = 6 ∧ reg q G.resyncLeft = w - playPos p i ∧ q.sent = .ringCopy i (playPos p i) bs [] :: p.sent ∧
          bs.length = w - playPos p i ∧ (∀ j, j < bs.length → bs.getD j 0 = dramByte p.mem.dram (slot i (playPos p i + j))) ∧
          q.mem = p.mem ∧ still q)) ∧
    (∀ (i : Queue) pos data, n = 6 → shadow = true → 0 < size i → data.length ≤ size i → reg p G.memState ≠ 3 → p.mem.bad = [] →
      ∃ q, run (.ring i pos data []) q ∧ reg q G.resyncLeft = ringLeft q ∧
        (∀ j, j < data.length → dramByte q.mem.dram (slot i (pos + j)) = data.getD j 0) ∧
        (∀ x, (∀ j, j < data.length → x ≠ slot i (pos + j)) → dramByte q.mem.dram x = dramByte p.mem.dram x) ∧ q.mem.bad = [] ∧
        q.pair = { p.pair with ringTo := q.pair.ringTo } ∧
        ((kfind i p.pair.ringTo).getD 0 ≤ pos + data.length → q.pair.ringTo = kdel i.val p.pair.ringTo) ∧ still q) ∧
    (n = 6 → ∃ q, run .done q ∧ reg q G.resyncStep = 7 ∧ reg q G.pairState = 3 ∧ reg q G.resyncLeft = 0 ∧
      SameRegs p q [G.resyncStep, G.pairState, G.resyncLeft] ∧ q.pair = { p.pair with ringTo := [] } ∧ q.mem = p.mem ∧ still q) ∧
    (n = 7 → ∃ q, run .done q ∧ reg q G.resyncStep = 0 ∧ OnlyRegs p q [G.resyncStep])

/-- POWER_ON, POWER_LOSS, RST_N, RESET_CMD (R344, R373) and SUPPLY_MONITOR_RESET (R374). The model's own readings: log entries 2, 10 and 73. -/
def Obligations.ResetsClearThePart : Prop :=
  ∀ (s : State) (path : Path),
    let p := s.part
    let b := State.reset.part
    let clean (q : Part) (cause : Nat) : Prop :=
      reg q G.resetCause = cause ∧
      (∀ k, survives k = true → k ≠ G.keyDraws → (k / 256 ≠ 0x1010 ∨ kfind k p.gz.bound = none) → reg q k = reg p k) ∧
      reg q G.keyDraws = (reg p G.keyDraws + 1) % 2 ^ regWidth G.keyDraws ∧ reg q G.sealIntact = ofBool p.life.sealOk ∧
      (∀ k, survives k = false → k ∉ [G.resetCause, G.sealIntact, G.zfState, G.zfFrontier] → reg q k = regDefault k) ∧
      reg q G.zfState = 1 ∧ q.seqs = b.seqs ∧ q.plans = b.plans ∧ q.dps = b.dps ∧ q.outs = b.outs ∧ q.watch = b.watch ∧ q.grps = b.grps ∧
      q.mem = b.mem ∧ q.paced = b.paced ∧ q.strm = b.strm ∧ q.adm = b.adm ∧ q.pair = b.pair ∧ q.pl = b.pl ∧ q.time = b.time ∧
      q.gz = { b.gz with regs := q.gz.regs } ∧ q.fab = { b.fab with evio := q.fab.evio } ∧ q.life.image0 = p.life.image0 ∧ q.life.image1 = p.life.image1 ∧ q.life.flash0 = p.life.flash0 ∧
      q.life.flash1 = p.life.flash1 ∧ q.life.intent = p.life.intent ∧ q.life.test = 0 ∧ q.life.applied = false ∧
      q.sent = (if p.life.marksOn then [.markerPins false] else []) ++
        (if p.life.applied ∧ !isShadow p then [.evioPins false] else []) ++ p.sent
    (∀ ms rails, (p.life.powered = true ∨ ms < 10 ∨ rails = false) → exec (.powerOn ms rails) s = .next s) ∧
    (∀ ms, p.life.powered = false → 10 ≤ ms → ∃ q, exec (.powerOn ms true) s = .next { s with part := q } ∧ clean q 1 ∧
      q.life.powered = true ∧ q.life.held = p.life.rstN) ∧
    (p.life.powered = false → exec .powerLoss s = .next s) ∧
    (p.life.powered = true → ∃ q, exec .powerLoss s = .next { s with part := q } ∧ clean q 1 ∧ q.life.powered = false ∧
      q.life.held = true) ∧
    (p.life.rstN = true → exec (.rstN true) s = .next s) ∧
    (p.life.rstN = false → ∃ q, exec (.rstN true) s = .next { s with part := q } ∧ clean q 2 ∧ q.life.rstN = true ∧ q.life.held = true) ∧
    exec (.rstN false) s = .next { s with part := { p with life := { p.life with rstN := false, held := !p.life.powered } } } ∧
    (awake s →
      (∀ ns, ns < 10000 → exec (.supplyMonitorReset ns) s = .next s) ∧
      (∀ ns, 10000 ≤ ns → ∃ q, exec (.supplyMonitorReset ns) s = .next { s with part := q } ∧ clean q 6 ∧ q.life.held = false) ∧
      (Takes p path G.resetCmd 1 →
        (anyRuns p = true → exec (.resetCmd path 1) s =
          .next { s with part := tell (logAbort (cleared p path G.resetCmd) path 1 7 0x1900 6 1) path 7 }) ∧
        (anyRuns p = false → ∃ q, exec (.resetCmd path 1) s = .next { s with part := tell q path 0 } ∧ clean q 3)))

/-- STARTUP (R346, R348, R350, R351, Table 15-3). The model's own readings: log entries 2, 15, 42, 64, 88, 89 and 90. -/
def Obligations.StartUpBringsThePartUp : Prop :=
  ∀ (s : State) (b : BootInfo), awake s →
    let p := s.part
    let first := reg p G.fwSlotActive % 2
    (p.life.applied = true ∨ p.life.recovery = true → exec (.startup b) s = .next s) ∧
    (p.life.applied = false → p.life.recovery = false → (p.life.intent = none ∨ reg p G.lcPhase = 0) →
      (slotOk p 0 = false → slotOk p 1 = false →
        exec (.startup b) s = .next { s with part := { p with life := { p.life with recovery := true } } }) ∧
      (∀ i x, (if slotOk p first then i = first else i = 1 - first) → slotOk p i = true → fwSlot p i = some x →
        (p.life.intent.isSome → ∃ q, exec (.startup b) s = .next { s with part := q } ∧ reg q G.lcPhase = 3 ∧ reg q G.fwSlotRunning = i ∧
          reg q G.fwVersion = x.version % 2 ^ 32 ∧ q.life.applied = false ∧ q.pl.subs = [] ∧ ∀ k : Queue, reg q (G.sqEnable k) = 0) ∧
        (p.life.intent = none → ∃ q, exec (.startup b) s = .next { s with part := q } ∧ q.life.applied = true ∧ q.life.recovery = false ∧
          q.time.locked = true ∧ reg q G.hostLink = 0 ∧ q.life.sealOk = !b.sealOpen ∧ reg q G.sealIntact = ofBool (!b.sealOpen) ∧
          reg q G.nvState = (if (nvBest p).isSome then 1 else if p.life.image0.isSome ∨ p.life.image1.isSome then 2 else 0) ∧
          ((∀ n ∈ [p.life.image0, p.life.image1], ∀ m, n = some m → ∀ e ∈ m.values, ∃ t, entryOf e.1 = some t ∧ t.persist = true) →
            reg q G.fwSlotRunning = i ∧ reg q G.fwVersion = x.version % 2 ^ 32 ∧
            reg q G.fwSecurityFloor = max (reg p G.fwSecurityFloor) x.security ∧
            (p.life.bench = [] → reg p G.stResult ≠ 1 → reg q G.stStartKind = 1 ∧
              (let fails := b.phases.failBlocks ||| (if b.patternOk then 0 else 16)
               let v := x.version % 2 ^ 32
               reg q G.stFailBlocks = fails ∧
               reg q G.stResult = if fails = 0 ∧ b.phases.misr = Config.goodMisr v (Config.coverageId v) then 1 else 2))))))

/-- SHDN_N_ASSERT, RUN, SELFTEST_PHASE_DONE (R353, R354), ABORT (R355), SELFTEST_END and SHDN_N_RELEASE (R357). The model's own readings: log
entries 2, 15, 63 and 96. -/
def Obligations.ShutdownTestsRunTheirPhases : Prop :=
  ∀ (s : State) (path : Path),
    let p := s.part
    let k := p.time.tick
    let st := reg p G.stState
    let ph := reg p G.stPhase
    let lc := reg p G.lcState
    let begun (q : Part) (kind : Nat) : Prop := q.life.test = kind ∧ reg q G.stState = 1 ∧ reg q G.stPhase = 1 ∧ reg q G.stFailBlocks = 0
    let free := p.life.commit = none ∧ p.life.intent = none
    let still (q : Part) : Prop := q.seqs = p.seqs ∧ q.plans = p.plans ∧ q.mem.dram = p.mem.dram
    let stops (q : Part) : Prop := ∀ g : Grp,
      (reg p (G.lgState g) = 3 → reg q (G.lgState g) = 1 ∧ (grpOf q g).startAt = none) ∧
      (reg p (G.lgState g) = 2 ∨ reg p (G.lgState g) = 5 → reg q (G.lgState g) = 4 ∧ (grpOf q g).stopAt = some (k + 3)) ∧
      (reg p (G.lgState g) = 4 → reg q (G.lgState g) = 4 ∧ (grpOf q g).stopAt = some (min (k + 3) ((grpOf p g).stopAt.getD (k + 3)))) ∧
      (reg p (G.lgState g) < 2 → reg q (G.lgState g) = reg p (G.lgState g) ∧ grpOf q g = grpOf p g)
    (p.life.shdn = true → exec .shdnNAssert s = .next s) ∧
    (p.life.shdn = false → ∃ q, exec .shdnNAssert s = .next { s with part := q } ∧ q.life.shdn = true ∧ still q ∧
      (p.life.held = true ∨ p.life.test ≠ 0 → q = { p with life := { p.life with shdn := true } }) ∧
      (p.life.held = false → p.life.test = 0 →
        (partnerFit p = true → reg p G.pairRole = 1 → p.pair.handover = none →
          q.pair = { p.pair with handover := some (k + 4, 1) } ∧ q.life.test = 0 ∧ q.grps = p.grps) ∧
        (¬ (partnerFit p = true ∧ reg p G.pairRole = 1) → free → p.pair.handover = none → begun q 1 ∧ stops q) ∧
        (p.pair.handover.isSome → q = { p with life := { p.life with shdn := true } }) ∧
        (¬ free → ¬ (reg p G.pairState = 3 ∧ reg p G.pairRole = 1) → q = { p with life := { p.life with shdn := true } }))) ∧
    (∃ q, exec .shdnNRelease s = .next { s with part := q } ∧ q.life.shdn = false ∧
      (p.life.test = 4 → reg q G.resetCause = 5 ∧ q.life.test = 0 ∧ q.life.applied = false ∧ ∀ x, watchKept x = true → reg q x = reg p x) ∧
      (p.life.test ≠ 4 → q = { p with life := { p.life with shdn := false } })) ∧
    (awake s →
      (p.life.shdn = true → p.life.test = 0 → p.life.intent = none → p.pair.handover = none →
        (∀ m, p.life.commit = some m → ∃ q, exec .nvCommitDone s = .next { s with part := q } ∧ begun q 1 ∧ stops q)) ∧
      (p.life.shdn = true → p.life.test = 0 → free → ∀ t row, p.pair.handover = some (t, row) → p.pair.released = true → t ≤ k →
        ∃ q, exec .takeover s = .next { s with part := q } ∧ reg q G.pairRole = 2 ∧ begun q 1 ∧ stops q) ∧
      (let c := cleared p path G.stCmd
       let no (i : Instr) (code v : Nat) : Prop := exec i s = .next { s with part := tell (logAbort c path 1 code 0x1800 2 v) path code }
       (Takes p path G.stCmd 1 →
         (p.life.test ≠ 0 ∨ p.life.shdn = true → no (.run path) 6 1) ∧
         (p.life.test = 0 → p.life.shdn = false →
           (lc = 0 ∨ lc = 4 → no (.run path) 12 1) ∧
           (lc ≠ 0 → lc ≠ 4 → anyRuns p = true → no (.run path) 7 1) ∧
           (lc ≠ 0 → lc ≠ 4 → anyRuns p = false →
             ∃ q, exec (.run path) s = .next { s with part := tell q path 0 } ∧ begun q 3 ∧ still q ∧ q.outs = p.outs))) ∧
       (Takes p path G.stCmd 2 →
         let can := p.life.test ≠ 0 ∧ p.life.test < 4 ∧ (st = 1 ∨ st = 2)
         (can → ∃ q, exec (.abort path) s = .next { s with part := tell q path 0 } ∧ reg q G.stState = 5 ∧ reg q G.stPhase = 0 ∧
           q.life = p.life ∧ SameRegs c q [G.stState, G.stPhase]) ∧
         (¬ can → no (.abort path) 6 2))) ∧
      (let runs := p.life.test ≠ 0 ∧ p.life.test < 4 ∧ (st = 1 ∨ st = 2)
       (∀ r, ¬ runs → exec (.selftestPhaseDone r) s = .next s) ∧
       (∀ r, runs → ∃ q, exec (.selftestPhaseDone r) s = .next { s with part := q } ∧ q.life.test = p.life.test ∧ still q ∧
         (ph = 1 → anyRuns p = true → q = p) ∧
         (ph = 1 → anyRuns p = false → reg q G.stPhase = 2 ∧ reg q G.stState = 2 ∧ ∀ d, (outOf q d).closed = false) ∧
         (ph = 2 → testConditions r = false → reg q G.stPhase = 0 ∧ reg q G.stState = 4 ∧ q.life = p.life) ∧
         (ph = 2 → testConditions r = true → reg q G.stPhase = 3 ∧ q.life.bench.length = 64 ∧ (∀ n, 56 ≤ n → q.life.bench.getD n 0 = 0) ∧
           (∀ n, n < 56 → q.life.bench.getD n 0 = p.life.bench.getD n 0)) ∧
         (3 ≤ ph → reg q G.stFailBlocks = reg p G.stFailBlocks ||| r.failBlocks % 32) ∧
         (3 ≤ ph → ph < 7 → reg q G.stPhase = ph + 1 ∧ reg q G.stState = st ∧ q.life.bench = p.life.bench) ∧
         (ph = 7 → reg q G.stPhase = 0 ∧ reg q G.stState = 3 ∧ q.life.bench.length = 64 ∧ q.life.bench.head? = some (BitVec.ofNat 8 p.life.test) ∧
           ofBytesLE (q.life.bench.drop 60) = crc32c 0 (q.life.bench.take 60) ∧
           reg q G.stResult = (if reg q G.stValidity % 256 ≠ 255 then 3 else if bit (reg q G.stValidity) 8 then 1 else 2)))) ∧
      (∀ at_ : Cyc,
        let ended := p.life.test ≠ 0 ∧ p.life.test < 4 ∧ 3 ≤ st
        (¬ ended → exec (.selftestEnd at_) s = .next s) ∧
        (ended → ∃ q, exec (.selftestEnd at_) s = .next { s with part := q } ∧
          q.life = { p.life with test := if p.life.test = 1 ∧ p.life.shdn = true then 4 else 5 } ∧ SameRegs p q [] ∧ still q ∧
          Raised p q at_ 0xB89)) ∧
      (p.life.test = 5 → ∃ q, exec .tickBoundary s = .next { s with part := q } ∧ q.life.test = 6) ∧
      (p.life.test = 6 → ∃ q, exec .tickBoundary s = .next { s with part := q } ∧ reg q G.resetCause = 5 ∧ q.life.test = 0 ∧
        q.life.applied = false ∧ q.life.bench = p.life.bench ∧ ∀ x, watchKept x = true → reg q x = reg p x))

/-- FW_IMAGE, FW_ACTIVATE, FW_UPDATE_DONE (R348, R349), NV_COMMIT, NV_COMMIT_DONE (R352), LC_GO and LC_TRANSITION_DONE (R363 to R366). The model's
own readings: log entries 2, 8, 65 and 85. -/
def Obligations.FirmwareNvAndLifecycleChange : Prop :=
  ∀ (s : State) (path : Path), awake s →
    let p := s.part
    let lc := reg p G.lcState
    let still (q : Part) : Prop := q.seqs = p.seqs ∧ q.plans = p.plans ∧ q.outs = p.outs
    let no (i : Instr) (k code v : Nat) : Prop :=
      exec i s = .next { s with part := tell (logAbort (cleared p path k) path 1 code (k / 256) (k % 256) v) path code }
    (presenceOpen p = false → p.life.test = 0 →
      (reaches p path 0x1904 = true →
        (∀ x : FwSlot, exec (.fwImage path x) s = .next { s with part := tell (logAbort p path 1 8 0x1904 1 x.magic) path 8 }) ∧
        (∀ v, v ≤ 1 → no (.fwActivate path v) G.fwActivate 8 v)) ∧
      (reaches p path 0x1903 = true → no (.nvCommit path 1) G.nvCommit 8 1) ∧
      (reaches p path 0x1900 = true → no (.lcGo path 1) G.lcGo 8 1)) ∧
    (∀ x, TakesBulk p path G.fwImage →
      (¬ (lc = 4 ∨ (lc = 2 ∧ p.life.recovery = false)) → p.life.fwNew = none →
        (fwVerifies p x = true → ∃ q, exec (.fwImage path x) s = .next { s with part := tell q path 0 } ∧ q.life = { p.life with fwNew := some x } ∧
          reg q G.fwUpdateState = 2 ∧ SameRegs p q [G.fwUpdateState] ∧ still q) ∧
        (fwVerifies p x = false → ∃ q, exec (.fwImage path x) s = .next { s with part := tell q path 6 } ∧ q.life = p.life ∧
          reg q G.fwUpdateState = 4 ∧ still q))) ∧
    (∀ x, p.life.fwNew = some x →
      (p.life.recovery = true → ∃ q, exec .fwUpdateDone s = .next { s with part := q } ∧ q.life.flash0 = some x ∧ reg q G.fwSlotActive = 0 ∧
        reg q G.resetCause = 7 ∧ q.life.recovery = false) ∧
      (p.life.recovery = false → ∃ q, exec .fwUpdateDone s = .next { s with part := q } ∧ reg q G.fwUpdateState = 3 ∧
        SameRegs p q [G.fwUpdateState] ∧ still q ∧
        q.life = (if reg p G.fwSlotRunning = 0 then { p.life with fwNew := none, flash1 := some x }
          else { p.life with fwNew := none, flash0 := some x }))) ∧
    (p.life.fwNew = none → exec .fwUpdateDone s = .next s) ∧
    (∀ v, Takes p path G.fwActivate v →
      (slotOk p v = false → no (.fwActivate path v) G.fwActivate 6 v) ∧
      (slotOk p v = true → ∃ q, exec (.fwActivate path v) s = .next { s with part := tell q path 0 } ∧
        reg q G.fwSlotActive = v ∧ OnlyRegs (cleared p path G.fwActivate) q [G.fwSlotActive])) ∧
    (Takes p path G.nvCommit 1 →
      ((lc = 0 ∨ lc = 4) → no (.nvCommit path 1) G.nvCommit 12 1) ∧
      (lc ≠ 0 → lc ≠ 4 → p.life.commit.isSome → no (.nvCommit path 1) G.nvCommit 6 1) ∧
      (lc ≠ 0 → lc ≠ 4 → p.life.commit = none → ∃ q m, exec (.nvCommit path 1) s = .next { s with part := tell q path 0 } ∧
        q.life = { p.life with commit := some m } ∧ reg q G.nvState = 3 ∧ still q ∧
        m = nvSnapshot (cleared p path G.nvCommit) ∧ SameRegs (cleared p path G.nvCommit) q [G.nvState])) ∧
    (∀ m, p.life.commit = some m → p.life.shdn = false → ∃ q x, exec .nvCommitDone s = .next { s with part := q } ∧
      x.values = m ∧ x.key = p.life.nk ∧ reg q G.nvState = 1 ∧ q.life.commit = none ∧ still q ∧
      reg q G.nvCommits = (reg p G.nvCommits + 1) % 2 ^ regWidth G.nvCommits ∧
      (nvBest p = none → x.seq = 1 ∧ q.life.image0 = some x ∧ q.life.image1 = p.life.image1) ∧
      (∀ y, nvBest p = some (0, y) → x.seq = y.seq + 1 ∧ q.life.image1 = some x ∧ q.life.image0 = p.life.image0) ∧
      (∀ y, nvBest p = some (1, y) → x.seq = y.seq + 1 ∧ q.life.image0 = some x ∧ q.life.image1 = p.life.image1)) ∧
    (p.life.commit = none → exec .nvCommitDone s = .next s) ∧
    (Takes p path G.lcGo 1 →
      let t := reg p G.lcTarget
      ((lcPermitted lc t = false ∨ paired p = true ∨ p.life.intent.isSome) → no (.lcGo path 1) G.lcGo 12 1) ∧
      (lcPermitted lc t = true → paired p = false → p.life.intent = none →
          (anyRuns p = true → no (.lcGo path 1) G.lcGo 7 1) ∧
          (anyRuns p = false → ∃ q, exec (.lcGo path 1) s = .next { s with part := tell q path 0 } ∧ q.life.intent = some t ∧
            reg q G.lcPhase = 3 ∧ reg q G.lcState = lc ∧ q.pl.subs = [] ∧ q.adm.resv = [] ∧ (∀ i : Queue, reg q (G.sqEnable i) = 0) ∧
            (∀ g : Grp, reg q (G.lgState g) = if reg p (G.lgState g) = 1 then 0 else reg p (G.lgState g)) ∧ q.seqs = p.seqs))) ∧
    (p.life.intent = none → exec .lcTransitionDone s = .next s) ∧
    (∀ t, p.life.intent = some t →
      let filling := reg p G.zfState = 1 ∧ (reg p G.memState = 2 ∨ reg p G.memState = 4)
      (filling → exec .lcTransitionDone s = .next s) ∧
      (¬ filling → p.life.shdn = false → ∃ q, exec .lcTransitionDone s = .next { s with part := q } ∧ reg q G.lcState = t ∧
        reg q G.lcTransitions = (reg p G.lcTransitions + 1) % 2 ^ regWidth G.lcTransitions ∧ reg q G.gzLock = 0 ∧ reg q G.tamperLatched = 0 ∧
        q.life.image0 = none ∧ q.life.image1 = none ∧ q.life.intent = none ∧ reg q G.resetCause = 4 ∧ q.mem = State.reset.part.mem ∧
        (t = 4 → q.life.ik = 0 ∧ q.life.nk = 0 ∧ q.life.ak = 0 ∧ q.life.stmt = []) ∧
        (t ≠ 4 → q.life.ik = p.life.ik ∧ q.life.nk = p.life.draws + 1 ∧ q.life.ak = p.life.draws + 2)))
end

