-- ==== Sys2Proof/Laws/KMap.lean ====
section
/-!
SUPPORT. Laws of sparse maps: a value put at a key is found there and changes no other key; a map in canonical form stays in it, and two maps in
canonical form that read alike are equal.
-/

namespace Sys2Proof.Machine

variable {α : Type}

@[simp] theorem kfind_nil (k : Nat) : kfind k ([] : KMap α) = none := rfl

@[simp] theorem kfind_kput_same (k : Nat) (v : α) (m : KMap α) : kfind k (kput k v m) = some v := by
  induction m with
  | nil => simp [kput, kfind]
  | cons e r ih =>
    obtain ⟨j, w⟩ := e
    by_cases h : j = k
    · simp [kput, kfind, h]
    · by_cases g : k < j <;> simp [kput, kfind, h, g, ih]

theorem kfind_kput_ne {k i : Nat} (h : i ≠ k) (v : α) (m : KMap α) : kfind i (kput k v m) = kfind i m := by
  induction m with
  | nil => simp [kput, kfind, Ne.symm h]
  | cons e r ih =>
    obtain ⟨j, w⟩ := e
    by_cases g : j = k
    · subst g; simp [kput, kfind, Ne.symm h]
    · by_cases l : k < j <;> simp [kput, kfind, g, l, ih, Ne.symm h]

@[simp] theorem kfind_kdel_same (k : Nat) (m : KMap α) : kfind k (kdel k m) = none := by
  induction m with
  | nil => rfl
  | cons e r ih =>
    obtain ⟨j, w⟩ := e
    by_cases h : j = k <;> simp [kdel, kfind, h, ih]

theorem kfind_kdel_ne {k i : Nat} (h : i ≠ k) (m : KMap α) : kfind i (kdel k m) = kfind i m := by
  induction m with
  | nil => rfl
  | cons e r ih =>
    obtain ⟨j, w⟩ := e
    by_cases g : j = k
    · subst g; simp [kdel, kfind, ih, Ne.symm h]
    · simp [kdel, kfind, g, ih]

@[simp] theorem kget_kset_same [DecidableEq α] (d : Nat → α) (m : KMap α) (k : Nat) (v : α) : kget d (kset d m k v) k = v := by
  unfold kget kset
  by_cases h : v = d k <;> simp [h]

theorem kget_kset_ne [DecidableEq α] (d : Nat → α) (m : KMap α) {k i : Nat} (h : i ≠ k) (v : α) :
    kget d (kset d m k v) i = kget d m i := by
  unfold kget kset
  by_cases g : v = d k <;> simp [g, kfind_kdel_ne h, kfind_kput_ne h]

theorem kget_kset [DecidableEq α] (d : Nat → α) (m : KMap α) (k i : Nat) (v : α) :
    kget d (kset d m k v) i = if i = k then v else kget d m i := by
  by_cases h : i = k
  · subst h; simp
  · simp [h, kget_kset_ne d m h]

theorem kabove_mono {a b : Nat} (h : a ≤ b) {m : KMap α} (hm : kabove b m = true) : kabove a m = true := by
  cases m with
  | nil => rfl
  | cons e r =>
    obtain ⟨j, w⟩ := e
    simp only [kabove, Bool.and_eq_true, decide_eq_true_eq] at *
    exact ⟨by omega, hm.2⟩

theorem kabove_kput {b k : Nat} (v : α) (m : KMap α) (hb : b < k) (hm : kabove b m = true) : kabove b (kput k v m) = true := by
  induction m generalizing b with
  | nil => simp [kput, kabove, hb]
  | cons e r ih =>
    obtain ⟨j, w⟩ := e
    simp only [kabove, Bool.and_eq_true, decide_eq_true_eq] at hm
    by_cases h : j = k
    · subst h; simp [kput, kabove, hb, hm.2]
    · by_cases g : k < j
      · simp [kput, kabove, h, g, hb, hm.2]
      · simp [kput, kabove, h, g, hm.1, ih (by omega) hm.2]

theorem kabove_kdel {b : Nat} (k : Nat) (m : KMap α) (hm : kabove b m = true) : kabove b (kdel k m) = true := by
  induction m generalizing b with
  | nil => rfl
  | cons e r ih =>
    obtain ⟨j, w⟩ := e
    simp only [kabove, Bool.and_eq_true, decide_eq_true_eq] at hm
    by_cases h : j = k
    · simp [kdel, h]; exact kabove_mono (by omega) (ih hm.2)
    · simp [kdel, kabove, h, hm.1, ih hm.2]

theorem ksorted_kput (k : Nat) (v : α) (m : KMap α) (hm : ksorted m = true) : ksorted (kput k v m) = true := by
  cases m with
  | nil => rfl
  | cons e r =>
    obtain ⟨j, w⟩ := e
    simp only [ksorted] at hm
    by_cases h : j = k
    · subst h; simp [kput, ksorted, hm]
    · by_cases g : k < j
      · simp [kput, ksorted, kabove, h, g, hm]
      · have l : j < k := by omega
        simp [kput, ksorted, h, g, kabove_kput v r l hm]

theorem ksorted_kdel (k : Nat) (m : KMap α) (hm : ksorted m = true) : ksorted (kdel k m) = true := by
  induction m with
  | nil => rfl
  | cons e r ih =>
    obtain ⟨j, w⟩ := e
    simp only [ksorted] at hm
    have hr : ksorted r = true := by
      cases r with
      | nil => rfl
      | cons f t => obtain ⟨i, u⟩ := f; simp only [kabove, Bool.and_eq_true] at hm; exact hm.2
    by_cases h : j = k
    · simp [kdel, h, ih hr]
    · simp [kdel, ksorted, h, kabove_kdel k r hm]

theorem mem_kput {e : Nat × α} {k : Nat} {v : α} {m : KMap α} (h : e ∈ kput k v m) : e = (k, v) ∨ e ∈ m := by
  induction m with
  | nil => simpa [kput] using h
  | cons f r ih =>
    obtain ⟨j, w⟩ := f
    by_cases g : j = k
    · simp [kput, g] at h ⊢; tauto
    · by_cases l : k < j
      · simpa [kput, g, l] using h
      · simp [kput, g, l] at h ⊢; tauto

theorem mem_kdel {e : Nat × α} {k : Nat} {m : KMap α} (h : e ∈ kdel k m) : e ∈ m := by
  induction m with
  | nil => simp [kdel] at h
  | cons f r ih =>
    obtain ⟨j, w⟩ := f
    by_cases g : j = k
    · simp [kdel, g] at h ⊢; tauto
    · simp [kdel, g] at h ⊢; tauto

/-- Setting a key keeps a map in canonical form. -/
theorem kwf_kset [DecidableEq α] (d : Nat → α) (m : KMap α) (k : Nat) (v : α) (hm : kwf d m = true) : kwf d (kset d m k v) = true := by
  simp only [kwf, Bool.and_eq_true, List.all_eq_true, decide_eq_true_eq] at *
  by_cases h : v = d k
  · simp only [kset, h, if_true]
    exact ⟨ksorted_kdel k m hm.1, fun e he => hm.2 e (mem_kdel he)⟩
  · simp only [kset, h, if_false]
    refine ⟨ksorted_kput k v m hm.1, fun e he => ?_⟩
    rcases mem_kput he with rfl | he
    · exact h
    · exact hm.2 e he

theorem kabove_kfind {b i : Nat} {m : KMap α} (hm : kabove b m = true) (h : i ≤ b) : kfind i m = none := by
  induction m generalizing b with
  | nil => rfl
  | cons e r ih =>
    obtain ⟨j, w⟩ := e
    simp only [kabove, Bool.and_eq_true, decide_eq_true_eq] at hm
    have g : ¬ j = i := by omega
    simp only [kfind, g, if_false]
    exact ih hm.2 (by omega)

/-- Keeping only some keys keeps a map in canonical form. -/
theorem kwf_kkeep [DecidableEq α] (d : Nat → α) (f : Nat → Bool) (m : KMap α) (hm : kwf d m = true) : kwf d (kkeep f m) = true := by
  have above (b : Nat) (l : KMap α) (h : kabove b l = true) : kabove b (kkeep f l) = true := by
    induction l generalizing b with
    | nil => rfl
    | cons e r ih =>
      obtain ⟨j, w⟩ := e
      simp only [kabove, Bool.and_eq_true, decide_eq_true_eq] at h
      by_cases g : f j
      · simp [kkeep, g, kabove, h.1]; exact ih j h.2
      · simp [kkeep, g]; exact kabove_mono (Nat.le_of_lt h.1) (ih j h.2)
  simp only [kwf, Bool.and_eq_true, List.all_eq_true, decide_eq_true_eq] at *
  refine ⟨?_, fun e he => hm.2 e (List.mem_filter.mp he).1⟩
  cases m with
  | nil => rfl
  | cons e r =>
    obtain ⟨j, w⟩ := e
    have h : kabove j r = true := hm.1
    by_cases g : f j
    · simp [kkeep, g, ksorted]; exact above j r h
    · have ks (b : Nat) (l : KMap α) (hl : kabove b l = true) : ksorted l = true := by
        cases l with
        | nil => rfl
        | cons x t => obtain ⟨i, u⟩ := x; simp only [kabove, Bool.and_eq_true] at hl; exact hl.2
      simp [kkeep, g]; exact ks j _ (above j r h)

/-- Two maps in canonical form that read alike are equal. -/
theorem kwf_ext [DecidableEq α] (d : Nat → α) {m n : KMap α} (hm : kwf d m = true) (hn : kwf d n = true)
    (h : ∀ k, kget d m k = kget d n k) : m = n := by
  induction m generalizing n with
  | nil =>
    cases n with
    | nil => rfl
    | cons f t =>
      obtain ⟨j, w⟩ := f
      have := h j
      simp [kget, kfind, kwf] at this hn
      exact absurd this.symm hn.2.1
  | cons e r ih =>
    obtain ⟨j, w⟩ := e
    simp only [kwf, ksorted, List.all_cons, Bool.and_eq_true, decide_eq_true_eq] at hm
    cases n with
    | nil =>
      have := h j
      simp [kget, kfind] at this
      exact absurd this hm.2.1
    | cons f t =>
      obtain ⟨i, u⟩ := f
      simp only [kwf, ksorted, List.all_cons, Bool.and_eq_true, decide_eq_true_eq] at hn
      have hji : j = i := by
        rcases Nat.lt_trichotomy j i with l | l | l
        · have := h j
          have g : ¬ i = j := by omega
          simp [kget, kfind, g, kabove_kfind hn.1 (Nat.le_of_lt l)] at this
          exact absurd this hm.2.1
        · exact l
        · have := h i
          have g : ¬ j = i := by omega
          simp [kget, kfind, g, kabove_kfind hm.1 (Nat.le_of_lt l)] at this
          exact absurd this.symm hn.2.1
      subst hji
      have hwu : w = u := by have := h j; simpa [kget, kfind] using this
      subst hwu
      have sorted_of {b : Nat} {l : KMap α} (hl : kabove b l = true) : ksorted l = true := by
        cases l with
        | nil => rfl
        | cons f t => obtain ⟨i, u⟩ := f; simp only [kabove, Bool.and_eq_true] at hl; exact hl.2
      have : r = t := by
        apply ih
        · simp only [kwf, Bool.and_eq_true]; exact ⟨sorted_of hm.1, hm.2.2⟩
        · simp only [kwf, Bool.and_eq_true]; exact ⟨sorted_of hn.1, hn.2.2⟩
        · intro k
          by_cases g : j = k
          · subst g
            simp [kget, kabove_kfind hm.1 (Nat.le_refl _), kabove_kfind hn.1 (Nat.le_refl _)]
          · have := h k
            simpa [kget, kfind, g] using this
      rw [this]

end Sys2Proof.Machine
end

