-- ==== Sys2Proof/Laws/State.lean ====
section
/-!
SUPPORT. One lemma per field of the part and per update: what each of the shared updates leaves as it was, and what it leaves behind. No later
proof needs to unfold one of these updates.
-/

namespace Sys2Proof.Machine

variable (p : Part)

@[simp] theorem atCyc_gz (c : Nat) : (atCyc p c).gz = p.gz := rfl
@[simp] theorem atCyc_pl (c : Nat) : (atCyc p c).pl = p.pl := rfl
@[simp] theorem atCyc_fab (c : Nat) : (atCyc p c).fab = p.fab := rfl
@[simp] theorem atCyc_mem (c : Nat) : (atCyc p c).mem = p.mem := rfl
@[simp] theorem atCyc_seqs (c : Nat) : (atCyc p c).seqs = p.seqs := rfl
@[simp] theorem atCyc_plans (c : Nat) : (atCyc p c).plans = p.plans := rfl
@[simp] theorem atCyc_dps (c : Nat) : (atCyc p c).dps = p.dps := rfl
@[simp] theorem atCyc_outs (c : Nat) : (atCyc p c).outs = p.outs := rfl
@[simp] theorem atCyc_watch (c : Nat) : (atCyc p c).watch = p.watch := rfl
@[simp] theorem atCyc_grps (c : Nat) : (atCyc p c).grps = p.grps := rfl
@[simp] theorem atCyc_paced (c : Nat) : (atCyc p c).paced = p.paced := rfl
@[simp] theorem atCyc_strm (c : Nat) : (atCyc p c).strm = p.strm := rfl
@[simp] theorem atCyc_dram (c : Nat) : (atCyc p c).dram = p.dram := rfl
@[simp] theorem atCyc_adm (c : Nat) : (atCyc p c).adm = p.adm := rfl
@[simp] theorem atCyc_pair (c : Nat) : (atCyc p c).pair = p.pair := rfl
@[simp] theorem atCyc_life (c : Nat) : (atCyc p c).life = p.life := rfl
@[simp] theorem atCyc_sent (c : Nat) : (atCyc p c).sent = p.sent := rfl
@[simp] theorem atCyc_time_tick (c : Nat) : (atCyc p c).time.tick = p.time.tick := rfl
@[simp] theorem atCyc_time_datum (c : Nat) : (atCyc p c).time.datum = p.time.datum := rfl
@[simp] theorem atCyc_time_near (c : Nat) : (atCyc p c).time.near = p.time.near := rfl
@[simp] theorem atCyc_time_far (c : Nat) : (atCyc p c).time.far = p.time.far := rfl
@[simp] theorem atCyc_time_masterA (c : Nat) : (atCyc p c).time.masterA = p.time.masterA := rfl
@[simp] theorem atCyc_time_masterB (c : Nat) : (atCyc p c).time.masterB = p.time.masterB := rfl
@[simp] theorem atCyc_time_ptpBad (c : Nat) : (atCyc p c).time.ptpBad = p.time.ptpBad := rfl
@[simp] theorem atCyc_time_moved (c : Nat) : (atCyc p c).time.moved = p.time.moved := rfl
@[simp] theorem atCyc_time_steers (c : Nat) : (atCyc p c).time.steers = p.time.steers := rfl
@[simp] theorem atCyc_time_word (c : Nat) : (atCyc p c).time.word = p.time.word := rfl
@[simp] theorem atCyc_time_words (c : Nat) : (atCyc p c).time.words = p.time.words := rfl
@[simp] theorem atCyc_time_holdErr (c : Nat) : (atCyc p c).time.holdErr = p.time.holdErr := rfl
@[simp] theorem atCyc_time_holdAt (c : Nat) : (atCyc p c).time.holdAt = p.time.holdAt := rfl
@[simp] theorem atCyc_time_slew (c : Nat) : (atCyc p c).time.slew = p.time.slew := rfl
@[simp] theorem atCyc_time_slewAt (c : Nat) : (atCyc p c).time.slewAt = p.time.slewAt := rfl
@[simp] theorem atCyc_time_step (c : Nat) : (atCyc p c).time.step = p.time.step := rfl
@[simp] theorem atCyc_time_refinOut (c : Nat) : (atCyc p c).time.refinOut = p.time.refinOut := rfl
@[simp] theorem atCyc_time_ppsNext (c : Nat) : (atCyc p c).time.ppsNext = p.time.ppsNext := rfl
@[simp] theorem atCyc_time_ppsSeen (c : Nat) : (atCyc p c).time.ppsSeen = p.time.ppsSeen := rfl
@[simp] theorem atCyc_time_ppsOff (c : Nat) : (atCyc p c).time.ppsOff = p.time.ppsOff := rfl
@[simp] theorem atCyc_time_ppsMiss (c : Nat) : (atCyc p c).time.ppsMiss = p.time.ppsMiss := rfl
@[simp] theorem atCyc_time_syncMiss (c : Nat) : (atCyc p c).time.syncMiss = p.time.syncMiss := rfl
@[simp] theorem atCyc_time_syncTrim (c : Nat) : (atCyc p c).time.syncTrim = p.time.syncTrim := rfl
@[simp] theorem atCyc_time_alarms (c : Nat) : (atCyc p c).time.alarms = p.time.alarms := rfl
@[simp] theorem atCyc_time_presentAt (c : Nat) : (atCyc p c).time.presentAt = p.time.presentAt := rfl
@[simp] theorem atCyc_time_locked (c : Nat) : (atCyc p c).time.locked = p.time.locked := rfl
@[simp] theorem atCyc_time_opened (c : Nat) : (atCyc p c).time.opened = p.time.opened := rfl
@[simp] theorem atCyc_time_closed (c : Nat) : (atCyc p c).time.closed = p.time.closed := rfl
@[simp] theorem atCyc_time_cyc (c : Nat) : (atCyc p c).time.cyc = c := rfl
@[simp] theorem reg_atCyc (c : Nat) (i : Nat) : reg (atCyc p c) i = reg p i := rfl

@[simp] theorem say_time (o : Out) : (say p o).time = p.time := rfl
@[simp] theorem say_gz (o : Out) : (say p o).gz = p.gz := rfl
@[simp] theorem say_pl (o : Out) : (say p o).pl = p.pl := rfl
@[simp] theorem say_fab (o : Out) : (say p o).fab = p.fab := rfl
@[simp] theorem say_mem (o : Out) : (say p o).mem = p.mem := rfl
@[simp] theorem say_seqs (o : Out) : (say p o).seqs = p.seqs := rfl
@[simp] theorem say_plans (o : Out) : (say p o).plans = p.plans := rfl
@[simp] theorem say_dps (o : Out) : (say p o).dps = p.dps := rfl
@[simp] theorem say_outs (o : Out) : (say p o).outs = p.outs := rfl
@[simp] theorem say_watch (o : Out) : (say p o).watch = p.watch := rfl
@[simp] theorem say_grps (o : Out) : (say p o).grps = p.grps := rfl
@[simp] theorem say_paced (o : Out) : (say p o).paced = p.paced := rfl
@[simp] theorem say_strm (o : Out) : (say p o).strm = p.strm := rfl
@[simp] theorem say_dram (o : Out) : (say p o).dram = p.dram := rfl
@[simp] theorem say_adm (o : Out) : (say p o).adm = p.adm := rfl
@[simp] theorem say_pair (o : Out) : (say p o).pair = p.pair := rfl
@[simp] theorem say_life (o : Out) : (say p o).life = p.life := rfl
@[simp] theorem reg_say (o : Out) (i : Nat) : reg (say p o) i = reg p i := rfl

@[simp] theorem setReg_time (k v : Nat) : (setReg p k v).time = p.time := rfl
@[simp] theorem setReg_pl (k v : Nat) : (setReg p k v).pl = p.pl := rfl
@[simp] theorem setReg_fab (k v : Nat) : (setReg p k v).fab = p.fab := rfl
@[simp] theorem setReg_mem (k v : Nat) : (setReg p k v).mem = p.mem := rfl
@[simp] theorem setReg_seqs (k v : Nat) : (setReg p k v).seqs = p.seqs := rfl
@[simp] theorem setReg_plans (k v : Nat) : (setReg p k v).plans = p.plans := rfl
@[simp] theorem setReg_dps (k v : Nat) : (setReg p k v).dps = p.dps := rfl
@[simp] theorem setReg_outs (k v : Nat) : (setReg p k v).outs = p.outs := rfl
@[simp] theorem setReg_watch (k v : Nat) : (setReg p k v).watch = p.watch := rfl
@[simp] theorem setReg_grps (k v : Nat) : (setReg p k v).grps = p.grps := rfl
@[simp] theorem setReg_paced (k v : Nat) : (setReg p k v).paced = p.paced := rfl
@[simp] theorem setReg_strm (k v : Nat) : (setReg p k v).strm = p.strm := rfl
@[simp] theorem setReg_dram (k v : Nat) : (setReg p k v).dram = p.dram := rfl
@[simp] theorem setReg_adm (k v : Nat) : (setReg p k v).adm = p.adm := rfl
@[simp] theorem setReg_pair (k v : Nat) : (setReg p k v).pair = p.pair := rfl
@[simp] theorem setReg_life (k v : Nat) : (setReg p k v).life = p.life := rfl
@[simp] theorem setReg_sent (k v : Nat) : (setReg p k v).sent = p.sent := rfl
@[simp] theorem setReg_gz_pend (k v : Nat) : (setReg p k v).gz.pend = p.gz.pend := rfl
@[simp] theorem setReg_gz_bound (k v : Nat) : (setReg p k v).gz.bound = p.gz.bound := rfl
@[simp] theorem setReg_gz_work (k v : Nat) : (setReg p k v).gz.work = p.gz.work := rfl
@[simp] theorem setReg_gz_stage (k v : Nat) : (setReg p k v).gz.stage = p.gz.stage := rfl
@[simp] theorem setReg_gz_snap (k v : Nat) : (setReg p k v).gz.snap = p.gz.snap := rfl
@[simp] theorem setReg_gz_block (k v : Nat) : (setReg p k v).gz.block = p.gz.block := rfl

@[simp] theorem addReg_time (k d : Nat) : (addReg p k d).time = p.time := rfl
@[simp] theorem addReg_pl (k d : Nat) : (addReg p k d).pl = p.pl := rfl
@[simp] theorem addReg_fab (k d : Nat) : (addReg p k d).fab = p.fab := rfl
@[simp] theorem addReg_mem (k d : Nat) : (addReg p k d).mem = p.mem := rfl
@[simp] theorem addReg_seqs (k d : Nat) : (addReg p k d).seqs = p.seqs := rfl
@[simp] theorem addReg_plans (k d : Nat) : (addReg p k d).plans = p.plans := rfl
@[simp] theorem addReg_dps (k d : Nat) : (addReg p k d).dps = p.dps := rfl
@[simp] theorem addReg_outs (k d : Nat) : (addReg p k d).outs = p.outs := rfl
@[simp] theorem addReg_watch (k d : Nat) : (addReg p k d).watch = p.watch := rfl
@[simp] theorem addReg_grps (k d : Nat) : (addReg p k d).grps = p.grps := rfl
@[simp] theorem addReg_paced (k d : Nat) : (addReg p k d).paced = p.paced := rfl
@[simp] theorem addReg_strm (k d : Nat) : (addReg p k d).strm = p.strm := rfl
@[simp] theorem addReg_dram (k d : Nat) : (addReg p k d).dram = p.dram := rfl
@[simp] theorem addReg_adm (k d : Nat) : (addReg p k d).adm = p.adm := rfl
@[simp] theorem addReg_pair (k d : Nat) : (addReg p k d).pair = p.pair := rfl
@[simp] theorem addReg_life (k d : Nat) : (addReg p k d).life = p.life := rfl
@[simp] theorem addReg_sent (k d : Nat) : (addReg p k d).sent = p.sent := rfl
@[simp] theorem addReg_gz_pend (k d : Nat) : (addReg p k d).gz.pend = p.gz.pend := rfl
@[simp] theorem addReg_gz_bound (k d : Nat) : (addReg p k d).gz.bound = p.gz.bound := rfl
@[simp] theorem addReg_gz_work (k d : Nat) : (addReg p k d).gz.work = p.gz.work := rfl
@[simp] theorem addReg_gz_stage (k d : Nat) : (addReg p k d).gz.stage = p.gz.stage := rfl
@[simp] theorem addReg_gz_snap (k d : Nat) : (addReg p k d).gz.snap = p.gz.snap := rfl
@[simp] theorem addReg_gz_block (k d : Nat) : (addReg p k d).gz.block = p.gz.block := rfl

@[simp] theorem orReg_time (k m : Nat) : (orReg p k m).time = p.time := rfl
@[simp] theorem orReg_pl (k m : Nat) : (orReg p k m).pl = p.pl := rfl
@[simp] theorem orReg_fab (k m : Nat) : (orReg p k m).fab = p.fab := rfl
@[simp] theorem orReg_mem (k m : Nat) : (orReg p k m).mem = p.mem := rfl
@[simp] theorem orReg_seqs (k m : Nat) : (orReg p k m).seqs = p.seqs := rfl
@[simp] theorem orReg_plans (k m : Nat) : (orReg p k m).plans = p.plans := rfl
@[simp] theorem orReg_dps (k m : Nat) : (orReg p k m).dps = p.dps := rfl
@[simp] theorem orReg_outs (k m : Nat) : (orReg p k m).outs = p.outs := rfl
@[simp] theorem orReg_watch (k m : Nat) : (orReg p k m).watch = p.watch := rfl
@[simp] theorem orReg_grps (k m : Nat) : (orReg p k m).grps = p.grps := rfl
@[simp] theorem orReg_paced (k m : Nat) : (orReg p k m).paced = p.paced := rfl
@[simp] theorem orReg_strm (k m : Nat) : (orReg p k m).strm = p.strm := rfl
@[simp] theorem orReg_dram (k m : Nat) : (orReg p k m).dram = p.dram := rfl
@[simp] theorem orReg_adm (k m : Nat) : (orReg p k m).adm = p.adm := rfl
@[simp] theorem orReg_pair (k m : Nat) : (orReg p k m).pair = p.pair := rfl
@[simp] theorem orReg_life (k m : Nat) : (orReg p k m).life = p.life := rfl
@[simp] theorem orReg_sent (k m : Nat) : (orReg p k m).sent = p.sent := rfl
@[simp] theorem orReg_gz_pend (k m : Nat) : (orReg p k m).gz.pend = p.gz.pend := rfl
@[simp] theorem orReg_gz_bound (k m : Nat) : (orReg p k m).gz.bound = p.gz.bound := rfl
@[simp] theorem orReg_gz_work (k m : Nat) : (orReg p k m).gz.work = p.gz.work := rfl
@[simp] theorem orReg_gz_stage (k m : Nat) : (orReg p k m).gz.stage = p.gz.stage := rfl
@[simp] theorem orReg_gz_snap (k m : Nat) : (orReg p k m).gz.snap = p.gz.snap := rfl
@[simp] theorem orReg_gz_block (k m : Nat) : (orReg p k m).gz.block = p.gz.block := rfl

@[simp] theorem clrReg_time (k m : Nat) : (clrReg p k m).time = p.time := rfl
@[simp] theorem clrReg_pl (k m : Nat) : (clrReg p k m).pl = p.pl := rfl
@[simp] theorem clrReg_fab (k m : Nat) : (clrReg p k m).fab = p.fab := rfl
@[simp] theorem clrReg_mem (k m : Nat) : (clrReg p k m).mem = p.mem := rfl
@[simp] theorem clrReg_seqs (k m : Nat) : (clrReg p k m).seqs = p.seqs := rfl
@[simp] theorem clrReg_plans (k m : Nat) : (clrReg p k m).plans = p.plans := rfl
@[simp] theorem clrReg_dps (k m : Nat) : (clrReg p k m).dps = p.dps := rfl
@[simp] theorem clrReg_outs (k m : Nat) : (clrReg p k m).outs = p.outs := rfl
@[simp] theorem clrReg_watch (k m : Nat) : (clrReg p k m).watch = p.watch := rfl
@[simp] theorem clrReg_grps (k m : Nat) : (clrReg p k m).grps = p.grps := rfl
@[simp] theorem clrReg_paced (k m : Nat) : (clrReg p k m).paced = p.paced := rfl
@[simp] theorem clrReg_strm (k m : Nat) : (clrReg p k m).strm = p.strm := rfl
@[simp] theorem clrReg_dram (k m : Nat) : (clrReg p k m).dram = p.dram := rfl
@[simp] theorem clrReg_adm (k m : Nat) : (clrReg p k m).adm = p.adm := rfl
@[simp] theorem clrReg_pair (k m : Nat) : (clrReg p k m).pair = p.pair := rfl
@[simp] theorem clrReg_life (k m : Nat) : (clrReg p k m).life = p.life := rfl
@[simp] theorem clrReg_sent (k m : Nat) : (clrReg p k m).sent = p.sent := rfl
@[simp] theorem clrReg_gz_pend (k m : Nat) : (clrReg p k m).gz.pend = p.gz.pend := rfl
@[simp] theorem clrReg_gz_bound (k m : Nat) : (clrReg p k m).gz.bound = p.gz.bound := rfl
@[simp] theorem clrReg_gz_work (k m : Nat) : (clrReg p k m).gz.work = p.gz.work := rfl
@[simp] theorem clrReg_gz_stage (k m : Nat) : (clrReg p k m).gz.stage = p.gz.stage := rfl
@[simp] theorem clrReg_gz_snap (k m : Nat) : (clrReg p k m).gz.snap = p.gz.snap := rfl
@[simp] theorem clrReg_gz_block (k m : Nat) : (clrReg p k m).gz.block = p.gz.block := rfl

@[simp] theorem setRegBit_time (k i : Nat) (b : Bool) : (setRegBit p k i b).time = p.time := rfl
@[simp] theorem setRegBit_pl (k i : Nat) (b : Bool) : (setRegBit p k i b).pl = p.pl := rfl
@[simp] theorem setRegBit_fab (k i : Nat) (b : Bool) : (setRegBit p k i b).fab = p.fab := rfl
@[simp] theorem setRegBit_mem (k i : Nat) (b : Bool) : (setRegBit p k i b).mem = p.mem := rfl
@[simp] theorem setRegBit_seqs (k i : Nat) (b : Bool) : (setRegBit p k i b).seqs = p.seqs := rfl
@[simp] theorem setRegBit_plans (k i : Nat) (b : Bool) : (setRegBit p k i b).plans = p.plans := rfl
@[simp] theorem setRegBit_dps (k i : Nat) (b : Bool) : (setRegBit p k i b).dps = p.dps := rfl
@[simp] theorem setRegBit_outs (k i : Nat) (b : Bool) : (setRegBit p k i b).outs = p.outs := rfl
@[simp] theorem setRegBit_watch (k i : Nat) (b : Bool) : (setRegBit p k i b).watch = p.watch := rfl
@[simp] theorem setRegBit_grps (k i : Nat) (b : Bool) : (setRegBit p k i b).grps = p.grps := rfl
@[simp] theorem setRegBit_paced (k i : Nat) (b : Bool) : (setRegBit p k i b).paced = p.paced := rfl
@[simp] theorem setRegBit_strm (k i : Nat) (b : Bool) : (setRegBit p k i b).strm = p.strm := rfl
@[simp] theorem setRegBit_dram (k i : Nat) (b : Bool) : (setRegBit p k i b).dram = p.dram := rfl
@[simp] theorem setRegBit_adm (k i : Nat) (b : Bool) : (setRegBit p k i b).adm = p.adm := rfl
@[simp] theorem setRegBit_pair (k i : Nat) (b : Bool) : (setRegBit p k i b).pair = p.pair := rfl
@[simp] theorem setRegBit_life (k i : Nat) (b : Bool) : (setRegBit p k i b).life = p.life := rfl
@[simp] theorem setRegBit_sent (k i : Nat) (b : Bool) : (setRegBit p k i b).sent = p.sent := rfl
@[simp] theorem setRegBit_gz_pend (k i : Nat) (b : Bool) : (setRegBit p k i b).gz.pend = p.gz.pend := rfl
@[simp] theorem setRegBit_gz_bound (k i : Nat) (b : Bool) : (setRegBit p k i b).gz.bound = p.gz.bound := rfl
@[simp] theorem setRegBit_gz_work (k i : Nat) (b : Bool) : (setRegBit p k i b).gz.work = p.gz.work := rfl
@[simp] theorem setRegBit_gz_stage (k i : Nat) (b : Bool) : (setRegBit p k i b).gz.stage = p.gz.stage := rfl
@[simp] theorem setRegBit_gz_snap (k i : Nat) (b : Bool) : (setRegBit p k i b).gz.snap = p.gz.snap := rfl
@[simp] theorem setRegBit_gz_block (k i : Nat) (b : Bool) : (setRegBit p k i b).gz.block = p.gz.block := rfl

@[simp] theorem raiseAt_time (t o s g : Nat) : (raiseAt p t o s g).time = p.time := rfl
@[simp] theorem raiseAt_gz (t o s g : Nat) : (raiseAt p t o s g).gz = p.gz := rfl
@[simp] theorem raiseAt_pl (t o s g : Nat) : (raiseAt p t o s g).pl = p.pl := rfl
@[simp] theorem raiseAt_mem (t o s g : Nat) : (raiseAt p t o s g).mem = p.mem := rfl
@[simp] theorem raiseAt_seqs (t o s g : Nat) : (raiseAt p t o s g).seqs = p.seqs := rfl
@[simp] theorem raiseAt_plans (t o s g : Nat) : (raiseAt p t o s g).plans = p.plans := rfl
@[simp] theorem raiseAt_dps (t o s g : Nat) : (raiseAt p t o s g).dps = p.dps := rfl
@[simp] theorem raiseAt_outs (t o s g : Nat) : (raiseAt p t o s g).outs = p.outs := rfl
@[simp] theorem raiseAt_watch (t o s g : Nat) : (raiseAt p t o s g).watch = p.watch := rfl
@[simp] theorem raiseAt_grps (t o s g : Nat) : (raiseAt p t o s g).grps = p.grps := rfl
@[simp] theorem raiseAt_paced (t o s g : Nat) : (raiseAt p t o s g).paced = p.paced := rfl
@[simp] theorem raiseAt_strm (t o s g : Nat) : (raiseAt p t o s g).strm = p.strm := rfl
@[simp] theorem raiseAt_dram (t o s g : Nat) : (raiseAt p t o s g).dram = p.dram := rfl
@[simp] theorem raiseAt_adm (t o s g : Nat) : (raiseAt p t o s g).adm = p.adm := rfl
@[simp] theorem raiseAt_pair (t o s g : Nat) : (raiseAt p t o s g).pair = p.pair := rfl
@[simp] theorem raiseAt_life (t o s g : Nat) : (raiseAt p t o s g).life = p.life := rfl
@[simp] theorem raiseAt_sent (t o s g : Nat) : (raiseAt p t o s g).sent = p.sent := rfl
@[simp] theorem raiseAt_fab_arrivals (t o s g : Nat) : (raiseAt p t o s g).fab.arrivals = p.fab.arrivals := rfl
@[simp] theorem raiseAt_fab_lastAt (t o s g : Nat) : (raiseAt p t o s g).fab.lastAt = p.fab.lastAt := rfl
@[simp] theorem raiseAt_fab_captured (t o s g : Nat) : (raiseAt p t o s g).fab.captured = p.fab.captured := rfl
@[simp] theorem raiseAt_fab_fires (t o s g : Nat) : (raiseAt p t o s g).fab.fires = p.fab.fires := rfl
@[simp] theorem raiseAt_fab_msixAt (t o s g : Nat) : (raiseAt p t o s g).fab.msixAt = p.fab.msixAt := rfl
@[simp] theorem raiseAt_fab_latches (t o s g : Nat) : (raiseAt p t o s g).fab.latches = p.fab.latches := rfl
@[simp] theorem raiseAt_fab_evio (t o s g : Nat) : (raiseAt p t o s g).fab.evio = p.fab.evio := rfl
@[simp] theorem raiseAt_fab_delayed (t o s g : Nat) : (raiseAt p t o s g).fab.delayed = p.fab.delayed := rfl
@[simp] theorem raiseAt_fab_log (t o s g : Nat) : (raiseAt p t o s g).fab.log = p.fab.log := rfl
@[simp] theorem reg_raiseAt (t o s g : Nat) (i : Nat) : reg (raiseAt p t o s g) i = reg p i := rfl

@[simp] theorem raiseNow_time (s : Nat) : (raiseNow p s).time = p.time := rfl
@[simp] theorem raiseNow_gz (s : Nat) : (raiseNow p s).gz = p.gz := rfl
@[simp] theorem raiseNow_pl (s : Nat) : (raiseNow p s).pl = p.pl := rfl
@[simp] theorem raiseNow_mem (s : Nat) : (raiseNow p s).mem = p.mem := rfl
@[simp] theorem raiseNow_seqs (s : Nat) : (raiseNow p s).seqs = p.seqs := rfl
@[simp] theorem raiseNow_plans (s : Nat) : (raiseNow p s).plans = p.plans := rfl
@[simp] theorem raiseNow_dps (s : Nat) : (raiseNow p s).dps = p.dps := rfl
@[simp] theorem raiseNow_outs (s : Nat) : (raiseNow p s).outs = p.outs := rfl
@[simp] theorem raiseNow_watch (s : Nat) : (raiseNow p s).watch = p.watch := rfl
@[simp] theorem raiseNow_grps (s : Nat) : (raiseNow p s).grps = p.grps := rfl
@[simp] theorem raiseNow_paced (s : Nat) : (raiseNow p s).paced = p.paced := rfl
@[simp] theorem raiseNow_strm (s : Nat) : (raiseNow p s).strm = p.strm := rfl
@[simp] theorem raiseNow_dram (s : Nat) : (raiseNow p s).dram = p.dram := rfl
@[simp] theorem raiseNow_adm (s : Nat) : (raiseNow p s).adm = p.adm := rfl
@[simp] theorem raiseNow_pair (s : Nat) : (raiseNow p s).pair = p.pair := rfl
@[simp] theorem raiseNow_life (s : Nat) : (raiseNow p s).life = p.life := rfl
@[simp] theorem raiseNow_sent (s : Nat) : (raiseNow p s).sent = p.sent := rfl
@[simp] theorem raiseNow_fab_arrivals (s : Nat) : (raiseNow p s).fab.arrivals = p.fab.arrivals := rfl
@[simp] theorem raiseNow_fab_lastAt (s : Nat) : (raiseNow p s).fab.lastAt = p.fab.lastAt := rfl
@[simp] theorem raiseNow_fab_captured (s : Nat) : (raiseNow p s).fab.captured = p.fab.captured := rfl
@[simp] theorem raiseNow_fab_fires (s : Nat) : (raiseNow p s).fab.fires = p.fab.fires := rfl
@[simp] theorem raiseNow_fab_msixAt (s : Nat) : (raiseNow p s).fab.msixAt = p.fab.msixAt := rfl
@[simp] theorem raiseNow_fab_latches (s : Nat) : (raiseNow p s).fab.latches = p.fab.latches := rfl
@[simp] theorem raiseNow_fab_evio (s : Nat) : (raiseNow p s).fab.evio = p.fab.evio := rfl
@[simp] theorem raiseNow_fab_delayed (s : Nat) : (raiseNow p s).fab.delayed = p.fab.delayed := rfl
@[simp] theorem raiseNow_fab_log (s : Nat) : (raiseNow p s).fab.log = p.fab.log := rfl
@[simp] theorem reg_raiseNow (s : Nat) (i : Nat) : reg (raiseNow p s) i = reg p i := rfl

@[simp] theorem setSeq_time (c : Chan) (x : Seq) : (setSeq p c x).time = p.time := rfl
@[simp] theorem setSeq_gz (c : Chan) (x : Seq) : (setSeq p c x).gz = p.gz := rfl
@[simp] theorem setSeq_pl (c : Chan) (x : Seq) : (setSeq p c x).pl = p.pl := rfl
@[simp] theorem setSeq_fab (c : Chan) (x : Seq) : (setSeq p c x).fab = p.fab := rfl
@[simp] theorem setSeq_mem (c : Chan) (x : Seq) : (setSeq p c x).mem = p.mem := rfl
@[simp] theorem setSeq_plans (c : Chan) (x : Seq) : (setSeq p c x).plans = p.plans := rfl
@[simp] theorem setSeq_dps (c : Chan) (x : Seq) : (setSeq p c x).dps = p.dps := rfl
@[simp] theorem setSeq_outs (c : Chan) (x : Seq) : (setSeq p c x).outs = p.outs := rfl
@[simp] theorem setSeq_watch (c : Chan) (x : Seq) : (setSeq p c x).watch = p.watch := rfl
@[simp] theorem setSeq_grps (c : Chan) (x : Seq) : (setSeq p c x).grps = p.grps := rfl
@[simp] theorem setSeq_paced (c : Chan) (x : Seq) : (setSeq p c x).paced = p.paced := rfl
@[simp] theorem setSeq_strm (c : Chan) (x : Seq) : (setSeq p c x).strm = p.strm := rfl
@[simp] theorem setSeq_dram (c : Chan) (x : Seq) : (setSeq p c x).dram = p.dram := rfl
@[simp] theorem setSeq_adm (c : Chan) (x : Seq) : (setSeq p c x).adm = p.adm := rfl
@[simp] theorem setSeq_pair (c : Chan) (x : Seq) : (setSeq p c x).pair = p.pair := rfl
@[simp] theorem setSeq_life (c : Chan) (x : Seq) : (setSeq p c x).life = p.life := rfl
@[simp] theorem setSeq_sent (c : Chan) (x : Seq) : (setSeq p c x).sent = p.sent := rfl
@[simp] theorem reg_setSeq (c : Chan) (x : Seq) (i : Nat) : reg (setSeq p c x) i = reg p i := rfl

@[simp] theorem setDp_time (c : Chan) (x : Dp) : (setDp p c x).time = p.time := rfl
@[simp] theorem setDp_gz (c : Chan) (x : Dp) : (setDp p c x).gz = p.gz := rfl
@[simp] theorem setDp_pl (c : Chan) (x : Dp) : (setDp p c x).pl = p.pl := rfl
@[simp] theorem setDp_fab (c : Chan) (x : Dp) : (setDp p c x).fab = p.fab := rfl
@[simp] theorem setDp_mem (c : Chan) (x : Dp) : (setDp p c x).mem = p.mem := rfl
@[simp] theorem setDp_seqs (c : Chan) (x : Dp) : (setDp p c x).seqs = p.seqs := rfl
@[simp] theorem setDp_plans (c : Chan) (x : Dp) : (setDp p c x).plans = p.plans := rfl
@[simp] theorem setDp_outs (c : Chan) (x : Dp) : (setDp p c x).outs = p.outs := rfl
@[simp] theorem setDp_watch (c : Chan) (x : Dp) : (setDp p c x).watch = p.watch := rfl
@[simp] theorem setDp_grps (c : Chan) (x : Dp) : (setDp p c x).grps = p.grps := rfl
@[simp] theorem setDp_paced (c : Chan) (x : Dp) : (setDp p c x).paced = p.paced := rfl
@[simp] theorem setDp_strm (c : Chan) (x : Dp) : (setDp p c x).strm = p.strm := rfl
@[simp] theorem setDp_dram (c : Chan) (x : Dp) : (setDp p c x).dram = p.dram := rfl
@[simp] theorem setDp_adm (c : Chan) (x : Dp) : (setDp p c x).adm = p.adm := rfl
@[simp] theorem setDp_pair (c : Chan) (x : Dp) : (setDp p c x).pair = p.pair := rfl
@[simp] theorem setDp_life (c : Chan) (x : Dp) : (setDp p c x).life = p.life := rfl
@[simp] theorem setDp_sent (c : Chan) (x : Dp) : (setDp p c x).sent = p.sent := rfl
@[simp] theorem reg_setDp (c : Chan) (x : Dp) (i : Nat) : reg (setDp p c x) i = reg p i := rfl

@[simp] theorem setOut_time (c : Chan) (x : OutSt) : (setOut p c x).time = p.time := rfl
@[simp] theorem setOut_gz (c : Chan) (x : OutSt) : (setOut p c x).gz = p.gz := rfl
@[simp] theorem setOut_pl (c : Chan) (x : OutSt) : (setOut p c x).pl = p.pl := rfl
@[simp] theorem setOut_fab (c : Chan) (x : OutSt) : (setOut p c x).fab = p.fab := rfl
@[simp] theorem setOut_mem (c : Chan) (x : OutSt) : (setOut p c x).mem = p.mem := rfl
@[simp] theorem setOut_seqs (c : Chan) (x : OutSt) : (setOut p c x).seqs = p.seqs := rfl
@[simp] theorem setOut_plans (c : Chan) (x : OutSt) : (setOut p c x).plans = p.plans := rfl
@[simp] theorem setOut_dps (c : Chan) (x : OutSt) : (setOut p c x).dps = p.dps := rfl
@[simp] theorem setOut_watch (c : Chan) (x : OutSt) : (setOut p c x).watch = p.watch := rfl
@[simp] theorem setOut_grps (c : Chan) (x : OutSt) : (setOut p c x).grps = p.grps := rfl
@[simp] theorem setOut_paced (c : Chan) (x : OutSt) : (setOut p c x).paced = p.paced := rfl
@[simp] theorem setOut_strm (c : Chan) (x : OutSt) : (setOut p c x).strm = p.strm := rfl
@[simp] theorem setOut_dram (c : Chan) (x : OutSt) : (setOut p c x).dram = p.dram := rfl
@[simp] theorem setOut_adm (c : Chan) (x : OutSt) : (setOut p c x).adm = p.adm := rfl
@[simp] theorem setOut_pair (c : Chan) (x : OutSt) : (setOut p c x).pair = p.pair := rfl
@[simp] theorem setOut_life (c : Chan) (x : OutSt) : (setOut p c x).life = p.life := rfl
@[simp] theorem setOut_sent (c : Chan) (x : OutSt) : (setOut p c x).sent = p.sent := rfl
@[simp] theorem reg_setOut (c : Chan) (x : OutSt) (i : Nat) : reg (setOut p c x) i = reg p i := rfl

@[simp] theorem setGrp_time (g : Grp) (x : GroupSt) : (setGrp p g x).time = p.time := rfl
@[simp] theorem setGrp_gz (g : Grp) (x : GroupSt) : (setGrp p g x).gz = p.gz := rfl
@[simp] theorem setGrp_pl (g : Grp) (x : GroupSt) : (setGrp p g x).pl = p.pl := rfl
@[simp] theorem setGrp_fab (g : Grp) (x : GroupSt) : (setGrp p g x).fab = p.fab := rfl
@[simp] theorem setGrp_mem (g : Grp) (x : GroupSt) : (setGrp p g x).mem = p.mem := rfl
@[simp] theorem setGrp_seqs (g : Grp) (x : GroupSt) : (setGrp p g x).seqs = p.seqs := rfl
@[simp] theorem setGrp_plans (g : Grp) (x : GroupSt) : (setGrp p g x).plans = p.plans := rfl
@[simp] theorem setGrp_dps (g : Grp) (x : GroupSt) : (setGrp p g x).dps = p.dps := rfl
@[simp] theorem setGrp_outs (g : Grp) (x : GroupSt) : (setGrp p g x).outs = p.outs := rfl
@[simp] theorem setGrp_watch (g : Grp) (x : GroupSt) : (setGrp p g x).watch = p.watch := rfl
@[simp] theorem setGrp_paced (g : Grp) (x : GroupSt) : (setGrp p g x).paced = p.paced := rfl
@[simp] theorem setGrp_strm (g : Grp) (x : GroupSt) : (setGrp p g x).strm = p.strm := rfl
@[simp] theorem setGrp_dram (g : Grp) (x : GroupSt) : (setGrp p g x).dram = p.dram := rfl
@[simp] theorem setGrp_adm (g : Grp) (x : GroupSt) : (setGrp p g x).adm = p.adm := rfl
@[simp] theorem setGrp_pair (g : Grp) (x : GroupSt) : (setGrp p g x).pair = p.pair := rfl
@[simp] theorem setGrp_life (g : Grp) (x : GroupSt) : (setGrp p g x).life = p.life := rfl
@[simp] theorem setGrp_sent (g : Grp) (x : GroupSt) : (setGrp p g x).sent = p.sent := rfl
@[simp] theorem reg_setGrp (g : Grp) (x : GroupSt) (i : Nat) : reg (setGrp p g x) i = reg p i := rfl

@[simp] theorem putPlan_time (c : Chan) (t : TickPlan) : (putPlan p c t).time = p.time := rfl
@[simp] theorem putPlan_gz (c : Chan) (t : TickPlan) : (putPlan p c t).gz = p.gz := rfl
@[simp] theorem putPlan_pl (c : Chan) (t : TickPlan) : (putPlan p c t).pl = p.pl := rfl
@[simp] theorem putPlan_fab (c : Chan) (t : TickPlan) : (putPlan p c t).fab = p.fab := rfl
@[simp] theorem putPlan_mem (c : Chan) (t : TickPlan) : (putPlan p c t).mem = p.mem := rfl
@[simp] theorem putPlan_seqs (c : Chan) (t : TickPlan) : (putPlan p c t).seqs = p.seqs := rfl
@[simp] theorem putPlan_dps (c : Chan) (t : TickPlan) : (putPlan p c t).dps = p.dps := rfl
@[simp] theorem putPlan_outs (c : Chan) (t : TickPlan) : (putPlan p c t).outs = p.outs := rfl
@[simp] theorem putPlan_watch (c : Chan) (t : TickPlan) : (putPlan p c t).watch = p.watch := rfl
@[simp] theorem putPlan_grps (c : Chan) (t : TickPlan) : (putPlan p c t).grps = p.grps := rfl
@[simp] theorem putPlan_paced (c : Chan) (t : TickPlan) : (putPlan p c t).paced = p.paced := rfl
@[simp] theorem putPlan_strm (c : Chan) (t : TickPlan) : (putPlan p c t).strm = p.strm := rfl
@[simp] theorem putPlan_dram (c : Chan) (t : TickPlan) : (putPlan p c t).dram = p.dram := rfl
@[simp] theorem putPlan_adm (c : Chan) (t : TickPlan) : (putPlan p c t).adm = p.adm := rfl
@[simp] theorem putPlan_pair (c : Chan) (t : TickPlan) : (putPlan p c t).pair = p.pair := rfl
@[simp] theorem putPlan_life (c : Chan) (t : TickPlan) : (putPlan p c t).life = p.life := rfl
@[simp] theorem putPlan_sent (c : Chan) (t : TickPlan) : (putPlan p c t).sent = p.sent := rfl
@[simp] theorem reg_putPlan (c : Chan) (t : TickPlan) (i : Nat) : reg (putPlan p c t) i = reg p i := rfl

@[simp] theorem addOp_time (c : Chan) (m : Nat) (o : RegOp) : (addOp p c m o).time = p.time := rfl
@[simp] theorem addOp_gz (c : Chan) (m : Nat) (o : RegOp) : (addOp p c m o).gz = p.gz := rfl
@[simp] theorem addOp_pl (c : Chan) (m : Nat) (o : RegOp) : (addOp p c m o).pl = p.pl := rfl
@[simp] theorem addOp_fab (c : Chan) (m : Nat) (o : RegOp) : (addOp p c m o).fab = p.fab := rfl
@[simp] theorem addOp_mem (c : Chan) (m : Nat) (o : RegOp) : (addOp p c m o).mem = p.mem := rfl
@[simp] theorem addOp_seqs (c : Chan) (m : Nat) (o : RegOp) : (addOp p c m o).seqs = p.seqs := rfl
@[simp] theorem addOp_dps (c : Chan) (m : Nat) (o : RegOp) : (addOp p c m o).dps = p.dps := rfl
@[simp] theorem addOp_outs (c : Chan) (m : Nat) (o : RegOp) : (addOp p c m o).outs = p.outs := rfl
@[simp] theorem addOp_watch (c : Chan) (m : Nat) (o : RegOp) : (addOp p c m o).watch = p.watch := rfl
@[simp] theorem addOp_grps (c : Chan) (m : Nat) (o : RegOp) : (addOp p c m o).grps = p.grps := rfl
@[simp] theorem addOp_paced (c : Chan) (m : Nat) (o : RegOp) : (addOp p c m o).paced = p.paced := rfl
@[simp] theorem addOp_strm (c : Chan) (m : Nat) (o : RegOp) : (addOp p c m o).strm = p.strm := rfl
@[simp] theorem addOp_dram (c : Chan) (m : Nat) (o : RegOp) : (addOp p c m o).dram = p.dram := rfl
@[simp] theorem addOp_adm (c : Chan) (m : Nat) (o : RegOp) : (addOp p c m o).adm = p.adm := rfl
@[simp] theorem addOp_pair (c : Chan) (m : Nat) (o : RegOp) : (addOp p c m o).pair = p.pair := rfl
@[simp] theorem addOp_life (c : Chan) (m : Nat) (o : RegOp) : (addOp p c m o).life = p.life := rfl
@[simp] theorem addOp_sent (c : Chan) (m : Nat) (o : RegOp) : (addOp p c m o).sent = p.sent := rfl
@[simp] theorem reg_addOp (c : Chan) (m : Nat) (o : RegOp) (i : Nat) : reg (addOp p c m o) i = reg p i := rfl

@[simp] theorem addEff_time (c : Chan) (m r n : Nat) (e : Eff) : (addEff p c m r n e).time = p.time := rfl
@[simp] theorem addEff_gz (c : Chan) (m r n : Nat) (e : Eff) : (addEff p c m r n e).gz = p.gz := rfl
@[simp] theorem addEff_pl (c : Chan) (m r n : Nat) (e : Eff) : (addEff p c m r n e).pl = p.pl := rfl
@[simp] theorem addEff_fab (c : Chan) (m r n : Nat) (e : Eff) : (addEff p c m r n e).fab = p.fab := rfl
@[simp] theorem addEff_mem (c : Chan) (m r n : Nat) (e : Eff) : (addEff p c m r n e).mem = p.mem := rfl
@[simp] theorem addEff_seqs (c : Chan) (m r n : Nat) (e : Eff) : (addEff p c m r n e).seqs = p.seqs := rfl
@[simp] theorem addEff_dps (c : Chan) (m r n : Nat) (e : Eff) : (addEff p c m r n e).dps = p.dps := rfl
@[simp] theorem addEff_outs (c : Chan) (m r n : Nat) (e : Eff) : (addEff p c m r n e).outs = p.outs := rfl
@[simp] theorem addEff_watch (c : Chan) (m r n : Nat) (e : Eff) : (addEff p c m r n e).watch = p.watch := rfl
@[simp] theorem addEff_grps (c : Chan) (m r n : Nat) (e : Eff) : (addEff p c m r n e).grps = p.grps := rfl
@[simp] theorem addEff_paced (c : Chan) (m r n : Nat) (e : Eff) : (addEff p c m r n e).paced = p.paced := rfl
@[simp] theorem addEff_strm (c : Chan) (m r n : Nat) (e : Eff) : (addEff p c m r n e).strm = p.strm := rfl
@[simp] theorem addEff_dram (c : Chan) (m r n : Nat) (e : Eff) : (addEff p c m r n e).dram = p.dram := rfl
@[simp] theorem addEff_adm (c : Chan) (m r n : Nat) (e : Eff) : (addEff p c m r n e).adm = p.adm := rfl
@[simp] theorem addEff_pair (c : Chan) (m r n : Nat) (e : Eff) : (addEff p c m r n e).pair = p.pair := rfl
@[simp] theorem addEff_life (c : Chan) (m r n : Nat) (e : Eff) : (addEff p c m r n e).life = p.life := rfl
@[simp] theorem addEff_sent (c : Chan) (m r n : Nat) (e : Eff) : (addEff p c m r n e).sent = p.sent := rfl
@[simp] theorem reg_addEff (c : Chan) (m r n : Nat) (e : Eff) (i : Nat) : reg (addEff p c m r n e) i = reg p i := rfl

@[simp] theorem addPulse_time (c : Chan) (m n s g : Nat) : (addPulse p c m n s g).time = p.time := rfl
@[simp] theorem addPulse_gz (c : Chan) (m n s g : Nat) : (addPulse p c m n s g).gz = p.gz := rfl
@[simp] theorem addPulse_pl (c : Chan) (m n s g : Nat) : (addPulse p c m n s g).pl = p.pl := rfl
@[simp] theorem addPulse_fab (c : Chan) (m n s g : Nat) : (addPulse p c m n s g).fab = p.fab := rfl
@[simp] theorem addPulse_mem (c : Chan) (m n s g : Nat) : (addPulse p c m n s g).mem = p.mem := rfl
@[simp] theorem addPulse_seqs (c : Chan) (m n s g : Nat) : (addPulse p c m n s g).seqs = p.seqs := rfl
@[simp] theorem addPulse_dps (c : Chan) (m n s g : Nat) : (addPulse p c m n s g).dps = p.dps := rfl
@[simp] theorem addPulse_outs (c : Chan) (m n s g : Nat) : (addPulse p c m n s g).outs = p.outs := rfl
@[simp] theorem addPulse_watch (c : Chan) (m n s g : Nat) : (addPulse p c m n s g).watch = p.watch := rfl
@[simp] theorem addPulse_grps (c : Chan) (m n s g : Nat) : (addPulse p c m n s g).grps = p.grps := rfl
@[simp] theorem addPulse_paced (c : Chan) (m n s g : Nat) : (addPulse p c m n s g).paced = p.paced := rfl
@[simp] theorem addPulse_strm (c : Chan) (m n s g : Nat) : (addPulse p c m n s g).strm = p.strm := rfl
@[simp] theorem addPulse_dram (c : Chan) (m n s g : Nat) : (addPulse p c m n s g).dram = p.dram := rfl
@[simp] theorem addPulse_adm (c : Chan) (m n s g : Nat) : (addPulse p c m n s g).adm = p.adm := rfl
@[simp] theorem addPulse_pair (c : Chan) (m n s g : Nat) : (addPulse p c m n s g).pair = p.pair := rfl
@[simp] theorem addPulse_life (c : Chan) (m n s g : Nat) : (addPulse p c m n s g).life = p.life := rfl
@[simp] theorem addPulse_sent (c : Chan) (m n s g : Nat) : (addPulse p c m n s g).sent = p.sent := rfl
@[simp] theorem reg_addPulse (c : Chan) (m n s g : Nat) (i : Nat) : reg (addPulse p c m n s g) i = reg p i := rfl

@[simp] theorem addActed_time (c : Chan) (m g : Nat) : (addActed p c m g).time = p.time := rfl
@[simp] theorem addActed_gz (c : Chan) (m g : Nat) : (addActed p c m g).gz = p.gz := rfl
@[simp] theorem addActed_pl (c : Chan) (m g : Nat) : (addActed p c m g).pl = p.pl := rfl
@[simp] theorem addActed_fab (c : Chan) (m g : Nat) : (addActed p c m g).fab = p.fab := rfl
@[simp] theorem addActed_mem (c : Chan) (m g : Nat) : (addActed p c m g).mem = p.mem := rfl
@[simp] theorem addActed_seqs (c : Chan) (m g : Nat) : (addActed p c m g).seqs = p.seqs := rfl
@[simp] theorem addActed_dps (c : Chan) (m g : Nat) : (addActed p c m g).dps = p.dps := rfl
@[simp] theorem addActed_outs (c : Chan) (m g : Nat) : (addActed p c m g).outs = p.outs := rfl
@[simp] theorem addActed_watch (c : Chan) (m g : Nat) : (addActed p c m g).watch = p.watch := rfl
@[simp] theorem addActed_grps (c : Chan) (m g : Nat) : (addActed p c m g).grps = p.grps := rfl
@[simp] theorem addActed_paced (c : Chan) (m g : Nat) : (addActed p c m g).paced = p.paced := rfl
@[simp] theorem addActed_strm (c : Chan) (m g : Nat) : (addActed p c m g).strm = p.strm := rfl
@[simp] theorem addActed_dram (c : Chan) (m g : Nat) : (addActed p c m g).dram = p.dram := rfl
@[simp] theorem addActed_adm (c : Chan) (m g : Nat) : (addActed p c m g).adm = p.adm := rfl
@[simp] theorem addActed_pair (c : Chan) (m g : Nat) : (addActed p c m g).pair = p.pair := rfl
@[simp] theorem addActed_life (c : Chan) (m g : Nat) : (addActed p c m g).life = p.life := rfl
@[simp] theorem addActed_sent (c : Chan) (m g : Nat) : (addActed p c m g).sent = p.sent := rfl
@[simp] theorem reg_addActed (c : Chan) (m g : Nat) (i : Nat) : reg (addActed p c m g) i = reg p i := rfl

@[simp] theorem dropLatch_time (k : Nat) : (dropLatch p k).time = p.time := rfl
@[simp] theorem dropLatch_gz (k : Nat) : (dropLatch p k).gz = p.gz := rfl
@[simp] theorem dropLatch_pl (k : Nat) : (dropLatch p k).pl = p.pl := rfl
@[simp] theorem dropLatch_mem (k : Nat) : (dropLatch p k).mem = p.mem := rfl
@[simp] theorem dropLatch_seqs (k : Nat) : (dropLatch p k).seqs = p.seqs := rfl
@[simp] theorem dropLatch_plans (k : Nat) : (dropLatch p k).plans = p.plans := rfl
@[simp] theorem dropLatch_dps (k : Nat) : (dropLatch p k).dps = p.dps := rfl
@[simp] theorem dropLatch_outs (k : Nat) : (dropLatch p k).outs = p.outs := rfl
@[simp] theorem dropLatch_watch (k : Nat) : (dropLatch p k).watch = p.watch := rfl
@[simp] theorem dropLatch_grps (k : Nat) : (dropLatch p k).grps = p.grps := rfl
@[simp] theorem dropLatch_paced (k : Nat) : (dropLatch p k).paced = p.paced := rfl
@[simp] theorem dropLatch_strm (k : Nat) : (dropLatch p k).strm = p.strm := rfl
@[simp] theorem dropLatch_dram (k : Nat) : (dropLatch p k).dram = p.dram := rfl
@[simp] theorem dropLatch_adm (k : Nat) : (dropLatch p k).adm = p.adm := rfl
@[simp] theorem dropLatch_pair (k : Nat) : (dropLatch p k).pair = p.pair := rfl
@[simp] theorem dropLatch_life (k : Nat) : (dropLatch p k).life = p.life := rfl
@[simp] theorem dropLatch_sent (k : Nat) : (dropLatch p k).sent = p.sent := rfl
@[simp] theorem dropLatch_fab_producers (k : Nat) : (dropLatch p k).fab.producers = p.fab.producers := rfl
@[simp] theorem dropLatch_fab_arrivals (k : Nat) : (dropLatch p k).fab.arrivals = p.fab.arrivals := rfl
@[simp] theorem dropLatch_fab_lastAt (k : Nat) : (dropLatch p k).fab.lastAt = p.fab.lastAt := rfl
@[simp] theorem dropLatch_fab_captured (k : Nat) : (dropLatch p k).fab.captured = p.fab.captured := rfl
@[simp] theorem dropLatch_fab_fires (k : Nat) : (dropLatch p k).fab.fires = p.fab.fires := rfl
@[simp] theorem dropLatch_fab_msixAt (k : Nat) : (dropLatch p k).fab.msixAt = p.fab.msixAt := rfl
@[simp] theorem dropLatch_fab_evio (k : Nat) : (dropLatch p k).fab.evio = p.fab.evio := rfl
@[simp] theorem dropLatch_fab_delayed (k : Nat) : (dropLatch p k).fab.delayed = p.fab.delayed := rfl
@[simp] theorem dropLatch_fab_log (k : Nat) : (dropLatch p k).fab.log = p.fab.log := rfl
@[simp] theorem reg_dropLatch (k : Nat) (i : Nat) : reg (dropLatch p k) i = reg p i := rfl

@[simp] theorem say_sent (o : Out) : (say p o).sent = o :: p.sent := rfl

/-! ## The register file -/

theorem reg_setReg (k v i : Nat) : reg (setReg p k v) i = if i = k then v else reg p i := kget_kset _ _ _ _ _

@[simp] theorem reg_setReg_same (k v : Nat) : reg (setReg p k v) k = v := by simp [reg_setReg]

theorem reg_setReg_ne {k i : Nat} (h : i ≠ k) (v : Nat) : reg (setReg p k v) i = reg p i := by simp [reg_setReg, h]

theorem reg_addReg (k d i : Nat) : reg (addReg p k d) i = if i = k then (reg p k + d) % 2 ^ regWidth k else reg p i := reg_setReg ..

theorem reg_orReg (k m i : Nat) : reg (orReg p k m) i = if i = k then reg p k ||| m else reg p i := reg_setReg ..

theorem reg_clrReg (k m i : Nat) : reg (clrReg p k m) i = if i = k then reg p k ^^^ (reg p k &&& m) else reg p i := reg_setReg ..

theorem reg_setRegBit (k b i : Nat) (x : Bool) :
    reg (setRegBit p k b x) i = if i = k then putBits (reg p k) b 1 (ofBool x) else reg p i := reg_setReg ..

/-! ## Units of which there are several -/

theorem vget_set_same {α : Type} {n : Nat} (v : Vector α n) (i : Fin n) (x : α) : (v.set i.val x i.isLt).get i = x :=
  Vector.getElem_set_self i.isLt

theorem vget_set_ne {α : Type} {n : Nat} (v : Vector α n) {i j : Fin n} (h : j ≠ i) (x : α) : (v.set i.val x i.isLt).get j = v.get j :=
  Vector.getElem_set_ne i.isLt j.isLt fun e => h (Fin.ext e.symm)

@[simp] theorem seqOf_setSeq_same (c : Chan) (x : Seq) : seqOf (setSeq p c x) c = x := vget_set_same ..

theorem seqOf_setSeq_ne {c d : Chan} (h : d ≠ c) (x : Seq) : seqOf (setSeq p c x) d = seqOf p d := vget_set_ne _ h _

@[simp] theorem dpOf_setDp_same (c : Chan) (x : Dp) : dpOf (setDp p c x) c = x := vget_set_same ..

theorem dpOf_setDp_ne {c d : Chan} (h : d ≠ c) (x : Dp) : dpOf (setDp p c x) d = dpOf p d := vget_set_ne _ h _

@[simp] theorem outOf_setOut_same (c : Chan) (x : OutSt) : outOf (setOut p c x) c = x := vget_set_same ..

theorem outOf_setOut_ne {c d : Chan} (h : d ≠ c) (x : OutSt) : outOf (setOut p c x) d = outOf p d := vget_set_ne _ h _

@[simp] theorem grpOf_setGrp_same (c : Grp) (x : GroupSt) : grpOf (setGrp p c x) c = x := vget_set_same ..

theorem grpOf_setGrp_ne {c d : Grp} (h : d ≠ c) (x : GroupSt) : grpOf (setGrp p c x) d = grpOf p d := vget_set_ne _ h _

@[simp] theorem latchAt_dropLatch_same (k : Nat) : latchAt (dropLatch p k) k = none := by simp [latchAt, dropLatch]

theorem latchAt_dropLatch_ne {k i : Nat} (h : i ≠ k) : latchAt (dropLatch p k) i = latchAt p i := by simp [latchAt, dropLatch, kfind_kdel_ne h]

@[simp] theorem raiseAt_producers (t o s g : Nat) :
    (raiseAt p t o s g).fab.producers = p.fab.producers ++ [⟨25 * t + o / 10, ⟨t, o, s, g⟩⟩] := rfl

end Sys2Proof.Machine
end

