-- ==== Sys2Proof/Laws/Steps.lean ====
section
/-!
SUPPORT. What a step of a sequencer changes: how the shared operations add to a channel's plan, when the commands of the sequencer answer a
next state, and which step runs at a boundary.
-/

namespace Sys2Proof.Machine

variable {p q : Part} {c d : Chan} {m k : Nat}

theorem planOf_tick (p : Part) (c : Chan) (m : Nat) : (planOf p c m).tick = m := by
  unfold planOf
  cases h : (p.plans.get c).find? fun t => decide (t.tick = m) with
  | none => rfl
  | some t => simpa using List.find?_some h

theorem find_filter_append {l : List TickPlan} (t : TickPlan) :
    ((l.filter fun u => u.tick ≠ t.tick) ++ [t]).find? (fun u => decide (u.tick = t.tick)) = some t := by
  rw [List.find?_append, List.find?_eq_none.mpr]
  · simp
  · intro x hx
    simpa using (List.mem_filter.mp hx).2

theorem find_filter_append_ne {l : List TickPlan} {t : TickPlan} (h : k ≠ t.tick) :
    ((l.filter fun u => u.tick ≠ t.tick) ++ [t]).find? (fun u => decide (u.tick = k)) = l.find? fun u => decide (u.tick = k) := by
  induction l with
  | nil => simp [h.symm]
  | cons a l ih =>
    by_cases ha : a.tick = t.tick
    · rw [List.filter_cons_of_neg (by simpa using ha), ih, List.find?_cons_of_neg]
      simpa [ha] using h.symm
    · rw [List.filter_cons_of_pos (by simpa using ha), List.cons_append]
      by_cases hk : a.tick = k
      · rw [List.find?_cons_of_pos (by simpa using hk), List.find?_cons_of_pos (by simpa using hk)]
      · rw [List.find?_cons_of_neg (by simpa using hk), List.find?_cons_of_neg (by simpa using hk), ih]

/-- The plan put for its tick is the one that stands there. -/
theorem planOf_putPlan_same (t : TickPlan) (h : t.tick = m) : planOf (putPlan p c t) c m = t := by
  subst h
  unfold planOf putPlan
  rw [vget_set_same, find_filter_append]
  rfl

/-- Putting a plan leaves the channel's plans for other ticks. -/
theorem planOf_putPlan_tick (t : TickPlan) (h : k ≠ t.tick) : planOf (putPlan p c t) c k = planOf p c k := by
  unfold planOf putPlan
  rw [vget_set_same, find_filter_append_ne h]

/-- Putting a plan leaves the plans of the other channels. -/
theorem planOf_putPlan_chan (t : TickPlan) (h : d ≠ c) (k : Nat) : planOf (putPlan p c t) d k = planOf p d k := by
  unfold planOf putPlan
  rw [vget_set_ne (h := h)]

@[simp] theorem planOf_setSeq (p : Part) (c : Chan) (s : Seq) (d : Chan) (k : Nat) : planOf (setSeq p c s) d k = planOf p d k := rfl
@[simp] theorem seqOf_putPlan (p : Part) (c : Chan) (t : TickPlan) (d : Chan) : seqOf (putPlan p c t) d = seqOf p d := rfl

theorem planOf_addOp (x : RegOp) : planOf (addOp p c m x) c m = { planOf p c m with ops := (planOf p c m).ops ++ [x] } :=
  planOf_putPlan_same _ (planOf_tick ..)
theorem planOf_addEff (r n : Nat) (x : Eff) :
    planOf (addEff p c m r n x) c m = { planOf p c m with effs := insertEff ⟨n, r, x⟩ (planOf p c m).effs } :=
  planOf_putPlan_same _ (planOf_tick ..)
theorem planOf_addActed (g : Nat) : planOf (addActed p c m g) c m = { planOf p c m with acted := (planOf p c m).acted ++ [g] } :=
  planOf_putPlan_same _ (planOf_tick ..)
theorem planOf_addPulse (n s g : Nat) :
    planOf (addPulse p c m n s g) c m = { planOf p c m with pulses := (planOf p c m).pulses ++ [⟨n / 250, n % 250, s, g⟩] } :=
  planOf_putPlan_same _ (planOf_tick ..)
theorem planOf_addSpan {x : Span} (h : x.begin_ < x.end_) :
    planOf (addSpan p c m x) c m = { planOf p c m with spans := (planOf p c m).spans ++ [x] } := by
  rw [addSpan, if_pos h]
  exact planOf_putPlan_same _ (planOf_tick ..)

/-- Which latches of several are empty afterwards. -/
theorem latchAt_dropLatches (l : List Nat) (p : Part) (k : Nat) : latchAt (dropLatches p l) k = if k ∈ l then none else latchAt p k := by
  induction l generalizing p with
  | nil => simp [dropLatches]
  | cons a l ih =>
    show latchAt (dropLatches (dropLatch p a) l) k = _
    rw [ih]
    by_cases hk : k = a
    · subst hk; simp
    · simp [hk, latchAt_dropLatch_ne (h := hk)]

/-- Emptying latches changes nothing else. -/
theorem dropLatches_eq (l : List Nat) (p : Part) :
    dropLatches p l = { p with fab := { p.fab with latches := (dropLatches p l).fab.latches } } := by
  induction l generalizing p with
  | nil => rfl
  | cons a l ih =>
    show dropLatches (dropLatch p a) l = { p with fab := { p.fab with latches := (dropLatches (dropLatch p a) l).fab.latches } }
    rw [ih]
    rfl

/-- Acting on pulses changes plans only. -/
theorem actedAll_eq {α : Type} (f : α → Nat) (l : List α) (m : Nat) (p : Part) :
    l.foldl (fun q e => addActed q c m (f e)) p = { p with plans := (l.foldl (fun q e => addActed q c m (f e)) p).plans } := by
  induction l generalizing p with
  | nil => rfl
  | cons a l ih =>
    rw [List.foldl_cons, ih]
    rfl

/-- The generations that were acted on stand in the plan in their order. -/
theorem actedAll_acted {α : Type} (f : α → Nat) (l : List α) (m : Nat) (p : Part) :
    (planOf (l.foldl (fun q e => addActed q c m (f e)) p) c m).acted = (planOf p c m).acted ++ l.map f := by
  induction l generalizing p with
  | nil => simp
  | cons a l ih =>
    rw [List.foldl_cons, ih, planOf_addActed]
    simp

theorem StepAdds.refl (p : Part) (c : Chan) : StepAdds p p c [] [] [] := by
  simp only [StepAdds, OnlyChan, List.append_nil, List.foldl_nil, and_self, implies_true]

variable {o : List RegOp} {e : List EffAt} {u : List Pulse}

/-- A change of the channel's sequencer adds nothing to its plan. -/
theorem StepAdds.setSeq (h : StepAdds p q c o e u) (s : Seq) : StepAdds p (setSeq q c s) c o e u := by
  obtain ⟨⟨h1, h2⟩, h3, h4⟩ := h
  refine ⟨⟨?_, fun d hd => ⟨?_, (h2 d hd).2⟩⟩, h3, h4⟩
  · conv_lhs => rw [h1]
    rfl
  · rw [seqOf_setSeq_ne _ hd, (h2 d hd).1]

/-- A plan put for the tick that is planned stands in place of the one before. -/
theorem StepAdds.putPlan (h : StepAdds p q c o e u) (t : TickPlan) (o' : List RegOp) (e' : List EffAt) (u' : List Pulse)
    (ht : t = { planOf q c (planTick p) with ops := (planOf q c (planTick p)).ops ++ o',
                                              effs := e'.foldl (fun l x => insertEff x l) (planOf q c (planTick p)).effs,
                                              pulses := (planOf q c (planTick p)).pulses ++ u' }) :
    StepAdds p (putPlan q c t) c (o ++ o') (e ++ e') (u ++ u') := by
  obtain ⟨⟨h1, h2⟩, h3, h4⟩ := h
  have ht' : t.tick = planTick p := by rw [ht]; exact planOf_tick ..
  refine ⟨⟨?_, fun d hd => ⟨(h2 d hd).1, fun k => ?_⟩⟩, fun k hk => ?_, ?_⟩
  · conv_lhs => rw [h1]
    rfl
  · rw [planOf_putPlan_chan _ hd, (h2 d hd).2]
  · rw [planOf_putPlan_tick _ (ht'.symm ▸ hk), h3 k hk]
  · rw [planOf_putPlan_same _ ht', ht, h4]
    simp [List.append_assoc, List.foldl_append]

theorem StepAdds.addOp (h : StepAdds p q c o e u) (x : RegOp) : StepAdds p (addOp q c (planTick p) x) c (o ++ [x]) e u := by
  have := h.putPlan { planOf q c (planTick p) with ops := (planOf q c (planTick p)).ops ++ [x] } [x] [] [] (by simp only [List.append_nil, List.foldl_nil])
  rwa [List.append_nil, List.append_nil] at this

theorem StepAdds.addEff (h : StepAdds p q c o e u) (r n : Nat) (x : Eff) :
    StepAdds p (addEff q c (planTick p) r n x) c o (e ++ [⟨n, r, x⟩]) u := by
  have := h.putPlan { planOf q c (planTick p) with effs := insertEff ⟨n, r, x⟩ (planOf q c (planTick p)).effs } [] [⟨n, r, x⟩] []
    (by simp only [List.append_nil, List.foldl_cons, List.foldl_nil])
  rwa [List.append_nil, List.append_nil] at this

theorem StepAdds.addPulse (h : StepAdds p q c o e u) (n src gen : Nat) :
    StepAdds p (addPulse q c (planTick p) n src gen) c o e (u ++ [⟨n / 250, n % 250, src, gen⟩]) := by
  have := h.putPlan { planOf q c (planTick p) with pulses := (planOf q c (planTick p)).pulses ++ [⟨n / 250, n % 250, src, gen⟩] } [] []
    [⟨n / 250, n % 250, src, gen⟩] (by simp only [List.append_nil, List.foldl_nil])
  rwa [List.append_nil, List.append_nil] at this

/-- No sequencer is stuck where none of the others was and the channel's own is not. -/
theorem stuckChan_none (h : ∀ d pc w, (seqOf p d).act ≠ .stuck pc w) : stuckChan p = none := by
  unfold stuckChan
  rw [List.findSome?_eq_none_iff]
  intro d _
  cases hd : (seqOf p d).act <;> first | rfl | (exact absurd hd (h d _ _))

/-- A command of a sequencer that leaves no sequencer stuck answers a next state. -/
theorem liftSeq_next {f : Part → Part} {s : State} (hw : awake s) (h : ∀ d pc w, (seqOf (f s.part) d).act ≠ .stuck pc w) :
    liftSeq f s = .next { s with part := f s.part } := by
  unfold liftSeq
  unfold awake at hw
  simp [hw, stuckChan_none h]

/-- A command that acts on an awake part answers a next state. -/
theorem lift_next {f : Part → Part} {s : State} (hw : awake s) : lift f s = .next { s with part := f s.part } := by
  unfold lift
  unfold awake at hw
  simp [hw]

/-- Where the decide stage is open, a part of it runs on the part as it is. -/
theorem inStage_open {f : Part → Part} (h : StageOpen p) : inStage f p = f p := by
  have h1 : p.time.opened = p.time.tick + 2 := h.1
  simp [inStage, openStage, coreStopped, h1, h.2]

/-- A step command runs its step where the channel stands at a step. -/
theorem runStep_atStep {pc : Nat} {i : Step} (h : AtStep p c pc) : runStep c i p = execStep p c (planTick p) pc i := by
  obtain ⟨h0, h1, h2, h3, h4, h5, _⟩ := h
  have hb : behind (seqOf p c) (planTick p) = true := by simpa [behind, h1] using h2
  rw [runStep, inStage_open h0, h1]
  simp only [hb, if_true]
  unfold advStep
  simp only [h3, if_neg h4, if_neg (Nat.not_le.mpr h5)]

/-- A step command at its boundary answers the next state that its step makes, unless its own channel is stuck there. -/
theorem stepNext {s : State} {pc : Nat} {i : Step} {q : Part} (hw : awake s) (h : AtStep s.part c pc) (hq : execStep s.part c (planTick s.part) pc i = q)
    (hs : ∀ d, d ≠ c → seqOf q d = seqOf s.part d) (hc : ∀ pc w, (seqOf q c).act ≠ .stuck pc w) :
    liftSeq (runStep c i) s = .next { s with part := q } := by
  rw [liftSeq_next hw, runStep_atStep h, hq]
  rw [runStep_atStep h, hq]
  intro d pc' w
  by_cases hd : d = c
  · subst hd; exact hc pc' w
  · rw [hs d hd]; exact h.2.2.2.2.2.2 d hd pc' w

/-- A step that adds to the plan of its channel answers the state it makes. -/
theorem stepAdds_next {s : State} {pc : Nat} {i : Step} {q : Part} (hw : awake s) (h : AtStep s.part c pc)
    (hq : execStep s.part c (planTick s.part) pc i = q) (ha : StepAdds s.part q c o e u) (hc : ∀ pc w, (seqOf q c).act ≠ .stuck pc w) :
    liftSeq (runStep c i) s = .next { s with part := q } :=
  stepNext hw h hq (fun d hd => (ha.1.2 d hd).1) hc

/-- The same, with the sequencer that the step leaves. -/
theorem stepAdds_exists {s : State} {pc : Nat} {i : Step} {q : Part} {x : Seq} (hw : awake s) (h : AtStep s.part c pc)
    (hq : execStep s.part c (planTick s.part) pc i = setSeq q c x) (ha : StepAdds s.part q c o e u) (hc : ∀ pc w, x.act ≠ .stuck pc w) :
    ∃ r, liftSeq (runStep c i) s = .next { s with part := r } ∧ StepAdds s.part r c o e u ∧ seqOf r c = x :=
  ⟨_, stepAdds_next hw h hq (ha.setSeq x) (by rw [seqOf_setSeq_same]; exact hc), ha.setSeq x, seqOf_setSeq_same ..⟩

theorem countStep_adds (p : Part) (c : Chan) : StepAdds p (countStep p c (planTick p)) c [.add (G.seqSteps c) 1] [] [] :=
  (StepAdds.refl p c).addOp _

@[simp] theorem seqOf_countStep (p : Part) (c : Chan) (m : Nat) (d : Chan) : seqOf (countStep p c m) d = seqOf p d := rfl
@[simp] theorem seqOf_addOp (p : Part) (c : Chan) (m : Nat) (o : RegOp) (d : Chan) : seqOf (addOp p c m o) d = seqOf p d := rfl
@[simp] theorem seqOf_addEff (p : Part) (c : Chan) (m r n : Nat) (e : Eff) (d : Chan) : seqOf (addEff p c m r n e) d = seqOf p d := rfl
@[simp] theorem seqOf_addPulse (p : Part) (c : Chan) (m n s g : Nat) (d : Chan) : seqOf (addPulse p c m n s g) d = seqOf p d := rfl
@[simp] theorem seqOf_addActed (p : Part) (c : Chan) (m g : Nat) (d : Chan) : seqOf (addActed p c m g) d = seqOf p d := rfl
@[simp] theorem seqOf_dropLatch (p : Part) (k : Nat) (d : Chan) : seqOf (dropLatch p k) d = seqOf p d := rfl
@[simp] theorem planned_countStep (p : Part) (c : Chan) (m k : Nat) : planned (countStep p c m) k = planned p k := rfl

/-- Counting a step does not move the ENDL that pairs with a LOOP. -/
theorem findEndl_countStep (m i f o k : Nat) : findEndl (countStep p c m) i f o k = findEndl p i f o k := by
  induction f generalizing o k with
  | zero => rfl
  | succ f ih =>
    have hw : ∀ j, stepWord (countStep p c m) i j = stepWord p i j := fun _ => rfl
    unfold findEndl
    rw [planned_countStep, hw, ih, ih, ih]

variable {pc : Nat}

/-- The sequencer of channel c about to execute step x at the same sample. -/
def Seq.goOn (s : Seq) (x : Nat) : Seq := { s with act := .run x, fresh := false, seam := false }

/-- LOOP with room on the stack and a paired ENDL (R144). -/
theorem execStep_loop {x : Nat} (count : Nat) (hl : (seqOf p c).loops.length < 8)
    (he : findEndl p c (planned p (G.trvSize c)) (pc + 1) 0 = some x) :
    execStep p c m pc (.loop count) = setSeq (countStep p c m) c { (seqOf p c).goOn (pc + 1) with
      loops := ⟨pc + 1, x, if count = 0 then none else some count⟩ :: (seqOf p c).loops } := by
  rw [execStep, seqOf_countStep]
  dsimp only
  rw [if_neg (Nat.not_le.mpr hl), planned_countStep, findEndl_countStep, he]
  rfl

/-- LOOP with 8 entries on the stack is a situation that the walk of R158 excludes. -/
theorem execStep_loop_over (count : Nat) (hl : 8 ≤ (seqOf p c).loops.length) :
    execStep p c m pc (.loop count) = getStuck (countStep p c m) c pc .loopOverflow := by
  rw [execStep, seqOf_countStep]
  rw [if_pos hl]

/-- LOOP without an ENDL that pairs with it (R158). -/
theorem execStep_loop_noEndl (count : Nat) (hl : (seqOf p c).loops.length < 8)
    (he : findEndl p c (planned p (G.trvSize c)) (pc + 1) 0 = none) :
    execStep p c m pc (.loop count) = getStuck (countStep p c m) c pc .noEndl := by
  rw [execStep, seqOf_countStep]
  rw [if_neg (Nat.not_le.mpr hl), planned_countStep, findEndl_countStep, he]

/-- ENDL with its entry on top of the loop stack (R144). -/
theorem execStep_endl {x : LoopEntry} {r : List LoopEntry} (h : (seqOf p c).loops = x :: r) :
    execStep p c m pc .endl = setSeq (countStep p c m) c (match x.remain with
      | none => (seqOf p c).goOn x.body
      | some k => if k ≤ 1 then { (seqOf p c).goOn (pc + 1) with loops := r }
        else { (seqOf p c).goOn x.body with loops := { x with remain := some (k - 1) } :: r }) := by
  rw [execStep, seqOf_countStep]
  dsimp only
  rw [h]
  dsimp only
  cases x.remain with
  | none => rfl
  | some k => dsimp only; split <;> rfl

/-- ENDL with no loop entered (R158). -/
theorem execStep_endl_under (h : (seqOf p c).loops = []) : execStep p c m pc .endl = getStuck (countStep p c m) c pc .loopUnderflow := by
  rw [execStep, seqOf_countStep]
  rw [h]

/-- CALL with room on the call stack (R145). -/
theorem execStep_call {t : Target} {x : Nat} (ht : targetOffset p c t = some x) (hl : (seqOf p c).calls.length < 8) :
    execStep p c m pc (.call t) = setSeq (countStep p c m) c { (seqOf p c).goOn x with
      calls := ⟨pc + 1, (seqOf p c).loops.length⟩ :: (seqOf p c).calls } := by
  rw [execStep, seqOf_countStep]
  dsimp only
  rw [if_neg (Nat.not_le.mpr hl), show targetOffset (countStep p c m) c t = some x from ht]
  rfl

/-- CALL with 8 entries on the stack (R158). -/
theorem execStep_call_over (t : Target) (hl : 8 ≤ (seqOf p c).calls.length) :
    execStep p c m pc (.call t) = getStuck (countStep p c m) c pc .callOverflow := by
  rw [execStep, seqOf_countStep]
  rw [if_pos hl]

/-- CALL of a Waypoint that is not valid (R158). -/
theorem execStep_call_bad {t : Target} (ht : targetOffset p c t = none) (hl : (seqOf p c).calls.length < 8) :
    execStep p c m pc (.call t) = getStuck (countStep p c m) c pc .badWaypoint := by
  rw [execStep, seqOf_countStep]
  rw [if_neg (Nat.not_le.mpr hl), show targetOffset (countStep p c m) c t = none from ht]

/-- RET (R145). -/
theorem execStep_ret {x : CallEntry} {r : List CallEntry} (h : (seqOf p c).calls = x :: r) :
    execStep p c m pc .ret = setSeq (countStep p c m) c { (seqOf p c).goOn x.ret with
      calls := r, loops := (seqOf p c).loops.drop ((seqOf p c).loops.length - x.depth) } := by
  rw [execStep, seqOf_countStep]
  dsimp only
  rw [h]
  rfl

/-- RET with no call to return from (R158). -/
theorem execStep_ret_under (h : (seqOf p c).calls = []) : execStep p c m pc .ret = getStuck (countStep p c m) c pc .callUnderflow := by
  rw [execStep, seqOf_countStep]
  rw [h]

/-- Going to a target that names a step (R146). -/
theorem goTarget_some {t : Target} {x n : Nat} (ht : targetOffset p c t = some x) :
    goTarget p c pc n t = setSeq p c { (seqOf p c).goOn x with at_ := n, loops := popOut (seqOf p c) x } := by
  rw [goTarget, ht]
  rfl

/-- JUMP (R146). -/
theorem execStep_jump {t : Target} {x : Nat} (ht : targetOffset p c t = some x) :
    execStep p c m pc (.jump t) = setSeq (countStep p c m) c { (seqOf p c).goOn x with loops := popOut (seqOf p c) x } := by
  rw [execStep, seqOf_countStep]
  dsimp only
  rw [goTarget_some (show targetOffset (countStep p c m) c t = some x from ht)]
  rfl

/-- JUMP to a Waypoint that is not valid (R158). -/
theorem execStep_jump_bad {t : Target} (ht : targetOffset p c t = none) :
    execStep p c m pc (.jump t) = getStuck (countStep p c m) c pc .badWaypoint := by
  rw [execStep]
  rw [goTarget, show targetOffset (countStep p c m) c t = none from ht]

/-- A step command whose step gets stuck faults with the reason: no other sequencer stands still. -/
theorem step_fault {s : State} {i : Step} {q : Part} {w : StuckWhy} (hw : awake s) (h : AtStep s.part c pc)
    (hq : execStep s.part c (planTick s.part) pc i = getStuck q c pc w) (hs : ∀ d, seqOf q d = seqOf s.part d) :
    liftSeq (runStep c i) s = .fault (.sequencer c w) := by
  have hc : stuckChan (getStuck q c pc w) = some (c, w) := by
    unfold stuckChan
    have hx : ∀ d, (match (seqOf (getStuck q c pc w) d).act with
        | .stuck _ w => some (d, w)
        | _ => none) = if d = c then some (c, w) else none := by
      intro d
      by_cases hd : d = c
      · subst hd
        simp [getStuck]
      · rw [if_neg hd, getStuck, seqOf_setSeq_ne (h := hd), hs]
        have := h.2.2.2.2.2.2 d hd
        cases ha : (seqOf s.part d).act <;> first | rfl | exact absurd ha (this _ _)
    refine (congrArg (fun f => List.findSome? f (List.finRange 256)) (funext hx)).trans ?_
    have : ∀ l : List Chan, c ∈ l → l.findSome? (fun d => if d = c then some (c, w) else none) = some (c, w) := by
      intro l hl
      induction l with
      | nil => simp at hl
      | cons a l ih =>
        rw [List.findSome?_cons]
        by_cases ha : a = c
        · simp [ha]
        · rw [if_neg ha]
          exact ih ((List.mem_cons.mp hl).resolve_left fun e => ha e.symm)
    exact this _ (List.mem_finRange c)
  unfold liftSeq
  unfold awake at hw
  rw [runStep_atStep h, hq]
  simp [hw, hc]

end Sys2Proof.Machine
end

