-- ==== Sys2Proof/Laws/Reserve.lean ====
section
/-!
SUPPORT. What ending and making the reservation of a stream play changes (R253, R267): the counts of the queues, the open reservations, and the
STREAM_LOW pulse.
-/

namespace Sys2Proof.Machine

variable {p q r : Part} {c d : Chan}

/-- The registers in which a queue counts its reserved, placed and skipped bytes. -/
def qkey (k : Nat) : Prop := ∃ i, k = G.sqReserved i ∨ k = G.sqPlaypos i ∨ k = G.sqAhead i ∨ k = G.sqSkipped i

/-- What reserving and skipping stream bytes can change. -/
def QFrame (p q : Part) : Prop :=
  q = { p with gz := { p.gz with regs := q.gz.regs }, strm := { p.strm with open_ := q.strm.open_, armed := q.strm.armed },
               fab := { p.fab with producers := q.fab.producers } } ∧
  ∀ k, ¬ qkey k → reg q k = reg p k

theorem QFrame.refl (p : Part) : QFrame p p := ⟨rfl, fun _ _ => rfl⟩

theorem QFrame.trans (h : QFrame p q) (g : QFrame q r) : QFrame p r := by
  refine ⟨?_, fun k hk => (g.2 k hk).trans (h.2 k hk)⟩
  obtain ⟨h, -⟩ := h
  obtain ⟨g, -⟩ := g
  rw [g]
  conv_lhs => rw [h]

theorem QFrame.setReg (h : QFrame p q) {k v : Nat} (hk : qkey k) : QFrame p (setReg q k v) := by
  refine h.trans ⟨rfl, fun j hj => ?_⟩
  rw [reg_setReg, if_neg]
  intro e; subst e; exact hj hk

theorem QFrame.addReg (h : QFrame p q) {k v : Nat} (hk : qkey k) : QFrame p (addReg q k v) := h.setReg hk

theorem QFrame.fold {α : Type} {f : Part → α → Part} {l : List α} (hf : ∀ q, ∀ x ∈ l, QFrame p q → QFrame p (f q x)) (h : QFrame p q) :
    QFrame p (l.foldl f q) := by
  induction l generalizing q with
  | nil => exact h
  | cons a l ih => exact ih (fun q x hx hq => hf q x (List.mem_cons_of_mem _ hx) hq) (hf q a (List.mem_cons_self ..) h)

/-- What skipping stream bytes can change: the counts of skipped bytes. -/
def SFrame (p q : Part) : Prop :=
  q = { p with gz := { p.gz with regs := q.gz.regs } } ∧ ∀ k, (¬ ∃ i, k = G.sqSkipped i) → reg q k = reg p k

theorem SFrame.refl (p : Part) : SFrame p p := ⟨rfl, fun _ _ => rfl⟩

theorem SFrame.trans (h : SFrame p q) (g : SFrame q r) : SFrame p r := by
  refine ⟨?_, fun k hk => (g.2 k hk).trans (h.2 k hk)⟩
  obtain ⟨h, -⟩ := h
  obtain ⟨g, -⟩ := g
  rw [g]
  conv_lhs => rw [h]

theorem SFrame.fold {α : Type} {f : Part → α → Part} {l : List α} (hf : ∀ q x, SFrame q (f q x)) (q : Part) : SFrame q (l.foldl f q) := by
  induction l generalizing q with
  | nil => exact .refl _
  | cons a l ih => exact (hf q a).trans (ih _)

/-- Bytes written and never played are counted, and nothing else happens. -/
theorem skipTo_frame (p : Part) (c : Chan) (n : Nat) : SFrame p (skipTo p c n) := by
  unfold skipTo
  refine SFrame.fold (fun q e => ?_) p
  dsimp only
  split
  · exact .refl _
  · refine ⟨rfl, fun k hk => ?_⟩
    rw [Machine.addReg, reg_setReg, if_neg]
    intro e'; exact hk ⟨_, e'⟩

theorem SFrame.toQ (h : SFrame p q) : QFrame p q := ⟨by rw [h.1], fun k hk => h.2 k fun ⟨i, hi⟩ => hk ⟨i, .inr (.inr (.inr hi))⟩⟩

/-- The reservation of a channel ends. -/
theorem endReservation_frame (p : Part) (c : Chan) :
    ∃ q, SFrame p q ∧ endReservation p c = { q with strm := { q.strm with open_ := p.strm.open_.filter fun e => e.2.1 ≠ c.val } } := by
  have h := SFrame.fold (l := p.strm.open_.filter fun e => e.2.1 = c.val) (fun q (e : Nat × Nat × Nat × Nat) => skipTo_frame q c e.2.2.2) p
  refine ⟨_, h, ?_⟩
  unfold endReservation
  dsimp only
  rw [show ((p.strm.open_.filter fun e => e.2.1 = c.val).foldl (fun q e => skipTo q c e.2.2.2) p).strm.open_ = p.strm.open_ from by rw [h.1]]

/-- SQ_PLAYPOS and SQ_AHEAD are brought up to date; STREAM_LOW may pulse. -/
theorem settleQueue_frame (p : Part) (i : Nat) :
    QFrame p (settleQueue p i) ∧ (settleQueue p i).strm.open_ = p.strm.open_ ∧
      ∀ j, reg (settleQueue p i) (G.sqReserved j) = reg p (G.sqReserved j) := by
  have h1 : QFrame p (setReg (setReg p (G.sqPlaypos i) (playPos p i)) (G.sqAhead i) (ofSigned 64 (aheadOf p i))) :=
    ((QFrame.refl p).setReg ⟨i, .inr (.inl rfl)⟩).setReg ⟨i, .inr (.inr (.inl rfl))⟩
  have h2 : ∀ j, reg (setReg (setReg p (G.sqPlaypos i) (playPos p i)) (G.sqAhead i) (ofSigned 64 (aheadOf p i))) (G.sqReserved j) =
      reg p (G.sqReserved j) := by
    intro j
    rw [reg_setReg, if_neg (by unfold G.sqReserved G.sqAhead gkey; omega), reg_setReg, if_neg (by unfold G.sqReserved G.sqPlaypos gkey; omega)]
  have h3 : (setReg (setReg p (G.sqPlaypos i) (playPos p i)) (G.sqAhead i) (ofSigned 64 (aheadOf p i))).strm.open_ = p.strm.open_ := rfl
  unfold settleQueue
  generalize setReg (setReg p (G.sqPlaypos i) (playPos p i)) (G.sqAhead i) (ofSigned 64 (aheadOf p i)) = q at h1 h2 h3 ⊢
  dsimp only
  split
  · exact ⟨h1, h3, h2⟩
  · split <;> exact ⟨h1.trans ⟨rfl, fun _ _ => rfl⟩, h3, h2⟩

/-- What reserve leaves and gives. -/
theorem reserve_spec (p : Part) (c : Chan) (d : Nat) :
    QFrame p (reserve p c d).1 ∧
    (reserve p c d).2 = (if (descOf p d).residence = 2 then reg p (G.sqReserved (bits (descOf p d).base 5 0)) else 0) ∧
    ((descOf p d).residence = 2 → reg (reserve p c d).1 (G.sqReserved (bits (descOf p d).base 5 0)) =
        reg p (G.sqReserved (bits (descOf p d).base 5 0)) + (descOf p d).length * segBytes p d ∧
      (bits (descOf p d).base 5 0, c.val, reg p (G.sqReserved (bits (descOf p d).base 5 0)),
        reg p (G.sqReserved (bits (descOf p d).base 5 0)) + (descOf p d).length * segBytes p d) ∈ (reserve p c d).1.strm.open_) ∧
    (∀ e ∈ p.strm.open_, e.2.1 ≠ c.val → e ∈ (reserve p c d).1.strm.open_) := by
  obtain ⟨q, hq, he⟩ := endReservation_frame p c
  have hQ : QFrame p (endReservation p c) := by rw [he]; exact hq.toQ.trans ⟨rfl, fun _ _ => rfl⟩
  have ho : (endReservation p c).strm.open_ = p.strm.open_.filter fun e => e.2.1 ≠ c.val := by rw [he]
  unfold reserve
  dsimp only
  by_cases h2 : (descOf p d).residence = 2
  · simp only [h2, if_true]
    have hr : reg (endReservation p c) (G.sqReserved (bits (descOf p d).base 5 0)) = reg p (G.sqReserved (bits (descOf p d).base 5 0)) := by
      rw [he]; exact hq.2 _ fun ⟨i, hi⟩ => by unfold G.sqReserved G.sqSkipped gkey at hi; omega
    generalize reg p (G.sqReserved (bits (descOf p d).base 5 0)) = pos at *
    generalize endReservation p c = e at *
    obtain ⟨s1, s2, s3⟩ := settleQueue_frame
      { (setReg e (G.sqReserved (bits (descOf p d).base 5 0)) (pos + (descOf p d).length * segBytes p d)) with
      strm := { e.strm with open_ := e.strm.open_ ++ [(bits (descOf p d).base 5 0, c.val, pos, pos + (descOf p d).length * segBytes p d)] } }
      (bits (descOf p d).base 5 0)
    refine ⟨?_, trivial, fun _ => ⟨?_, ?_⟩, fun x hx hc => ?_⟩
    · exact ((hQ.setReg ⟨_, .inl rfl⟩).trans ⟨rfl, fun _ _ => rfl⟩).trans s1
    · exact (s3 _).trans (by simp [reg, setReg])
    · erw [s2]; simp
    · erw [s2]; rw [ho]; simp [hx, hc]
  · simp only [h2, if_false, false_implies, true_and]
    exact ⟨hQ, fun x hx hc => by rw [ho]; simp [hx, hc]⟩

/-- Without an open reservation there is none to end. -/
theorem endReservation_none (h : p.strm.open_.filter (fun e => e.2.1 = c.val) = []) : endReservation p c = p := by
  unfold endReservation
  rw [h]
  have : p.strm.open_.filter (fun e => e.2.1 ≠ c.val) = p.strm.open_ := by
    rw [List.filter_eq_self]
    intro e he
    rw [List.filter_eq_nil_iff] at h
    simpa using h e he
  simp only [List.foldl_nil, this]

end Sys2Proof.Machine
end

