-- ==== Sys2Proof/Laws/Advance.lean ====
section
/-!
SUPPORT. What an advance of a wait or a play does: acting on a pulse, emptying latches, placing the samples up to the boundary where it ends.
-/

namespace Sys2Proof.Machine

variable {p q r : Part} {c d : Chan} {m : Nat}

/-- A resolved wait whose release falls into the planned tick, with no jump pending, ends there. -/
theorem advWait_done {w w1 : Wait} {p1 : Part} {t : Nat} (hr : resolveWait p c m w = (p1, w1)) (ht : w1.rel = some t) (hj : pendingJumps p1 c = [])
    (hb : max (seqOf p1 c).at_ t < 250 * (m + 1)) :
    advWait p c m w = goTo (place p1 c m (seqOf p1 c).at_ (max (seqOf p1 c).at_ t) (waitSrc p1 c w1.out w1.since)) c (max (seqOf p1 c).at_ t)
      (.run w1.next) false false := by
  unfold advWait
  simp only [hr, ht, hj]
  simp [firstJump, hb, Nat.min_eq_left (Nat.le_of_lt hb)]

/-- Samples placed up to t and the boundary moved there: what that leaves. -/
theorem place_end {n t : Nat} {src : Src} {a : Act} :
    let r := goTo (place p c m n t src) c t a false false
    seqOf r c = { seqOf p c with
      at_ := t, act := a, fresh := false, seam := false
      last := if n < t then sampleAt p src (t - 1) (interpOf p c) else (seqOf p c).last } ∧
    planOf r c m = { planOf p c m with spans := (planOf p c m).spans ++ (if n < t then [⟨n, t, src⟩] else []) } ∧
    (∀ d, d ≠ c → seqOf r d = seqOf p d ∧ ∀ k, planOf r d k = planOf p d k) ∧ r = { p with seqs := r.seqs, plans := r.plans } := by
  dsimp only
  unfold goTo place
  by_cases h : n < t
  · simp only [if_pos h]
    refine ⟨?_, ?_, fun d hd => ⟨?_, fun k => ?_⟩, ?_⟩
    · simp only [seqOf_setSeq_same]
      unfold addSpan; rw [if_pos h]; rfl
    · rw [planOf_setSeq, planOf_setSeq]; exact planOf_addSpan h
    · rw [seqOf_setSeq_ne (h := hd), seqOf_setSeq_ne (h := hd)]; unfold addSpan; rw [if_pos h]; rfl
    · rw [planOf_setSeq, planOf_setSeq]; unfold addSpan; rw [if_pos h]; exact planOf_putPlan_chan (h := hd) ..
    · unfold addSpan; rw [if_pos h]; rfl
  · simp only [if_neg h]
    refine ⟨?_, ?_, fun d hd => ⟨?_, fun k => ?_⟩, ?_⟩
    · simp only [seqOf_setSeq_same]
    · rw [planOf_setSeq]; simp
    · rw [seqOf_setSeq_ne (h := hd)]
    · rw [planOf_setSeq]
    · rfl

/-- No jump is pending exactly where the jump inputs hold nothing. -/
theorem pendingJumps_nil (p : Part) (c : Nat) : pendingJumps p c = [] ↔ ∀ i, i < 8 → latchAt p (chLatch c (8 + i)) = none := by
  unfold pendingJumps
  rw [List.filterMap_eq_nil_iff]
  constructor
  · intro h i hi
    have := h i (List.mem_range.mpr hi)
    cases hl : latchAt p (chLatch c (8 + i)) with
    | none => rfl
    | some l => rw [hl] at this; cases this
  · intro h i hi
    rw [h i (List.mem_range.mp hi)]

/-- Emptying latches makes no jump pending. -/
theorem pendingJumps_drop {l : List Nat} (h : pendingJumps p c = []) : pendingJumps (dropLatches p l) c = [] := by
  rw [pendingJumps_nil] at h ⊢
  intro i hi
  rw [latchAt_dropLatches]
  split
  · rfl
  · exact h i hi

/-- Acting on a pulse whose instant lies in the planned tick or before changes the plan only. -/
theorem actOn_here {n g : Nat} (h : n < 250 * (m + 1)) : actOn p c m n g = addActed p c m g := by
  unfold actOn
  exact if_neg (by omega)

/-- The frame of acting on a pulse and emptying latches. -/
theorem acted_end {g : Nat} {l : List Nat} (p1 : Part) (h1 : p1 = addActed p c m g ∨ p1 = dropLatches (addActed p c m g) l) :
    seqOf p1 c = seqOf p c ∧ planOf p1 c m = { planOf p c m with acted := (planOf p c m).acted ++ [g] } ∧
    (∀ d, d ≠ c → seqOf p1 d = seqOf p d ∧ ∀ k, planOf p1 d k = planOf p d k) ∧
    p1 = { p with plans := p1.plans, fab := { p.fab with latches := p1.fab.latches } } := by
  have hA : seqOf (addActed p c m g) c = seqOf p c ∧
    planOf (addActed p c m g) c m = { planOf p c m with acted := (planOf p c m).acted ++ [g] } ∧
    (∀ d, d ≠ c → seqOf (addActed p c m g) d = seqOf p d ∧ ∀ k, planOf (addActed p c m g) d k = planOf p d k) :=
    ⟨rfl, planOf_addActed g, fun d hd => ⟨rfl, fun k => planOf_putPlan_chan (h := hd) ..⟩⟩
  rcases h1 with h | h
  · subst h; exact ⟨hA.1, hA.2.1, hA.2.2, rfl⟩
  · have := dropLatches_eq l (addActed p c m g)
    subst h
    refine ⟨?_, ?_, fun d hd => ⟨?_, fun k => ?_⟩, ?_⟩
    · rw [this]; exact hA.1
    · rw [this]; exact hA.2.1
    · rw [this]; exact (hA.2.2 d hd).1
    · rw [this]; exact (hA.2.2 d hd).2 k
    · rw [this]; rfl
end Sys2Proof.Machine
end

