-- ==== Sys2Proof/Laws/Commands.lean ====
section
/-!
SUPPORT. The entries behind the commands that are written, and what a written command does once its write is taken, refused, or answered with a
verdict: one law for all of them.
-/

namespace Sys2Proof.Machine

theorem gkey_div (i s : Nat) (h : s < 256) : gkey i s / 256 = i := by unfold gkey; omega
theorem gkey_mod (i s : Nat) (h : s < 256) : gkey i s % 256 = s := by unfold gkey; omega

theorem entryOf_of {i s : Nat} {e : Entry} (h : s < 256) (hl : lookup i s = .entry e s) : entryOf (gkey i s) = some e := by
  unfold entryOf; rw [gkey_div i s h, gkey_mod i s h, hl]

/-- An entry found by its index and subindex. -/
theorem lookup_of {i s : Nat} {l : List Entry} {e : Entry} (hi : ¬ (0x8000 ≤ i ∧ i < 0xC000)) (hl : entriesAt i = l)
    (h : (if l.isEmpty then Hit.noIndex else if s = 0 then Hit.numSubs (topSub l) else findEntry s l) = Hit.entry e s) :
    lookup i s = .entry e s := by
  unfold lookup; rw [if_neg hi, hl]; exact h

theorem entriesAt_1230 {i : Nat} (h : 0x1230 ≤ i) (h' : i < 0x1240) : entriesAt i = entries1230 := by
  unfold entriesAt
  repeat rw [if_neg (by omega)]
  rw [if_pos ⟨h, h'⟩]

theorem entriesAt_1A00 {i : Nat} (h : 0x1A00 ≤ i) (h' : i < 0x1A10) : entriesAt i = entries1A00 := by
  unfold entriesAt
  repeat rw [if_neg (by omega)]
  rw [if_pos ⟨h, h'⟩]

theorem entriesAt_1B00 {i : Nat} (h : 0x1B00 ≤ i) (h' : i < 0x1B40) : entriesAt i = entries1B00 := by
  unfold entriesAt
  repeat rw [if_neg (by omega)]
  rw [if_pos ⟨h, h'⟩]

theorem entriesAt_2000 {i : Nat} (h : 0x2000 ≤ i) (h' : i < 0x2100) : entriesAt i = entries2000 := by
  unfold entriesAt
  repeat rw [if_neg (by omega)]
  rw [if_pos ⟨h, h'⟩]

theorem entriesAt_2300 {i : Nat} (h : 0x2300 ≤ i) (h' : i < 0x2400) : entriesAt i = entries2300 := by
  unfold entriesAt
  repeat rw [if_neg (by omega)]
  rw [if_pos ⟨h, h'⟩]

theorem entriesAt_2500 {i : Nat} (h : 0x2500 ≤ i) (h' : i < 0x2600) : entriesAt i = entries2500 := by
  unfold entriesAt
  repeat rw [if_neg (by omega)]
  rw [if_pos ⟨h, h'⟩]

theorem entriesAt_2600 {i : Nat} (h : 0x2600 ≤ i) (h' : i < 0x2700) : entriesAt i = entries2600 := by
  unfold entriesAt
  repeat rw [if_neg (by omega)]
  rw [if_pos ⟨h, h'⟩]

theorem entriesAt_4000 {i : Nat} (h : 0x4000 ≤ i) (h' : i < 0x8000) : entriesAt i = entries4000 := by
  unfold entriesAt
  repeat rw [if_neg (by omega)]
  rw [if_pos ⟨h, h'⟩]

variable {p q : Part} {path : Path} {i s v code : Nat} {e : Entry}

/-- What a change to the Gazetteer alone leaves: everything else of the part. -/
def OnlyGz (p q : Part) : Prop := q = { p with gz := q.gz }

theorem OnlyGz.refl (p : Part) : OnlyGz p p := rfl

theorem OnlyGz.trans {p q r : Part} (h : OnlyGz p q) (h' : OnlyGz q r) : OnlyGz p r := by
  unfold OnlyGz at *; rw [h', h]

theorem OnlyGz.setReg {p q : Part} (h : OnlyGz p q) (k v : Nat) : OnlyGz p (setReg q k v) := h.trans rfl

theorem OnlyGz.adm {p q : Part} (h : OnlyGz p q) : q.adm = p.adm := by unfold OnlyGz at h; rw [h]

theorem logAbort_onlyGz (p : Part) (path : Path) (op c i s v : Nat) : OnlyGz p (logAbort p path op c i s v) := by
  unfold logAbort
  exact (((((OnlyGz.refl p).setReg _ _).setReg _ _).setReg _ _).setReg _ _).setReg _ _

theorem discardStaged_onlyGz (p : Part) (path : Path) (k : Nat) : OnlyGz p (discardStaged p path k) := by
  unfold discardStaged
  split
  · split
    · exact .refl p
    · exact OnlyGz.trans (q := { p with gz := { p.gz with stage := none } }) rfl (logAbort_onlyGz _ _ _ _ _ _ _)
  · exact .refl p

/-- Discarding staged words changes nothing but the Gazetteer. -/
theorem cleared_onlyGz (p : Part) (path : Path) (k : Nat) : OnlyGz p (cleared p path k) := by
  unfold cleared
  split
  · exact (discardStaged_onlyGz ..).trans rfl
  · exact .refl p

@[simp] theorem cleared_adm (k : Nat) : (cleared p path k).adm = p.adm := (cleared_onlyGz p path k).adm

/-- The part of a write that reaches the part is the part with what was staged for another entry discarded. -/
theorem commandWrite_reach (hl : lookup i s = .entry e s) (hb : ∀ n, e.ty ≠ .bulk n) (hr : reaches p path i = true) :
    commandWrite p path i s v =
      (match writeEntry (cleared p path (gkey i s)) path 1 true e (gkey i s) v with
      | (r, .done c) => tell r path c
      | (r, .waits _) => r) := by
  have hw : ∀ p : Part, writeAt p path 1 i s v = writeEntry p path 1 true e (gkey i s) v := by
    intro p
    unfold writeAt
    rw [hl]
    dsimp only
    split
    · rename_i h; exact absurd h (hb _)
    · rfl
  unfold commandWrite cleared
  rw [hr]
  simp only [hw, Bool.not_true, Bool.false_eq_true, if_false]
  cases path <;> (dsimp only; cases writeEntry _ _ _ _ _ _ _ with | mk r c => cases c <;> rfl)

/-- What Takes says of the entry at hand. -/
theorem Takes.elim (h : Takes p path (gkey i s) v) (hs : s < 256) (hl : lookup i s = .entry e s) :
    reaches p path i = true ∧
      checkWrite (cleared p path (gkey i s)) e (gkey i s) (keptBits e (reg (cleared p path (gkey i s)) (gkey i s)) v) false true = 0 ∧
      (mirrored e (gkey i s) && forwards (cleared p path (gkey i s))) = false := by
  obtain ⟨e', he, hr, hc, hf⟩ := h
  rw [entryOf_of hs hl] at he
  cases he
  rw [gkey_div i s hs] at hr
  refine ⟨hr, hc, ?_⟩
  rw [Bool.eq_false_iff]
  simpa using hf

/-- A command entry whose write is taken has its effect, and the writer is told code 0. -/
theorem commandWrite_takes (hs : s < 256) (hl : lookup i s = .entry e s) (hk : e.kind = .cmd) (hb : ∀ n, e.ty ≠ .bulk n)
    (hc : gkey i s ≠ G.bpCommit) (ht : Takes p path (gkey i s) v)
    (he : commandEffect (cleared p path (gkey i s)) path (gkey i s) (keptBits e (reg (cleared p path (gkey i s)) (gkey i s)) v) = (q, 0))
    (hj : ¬ p.adm.jobs.length < q.adm.jobs.length) : commandWrite p path i s v = tell q path 0 := by
  obtain ⟨hr, h0, hf⟩ := ht.elim hs hl
  rw [commandWrite_reach hl hb hr]
  unfold writeEntry
  simp only [h0, ne_eq, not_true_eq_false, if_false, hf, Bool.false_and]
  unfold runWrite applyWrite
  rw [if_neg hc, hk]
  dsimp only
  rw [he]
  simp [hj, logged]

/-- A command entry whose write is taken and whose effect is refused: the refusal is logged and told. -/
theorem commandWrite_refuses (hs : s < 256) (hl : lookup i s = .entry e s) (hk : e.kind = .cmd) (hb : ∀ n, e.ty ≠ .bulk n)
    (hc : gkey i s ≠ G.bpCommit) (ht : Takes p path (gkey i s) v) (hne : code ≠ 0)
    (he : commandEffect (cleared p path (gkey i s)) path (gkey i s) (keptBits e (reg (cleared p path (gkey i s)) (gkey i s)) v) = (q, code)) :
    commandWrite p path i s v = tell (logAbort q path 1 code i s v) path code := by
  obtain ⟨hr, h0, hf⟩ := ht.elim hs hl
  rw [commandWrite_reach hl hb hr]
  unfold writeEntry
  simp only [h0, ne_eq, not_true_eq_false, if_false, hf, Bool.false_and]
  unfold runWrite applyWrite
  rw [if_neg hc, hk]
  dsimp only
  rw [he]
  simp [logged, gkey_div i s hs, gkey_mod i s hs, hne]

/-- A command entry whose write is taken and makes a snapshot for admission: the answer waits for the verdict. -/
theorem commandWrite_waits (hs : s < 256) (hl : lookup i s = .entry e s) (hk : e.kind = .cmd) (hb : ∀ n, e.ty ≠ .bulk n)
    (hc : gkey i s ≠ G.bpCommit) (ht : Takes p path (gkey i s) v)
    (he : commandEffect (cleared p path (gkey i s)) path (gkey i s) (keptBits e (reg (cleared p path (gkey i s)) (gkey i s)) v) = (q, 0))
    (hj : p.adm.jobs.length < q.adm.jobs.length) : commandWrite p path i s v = stampJob q 1 := by
  obtain ⟨hr, h0, hf⟩ := ht.elim hs hl
  rw [commandWrite_reach hl hb hr]
  unfold writeEntry
  simp only [h0, ne_eq, not_true_eq_false, if_false, hf, Bool.false_and]
  unfold runWrite applyWrite
  rw [if_neg hc, hk]
  dsimp only
  rw [he]
  simp [hj, logged]

/-! ## Which effect a key has -/

theorem commandEffect_part {k : Nat} {r : Part × Nat} (h : partCommand p k v = some r) : commandEffect p path k v = r := by
  unfold commandEffect
  rw [h]

/-- No entry of a channel, group, queue, descriptor or step is one of the part as a whole. -/
theorem partCommand_none {k : Nat} (h : 0x1A00 * 256 ≤ k) : partCommand p k v = none := by
  unfold partCommand
  repeat rw [if_neg (by intro e; subst e; revert h; decide)]

theorem commandEffect_chan {k : Nat} {r : Part × Nat} (h : 0x1A00 * 256 ≤ k) (hc : channelCommand p path k v = some r) :
    commandEffect p path k v = r := by
  unfold commandEffect
  rw [partCommand_none h]
  dsimp only
  rw [hc]

theorem channelCommand_none {k : Nat} (h : k < 0x2000 * 256 ∨ 0x2700 * 256 ≤ k) : channelCommand p path k v = none := by
  unfold channelCommand
  repeat rw [if_neg (by omega)]

theorem commandEffect_shared {k : Nat} {r : Part × Nat} (h : 0x1A00 * 256 ≤ k) (h' : k < 0x2000 * 256 ∨ 0x2700 * 256 ≤ k)
    (hs : sharedCommand p path k v = some r) : commandEffect p path k v = r := by
  unfold commandEffect
  rw [partCommand_none h, channelCommand_none h', hs]
  rfl

theorem chan_val (c : Chan) : chan c.val = c := Fin.ext (Nat.mod_eq_of_lt c.isLt)

theorem grp_val (g : Grp) : grp g.val = g := Fin.ext (Nat.mod_eq_of_lt g.isLt)

/-- A key of a channel's entry names that channel. -/
theorem chan_gkey {b : Nat} (c : Chan) (s : Nat) (hs : s < 256) (hb : b % 256 = 0) : chan (gkey (b + c.val) s / 256) = c := by
  apply Fin.ext
  show gkey (b + c.val) s / 256 % 256 = c.val
  rw [gkey_div _ _ hs]
  omega

theorem effect_logClear : commandEffect p path G.logClear v = (onTrue p v fun p => ok (clearLog p)) := by
  refine commandEffect_part ?_
  unfold partCommand
  repeat first | rw [if_pos rfl] | rw [if_neg (by decide)]

theorem effect_bpTarget : commandEffect p path G.bpTarget v = (openBlock p v) := by
  refine commandEffect_part ?_
  unfold partCommand
  repeat first | rw [if_pos rfl] | rw [if_neg (by decide)]

theorem effect_bpData : commandEffect p path G.bpData v = (writeBlockData p v) := by
  refine commandEffect_part ?_
  unfold partCommand
  repeat first | rw [if_pos rfl] | rw [if_neg (by decide)]

theorem effect_fireMask : commandEffect p path G.fireMask v = (fire p (v % 2 ^ 256) (if v < 2 ^ 256 then reg p G.fireAtTick else v / 2 ^ 256 - 1)) := by
  refine commandEffect_part ?_
  unfold partCommand
  repeat first | rw [if_pos rfl] | rw [if_neg (by decide)]

theorem effect_timeSource : commandEffect p path G.timeSource v = (ok (takeTimeSource p v)) := by
  refine commandEffect_part ?_
  unfold partCommand
  repeat first | rw [if_pos rfl] | rw [if_neg (by decide)]

theorem effect_sclkSelect : commandEffect p path G.sclkSelect v = ok (takeSclkSelect p v) := by
  refine commandEffect_part ?_
  unfold partCommand
  repeat first | rw [if_pos rfl] | rw [if_neg (by decide)]

theorem effect_syncMode : commandEffect p path G.syncMode v = ok (takeSyncMode p v) := by
  refine commandEffect_part ?_
  unfold partCommand
  repeat first | rw [if_pos rfl] | rw [if_neg (by decide)]

theorem effect_epoch : commandEffect p path G.epoch v = (setEpoch p v) := by
  refine commandEffect_part ?_
  unfold partCommand
  repeat first | rw [if_pos rfl] | rw [if_neg (by decide)]

theorem effect_fsKhz : commandEffect p path G.fsKhz v = (ok (relock p v)) := by
  refine commandEffect_part ?_
  unfold partCommand
  repeat first | rw [if_pos rfl] | rw [if_neg (by decide)]

theorem effect_datumSet : commandEffect p path G.datumSet v = (setDatum p v) := by
  refine commandEffect_part ?_
  unfold partCommand
  repeat first | rw [if_pos rfl] | rw [if_neg (by decide)]

theorem effect_quietReq : commandEffect p path G.quietReq v = (quietRequest p v) := by
  refine commandEffect_part ?_
  unfold partCommand
  repeat first | rw [if_pos rfl] | rw [if_neg (by decide)]

theorem effect_ldGo : commandEffect p path G.ldGo v = (onTrue p v loadGo) := by
  refine commandEffect_part ?_
  unfold partCommand
  repeat first | rw [if_pos rfl] | rw [if_neg (by decide)]

theorem effect_pairCmd : commandEffect p path G.pairCmd v = (pairCommand p v) := by
  refine commandEffect_part ?_
  unfold partCommand
  repeat first | rw [if_pos rfl] | rw [if_neg (by decide)]

theorem effect_stCmd : commandEffect p path G.stCmd v = (testCommand p v) := by
  refine commandEffect_part ?_
  unfold partCommand
  repeat first | rw [if_pos rfl] | rw [if_neg (by decide)]

theorem effect_lcGo : commandEffect p path G.lcGo v = (onTrue p v lcBegin) := by
  refine commandEffect_part ?_
  unfold partCommand
  repeat first | rw [if_pos rfl] | rw [if_neg (by decide)]

theorem effect_resetCmd : commandEffect p path G.resetCmd v = (onTrue p v commandReset) := by
  refine commandEffect_part ?_
  unfold partCommand
  repeat first | rw [if_pos rfl] | rw [if_neg (by decide)]

theorem effect_nvCommit : commandEffect p path G.nvCommit v = (onTrue p v nvBegin) := by
  refine commandEffect_part ?_
  unfold partCommand
  repeat first | rw [if_pos rfl] | rw [if_neg (by decide)]

theorem effect_fwActivate : commandEffect p path G.fwActivate v = (fwSelect p v) := by
  refine commandEffect_part ?_
  unfold partCommand
  repeat first | rw [if_pos rfl] | rw [if_neg (by decide)]

theorem effect_attNonce : commandEffect p path G.attNonce v = (attBegin p v) := by
  refine commandEffect_part ?_
  unfold partCommand
  repeat first | rw [if_pos rfl] | rw [if_neg (by decide)]

theorem effect_faultClear (c : Chan) : commandEffect p path (gkey (0x2000 + c.val) 8) v = (onTrue p v fun p => ok (clearFault p c)) := by
  have hb : ∀ b, b % 256 = 0 → chan (gkey (b + c.val) 8 / 256) = c := fun b hb => chan_gkey c 8 (by decide) hb
  refine commandEffect_chan (by unfold gkey; omega) ?_
  unfold channelCommand
  rw [hb 0x2000 rfl]
  repeat first | rw [if_pos (by unfold gkey; omega)] | rw [if_neg (by unfold gkey; omega)]

theorem effect_trimFreezeReq (c : Chan) : commandEffect p path (gkey (0x2000 + c.val) 13) v = (freezeRequest p c v) := by
  have hb : ∀ b, b % 256 = 0 → chan (gkey (b + c.val) 13 / 256) = c := fun b hb => chan_gkey c 13 (by decide) hb
  refine commandEffect_chan (by unfold gkey; omega) ?_
  unfold channelCommand
  rw [hb 0x2000 rfl]
  repeat first | rw [if_pos (by unfold gkey; omega)] | rw [if_neg (by unfold gkey; omega)]

theorem effect_loadGroup (c : Chan) : commandEffect p path (gkey (0x2100 + c.val) 3) v = (moveChannel p c v) := by
  have hb : ∀ b, b % 256 = 0 → chan (gkey (b + c.val) 3 / 256) = c := fun b hb => chan_gkey c 3 (by decide) hb
  refine commandEffect_chan (by unfold gkey; omega) ?_
  unfold channelCommand
  rw [hb 0x2100 rfl]
  repeat first | rw [if_pos (by unfold gkey; omega)] | rw [if_neg (by unfold gkey; omega)]

theorem effect_evClear (c : Chan) : commandEffect p path (gkey (0x2300 + c.val) 41) v = (ok (clearEvents p c v)) := by
  have hb : ∀ b, b % 256 = 0 → chan (gkey (b + c.val) 41 / 256) = c := fun b hb => chan_gkey c 41 (by decide) hb
  refine commandEffect_chan (by unfold gkey; omega) ?_
  unfold channelCommand
  rw [hb 0x2300 rfl]
  repeat first | rw [if_pos (by unfold gkey; omega)] | rw [if_neg (by unfold gkey; omega)]

theorem effect_planGo (c : Chan) : commandEffect p path (gkey (0x2300 + c.val) 83) v = (onTrue p v fun p => planGoes p c path) := by
  have hb : ∀ b, b % 256 = 0 → chan (gkey (b + c.val) 83 / 256) = c := fun b hb => chan_gkey c 83 (by decide) hb
  refine commandEffect_chan (by unfold gkey; omega) ?_
  unfold channelCommand
  rw [hb 0x2300 rfl]
  repeat first | rw [if_pos (by unfold gkey; omega)] | rw [if_neg (by unfold gkey; omega)]

theorem effect_pacedPush (c : Chan) : commandEffect p path (gkey (0x2600 + c.val) 9) v = (pushPaced p c v) := by
  have hb : ∀ b, b % 256 = 0 → chan (gkey (b + c.val) 9 / 256) = c := fun b hb => chan_gkey c 9 (by decide) hb
  refine commandEffect_chan (by unfold gkey; omega) ?_
  unfold channelCommand
  rw [hb 0x2600 rfl]
  repeat first | rw [if_pos (by unfold gkey; omega)] | rw [if_neg (by unfold gkey; omega)]

theorem effect_pacedFlush (c : Chan) : commandEffect p path (gkey (0x2600 + c.val) 13) v = (onTrue p v fun p => ok (flushPaced p c)) := by
  have hb : ∀ b, b % 256 = 0 → chan (gkey (b + c.val) 13 / 256) = c := fun b hb => chan_gkey c 13 (by decide) hb
  refine commandEffect_chan (by unfold gkey; omega) ?_
  unfold channelCommand
  rw [hb 0x2600 rfl]
  repeat first | rw [if_pos (by unfold gkey; omega)] | rw [if_neg (by unfold gkey; omega)]

theorem effect_step {n : Nat} (h : n < 262144) :
    commandEffect p path (gkey (0x8000 + n / 16) (2 * (n % 16))) v = writeStep p n v := by
  refine commandEffect_shared (by unfold gkey; omega) (.inr (by unfold gkey; omega)) ?_
  unfold sharedCommand
  rw [gkey_div _ _ (by omega), gkey_mod _ _ (by omega), if_pos (by omega)]
  rw [show 16 * (0x8000 + n / 16 - 0x8000) + 2 * (n % 16) / 2 = n by omega]

theorem effect_segDesc {d : Nat} (h : d < 16384) : commandEffect p path (gkey (0x4000 + d) 1) v = commitDesc p d v := by
  refine commandEffect_shared (by unfold gkey; omega) (.inr (by unfold gkey; omega)) ?_
  unfold sharedCommand
  rw [gkey_div _ _ (by omega), gkey_mod _ _ (by omega), if_neg (by omega), if_pos (by omega)]
  rw [show 0x4000 + d - 0x4000 = d by omega]

theorem effect_lgCmd (g : Grp) : commandEffect p path (gkey (0x1A00 + g.val) 1) v = groupCommand p path g v := by
  refine commandEffect_shared (by unfold gkey; omega) (.inl (by unfold gkey; omega)) ?_
  unfold sharedCommand
  rw [gkey_div _ _ (by omega), gkey_mod _ _ (by omega), if_neg (by omega), if_neg (by omega), if_pos (by omega), if_pos rfl]
  rw [show grp (0x1A00 + g.val) = g from Fin.ext (show (0x1A00 + g.val) % 16 = g.val by omega)]

theorem effect_lgStrobeAt (g : Grp) : commandEffect p path (gkey (0x1A00 + g.val) 3) v = scheduleStrobe p g v := by
  refine commandEffect_shared (by unfold gkey; omega) (.inl (by unfold gkey; omega)) ?_
  unfold sharedCommand
  rw [gkey_div _ _ (by omega), gkey_mod _ _ (by omega), if_neg (by omega), if_neg (by omega), if_pos (by omega), if_neg (by decide)]
  rw [show grp (0x1A00 + g.val) = g from Fin.ext (show (0x1A00 + g.val) % 16 = g.val by omega)]

theorem effect_sqEnable (i : Queue) :
    commandEffect p path (gkey (0x1B00 + i.val) 1) v = ok (disarmReaders (enableQueue p i v) i) := by
  refine commandEffect_shared (by unfold gkey; omega) (.inl (by unfold gkey; omega)) ?_
  unfold sharedCommand
  rw [gkey_div _ _ (by omega), gkey_mod _ _ (by omega), if_neg (by omega), if_neg (by omega), if_neg (by omega), if_pos (by omega)]
  rw [show 0x1B00 + i.val - 0x1B00 = i.val by omega]

theorem effect_sqFlush (i : Queue) : commandEffect p path (gkey (0x1B00 + i.val) 0x20) v = onTrue p v fun p => flushQueue p i := by
  refine commandEffect_shared (by unfold gkey; omega) (.inl (by unfold gkey; omega)) ?_
  unfold sharedCommand
  rw [gkey_div _ _ (by omega), gkey_mod _ _ (by omega), if_neg (by omega), if_neg (by omega), if_neg (by omega), if_neg (by omega),
    if_pos (by omega)]
  rw [show 0x1B00 + i.val - 0x1B00 = i.val by omega]

theorem effect_alarm {a : Nat} (ha : a < 16) {sub : Nat} (hs : sub < 256) :
    commandEffect p path (gkey (0x1230 + a) sub) v = (toBoundary p (gkey (0x1230 + a) sub) v, 0) := by
  unfold commandEffect partCommand
  repeat rw [if_neg (by first | (intro e; simp only [gkey, G.logClear, G.bpTarget, G.bpData, G.fireMask,
    G.timeSource, G.sclkSelect, G.syncMode, G.epoch, G.fsKhz, G.datumSet, G.quietReq, G.ldGo, G.pairCmd,
    G.stCmd, G.lcGo, G.resetCmd, G.nvCommit, G.fwActivate, G.attNonce] at e; omega))]
  dsimp only
  rw [channelCommand_none (.inl (by unfold gkey; omega))]
  unfold sharedCommand
  dsimp only
  rw [gkey_div _ _ hs]
  repeat rw [if_neg (by omega)]
  rfl

/-- A BOOL command that is written TRUE. -/
theorem onTrue_one (f : Part → Part × Nat) : onTrue p 1 f = f p := if_pos rfl

end Sys2Proof.Machine
end

