-- ==== Sys2Proof/Laws/Memory.lean ====
section
/-!
SUPPORT. The laws of DRAM as an addressed memory: storing keeps the canonical form, what is stored is read, every other byte is as it was, and equal
readings are equal data. That every command keeps the canonical form follows in Sys2Proof/Laws/KeepsExec.lean.
-/

namespace Sys2Proof.Machine

/-- Storing bytes keeps the canonical form. -/
theorem dramPut_wf (l : List (Nat × Byte)) {m : List Host.Cell} (h : Memory.wf m = true) : Memory.wf (dramPut m l) = true := by
  unfold dramPut
  induction l generalizing m with
  | nil => exact h
  | cons a r ih => exact ih (kwf_kset _ _ _ _ h)

@[simp] theorem dramPut_nil (m : List Host.Cell) : dramPut m [] = m := rfl
@[simp] theorem dramPut_cons (m : List Host.Cell) (e : Nat × Byte) (l : List (Nat × Byte)) :
    dramPut m (e :: l) = dramPut (kset (fun _ => (0 : Byte)) m e.1 e.2) l := rfl

/-- A byte at which nothing is stored reads as before. -/
theorem dramByte_dramPut_other {l : List (Nat × Byte)} {a : Nat} (h : ∀ e ∈ l, e.1 ≠ a) (m : List Host.Cell) :
    dramByte (dramPut m l) a = dramByte m a := by
  induction l generalizing m with
  | nil => rfl
  | cons e r ih =>
    rw [dramPut_cons, ih (fun x hx => h x (List.mem_cons_of_mem e hx))]
    exact kget_kset_ne _ _ (fun g => h e List.mem_cons_self g.symm) _

/-- A byte that is stored once reads as stored. -/
theorem dramByte_dramPut_stored {l : List (Nat × Byte)} {a : Nat} {b : Byte} (h : (a, b) ∈ l) (once : ∀ e ∈ l, e.1 = a → e.2 = b)
    (m : List Host.Cell) : dramByte (dramPut m l) a = b := by
  induction l generalizing m with
  | nil => cases h
  | cons e r ih =>
    rw [dramPut_cons]
    by_cases g : ∃ x ∈ r, x.1 = a
    · obtain ⟨x, hx, hxa⟩ := g
      have hb : x = (a, b) := Prod.ext hxa (once x (List.mem_cons_of_mem e hx) hxa)
      exact ih (hb ▸ hx) (fun y hy => once y (List.mem_cons_of_mem e hy)) _
    · have he : e = (a, b) := by
        rcases List.mem_cons.mp h with rfl | hr
        · rfl
        · exact absurd ⟨_, hr, rfl⟩ g
      rw [dramByte_dramPut_other (fun x hx hxa => g ⟨x, hx, hxa⟩), he]
      exact kget_kset_same _ _ _ _

/-- Memories in canonical form that read alike are the same data. -/
theorem memory_ext {m n : List Host.Cell} (hm : Memory.wf m = true) (hn : Memory.wf n = true) (h : ∀ a, dramByte m a = dramByte n a) : m = n :=
  kwf_ext _ hm hn h

/-- The memory of the reset state is in canonical form, and every byte of it reads as zero. -/
theorem reset_memory : Memory.wf State.reset.part.mem.dram = true ∧ ∀ a, dramByte State.reset.part.mem.dram a = 0 := ⟨rfl, fun _ => rfl⟩

end Sys2Proof.Machine
end

