-- ==== Sys2Proof/Laws/Keeps.lean ====
section
/-!
SUPPORT. What every operation on the part keeps, as one relation, and that the operations on registers, latches and plans have it.
-/

namespace Sys2Proof.Machine

/-- What q keeps of p: the canonical form of the register file and of the memory, the bounds on waiting verdicts, timed firings and subscriptions;
what has left the part stays at the end of what has left; and, where b is true, the tick. -/
structure Keeps (b : Bool) (p q : Part) : Prop where
  regs  : kwf regDefault p.gz.regs = true → kwf regDefault q.gz.regs = true
  dram  : kwf (fun _ => (0 : Byte)) p.mem.dram = true → kwf (fun _ => (0 : Byte)) q.mem.dram = true
  jobs  : p.adm.jobs.length ≤ 16 → q.adm.jobs.length ≤ 16
  fires : p.fab.fires.length ≤ 16 → q.fab.fires.length ≤ 16
  subs  : p.pl.subs.length ≤ 64 → q.pl.subs.length ≤ 64
  sent  : p.sent <:+ q.sent
  tick  : b = true → q.time.tick = p.time.tick

theorem Keeps.refl (b : Bool) (p : Part) : Keeps b p p := ⟨id, id, id, id, id, List.suffix_refl _, fun _ => rfl⟩
theorem Keeps.trans {b : Bool} {p q r : Part} (h : Keeps b p q) (g : Keeps b q r) : Keeps b p r :=
  ⟨g.regs ∘ h.regs, g.dram ∘ h.dram, g.jobs ∘ h.jobs, g.fires ∘ h.fires, g.subs ∘ h.subs, h.sent.trans g.sent,
    fun e => (g.tick e).trans (h.tick e)⟩

theorem Keeps.upd {b : Bool} {p q r : Part} (h6 : r.sent = q.sent) (h1 : r.gz.regs = q.gz.regs) (h2 : r.mem.dram = q.mem.dram) (h3 : r.adm.jobs = q.adm.jobs)
    (h4 : r.fab.fires = q.fab.fires) (h5 : r.pl.subs = q.pl.subs)  (h7 : r.time.tick = q.time.tick) (h : Keeps b p q) : Keeps b p r :=
  ⟨h1 ▸ h.regs, h2 ▸ h.dram, h3 ▸ h.jobs, h4 ▸ h.fires, h5 ▸ h.subs, h6 ▸ h.sent, h7 ▸ h.tick⟩

theorem Keeps.mkUpd {b : Bool} {p q : Part} {time : TimeSt} {gz : GzSt} {pl : PlSt} {fab : FabSt} {mem : MemSt} {seqs : Vector Seq 256}
    {plans : Vector (List TickPlan) 256} {dps : Vector Dp 256} {outs : Vector OutSt 256} {watch : Vector WatchSt 256} {grps : Vector GroupSt 16}
    {paced : KMap (List Nat)} {strm : StrmSt} {dram : DramSt} {adm : AdmSt} {pair : PairSt} {life : LifeSt} {sent : List Out}
    (h6 : sent = q.sent) (h1 : gz.regs = q.gz.regs) (h2 : mem.dram = q.mem.dram) (h3 : adm.jobs = q.adm.jobs)
    (h4 : fab.fires = q.fab.fires) (h5 : pl.subs = q.pl.subs) (h7 : time.tick = q.time.tick) (h : Keeps b p q) :
    Keeps b p ⟨time, gz, pl, fab, mem, seqs, plans, dps, outs, watch, grps, paced, strm, dram, adm, pair, life, sent⟩ := Keeps.upd h6 h1 h2 h3 h4 h5 h7 h

theorem Keeps.fold {b : Bool} {α : Type} {p : Part} {f : Part → α → Part} {l : List α} {a : Part} (hf : ∀ q, Keeps b p q → ∀ x, Keeps b p (f q x)) 
    (hb : Keeps b p a) : Keeps b p (l.foldl f a) := by
  induction l generalizing a with
  | nil => exact hb
  | cons x r ih => exact ih (hf a hb x)

theorem Keeps.ite {p x y : Part} {b : Bool} {c : Prop} [Decidable c] (ha : Keeps b p x) (hb : Keeps b p y) : Keeps b p (if c then x else y) := by
  split <;> assumption
theorem Keeps.ite1 {b : Bool} {β : Type} {p : Part} {x y : Part × β} {c : Prop} [Decidable c] (ha : Keeps b p x.1) (hb : Keeps b p y.1) :
    Keeps b p (if c then x else y).1 := by split <;> assumption

theorem setReg_keeps {b : Bool} {r p : Part} (h : Keeps b r p) (k v : Nat) : Keeps b r (setReg p k v) :=
  h.trans ⟨fun h => kwf_kset _ _ _ _ h, id, id, id, id, List.suffix_refl _, fun _ => rfl⟩

theorem addReg_keeps {b_ : Bool} {r_ p : Part} (h_ : Keeps b_ r_ p) (k : Nat) (d : Nat) : Keeps b_ r_ (addReg p k d) := by
  refine h_.trans ?_
  clear h_
  unfold addReg
  try dsimp only
  repeat' first
    | (intro)
    | with_reducible exact Keeps.refl _ _
    | with_reducible assumption
    | with_reducible apply setReg_keeps

theorem orReg_keeps {b_ : Bool} {r_ p : Part} (h_ : Keeps b_ r_ p) (k : Nat) (m : Nat) : Keeps b_ r_ (orReg p k m) := by
  refine h_.trans ?_
  clear h_
  unfold orReg
  try dsimp only
  repeat' first
    | (intro)
    | with_reducible exact Keeps.refl _ _
    | with_reducible assumption
    | with_reducible apply setReg_keeps

theorem clrReg_keeps {b_ : Bool} {r_ p : Part} (h_ : Keeps b_ r_ p) (k : Nat) (m : Nat) : Keeps b_ r_ (clrReg p k m) := by
  refine h_.trans ?_
  clear h_
  unfold clrReg
  try dsimp only
  repeat' first
    | (intro)
    | with_reducible exact Keeps.refl _ _
    | with_reducible assumption
    | with_reducible apply setReg_keeps

theorem setRegBit_keeps {b_ : Bool} {r_ p : Part} (h_ : Keeps b_ r_ p) (k : Nat) (i : Nat) (b : Bool) : Keeps b_ r_ (setRegBit p k i b) := by
  refine h_.trans ?_
  clear h_
  unfold setRegBit
  try dsimp only
  repeat' first
    | (intro)
    | with_reducible exact Keeps.refl _ _
    | with_reducible assumption
    | with_reducible apply setReg_keeps

theorem applyOp_keeps {b_ : Bool} {r_ p : Part} (h_ : Keeps b_ r_ p) (z0 : RegOp) : Keeps b_ r_ (applyOp p z0) := by
  refine h_.trans ?_
  clear h_
  unfold applyOp
  try dsimp only
  repeat' first
    | (intro)
    | with_reducible exact Keeps.refl _ _
    | with_reducible assumption
    | with_reducible apply setReg_keeps
    | with_reducible apply addReg_keeps
    | with_reducible apply orReg_keeps
    | with_reducible apply Keeps.ite
    | with_reducible apply Keeps.ite1
    | with_reducible apply Keeps.fold
    | fail_if_no_progress (with_reducible apply Keeps.mkUpd; (focus with_reducible rfl); iterate 6 (focus rfl))
    | split

theorem applyOps_keeps {b_ : Bool} {r_ p : Part} (h_ : Keeps b_ r_ p) (l : List RegOp) : Keeps b_ r_ (applyOps p l) := by
  refine h_.trans ?_; clear h_; unfold applyOps; try dsimp only
  repeat' first
    | (intro)
    | with_reducible first | exact Keeps.refl _ _ | assumption | apply applyOp_keeps | apply Keeps.fold

theorem atCyc_keeps {b_ : Bool} {r_ p : Part} (h_ : Keeps b_ r_ p) (c : Nat) : Keeps b_ r_ (atCyc p c) := by
  refine h_.trans ?_; clear h_; unfold atCyc; try dsimp only
  repeat' first
    | with_reducible first | exact Keeps.refl _ _ | assumption
    | fail_if_no_progress (with_reducible apply Keeps.mkUpd; (focus with_reducible rfl); iterate 6 (focus rfl))

theorem say_keeps {b : Bool} {r p : Part} (h : Keeps b r p) (o : Out) : Keeps b r (say p o) :=
  h.trans ⟨id, id, id, id, id, List.suffix_cons _ _, fun _ => rfl⟩

theorem raiseMsix_keeps {b_ : Bool} {r_ p : Part} (h_ : Keeps b_ r_ p) (v : Nat) : Keeps b_ r_ (raiseMsix p v) := by
  refine h_.trans ?_; clear h_; unfold raiseMsix; try dsimp only
  repeat' first
    | with_reducible first | exact Keeps.refl _ _ | assumption | apply say_keeps | apply Keeps.ite
    | fail_if_no_progress (with_reducible apply Keeps.mkUpd; (focus with_reducible rfl); iterate 6 (focus rfl))

theorem raiseAt_keeps {b_ : Bool} {r_ p : Part} (h_ : Keeps b_ r_ p) (tick off : Nat) (src gen : Nat) : Keeps b_ r_ (raiseAt p tick off src gen) := by
  refine h_.trans ?_; clear h_; unfold raiseAt; try dsimp only
  repeat' first
    | with_reducible first | exact Keeps.refl _ _ | assumption
    | fail_if_no_progress (with_reducible apply Keeps.mkUpd; (focus with_reducible rfl); iterate 6 (focus rfl))

theorem raiseNow_keeps {b_ : Bool} {r_ p : Part} (h_ : Keeps b_ r_ p) (src : Nat) : Keeps b_ r_ (raiseNow p src) := by
  refine h_.trans ?_; clear h_; unfold raiseNow; try dsimp only
  repeat' with_reducible first | exact Keeps.refl _ _ | assumption | apply raiseAt_keeps

theorem setSeq_keeps {b_ : Bool} {r_ p : Part} (h_ : Keeps b_ r_ p) (c : Chan) (s : Seq) : Keeps b_ r_ (setSeq p c s) := by
  refine h_.trans ?_; clear h_; unfold setSeq; try dsimp only
  repeat' first
    | with_reducible first | exact Keeps.refl _ _ | assumption
    | fail_if_no_progress (with_reducible apply Keeps.mkUpd; (focus with_reducible rfl); iterate 6 (focus rfl))

theorem setDp_keeps {b_ : Bool} {r_ p : Part} (h_ : Keeps b_ r_ p) (c : Chan) (d : Dp) : Keeps b_ r_ (setDp p c d) := by
  refine h_.trans ?_; clear h_; unfold setDp; try dsimp only
  repeat' first
    | with_reducible first | exact Keeps.refl _ _ | assumption
    | fail_if_no_progress (with_reducible apply Keeps.mkUpd; (focus with_reducible rfl); iterate 6 (focus rfl))

theorem setOut_keeps {b_ : Bool} {r_ p : Part} (h_ : Keeps b_ r_ p) (c : Chan) (o : OutSt) : Keeps b_ r_ (setOut p c o) := by
  refine h_.trans ?_; clear h_; unfold setOut; try dsimp only
  repeat' first
    | with_reducible first | exact Keeps.refl _ _ | assumption
    | fail_if_no_progress (with_reducible apply Keeps.mkUpd; (focus with_reducible rfl); iterate 6 (focus rfl))

theorem setGrp_keeps {b_ : Bool} {r_ p : Part} (h_ : Keeps b_ r_ p) (g : Grp) (x : GroupSt) : Keeps b_ r_ (setGrp p g x) := by
  refine h_.trans ?_; clear h_; unfold setGrp; try dsimp only
  repeat' first
    | with_reducible first | exact Keeps.refl _ _ | assumption
    | fail_if_no_progress (with_reducible apply Keeps.mkUpd; (focus with_reducible rfl); iterate 6 (focus rfl))

theorem inForce_keeps {b_ : Bool} {r_ p : Part} (h_ : Keeps b_ r_ p) : Keeps b_ r_ (inForce p) := by
  refine h_.trans ?_; clear h_; unfold inForce; try dsimp only
  repeat' first
    | with_reducible first | exact Keeps.refl _ _ | assumption
    | fail_if_no_progress (with_reducible apply Keeps.mkUpd; (focus with_reducible rfl); iterate 6 (focus rfl))

theorem putPlan_keeps {b_ : Bool} {r_ p : Part} (h_ : Keeps b_ r_ p) (c : Chan) (t : TickPlan) : Keeps b_ r_ (putPlan p c t) := by
  refine h_.trans ?_; clear h_; unfold putPlan; try dsimp only
  repeat' first
    | (intro)
    | with_reducible first | exact Keeps.refl _ _ | assumption
    | fail_if_no_progress (with_reducible apply Keeps.mkUpd; (focus with_reducible rfl); iterate 6 (focus rfl))

theorem addSpan_keeps {b_ : Bool} {r_ p : Part} (h_ : Keeps b_ r_ p) (c : Chan) (m : Nat) (s : Span) : Keeps b_ r_ (addSpan p c m s) := by
  refine h_.trans ?_; clear h_; unfold addSpan; try dsimp only
  repeat' first
    | with_reducible first | exact Keeps.refl _ _ | assumption | apply putPlan_keeps | apply Keeps.ite

theorem addEff_keeps {b_ : Bool} {r_ p : Part} (h_ : Keeps b_ r_ p) (c : Chan) (m r n : Nat) (e : Eff) : Keeps b_ r_ (addEff p c m r n e) := by
  refine h_.trans ?_; clear h_; unfold addEff; try dsimp only
  repeat' first
    | with_reducible first | exact Keeps.refl _ _ | assumption | apply putPlan_keeps

theorem addEdges_keeps {b_ : Bool} {r_ p : Part} (h_ : Keeps b_ r_ p) (c : Chan) (m : Nat) (l : List EdgeAt) : Keeps b_ r_ (addEdges p c m l) := by
  refine h_.trans ?_; clear h_; unfold addEdges; try dsimp only
  repeat' first
    | with_reducible first | exact Keeps.refl _ _ | assumption | apply putPlan_keeps | apply Keeps.ite

theorem addPulse_keeps {b_ : Bool} {r_ p : Part} (h_ : Keeps b_ r_ p) (c : Chan) (m n : Nat) (src gen : Nat) :
    Keeps b_ r_ (addPulse p c m n src gen) := by
  refine h_.trans ?_; clear h_; unfold addPulse; try dsimp only
  repeat' first
    | with_reducible first | exact Keeps.refl _ _ | assumption | apply putPlan_keeps

theorem addOp_keeps {b_ : Bool} {r_ p : Part} (h_ : Keeps b_ r_ p) (c : Chan) (m : Nat) (o : RegOp) : Keeps b_ r_ (addOp p c m o) := by
  refine h_.trans ?_; clear h_; unfold addOp; try dsimp only
  repeat' first
    | with_reducible first | exact Keeps.refl _ _ | assumption | apply putPlan_keeps

theorem addActed_keeps {b_ : Bool} {r_ p : Part} (h_ : Keeps b_ r_ p) (c : Chan) (m g : Nat) : Keeps b_ r_ (addActed p c m g) := by
  refine h_.trans ?_; clear h_; unfold addActed; try dsimp only
  repeat' first
    | with_reducible first | exact Keeps.refl _ _ | assumption | apply putPlan_keeps

theorem dropLatch_keeps {b_ : Bool} {r_ p : Part} (h_ : Keeps b_ r_ p) (k : Nat) : Keeps b_ r_ (dropLatch p k) := by
  refine h_.trans ?_; clear h_; unfold dropLatch; try dsimp only
  repeat' first
    | with_reducible first | exact Keeps.refl _ _ | assumption
    | fail_if_no_progress (with_reducible apply Keeps.mkUpd; (focus with_reducible rfl); iterate 6 (focus rfl))

theorem dropLatches_keeps {b_ : Bool} {r_ p : Part} (h_ : Keeps b_ r_ p) (l : List Nat) : Keeps b_ r_ (dropLatches p l) := by
  refine h_.trans ?_; clear h_; unfold dropLatches; try dsimp only
  repeat' first
    | (intro)
    | with_reducible first | exact Keeps.refl _ _ | assumption | apply dropLatch_keeps | apply Keeps.fold

theorem recordUe_keeps {b_ : Bool} {r_ p : Part} (h_ : Keeps b_ r_ p) (line port : Nat) : Keeps b_ r_ (recordUe p line port) := by
  refine h_.trans ?_; clear h_; unfold recordUe; try dsimp only
  repeat' first
    | with_reducible first
      | exact Keeps.refl _ _ | assumption | apply orReg_keeps | apply addReg_keeps | apply setReg_keeps | apply raiseNow_keeps | apply Keeps.ite
      | apply Keeps.ite1
    | fail_if_no_progress (with_reducible apply Keeps.mkUpd; (focus with_reducible rfl); iterate 6 (focus rfl))

theorem recordRange_keeps {b_ : Bool} {r_ p : Part} (h_ : Keeps b_ r_ p) (a n port : Nat) : Keeps b_ r_ (recordRange p a n port) := by
  refine h_.trans ?_; clear h_; unfold recordRange; try dsimp only
  repeat' first
    | (intro)
    | with_reducible first | exact Keeps.refl _ _ | assumption | apply recordUe_keeps | apply Keeps.fold

theorem writeOnes_keeps {b_ : Bool} {r_ p : Part} (h_ : Keeps b_ r_ p) (k m : Nat) : Keeps b_ r_ (writeOnes p k m) := by
  refine h_.trans ?_; clear h_; unfold writeOnes; try dsimp only
  repeat' with_reducible first | exact Keeps.refl _ _ | assumption | apply clrReg_keeps

theorem rearm_keeps {b_ : Bool} {r_ p : Part} (h_ : Keeps b_ r_ p) (c : Chan) (m : Nat) : Keeps b_ r_ (rearm p c m) := by
  refine h_.trans ?_; clear h_; unfold rearm; try dsimp only
  repeat' first
    | with_reducible first | exact Keeps.refl _ _ | assumption
    | fail_if_no_progress (with_reducible apply Keeps.mkUpd; (focus with_reducible rfl); iterate 6 (focus rfl))

theorem setBusy_keeps {b_ : Bool} {r_ p : Part} (h_ : Keeps b_ r_ p) (d : Domain) (b : Bool) : Keeps b_ r_ (setBusy p d b) := by
  refine h_.trans ?_; clear h_; unfold setBusy; try dsimp only
  repeat' with_reducible first | exact Keeps.refl _ _ | assumption | apply setRegBit_keeps

theorem setOverrun_keeps {b_ : Bool} {r_ p : Part} (h_ : Keeps b_ r_ p) (d : Domain) : Keeps b_ r_ (setOverrun p d) := by
  refine h_.trans ?_; clear h_; unfold setOverrun; try dsimp only
  repeat' with_reducible first | exact Keeps.refl _ _ | assumption | apply setRegBit_keeps

theorem logAbort_keeps {b_ : Bool} {r_ p : Part} (h_ : Keeps b_ r_ p) (path : Path) (op code : Nat) (index sub value : Nat) :
    Keeps b_ r_ (logAbort p path op code index sub value) := by
  refine h_.trans ?_; clear h_; unfold logAbort; try dsimp only
  repeat' with_reducible first | exact Keeps.refl _ _ | assumption | apply setReg_keeps

theorem clearLog_keeps {b_ : Bool} {r_ p : Part} (h_ : Keeps b_ r_ p) : Keeps b_ r_ (clearLog p) := by
  refine h_.trans ?_; clear h_; unfold clearLog; try dsimp only
  repeat' first
    | (intro)
    | with_reducible first | exact Keeps.refl _ _ | assumption | apply setReg_keeps | apply Keeps.fold

end Sys2Proof.Machine
end

