-- ==== Sys2Proof/Laws/KeepsSequencer.lean ====
section
/-!
SUPPORT. The operations of the sequencer, the decide stage, synthesis and the event fabric have the relation of Laws/Keeps.
-/

namespace Sys2Proof.Machine

theorem dropJumpsTo_keeps {b_ : Bool} {r_ p : Part} (h_ : Keeps b_ r_ p) (c : Chan) (n : Nat) (keep : Option Nat) :
    Keeps b_ r_ (dropJumpsTo p c n keep) := by
  refine h_.trans ?_; clear h_; unfold dropJumpsTo; try dsimp only
  repeat' first
    | (intro)
    | with_reducible first | exact Keeps.refl _ _ | assumption | apply dropLatch_keeps | apply addReg_keeps | apply Keeps.ite | apply Keeps.fold

theorem dropAllJumps_keeps {b_ : Bool} {r_ p : Part} (h_ : Keeps b_ r_ p) (c : Chan) : Keeps b_ r_ (dropAllJumps p c) := by
  refine h_.trans ?_; clear h_; unfold dropAllJumps; try dsimp only
  repeat' first
    | (intro)
    | with_reducible first | exact Keeps.refl _ _ | assumption | apply addReg_keeps | apply dropLatch_keeps | apply Keeps.fold

theorem actOn_keeps {b_ : Bool} {r_ p : Part} (h_ : Keeps b_ r_ p) (c : Chan) (m n g : Nat) : Keeps b_ r_ (actOn p c m n g) := by
  refine h_.trans ?_; clear h_; unfold actOn; try dsimp only
  repeat' first
    | with_reducible first | exact Keeps.refl _ _ | assumption | apply addActed_keeps | apply setSeq_keeps | apply Keeps.ite

theorem skipTo_keeps {b_ : Bool} {r_ p : Part} (h_ : Keeps b_ r_ p) (c : Chan) (pos : Nat) : Keeps b_ r_ (skipTo p c pos) := by
  refine h_.trans ?_; clear h_; unfold skipTo; try dsimp only
  repeat' first
    | (intro)
    | with_reducible first | exact Keeps.refl _ _ | assumption | apply addReg_keeps | apply Keeps.ite | apply Keeps.ite1 | apply Keeps.fold

theorem endReservation_keeps {b_ : Bool} {r_ p : Part} (h_ : Keeps b_ r_ p) (c : Chan) : Keeps b_ r_ (endReservation p c) := by
  refine h_.trans ?_; clear h_; unfold endReservation; try dsimp only
  repeat' first
    | (intro)
    | with_reducible first | exact Keeps.refl _ _ | assumption | apply skipTo_keeps | apply Keeps.ite1 | apply Keeps.fold
    | fail_if_no_progress (with_reducible apply Keeps.mkUpd; (focus with_reducible rfl); iterate 6 (focus rfl))

theorem settleQueue_keeps {b_ : Bool} {r_ p : Part} (h_ : Keeps b_ r_ p) (q : Nat) : Keeps b_ r_ (settleQueue p q) := by
  refine h_.trans ?_; clear h_; unfold settleQueue; try dsimp only
  repeat' first
    | (intro)
    | with_reducible first | exact Keeps.refl _ _ | assumption | apply setReg_keeps | apply raiseNow_keeps | apply Keeps.ite
    | fail_if_no_progress (with_reducible apply Keeps.mkUpd; (focus with_reducible rfl); iterate 6 (focus rfl))

theorem reserve_keeps {b_ : Bool} {r_ p : Part} (h_ : Keeps b_ r_ p) (c : Chan) (d : Nat) : Keeps b_ r_ (reserve p c d).1 := by
  refine h_.trans ?_; clear h_; unfold reserve; try dsimp only
  repeat' first
    | with_reducible first
      | exact Keeps.refl _ _ | assumption | apply endReservation_keeps | apply setReg_keeps | apply settleQueue_keeps | apply Keeps.ite
      | apply Keeps.ite1
    | fail_if_no_progress (with_reducible apply Keeps.mkUpd; (focus with_reducible rfl); iterate 6 (focus rfl))

theorem place_keeps {b_ : Bool} {r_ p : Part} (h_ : Keeps b_ r_ p) (c : Chan) (m begin_ end_ : Nat) (src : Src) :
    Keeps b_ r_ (place p c m begin_ end_ src) := by
  refine h_.trans ?_; clear h_; unfold place; try dsimp only
  repeat' first
    | with_reducible first | exact Keeps.refl _ _ | assumption | apply addSpan_keeps | apply setSeq_keeps | apply Keeps.ite

theorem placeLost_keeps {b_ : Bool} {r_ p : Part} (h_ : Keeps b_ r_ p) (c : Chan) (m a b : Nat) : Keeps b_ r_ (placeLost p c m a b) := by
  refine h_.trans ?_; clear h_; unfold placeLost; try dsimp only
  repeat' first
    | with_reducible first | exact Keeps.refl _ _ | assumption | apply addSpan_keeps | apply setSeq_keeps

theorem recordLost_keeps {b_ : Bool} {r_ p : Part} (h_ : Keeps b_ r_ p) (d pos : Nat) (idx stop : Nat) :
    Keeps b_ r_ (recordLost p d pos idx stop) := by
  refine h_.trans ?_; clear h_; unfold recordLost; try dsimp only
  repeat' first
    | (intro)
    | with_reducible first | exact Keeps.refl _ _ | assumption | apply atCyc_keeps | apply recordUe_keeps | apply Keeps.fold

theorem placePlay_keeps {b_ : Bool} {r_ p : Part} (h_ : Keeps b_ r_ p) (c : Chan) (m d start pos k a b : Nat) :
    Keeps b_ r_ (placePlay p c m d start pos k a b).1 := by
  induction k generalizing p a with
  | zero => exact h_
  | succ k ih =>
    unfold placePlay
    dsimp only
    repeat' first
      | with_reducible first
        | assumption | apply ih | apply place_keeps | apply placeLost_keeps | apply recordLost_keeps | apply addOp_keeps | apply addEdges_keeps
        | apply Keeps.ite
      | split

theorem goTo_keeps {b_ : Bool} {r_ p : Part} (h_ : Keeps b_ r_ p) (c : Chan) (n : Nat) (a : Act) (fresh seam : Bool) :
    Keeps b_ r_ (goTo p c n a fresh seam) := by
  refine h_.trans ?_; clear h_; unfold goTo; try dsimp only
  repeat' first
    | with_reducible first | exact Keeps.refl _ _ | assumption | apply setSeq_keeps

theorem countStep_keeps {b_ : Bool} {r_ p : Part} (h_ : Keeps b_ r_ p) (c : Chan) (m : Nat) : Keeps b_ r_ (countStep p c m) := by
  refine h_.trans ?_; clear h_; unfold countStep; try dsimp only
  repeat' with_reducible first | exact Keeps.refl _ _ | assumption | apply addOp_keeps

theorem beginEpisode_keeps {b_ : Bool} {r_ p : Part} (h_ : Keeps b_ r_ p) (c : Chan) (m q : Nat) (policy n idx : Nat) :
    Keeps b_ r_ (beginEpisode p c m q policy n idx) := by
  refine h_.trans ?_; clear h_; unfold beginEpisode; try dsimp only
  repeat' first
    | with_reducible first | exact Keeps.refl _ _ | assumption | apply setSeq_keeps | apply addPulse_keeps | apply addOp_keeps

theorem endEpisode_keeps {b_ : Bool} {r_ p : Part} (h_ : Keeps b_ r_ p) (c : Chan) (m n : Nat) : Keeps b_ r_ (endEpisode p c m n) := by
  refine h_.trans ?_; clear h_; unfold endEpisode; try dsimp only
  repeat' first
    | with_reducible first | exact Keeps.refl _ _ | assumption | apply addOp_keeps | apply setSeq_keeps
    | fail_if_no_progress (with_reducible apply Keeps.mkUpd; (focus with_reducible rfl); iterate 6 (focus rfl))
    | split

theorem cutRest_keeps {b_ : Bool} {r_ p : Part} (h_ : Keeps b_ r_ p) (c : Chan) (m j : Nat) : Keeps b_ r_ (cutRest p c m j) := by
  refine h_.trans ?_; clear h_; unfold cutRest; try dsimp only
  repeat' first
    | with_reducible first | exact Keeps.refl _ _ | assumption | apply addOp_keeps | apply Keeps.ite

theorem enterPath_keeps {b_ : Bool} {r_ p : Part} (h_ : Keeps b_ r_ p) (c : Chan) (m j : Nat) (o : Option Nat) :
    Keeps b_ r_ (enterPath p c m j o) := by
  refine h_.trans ?_; clear h_; unfold enterPath; try dsimp only
  repeat' first
    | with_reducible first
      | exact Keeps.refl _ _ | assumption | apply endReservation_keeps | apply endEpisode_keeps | apply cutRest_keeps | apply setSeq_keeps

theorem jumpAt_keeps {b_ : Bool} {r_ p : Part} (h_ : Keeps b_ r_ p) (c : Chan) (m j wp : Nat) (input : Option Nat) :
    Keeps b_ r_ (jumpAt p c m j wp input) := by
  refine h_.trans ?_; clear h_; unfold jumpAt; try dsimp only
  repeat' first
    | with_reducible first
      | exact Keeps.refl _ _ | assumption | apply dropJumpsTo_keeps | apply enterPath_keeps | apply addPulse_keeps | apply addOp_keeps

theorem takeJump_keeps {b_ : Bool} {r_ p : Part} (h_ : Keeps b_ r_ p) (c : Chan) (m j : Nat) (x : Jump) : Keeps b_ r_ (takeJump p c m j x) := by
  refine h_.trans ?_; clear h_; unfold takeJump; try dsimp only
  repeat' with_reducible first | exact Keeps.refl _ _ | assumption | apply jumpAt_keeps | apply actOn_keeps

theorem getStuck_keeps {b_ : Bool} {r_ p : Part} (h_ : Keeps b_ r_ p) (c : Chan) (pc : Nat) (w : StuckWhy) : Keeps b_ r_ (getStuck p c pc w) := by
  refine h_.trans ?_; clear h_; unfold getStuck; try dsimp only
  repeat' first
    | with_reducible first | exact Keeps.refl _ _ | assumption | apply setSeq_keeps

theorem goTarget_keeps {b_ : Bool} {r_ p : Part} (h_ : Keeps b_ r_ p) (c : Chan) (pc n : Nat) (t : Target) : Keeps b_ r_ (goTarget p c pc n t) := by
  refine h_.trans ?_; clear h_; unfold goTarget; try dsimp only
  repeat' first
    | with_reducible first | exact Keeps.refl _ _ | assumption | apply setSeq_keeps | apply getStuck_keeps
    | fail_if_no_progress (with_reducible apply Keeps.mkUpd; (focus with_reducible rfl); iterate 6 (focus rfl))
    | split

theorem beginPlay_keeps {b_ : Bool} {r_ p : Part} (h_ : Keeps b_ r_ p) (c : Chan) (m pc : Nat) (n d : Nat) (left : Option Nat) (evm : Nat)
    (clr ex : Bool) : Keeps b_ r_ (beginPlay p c m pc n d left evm clr ex) := by
  refine h_.trans ?_; clear h_; unfold beginPlay; try dsimp only
  repeat' first
    | with_reducible first
      | exact Keeps.refl _ _ | assumption | apply setSeq_keeps | apply reserve_keeps | apply goTo_keeps | apply addOp_keeps

theorem beginWait_keeps {b_ : Bool} {r_ p : Part} (h_ : Keeps b_ r_ p) (c : Chan) (pc next : Nat) (n out : Nat) (what : WaitFor)
    (rel : Option Nat) : Keeps b_ r_ (beginWait p c pc next n out what rel) := by
  refine h_.trans ?_; clear h_; unfold beginWait; try dsimp only
  repeat' with_reducible first | exact Keeps.refl _ _ | assumption | apply goTo_keeps

theorem execStep_keeps {b_ : Bool} {r_ p : Part} (h_ : Keeps b_ r_ p) (c : Chan) (m pc : Nat) (i : Step) : Keeps b_ r_ (execStep p c m pc i) := by
  refine h_.trans ?_; clear h_; unfold execStep; try dsimp only
  repeat' first
    | (intro)
    | with_reducible first
      | exact Keeps.refl _ _ | assumption | apply countStep_keeps | apply beginPlay_keeps | apply getStuck_keeps | apply setSeq_keeps
      | apply goTo_keeps | apply goTarget_keeps | apply addActed_keeps | apply dropLatches_keeps | apply beginWait_keeps | apply addOp_keeps
      | apply addEff_keeps | apply fire_keeps | apply addPulse_keeps | apply endEpisode_keeps | apply Keeps.ite | apply Keeps.ite1
      | apply Keeps.fold
    | fail_if_no_progress (with_reducible apply Keeps.mkUpd; (focus with_reducible rfl); iterate 6 (focus rfl))
    | split

theorem enterStepped_keeps {b_ : Bool} {r_ p : Part} (h_ : Keeps b_ r_ p) (c : Chan) (m pc n : Nat) : Keeps b_ r_ (enterStepped p c m pc n) := by
  refine h_.trans ?_; clear h_; unfold enterStepped; try dsimp only
  repeat' with_reducible first | exact Keeps.refl _ _ | assumption | apply beginWait_keeps | apply addPulse_keeps

theorem advStep_keeps {b_ : Bool} {r_ p : Part} (h_ : Keeps b_ r_ p) (c : Chan) (m pc : Nat) (i : Option Step) :
    Keeps b_ r_ (advStep p c m pc i) := by
  refine h_.trans ?_; clear h_; unfold advStep; try dsimp only
  repeat' first
    | with_reducible first
      | exact Keeps.refl _ _ | assumption | apply takeJump_keeps | apply enterStepped_keeps | apply getStuck_keeps | apply execStep_keeps
      | apply Keeps.ite
    | split

theorem advRun_keeps {b_ : Bool} {r_ p : Part} (h_ : Keeps b_ r_ p) (c : Chan) (m pc : Nat) : Keeps b_ r_ (advRun p c m pc) := by
  refine h_.trans ?_; clear h_; unfold advRun; try dsimp only
  repeat' with_reducible first | exact Keeps.refl _ _ | assumption | apply advStep_keeps

theorem resolveExit_keeps {b_ : Bool} {r_ p : Part} (h_ : Keeps b_ r_ p) (c : Chan) (m : Nat) (x : Play) : Keeps b_ r_ (resolveExit p c m x).1 := by
  refine h_.trans ?_; clear h_; unfold resolveExit; try dsimp only
  repeat' first
    | (intro)
    | with_reducible first | exact Keeps.refl _ _ | assumption | apply addActed_keeps | apply dropLatches_keeps | apply Keeps.ite | apply Keeps.ite1
    | fail_if_no_progress (with_reducible apply Keeps.mkUpd; (focus with_reducible rfl); iterate 6 (focus rfl))
    | split

theorem seamOf_keeps {b_ : Bool} {r_ p : Part} (h_ : Keeps b_ r_ p) (c : Chan) (m n : Nat) (x : Play) : Keeps b_ r_ (seamOf p c m n x) := by
  refine h_.trans ?_; clear h_; unfold seamOf; try dsimp only
  repeat' first
    | (intro)
    | with_reducible first
      | exact Keeps.refl _ _ | assumption | apply addOp_keeps | apply goTo_keeps | apply endReservation_keeps | apply endEpisode_keeps
      | apply takeJump_keeps | apply reserve_keeps | apply countStep_keeps | apply Keeps.ite | apply Keeps.ite1
    | fail_if_no_progress (with_reducible apply Keeps.mkUpd; (focus with_reducible rfl); iterate 6 (focus rfl))
    | split

theorem consume_keeps {b_ : Bool} {r_ p : Part} (h_ : Keeps b_ r_ p) (c : Chan) (pos : Nat) : Keeps b_ r_ (consume p c pos) := by
  refine h_.trans ?_; clear h_; unfold consume; try dsimp only
  repeat' first
    | (intro)
    | with_reducible first | exact Keeps.refl _ _ | assumption | apply Keeps.ite | apply Keeps.ite1
    | fail_if_no_progress (with_reducible apply Keeps.mkUpd; (focus with_reducible rfl); iterate 6 (focus rfl))

theorem placeGap_keeps {b_ : Bool} {r_ p : Part} (h_ : Keeps b_ r_ p) (c : Chan) (m a b : Nat) : Keeps b_ r_ (placeGap p c m a b) := by
  refine h_.trans ?_; clear h_; unfold placeGap; try dsimp only
  repeat' first
    | with_reducible first | exact Keeps.refl _ _ | assumption | apply addOp_keeps | apply addSpan_keeps | apply Keeps.ite
    | split

theorem placeStream_keeps {b_ : Bool} {r_ p : Part} (h_ : Keeps b_ r_ p) (c : Chan) (m a b : Nat) (x : Play) :
    Keeps b_ r_ (placeStream p c m a b x).1 := by
  refine h_.trans ?_; clear h_; unfold placeStream; try dsimp only
  repeat' first
    | with_reducible first
      | exact Keeps.refl _ _ | assumption | apply endEpisode_keeps | apply addOp_keeps | apply setSeq_keeps | apply goTo_keeps | apply place_keeps
      | apply placeGap_keeps | apply placePlay_keeps | apply consume_keeps | apply skipTo_keeps | apply beginEpisode_keeps | apply Keeps.ite
      | apply Keeps.ite1
    | fail_if_no_progress (with_reducible apply Keeps.mkUpd; (focus with_reducible rfl); iterate 6 (focus rfl))
    | split

theorem advPlay_keeps {b_ : Bool} {r_ p : Part} (h_ : Keeps b_ r_ p) (c : Chan) (m : Nat) (x : Play) : Keeps b_ r_ (advPlay p c m x) := by
  refine h_.trans ?_; clear h_; unfold advPlay; try dsimp only
  repeat' first
    | (intro)
    | with_reducible first
      | exact Keeps.refl _ _ | assumption | apply resolveExit_keeps | apply placeStream_keeps | apply placePlay_keeps | apply jumpAt_keeps
      | apply setSeq_keeps | apply goTo_keeps | apply takeJump_keeps | apply endReservation_keeps | apply endEpisode_keeps | apply seamOf_keeps
      | apply Keeps.ite | apply Keeps.ite1
    | fail_if_no_progress (with_reducible apply Keeps.mkUpd; (focus with_reducible rfl); iterate 6 (focus rfl))
    | split

theorem resolveWait_keeps {b_ : Bool} {r_ p : Part} (h_ : Keeps b_ r_ p) (c : Chan) (m : Nat) (w : Wait) : Keeps b_ r_ (resolveWait p c m w).1 := by
  refine h_.trans ?_; clear h_; unfold resolveWait; try dsimp only
  repeat' first
    | (intro)
    | with_reducible first
      | exact Keeps.refl _ _ | assumption | apply actOn_keeps | apply dropLatches_keeps | apply addReg_keeps | apply dropLatch_keeps
      | apply addOp_keeps | apply Keeps.ite | apply Keeps.ite1 | apply Keeps.fold
    | fail_if_no_progress (with_reducible apply Keeps.mkUpd; (focus with_reducible rfl); iterate 6 (focus rfl))
    | split

theorem advWait_keeps {b_ : Bool} {r_ p : Part} (h_ : Keeps b_ r_ p) (c : Chan) (m : Nat) (w : Wait) : Keeps b_ r_ (advWait p c m w) := by
  refine h_.trans ?_; clear h_; unfold advWait; try dsimp only
  repeat' first
    | (intro)
    | with_reducible first
      | exact Keeps.refl _ _ | assumption | apply resolveWait_keeps | apply place_keeps | apply takeJump_keeps | apply goTo_keeps | apply Keeps.ite
      | apply Keeps.ite1
    | split

theorem advHalted_keeps {b_ : Bool} {r_ p : Part} (h_ : Keeps b_ r_ p) (c : Chan) (m pc : Nat) (h since : Nat) :
    Keeps b_ r_ (advHalted p c m pc h since) := by
  refine h_.trans ?_; clear h_; unfold advHalted; try dsimp only
  repeat' first
    | with_reducible first | exact Keeps.refl _ _ | assumption | apply dropJumpsTo_keeps | apply place_keeps | apply goTo_keeps | apply Keeps.ite

theorem advance_keeps {b_ : Bool} {r_ p : Part} (h_ : Keeps b_ r_ p) (c : Chan) (m : Nat) : Keeps b_ r_ (advance p c m) := by
  refine h_.trans ?_; clear h_; unfold advance; try dsimp only
  repeat' first
    | with_reducible first
      | exact Keeps.refl _ _ | assumption | apply advRun_keeps | apply advPlay_keeps | apply advWait_keeps | apply advHalted_keeps
      | apply goTo_keeps | apply dropJumpsTo_keeps
    | split

theorem advanceAll_keeps {b_ : Bool} {r_ : Part} (m k : Nat) {p : Part} (h_ : Keeps b_ r_ p) : Keeps b_ r_ (advanceAll m k p) := by
  induction k generalizing p with
  | zero => unfold advanceAll; split <;> first | assumption | (apply getStuck_keeps; assumption)
  | succ k ih => unfold advanceAll; split <;> first | assumption | (apply ih; apply advance_keeps; assumption)

theorem advanceChan_keeps {b_ : Bool} {r_ : Part} (c : Chan) (m k : Nat) {p : Part} (h_ : Keeps b_ r_ p) : Keeps b_ r_ (advanceChan c m k p) := by
  induction k generalizing p with
  | zero => unfold advanceChan; split <;> first | assumption | (apply getStuck_keeps; assumption)
  | succ k ih => unfold advanceChan; split <;> first | assumption | (apply ih; apply advance_keeps; assumption)

theorem withPlan_keeps {b_ : Bool} {r_ p : Part} (h_ : Keeps b_ r_ p) (c base size entry : Nat) : Keeps b_ r_ (withPlan p c base size entry) := by
  refine h_.trans ?_; clear h_; unfold withPlan; try dsimp only
  repeat' with_reducible first | exact Keeps.refl _ _ | assumption | apply setReg_keeps | apply inForce_keeps

theorem freeze_keeps {b_ : Bool} {r_ p : Part} (h_ : Keeps b_ r_ p) (g : Grp) (l : List (Nat × Nat × Nat)) : Keeps b_ r_ (freeze p g l) := by
  refine h_.trans ?_; clear h_; unfold freeze; try dsimp only
  repeat' first
    | (intro)
    | with_reducible first | exact Keeps.refl _ _ | assumption | apply setGrp_keeps | apply Keeps.ite | apply Keeps.ite1 | apply Keeps.fold
    | fail_if_no_progress (with_reducible apply Keeps.mkUpd; (focus with_reducible rfl); iterate 6 (focus rfl))

theorem retractAll_keeps {b_ : Bool} {r_ p : Part} (h_ : Keeps b_ r_ p) (c : Chan) (n gen : Nat) : Keeps b_ r_ (retractAll p c n gen) := by
  refine h_.trans ?_; clear h_; unfold retractAll; try dsimp only
  repeat' first
    | (intro)
    | with_reducible first | exact Keeps.refl _ _ | assumption | apply addReg_keeps | apply setSeq_keeps

theorem dropFetched_keeps {b_ : Bool} {r_ p : Part} (h_ : Keeps b_ r_ p) (c : Chan) (m : Nat) : Keeps b_ r_ (dropFetched p c m) := by
  refine h_.trans ?_; clear h_; unfold dropFetched; try dsimp only
  repeat' first
    | (intro)
    | with_reducible first | exact Keeps.refl _ _ | assumption | apply addReg_keeps | apply setSeq_keeps | apply Keeps.ite1
    | fail_if_no_progress (with_reducible apply Keeps.mkUpd; (focus with_reducible rfl); iterate 6 (focus rfl))

theorem stopChan_keeps {b_ : Bool} {r_ p : Part} (h_ : Keeps b_ r_ p) (c : Chan) (m gen : Nat) : Keeps b_ r_ (stopChan p c m gen) := by
  refine h_.trans ?_; clear h_; unfold stopChan; try dsimp only
  repeat' first
    | with_reducible first
      | exact Keeps.refl _ _ | assumption | apply cutRest_keeps | apply endReservation_keeps | apply dropAllJumps_keeps | apply retractAll_keeps
      | apply dropFetched_keeps | apply setSeq_keeps

theorem startChan_keeps {b_ : Bool} {r_ p : Part} (h_ : Keeps b_ r_ p) (c : Chan) (m : Nat) : Keeps b_ r_ (startChan p c m) := by
  refine h_.trans ?_; clear h_; unfold startChan; try dsimp only
  repeat' first
    | (intro)
    | with_reducible first
      | exact Keeps.refl _ _ | assumption | apply dropFetched_keeps | apply dropLatches_keeps | apply dropAllJumps_keeps | apply setSeq_keeps
      | apply addEff_keeps | apply Keeps.ite | apply Keeps.ite1 | apply Keeps.fold

theorem fixStrobe_keeps {b_ : Bool} {r_ p : Part} (h_ : Keeps b_ r_ p) (g : Grp) (m : Nat) : Keeps b_ r_ (fixStrobe p g m) := by
  refine h_.trans ?_; clear h_; unfold fixStrobe; try dsimp only
  repeat' first
    | with_reducible first | exact Keeps.refl _ _ | assumption | apply setGrp_keeps | apply Keeps.ite

theorem planStrobe_keeps {b_ : Bool} {r_ p : Part} (h_ : Keeps b_ r_ p) (g : Grp) (m : Nat) : Keeps b_ r_ (planStrobe p g m) := by
  refine h_.trans ?_; clear h_; unfold planStrobe; try dsimp only
  repeat' first
    | (intro)
    | with_reducible first
      | exact Keeps.refl _ _ | assumption | apply freeze_keeps | apply fixStrobe_keeps | apply addEff_keeps | apply addOp_keeps | apply Keeps.ite1
      | apply Keeps.fold
    | split

theorem groupPulse_keeps {b_ : Bool} {r_ p : Part} (h_ : Keeps b_ r_ p) (g : Grp) (m input : Nat) : Keeps b_ r_ (groupPulse p g m input) := by
  refine h_.trans ?_; clear h_; unfold groupPulse; try dsimp only
  repeat' first
    | with_reducible first
      | exact Keeps.refl _ _ | assumption | apply dropLatch_keeps | apply setReg_keeps | apply setGrp_keeps | apply addReg_keeps | apply Keeps.ite
    | fail_if_no_progress (with_reducible apply Keeps.mkUpd; (focus with_reducible rfl); iterate 6 (focus rfl))
    | split

theorem groupTick_keeps {b_ : Bool} {r_ p : Part} (h_ : Keeps b_ r_ p) (g : Grp) (m : Nat) : Keeps b_ r_ (groupTick p g m) := by
  refine h_.trans ?_; clear h_; unfold groupTick; try dsimp only
  repeat' first
    | (intro)
    | with_reducible first
      | exact Keeps.refl _ _ | assumption | apply groupPulse_keeps | apply stopChan_keeps | apply freeze_keeps | apply planStrobe_keeps
      | apply startChan_keeps | apply fixStrobe_keeps | apply Keeps.ite | apply Keeps.fold

theorem commitTick_keeps {b_ : Bool} {r_ p : Part} (h_ : Keeps b_ r_ p) (m : Nat) (k : PlanCommit) : Keeps b_ r_ (commitTick p m k) := by
  refine h_.trans ?_; clear h_; unfold commitTick; try dsimp only
  repeat' first
    | with_reducible first
      | exact Keeps.refl _ _ | assumption | apply freeze_keeps | apply endReservation_keeps | apply endEpisode_keeps | apply cutRest_keeps
      | apply setSeq_keeps | apply enterPath_keeps | apply Keeps.ite

theorem gateInput_keeps {b_ : Bool} {r_ p : Part} (h_ : Keeps b_ r_ p) (c : Chan) (m i : Nat) : Keeps b_ r_ (gateInput c m p i) := by
  refine h_.trans ?_; clear h_; unfold gateInput; try dsimp only
  repeat' first
    | with_reducible first | exact Keeps.refl _ _ | assumption | apply addEff_keeps | apply dropLatch_keeps | apply Keeps.ite
    | split

theorem gateTick_keeps {b_ : Bool} {r_ p : Part} (h_ : Keeps b_ r_ p) (c : Chan) (m : Nat) : Keeps b_ r_ (gateTick p c m) := by
  refine h_.trans ?_; clear h_; unfold gateTick; try dsimp only
  repeat' first
    | (intro)
    | with_reducible first | exact Keeps.refl _ _ | assumption | apply gateInput_keeps | apply Keeps.ite | apply Keeps.fold

theorem syncTick_keeps {b_ : Bool} {r_ p : Part} (h_ : Keeps b_ r_ p) (g : Grp) (m : Nat) : Keeps b_ r_ (syncTick p g m) := by
  refine h_.trans ?_; clear h_; unfold syncTick; try dsimp only
  repeat' first
    | (intro)
    | with_reducible first | exact Keeps.refl _ _ | assumption | apply setSeq_keeps | apply addOp_keeps | apply Keeps.ite | apply Keeps.fold
    | fail_if_no_progress (with_reducible apply Keeps.mkUpd; (focus with_reducible rfl); iterate 6 (focus rfl))
    | split

theorem pacedInstant_keeps {b_ : Bool} {r_ p : Part} (h_ : Keeps b_ r_ p) (c : Chan) (m n : Nat) : Keeps b_ r_ (pacedInstant p c m n) := by
  refine h_.trans ?_; clear h_; unfold pacedInstant; try dsimp only
  repeat' first
    | (intro)
    | with_reducible first | exact Keeps.refl _ _ | assumption | apply addOp_keeps | apply addEff_keeps | apply addPulse_keeps | apply Keeps.ite
    | fail_if_no_progress (with_reducible apply Keeps.mkUpd; (focus with_reducible rfl); iterate 6 (focus rfl))
    | split

theorem pacedTick_keeps {b_ : Bool} {r_ p : Part} (h_ : Keeps b_ r_ p) (c : Chan) (m : Nat) : Keeps b_ r_ (pacedTick p c m) := by
  refine h_.trans ?_; clear h_; unfold pacedTick; try dsimp only
  repeat' first
    | (intro)
    | with_reducible first
      | exact Keeps.refl _ _ | assumption | apply setSeq_keeps | apply pacedInstant_keeps | apply dropLatch_keeps | apply Keeps.ite
      | apply Keeps.fold
    | fail_if_no_progress (with_reducible apply Keeps.mkUpd; (focus with_reducible rfl); iterate 6 (focus rfl))
    | split

theorem sealPulses_keeps {b_ : Bool} {r_ p : Part} (h_ : Keeps b_ r_ p) (c : Chan) (m : Nat) : Keeps b_ r_ (sealPulses p c m) := by
  refine h_.trans ?_; clear h_; unfold sealPulses; try dsimp only
  repeat' first
    | (intro)
    | with_reducible first | exact Keeps.refl _ _ | assumption | apply setSeq_keeps | apply putPlan_keeps | apply Keeps.ite

theorem optimist_keeps {b_ : Bool} {r_ p : Part} (h_ : Keeps b_ r_ p) : Keeps b_ r_ (optimist p) := by
  refine h_.trans ?_; clear h_; unfold optimist; try dsimp only
  repeat' first
    | (intro)
    | with_reducible first | exact Keeps.refl _ _ | assumption
    | fail_if_no_progress (with_reducible apply Keeps.mkUpd; (focus with_reducible rfl); iterate 6 (focus rfl))

theorem runAhead_keeps {b_ : Bool} {r_ : Part} (c : Chan) (k m : Nat) {x : Part × List (Nat × Act)} (h_ : Keeps b_ r_ x.1) :
    Keeps b_ r_ (runAhead c k m x).1 := by
  induction k generalizing x m with
  | zero => unfold runAhead; exact h_
  | succ k ih => obtain ⟨p, l⟩ := x; unfold runAhead; apply ih; exact advanceChan_keeps c m 512 (syncTick_keeps h_ _ _)

theorem settleLeads_keeps {b_ : Bool} {r_ p : Part} (h_ : Keeps b_ r_ p) (c : Chan) (m : Nat) (found : List (Nat × Nat × Nat)) (path : List
    (Nat × Act)) : Keeps b_ r_ (settleLeads p c m found path) := by
  refine h_.trans ?_; clear h_; unfold settleLeads; try dsimp only
  repeat' first
    | (intro)
    | with_reducible first | exact Keeps.refl _ _ | assumption | apply addReg_keeps | apply setSeq_keeps

theorem askFor_keeps {b_ : Bool} {r_ p : Part} (h_ : Keeps b_ r_ p) (c : Chan) (m : Nat) (had reach : List Chunk) (heads : List (Nat × Nat)) :
    Keeps b_ r_ (askFor p c m had reach heads) := by
  refine h_.trans ?_; clear h_; unfold askFor; try dsimp only
  repeat' first
    | (intro)
    | with_reducible first | exact Keeps.refl _ _ | assumption | apply Keeps.ite | apply Keeps.ite1
    | fail_if_no_progress (with_reducible apply Keeps.mkUpd; (focus with_reducible rfl); iterate 6 (focus rfl))

theorem fetchAhead_keeps {b_ : Bool} {r_ p : Part} (h_ : Keeps b_ r_ p) (c : Chan) (m : Nat) (plan want : List Chunk) (heads : List (Nat × Nat)) :
    Keeps b_ r_ (fetchAhead p c m plan want heads) := by
  refine h_.trans ?_; clear h_; unfold fetchAhead; try dsimp only
  repeat' first
    | (intro)
    | with_reducible first
      | exact Keeps.refl _ _ | assumption | apply askFor_keeps | apply addReg_keeps | apply setSeq_keeps

theorem predict_keeps {b_ : Bool} {r_ p : Part} (h_ : Keeps b_ r_ p) (c : Chan) (m : Nat) : Keeps b_ r_ (predict p c m) := by
  refine h_.trans ?_; clear h_; unfold predict; try dsimp only
  repeat' first
    | (intro)
    | with_reducible first
      | exact Keeps.refl _ _ | assumption | apply fetchAhead_keeps | apply settleLeads_keeps | apply setSeq_keeps | apply runAhead_keeps
      | apply optimist_keeps | apply setReg_keeps | apply Keeps.ite
    | fail_if_no_progress (with_reducible apply Keeps.mkUpd; (focus with_reducible rfl); iterate 6 (focus rfl))
    | split

theorem snapshot_keeps {b_ : Bool} {r_ p : Part} (h_ : Keeps b_ r_ p) (c : Chan) (m : Nat) : Keeps b_ r_ (snapshot p c m) := by
  refine h_.trans ?_; clear h_; unfold snapshot; try dsimp only
  repeat' first
    | (intro)
    | with_reducible first | exact Keeps.refl _ _ | assumption | apply putPlan_keeps

theorem keepHistory_keeps {b_ : Bool} {r_ p : Part} (h_ : Keeps b_ r_ p) : Keeps b_ r_ (keepHistory p) := by
  refine h_.trans ?_; clear h_; unfold keepHistory; try dsimp only
  repeat' first
    | (intro)
    | with_reducible first | exact Keeps.refl _ _ | assumption | apply Keeps.ite | apply Keeps.ite1
    | fail_if_no_progress (with_reducible apply Keeps.mkUpd; (focus with_reducible rfl); iterate 6 (focus rfl))

theorem openStage_keeps {b_ : Bool} {r_ p : Part} (h_ : Keeps b_ r_ p) : Keeps b_ r_ (openStage p) := by
  refine h_.trans ?_; clear h_; unfold openStage; try dsimp only
  repeat' first
    | (intro)
    | with_reducible first
      | exact Keeps.refl _ _ | assumption | apply keepHistory_keeps | apply atCyc_keeps | apply groupTick_keeps | apply commitTick_keeps
      | apply dropJumpsTo_keeps | apply Keeps.ite | apply Keeps.fold
    | fail_if_no_progress (with_reducible apply Keeps.mkUpd; (focus with_reducible rfl); iterate 6 (focus rfl))

theorem runStage_keeps {b_ : Bool} {r_ p : Part} (h_ : Keeps b_ r_ p) (m : Nat) : Keeps b_ r_ (runStage p m) := by
  refine h_.trans ?_; clear h_; unfold runStage; try dsimp only
  repeat' first
    | (intro)
    | with_reducible first
      | exact Keeps.refl _ _ | assumption | apply gateTick_keeps | apply syncTick_keeps | apply advanceAll_keeps | apply pacedTick_keeps
      | apply snapshot_keeps | apply predict_keeps | apply sealPulses_keeps | apply settleQueue_keeps | apply Keeps.ite | apply Keeps.fold

/-- The tick whose decide stage has closed. -/
theorem closed_keeps {b_ : Bool} {r_ p : Part} (h_ : Keeps b_ r_ p) (m : Nat) : Keeps b_ r_ { p with time := { p.time with closed := m } } :=
  h_.trans ⟨id, id, id, id, id, List.suffix_refl _, fun _ => rfl⟩

theorem decideTick_keeps {b_ : Bool} {r_ p : Part} (h_ : Keeps b_ r_ p) : Keeps b_ r_ (decideTick p) := by
  unfold decideTick
  dsimp only
  split
  · exact h_
  · with_reducible apply closed_keeps
    exact runStage_keeps (openStage_keeps h_) _

theorem synthTick_keeps {b_ : Bool} {r_ p : Part} (h_ : Keeps b_ r_ p) (c : Chan) (k : Nat) : Keeps b_ r_ (synthTick p c k) := by
  refine h_.trans ?_; clear h_; unfold synthTick; try dsimp only
  repeat' first
    | (intro)
    | with_reducible first
      | exact Keeps.refl _ _ | assumption | apply setDp_keeps | apply orReg_keeps | apply addReg_keeps | apply Keeps.ite

theorem settle_keeps {b_ : Bool} {r_ p : Part} (h_ : Keeps b_ r_ p) (t : Nat) : Keeps b_ r_ (settle p t) := by
  refine h_.trans ?_; clear h_; unfold settle; try dsimp only
  repeat' first
    | (intro)
    | with_reducible first | exact Keeps.refl _ _ | assumption
    | fail_if_no_progress (with_reducible apply Keeps.mkUpd; (focus with_reducible rfl); iterate 6 (focus rfl))

theorem setLatch_keeps {b_ : Bool} {r_ p : Part} (h_ : Keeps b_ r_ p) (l : Nat) (x : Option Latch) : Keeps b_ r_ (setLatch p l x) := by
  refine h_.trans ?_; clear h_; unfold setLatch; try dsimp only
  repeat' first
    | with_reducible first | exact Keeps.refl _ _ | assumption
    | fail_if_no_progress (with_reducible apply Keeps.mkUpd; (focus with_reducible rfl); iterate 6 (focus rfl))

theorem holdPulse_keeps {b_ : Bool} {r_ p : Part} (h_ : Keeps b_ r_ p) (l t drops : Nat) (q : Pulse) : Keeps b_ r_ (holdPulse p l t drops q) := by
  refine h_.trans ?_; clear h_; unfold holdPulse; try dsimp only
  repeat' first
    | with_reducible first | exact Keeps.refl _ _ | assumption | apply setLatch_keeps | apply addReg_keeps | apply Keeps.ite
    | split

theorem latchPulse_keeps {b_ : Bool} {r_ p : Part} (h_ : Keeps b_ r_ p) (l t : Nat) (q : Pulse) : Keeps b_ r_ (latchPulse p l t q) := by
  refine h_.trans ?_; clear h_; unfold latchPulse; try dsimp only
  repeat' first
    | with_reducible first
      | exact Keeps.refl _ _ | assumption | apply holdPulse_keeps | apply addReg_keeps | apply setLatch_keeps | apply Keeps.ite | apply Keeps.ite1
    | fail_if_no_progress (with_reducible apply Keeps.mkUpd; (focus with_reducible rfl); iterate 6 (focus rfl))
    | split

theorem latchAll_keeps {b_ : Bool} {r_ p : Part} (h_ : Keeps b_ r_ p) (t : Nat) (q : Pulse) (seen l : List Nat) :
    Keeps b_ r_ (latchAll p t q seen l) := by
  induction l generalizing p seen with
  | nil => unfold latchAll; exact h_
  | cons a r ih =>
    unfold latchAll
    dsimp only
    split
    · exact ih (addReg_keeps h_ _ _) _
    · exact ih (latchPulse_keeps h_ _ _ _) _

theorem setPin_keeps {b_ : Bool} {r_ p : Part} (h_ : Keeps b_ r_ p) (n : Nat) (x : PinSt) : Keeps b_ r_ (setPin p n x) := by
  refine h_.trans ?_; clear h_; unfold setPin; try dsimp only
  repeat' first
    | with_reducible first | exact Keeps.refl _ _ | assumption
    | fail_if_no_progress (with_reducible apply Keeps.mkUpd; (focus with_reducible rfl); iterate 6 (focus rfl))

theorem drivePin_keeps {b_ : Bool} {r_ p : Part} (h_ : Keeps b_ r_ p) (pin : Nat) (level : Bool) (n endAt : Nat) (x : PinSt) :
    Keeps b_ r_ (drivePin p pin level n endAt x) := by
  refine h_.trans ?_; clear h_; unfold drivePin; try dsimp only
  repeat' first
    | with_reducible first | exact Keeps.refl _ _ | assumption | apply setPin_keeps | apply say_keeps | apply Keeps.ite

theorem countEdge_keeps {b_ : Bool} {r_ p : Part} (h_ : Keeps b_ r_ p) (pin : Nat) (rising : Bool) (n : Nat) :
    Keeps b_ r_ (countEdge p pin rising n) := by
  refine h_.trans ?_; clear h_; unfold countEdge; try dsimp only
  repeat' first
    | with_reducible first | exact Keeps.refl _ _ | assumption | apply setReg_keeps | apply addReg_keeps | apply Keeps.ite

theorem judgePad_keeps {b_ : Bool} {r_ p : Part} (h_ : Keeps b_ r_ p) (pin n : Nat) (closed : Bool) : Keeps b_ r_ (judgePad p pin n closed) := by
  refine h_.trans ?_; clear h_; unfold judgePad; try dsimp only
  repeat' first
    | with_reducible first | exact Keeps.refl _ _ | assumption | apply setPin_keeps | apply countEdge_keeps | apply Keeps.ite

theorem judgePads_keeps {b_ : Bool} {r_ p : Part} (h_ : Keeps b_ r_ p) (n : Nat) : Keeps b_ r_ (judgePads p n) := by
  refine h_.trans ?_; clear h_; unfold judgePads; try dsimp only
  repeat' first
    | (intro)
    | with_reducible first | exact Keeps.refl _ _ | assumption | apply judgePad_keeps | apply Keeps.ite1 | apply Keeps.fold

theorem lowerPins_keeps {b_ : Bool} {r_ p : Part} (h_ : Keeps b_ r_ p) (n : Nat) : Keeps b_ r_ (lowerPins p n) := by
  refine h_.trans ?_; clear h_; unfold lowerPins; try dsimp only
  repeat' first
    | (intro)
    | with_reducible first
      | exact Keeps.refl _ _ | assumption | apply say_keeps | apply setPin_keeps | apply Keeps.ite | apply Keeps.ite1 | apply Keeps.fold
    | fail_if_no_progress (with_reducible apply Keeps.mkUpd; (focus with_reducible rfl); iterate 6 (focus rfl))

theorem raisePins_keeps {b_ : Bool} {r_ p : Part} (h_ : Keeps b_ r_ p) (n : Nat) : Keeps b_ r_ (raisePins p n) := by
  refine h_.trans ?_; clear h_; unfold raisePins; try dsimp only
  repeat' first
    | (intro)
    | with_reducible first
      | exact Keeps.refl _ _ | assumption | apply setPin_keeps | apply say_keeps | apply Keeps.ite | apply Keeps.ite1 | apply Keeps.fold

theorem driveTask_keeps {b_ : Bool} {r_ p : Part} (h_ : Keeps b_ r_ p) (pin input t : Nat) (q : Pulse) : Keeps b_ r_ (driveTask p pin input t q) := by
  unfold driveTask
  dsimp only
  with_reducible apply Keeps.ite
  · exact h_
  · repeat' with_reducible first
      | assumption | apply drivePin_keeps | apply setPin_keeps | apply orReg_keeps | apply say_keeps | apply judgePad_keeps | apply Keeps.ite

theorem capture_keeps {b_ : Bool} {r_ p : Part} (h_ : Keeps b_ r_ p) (ec t : Nat) (q : Pulse) : Keeps b_ r_ (capture p ec t q) := by
  refine h_.trans ?_; clear h_; unfold capture; try dsimp only
  repeat' first
    | (intro)
    | with_reducible first | exact Keeps.refl _ _ | assumption | apply orReg_keeps | apply addReg_keeps | apply latchAll_keeps | apply Keeps.ite
    | fail_if_no_progress (with_reducible apply Keeps.mkUpd; (focus with_reducible rfl); iterate 6 (focus rfl))

theorem interruptTask_keeps {b_ : Bool} {r_ p : Part} (h_ : Keeps b_ r_ p) (ec t : Nat) : Keeps b_ r_ (interruptTask p ec t) := by
  refine h_.trans ?_; clear h_; unfold interruptTask; try dsimp only
  repeat' first
    | (intro)
    | with_reducible first | exact Keeps.refl _ _ | assumption | apply raiseMsix_keeps | apply Keeps.ite
    | fail_if_no_progress (with_reducible apply Keeps.mkUpd; (focus with_reducible rfl); iterate 6 (focus rfl))

theorem chainTask_keeps {b_ : Bool} {r_ p : Part} (h_ : Keeps b_ r_ p) (ec t : Nat) (q : Pulse) : Keeps b_ r_ (chainTask p ec t q) := by
  refine h_.trans ?_; clear h_; unfold chainTask; try dsimp only
  repeat' first
    | with_reducible first | exact Keeps.refl _ _ | assumption
    | fail_if_no_progress (with_reducible apply Keeps.mkUpd; (focus with_reducible rfl); iterate 6 (focus rfl))

theorem assertion_keeps {b_ : Bool} {r_ p : Part} (h_ : Keeps b_ r_ p) (ec t : Nat) (live : List Arrival) (q : Pulse) :
    Keeps b_ r_ (assertion p ec t live q) := by
  refine h_.trans ?_; clear h_; unfold assertion; try dsimp only
  repeat' first
    | (intro)
    | with_reducible first
      | exact Keeps.refl _ _ | assumption | apply setReg_keeps | apply addReg_keeps | apply orReg_keeps | apply capture_keeps
      | apply driveTask_keeps | apply chainTask_keeps | apply interruptTask_keeps | apply Keeps.ite | apply Keeps.ite1 | apply Keeps.fold
    | fail_if_no_progress (with_reducible apply Keeps.mkUpd; (focus with_reducible rfl); iterate 6 (focus rfl))

theorem reachChannel_keeps {b_ : Bool} {r_ p : Part} (h_ : Keeps b_ r_ p) (ec t : Nat) : Keeps b_ r_ (reachChannel p ec t) := by
  refine h_.trans ?_; clear h_; unfold reachChannel; try dsimp only
  repeat' first
    | (intro)
    | with_reducible first | exact Keeps.refl _ _ | assumption | apply orReg_keeps | apply addReg_keeps | apply assertion_keeps | apply Keeps.ite
    | fail_if_no_progress (with_reducible apply Keeps.mkUpd; (focus with_reducible rfl); iterate 6 (focus rfl))
    | split

theorem reachAt_keeps {b_ : Bool} {r_ p : Part} (h_ : Keeps b_ r_ p) (ec t : Nat) : Keeps b_ r_ (reachAt p ec t) := by
  refine h_.trans ?_; clear h_; unfold reachAt; try dsimp only
  repeat' with_reducible first | exact Keeps.refl _ _ | assumption | apply settle_keeps | apply reachChannel_keeps | apply atCyc_keeps

theorem reachBefore_keeps {b_ : Bool} {r_ p : Part} (h_ : Keeps b_ r_ p) (x : Nat × Nat) (n : Nat) : Keeps b_ r_ (reachBefore x n p) := by
  induction n generalizing p with
  | zero => exact h_
  | succ n ih =>
    unfold reachBefore
    split
    · exact h_
    · exact Keeps.ite (ih (reachAt_keeps h_ _ _)) h_

theorem softFire_keeps {b_ : Bool} {r_ p : Part} (h_ : Keeps b_ r_ p) (mask tick : Nat) (off due : Nat) :
    Keeps b_ r_ (softFire p mask tick off due) := by
  refine h_.trans ?_; clear h_; unfold softFire; try dsimp only
  repeat' first
    | (intro)
    | with_reducible first | exact Keeps.refl _ _ | assumption | apply orReg_keeps | apply Keeps.ite | apply Keeps.fold
    | fail_if_no_progress (with_reducible apply Keeps.mkUpd; (focus with_reducible rfl); iterate 6 (focus rfl))

theorem fires_keeps {b_ : Bool} {r_ p : Part} (h_ : Keeps b_ r_ p) (l : List (Nat × Nat)) (hl : p.fab.fires.length ≤ 16 → l.length ≤ 16) :
    Keeps b_ r_ { p with fab := { p.fab with fires := l } } :=
  h_.trans ⟨id, id, id, hl, id, List.suffix_refl _, fun _ => rfl⟩

theorem fire_keeps {b_ : Bool} {r_ p : Part} (h_ : Keeps b_ r_ p) (mask at_ : Nat) : Keeps b_ r_ (fire p mask at_).1 := by
  unfold fire
  split
  · with_reducible apply softFire_keeps
    exact h_
  · split
    · exact h_
    · split
      · with_reducible apply orReg_keeps
        exact h_
      · with_reducible apply setReg_keeps
        refine fires_keeps h_ (p.fab.fires ++ [(at_, mask)]) fun _ => ?_
        rw [List.length_append, List.length_singleton]; omega

theorem discardFires_keeps {b_ : Bool} {r_ p : Part} (h_ : Keeps b_ r_ p) (f : Nat → Bool) : Keeps b_ r_ (discardFires p f) := by
  unfold discardFires
  dsimp only
  split
  · exact h_
  · exact orReg_keeps (addReg_keeps (setReg_keeps (fires_keeps h_ _ fun h => (List.length_filter_le _ _).trans h) _ _) _ _) _ _

theorem fireDue_keeps {b_ : Bool} {r_ p : Part} (h_ : Keeps b_ r_ p) (t : Nat) : Keeps b_ r_ (fireDue p t) := by
  unfold fireDue
  apply Keeps.fold
  · intro q hq e; exact softFire_keeps hq _ _ _ _
  · exact setReg_keeps (fires_keeps h_ _ fun h => (List.length_filter_le _ _).trans h) _ _

theorem fireTick_keeps {b_ : Bool} {r_ p : Part} (h_ : Keeps b_ r_ p) (t : Nat) : Keeps b_ r_ (fireTick p t) := by
  refine h_.trans ?_; clear h_; unfold fireTick; try dsimp only
  repeat' first
    | (intro)
    | with_reducible first | exact Keeps.refl _ _ | assumption | apply fireDue_keeps | apply discardFires_keeps | apply Keeps.ite

theorem padEdge_keeps {b_ : Bool} {r_ p : Part} (h_ : Keeps b_ r_ p) (pin : Nat) (rising : Bool) (off held : Nat) :
    Keeps b_ r_ (padEdge p pin rising off held) := by
  refine h_.trans ?_; clear h_; unfold padEdge; try dsimp only
  repeat' first
    | (intro)
    | with_reducible first
      | exact Keeps.refl _ _ | assumption | apply judgePad_keeps | apply atCyc_keeps | apply setPin_keeps | apply countEdge_keeps
      | apply orReg_keeps | apply Keeps.ite
    | fail_if_no_progress (with_reducible apply Keeps.mkUpd; (focus with_reducible rfl); iterate 6 (focus rfl))

theorem endPulse_keeps {b_ : Bool} {r_ p : Part} (h_ : Keeps b_ r_ p) (pin : Nat) : Keeps b_ r_ (endPulse p pin) := by
  refine h_.trans ?_; clear h_; unfold endPulse; try dsimp only
  repeat' first
    | with_reducible first | exact Keeps.refl _ _ | assumption | apply judgePad_keeps | apply drivePin_keeps | apply Keeps.ite

end Sys2Proof.Machine
end

