-- ==== Sys2Proof/Laws/KeepsGroups.lean ====
section
/-!
SUPPORT. The operations of outputs, Watch, load groups, time, segments and the pair have the relation of Laws/Keeps.
-/

namespace Sys2Proof.Machine

theorem putOutState_keeps {b_ : Bool} {r_ p : Part} (h_ : Keeps b_ r_ p) (c : Chan) : Keeps b_ r_ (putOutState p c) := by
  refine h_.trans ?_; clear h_; unfold putOutState; try dsimp only
  repeat' with_reducible first | exact Keeps.refl _ _ | assumption | apply setReg_keeps

theorem emptyWindow_keeps {b_ : Bool} {r_ p : Part} (h_ : Keeps b_ r_ p) (c : Chan) : Keeps b_ r_ (emptyWindow p c) := by
  refine h_.trans ?_; clear h_; unfold emptyWindow; try dsimp only
  repeat' first
    | with_reducible first | exact Keeps.refl _ _ | assumption
    | fail_if_no_progress (with_reducible apply Keeps.mkUpd; (focus with_reducible rfl); iterate 6 (focus rfl))

theorem cutEdges_keeps {b_ : Bool} {r_ p : Part} (h_ : Keeps b_ r_ p) (c : Chan) (n : Nat) : Keeps b_ r_ (cutEdges p c n) := by
  refine h_.trans ?_; clear h_; unfold cutEdges; try dsimp only
  repeat' first
    | (intro)
    | with_reducible first | exact Keeps.refl _ _ | assumption | apply setDp_keeps | apply addReg_keeps | apply Keeps.ite

theorem settleMarkers_keeps {b_ : Bool} {r_ p : Part} (h_ : Keeps b_ r_ p) : Keeps b_ r_ (settleMarkers p) := by
  refine h_.trans ?_; clear h_; unfold settleMarkers; try dsimp only
  repeat' first
    | (intro)
    | with_reducible first | exact Keeps.refl _ _ | assumption | apply say_keeps | apply Keeps.ite | apply Keeps.fold
    | fail_if_no_progress (with_reducible apply Keeps.mkUpd; (focus with_reducible rfl); iterate 6 (focus rfl))

theorem showLine_keeps {b_ : Bool} {r_ p : Part} (h_ : Keeps b_ r_ p) (c : Chan) (line n : Nat) (b : Bool) : Keeps b_ r_ (showLine p c line n b) := by
  refine h_.trans ?_; clear h_; unfold showLine; try dsimp only
  repeat' first
    | with_reducible first | exact Keeps.refl _ _ | assumption | apply setOut_keeps | apply say_keeps | apply Keeps.ite

theorem applyEdge_keeps {b_ : Bool} {r_ p : Part} (h_ : Keeps b_ r_ p) (c : Chan) (n : Nat) (e : EdgeAt) : Keeps b_ r_ (applyEdge p c n e) := by
  refine h_.trans ?_; clear h_; unfold applyEdge; try dsimp only
  repeat' first
    | with_reducible first
      | exact Keeps.refl _ _ | assumption | apply setDp_keeps | apply addReg_keeps | apply showLine_keeps | apply raiseAt_keeps | apply Keeps.ite

theorem markTick_keeps {b_ : Bool} {r_ p : Part} (h_ : Keeps b_ r_ p) (c : Chan) (k : Nat) : Keeps b_ r_ (markTick p c k) := by
  refine h_.trans ?_; clear h_; unfold markTick; try dsimp only
  repeat' first
    | (intro)
    | with_reducible first
      | exact Keeps.refl _ _ | assumption | apply setDp_keeps | apply showLine_keeps | apply applyEdge_keeps | apply setReg_keeps
      | apply cutEdges_keeps | apply Keeps.ite | apply Keeps.ite1 | apply Keeps.fold

theorem restartMarks_keeps {b_ : Bool} {r_ p : Part} (h_ : Keeps b_ r_ p) (c : Chan) (k : Nat) : Keeps b_ r_ (restartMarks p c k) := by
  refine h_.trans ?_; clear h_; unfold restartMarks; try dsimp only
  repeat' first
    | (intro)
    | with_reducible first | exact Keeps.refl _ _ | assumption | apply setDp_keeps | apply addReg_keeps | apply Keeps.ite

theorem beginSpan_keeps {b_ : Bool} {r_ p : Part} (h_ : Keeps b_ r_ p) (c : Chan) (v : Nat) : Keeps b_ r_ (beginSpan p c v) := by
  refine h_.trans ?_; clear h_; unfold beginSpan; try dsimp only
  repeat' first
    | with_reducible first | exact Keeps.refl _ _ | assumption | apply setOut_keeps | apply putOutState_keeps | apply setReg_keeps | apply Keeps.ite
    | fail_if_no_progress (with_reducible apply Keeps.mkUpd; (focus with_reducible rfl); iterate 6 (focus rfl))
    | split

theorem takeSpan_keeps {b_ : Bool} {r_ p : Part} (h_ : Keeps b_ r_ p) (c : Chan) (k : Nat) : Keeps b_ r_ (takeSpan p c k) := by
  refine h_.trans ?_; clear h_; unfold takeSpan; try dsimp only
  repeat' first
    | with_reducible first | exact Keeps.refl _ _ | assumption | apply setReg_keeps | apply emptyWindow_keeps | apply Keeps.ite
    | fail_if_no_progress (with_reducible apply Keeps.mkUpd; (focus with_reducible rfl); iterate 6 (focus rfl))

theorem spanRamp_keeps {b_ : Bool} {r_ p : Part} (h_ : Keeps b_ r_ p) (c : Chan) : Keeps b_ r_ (spanRamp p c) := by
  refine h_.trans ?_; clear h_; unfold spanRamp; try dsimp only
  repeat' first
    | with_reducible first | exact Keeps.refl _ _ | assumption | apply setOut_keeps | apply Keeps.ite
    | fail_if_no_progress (with_reducible apply Keeps.mkUpd; (focus with_reducible rfl); iterate 6 (focus rfl))
    | split

theorem spanHold_keeps {b_ : Bool} {r_ p : Part} (h_ : Keeps b_ r_ p) (c : Chan) : Keeps b_ r_ (spanHold p c) := by
  refine h_.trans ?_; clear h_; unfold spanHold; try dsimp only
  repeat' first
    | with_reducible first | exact Keeps.refl _ _ | assumption | apply setOut_keeps | apply Keeps.ite
    | fail_if_no_progress (with_reducible apply Keeps.mkUpd; (focus with_reducible rfl); iterate 6 (focus rfl))
    | split

theorem spanDone_keeps {b_ : Bool} {r_ p : Part} (h_ : Keeps b_ r_ p) (c : Chan) : Keeps b_ r_ (spanDone p c) := by
  refine h_.trans ?_; clear h_; unfold spanDone; try dsimp only
  repeat' first
    | with_reducible first
      | exact Keeps.refl _ _ | assumption | apply putOutState_keeps | apply setOut_keeps | apply takeSpan_keeps | apply Keeps.ite
    | fail_if_no_progress (with_reducible apply Keeps.mkUpd; (focus with_reducible rfl); iterate 6 (focus rfl))
    | split

theorem autoHandover_keeps {b_ : Bool} {r_ p : Part} (h_ : Keeps b_ r_ p) (i row cyc : Nat) : Keeps b_ r_ (autoHandover p i row cyc) := by
  refine h_.trans ?_; clear h_; unfold autoHandover; try dsimp only
  repeat' first
    | with_reducible first | exact Keeps.refl _ _ | assumption | apply Keeps.ite
    | fail_if_no_progress (with_reducible apply Keeps.mkUpd; (focus with_reducible rfl); iterate 6 (focus rfl))

theorem pairFault_keeps {b_ : Bool} {r_ p : Part} (h_ : Keeps b_ r_ p) (c : Chan) (cyc : Nat) : Keeps b_ r_ (pairFault p c cyc) := by
  refine h_.trans ?_; clear h_; unfold pairFault; try dsimp only
  repeat' first
    | (intro)
    | with_reducible first | exact Keeps.refl _ _ | assumption | apply orReg_keeps | apply autoHandover_keeps | apply Keeps.ite

theorem dropEdges_keeps {b_ : Bool} {r_ p : Part} (h_ : Keeps b_ r_ p) (c : Chan) (k : Nat) : Keeps b_ r_ (dropEdges p c k) := by
  refine h_.trans ?_; clear h_; unfold dropEdges; try dsimp only
  repeat' first
    | (intro)
    | with_reducible first | exact Keeps.refl _ _ | assumption | apply addReg_keeps | apply Keeps.ite

theorem channelFault_keeps {b_ : Bool} {r_ p : Part} (h_ : Keeps b_ r_ p) (c : Chan) (cause cyc : Nat) :
    Keeps b_ r_ (channelFault p c cause cyc) := by
  refine h_.trans ?_; clear h_; unfold channelFault; try dsimp only
  repeat' first
    | (intro)
    | with_reducible first
      | exact Keeps.refl _ _ | assumption | apply atCyc_keeps | apply addReg_keeps | apply orReg_keeps | apply pairFault_keeps | apply raiseAt_keeps
      | apply dropEdges_keeps | apply stopChan_keeps | apply setSeq_keeps | apply setOut_keeps | apply setDp_keeps | apply addOp_keeps
    | fail_if_no_progress (with_reducible apply Keeps.mkUpd; (focus with_reducible rfl); iterate 6 (focus rfl))

theorem clearFault_keeps {b_ : Bool} {r_ p : Part} (h_ : Keeps b_ r_ p) (c : Chan) : Keeps b_ r_ (clearFault p c) := by
  refine h_.trans ?_; clear h_; unfold clearFault; try dsimp only
  repeat' with_reducible first | exact Keeps.refl _ _ | assumption | apply setReg_keeps

theorem outTick_keeps {b_ : Bool} {r_ p : Part} (h_ : Keeps b_ r_ p) (c : Chan) (k : Nat) : Keeps b_ r_ (outTick p c k) := by
  refine h_.trans ?_; clear h_; unfold outTick; try dsimp only
  repeat' first
    | with_reducible first
      | exact Keeps.refl _ _ | assumption | apply takeSpan_keeps | apply setOut_keeps | apply emptyWindow_keeps | apply putOutState_keeps
      | apply Keeps.ite

theorem openSwitches_keeps {b_ : Bool} {r_ p : Part} (h_ : Keeps b_ r_ p) : Keeps b_ r_ (openSwitches p) := by
  refine h_.trans ?_; clear h_; unfold openSwitches; try dsimp only
  repeat' first
    | (intro)
    | with_reducible first
      | exact Keeps.refl _ _ | assumption | apply putOutState_keeps | apply emptyWindow_keeps | apply setOut_keeps | apply Keeps.ite
      | apply Keeps.fold

theorem vddoFalls_keeps {b_ : Bool} {r_ p : Part} (h_ : Keeps b_ r_ p) : Keeps b_ r_ (vddoFalls p) := by
  refine h_.trans ?_; clear h_; unfold vddoFalls; try dsimp only
  repeat' first
    | (intro)
    | with_reducible first
      | exact Keeps.refl _ _ | assumption | apply settleMarkers_keeps | apply openSwitches_keeps | apply setOut_keeps | apply Keeps.ite
      | apply Keeps.fold
    | fail_if_no_progress (with_reducible apply Keeps.mkUpd; (focus with_reducible rfl); iterate 6 (focus rfl))

theorem taskPark_keeps {b_ : Bool} {r_ p : Part} (h_ : Keeps b_ r_ p) (c : Chan) : Keeps b_ r_ (taskPark p c) := by
  refine h_.trans ?_; clear h_; unfold taskPark; try dsimp only
  repeat' first
    | with_reducible first
      | exact Keeps.refl _ _ | assumption | apply dropLatch_keeps | apply markTick_keeps | apply outTick_keeps | apply setOut_keeps
      | apply Keeps.ite
    | fail_if_no_progress (with_reducible apply Keeps.mkUpd; (focus with_reducible rfl); iterate 6 (focus rfl))
    | split

theorem endFreeze_keeps {b_ : Bool} {r_ p : Part} (h_ : Keeps b_ r_ p) (c : Chan) : Keeps b_ r_ (endFreeze p c) := by
  refine h_.trans ?_; clear h_; unfold endFreeze; try dsimp only
  repeat' first
    | with_reducible first | exact Keeps.refl _ _ | assumption | apply setReg_keeps | apply setOut_keeps | apply Keeps.ite

theorem takeFreeze_keeps {b_ : Bool} {r_ p : Part} (h_ : Keeps b_ r_ p) (c : Chan) (k ms : Nat) : Keeps b_ r_ (takeFreeze p c k ms) := by
  refine h_.trans ?_; clear h_; unfold takeFreeze; try dsimp only
  repeat' first
    | with_reducible first | exact Keeps.refl _ _ | assumption | apply endFreeze_keeps | apply setReg_keeps | apply setOut_keeps | apply Keeps.ite

theorem swapCell_keeps {b_ : Bool} {r_ p : Part} (h_ : Keeps b_ r_ p) (c : Chan) : Keeps b_ r_ (swapCell p c) := by
  refine h_.trans ?_; clear h_; unfold swapCell; try dsimp only
  repeat' first
    | with_reducible first | exact Keeps.refl _ _ | assumption | apply addReg_keeps | apply setOut_keeps | apply setReg_keeps | apply Keeps.ite

theorem trimSwap_keeps {b_ : Bool} {r_ p : Part} (h_ : Keeps b_ r_ p) : Keeps b_ r_ (trimSwap p) := by
  refine h_.trans ?_; clear h_; unfold trimSwap; try dsimp only
  repeat' first
    | (intro)
    | with_reducible first | exact Keeps.refl _ _ | assumption | apply swapCell_keeps | apply Keeps.ite | apply Keeps.fold

theorem trimEstimate_keeps {b_ : Bool} {r_ p : Part} (h_ : Keeps b_ r_ p) (c : Chan) (estimate cyc : Nat) :
    Keeps b_ r_ (trimEstimate p c estimate cyc) := by
  refine h_.trans ?_; clear h_; unfold trimEstimate; try dsimp only
  repeat' first
    | with_reducible first
      | exact Keeps.refl _ _ | assumption | apply setReg_keeps | apply setOut_keeps | apply raiseNow_keeps | apply orReg_keeps | apply atCyc_keeps
      | apply Keeps.ite

theorem setWatch_keeps {b_ : Bool} {r_ p : Part} (h_ : Keeps b_ r_ p) (c : Chan) (w : WatchSt) : Keeps b_ r_ (setWatch p c w) := by
  refine h_.trans ?_; clear h_; unfold setWatch; try dsimp only
  repeat' first
    | with_reducible first | exact Keeps.refl _ _ | assumption
    | fail_if_no_progress (with_reducible apply Keeps.mkUpd; (focus with_reducible rfl); iterate 6 (focus rfl))

theorem watchRead_keeps {b_ : Bool} {r_ p : Part} (h_ : Keeps b_ r_ p) (w : Fin 16) (vd vc : Int) (refOk : Bool) :
    Keeps b_ r_ (watchRead p w vd vc refOk) := by
  refine h_.trans ?_; clear h_; unfold watchRead; try dsimp only
  repeat' first
    | with_reducible first
      | exact Keeps.refl _ _ | assumption | apply setRegBit_keeps | apply setReg_keeps | apply addReg_keeps | apply setWatch_keeps | apply Keeps.ite

theorem verdict_keeps {b_ : Bool} {r_ p : Part} (h_ : Keeps b_ r_ p) (c : Chan) (m : Nat) : Keeps b_ r_ (verdict p c m) := by
  refine h_.trans ?_; clear h_; unfold verdict; try dsimp only
  repeat' first
    | with_reducible first
      | exact Keeps.refl _ _ | assumption | apply orReg_keeps | apply addReg_keeps | apply setReg_keeps | apply raiseAt_keeps
      | apply channelFault_keeps | apply Keeps.ite

theorem watchCompare_keeps {b_ : Bool} {r_ p : Part} (h_ : Keeps b_ r_ p) (c : Chan) : Keeps b_ r_ (watchCompare p c) := by
  refine h_.trans ?_; clear h_; unfold watchCompare; try dsimp only
  repeat' first
    | with_reducible first
      | exact Keeps.refl _ _ | assumption | apply atCyc_keeps | apply addReg_keeps | apply setWatch_keeps | apply setReg_keeps | apply verdict_keeps
      | apply Keeps.ite
    | fail_if_no_progress (with_reducible apply Keeps.mkUpd; (focus with_reducible rfl); iterate 6 (focus rfl))
    | split

theorem keepCodes_keeps {b_ : Bool} {r_ p : Part} (h_ : Keeps b_ r_ p) (c : Chan) (k : Nat) : Keeps b_ r_ (keepCodes p c k) := by
  refine h_.trans ?_; clear h_; unfold keepCodes; try dsimp only
  repeat' first
    | with_reducible first | exact Keeps.refl _ _ | assumption | apply setWatch_keeps

theorem takeCommit_keeps {b_ : Bool} {r_ p : Part} (h_ : Keeps b_ r_ p) (e : Nat × Nat) : Keeps b_ r_ (takeCommit p e) := by
  refine h_.trans ?_; clear h_; unfold takeCommit; try dsimp only
  repeat' first
    | with_reducible first | exact Keeps.refl _ _ | assumption | apply setReg_keeps | apply emptyWindow_keeps | apply Keeps.ite | apply Keeps.ite1
    | split

theorem takeCommits_keeps {b_ : Bool} {r_ p : Part} (h_ : Keeps b_ r_ p) (g : Grp) (k : Nat) : Keeps b_ r_ (takeCommits p g k) := by
  refine h_.trans ?_; clear h_; unfold takeCommits; try dsimp only
  repeat' first
    | (intro)
    | with_reducible first | exact Keeps.refl _ _ | assumption | apply setGrp_keeps | apply takeCommit_keeps | apply Keeps.ite1 | apply Keeps.fold

theorem publishTotals_keeps {b_ : Bool} {r_ p : Part} (h_ : Keeps b_ r_ p) (regs : KMap Nat) : Keeps b_ r_ (publishTotals p regs) := by
  refine h_.trans ?_; clear h_; unfold publishTotals; try dsimp only
  repeat' first
    | with_reducible first | exact Keeps.refl _ _ | assumption | apply setReg_keeps

theorem releaseResv_keeps {b_ : Bool} {r_ p : Part} (h_ : Keeps b_ r_ p) (f : Resv → Bool) : Keeps b_ r_ (releaseResv p f) := by
  refine h_.trans ?_; clear h_; unfold releaseResv; try dsimp only
  repeat' first
    | (intro)
    | with_reducible first | exact Keeps.refl _ _ | assumption | apply publishTotals_keeps | apply setReg_keeps | apply Keeps.ite | apply Keeps.fold
    | fail_if_no_progress (with_reducible apply Keeps.mkUpd; (focus with_reducible rfl); iterate 6 (focus rfl))

theorem cancelCommits_keeps {b_ : Bool} {r_ p : Part} (h_ : Keeps b_ r_ p) (g : Nat) (f : PlanCommit → Bool) : Keeps b_ r_ (cancelCommits p g f) := by
  refine h_.trans ?_; clear h_; unfold cancelCommits; try dsimp only
  repeat' first
    | (intro)
    | with_reducible first | exact Keeps.refl _ _ | assumption | apply setReg_keeps | apply releaseResv_keeps | apply Keeps.fold
    | fail_if_no_progress (with_reducible apply Keeps.mkUpd; (focus with_reducible rfl); iterate 6 (focus rfl))

theorem disarm_keeps {b_ : Bool} {r_ p : Part} (h_ : Keeps b_ r_ p) (g : Nat) : Keeps b_ r_ (disarm p g) := by
  refine h_.trans ?_; clear h_; unfold disarm; try dsimp only
  repeat' first
    | (intro)
    | with_reducible first
      | exact Keeps.refl _ _ | assumption | apply releaseResv_keeps | apply setReg_keeps | apply endFreeze_keeps | apply Keeps.ite
      | apply Keeps.fold

theorem outGroup_keeps {b_ : Bool} {r_ p : Part} (h_ : Keeps b_ r_ p) (g k : Nat) : Keeps b_ r_ (outGroup p g k) := by
  refine h_.trans ?_; clear h_; unfold outGroup; try dsimp only
  repeat' first
    | (intro)
    | with_reducible first | exact Keeps.refl _ _ | assumption | apply outTick_keeps | apply Keeps.fold

theorem beginMember_keeps {b_ : Bool} {r_ p : Part} (h_ : Keeps b_ r_ p) (c : Chan) : Keeps b_ r_ (beginMember p c) := by
  refine h_.trans ?_; clear h_; unfold beginMember; try dsimp only
  repeat' first
    | with_reducible first | exact Keeps.refl _ _ | assumption | apply spanDone_keeps | apply setOut_keeps

theorem beginGroup_keeps {b_ : Bool} {r_ p : Part} (h_ : Keeps b_ r_ p) (g : Grp) (k : Nat) : Keeps b_ r_ (beginGroup p g k) := by
  refine h_.trans ?_; clear h_; unfold beginGroup; try dsimp only
  repeat' first
    | (intro)
    | with_reducible first
      | exact Keeps.refl _ _ | assumption | apply takeCommits_keeps | apply setReg_keeps | apply raiseAt_keeps | apply beginMember_keeps
      | apply markTick_keeps | apply outGroup_keeps | apply Keeps.fold

theorem startGroup_keeps {b_ : Bool} {r_ p : Part} (h_ : Keeps b_ r_ p) (g : Grp) : Keeps b_ r_ (startGroup p g) := by
  refine h_.trans ?_; clear h_; unfold startGroup; try dsimp only
  repeat' first
    | with_reducible first | exact Keeps.refl _ _ | assumption | apply beginGroup_keeps | apply setGrp_keeps | apply Keeps.ite
    | fail_if_no_progress (with_reducible apply Keeps.mkUpd; (focus with_reducible rfl); iterate 6 (focus rfl))
    | split

theorem haltMembers_keeps {b_ : Bool} {r_ p : Part} (h_ : Keeps b_ r_ p) (g m : Nat) : Keeps b_ r_ (haltMembers p g m) := by
  refine h_.trans ?_; clear h_; unfold haltMembers; try dsimp only
  repeat' first
    | (intro)
    | with_reducible first | exact Keeps.refl _ _ | assumption | apply cancelCommits_keeps | apply setReg_keeps | apply Keeps.ite | apply Keeps.fold

theorem stopGroup_keeps {b_ : Bool} {r_ p : Part} (h_ : Keeps b_ r_ p) (g : Grp) : Keeps b_ r_ (stopGroup p g) := by
  refine h_.trans ?_; clear h_; unfold stopGroup; try dsimp only
  repeat' first
    | with_reducible first
      | exact Keeps.refl _ _ | assumption | apply raiseAt_keeps | apply setGrp_keeps | apply outGroup_keeps | apply haltMembers_keeps
      | apply setReg_keeps | apply Keeps.ite
    | fail_if_no_progress (with_reducible apply Keeps.mkUpd; (focus with_reducible rfl); iterate 6 (focus rfl))
    | split

theorem restartGroup_keeps {b_ : Bool} {r_ p : Part} (h_ : Keeps b_ r_ p) (g : Grp) : Keeps b_ r_ (restartGroup p g) := by
  refine h_.trans ?_; clear h_; unfold restartGroup; try dsimp only
  repeat' first
    | (intro)
    | with_reducible first
      | exact Keeps.refl _ _ | assumption | apply setGrp_keeps | apply beginGroup_keeps | apply cancelCommits_keeps | apply Keeps.ite
    | fail_if_no_progress (with_reducible apply Keeps.mkUpd; (focus with_reducible rfl); iterate 6 (focus rfl))
    | split

theorem strobeAt_keeps {b_ : Bool} {r_ p : Part} (h_ : Keeps b_ r_ p) (g : Grp) (m : Nat) : Keeps b_ r_ (strobeAt g p m) := by
  refine h_.trans ?_; clear h_; unfold strobeAt; try dsimp only
  repeat' with_reducible first | exact Keeps.refl _ _ | assumption | apply addReg_keeps | apply raiseAt_keeps | apply takeCommits_keeps

theorem strobeGroup_keeps {b_ : Bool} {r_ p : Part} (h_ : Keeps b_ r_ p) (g : Grp) : Keeps b_ r_ (strobeGroup p g) := by
  refine h_.trans ?_; clear h_; unfold strobeGroup; try dsimp only
  repeat' first
    | (intro)
    | with_reducible first
      | exact Keeps.refl _ _ | assumption | apply setGrp_keeps | apply setReg_keeps | apply outGroup_keeps | apply strobeAt_keeps | apply Keeps.ite
      | apply Keeps.fold

theorem scheduleStrobe_keeps {b_ : Bool} {r_ p : Part} (h_ : Keeps b_ r_ p) (g : Grp) (t : Nat) : Keeps b_ r_ (scheduleStrobe p g t).1 := by
  refine h_.trans ?_; clear h_; unfold scheduleStrobe; try dsimp only
  repeat' first
    | with_reducible first | exact Keeps.refl _ _ | assumption | apply setReg_keeps | apply Keeps.ite | apply Keeps.ite1

theorem commandStop_keeps {b_ : Bool} {r_ p : Part} (h_ : Keeps b_ r_ p) (g : Grp) (at_ : Nat) : Keeps b_ r_ (commandStop p g at_).1 := by
  refine h_.trans ?_; clear h_; unfold commandStop; try dsimp only
  repeat' first
    | with_reducible first | exact Keeps.refl _ _ | assumption | apply setReg_keeps | apply setGrp_keeps | apply Keeps.ite | apply Keeps.ite1

theorem commandDisarm_keeps {b_ : Bool} {r_ p : Part} (h_ : Keeps b_ r_ p) (g : Grp) : Keeps b_ r_ (commandDisarm p g).1 := by
  refine h_.trans ?_; clear h_; unfold commandDisarm; try dsimp only
  repeat' first
    | with_reducible first | exact Keeps.refl _ _ | assumption | apply disarm_keeps | apply Keeps.ite | apply Keeps.ite1

theorem scheduleStart_keeps {b_ : Bool} {r_ p : Part} (h_ : Keeps b_ r_ p) (g : Grp) (at_ : Nat) : Keeps b_ r_ (scheduleStart p g at_).1 := by
  refine h_.trans ?_; clear h_; unfold scheduleStart; try dsimp only
  repeat' first
    | with_reducible first | exact Keeps.refl _ _ | assumption | apply setReg_keeps | apply setGrp_keeps | apply Keeps.ite | apply Keeps.ite1

theorem moveChannel_keeps {b_ : Bool} {r_ p : Part} (h_ : Keeps b_ r_ p) (c v : Nat) : Keeps b_ r_ (moveChannel p c v).1 := by
  refine h_.trans ?_; clear h_; unfold moveChannel; try dsimp only
  repeat' first
    | with_reducible first | exact Keeps.refl _ _ | assumption | apply disarm_keeps | apply Keeps.ite | apply Keeps.ite1
    | fail_if_no_progress (with_reducible apply Keeps.mkUpd; (focus with_reducible rfl); iterate 6 (focus rfl))

theorem planTake_keeps {b_ : Bool} {r_ p : Part} (h_ : Keeps b_ r_ p) (c : Chan) : Keeps b_ r_ (planTake p c) := by
  refine h_.trans ?_; clear h_; unfold planTake; try dsimp only
  repeat' first
    | (intro)
    | with_reducible first
      | exact Keeps.refl _ _ | assumption | apply takeCommits_keeps | apply setReg_keeps | apply publishTotals_keeps | apply outTick_keeps
      | apply Keeps.ite
    | fail_if_no_progress (with_reducible apply Keeps.mkUpd; (focus with_reducible rfl); iterate 6 (focus rfl))
    | split

theorem setTimeFlag_keeps {b_ : Bool} {r_ p : Part} (h_ : Keeps b_ r_ p) (i : Nat) : Keeps b_ r_ (setTimeFlag p i) := by
  refine h_.trans ?_; clear h_; unfold setTimeFlag; try dsimp only
  repeat' with_reducible first | exact Keeps.refl _ _ | assumption | apply setRegBit_keeps

theorem clearTimeFlag_keeps {b_ : Bool} {r_ p : Part} (h_ : Keeps b_ r_ p) (i : Nat) : Keeps b_ r_ (clearTimeFlag p i) := by
  refine h_.trans ?_; clear h_; unfold clearTimeFlag; try dsimp only
  repeat' with_reducible first | exact Keeps.refl _ _ | assumption | apply setRegBit_keeps

theorem enterTimeState_keeps {b_ : Bool} {r_ p : Part} (h_ : Keeps b_ r_ p) (s : Nat) : Keeps b_ r_ (enterTimeState p s) := by
  refine h_.trans ?_; clear h_; unfold enterTimeState; try dsimp only
  repeat' first
    | with_reducible first | exact Keeps.refl _ _ | assumption | apply setReg_keeps | apply raiseNow_keeps | apply Keeps.ite
    | fail_if_no_progress (with_reducible apply Keeps.mkUpd; (focus with_reducible rfl); iterate 6 (focus rfl))

theorem stepDatum_keeps {b_ : Bool} {r_ p : Part} (h_ : Keeps b_ r_ p) (d : Int) : Keeps b_ r_ (stepDatum p d) := by
  refine h_.trans ?_; clear h_; unfold stepDatum; try dsimp only
  repeat' first
    | with_reducible first | exact Keeps.refl _ _ | assumption | apply clearTimeFlag_keeps | apply setRegBit_keeps | apply setReg_keeps | apply Keeps.ite
    | fail_if_no_progress (with_reducible apply Keeps.mkUpd; (focus with_reducible rfl); iterate 6 (focus rfl))

theorem slewBy_keeps {b_ : Bool} {r_ p : Part} (h_ : Keeps b_ r_ p) (o : Int) : Keeps b_ r_ (slewBy p o) := by
  refine h_.trans ?_; clear h_; unfold slewBy; try dsimp only
  repeat' first
    | with_reducible first | exact Keeps.refl _ _ | assumption | apply setTimeFlag_keeps | apply Keeps.ite
    | fail_if_no_progress (with_reducible apply Keeps.mkUpd; (focus with_reducible rfl); iterate 6 (focus rfl))

theorem removeOffset_keeps {b_ : Bool} {r_ p : Part} (h_ : Keeps b_ r_ p) (o : Int) : Keeps b_ r_ (removeOffset p o) := by
  refine h_.trans ?_; clear h_; unfold removeOffset; try dsimp only
  repeat' first
    | with_reducible first
      | exact Keeps.refl _ _ | assumption | apply slewBy_keeps | apply setTimeFlag_keeps | apply stepDatum_keeps | apply Keeps.ite
    | fail_if_no_progress (with_reducible apply Keeps.mkUpd; (focus with_reducible rfl); iterate 6 (focus rfl))

theorem steer_keeps {b_ : Bool} {r_ p : Part} (h_ : Keeps b_ r_ p) : Keeps b_ r_ (steer p) := by
  refine h_.trans ?_; clear h_; unfold steer; try dsimp only
  repeat' first
    | with_reducible first | exact Keeps.refl _ _ | assumption
    | fail_if_no_progress (with_reducible apply Keeps.mkUpd; (focus with_reducible rfl); iterate 6 (focus rfl))

theorem measure_keeps {b_ : Bool} {r_ p : Part} (h_ : Keeps b_ r_ p) (o : Int) : Keeps b_ r_ (measure p o) := by
  refine h_.trans ?_; clear h_; unfold measure; try dsimp only
  repeat' first
    | with_reducible first
      | exact Keeps.refl _ _ | assumption | apply setReg_keeps | apply removeOffset_keeps | apply enterTimeState_keeps | apply slewBy_keeps
      | apply steer_keeps
      | apply Keeps.ite
    | fail_if_no_progress (with_reducible apply Keeps.mkUpd; (focus with_reducible rfl); iterate 6 (focus rfl))

theorem loseSource_keeps {b_ : Bool} {r_ p : Part} (h_ : Keeps b_ r_ p) : Keeps b_ r_ (loseSource p) := by
  refine h_.trans ?_; clear h_; unfold loseSource; try dsimp only
  repeat' first
    | with_reducible first | exact Keeps.refl _ _ | assumption | apply enterTimeState_keeps | apply Keeps.ite
    | fail_if_no_progress (with_reducible apply Keeps.mkUpd; (focus with_reducible rfl); iterate 6 (focus rfl))

theorem restartEstimate_keeps {b_ : Bool} {r_ p : Part} (h_ : Keeps b_ r_ p) : Keeps b_ r_ (restartEstimate p) := by
  refine h_.trans ?_; clear h_; unfold restartEstimate; try dsimp only
  repeat' first
    | with_reducible first | exact Keeps.refl _ _ | assumption
    | fail_if_no_progress (with_reducible apply Keeps.mkUpd; (focus with_reducible rfl); iterate 6 (focus rfl))

theorem putSelection_keeps {b_ : Bool} {r_ p : Part} (h_ : Keeps b_ r_ p) : Keeps b_ r_ (putSelection p) := by
  refine h_.trans ?_; clear h_; unfold putSelection; try dsimp only
  repeat' first
    | with_reducible first | exact Keeps.refl _ _ | assumption | apply setReg_keeps | apply Keeps.ite
    | fail_if_no_progress (with_reducible apply Keeps.mkUpd; (focus with_reducible rfl); iterate 6 (focus rfl))
    | split

theorem planAlarm_keeps {b_ : Bool} {r_ p : Part} (h_ : Keeps b_ r_ p) (a : Nat) (k : Int) : Keeps b_ r_ (planAlarm p a k) := by
  refine h_.trans ?_; clear h_; unfold planAlarm; try dsimp only
  repeat' first
    | with_reducible first | exact Keeps.refl _ _ | assumption | apply setRegBit_keeps | apply Keeps.ite
    | fail_if_no_progress (with_reducible apply Keeps.mkUpd; (focus with_reducible rfl); iterate 6 (focus rfl))

theorem armAlarm_keeps {b_ : Bool} {r_ p : Part} (h_ : Keeps b_ r_ p) (a k : Nat) : Keeps b_ r_ (armAlarm p a k) := by
  refine h_.trans ?_; clear h_; unfold armAlarm; try dsimp only
  repeat' with_reducible first | exact Keeps.refl _ _ | assumption | apply planAlarm_keeps | apply setReg_keeps

theorem disarmAlarm_keeps {b_ : Bool} {r_ p : Part} (h_ : Keeps b_ r_ p) (a : Nat) : Keeps b_ r_ (disarmAlarm p a) := by
  refine h_.trans ?_; clear h_; unfold disarmAlarm; try dsimp only
  repeat' first
    | with_reducible first | exact Keeps.refl _ _ | assumption | apply setRegBit_keeps
    | fail_if_no_progress (with_reducible apply Keeps.mkUpd; (focus with_reducible rfl); iterate 6 (focus rfl))

theorem fireAlarm_keeps {b_ : Bool} {r_ p : Part} (h_ : Keeps b_ r_ p) (a : Nat) : Keeps b_ r_ (fireAlarm p a) := by
  refine h_.trans ?_; clear h_; unfold fireAlarm; try dsimp only
  repeat' first
    | with_reducible first | exact Keeps.refl _ _ | assumption | apply raiseAt_keeps | apply setRegBit_keeps | apply addReg_keeps | apply Keeps.ite
    | fail_if_no_progress (with_reducible apply Keeps.mkUpd; (focus with_reducible rfl); iterate 6 (focus rfl))
    | split

theorem beginAlign_keeps {b_ : Bool} {r_ p : Part} (h_ : Keeps b_ r_ p) : Keeps b_ r_ (beginAlign p) := by
  refine h_.trans ?_; clear h_; unfold beginAlign; try dsimp only
  repeat' first
    | with_reducible first | exact Keeps.refl _ _ | assumption | apply setReg_keeps | apply Keeps.ite
    | fail_if_no_progress (with_reducible apply Keeps.mkUpd; (focus with_reducible rfl); iterate 6 (focus rfl))

theorem releaseRetracts_keeps {b_ : Bool} {r_ p : Part} (h_ : Keeps b_ r_ p) (k : Nat) : Keeps b_ r_ (releaseRetracts p k) := by
  unfold releaseRetracts
  apply Keeps.fold _ h_
  intro q hq c
  dsimp only
  split
  · exact hq
  · have h := addReg_keeps hq (G.retractCount c) (seqOf q c).retr.length
    exact ⟨h.regs, h.dram, h.jobs, h.fires, h.subs, h.sent, h.tick⟩

theorem alignGraticule_keeps {r_ p : Part} (h_ : Keeps false r_ p) (second : Nat) : Keeps false r_ (alignGraticule p second) := by
  unfold alignGraticule
  dsimp only
  split
  · apply discardFires_keeps
    apply Keeps.fold
    · intro q hq a; exact planAlarm_keeps hq _ _
    · apply raisePins_keeps
      apply releaseRetracts_keeps
      have h := setReg_keeps (judgePads_keeps h_ (nOf (p.time.tick + 1) 0)) G.clockState 0
      exact ⟨h.regs, h.dram, h.jobs, h.fires, h.subs, h.sent, fun e => nomatch e⟩
  · exact h_

theorem unfreeze_keeps {b_ : Bool} {r_ p : Part} (h_ : Keeps b_ r_ p) (g : Grp) : Keeps b_ r_ (unfreeze p g) := by
  refine h_.trans ?_; clear h_; unfold unfreeze; try dsimp only
  repeat' first
    | (intro)
    | with_reducible first | exact Keeps.refl _ _ | assumption | apply Keeps.ite | apply Keeps.ite1 | apply Keeps.fold
    | fail_if_no_progress (with_reducible apply Keeps.mkUpd; (focus with_reducible rfl); iterate 6 (focus rfl))

/-- Every tick plan of every channel is replaced. -/
theorem plans_keeps {b_ : Bool} {r_ p : Part} (h_ : Keeps b_ r_ p) (v : Vector (List TickPlan) 256) : Keeps b_ r_ { p with plans := v } :=
  h_.trans ⟨id, id, id, id, id, List.suffix_refl _, fun _ => rfl⟩

/-- The plan commits that wait are replaced. -/
theorem commits_keeps {b_ : Bool} {r_ p : Part} (h_ : Keeps b_ r_ p) (l : List PlanCommit) : Keeps b_ r_ { p with adm := { p.adm with plans := l } } :=
  h_.trans ⟨id, id, id, id, id, List.suffix_refl _, fun _ => rfl⟩

/-- The pulses held until the Graticule is realigned are replaced. -/
theorem delayed_keeps {b_ : Bool} {r_ p : Part} (h_ : Keeps b_ r_ p) (l : List Pulse) : Keeps b_ r_ { p with fab := { p.fab with delayed := l } } :=
  h_.trans ⟨id, id, id, id, id, List.suffix_refl _, fun _ => rfl⟩

theorem haltGroups_keeps {b_ : Bool} {r_ p : Part} (h_ : Keeps b_ r_ p) : Keeps b_ r_ (haltGroups p) := by
  unfold haltGroups
  dsimp only
  with_reducible apply plans_keeps
  with_reducible apply releaseResv_keeps
  with_reducible apply commits_keeps
  with_reducible apply Keeps.fold
  · exact fun q hq x => setReg_keeps hq _ _
  · with_reducible apply Keeps.fold
    · intro q hq g
      with_reducible apply setReg_keeps
      with_reducible apply setGrp_keeps
      with_reducible apply unfreeze_keeps
      with_reducible apply Keeps.ite
      · exact delayed_keeps hq _
      · exact hq
    · with_reducible apply Keeps.fold
      · intro q hq c
        have h := endFreeze_keeps (dropEdges_keeps hq c p.time.tick) c
        with_reducible apply Keeps.ite
        · exact h
        · with_reducible apply setReg_keeps
          with_reducible apply setSeq_keeps
          with_reducible apply stopChan_keeps
          exact plans_keeps h _
      · exact h_

theorem loseClock_keeps {b_ : Bool} {r_ p : Part} (h_ : Keeps b_ r_ p) (cyc : Nat) : Keeps b_ r_ (loseClock p cyc) := by
  refine h_.trans ?_; clear h_; unfold loseClock; try dsimp only
  repeat' first
    | (intro)
    | with_reducible first
      | exact Keeps.refl _ _ | assumption | apply beginAlign_keeps | apply atCyc_keeps | apply setReg_keeps | apply lowerPins_keeps
      | apply haltGroups_keeps | apply showLine_keeps | apply cutEdges_keeps | apply setDp_keeps | apply setOut_keeps | apply putOutState_keeps
      | apply Keeps.fold
    | fail_if_no_progress (with_reducible apply Keeps.mkUpd; (focus with_reducible rfl); iterate 6 (focus rfl))

theorem returnClock_keeps {b_ : Bool} {r_ p : Part} (h_ : Keeps b_ r_ p) : Keeps b_ r_ (returnClock p) := by
  refine h_.trans ?_; clear h_; unfold returnClock; try dsimp only
  repeat' first
    | (intro)
    | with_reducible first
      | exact Keeps.refl _ _ | assumption | apply setReg_keeps | apply putOutState_keeps | apply emptyWindow_keeps | apply Keeps.ite
      | apply Keeps.fold
    | fail_if_no_progress (with_reducible apply Keeps.mkUpd; (focus with_reducible rfl); iterate 6 (focus rfl))

theorem relock_keeps {b_ : Bool} {r_ p : Part} (h_ : Keeps b_ r_ p) (khz : Nat) : Keeps b_ r_ (relock p khz) := by
  refine h_.trans ?_; clear h_; unfold relock; try dsimp only
  repeat' first
    | (intro)
    | with_reducible first
      | exact Keeps.refl _ _ | assumption | apply beginAlign_keeps | apply setReg_keeps | apply putOutState_keeps | apply setOut_keeps
      | apply Keeps.fold
    | fail_if_no_progress (with_reducible apply Keeps.mkUpd; (focus with_reducible rfl); iterate 6 (focus rfl))

theorem syncEdge_keeps {b_ : Bool} {r_ p : Part} (h_ : Keeps b_ r_ p) (phase : Int) : Keeps b_ r_ (syncEdge p phase) := by
  refine h_.trans ?_; clear h_; unfold syncEdge; try dsimp only
  repeat' first
    | with_reducible first
      | exact Keeps.refl _ _ | assumption | apply say_keeps | apply setTimeFlag_keeps | apply clearTimeFlag_keeps | apply Keeps.ite
    | fail_if_no_progress (with_reducible apply Keeps.mkUpd; (focus with_reducible rfl); iterate 6 (focus rfl))

theorem syncMissing_keeps {b_ : Bool} {r_ p : Part} (h_ : Keeps b_ r_ p) : Keeps b_ r_ (syncMissing p) := by
  refine h_.trans ?_; clear h_; unfold syncMissing; try dsimp only
  repeat' first
    | with_reducible first | exact Keeps.refl _ _ | assumption | apply setTimeFlag_keeps | apply Keeps.ite
    | fail_if_no_progress (with_reducible apply Keeps.mkUpd; (focus with_reducible rfl); iterate 6 (focus rfl))

theorem losePps_keeps {b_ : Bool} {r_ p : Part} (h_ : Keeps b_ r_ p) : Keeps b_ r_ (losePps p) := by
  refine h_.trans ?_; clear h_; unfold losePps; try dsimp only
  repeat' first
    | with_reducible first | exact Keeps.refl _ _ | assumption | apply loseSource_keeps | apply setTimeFlag_keeps
    | fail_if_no_progress (with_reducible apply Keeps.mkUpd; (focus with_reducible rfl); iterate 6 (focus rfl))

theorem ppsEdge_keeps {b_ : Bool} {r_ p : Part} (h_ : Keeps b_ r_ p) (err dev : Int) : Keeps b_ r_ (ppsEdge p err dev) := by
  refine h_.trans ?_; clear h_; unfold ppsEdge; try dsimp only
  repeat' first
    | with_reducible first
      | exact Keeps.refl _ _ | assumption | apply losePps_keeps | apply measure_keeps | apply clearTimeFlag_keeps | apply Keeps.ite
    | fail_if_no_progress (with_reducible apply Keeps.mkUpd; (focus with_reducible rfl); iterate 6 (focus rfl))
    | split

theorem ppsMissing_keeps {b_ : Bool} {r_ p : Part} (h_ : Keeps b_ r_ p) : Keeps b_ r_ (ppsMissing p) := by
  refine h_.trans ?_; clear h_; unfold ppsMissing; try dsimp only
  repeat' first
    | (intro)
    | with_reducible first | exact Keeps.refl _ _ | assumption | apply losePps_keeps | apply Keeps.ite
    | fail_if_no_progress (with_reducible apply Keeps.mkUpd; (focus with_reducible rfl); iterate 6 (focus rfl))

theorem takeTimeSource_keeps {b_ : Bool} {r_ p : Part} (h_ : Keeps b_ r_ p) (v : Nat) : Keeps b_ r_ (takeTimeSource p v) := by
  refine h_.trans ?_; clear h_; unfold takeTimeSource; try dsimp only
  repeat' first
    | with_reducible first
      | exact Keeps.refl _ _ | assumption | apply setReg_keeps | apply enterTimeState_keeps | apply loseSource_keeps | apply Keeps.ite
    | fail_if_no_progress (with_reducible apply Keeps.mkUpd; (focus with_reducible rfl); iterate 6 (focus rfl))

theorem takeSclkSelect_keeps {b_ : Bool} {r_ p : Part} (h_ : Keeps b_ r_ p) (v : Nat) : Keeps b_ r_ (takeSclkSelect p v) := by
  refine h_.trans ?_; clear h_; unfold takeSclkSelect; try dsimp only
  repeat' first
    | with_reducible first | exact Keeps.refl _ _ | assumption | apply setReg_keeps | apply clearTimeFlag_keeps | apply Keeps.ite

theorem takeSyncMode_keeps {b_ : Bool} {r_ p : Part} (h_ : Keeps b_ r_ p) (v : Nat) : Keeps b_ r_ (takeSyncMode p v) := by
  refine h_.trans ?_; clear h_; unfold takeSyncMode; try dsimp only
  repeat' first
    | with_reducible first | exact Keeps.refl _ _ | assumption | apply setReg_keeps | apply clearTimeFlag_keeps | apply Keeps.ite
    | fail_if_no_progress (with_reducible apply Keeps.mkUpd; (focus with_reducible rfl); iterate 6 (focus rfl))

theorem takeSegments_keeps {b_ : Bool} {r_ p : Part} (h_ : Keeps b_ r_ p) : Keeps b_ r_ (takeSegments p) := by
  refine h_.trans ?_; clear h_; unfold takeSegments; try dsimp only
  repeat' first
    | (intro)
    | with_reducible first | exact Keeps.refl _ _ | assumption | apply Keeps.ite1 | apply Keeps.fold
    | fail_if_no_progress (with_reducible apply Keeps.mkUpd; (focus with_reducible rfl); iterate 6 (focus rfl))

theorem writeDesc_keeps {b_ : Bool} {r_ p : Part} (h_ : Keeps b_ r_ p) (d w : Nat) : Keeps b_ r_ (writeDesc p d w).1 := by
  refine h_.trans ?_; clear h_; unfold writeDesc; try dsimp only
  repeat' first
    | with_reducible first | exact Keeps.refl _ _ | assumption | apply Keeps.ite | apply Keeps.ite1
    | fail_if_no_progress (with_reducible apply Keeps.mkUpd; (focus with_reducible rfl); iterate 6 (focus rfl))

theorem writeEdges_keeps {b_ : Bool} {r_ p : Part} (h_ : Keeps b_ r_ p) (data : List Byte) : Keeps b_ r_ (writeEdges p data).1 := by
  refine h_.trans ?_; clear h_; unfold writeEdges; try dsimp only
  repeat' first
    | (intro)
    | with_reducible first | exact Keeps.refl _ _ | assumption | apply Keeps.ite | apply Keeps.ite1 | apply Keeps.fold
    | fail_if_no_progress (with_reducible apply Keeps.mkUpd; (focus with_reducible rfl); iterate 6 (focus rfl))

theorem fillPage_keeps {b_ : Bool} {r_ p : Part} (h_ : Keeps b_ r_ p) (a : Nat) : Keeps b_ r_ (fillPage p a) := by
  refine h_.trans ?_; clear h_; unfold fillPage; try dsimp only
  repeat' first
    | with_reducible first | exact Keeps.refl _ _ | assumption | apply Keeps.ite
    | fail_if_no_progress (with_reducible apply Keeps.mkUpd; (focus with_reducible rfl); iterate 6 (focus rfl))

theorem writeLine_keeps {b_ : Bool} {r_ p : Part} (h_ : Keeps b_ r_ p) (line : Nat) (l : List (Nat × Byte)) :
    Keeps b_ r_ (writeLine p line l).1 := by
  refine h_.trans ?_
  unfold writeLine
  split
  · exact Keeps.refl _ _
  · split
    · exact Keeps.refl _ _
    · apply fillPage_keeps
      exact ⟨id, dramPut_wf l, id, id, id, List.suffix_refl _, fun _ => rfl⟩

theorem Keeps.fold1 {b : Bool} {α β : Type} {p : Part} {f : Part × β → α → Part × β} {l : List α} {a : Part × β}
    (hf : ∀ q, Keeps b p q.1 → ∀ x, Keeps b p (f q x).1) (hb : Keeps b p a.1) : Keeps b p (l.foldl f a).1 := by
  induction l generalizing a with
  | nil => exact hb
  | cons x r ih => exact ih (hf a hb x)

theorem writeBytes_keeps {b_ : Bool} {r_ p : Part} (h_ : Keeps b_ r_ p) (port : Nat) (l : List (Nat × Byte)) :
    Keeps b_ r_ (writeBytes p port l).1 := by
  unfold writeBytes
  dsimp only
  split
  · exact h_
  · refine Keeps.fold1 (fun q hq n => ?_) h_
    split
    · exact recordUe_keeps (writeLine_keeps hq _ _) _ _
    · exact writeLine_keeps hq _ _

theorem bar4Store_keeps {b_ : Bool} {r_ p : Part} (h_ : Keeps b_ r_ p) (off : Nat) (data : List (Option Byte)) :
    Keeps b_ r_ (bar4Store p off data) := by
  refine h_.trans ?_; clear h_; unfold bar4Store; try dsimp only
  repeat' first
    | (intro)
    | with_reducible first | exact Keeps.refl _ _ | assumption | apply addReg_keeps | apply writeBytes_keeps | apply Keeps.ite

theorem bar4Load_keeps {b_ : Bool} {r_ p : Part} (h_ : Keeps b_ r_ p) (off len : Nat) : Keeps b_ r_ (bar4Load p off len).1 := by
  refine h_.trans ?_; clear h_; unfold bar4Load; try dsimp only
  repeat' first
    | with_reducible first | exact Keeps.refl _ _ | assumption | apply addReg_keeps | apply recordRange_keeps | apply Keeps.ite | apply Keeps.ite1

theorem loadGo_keeps {b_ : Bool} {r_ p : Part} (h_ : Keeps b_ r_ p) : Keeps b_ r_ (loadGo p).1 := by
  refine h_.trans ?_; clear h_; unfold loadGo; try dsimp only
  repeat' first
    | with_reducible first | exact Keeps.refl _ _ | assumption | apply Keeps.ite | apply Keeps.ite1
    | fail_if_no_progress (with_reducible apply Keeps.mkUpd; (focus with_reducible rfl); iterate 6 (focus rfl))

theorem startLoad_keeps {b_ : Bool} {r_ p : Part} (h_ : Keeps b_ r_ p) : Keeps b_ r_ (startLoad p) := by
  refine h_.trans ?_; clear h_; unfold startLoad; try dsimp only
  repeat' first
    | (intro)
    | with_reducible first | exact Keeps.refl _ _ | assumption | apply setReg_keeps | apply Keeps.ite
    | fail_if_no_progress (with_reducible apply Keeps.mkUpd; (focus with_reducible rfl); iterate 6 (focus rfl))

theorem writeInsetLine_keeps {b_ : Bool} {r_ p : Part} (h_ : Keeps b_ r_ p) (c slot : Nat) (bytes : List Byte) :
    Keeps b_ r_ (writeInsetLine p c slot bytes) := by
  refine h_.trans ?_; clear h_; unfold writeInsetLine; try dsimp only
  repeat' first
    | (intro)
    | with_reducible first | exact Keeps.refl _ _ | assumption | apply addReg_keeps | apply Keeps.ite | apply Keeps.ite1 | apply Keeps.fold
    | fail_if_no_progress (with_reducible apply Keeps.mkUpd; (focus with_reducible rfl); iterate 6 (focus rfl))

theorem spreadLines_keeps {b_ : Bool} {r_ p : Part} (h_ : Keeps b_ r_ p) (b : LoadBlock) (lines : List (List Byte)) :
    Keeps b_ r_ (spreadLines p b lines) := by
  refine h_.trans ?_; clear h_; unfold spreadLines; try dsimp only
  repeat' first
    | (intro)
    | with_reducible first | exact Keeps.refl _ _ | assumption | apply writeInsetLine_keeps | apply Keeps.ite1 | apply Keeps.fold

theorem finishLoad_keeps {b_ : Bool} {r_ p : Part} (h_ : Keeps b_ r_ p) (source : List Byte) (hostOk : Bool) :
    Keeps b_ r_ (finishLoad p source hostOk) := by
  refine h_.trans ?_; clear h_; unfold finishLoad; try dsimp only
  repeat' first
    | (intro)
    | with_reducible first
      | exact Keeps.refl _ _ | assumption | apply setReg_keeps | apply recordRange_keeps | apply writeBytes_keeps | apply addReg_keeps
      | apply say_keeps | apply spreadLines_keeps | apply raiseMsix_keeps | apply Keeps.ite | apply Keeps.ite1 | apply Keeps.fold
    | fail_if_no_progress (with_reducible apply Keeps.mkUpd; (focus with_reducible rfl); iterate 6 (focus rfl))
    | split

theorem abortLoad_keeps {b_ : Bool} {r_ p : Part} (h_ : Keeps b_ r_ p) : Keeps b_ r_ (abortLoad p) := by
  refine h_.trans ?_; clear h_; unfold abortLoad; try dsimp only
  repeat' first
    | with_reducible first | exact Keeps.refl _ _ | assumption | apply setReg_keeps | apply Keeps.ite
    | fail_if_no_progress (with_reducible apply Keeps.mkUpd; (focus with_reducible rfl); iterate 6 (focus rfl))

theorem commitUpload_keeps {b_ : Bool} {r_ p : Part} (h_ : Keeps b_ r_ p) (data : List Byte) : Keeps b_ r_ (commitUpload p data).1 := by
  refine h_.trans ?_; clear h_; unfold commitUpload; try dsimp only
  repeat' first
    | (intro)
    | with_reducible first | exact Keeps.refl _ _ | assumption | apply writeBytes_keeps | apply setReg_keeps | apply Keeps.ite | apply Keeps.ite1

theorem forward_keeps {b_ : Bool} {r_ p : Part} (h_ : Keeps b_ r_ p) (k v : Nat) (path : Path) (op : Nat) : Keeps b_ r_ (forward p k v path op) := by
  refine h_.trans ?_; clear h_; unfold forward; try dsimp only
  repeat' first
    | with_reducible first | exact Keeps.refl _ _ | assumption | apply say_keeps
    | fail_if_no_progress (with_reducible apply Keeps.mkUpd; (focus with_reducible rfl); iterate 6 (focus rfl))

theorem keepDigest_keeps {b_ : Bool} {r_ p : Part} (h_ : Keeps b_ r_ p) (k : Nat) : Keeps b_ r_ (keepDigest p k) := by
  refine h_.trans ?_; clear h_; unfold keepDigest; try dsimp only
  repeat' first
    | (intro)
    | with_reducible first | exact Keeps.refl _ _ | assumption | apply Keeps.ite
    | fail_if_no_progress (with_reducible apply Keeps.mkUpd; (focus with_reducible rfl); iterate 6 (focus rfl))

theorem setDriveOut_keeps {b_ : Bool} {r_ p : Part} (h_ : Keeps b_ r_ p) (b : Bool) : Keeps b_ r_ (setDriveOut p b) := by
  refine h_.trans ?_; clear h_; unfold setDriveOut; try dsimp only
  repeat' first
    | with_reducible first | exact Keeps.refl _ _ | assumption | apply Keeps.ite
    | fail_if_no_progress (with_reducible apply Keeps.mkUpd; (focus with_reducible rfl); iterate 6 (focus rfl))

theorem setDriveIn_keeps {b_ : Bool} {r_ p : Part} (h_ : Keeps b_ r_ p) (b : Bool) : Keeps b_ r_ (setDriveIn p b) := by
  refine h_.trans ?_; clear h_; unfold setDriveIn; try dsimp only
  repeat' first
    | with_reducible first | exact Keeps.refl _ _ | assumption | apply Keeps.ite
    | fail_if_no_progress (with_reducible apply Keeps.mkUpd; (focus with_reducible rfl); iterate 6 (focus rfl))

theorem seeRelease_keeps {b_ : Bool} {r_ p : Part} (h_ : Keeps b_ r_ p) : Keeps b_ r_ (seeRelease p) := by
  refine h_.trans ?_; clear h_; unfold seeRelease; try dsimp only
  repeat' first
    | with_reducible first | exact Keeps.refl _ _ | assumption | apply setDriveOut_keeps | apply Keeps.ite
    | fail_if_no_progress (with_reducible apply Keeps.mkUpd; (focus with_reducible rfl); iterate 6 (focus rfl))
    | split

theorem driveIn_keeps {b_ : Bool} {r_ p : Part} (h_ : Keeps b_ r_ p) (b : Bool) : Keeps b_ r_ (driveIn p b) := by
  refine h_.trans ?_; clear h_; unfold driveIn; try dsimp only
  repeat' first
    | with_reducible first
      | exact Keeps.refl _ _ | assumption | apply setDriveIn_keeps | apply openSwitches_keeps | apply seeRelease_keeps | apply Keeps.ite
    | fail_if_no_progress (with_reducible apply Keeps.mkUpd; (focus with_reducible rfl); iterate 6 (focus rfl))

theorem setRole_keeps {b_ : Bool} {r_ p : Part} (h_ : Keeps b_ r_ p) (role n : Nat) : Keeps b_ r_ (setRole p role n) := by
  refine h_.trans ?_; clear h_; unfold setRole; try dsimp only
  repeat' first
    | with_reducible first
      | exact Keeps.refl _ _ | assumption | apply settleMarkers_keeps | apply setReg_keeps | apply raisePins_keeps | apply say_keeps
      | apply Keeps.ite

theorem takeQueues_keeps {b_ : Bool} {r_ p : Part} (h_ : Keeps b_ r_ p) (active : Bool) : Keeps b_ r_ (takeQueues p active) := by
  refine h_.trans ?_; clear h_; unfold takeQueues; try dsimp only
  repeat' first
    | (intro)
    | with_reducible first | exact Keeps.refl _ _ | assumption | apply setReg_keeps | apply Keeps.ite | apply Keeps.ite1 | apply Keeps.fold
    | fail_if_no_progress (with_reducible apply Keeps.mkUpd; (focus with_reducible rfl); iterate 6 (focus rfl))

theorem driveTick_keeps {b_ : Bool} {r_ p : Part} (h_ : Keeps b_ r_ p) : Keeps b_ r_ (driveTick p) := by
  refine h_.trans ?_; clear h_; unfold driveTick; try dsimp only
  repeat' first
    | with_reducible first
      | exact Keeps.refl _ _ | assumption | apply driveIn_keeps | apply setReg_keeps | apply takeQueues_keeps | apply setRole_keeps
      | apply raiseAt_keeps | apply Keeps.ite
    | fail_if_no_progress (with_reducible apply Keeps.mkUpd; (focus with_reducible rfl); iterate 6 (focus rfl))

theorem contend_keeps {b_ : Bool} {r_ p : Part} (h_ : Keeps b_ r_ p) : Keeps b_ r_ (contend p) := by
  refine h_.trans ?_; clear h_; unfold contend; try dsimp only
  repeat' first
    | with_reducible first
      | exact Keeps.refl _ _ | assumption | apply openSwitches_keeps | apply orReg_keeps | apply setReg_keeps | apply setDriveOut_keeps
      | apply Keeps.ite
    | fail_if_no_progress (with_reducible apply Keeps.mkUpd; (focus with_reducible rfl); iterate 6 (focus rfl))

theorem forceDrive_keeps {b_ : Bool} {r_ p : Part} (h_ : Keeps b_ r_ p) : Keeps b_ r_ (forceDrive p).1 := by
  refine h_.trans ?_; clear h_; unfold forceDrive; try dsimp only
  repeat' first
    | with_reducible first | exact Keeps.refl _ _ | assumption | apply setDriveOut_keeps | apply Keeps.ite | apply Keeps.ite1
    | fail_if_no_progress (with_reducible apply Keeps.mkUpd; (focus with_reducible rfl); iterate 6 (focus rfl))

theorem recordTakeover_keeps {b_ : Bool} {r_ p : Part} (h_ : Keeps b_ r_ p) (t row : Nat) (aborted : Bool) :
    Keeps b_ r_ (recordTakeover p t row aborted) := by
  refine h_.trans ?_; clear h_; unfold recordTakeover; try dsimp only
  repeat' with_reducible first | exact Keeps.refl _ _ | assumption | apply setReg_keeps

theorem planHandover_keeps {b_ : Bool} {r_ p : Part} (h_ : Keeps b_ r_ p) (local_ : Bool) : Keeps b_ r_ (planHandover p local_).1 := by
  refine h_.trans ?_; clear h_; unfold planHandover; try dsimp only
  repeat' first
    | with_reducible first | exact Keeps.refl _ _ | assumption | apply Keeps.ite | apply Keeps.ite1
    | fail_if_no_progress (with_reducible apply Keeps.mkUpd; (focus with_reducible rfl); iterate 6 (focus rfl))

theorem releaseDrive_keeps {b_ : Bool} {r_ p : Part} (h_ : Keeps b_ r_ p) (followed : Bool) : Keeps b_ r_ (releaseDrive p followed) := by
  refine h_.trans ?_; clear h_; unfold releaseDrive; try dsimp only
  repeat' first
    | with_reducible first
      | exact Keeps.refl _ _ | assumption | apply setDriveIn_keeps | apply setDriveOut_keeps | apply recordTakeover_keeps | apply Keeps.ite
    | fail_if_no_progress (with_reducible apply Keeps.mkUpd; (focus with_reducible rfl); iterate 6 (focus rfl))
    | split

theorem takeOver_keeps {b_ : Bool} {r_ p : Part} (h_ : Keeps b_ r_ p) : Keeps b_ r_ (takeOver p) := by
  refine h_.trans ?_; clear h_; unfold takeOver; try dsimp only
  repeat' first
    | (intro)
    | with_reducible first
      | exact Keeps.refl _ _ | assumption | apply driveIn_keeps | apply setRole_keeps | apply recordTakeover_keeps | apply addReg_keeps
      | apply raiseAt_keeps | apply takeQueues_keeps | apply outTick_keeps | apply Keeps.ite | apply Keeps.fold
    | fail_if_no_progress (with_reducible apply Keeps.mkUpd; (focus with_reducible rfl); iterate 6 (focus rfl))
    | split

theorem compareDigest_keeps {b_ : Bool} {r_ p : Part} (h_ : Keeps b_ r_ p) : Keeps b_ r_ (compareDigest p) := by
  refine h_.trans ?_; clear h_; unfold compareDigest; try dsimp only
  repeat' first
    | (intro)
    | with_reducible first
      | exact Keeps.refl _ _ | assumption | apply addReg_keeps | apply setReg_keeps | apply orReg_keeps | apply raiseAt_keeps | apply Keeps.ite
      | apply Keeps.ite1
    | split

theorem hearPartner_keeps {b_ : Bool} {r_ p : Part} (h_ : Keeps b_ r_ p) (kind identity address port role : Nat) :
    Keeps b_ r_ (hearPartner p kind identity address port role) := by
  refine h_.trans ?_; clear h_; unfold hearPartner; try dsimp only
  repeat' first
    | (intro)
    | with_reducible first | exact Keeps.refl _ _ | assumption | apply setReg_keeps | apply addReg_keeps
    | fail_if_no_progress (with_reducible apply Keeps.mkUpd; (focus with_reducible rfl); iterate 6 (focus rfl))
    | split

theorem losePartner_keeps {b_ : Bool} {r_ p : Part} (h_ : Keeps b_ r_ p) (i cyc : Nat) : Keeps b_ r_ (losePartner p i cyc) := by
  refine h_.trans ?_; clear h_; unfold losePartner; try dsimp only
  repeat' first
    | (intro)
    | with_reducible first | exact Keeps.refl _ _ | assumption | apply raiseNow_keeps | apply atCyc_keeps | apply setReg_keeps
    | fail_if_no_progress (with_reducible apply Keeps.mkUpd; (focus with_reducible rfl); iterate 6 (focus rfl))

theorem hearTwin_keeps {b_ : Bool} {r_ p : Part} (h_ : Keeps b_ r_ p) : Keeps b_ r_ (hearTwin p) := by
  refine h_.trans ?_; clear h_; unfold hearTwin; try dsimp only
  repeat' first
    | with_reducible first | exact Keeps.refl _ _ | assumption | apply hearPartner_keeps | apply Keeps.ite
    | split

theorem leavePair_keeps {b_ : Bool} {r_ p : Part} (h_ : Keeps b_ r_ p) : Keeps b_ r_ (leavePair p) := by
  refine h_.trans ?_; clear h_; unfold leavePair; try dsimp only
  repeat' first
    | with_reducible first | exact Keeps.refl _ _ | assumption | apply setReg_keeps
    | fail_if_no_progress (with_reducible apply Keeps.mkUpd; (focus with_reducible rfl); iterate 6 (focus rfl))

theorem loseTwin_keeps {b_ : Bool} {r_ p : Part} (h_ : Keeps b_ r_ p) (cyc : Nat) : Keeps b_ r_ (loseTwin p cyc) := by
  refine h_.trans ?_; clear h_; unfold loseTwin; try dsimp only
  repeat' first
    | with_reducible first
      | exact Keeps.refl _ _ | assumption | apply losePartner_keeps | apply raiseNow_keeps | apply atCyc_keeps | apply leavePair_keeps
      | apply orReg_keeps | apply setReg_keeps | apply Keeps.ite
    | fail_if_no_progress (with_reducible apply Keeps.mkUpd; (focus with_reducible rfl); iterate 6 (focus rfl))
    | split

theorem failJoin_keeps {b_ : Bool} {r_ p : Part} (h_ : Keeps b_ r_ p) (cause : Nat) : Keeps b_ r_ (failJoin p cause) := by
  refine h_.trans ?_; clear h_; unfold failJoin; try dsimp only
  repeat' with_reducible first | exact Keeps.refl _ _ | assumption | apply setReg_keeps | apply leavePair_keeps

theorem takeConfig_keeps {b_ : Bool} {r_ p : Part} (h_ : Keeps b_ r_ p) (i : ConfigImage) : Keeps b_ r_ (takeConfig p i) := by
  unfold takeConfig
  dsimp only
  with_reducible apply takeQueues_keeps
  refine Keeps.fold (fun q hq e => setReg_keeps hq _ _) ?_
  have hp : Keeps b_ r_ (if kget regDefault i.regs G.fsKhz ≠ reg p G.fsKhz then relock p (kget regDefault i.regs G.fsKhz)
      else if kget regDefault i.regs G.epoch ≠ reg p G.epoch then beginAlign p else p) := by
    with_reducible apply Keeps.ite
    · exact relock_keeps h_ _
    · with_reducible apply Keeps.ite
      · exact beginAlign_keeps h_
      · exact h_
  generalize (if kget regDefault i.regs G.fsKhz ≠ reg p G.fsKhz then relock p (kget regDefault i.regs G.fsKhz)
      else if kget regDefault i.regs G.epoch ≠ reg p G.epoch then beginAlign p else p) = q at hp ⊢
  exact hp.trans ⟨fun h => kwf_kkeep regDefault (fun k => !mirroredKey k) q.gz.regs h, id, id, id, id, List.suffix_refl _, fun _ => rfl⟩

theorem takeImage_keeps {b_ : Bool} {r_ p : Part} (h_ : Keeps b_ r_ p) (i : StateImage) : Keeps b_ r_ (takeImage p i) := by
  unfold takeImage
  dsimp only
  with_reducible apply takeQueues_keeps
  refine Keeps.fold (fun q hq e => setReg_keeps hq _ _) ?_
  exact h_.trans ⟨fun h => kwf_kkeep regDefault (fun k => !imageKey k) p.gz.regs h, id, id, id, id, List.suffix_refl _, fun _ => rfl⟩

theorem sendRing_keeps {b_ : Bool} {r_ p : Part} (h_ : Keeps b_ r_ p) (e : Nat × Nat) : Keeps b_ r_ (sendRing p e) := by
  refine h_.trans ?_; clear h_; unfold sendRing; try dsimp only
  repeat' first
    | (intro)
    | with_reducible first
      | exact Keeps.refl _ _ | assumption | apply say_keeps | apply recordUe_keeps | apply Keeps.ite | apply Keeps.ite1 | apply Keeps.fold

theorem takeRing_keeps {b_ : Bool} {r_ p : Part} (h_ : Keeps b_ r_ p) (q pos : Nat) (data : List Byte) (missing : List Nat) :
    Keeps b_ r_ (takeRing p q pos data missing) := by
  refine h_.trans ?_; clear h_; unfold takeRing; try dsimp only
  repeat' first
    | (intro)
    | with_reducible first | exact Keeps.refl _ _ | assumption | apply writeBytes_keeps | apply setReg_keeps | apply Keeps.ite | apply Keeps.ite1
    | fail_if_no_progress (with_reducible apply Keeps.mkUpd; (focus with_reducible rfl); iterate 6 (focus rfl))

theorem beginJoin_keeps {b_ : Bool} {r_ p : Part} (h_ : Keeps b_ r_ p) (x : PeerInfo) : Keeps b_ r_ (beginJoin p x) := by
  refine h_.trans ?_; clear h_; unfold beginJoin; try dsimp only
  repeat' first
    | with_reducible first
      | exact Keeps.refl _ _ | assumption | apply setReg_keeps | apply setRole_keeps | apply say_keeps | apply setDriveOut_keeps
      | apply openSwitches_keeps | apply hearTwin_keeps | apply takeQueues_keeps | apply Keeps.ite
    | fail_if_no_progress (with_reducible apply Keeps.mkUpd; (focus with_reducible rfl); iterate 6 (focus rfl))

theorem wantJoin_keeps {b_ : Bool} {r_ p : Part} (h_ : Keeps b_ r_ p) : Keeps b_ r_ (wantJoin p).1 := by
  refine h_.trans ?_; clear h_; unfold wantJoin; try dsimp only
  repeat' first
    | with_reducible first | exact Keeps.refl _ _ | assumption | apply Keeps.ite | apply Keeps.ite1
    | fail_if_no_progress (with_reducible apply Keeps.mkUpd; (focus with_reducible rfl); iterate 6 (focus rfl))

theorem leaveCommand_keeps {b_ : Bool} {r_ p : Part} (h_ : Keeps b_ r_ p) : Keeps b_ r_ (leaveCommand p).1 := by
  refine h_.trans ?_; clear h_; unfold leaveCommand; try dsimp only
  repeat' first
    | with_reducible first | exact Keeps.refl _ _ | assumption | apply leavePair_keeps | apply say_keeps | apply Keeps.ite | apply Keeps.ite1

theorem dropLogs_keeps {b_ : Bool} {r_ p : Part} (h_ : Keeps b_ r_ p) (k : Nat) : Keeps b_ r_ (dropLogs p k) := by
  refine h_.trans ?_; clear h_; unfold dropLogs; try dsimp only
  repeat' first
    | (intro)
    | with_reducible first | exact Keeps.refl _ _ | assumption | apply Keeps.ite1
    | fail_if_no_progress (with_reducible apply Keeps.mkUpd; (focus with_reducible rfl); iterate 6 (focus rfl))

theorem takeLog_keeps {b_ : Bool} {r_ p : Part} (h_ : Keeps b_ r_ p) (k : Nat) (l : List LogRecord) : Keeps b_ r_ (takeLog p k l) := by
  refine h_.trans ?_; clear h_; unfold takeLog; try dsimp only
  repeat' first
    | (intro)
    | with_reducible first | exact Keeps.refl _ _ | assumption | apply latchAll_keeps | apply Keeps.fold

theorem sendLog_keeps {b_ : Bool} {r_ p : Part} (h_ : Keeps b_ r_ p) : Keeps b_ r_ (sendLog p) := by
  refine h_.trans ?_; clear h_; unfold sendLog; try dsimp only
  repeat' first
    | with_reducible first | exact Keeps.refl _ _ | assumption | apply dropLogs_keeps | apply say_keeps | apply Keeps.ite

theorem receiveLog_keeps {b_ : Bool} {r_ p : Part} (h_ : Keeps b_ r_ p) (k cyc : Nat) (l : List LogRecord) : Keeps b_ r_ (receiveLog p k cyc l) := by
  refine h_.trans ?_; clear h_; unfold receiveLog; try dsimp only
  repeat' first
    | (intro)
    | with_reducible first | exact Keeps.refl _ _ | assumption | apply dropLogs_keeps | apply takeLog_keeps | apply Keeps.ite | apply Keeps.ite1
    | fail_if_no_progress (with_reducible apply Keeps.mkUpd; (focus with_reducible rfl); iterate 6 (focus rfl))

theorem loseTick_keeps {b_ : Bool} {r_ p : Part} (h_ : Keeps b_ r_ p) : Keeps b_ r_ (loseTick p) := by
  refine h_.trans ?_; clear h_; unfold loseTick; try dsimp only
  repeat' first
    | (intro)
    | with_reducible first
      | exact Keeps.refl _ _ | assumption | apply dropLogs_keeps | apply takeLog_keeps | apply setReg_keeps | apply addReg_keeps | apply orReg_keeps
      | apply raiseAt_keeps | apply atCyc_keeps | apply Keeps.ite | apply Keeps.ite1
    | fail_if_no_progress (with_reducible apply Keeps.mkUpd; (focus with_reducible rfl); iterate 6 (focus rfl))

theorem storeRing_keeps {b_ : Bool} {r_ p : Part} (h_ : Keeps b_ r_ p) (port q : Nat) (bytes : List Byte) :
    Keeps b_ r_ (storeRing p port q bytes) := by
  refine h_.trans ?_; clear h_; unfold storeRing; try dsimp only
  repeat' first
    | (intro)
    | with_reducible first
      | exact Keeps.refl _ _ | assumption | apply writeBytes_keeps | apply addReg_keeps | apply setReg_keeps | apply settleQueue_keeps
      | apply Keeps.ite

theorem mirrorBytes_keeps {b_ : Bool} {r_ p : Part} (h_ : Keeps b_ r_ p) (q : Nat) (data : List Byte) : Keeps b_ r_ (mirrorBytes p q data) := by
  refine h_.trans ?_; clear h_; unfold mirrorBytes; try dsimp only
  repeat' first
    | (intro)
    | with_reducible first | exact Keeps.refl _ _ | assumption | apply storeRing_keeps | apply setReg_keeps | apply say_keeps | apply Keeps.ite

theorem cutoffRecord_keeps {b_ : Bool} {r_ p : Part} (h_ : Keeps b_ r_ p) (q units : Nat) : Keeps b_ r_ (cutoffRecord p q units) := by
  refine h_.trans ?_; clear h_; unfold cutoffRecord; try dsimp only
  repeat' first
    | (intro)
    | with_reducible first | exact Keeps.refl _ _ | assumption | apply say_keeps | apply Keeps.ite
    | fail_if_no_progress (with_reducible apply Keeps.mkUpd; (focus with_reducible rfl); iterate 6 (focus rfl))

end Sys2Proof.Machine
end

