-- ==== Sys2Proof/Laws/KeepsMemory.lean ====
section
/-!
SUPPORT. The operations of admission, streams, the memory controller and the lifecycle have the relation of Laws/Keeps.
-/

namespace Sys2Proof.Machine

theorem jobs_keeps {b_ : Bool} {r_ p : Part} (h_ : Keeps b_ r_ p) (l : List AdmJob) (hl : p.adm.jobs.length ≤ 16 → l.length ≤ 16) :
    Keeps b_ r_ { p with adm := { p.adm with jobs := l } } :=
  h_.trans ⟨id, id, hl, id, id, List.suffix_refl _, fun _ => rfl⟩

theorem publishRefusal_keeps {b_ : Bool} {r_ p : Part} (h_ : Keeps b_ r_ p) (cmd g : Nat) (r : Refusing) :
    Keeps b_ r_ (publishRefusal p cmd g r) := by
  refine h_.trans ?_; clear h_; unfold publishRefusal; try dsimp only
  repeat' first
    | with_reducible first | exact Keeps.refl _ _ | assumption | apply setReg_keeps | apply addReg_keeps | apply raiseNow_keeps | apply Keeps.ite1
    | split

theorem publishAcceptance_keeps {b_ : Bool} {r_ p : Part} (h_ : Keeps b_ r_ p) (cmd g : Nat) : Keeps b_ r_ (publishAcceptance p cmd g) := by
  refine h_.trans ?_; clear h_; unfold publishAcceptance; try dsimp only
  repeat' with_reducible first | exact Keeps.refl _ _ | assumption | apply setReg_keeps | apply addReg_keeps

theorem publishChannels_keeps {b_ : Bool} {r_ p : Part} (h_ : Keeps b_ r_ p) (q : Part) (charges : KMap Charge) (subs : List Subject) :
    Keeps b_ r_ (publishChannels p q charges subs) := by
  unfold publishChannels
  refine Keeps.fold (fun a ha s => ?_) h_
  dsimp only
  split
  · exact ha
  · repeat' first
      | with_reducible assumption
      | with_reducible apply setReg_keeps

theorem reserveGroup_keeps {b_ : Bool} {r_ p : Part} (h_ : Keeps b_ r_ p) (g : Nat) (charges : KMap Charge) (regs : KMap Nat) (ready : Nat) :
    Keeps b_ r_ (reserveGroup p g charges regs ready) := by
  refine h_.trans ?_; clear h_; unfold reserveGroup; try dsimp only
  repeat' first
    | (intro)
    | with_reducible first | exact Keeps.refl _ _ | assumption | apply setReg_keeps | apply publishTotals_keeps
    | fail_if_no_progress (with_reducible apply Keeps.mkUpd; (focus with_reducible rfl); iterate 6 (focus rfl))

theorem reservePlan_keeps {b_ : Bool} {r_ p : Part} (h_ : Keeps b_ r_ p) (g c : Nat) (charges : KMap Charge) (regs : KMap Nat) :
    Keeps b_ r_ (reservePlan p g c charges regs) := by
  refine h_.trans ?_; clear h_; unfold reservePlan; try dsimp only
  repeat' first
    | with_reducible first | exact Keeps.refl _ _ | assumption | apply publishTotals_keeps
    | fail_if_no_progress (with_reducible apply Keeps.mkUpd; (focus with_reducible rfl); iterate 6 (focus rfl))

theorem grant_keeps {b_ : Bool} {r_ p : Part} (h_ : Keeps b_ r_ p) (j : AdmJob) (charges : KMap Charge) (subs : List Subject) :
    Keeps b_ r_ (grant p j charges subs).1 := by
  refine h_.trans ?_; clear h_; unfold grant; try dsimp only
  repeat' first
    | (intro)
    | with_reducible first
      | exact Keeps.refl _ _ | assumption | apply judged_keeps | apply publishChannels_keeps | apply publishAcceptance_keeps
      | apply reservePlan_keeps | apply setReg_keeps | apply reserveGroup_keeps | apply setGrp_keeps | apply beginSpan_keeps
      | apply scheduleStart_keeps | apply Keeps.ite | apply Keeps.ite1 | apply Keeps.fold
    | fail_if_no_progress (with_reducible apply Keeps.mkUpd; (focus with_reducible rfl); iterate 6 (focus rfl))

theorem judgeJob_keeps {b_ : Bool} {r_ p : Part} (h_ : Keeps b_ r_ p) (j : AdmJob) (twin digest : Nat) :
    Keeps b_ r_ (judgeJob p j twin digest).1 := by
  refine h_.trans ?_; clear h_; unfold judgeJob; try dsimp only
  repeat' first
    | with_reducible first
      | exact Keeps.refl _ _ | assumption | apply setReg_keeps | apply scheduleStart_keeps | apply publishRefusal_keeps | apply grant_keeps
      | apply Keeps.ite | apply Keeps.ite1
    | split

theorem sendReply_keeps {b_ : Bool} {r_ p : Part} (h_ : Keeps b_ r_ p) (h : PlHeader) (frames : List PlFrame) :
    Keeps b_ r_ (sendReply p h frames) := by
  refine h_.trans ?_; clear h_; unfold sendReply; try dsimp only
  repeat' first
    | (intro)
    | with_reducible first | exact Keeps.refl _ _ | assumption | apply say_keeps | apply Keeps.fold
    | fail_if_no_progress (with_reducible apply Keeps.mkUpd; (focus with_reducible rfl); iterate 6 (focus rfl))

theorem replyHead_keeps {b_ : Bool} {r_ p : Part} (h_ : Keeps b_ r_ p) (h : PlHeader) (status : Nat) (head : List Byte) (items : List ReplyItem) :
    Keeps b_ r_ (replyHead p h status head items) := by
  refine h_.trans ?_; clear h_; unfold replyHead; try dsimp only
  repeat' first
    | (intro)
    | with_reducible first | exact Keeps.refl _ _ | assumption | apply sendReply_keeps

theorem reply_keeps {b_ : Bool} {r_ p : Part} (h_ : Keeps b_ r_ p) (h : PlHeader) (status : Nat) (items : List ReplyItem) :
    Keeps b_ r_ (reply p h status items) := by
  refine h_.trans ?_; clear h_; unfold reply; try dsimp only
  repeat' with_reducible first | exact Keeps.refl _ _ | assumption | apply replyHead_keeps

theorem tell_keeps {b_ : Bool} {r_ p : Part} (h_ : Keeps b_ r_ p) (path : Path) (code : Nat) : Keeps b_ r_ (tell p path code) := by
  refine h_.trans ?_; clear h_; unfold tell; try dsimp only
  repeat' first
    | with_reducible first | exact Keeps.refl _ _ | assumption | apply say_keeps
    | split

theorem answer_keeps {b_ : Bool} {r_ p : Part} (h_ : Keeps b_ r_ p) (path : Path) (k code : Nat) : Keeps b_ r_ (answer p path k code) := by
  refine h_.trans ?_; clear h_; unfold answer; try dsimp only
  repeat' first
    | (intro)
    | with_reducible first | exact Keeps.refl _ _ | assumption | apply tell_keeps | apply reply_keeps | apply Keeps.ite
    | fail_if_no_progress (with_reducible apply Keeps.mkUpd; (focus with_reducible rfl); iterate 6 (focus rfl))
    | split

theorem giveVerdict_keeps {b_ : Bool} {r_ p : Part} (h_ : Keeps b_ r_ p) (twin : Nat) (digest : Nat) (cyc : Nat) :
    Keeps b_ r_ (giveVerdict p twin digest cyc) := by
  unfold giveVerdict
  split
  · exact h_
  · rename_i j r hj
    dsimp only
    split
    · exact h_
    · have h1 : Keeps b_ r_ { atCyc p cyc with adm := { p.adm with jobs := r } } :=
        jobs_keeps (atCyc_keeps h_ cyc) r fun h => by
          have : p.adm.jobs.length ≤ 16 := h
          rw [hj, List.length_cons] at this; omega
      have h2 := judgeJob_keeps (setReg_keeps h1 G.admPending r.length) j twin digest
      with_reducible apply answer_keeps
      split
      · exact h2
      · exact logAbort_keeps h2 ..

theorem submit_keeps {b_ : Bool} {r_ p : Part} (h_ : Keeps b_ r_ p) (cmd g c : Nat) (path : Path) (at_ : Nat) :
    Keeps b_ r_ (submit p cmd g c path at_).1 := by
  unfold submit
  split
  · exact h_
  · with_reducible apply setReg_keeps
    refine jobs_keeps h_ _ fun _ => ?_
    rw [List.length_append, List.length_singleton]; omega

theorem commandArm_keeps {b_ : Bool} {r_ p : Part} (h_ : Keeps b_ r_ p) (g : Nat) (path : Path) : Keeps b_ r_ (commandArm p g path).1 := by
  refine h_.trans ?_; clear h_; unfold commandArm; try dsimp only
  repeat' first
    | with_reducible first | exact Keeps.refl _ _ | assumption | apply submit_keeps | apply Keeps.ite | apply Keeps.ite1

theorem commandStart_keeps {b_ : Bool} {r_ p : Part} (h_ : Keeps b_ r_ p) (g : Grp) (path : Path) : Keeps b_ r_ (commandStart p g path).1 := by
  refine h_.trans ?_; clear h_; unfold commandStart; try dsimp only
  repeat' first
    | with_reducible first
      | exact Keeps.refl _ _ | assumption | apply scheduleStart_keeps | apply publishRefusal_keeps | apply submit_keeps | apply Keeps.ite
      | apply Keeps.ite1

theorem commandRestart_keeps {b_ : Bool} {r_ p : Part} (h_ : Keeps b_ r_ p) (g : Nat) (path : Path) : Keeps b_ r_ (commandRestart p g path).1 := by
  refine h_.trans ?_; clear h_; unfold commandRestart; try dsimp only
  repeat' first
    | with_reducible first | exact Keeps.refl _ _ | assumption | apply submit_keeps | apply Keeps.ite | apply Keeps.ite1

theorem planGoes_keeps {b_ : Bool} {r_ p : Part} (h_ : Keeps b_ r_ p) (c : Nat) (path : Path) : Keeps b_ r_ (planGoes p c path).1 := by
  refine h_.trans ?_; clear h_; unfold planGoes; try dsimp only
  repeat' first
    | with_reducible first | exact Keeps.refl _ _ | assumption | apply setReg_keeps | apply submit_keeps | apply Keeps.ite | apply Keeps.ite1

theorem disarmReaders_keeps {b_ : Bool} {r_ p : Part} (h_ : Keeps b_ r_ p) (q : Nat) : Keeps b_ r_ (disarmReaders p q) := by
  refine h_.trans ?_; clear h_; unfold disarmReaders; try dsimp only
  repeat' first
    | (intro)
    | with_reducible first | exact Keeps.refl _ _ | assumption | apply disarm_keeps | apply Keeps.fold

theorem dropQueue_keeps {b_ : Bool} {r_ p : Part} (h_ : Keeps b_ r_ p) (q : Nat) : Keeps b_ r_ (dropQueue p q) := by
  refine h_.trans ?_; clear h_; unfold dropQueue; try dsimp only
  repeat' first
    | (intro)
    | with_reducible first | exact Keeps.refl _ _ | assumption | apply Keeps.ite1
    | fail_if_no_progress (with_reducible apply Keeps.mkUpd; (focus with_reducible rfl); iterate 6 (focus rfl))

theorem resetQueue_keeps {b_ : Bool} {r_ p : Part} (h_ : Keeps b_ r_ p) (q : Nat) : Keeps b_ r_ (resetQueue p q) := by
  refine h_.trans ?_; clear h_; unfold resetQueue; try dsimp only
  repeat' first
    | (intro)
    | with_reducible first | exact Keeps.refl _ _ | assumption | apply setReg_keeps | apply dropQueue_keeps | apply Keeps.fold

theorem fillFirst_keeps {b_ : Bool} {r_ p : Part} (h_ : Keeps b_ r_ p) (q : Nat) : Keeps b_ r_ (fillFirst p q) := by
  refine h_.trans ?_; clear h_; unfold fillFirst; try dsimp only
  repeat' first
    | (intro)
    | with_reducible first | exact Keeps.refl _ _ | assumption | apply Keeps.ite
    | fail_if_no_progress (with_reducible apply Keeps.mkUpd; (focus with_reducible rfl); iterate 6 (focus rfl))

theorem enableQueue_keeps {b_ : Bool} {r_ p : Part} (h_ : Keeps b_ r_ p) (q v : Nat) : Keeps b_ r_ (enableQueue p q v) := by
  refine h_.trans ?_; clear h_; unfold enableQueue; try dsimp only
  repeat' first
    | (intro)
    | with_reducible first
      | exact Keeps.refl _ _ | assumption | apply fillFirst_keeps | apply setReg_keeps | apply resetQueue_keeps | apply dropQueue_keeps
      | apply Keeps.ite
    | fail_if_no_progress (with_reducible apply Keeps.mkUpd; (focus with_reducible rfl); iterate 6 (focus rfl))

theorem queueError_keeps {b_ : Bool} {r_ p : Part} (h_ : Keeps b_ r_ p) (q cause : Nat) : Keeps b_ r_ (queueError p q cause) := by
  refine h_.trans ?_; clear h_; unfold queueError; try dsimp only
  repeat' with_reducible first | exact Keeps.refl _ _ | assumption | apply setReg_keeps

theorem doorbell_keeps {b_ : Bool} {r_ p : Part} (h_ : Keeps b_ r_ p) (q tail : Nat) : Keeps b_ r_ (doorbell p q tail) := by
  refine h_.trans ?_; clear h_; unfold doorbell; try dsimp only
  repeat' first
    | (intro)
    | with_reducible first | exact Keeps.refl _ _ | assumption | apply addReg_keeps | apply queueError_keeps | apply setReg_keeps | apply Keeps.ite
    | fail_if_no_progress (with_reducible apply Keeps.mkUpd; (focus with_reducible rfl); iterate 6 (focus rfl))

theorem writeVector_keeps {b_ : Bool} {r_ p : Part} (h_ : Keeps b_ r_ p) (i v : Nat) : Keeps b_ r_ (writeVector p i v) := by
  refine h_.trans ?_; clear h_; unfold writeVector; try dsimp only
  repeat' first
    | (intro)
    | with_reducible first | exact Keeps.refl _ _ | assumption | apply raiseMsix_keeps | apply Keeps.ite
    | fail_if_no_progress (with_reducible apply Keeps.mkUpd; (focus with_reducible rfl); iterate 6 (focus rfl))

theorem bar2Write_keeps {b_ : Bool} {r_ p : Part} (h_ : Keeps b_ r_ p) (a n v : Nat) : Keeps b_ r_ (bar2Write p a n v) := by
  refine h_.trans ?_; clear h_; unfold bar2Write; try dsimp only
  repeat' first
    | with_reducible first
      | exact Keeps.refl _ _ | assumption | apply addReg_keeps | apply doorbell_keeps | apply writeVector_keeps | apply Keeps.ite

theorem bar2_keeps {b_ : Bool} {r_ p : Part} (h_ : Keeps b_ r_ p) (a : Nat) (x : Bar2Access) : Keeps b_ r_ (bar2 p a x) := by
  cases x with
  | write n v => exact Keeps.ite h_ (bar2Write_keeps h_ _ _ _)
  | read n => exact Keeps.ite h_ (say_keeps h_ _)

theorem appendRing_keeps {b_ : Bool} {r_ p : Part} (h_ : Keeps b_ r_ p) (q : Nat) (bytes : List Byte) : Keeps b_ r_ (appendRing p q bytes) := by
  refine h_.trans ?_; clear h_; unfold appendRing; try dsimp only
  repeat' with_reducible first | exact Keeps.refl _ _ | assumption | apply storeRing_keeps

theorem takeBytes_keeps {b_ : Bool} {r_ p : Part} (h_ : Keeps b_ r_ p) (q : Nat) (bytes : List Byte) : Keeps b_ r_ (takeBytes p q bytes) := by
  refine h_.trans ?_; clear h_; unfold takeBytes; try dsimp only
  repeat' first
    | (intro)
    | with_reducible first | exact Keeps.refl _ _ | assumption | apply appendRing_keeps | apply Keeps.ite1
    | fail_if_no_progress (with_reducible apply Keeps.mkUpd; (focus with_reducible rfl); iterate 6 (focus rfl))

theorem fetchOne_keeps {b_ : Bool} {r_ p : Part} (h_ : Keeps b_ r_ p) (q : Nat) (d : StreamDesc) : Keeps b_ r_ (fetchOne p q d) := by
  refine h_.trans ?_; clear h_; unfold fetchOne; try dsimp only
  repeat' first
    | (intro)
    | with_reducible first
      | exact Keeps.refl _ _ | assumption | apply queueError_keeps | apply addReg_keeps | apply takeBytes_keeps | apply Keeps.ite
    | fail_if_no_progress (with_reducible apply Keeps.mkUpd; (focus with_reducible rfl); iterate 6 (focus rfl))
    | split

theorem fetchDescs_keeps {b_ : Bool} {r_ p : Part} (h_ : Keeps b_ r_ p) (q : Nat) (descs : List StreamDesc) (cyc : Nat) :
    Keeps b_ r_ (fetchDescs p q descs cyc) := by
  refine h_.trans ?_; clear h_; unfold fetchDescs; try dsimp only
  repeat' first
    | (intro)
    | with_reducible first
      | exact Keeps.refl _ _ | assumption | apply fetchOne_keeps | apply takeBytes_keeps | apply atCyc_keeps | apply setReg_keeps | apply Keeps.ite
      | apply Keeps.fold

theorem writeBack_keeps {b_ : Bool} {r_ p : Part} (h_ : Keeps b_ r_ p) (q status : Nat) : Keeps b_ r_ (writeBack p q status) := by
  refine h_.trans ?_; clear h_; unfold writeBack; try dsimp only
  repeat' first
    | with_reducible first | exact Keeps.refl _ _ | assumption | apply say_keeps | apply Keeps.ite

theorem completeDesc_keeps {b_ : Bool} {r_ p : Part} (h_ : Keeps b_ r_ p) (q : Nat) : Keeps b_ r_ (completeDesc p q) := by
  refine h_.trans ?_; clear h_; unfold completeDesc; try dsimp only
  repeat' first
    | (intro)
    | with_reducible first
      | exact Keeps.refl _ _ | assumption | apply addReg_keeps | apply writeBack_keeps | apply raiseMsix_keeps | apply Keeps.ite | apply Keeps.ite1
    | fail_if_no_progress (with_reducible apply Keeps.mkUpd; (focus with_reducible rfl); iterate 6 (focus rfl))
    | split

theorem netData_keeps {b_ : Bool} {r_ p : Part} (h_ : Keeps b_ r_ p) (q : Nat) (data : List Byte) : Keeps b_ r_ (netData p q data).1 := by
  refine h_.trans ?_; clear h_; unfold netData; try dsimp only
  repeat' first
    | with_reducible first | exact Keeps.refl _ _ | assumption | apply appendRing_keeps | apply Keeps.ite | apply Keeps.ite1

theorem flushQueue_keeps {b_ : Bool} {r_ p : Part} (h_ : Keeps b_ r_ p) (q : Nat) : Keeps b_ r_ (flushQueue p q).1 := by
  refine h_.trans ?_; clear h_; unfold flushQueue; try dsimp only
  repeat' first
    | (intro)
    | with_reducible first
      | exact Keeps.refl _ _ | assumption | apply settleQueue_keeps | apply setReg_keeps | apply addReg_keeps | apply writeBack_keeps
      | apply Keeps.ite | apply Keeps.ite1
    | fail_if_no_progress (with_reducible apply Keeps.mkUpd; (focus with_reducible rfl); iterate 6 (focus rfl))

theorem loseHost_keeps {b_ : Bool} {r_ p : Part} (h_ : Keeps b_ r_ p) : Keeps b_ r_ (loseHost p) := by
  refine h_.trans ?_; clear h_; unfold loseHost; try dsimp only
  repeat' first
    | (intro)
    | with_reducible first
      | exact Keeps.refl _ _ | assumption | apply abortLoad_keeps | apply addReg_keeps | apply setReg_keeps | apply Keeps.ite | apply Keeps.fold
    | fail_if_no_progress (with_reducible apply Keeps.mkUpd; (focus with_reducible rfl); iterate 6 (focus rfl))

theorem hostEvent_keeps {b_ : Bool} {r_ p : Part} (h_ : Keeps b_ r_ p) (e : HostEvent) : Keeps b_ r_ (hostEvent p e) := by
  cases e with
  | lost c => exact loseHost_keeps h_
  | returned gen width => exact Keeps.ite (setReg_keeps (setReg_keeps h_ _ _) _ _) h_

theorem timeout_keeps {b_ : Bool} {r_ p : Part} (h_ : Keeps b_ r_ p) (q : Nat) : Keeps b_ r_ (timeout p q) := by
  refine h_.trans ?_; clear h_; unfold timeout; try dsimp only
  repeat' first
    | (intro)
    | with_reducible first
      | exact Keeps.refl _ _ | assumption | apply addReg_keeps | apply queueError_keeps | apply loseHost_keeps | apply Keeps.ite
    | fail_if_no_progress (with_reducible apply Keeps.mkUpd; (focus with_reducible rfl); iterate 6 (focus rfl))

theorem pushPaced_keeps {b_ : Bool} {r_ p : Part} (h_ : Keeps b_ r_ p) (c e : Nat) : Keeps b_ r_ (pushPaced p c e).1 := by
  refine h_.trans ?_; clear h_; unfold pushPaced; try dsimp only
  repeat' first
    | (intro)
    | with_reducible first | exact Keeps.refl _ _ | assumption | apply addReg_keeps | apply setReg_keeps | apply Keeps.ite | apply Keeps.ite1
    | fail_if_no_progress (with_reducible apply Keeps.mkUpd; (focus with_reducible rfl); iterate 6 (focus rfl))

theorem flushPaced_keeps {b_ : Bool} {r_ p : Part} (h_ : Keeps b_ r_ p) (c : Nat) : Keeps b_ r_ (flushPaced p c) := by
  refine h_.trans ?_; clear h_; unfold flushPaced; try dsimp only
  repeat' first
    | (intro)
    | with_reducible first | exact Keeps.refl _ _ | assumption | apply setReg_keeps
    | fail_if_no_progress (with_reducible apply Keeps.mkUpd; (focus with_reducible rfl); iterate 6 (focus rfl))

theorem setSub_keeps {b_ : Bool} {r_ p : Part} (h_ : Keeps b_ r_ p) (i : SubCh) (x : SubChSt) : Keeps b_ r_ (setSub p i x) := by
  refine h_.trans ?_; clear h_; unfold setSub; try dsimp only
  repeat' first
    | with_reducible first | exact Keeps.refl _ _ | assumption
    | fail_if_no_progress (with_reducible apply Keeps.mkUpd; (focus with_reducible rfl); iterate 6 (focus rfl))

theorem raiseCredit_keeps {b_ : Bool} {r_ p : Part} (h_ : Keeps b_ r_ p) : Keeps b_ r_ (raiseCredit p) := by
  refine h_.trans ?_; clear h_; unfold raiseCredit; try dsimp only
  repeat' first
    | (intro)
    | with_reducible first | exact Keeps.refl _ _ | assumption
    | fail_if_no_progress (with_reducible apply Keeps.mkUpd; (focus with_reducible rfl); iterate 6 (focus rfl))

theorem moveBytes_keeps {b_ : Bool} {r_ p : Part} (h_ : Keeps b_ r_ p) (n bytes : Nat) : Keeps b_ r_ (moveBytes p n bytes) := by
  refine h_.trans ?_; clear h_; unfold moveBytes; try dsimp only
  repeat' first
    | (intro)
    | with_reducible first | exact Keeps.refl _ _ | assumption | apply addReg_keeps | apply Keeps.ite
    | fail_if_no_progress (with_reducible apply Keeps.mkUpd; (focus with_reducible rfl); iterate 6 (focus rfl))

theorem recordCe_keeps {b_ : Bool} {r_ p : Part} (h_ : Keeps b_ r_ p) (line device : Nat) : Keeps b_ r_ (recordCe p line device) := by
  refine h_.trans ?_; clear h_; unfold recordCe; try dsimp only
  repeat' with_reducible first | exact Keeps.refl _ _ | assumption | apply setReg_keeps | apply addReg_keeps

theorem readOutcome_keeps {b_ : Bool} {r_ p : Part} (h_ : Keeps b_ r_ p) (line port : Nat) (ecc : EccOutcome) :
    Keeps b_ r_ (readOutcome p line port ecc).1 := by
  refine h_.trans ?_; clear h_; unfold readOutcome; try dsimp only
  repeat' first
    | with_reducible first | exact Keeps.refl _ _ | assumption | apply recordUe_keeps | apply recordCe_keeps | apply Keeps.ite | apply Keeps.ite1
    | fail_if_no_progress (with_reducible apply Keeps.mkUpd; (focus with_reducible rfl); iterate 6 (focus rfl))
    | split

theorem setDensity_keeps {b_ : Bool} {r_ p : Part} (h_ : Keeps b_ r_ p) (density : Nat) : Keeps b_ r_ (setDensity p density) := by
  refine h_.trans ?_; clear h_; unfold setDensity; try dsimp only
  repeat' first
    | with_reducible first | exact Keeps.refl _ _ | assumption | apply setReg_keeps

theorem failMemory_keeps {b_ : Bool} {r_ p : Part} (h_ : Keeps b_ r_ p) (cause : Nat) : Keeps b_ r_ (failMemory p cause) := by
  refine h_.trans ?_; clear h_; unfold failMemory; try dsimp only
  repeat' with_reducible first | exact Keeps.refl _ _ | assumption | apply setReg_keeps

theorem trainingDone_keeps {b_ : Bool} {r_ p : Part} (h_ : Keeps b_ r_ p) (speed : Nat) (r : TrainingResult) :
    Keeps b_ r_ (trainingDone p speed r) := by
  refine h_.trans ?_; clear h_; unfold trainingDone; try dsimp only
  repeat' first
    | with_reducible first
      | exact Keeps.refl _ _ | assumption | apply setReg_keeps | apply failMemory_keeps | apply setDensity_keeps | apply Keeps.ite

theorem takeWants_keeps {b_ : Bool} {r_ p : Part} (h_ : Keeps b_ r_ p) (a n : Nat) : Keeps b_ r_ (takeWants p a n) := by
  refine h_.trans ?_; clear h_; unfold takeWants; try dsimp only
  repeat' first
    | with_reducible first | exact Keeps.refl _ _ | assumption
    | fail_if_no_progress (with_reducible apply Keeps.mkUpd; (focus with_reducible rfl); iterate 6 (focus rfl))

theorem acceptLine_keeps {b_ : Bool} {r_ p : Part} (h_ : Keeps b_ r_ p) (port now deadline addr : Nat) (data : Option (List Byte)) (x : Nat × Nat × Nat) :
    Keeps b_ r_ (acceptLine p port now deadline addr data x) := by
  refine h_.trans ?_; clear h_; unfold acceptLine; try dsimp only
  repeat' first
    | (intro)
    | with_reducible first
      | exact Keeps.refl _ _ | assumption | apply takeWants_keeps | apply moveBytes_keeps | apply writeLine_keeps | apply addReg_keeps
      | apply setSub_keeps | apply Keeps.ite | apply Keeps.ite1
    | fail_if_no_progress (with_reducible apply Keeps.mkUpd; (focus with_reducible rfl); iterate 6 (focus rfl))
    | split

theorem acceptAccess_keeps {b_ : Bool} {r_ p : Part} (h_ : Keeps b_ r_ p) (port now : Nat) (deadline addr len : Nat) (data : Option
    (List Byte)) : Keeps b_ r_ (acceptAccess p port now deadline addr len data) := by
  refine h_.trans ?_; clear h_; unfold acceptAccess; try dsimp only
  repeat' first
    | (intro)
    | with_reducible first
      | exact Keeps.refl _ _ | assumption | apply say_keeps | apply recordUe_keeps | apply acceptLine_keeps | apply Keeps.ite | apply Keeps.ite1
      | apply Keeps.fold
    | fail_if_no_progress (with_reducible apply Keeps.mkUpd; (focus with_reducible rfl); iterate 6 (focus rfl))

theorem moveInput_keeps {b_ : Bool} {r_ : Part} (i : SubCh) (now k : Nat) {p : Part} (h_ : Keeps b_ r_ p) :
    Keeps b_ r_ (moveInput i now k p) := by
  induction k generalizing p with
  | zero => unfold moveInput; exact h_
  | succ k ih =>
    unfold moveInput
    dsimp only
    split
    · exact h_
    · with_reducible apply ih
      with_reducible apply moveBytes_keeps
      with_reducible apply setSub_keeps
      exact h_

theorem noteCmd_keeps {b_ : Bool} {r_ p : Part} (h_ : Keeps b_ r_ p) (i : SubCh) (bank kind at_ : Nat) (data : List Byte) :
    Keeps b_ r_ (noteCmd p i bank kind at_ data) := by
  refine h_.trans ?_; clear h_; unfold noteCmd; try dsimp only
  repeat' first
    | (intro)
    | with_reducible first | exact Keeps.refl _ _ | assumption
    | fail_if_no_progress (with_reducible apply Keeps.mkUpd; (focus with_reducible rfl); iterate 6 (focus rfl))

theorem showOwed_keeps {b_ : Bool} {r_ p : Part} (h_ : Keeps b_ r_ p) (i : SubCh) : Keeps b_ r_ (showOwed p i) := by
  refine h_.trans ?_; clear h_; unfold showOwed; try dsimp only
  repeat' with_reducible first | exact Keeps.refl _ _ | assumption | apply setReg_keeps

theorem issueRefresh_keeps {b_ : Bool} {r_ p : Part} (h_ : Keeps b_ r_ p) (i : SubCh) (key : Nat) : Keeps b_ r_ (issueRefresh p i key) := by
  refine h_.trans ?_; clear h_; unfold issueRefresh; try dsimp only
  repeat' first
    | (intro)
    | with_reducible first
      | exact Keeps.refl _ _ | assumption | apply noteCmd_keeps | apply setSub_keeps | apply showOwed_keeps | apply Keeps.ite

theorem takePause_keeps {b_ : Bool} {r_ p : Part} (h_ : Keeps b_ r_ p) (i : SubCh) (now : Nat) : Keeps b_ r_ (takePause p i now) := by
  refine h_.trans ?_; clear h_; unfold takePause; try dsimp only
  repeat' first
    | (intro)
    | with_reducible first | exact Keeps.refl _ _ | assumption | apply setSub_keeps | apply addReg_keeps | apply setReg_keeps | apply Keeps.ite

theorem dropWrite_keeps {b_ : Bool} {r_ p : Part} (h_ : Keeps b_ r_ p) (i : SubCh) (r : DReq) : Keeps b_ r_ (dropWrite p i r) := by
  unfold dropWrite
  dsimp only
  have h (m : List Host.Cell) (hm : kwf (fun _ => (0 : Byte)) p.mem.dram = true → kwf (fun _ => (0 : Byte)) m = true) :
      Keeps b_ r_ { p with mem := { p.mem with dram := m } } :=
    h_.trans ⟨id, hm, id, id, id, List.suffix_refl _, fun _ => rfl⟩
  split
  · with_reducible apply addReg_keeps
    exact h _ (dramPut_wf _)
  · exact h _ (dramPut_wf _)

theorem serve_keeps {b_ : Bool} {r_ p : Part} (h_ : Keeps b_ r_ p) (i : SubCh) (r : DReq) (now : Nat) (ecc : EccOutcome) :
    Keeps b_ r_ (serve p i r now ecc) := by
  refine h_.trans ?_; clear h_; unfold serve; try dsimp only
  repeat' first
    | with_reducible first
      | exact Keeps.refl _ _ | assumption | apply setReg_keeps | apply addReg_keeps | apply readOutcome_keeps | apply dropWrite_keeps
      | apply say_keeps | apply Keeps.ite

theorem issueFor_keeps {b_ : Bool} {r_ p : Part} (h_ : Keeps b_ r_ p) (i : SubCh) (bank : Nat) (r : DReq) (now : Nat) (ecc : EccOutcome)
    (sampled : Bool) : Keeps b_ r_ (issueFor p i bank r now ecc sampled) := by
  refine h_.trans ?_; clear h_; unfold issueFor; try dsimp only
  repeat' first
    | (intro)
    | with_reducible first
      | exact Keeps.refl _ _ | assumption | apply noteCmd_keeps | apply serve_keeps | apply setSub_keeps | apply addReg_keeps | apply Keeps.ite
      | apply Keeps.ite1
    | fail_if_no_progress (with_reducible apply Keeps.mkUpd; (focus with_reducible rfl); iterate 6 (focus rfl))
    | split

theorem commandSlot_keeps {b_ : Bool} {r_ p : Part} (h_ : Keeps b_ r_ p) (i : SubCh) (now : Nat) (ecc : EccOutcome) (sampled : Bool) :
    Keeps b_ r_ (commandSlot p i now ecc sampled) := by
  refine h_.trans ?_; clear h_; unfold commandSlot; try dsimp only
  repeat' first
    | (intro)
    | with_reducible first
      | exact Keeps.refl _ _ | assumption | apply raiseCredit_keeps | apply moveInput_keeps | apply setSub_keeps | apply issueRefresh_keeps
      | apply takePause_keeps | apply issueFor_keeps | apply Keeps.ite | apply Keeps.ite1
    | fail_if_no_progress (with_reducible apply Keeps.mkUpd; (focus with_reducible rfl); iterate 6 (focus rfl))
    | split

theorem idleClose_keeps {b_ : Bool} {r_ p : Part} (h_ : Keeps b_ r_ p) (i : SubCh) (bank now : Nat) : Keeps b_ r_ (idleClose p i bank now) := by
  refine h_.trans ?_; clear h_; unfold idleClose; try dsimp only
  repeat' first
    | (intro)
    | with_reducible first | exact Keeps.refl _ _ | assumption | apply noteCmd_keeps | apply setSub_keeps | apply Keeps.ite

theorem oweRefresh_keeps {b_ : Bool} {r_ p : Part} (h_ : Keeps b_ r_ p) (i : SubCh) (key : Nat) : Keeps b_ r_ (oweRefresh p i key) := by
  refine h_.trans ?_; clear h_; unfold oweRefresh; try dsimp only
  repeat' first
    | (intro)
    | with_reducible first | exact Keeps.refl _ _ | assumption | apply addReg_keeps | apply showOwed_keeps | apply setSub_keeps | apply Keeps.ite

theorem refreshDue_keeps {b_ : Bool} {r_ p : Part} (h_ : Keeps b_ r_ p) (i : SubCh) (rank : Nat) : Keeps b_ r_ (refreshDue p i rank) := by
  refine h_.trans ?_; clear h_; unfold refreshDue; try dsimp only
  repeat' first
    | (intro)
    | with_reducible first | exact Keeps.refl _ _ | assumption | apply oweRefresh_keeps | apply Keeps.ite | apply Keeps.fold

theorem tempRead_keeps {b_ : Bool} {r_ p : Part} (h_ : Keeps b_ r_ p) (i : SubCh) (rank : Nat) (hot : Bool) :
    Keeps b_ r_ (tempRead p i rank hot) := by
  refine h_.trans ?_; clear h_; unfold tempRead; try dsimp only
  repeat' first
    | (intro)
    | with_reducible first | exact Keeps.refl _ _ | assumption | apply setReg_keeps | apply setSub_keeps | apply orReg_keeps | apply Keeps.ite

theorem endQuiet_keeps {b_ : Bool} {r_ p : Part} (h_ : Keeps b_ r_ p) (state : Nat) : Keeps b_ r_ (endQuiet p state) := by
  refine h_.trans ?_; clear h_; unfold endQuiet; try dsimp only
  repeat' first
    | (intro)
    | with_reducible first | exact Keeps.refl _ _ | assumption | apply setReg_keeps | apply setSub_keeps | apply Keeps.fold
    | fail_if_no_progress (with_reducible apply Keeps.mkUpd; (focus with_reducible rfl); iterate 6 (focus rfl))

theorem oscRead_keeps {b_ : Bool} {r_ p : Part} (h_ : Keeps b_ r_ p) (i : SubCh) (drift : Nat) : Keeps b_ r_ (oscRead p i drift) := by
  refine h_.trans ?_; clear h_; unfold oscRead; try dsimp only
  repeat' first
    | with_reducible first
      | exact Keeps.refl _ _ | assumption | apply setReg_keeps | apply setSub_keeps | apply endQuiet_keeps | apply orReg_keeps
      | apply raiseNow_keeps | apply Keeps.ite

theorem pauseDue_keeps {b_ : Bool} {r_ p : Part} (h_ : Keeps b_ r_ p) (i : SubCh) (now : Nat) : Keeps b_ r_ (pauseDue p i now) := by
  refine h_.trans ?_; clear h_; unfold pauseDue; try dsimp only
  repeat' first
    | with_reducible first | exact Keeps.refl _ _ | assumption | apply takePause_keeps | apply setSub_keeps | apply Keeps.ite

theorem takeQuiet_keeps {b_ : Bool} {r_ p : Part} (h_ : Keeps b_ r_ p) (ms : Nat) : Keeps b_ r_ (takeQuiet p ms) := by
  refine h_.trans ?_; clear h_; unfold takeQuiet; try dsimp only
  repeat' first
    | with_reducible first | exact Keeps.refl _ _ | assumption | apply endQuiet_keeps | apply setReg_keeps | apply Keeps.ite
    | fail_if_no_progress (with_reducible apply Keeps.mkUpd; (focus with_reducible rfl); iterate 6 (focus rfl))

theorem quietEnd_keeps {b_ : Bool} {r_ p : Part} (h_ : Keeps b_ r_ p) : Keeps b_ r_ (quietEnd p) := by
  refine h_.trans ?_; clear h_; unfold quietEnd; try dsimp only
  repeat' first
    | with_reducible first | exact Keeps.refl _ _ | assumption | apply endQuiet_keeps | apply Keeps.ite
    | split

theorem enterSelfRefresh_keeps {b_ : Bool} {r_ p : Part} (h_ : Keeps b_ r_ p) (now : Nat) : Keeps b_ r_ (enterSelfRefresh p now) := by
  refine h_.trans ?_; clear h_; unfold enterSelfRefresh; try dsimp only
  repeat' first
    | (intro)
    | with_reducible first
      | exact Keeps.refl _ _ | assumption | apply showOwed_keeps | apply setSub_keeps | apply setReg_keeps | apply Keeps.ite | apply Keeps.fold
    | fail_if_no_progress (with_reducible apply Keeps.mkUpd; (focus with_reducible rfl); iterate 6 (focus rfl))

theorem exitSelfRefresh_keeps {b_ : Bool} {r_ p : Part} (h_ : Keeps b_ r_ p) (now : Nat) : Keeps b_ r_ (exitSelfRefresh p now) := by
  refine h_.trans ?_; clear h_; unfold exitSelfRefresh; try dsimp only
  repeat' first
    | (intro)
    | with_reducible first
      | exact Keeps.refl _ _ | assumption | apply setReg_keeps | apply showOwed_keeps | apply setSub_keeps | apply takePause_keeps | apply Keeps.ite
      | apply Keeps.fold
    | fail_if_no_progress (with_reducible apply Keeps.mkUpd; (focus with_reducible rfl); iterate 6 (focus rfl))

theorem replay_keeps {b_ : Bool} {r_ p : Part} (h_ : Keeps b_ r_ p) (l : List DCmd) : Keeps b_ r_ (replay p l) := by
  unfold replay
  induction l with
  | nil => exact h_
  | cons c r ih =>
    rw [List.foldr_cons]
    dsimp only
    repeat' first
      | with_reducible assumption
      | with_reducible apply setSub_keeps
      | with_reducible apply Keeps.ite

theorem alert_keeps {b_ : Bool} {r_ p : Part} (h_ : Keeps b_ r_ p) (c cyc : Nat) : Keeps b_ r_ (alert p c cyc) := by
  refine h_.trans ?_; clear h_; unfold alert; try dsimp only
  repeat' first
    | (intro)
    | with_reducible first
      | exact Keeps.refl _ _ | assumption | apply atCyc_keeps | apply autoHandover_keeps | apply raiseNow_keeps | apply failMemory_keeps
      | apply orReg_keeps | apply addReg_keeps | apply setSub_keeps | apply replay_keeps | apply Keeps.ite
    | fail_if_no_progress (with_reducible apply Keeps.mkUpd; (focus with_reducible rfl); iterate 6 (focus rfl))

theorem scrubLine_keeps {b_ : Bool} {r_ p : Part} (h_ : Keeps b_ r_ p) (addr : Nat) (ecc : EccOutcome) : Keeps b_ r_ (scrubLine p addr ecc) := by
  refine h_.trans ?_; clear h_; unfold scrubLine; try dsimp only
  repeat' first
    | with_reducible first
      | exact Keeps.refl _ _ | assumption | apply raiseCredit_keeps | apply readOutcome_keeps | apply moveBytes_keeps | apply addReg_keeps
      | apply Keeps.ite | apply Keeps.ite1
    | fail_if_no_progress (with_reducible apply Keeps.mkUpd; (focus with_reducible rfl); iterate 6 (focus rfl))

theorem passFilled_keeps {b_ : Bool} {r_ : Part} (k g : Nat) {p : Part} (h_ : Keeps b_ r_ p) : Keeps b_ r_ (passFilled p k g) := by
  induction k generalizing p g with
  | zero => unfold passFilled; exact setReg_keeps h_ _ _
  | succ k ih =>
    unfold passFilled
    split
    · with_reducible apply ih
      exact h_.trans ⟨id, id, id, id, id, List.suffix_refl _, fun _ => rfl⟩
    · exact setReg_keeps h_ _ _

theorem fillStep_keeps {b_ : Bool} {r_ p : Part} (h_ : Keeps b_ r_ p) : Keeps b_ r_ (fillStep p) := by
  refine h_.trans ?_; clear h_; unfold fillStep; try dsimp only
  repeat' first
    | (intro)
    | with_reducible first
      | exact Keeps.refl _ _ | assumption | apply raiseCredit_keeps | apply moveBytes_keeps | apply passFilled_keeps | apply Keeps.ite
    | fail_if_no_progress (with_reducible apply Keeps.mkUpd; (focus with_reducible rfl); iterate 6 (focus rfl))
    | split

theorem fillDone_keeps {b_ : Bool} {r_ p : Part} (h_ : Keeps b_ r_ p) : Keeps b_ r_ (fillDone p) := by
  refine h_.trans ?_; clear h_; unfold fillDone; try dsimp only
  repeat' first
    | with_reducible first | exact Keeps.refl _ _ | assumption | apply setReg_keeps | apply publishTotals_keeps | apply Keeps.ite
    | fail_if_no_progress (with_reducible apply Keeps.mkUpd; (focus with_reducible rfl); iterate 6 (focus rfl))

theorem drawKeys_keeps {b_ : Bool} {r_ p : Part} (h_ : Keeps b_ r_ p) : Keeps b_ r_ (drawKeys p) := by
  unfold drawKeys
  with_reducible apply addReg_keeps
  with_reducible apply setReg_keeps
  with_reducible apply setReg_keeps
  exact h_.trans ⟨id, fun _ => rfl, id, id, id, List.suffix_refl _, fun _ => rfl⟩

theorem serveWants_keeps {b_ : Bool} {r_ p : Part} (h_ : Keeps b_ r_ p) (m : Nat) : Keeps b_ r_ (serveWants p m) := by
  refine h_.trans ?_; clear h_; unfold serveWants; try dsimp only
  repeat' first
    | (intro)
    | with_reducible first | exact Keeps.refl _ _ | assumption | apply addReg_keeps | apply Keeps.ite
    | fail_if_no_progress (with_reducible apply Keeps.mkUpd; (focus with_reducible rfl); iterate 6 (focus rfl))

theorem shortPlay_keeps {b_ : Bool} {r_ p : Part} (h_ : Keeps b_ r_ p) (c : Chan) (m start : Nat) : Keeps b_ r_ (shortPlay p c m start) := by
  refine h_.trans ?_; clear h_; unfold shortPlay; try dsimp only
  repeat' first
    | with_reducible first | exact Keeps.refl _ _ | assumption | apply putPlan_keeps | apply setSeq_keeps | apply Keeps.ite
    | fail_if_no_progress (with_reducible apply Keeps.mkUpd; (focus with_reducible rfl); iterate 6 (focus rfl))
    | split

theorem countLate_keeps {b_ : Bool} {r_ p : Part} (h_ : Keeps b_ r_ p) (c : Chan) (m : Nat) (s : Span) (x : Refilled) :
    Keeps b_ r_ (countLate p c m s x) := by
  refine h_.trans ?_; clear h_; unfold countLate; try dsimp only
  repeat' first
    | with_reducible first
      | exact Keeps.refl _ _ | assumption | apply shortPlay_keeps | apply addPulse_keeps | apply addReg_keeps | apply orReg_keeps | apply Keeps.ite
    | split

theorem lateRefill_keeps {b_ : Bool} {r_ p : Part} (h_ : Keeps b_ r_ p) (c : Chan) (m : Nat) (late : List Nat) :
    Keeps b_ r_ (lateRefill p c m late) := by
  refine h_.trans ?_; clear h_; unfold lateRefill; try dsimp only
  repeat' first
    | (intro)
    | with_reducible first
      | exact Keeps.refl _ _ | assumption | apply setDp_keeps | apply putPlan_keeps | apply countLate_keeps | apply Keeps.ite | apply Keeps.ite1
      | apply Keeps.fold

theorem resetPart_keeps {r_ p : Part} (h_ : Keeps false r_ p) (cause : Nat) : Keeps false r_ (resetPart p cause) := by
  have fold (l : List (Nat × Nat)) {m : KMap Nat} (h : kwf regDefault m = true) :
      kwf regDefault (l.foldl (fun m e => kset regDefault m e.1 e.2) m) = true := by
    induction l generalizing m with
    | nil => exact h
    | cons a r ih => exact ih (kwf_kset _ _ _ _ h)
  unfold resetPart
  dsimp only
  with_reducible apply drawKeys_keeps
  exact h_.trans ⟨fun h => kwf_kset _ _ _ _ (kwf_kset _ _ _ _ (kwf_kkeep _ _ _ (fold _ h))), fun _ => rfl, fun _ => Nat.zero_le _,
    fun _ => Nat.zero_le _, fun _ => Nat.zero_le _, List.suffix_append _ _, fun e => nomatch e⟩

theorem closePresence_keeps {b_ : Bool} {r_ p : Part} (h_ : Keeps b_ r_ p) : Keeps b_ r_ (closePresence p) := by
  refine h_.trans ?_; clear h_; unfold closePresence; try dsimp only
  repeat' first
    | with_reducible first | exact Keeps.refl _ _ | assumption | apply setReg_keeps
    | fail_if_no_progress (with_reducible apply Keeps.mkUpd; (focus with_reducible rfl); iterate 6 (focus rfl))

theorem openPresence_keeps {b_ : Bool} {r_ p : Part} (h_ : Keeps b_ r_ p) (held released : Nat) : Keeps b_ r_ (openPresence p held released) := by
  refine h_.trans ?_; clear h_; unfold openPresence; try dsimp only
  repeat' first
    | with_reducible first | exact Keeps.refl _ _ | assumption | apply setReg_keeps | apply Keeps.ite
    | fail_if_no_progress (with_reducible apply Keeps.mkUpd; (focus with_reducible rfl); iterate 6 (focus rfl))

theorem breakSeal_keeps {b_ : Bool} {r_ p : Part} (h_ : Keeps b_ r_ p) (cyc : Nat) : Keeps b_ r_ (breakSeal p cyc) := by
  refine h_.trans ?_; clear h_; unfold breakSeal; try dsimp only
  repeat' first
    | with_reducible first
      | exact Keeps.refl _ _ | assumption | apply setReg_keeps | apply addReg_keeps | apply raiseNow_keeps | apply closePresence_keeps
      | apply atCyc_keeps | apply Keeps.ite
    | fail_if_no_progress (with_reducible apply Keeps.mkUpd; (focus with_reducible rfl); iterate 6 (focus rfl))

theorem fwBegin_keeps {b_ : Bool} {r_ p : Part} (h_ : Keeps b_ r_ p) (s : FwSlot) : Keeps b_ r_ (fwBegin p s).1 := by
  refine h_.trans ?_; clear h_; unfold fwBegin; try dsimp only
  repeat' first
    | with_reducible first | exact Keeps.refl _ _ | assumption | apply setReg_keeps | apply Keeps.ite | apply Keeps.ite1
    | fail_if_no_progress (with_reducible apply Keeps.mkUpd; (focus with_reducible rfl); iterate 6 (focus rfl))

theorem fwFinish_keeps {r_ p : Part} (h_ : Keeps false r_ p) : Keeps false r_ (fwFinish p) := by
  refine h_.trans ?_; clear h_; unfold fwFinish; try dsimp only
  repeat' first
    | with_reducible first | exact Keeps.refl _ _ | assumption | apply resetPart_keeps | apply setReg_keeps | apply Keeps.ite
    | fail_if_no_progress (with_reducible apply Keeps.mkUpd; (focus with_reducible rfl); iterate 6 (focus rfl))
    | split

theorem fwSelect_keeps {b_ : Bool} {r_ p : Part} (h_ : Keeps b_ r_ p) (v : Nat) : Keeps b_ r_ (fwSelect p v).1 := by
  refine h_.trans ?_; clear h_; unfold fwSelect; try dsimp only
  repeat' first
    | with_reducible first | exact Keeps.refl _ _ | assumption | apply setReg_keeps | apply Keeps.ite | apply Keeps.ite1

theorem applyNv_keeps {b_ : Bool} {r_ p : Part} (h_ : Keeps b_ r_ p) : Keeps b_ r_ (applyNv p) := by
  refine h_.trans ?_; clear h_; unfold applyNv; try dsimp only
  repeat' first
    | (intro)
    | with_reducible first | exact Keeps.refl _ _ | assumption | apply setReg_keeps | apply Keeps.ite | apply Keeps.ite1 | apply Keeps.fold
    | fail_if_no_progress (with_reducible apply Keeps.mkUpd; (focus with_reducible rfl); iterate 6 (focus rfl))
    | split

theorem nvBegin_keeps {b_ : Bool} {r_ p : Part} (h_ : Keeps b_ r_ p) : Keeps b_ r_ (nvBegin p).1 := by
  refine h_.trans ?_; clear h_; unfold nvBegin; try dsimp only
  repeat' first
    | with_reducible first | exact Keeps.refl _ _ | assumption | apply setReg_keeps | apply Keeps.ite | apply Keeps.ite1
    | fail_if_no_progress (with_reducible apply Keeps.mkUpd; (focus with_reducible rfl); iterate 6 (focus rfl))

theorem judgeRecord_keeps {b_ : Bool} {r_ p : Part} (h_ : Keeps b_ r_ p) : Keeps b_ r_ (judgeRecord p) := by
  refine h_.trans ?_; clear h_; unfold judgeRecord; try dsimp only
  repeat' first
    | with_reducible first | exact Keeps.refl _ _ | assumption | apply setReg_keeps | apply Keeps.ite

theorem trainAll_keeps {b_ : Bool} {r_ p : Part} (h_ : Keeps b_ r_ p) (b : BootInfo) : Keeps b_ r_ (trainAll p b) := by
  refine h_.trans ?_; clear h_; unfold trainAll; try dsimp only
  repeat' first
    | (intro)
    | with_reducible first | exact Keeps.refl _ _ | assumption | apply trainingDone_keeps | apply Keeps.ite | apply Keeps.ite1 | apply Keeps.fold

theorem fullTest_keeps {b_ : Bool} {r_ p : Part} (h_ : Keeps b_ r_ p) (b : BootInfo) : Keeps b_ r_ (fullTest p b) := by
  refine h_.trans ?_; clear h_; unfold fullTest; try dsimp only
  repeat' first
    | with_reducible first | exact Keeps.refl _ _ | assumption | apply trainAll_keeps | apply setReg_keeps | apply drawKeys_keeps | apply Keeps.ite
    | fail_if_no_progress (with_reducible apply Keeps.mkUpd; (focus with_reducible rfl); iterate 6 (focus rfl))

theorem lcWipe_keeps {b_ : Bool} {r_ p : Part} (h_ : Keeps b_ r_ p) : Keeps b_ r_ (lcWipe p) := by
  unfold lcWipe
  dsimp only
  with_reducible apply setReg_keeps
  with_reducible apply drawKeys_keeps
  have h : Keeps b_ r_ ((List.range 64).foldl (fun q i => enableQueue q i 0) (releaseResv ((List.range 16).foldl disarm p) fun _ => true)) := by
    repeat' first
      | (intro)
      | with_reducible assumption
      | with_reducible apply Keeps.fold
      | with_reducible apply enableQueue_keeps
      | with_reducible apply releaseResv_keeps
      | with_reducible apply disarm_keeps
  revert h
  generalize (List.range 64).foldl (fun q i => enableQueue q i 0) (releaseResv ((List.range 16).foldl disarm p) fun _ => true) = w
  intro h
  exact h.trans ⟨id, id, id, id, fun _ => Nat.zero_le _, List.suffix_refl _, fun _ => rfl⟩

theorem startUp_keeps {r_ p : Part} (h_ : Keeps false r_ p) (b : BootInfo) : Keeps false r_ (startUp p b) := by
  refine h_.trans ?_; clear h_; unfold startUp; try dsimp only
  repeat' first
    | (intro)
    | with_reducible first
      | exact Keeps.refl _ _ | assumption | apply setReg_keeps | apply lcWipe_keeps | apply applyNv_keeps | apply judgeRecord_keeps
      | apply trainAll_keeps | apply fullTest_keeps | apply alignGraticule_keeps | apply breakSeal_keeps | apply outTick_keeps
      | apply settleMarkers_keeps | apply say_keeps | apply Keeps.ite | apply Keeps.fold
    | fail_if_no_progress (with_reducible apply Keeps.mkUpd; (focus with_reducible rfl); iterate 6 (focus rfl))
    | split

theorem beginTest_keeps {b_ : Bool} {r_ p : Part} (h_ : Keeps b_ r_ p) (kind : Nat) : Keeps b_ r_ (beginTest p kind) := by
  refine h_.trans ?_; clear h_; unfold beginTest; try dsimp only
  repeat' first
    | with_reducible first | exact Keeps.refl _ _ | assumption | apply settleMarkers_keeps | apply setReg_keeps
    | fail_if_no_progress (with_reducible apply Keeps.mkUpd; (focus with_reducible rfl); iterate 6 (focus rfl))

theorem stopNow_keeps {b_ : Bool} {r_ p : Part} (h_ : Keeps b_ r_ p) (g : Grp) : Keeps b_ r_ (stopNow p g) := by
  refine h_.trans ?_; clear h_; unfold stopNow; try dsimp only
  repeat' first
    | with_reducible first | exact Keeps.refl _ _ | assumption | apply setReg_keeps | apply setGrp_keeps | apply Keeps.ite

theorem tryShutdown_keeps {b_ : Bool} {r_ p : Part} (h_ : Keeps b_ r_ p) : Keeps b_ r_ (tryShutdown p) := by
  refine h_.trans ?_; clear h_; unfold tryShutdown; try dsimp only
  repeat' first
    | (intro)
    | with_reducible first
      | exact Keeps.refl _ _ | assumption | apply leavePair_keeps | apply say_keeps | apply beginTest_keeps | apply stopNow_keeps | apply Keeps.ite
      | apply Keeps.fold

theorem assertShdn_keeps {b_ : Bool} {r_ p : Part} (h_ : Keeps b_ r_ p) : Keeps b_ r_ (assertShdn p) := by
  refine h_.trans ?_; clear h_; unfold assertShdn; try dsimp only
  repeat' first
    | with_reducible first | exact Keeps.refl _ _ | assumption | apply tryShutdown_keeps | apply Keeps.ite
    | fail_if_no_progress (with_reducible apply Keeps.mkUpd; (focus with_reducible rfl); iterate 6 (focus rfl))

theorem releaseShdn_keeps {r_ p : Part} (h_ : Keeps false r_ p) : Keeps false r_ (releaseShdn p) := by
  refine h_.trans ?_; clear h_; unfold releaseShdn; try dsimp only
  repeat' first
    | with_reducible first | exact Keeps.refl _ _ | assumption | apply resetPart_keeps | apply Keeps.ite
    | fail_if_no_progress (with_reducible apply Keeps.mkUpd; (focus with_reducible rfl); iterate 6 (focus rfl))

theorem runTest_keeps {b_ : Bool} {r_ p : Part} (h_ : Keeps b_ r_ p) : Keeps b_ r_ (runTest p).1 := by
  refine h_.trans ?_; clear h_; unfold runTest; try dsimp only
  repeat' first
    | with_reducible first | exact Keeps.refl _ _ | assumption | apply beginTest_keeps | apply Keeps.ite | apply Keeps.ite1

theorem abortTest_keeps {b_ : Bool} {r_ p : Part} (h_ : Keeps b_ r_ p) : Keeps b_ r_ (abortTest p).1 := by
  refine h_.trans ?_; clear h_; unfold abortTest; try dsimp only
  repeat' first
    | with_reducible first | exact Keeps.refl _ _ | assumption | apply setReg_keeps | apply Keeps.ite | apply Keeps.ite1

theorem quiesce_keeps {b_ : Bool} {r_ p : Part} (h_ : Keeps b_ r_ p) : Keeps b_ r_ (quiesce p) := by
  refine h_.trans ?_; clear h_; unfold quiesce; try dsimp only
  repeat' first
    | (intro)
    | with_reducible first
      | exact Keeps.refl _ _ | assumption | apply abortLoad_keeps | apply openSwitches_keeps | apply say_keeps | apply Keeps.ite | apply Keeps.ite1
    | fail_if_no_progress (with_reducible apply Keeps.mkUpd; (focus with_reducible rfl); iterate 6 (focus rfl))

theorem phaseDone_keeps {b_ : Bool} {r_ p : Part} (h_ : Keeps b_ r_ p) (r : PhaseResult) : Keeps b_ r_ (phaseDone p r) := by
  refine h_.trans ?_; clear h_; unfold phaseDone; try dsimp only
  repeat' first
    | (intro)
    | with_reducible first
      | exact Keeps.refl _ _ | assumption | apply setReg_keeps | apply quiesce_keeps | apply orReg_keeps | apply judgeRecord_keeps | apply Keeps.ite
    | fail_if_no_progress (with_reducible apply Keeps.mkUpd; (focus with_reducible rfl); iterate 6 (focus rfl))

theorem endTest_keeps {r_ p : Part} (h_ : Keeps false r_ p) (cyc : Nat) : Keeps false r_ (endTest p cyc) := by
  refine h_.trans ?_; clear h_; unfold endTest; try dsimp only
  repeat' first
    | with_reducible first | exact Keeps.refl _ _ | assumption | apply raiseNow_keeps | apply atCyc_keeps | apply resetPart_keeps | apply Keeps.ite
    | fail_if_no_progress (with_reducible apply Keeps.mkUpd; (focus with_reducible rfl); iterate 6 (focus rfl))

theorem ageTest_keeps {b_ : Bool} {r_ p : Part} (h_ : Keeps b_ r_ p) : Keeps b_ r_ (ageTest p) := by
  refine h_.trans ?_; clear h_; unfold ageTest; try dsimp only
  repeat' first
    | with_reducible first | exact Keeps.refl _ _ | assumption | apply Keeps.ite
    | fail_if_no_progress (with_reducible apply Keeps.mkUpd; (focus with_reducible rfl); iterate 6 (focus rfl))

theorem lcBegin_keeps {b_ : Bool} {r_ p : Part} (h_ : Keeps b_ r_ p) : Keeps b_ r_ (lcBegin p).1 := by
  refine h_.trans ?_; clear h_; unfold lcBegin; try dsimp only
  repeat' first
    | with_reducible first | exact Keeps.refl _ _ | assumption | apply lcWipe_keeps | apply Keeps.ite | apply Keeps.ite1
    | fail_if_no_progress (with_reducible apply Keeps.mkUpd; (focus with_reducible rfl); iterate 6 (focus rfl))

theorem rotateKeys_keeps {b_ : Bool} {r_ p : Part} (h_ : Keeps b_ r_ p) (target : Nat) : Keeps b_ r_ (rotateKeys p target) := by
  refine h_.trans ?_; clear h_; unfold rotateKeys; try dsimp only
  repeat' first
    | with_reducible first | exact Keeps.refl _ _ | assumption | apply Keeps.ite
    | fail_if_no_progress (with_reducible apply Keeps.mkUpd; (focus with_reducible rfl); iterate 6 (focus rfl))

theorem lcFinish_keeps {r_ p : Part} (h_ : Keeps false r_ p) : Keeps false r_ (lcFinish p) := by
  unfold lcFinish
  split
  · exact h_
  · rename_i t ht
    dsimp only
    split
    · exact h_
    · have h1 : Keeps false r_ ((List.range 256).foldl (fun q c => setReg q (G.wpTable c) 0) p) := by
        refine Keeps.fold (fun q hq c => ?_) h_
        exact setReg_keeps hq _ _
      generalize (List.range 256).foldl (fun q c => setReg q (G.wpTable c) 0) p = w at *
      have h2 : Keeps false r_ { w with mem := ⟨[], [], [], [], p.mem.dram, p.mem.bad, [], [], false, none⟩, paced := [],
                                        gz := { w.gz with regs := kkeep (fun k => decide (k / 256 ≠ 0x1010)) w.gz.regs, work := [] } } :=
        ⟨fun h => kwf_kkeep regDefault (fun k => decide (k / 256 ≠ 0x1010)) w.gz.regs (h1.regs h), h_.dram, h1.jobs, h1.fires, h1.subs, h1.sent,
          fun e => nomatch e⟩
      repeat' first
        | with_reducible assumption
        | with_reducible exact h2
        | with_reducible first
          | apply Keeps.ite | apply tryShutdown_keeps | apply resetPart_keeps | apply setReg_keeps | apply addReg_keeps | apply rotateKeys_keeps
        | fail_if_no_progress (with_reducible apply Keeps.mkUpd; (focus with_reducible rfl); iterate 6 (focus rfl))

theorem nvFinish_keeps {b_ : Bool} {r_ p : Part} (h_ : Keeps b_ r_ p) : Keeps b_ r_ (nvFinish p) := by
  refine h_.trans ?_; clear h_; unfold nvFinish; try dsimp only
  repeat' first
    | with_reducible first
      | exact Keeps.refl _ _ | assumption | apply setReg_keeps | apply tryShutdown_keeps | apply addReg_keeps | apply Keeps.ite | apply Keeps.ite1
    | fail_if_no_progress (with_reducible apply Keeps.mkUpd; (focus with_reducible rfl); iterate 6 (focus rfl))
    | split

theorem attBegin_keeps {b_ : Bool} {r_ p : Part} (h_ : Keeps b_ r_ p) (n : Nat) : Keeps b_ r_ (attBegin p n).1 := by
  refine h_.trans ?_; clear h_; unfold attBegin; try dsimp only
  repeat' first
    | with_reducible first | exact Keeps.refl _ _ | assumption | apply setReg_keeps | apply Keeps.ite | apply Keeps.ite1
    | fail_if_no_progress (with_reducible apply Keeps.mkUpd; (focus with_reducible rfl); iterate 6 (focus rfl))

theorem attFinish_keeps {b_ : Bool} {r_ p : Part} (h_ : Keeps b_ r_ p) : Keeps b_ r_ (attFinish p) := by
  refine h_.trans ?_; clear h_; unfold attFinish; try dsimp only
  repeat' first
    | with_reducible first | exact Keeps.refl _ _ | assumption | apply setReg_keeps | apply Keeps.ite
    | fail_if_no_progress (with_reducible apply Keeps.mkUpd; (focus with_reducible rfl); iterate 6 (focus rfl))

theorem powerOn_keeps {r_ p : Part} (h_ : Keeps false r_ p) (ms : Nat) (rails : Bool) : Keeps false r_ (powerOn p ms rails) := by
  refine h_.trans ?_; clear h_; unfold powerOn; try dsimp only
  repeat' first
    | with_reducible first | exact Keeps.refl _ _ | assumption | apply resetPart_keeps | apply Keeps.ite
    | fail_if_no_progress (with_reducible apply Keeps.mkUpd; (focus with_reducible rfl); iterate 6 (focus rfl))

theorem powerLoss_keeps {r_ p : Part} (h_ : Keeps false r_ p) : Keeps false r_ (powerLoss p) := by
  refine h_.trans ?_; clear h_; unfold powerLoss; try dsimp only
  repeat' first
    | with_reducible first | exact Keeps.refl _ _ | assumption | apply resetPart_keeps | apply Keeps.ite
    | fail_if_no_progress (with_reducible apply Keeps.mkUpd; (focus with_reducible rfl); iterate 6 (focus rfl))

theorem resetPin_keeps {r_ p : Part} (h_ : Keeps false r_ p) (asserted : Bool) : Keeps false r_ (resetPin p asserted) := by
  refine h_.trans ?_; clear h_; unfold resetPin; try dsimp only
  repeat' first
    | with_reducible first | exact Keeps.refl _ _ | assumption | apply resetPart_keeps | apply Keeps.ite
    | fail_if_no_progress (with_reducible apply Keeps.mkUpd; (focus with_reducible rfl); iterate 6 (focus rfl))

theorem supplyReset_keeps {r_ p : Part} (h_ : Keeps false r_ p) (ns : Nat) : Keeps false r_ (supplyReset p ns) := by
  refine h_.trans ?_; clear h_; unfold supplyReset; try dsimp only
  repeat' first
    | with_reducible first | exact Keeps.refl _ _ | assumption | apply resetPart_keeps | apply Keeps.ite

theorem commandReset_keeps {r_ p : Part} (h_ : Keeps false r_ p) : Keeps false r_ (commandReset p).1 := by
  refine h_.trans ?_; clear h_; unfold commandReset; try dsimp only
  repeat' first
    | with_reducible first | exact Keeps.refl _ _ | assumption | apply resetPart_keeps | apply Keeps.ite | apply Keeps.ite1

end Sys2Proof.Machine
end

