-- ==== Sys2Proof/Laws/KeepsAccess.lean ====
section
/-!
SUPPORT. The operations of the back end, Pearo Link and the tick have the relation of Laws/Keeps.
-/

namespace Sys2Proof.Machine

theorem onTrue_keeps {b_ : Bool} {r_ p : Part} (h_ : Keeps b_ r_ p) (v : Nat) (f : Part → Part × Nat)
    (hf : ∀ q, Keeps b_ r_ q → Keeps b_ r_ (f q).1) : Keeps b_ r_ (onTrue p v f).1 := by
  unfold onTrue
  split
  · exact hf p h_
  · exact h_

theorem ok_keeps {b_ : Bool} {r_ p : Part} (h_ : Keeps b_ r_ p) : Keeps b_ r_ (ok p).1 := by
  refine h_.trans ?_; clear h_; unfold ok; try dsimp only
  repeat' with_reducible first | exact Keeps.refl _ _

theorem toBoundary_keeps {b_ : Bool} {r_ p : Part} (h_ : Keeps b_ r_ p) (k v : Nat) : Keeps b_ r_ (toBoundary p k v) := by
  refine h_.trans ?_; clear h_; unfold toBoundary; try dsimp only
  repeat' first
    | with_reducible first | exact Keeps.refl _ _ | assumption
    | fail_if_no_progress (with_reducible apply Keeps.mkUpd; (focus with_reducible rfl); iterate 6 (focus rfl))

theorem clearLater_keeps {b_ : Bool} {r_ p : Part} (h_ : Keeps b_ r_ p) (k m : Nat) : Keeps b_ r_ (clearLater p k m) := by
  refine h_.trans ?_; clear h_; unfold clearLater; try dsimp only
  repeat' with_reducible first | exact Keeps.refl _ _ | assumption | apply toBoundary_keeps

theorem toPending_keeps {b_ : Bool} {r_ p : Part} (h_ : Keeps b_ r_ p) (k v : Nat) : Keeps b_ r_ (toPending p k v) := by
  refine h_.trans ?_; clear h_; unfold toPending; try dsimp only
  repeat' first
    | with_reducible first | exact Keeps.refl _ _ | assumption
    | fail_if_no_progress (with_reducible apply Keeps.mkUpd; (focus with_reducible rfl); iterate 6 (focus rfl))

theorem commandStrobe_keeps {b_ : Bool} {r_ p : Part} (h_ : Keeps b_ r_ p) (g : Grp) : Keeps b_ r_ (commandStrobe p g).1 := by
  refine h_.trans ?_; clear h_; unfold commandStrobe; try dsimp only
  repeat' with_reducible first | exact Keeps.refl _ _ | assumption | apply setReg_keeps

theorem groupCommand_keeps {b_ : Bool} {r_ p : Part} (h_ : Keeps b_ r_ p) (path : Path) (g : Grp) (v : Nat) :
    Keeps b_ r_ (groupCommand p path g v).1 := by
  refine h_.trans ?_; clear h_; unfold groupCommand; try dsimp only
  repeat' first
    | with_reducible first
      | exact Keeps.refl _ _ | assumption | apply commandArm_keeps | apply commandStart_keeps | apply commandStop_keeps | apply commandRestart_keeps
      | apply commandStrobe_keeps | apply commandDisarm_keeps | apply Keeps.ite1
    | split

theorem pairCommand_keeps {b_ : Bool} {r_ p : Part} (h_ : Keeps b_ r_ p) (v : Nat) : Keeps b_ r_ (pairCommand p v).1 := by
  refine h_.trans ?_; clear h_; unfold pairCommand; try dsimp only
  repeat' first
    | with_reducible first
      | exact Keeps.refl _ _ | assumption | apply wantJoin_keeps | apply leaveCommand_keeps | apply planHandover_keeps | apply forceDrive_keeps
      | apply Keeps.ite1
    | split

theorem testCommand_keeps {b_ : Bool} {r_ p : Part} (h_ : Keeps b_ r_ p) (v : Nat) : Keeps b_ r_ (testCommand p v).1 := by
  refine h_.trans ?_; clear h_; unfold testCommand; try dsimp only
  repeat' first
    | with_reducible first | exact Keeps.refl _ _ | assumption | apply runTest_keeps | apply abortTest_keeps | apply Keeps.ite1
    | split

theorem freezeRequest_keeps {b_ : Bool} {r_ p : Part} (h_ : Keeps b_ r_ p) (c : Chan) (ms : Nat) : Keeps b_ r_ (freezeRequest p c ms).1 := by
  refine h_.trans ?_; clear h_; unfold freezeRequest; try dsimp only
  repeat' first
    | with_reducible first | exact Keeps.refl _ _ | assumption | apply toBoundary_keeps | apply Keeps.ite | apply Keeps.ite1

theorem quietRequest_keeps {b_ : Bool} {r_ p : Part} (h_ : Keeps b_ r_ p) (ms : Nat) : Keeps b_ r_ (quietRequest p ms).1 := by
  refine h_.trans ?_; clear h_; unfold quietRequest; try dsimp only
  repeat' first
    | with_reducible first | exact Keeps.refl _ _ | assumption | apply toBoundary_keeps | apply Keeps.ite | apply Keeps.ite1

theorem setDatum_keeps {b_ : Bool} {r_ p : Part} (h_ : Keeps b_ r_ p) (v : Nat) : Keeps b_ r_ (setDatum p v).1 := by
  refine h_.trans ?_; clear h_; unfold setDatum; try dsimp only
  repeat' first
    | with_reducible first | exact Keeps.refl _ _ | assumption | apply stepDatum_keeps | apply Keeps.ite | apply Keeps.ite1

theorem setEpoch_keeps {b_ : Bool} {r_ p : Part} (h_ : Keeps b_ r_ p) (v : Nat) : Keeps b_ r_ (setEpoch p v).1 := by
  refine h_.trans ?_; clear h_; unfold setEpoch; try dsimp only
  repeat' with_reducible first | exact Keeps.refl _ _ | assumption | apply setReg_keeps | apply beginAlign_keeps

theorem writeStep_keeps {b_ : Bool} {r_ p : Part} (h_ : Keeps b_ r_ p) (n w : Nat) : Keeps b_ r_ (writeStep p n w).1 := by
  refine h_.trans ?_; clear h_; unfold writeStep; try dsimp only
  repeat' first
    | (intro)
    | with_reducible first | exact Keeps.refl _ _ | assumption | apply Keeps.ite | apply Keeps.ite1
    | fail_if_no_progress (with_reducible apply Keeps.mkUpd; (focus with_reducible rfl); iterate 6 (focus rfl))

theorem commitDesc_keeps {b_ : Bool} {r_ p : Part} (h_ : Keeps b_ r_ p) (d w : Nat) : Keeps b_ r_ (commitDesc p d w).1 := by
  refine h_.trans ?_; clear h_; unfold commitDesc; try dsimp only
  repeat' first
    | with_reducible first | exact Keeps.refl _ _ | assumption | apply writeDesc_keeps | apply Keeps.ite | apply Keeps.ite1

theorem commitEdges_keeps {b_ : Bool} {r_ p : Part} (h_ : Keeps b_ r_ p) (data : List Byte) : Keeps b_ r_ (commitEdges p data).1 := by
  refine h_.trans ?_; clear h_; unfold commitEdges; try dsimp only
  repeat' first
    | (intro)
    | with_reducible first | exact Keeps.refl _ _ | assumption | apply writeEdges_keeps | apply Keeps.ite | apply Keeps.ite1

theorem clearEvents_keeps {b_ : Bool} {r_ p : Part} (h_ : Keeps b_ r_ p) (c m : Nat) : Keeps b_ r_ (clearEvents p c m) := by
  refine h_.trans ?_; clear h_; unfold clearEvents; try dsimp only
  repeat' with_reducible first | exact Keeps.refl _ _ | assumption | apply dropLatches_keeps

theorem openBlock_keeps {b_ : Bool} {r_ p : Part} (h_ : Keeps b_ r_ p) (v : Nat) : Keeps b_ r_ (openBlock p v).1 := by
  refine h_.trans ?_; clear h_; unfold openBlock; try dsimp only
  repeat' first
    | with_reducible first | exact Keeps.refl _ _ | assumption | apply setReg_keeps | apply Keeps.ite | apply Keeps.ite1
    | fail_if_no_progress (with_reducible apply Keeps.mkUpd; (focus with_reducible rfl); iterate 6 (focus rfl))
    | split

theorem writeBlockData_keeps {b_ : Bool} {r_ p : Part} (h_ : Keeps b_ r_ p) (v : Nat) : Keeps b_ r_ (writeBlockData p v).1 := by
  refine h_.trans ?_; clear h_; unfold writeBlockData; try dsimp only
  repeat' first
    | with_reducible first | exact Keeps.refl _ _ | assumption | apply setReg_keeps | apply Keeps.ite | apply Keeps.ite1
    | fail_if_no_progress (with_reducible apply Keeps.mkUpd; (focus with_reducible rfl); iterate 6 (focus rfl))

theorem readBlockData_keeps {b_ : Bool} {r_ p : Part} (h_ : Keeps b_ r_ p) : Keeps b_ r_ (readBlockData p).1 := by
  refine h_.trans ?_; clear h_; unfold readBlockData; try dsimp only
  repeat' first
    | with_reducible first | exact Keeps.refl _ _ | assumption | apply setReg_keeps | apply Keeps.ite | apply Keeps.ite1

theorem bulkEffect_keeps {b_ : Bool} {r_ p : Part} (h_ : Keeps b_ r_ p) (k : Nat) (data : List Byte) : Keeps b_ r_ (bulkEffect p k data).1 := by
  refine h_.trans ?_; clear h_; unfold bulkEffect; try dsimp only
  repeat' first
    | (intro)
    | with_reducible first
      | exact Keeps.refl _ _ | assumption | apply commitEdges_keeps | apply commitUpload_keeps | apply fwBegin_keeps | apply toBoundary_keeps
      | apply netData_keeps | apply toPending_keeps | apply Keeps.ite | apply Keeps.ite1

/-- A command that answers the part of an option keeps what every command keeps. -/
def OptKeeps (r : Part) (o : Option (Part × Nat)) : Prop := ∀ x ∈ o, Keeps false r x.1

theorem OptKeeps.ite {r : Part} {c : Prop} [Decidable c] {a b : Option (Part × Nat)} (ha : OptKeeps r a)
    (hb : OptKeeps r b) : OptKeeps r (if c then a else b) := by split <;> assumption

theorem OptKeeps.some {r : Part} {y : Part × Nat} (h : Keeps false r y.1) : OptKeeps r (some y) := by
  intro x hx; cases hx; exact h

theorem OptKeeps.none {r : Part} : OptKeeps r none := by
  intro x hx; cases hx

theorem partCommand_keeps {r_ p : Part} (h_ : Keeps false r_ p) (k v : Nat) : OptKeeps r_ (partCommand p k v) := by
  unfold partCommand
  repeat' with_reducible first | apply OptKeeps.ite | apply OptKeeps.some | exact OptKeeps.none
  all_goals
    repeat' first
      | (intro q hq; try dsimp only)
      | with_reducible first
        | assumption | apply onTrue_keeps | apply ok_keeps | apply openBlock_keeps | apply writeBlockData_keeps | apply fire_keeps
        | apply clearLog_keeps | apply takeTimeSource_keeps | apply takeSclkSelect_keeps | apply takeSyncMode_keeps | apply setEpoch_keeps
        | apply relock_keeps | apply setDatum_keeps | apply quietRequest_keeps | apply loadGo_keeps | apply pairCommand_keeps
        | apply testCommand_keeps | apply lcBegin_keeps | apply commandReset_keeps | apply nvBegin_keeps | apply fwSelect_keeps
        | apply attBegin_keeps

theorem channelCommand_keeps {r_ p : Part} (h_ : Keeps false r_ p) (path : Path) (k v : Nat) : OptKeeps r_ (channelCommand p path k v) := by
  unfold channelCommand
  dsimp only
  repeat' with_reducible first | apply OptKeeps.ite | apply OptKeeps.some | exact OptKeeps.none
  all_goals
    repeat' first
      | (intro q hq; try dsimp only)
      | with_reducible first
        | assumption | apply onTrue_keeps | apply ok_keeps | apply clearFault_keeps | apply freezeRequest_keeps | apply moveChannel_keeps
        | apply clearEvents_keeps | apply planGoes_keeps | apply pushPaced_keeps | apply flushPaced_keeps

theorem sharedCommand_keeps {r_ p : Part} (h_ : Keeps false r_ p) (path : Path) (k v : Nat) : OptKeeps r_ (sharedCommand p path k v) := by
  unfold sharedCommand
  dsimp only
  repeat' with_reducible first | apply OptKeeps.ite | apply OptKeeps.some | exact OptKeeps.none
  all_goals
    repeat' first
      | (intro q hq; try dsimp only)
      | with_reducible first
        | assumption | apply onTrue_keeps | apply ok_keeps | apply writeStep_keeps | apply commitDesc_keeps | apply groupCommand_keeps
        | apply scheduleStrobe_keeps | apply disarmReaders_keeps | apply enableQueue_keeps | apply flushQueue_keeps

theorem commandEffect_keeps {r_ p : Part} (h_ : Keeps false r_ p) (path : Path) (k v : Nat) :
    Keeps false r_ (commandEffect p path k v).1 := by
  unfold commandEffect
  split
  · rename_i x hx; exact partCommand_keeps h_ k v x hx
  · split
    · rename_i x hx; exact channelCommand_keeps h_ path k v x hx
    · cases hx : sharedCommand p path k v with
      | some x => exact sharedCommand_keeps h_ path k v x hx
      | none => exact toBoundary_keeps h_ k v

theorem stagedDisarms_keeps {b_ : Bool} {r_ p : Part} (h_ : Keeps b_ r_ p) (e : Entry) (k : Nat) : Keeps b_ r_ (stagedDisarms p e k) := by
  refine h_.trans ?_; clear h_; unfold stagedDisarms; try dsimp only
  repeat' first
    | with_reducible first | exact Keeps.refl _ _ | assumption | apply disarm_keeps | apply disarmReaders_keeps | apply Keeps.ite
    | split

theorem classWrite_keeps {b_ : Bool} {r_ p : Part} (h_ : Keeps b_ r_ p) (e : Entry) (k v : Nat) : Keeps b_ r_ (classWrite p e k v) := by
  refine h_.trans ?_; clear h_; unfold classWrite; try dsimp only
  repeat' first
    | with_reducible first
      | exact Keeps.refl _ _ | assumption | apply setRegBit_keeps | apply setReg_keeps | apply stagedDisarms_keeps | apply toPending_keeps
      | apply toBoundary_keeps | apply Keeps.ite
    | fail_if_no_progress (with_reducible apply Keeps.mkUpd; (focus with_reducible rfl); iterate 6 (focus rfl))
    | split

theorem clearOnes_keeps {b_ : Bool} {r_ p : Part} (h_ : Keeps b_ r_ p) (k m : Nat) : Keeps b_ r_ (clearOnes p k m) := by
  refine h_.trans ?_; clear h_; unfold clearOnes; try dsimp only
  repeat' first
    | with_reducible first | exact Keeps.refl _ _ | assumption | apply writeOnes_keeps | apply rearm_keeps | apply Keeps.ite

theorem post_keeps {b_ : Bool} {r_ p : Part} (h_ : Keeps b_ r_ p) (e : Entry) (k : Nat) : Keeps b_ r_ (post p e k) := by
  refine h_.trans ?_; clear h_; unfold post; try dsimp only
  repeat' first
    | with_reducible first | exact Keeps.refl _ _ | assumption | apply setBusy_keeps
    | split

theorem applyWrite_keeps {r_ p : Part} (h_ : Keeps false r_ p) (path : Path) (e : Entry) (k v : Nat) :
    Keeps false r_ (applyWrite p path e k v).1 := by
  refine h_.trans ?_; clear h_; unfold applyWrite; try dsimp only
  repeat' first
    | with_reducible first
      | exact Keeps.refl _ _ | assumption | apply post_keeps | apply classWrite_keeps | apply setReg_keeps | apply settle_keeps
      | apply clearLater_keeps | apply clearOnes_keeps | apply commandEffect_keeps | apply Keeps.ite | apply Keeps.ite1
    | split

theorem applyBulk_keeps {b_ : Bool} {r_ p : Part} (h_ : Keeps b_ r_ p) (e : Entry) (k : Nat) (data : List Byte) :
    Keeps b_ r_ (applyBulk p e k data).1 := by
  refine h_.trans ?_; clear h_; unfold applyBulk; try dsimp only
  repeat' first
    | with_reducible first
      | exact Keeps.refl _ _ | assumption | apply bulkEffect_keeps | apply stagedDisarms_keeps | apply Keeps.ite | apply Keeps.ite1

theorem writeBulk_keeps {b_ : Bool} {r_ p : Part} (h_ : Keeps b_ r_ p) (path : Path) (op : Nat) (e : Entry) (k : Nat) (data : List Byte) :
    Keeps b_ r_ (writeBulk p path op e k data).1 := by
  refine h_.trans ?_; clear h_; unfold writeBulk; try dsimp only
  repeat' first
    | with_reducible first | exact Keeps.refl _ _ | assumption | apply applyBulk_keeps | apply forward_keeps | apply Keeps.ite | apply Keeps.ite1

theorem commitBlock_keeps {b_ : Bool} {r_ p : Part} (h_ : Keeps b_ r_ p) (path : Path) : Keeps b_ r_ (commitBlock p path).1 := by
  refine h_.trans ?_; clear h_; unfold commitBlock; try dsimp only
  repeat' first
    | with_reducible first | exact Keeps.refl _ _ | assumption | apply setReg_keeps | apply writeBulk_keeps | apply Keeps.ite1
    | split

theorem stampJob_keeps {b_ : Bool} {r_ p : Part} (h_ : Keeps b_ r_ p) (op : Nat) : Keeps b_ r_ (stampJob p op) := by
  unfold stampJob
  refine jobs_keeps h_ _ fun h => ?_
  cases hl : p.adm.jobs.getLast? with
  | none => simp at hl; simp [hl]
  | some x =>
    have hne : p.adm.jobs ≠ [] := by intro e; simp [e] at hl
    have := List.length_pos_of_ne_nil hne
    simp [List.length_dropLast]; omega

theorem runWrite_keeps {r_ p : Part} (h_ : Keeps false r_ p) (path : Path) (op : Nat) (e : Entry) (k v : Nat) :
    Keeps false r_ (runWrite p path op e k v).1 := by
  refine h_.trans ?_; clear h_; unfold runWrite; try dsimp only
  repeat' first
    | with_reducible first
      | exact Keeps.refl _ _ | assumption | apply commitBlock_keeps | apply applyWrite_keeps | apply stampJob_keeps | apply Keeps.ite
      | apply Keeps.ite1

theorem logged_keeps {b_ : Bool} {r_ : Part} {r : Part × Verdict} (h_ : Keeps b_ r_ r.1) (path : Path) (op k v : Nat) :
    Keeps b_ r_ (logged path op k v r).1 := by
  unfold logged
  split
  · exact h_
  · exact logAbort_keeps h_ path op _ (k / 256) (k % 256) v
  · exact h_

theorem noteOverrun_keeps {b_ : Bool} {r_ p : Part} (h_ : Keeps b_ r_ p) (e : Entry) (k code : Nat) : Keeps b_ r_ (noteOverrun p e k code) := by
  refine h_.trans ?_; clear h_; unfold noteOverrun; try dsimp only
  repeat' first
    | with_reducible first | exact Keeps.refl _ _ | assumption | apply setOverrun_keeps | apply Keeps.ite
    | split

theorem writeEntry_keeps {r_ p : Part} (h_ : Keeps false r_ p) (path : Path) (op : Nat) (posts : Bool) (e : Entry) (k w : Nat) :
    Keeps false r_ (writeEntry p path op posts e k w).1 := by
  refine h_.trans ?_; clear h_; unfold writeEntry; try dsimp only
  repeat' first
    | with_reducible first
      | exact Keeps.refl _ _ | assumption | apply logged_keeps | apply noteOverrun_keeps | apply runWrite_keeps | apply forward_keeps
      | apply Keeps.ite | apply Keeps.ite1

theorem writeAt_keeps {r_ p : Part} (h_ : Keeps false r_ p) (path : Path) (op i : Nat) (s v : Nat) : Keeps false r_ (writeAt p path op i s v).1 := by
  refine h_.trans ?_; clear h_; unfold writeAt; try dsimp only
  repeat' first
    | with_reducible first | exact Keeps.refl _ _ | assumption | apply logged_keeps | apply writeEntry_keeps | apply Keeps.ite | apply Keeps.ite1
    | split

theorem writeForwarded_keeps {r_ p : Part} (h_ : Keeps false r_ p) (path : Path) (op k v : Nat) :
    Keeps false r_ (writeForwarded p path op k v).1 := by
  refine h_.trans ?_; clear h_; unfold writeForwarded; try dsimp only
  repeat' first
    | with_reducible first
      | exact Keeps.refl _ _ | assumption | apply logged_keeps | apply applyBulk_keeps | apply runWrite_keeps | apply Keeps.ite | apply Keeps.ite1
    | split

theorem discardStaged_keeps {b_ : Bool} {r_ p : Part} (h_ : Keeps b_ r_ p) (path : Path) (k : Nat) : Keeps b_ r_ (discardStaged p path k) := by
  refine h_.trans ?_; clear h_; unfold discardStaged; try dsimp only
  repeat' first
    | with_reducible first | exact Keeps.refl _ _ | assumption | apply logAbort_keeps | apply Keeps.ite
    | fail_if_no_progress (with_reducible apply Keeps.mkUpd; (focus with_reducible rfl); iterate 6 (focus rfl))
    | split

theorem stageWord_keeps {b_ : Bool} {r_ p : Part} (h_ : Keeps b_ r_ p) (k w x : Nat) : Keeps b_ r_ (stageWord p k w x) := by
  refine h_.trans ?_; clear h_; unfold stageWord; try dsimp only
  repeat' first
    | with_reducible first | exact Keeps.refl _ _ | assumption
    | fail_if_no_progress (with_reducible apply Keeps.mkUpd; (focus with_reducible rfl); iterate 6 (focus rfl))

theorem commitWords_keeps {r_ p : Part} (h_ : Keeps false r_ p) (path : Path) (e : Entry) (k w x : Nat) :
    Keeps false r_ (commitWords p path e k w x) := by
  refine h_.trans ?_; clear h_; unfold commitWords; try dsimp only
  repeat' first
    | with_reducible first | exact Keeps.refl _ _ | assumption | apply writeEntry_keeps | apply Keeps.ite | apply Keeps.ite1
    | fail_if_no_progress (with_reducible apply Keeps.mkUpd; (focus with_reducible rfl); iterate 6 (focus rfl))

theorem barWord_keeps {r_ p : Part} (h_ : Keeps false r_ p) (path : Path) (e : Entry) (k w x : Nat) : Keeps false r_ (barWord p path e k w x) := by
  refine h_.trans ?_; clear h_; unfold barWord; try dsimp only
  repeat' first
    | with_reducible first | exact Keeps.refl _ _ | assumption | apply stageWord_keeps | apply commitWords_keeps | apply Keeps.ite

theorem narrowWrite_keeps {r_ p : Part} (h_ : Keeps false r_ p) (path : Path) (e : Entry) (k : Nat) (be : BitVec 8) (data : BitVec 64) :
    Keeps false r_ (narrowWrite p path e k be data) := by
  refine h_.trans ?_; clear h_; unfold narrowWrite; try dsimp only
  repeat' first
    | with_reducible first | exact Keeps.refl _ _ | assumption | apply writeEntry_keeps | apply logged_keeps | apply Keeps.ite

theorem barWrite_keeps {r_ p : Part} (h_ : Keeps false r_ p) (path : Path) (i s : Nat) (be : BitVec 8) (data : BitVec 64) :
    Keeps false r_ (barWrite p path i s be data) := by
  refine h_.trans ?_; clear h_; unfold barWrite; try dsimp only
  repeat' first
    | with_reducible first
      | exact Keeps.refl _ _ | assumption | apply discardStaged_keeps | apply logged_keeps | apply barWord_keeps | apply narrowWrite_keeps
      | apply Keeps.ite | apply Keeps.ite1
    | split

theorem snapshotRead_keeps {b_ : Bool} {r_ p : Part} (h_ : Keeps b_ r_ p) (e : Entry) (k w : Nat) (be : BitVec 8) :
    Keeps b_ r_ (snapshotRead p e k w be).1 := by
  refine h_.trans ?_; clear h_; unfold snapshotRead; try dsimp only
  repeat' first
    | (intro)
    | with_reducible first | exact Keeps.refl _ _ | assumption | apply Keeps.ite | apply Keeps.ite1
    | fail_if_no_progress (with_reducible apply Keeps.mkUpd; (focus with_reducible rfl); iterate 6 (focus rfl))
    | split

theorem barRead_keeps {b_ : Bool} {r_ p : Part} (h_ : Keeps b_ r_ p) (path : Path) (i s : Nat) (be : BitVec 8) :
    Keeps b_ r_ (barRead p path i s be) := by
  refine h_.trans ?_; clear h_; unfold barRead; try dsimp only
  repeat' first
    | with_reducible first
      | exact Keeps.refl _ _ | assumption | apply say_keeps | apply logAbort_keeps | apply readBlockData_keeps | apply snapshotRead_keeps
      | apply Keeps.ite | apply Keeps.ite1
    | split

theorem barCrossing_keeps {b_ : Bool} {r_ p : Part} (h_ : Keeps b_ r_ p) (path : Path) (i s : Nat) (write : Bool) (data : Nat) :
    Keeps b_ r_ (barCrossing p path i s write data) := by
  refine h_.trans ?_; clear h_; unfold barCrossing; try dsimp only
  repeat' first
    | with_reducible first | exact Keeps.refl _ _ | assumption | apply logAbort_keeps | apply say_keeps | apply Keeps.ite

theorem commandWrite_keeps {r_ p : Part} (h_ : Keeps false r_ p) (path : Path) (i s v : Nat) : Keeps false r_ (commandWrite p path i s v) := by
  refine h_.trans ?_; clear h_; unfold commandWrite; try dsimp only
  repeat' first
    | with_reducible first
      | exact Keeps.refl _ _ | assumption | apply discardStaged_keeps | apply writeAt_keeps | apply tell_keeps | apply Keeps.ite | apply Keeps.ite1
    | fail_if_no_progress (with_reducible apply Keeps.mkUpd; (focus with_reducible rfl); iterate 6 (focus rfl))
    | split

theorem commandBulk_keeps {b_ : Bool} {r_ p : Part} (h_ : Keeps b_ r_ p) (path : Path) (k : Nat) (data : List Byte) :
    Keeps b_ r_ (commandBulk p path k data) := by
  refine h_.trans ?_; clear h_; unfold commandBulk; try dsimp only
  repeat' first
    | with_reducible first
      | exact Keeps.refl _ _ | assumption | apply logged_keeps | apply writeBulk_keeps | apply tell_keeps | apply Keeps.ite | apply Keeps.ite1
    | split

theorem mirrorWrite_keeps {r_ p : Part} (h_ : Keeps false r_ p) (i s v : Nat) : Keeps false r_ (mirrorWrite p i s v) := by
  refine h_.trans ?_; clear h_; unfold mirrorWrite; try dsimp only
  repeat' first
    | with_reducible first
      | exact Keeps.refl _ _ | assumption | apply atCyc_keeps | apply writeForwarded_keeps | apply answer_keeps | apply Keeps.ite | apply Keeps.ite1
    | fail_if_no_progress (with_reducible apply Keeps.mkUpd; (focus with_reducible rfl); iterate 6 (focus rfl))
    | split

theorem request_keeps {b_ : Bool} {r_ p : Part} (h_ : Keeps b_ r_ p) (h : PlHeader) (size : Nat) (f : Part → Part)
    (hf : Keeps b_ r_ (f p)) : Keeps b_ r_ (request p h size f) := by
  unfold request
  split
  · exact h_
  · split
    · exact Keeps.fold (fun q hq x => say_keeps hq _) (addReg_keeps h_ _ _)
    · split
      · exact h_
      · exact hf

theorem readItem_keeps {b_ : Bool} {r_ p : Part} (h_ : Keeps b_ r_ p) (pending : Bool) (x : PlItem) : Keeps b_ r_ (readItem p pending x).1 := by
  refine h_.trans ?_; clear h_; unfold readItem; try dsimp only
  repeat' first
    | with_reducible first | exact Keeps.refl _ _ | assumption | apply readBlockData_keeps | apply Keeps.ite | apply Keeps.ite1
    | split

theorem readItems_keeps {b_ : Bool} {r_ p : Part} (h_ : Keeps b_ r_ p) (pending : Bool) (l : List PlItem) :
    Keeps b_ r_ (readItems p pending l).1 := by
  induction l generalizing p with
  | nil => exact h_
  | cons x r ih =>
    unfold readItems
    dsimp only
    exact ih (readItem_keeps h_ pending x)

theorem setBulk_keeps {b_ : Bool} {r_ p : Part} (h_ : Keeps b_ r_ p) (l : List BulkBuf) : Keeps b_ r_ (setBulk p l) := by
  refine h_.trans ?_; clear h_; unfold setBulk; try dsimp only
  repeat' first
    | with_reducible first | exact Keeps.refl _ _ | assumption
    | fail_if_no_progress (with_reducible apply Keeps.mkUpd; (focus with_reducible rfl); iterate 6 (focus rfl))

theorem writeItem_keeps {r_ p : Part} (h_ : Keeps false r_ p) (h : PlHeader) (op : Nat) (posts : Bool) (x : PlItem) (last : Bool) :
    Keeps false r_ (writeItem p h op posts x last).1 := by
  refine h_.trans ?_; clear h_; unfold writeItem; try dsimp only
  repeat' first
    | with_reducible first
      | exact Keeps.refl _ _ | assumption | apply logged_keeps | apply writeEntry_keeps | apply setBulk_keeps | apply writeBulk_keeps
      | apply Keeps.ite1
    | split

theorem writeItems_keeps {r_ p : Part} (h_ : Keeps false r_ p) (h : PlHeader) (op : Nat) (posts : Bool) (l : List PlItem) :
    Keeps false r_ (writeItems p h op posts l).1 := by
  induction l generalizing p with
  | nil => exact h_
  | cons x r ih =>
    unfold writeItems
    dsimp only
    exact ih (writeItem_keeps h_ h op posts x _)

theorem replyItems_keeps {b_ : Bool} {r_ p : Part} (h_ : Keeps b_ r_ p) (h : PlHeader) (l : List OwedItem) : Keeps b_ r_ (replyItems p h l) := by
  refine h_.trans ?_; clear h_; unfold replyItems; try dsimp only
  repeat' first
    | (intro)
    | with_reducible first | exact Keeps.refl _ _ | assumption | apply reply_keeps | apply Keeps.ite
    | fail_if_no_progress (with_reducible apply Keeps.mkUpd; (focus with_reducible rfl); iterate 6 (focus rfl))

theorem itemOverrun_keeps {b_ : Bool} {r_ p : Part} (h_ : Keeps b_ r_ p) (x : PlItem) (code : Nat) : Keeps b_ r_ (itemOverrun p x code) := by
  refine h_.trans ?_; clear h_; unfold itemOverrun; try dsimp only
  repeat' first
    | with_reducible first | exact Keeps.refl _ _ | assumption | apply noteOverrun_keeps
    | split

theorem writeBlockFrame_keeps {r_ p : Part} (h_ : Keeps false r_ p) (h : PlHeader) (items : List PlItem) :
    Keeps false r_ (writeBlockFrame p h items) := by
  refine h_.trans ?_; clear h_; unfold writeBlockFrame; try dsimp only
  repeat' first
    | with_reducible first
      | exact Keeps.refl _ _ | assumption | apply logged_keeps | apply itemOverrun_keeps | apply reply_keeps | apply writeItems_keeps
      | apply replyItems_keeps | apply Keeps.ite1
    | split

theorem setSubs_keeps {b_ : Bool} {r_ p : Part} (h_ : Keeps b_ r_ p) (l : List Sub)
    (hl : p.pl.subs.length ≤ 64 → l.length ≤ 64) : Keeps b_ r_ (setSubs p l) := by
  unfold setSubs
  with_reducible apply setReg_keeps
  exact h_.trans ⟨id, id, id, id, hl, List.suffix_refl _, fun _ => rfl⟩

theorem subReply_keeps {b_ : Bool} {r_ p : Part} (h_ : Keeps b_ r_ p) (h : PlHeader) (id : Nat) (items : List ReplyItem) :
    Keeps b_ r_ (subReply p h id items) := by
  refine h_.trans ?_; clear h_; unfold subReply; try dsimp only
  repeat' with_reducible first | exact Keeps.refl _ _ | assumption | apply replyHead_keeps

theorem subscribeFrame_keeps {b_ : Bool} {r_ p : Part} (h_ : Keeps b_ r_ p) (h : PlHeader) (period id mode : Nat) (items : List PlItem) :
    Keeps b_ r_ (subscribeFrame p h period id mode items) := by
  unfold subscribeFrame
  dsimp only
  split
  · exact reply_keeps h_ h 6 []
  · rename_i h1
    split
    · with_reducible apply subReply_keeps
      exact setSubs_keeps h_ _ fun hl => (List.length_filter_le _ _).trans hl
    · split
      · exact reply_keeps h_ h 6 []
      · rename_i h2 h3
        with_reducible apply subReply_keeps
        refine setSubs_keeps h_ _ fun hl => ?_
        rw [List.length_append, List.length_singleton]
        split
        · rename_i h4
          have : (p.pl.subs.filter fun s => decide (s.id ≠ freeSubId p.pl.subs)).length ≤ p.pl.subs.length := List.length_filter_le _ _
          have : p.pl.subs.length < 64 := by
            by_contra hc; exact h3 (Or.inr (Or.inr ⟨h4, by omega⟩))
          omega
        · rename_i h4
          have hk : (p.pl.subs.any fun s => decide (s.id = id)) = true := by
            by_contra hc; exact h1 (Or.inr (Or.inl ⟨h4, by simpa using hc⟩))
          obtain ⟨s, hs, he⟩ := List.any_eq_true.mp hk
          have : (p.pl.subs.filter fun s => decide (s.id ≠ id)).length < p.pl.subs.length := by
            apply List.length_filter_lt_length_iff_exists.mpr
            exact ⟨s, hs, by simpa using he⟩
          omega

theorem publish_keeps {b_ : Bool} {r_ p : Part} (h_ : Keeps b_ r_ p) (id : Nat) : Keeps b_ r_ (publish p id) := by
  unfold publish
  split
  · exact h_
  · rename_i s hs
    dsimp only
    have hk (t : Sub) : Keeps b_ r_ { p with pl := { p.pl with subs := p.pl.subs.map fun x => if x.id = id then t else x } } :=
      h_.trans ⟨fun x => x, fun x => x, fun x => x, fun x => x, fun hl => by rw [List.length_map]; exact hl, List.suffix_refl _, fun _ => rfl⟩
    with_reducible apply Keeps.ite
    · exact Keeps.fold (fun q hq x => say_keeps hq _) (hk _)
    · with_reducible apply Keeps.ite
      · exact hk _
      · exact h_

theorem hearAnnounce_keeps {b_ : Bool} {r_ p : Part} (h_ : Keeps b_ r_ p) (port : EthPort) (r : AnnounceRec) :
    Keeps b_ r_ (hearAnnounce p port r) := by
  refine h_.trans ?_; clear h_; unfold hearAnnounce; try dsimp only
  repeat' first
    | with_reducible first | exact Keeps.refl _ _ | assumption | apply hearPartner_keeps | apply Keeps.ite

theorem sendAnnounce_keeps {b_ : Bool} {r_ p : Part} (h_ : Keeps b_ r_ p) : Keeps b_ r_ (sendAnnounce p) := by
  refine h_.trans ?_; clear h_; unfold sendAnnounce; try dsimp only
  repeat' first
    | (intro)
    | with_reducible first | exact Keeps.refl _ _ | assumption | apply say_keeps | apply Keeps.ite | apply Keeps.fold

theorem partnerTimeout_keeps {b_ : Bool} {r_ p : Part} (h_ : Keeps b_ r_ p) (i cyc : Nat) : Keeps b_ r_ (partnerTimeout p i cyc) := by
  unfold partnerTimeout
  dsimp only
  split
  · exact h_
  · split
    · exact setSubs_keeps (losePartner_keeps h_ i cyc) _ fun hl => (List.length_filter_le _ _).trans hl
    · exact losePartner_keeps h_ i cyc

theorem takeDiscover_keeps {b_ : Bool} {r_ p : Part} (h_ : Keeps b_ r_ p) (h : PlHeader) : Keeps b_ r_ (takeDiscover p h) := by
  refine h_.trans ?_; clear h_; unfold takeDiscover; try dsimp only
  repeat' first
    | with_reducible first | exact Keeps.refl _ _ | assumption | apply Keeps.ite
    | fail_if_no_progress (with_reducible apply Keeps.mkUpd; (focus with_reducible rfl); iterate 6 (focus rfl))

theorem answerDiscover_keeps {b_ : Bool} {r_ p : Part} (h_ : Keeps b_ r_ p) : Keeps b_ r_ (answerDiscover p) := by
  refine h_.trans ?_; clear h_; unfold answerDiscover; try dsimp only
  repeat' first
    | with_reducible first | exact Keeps.refl _ _ | assumption | apply sendReply_keeps
    | fail_if_no_progress (with_reducible apply Keeps.mkUpd; (focus with_reducible rfl); iterate 6 (focus rfl))
    | split

theorem fireFrame_keeps {b_ : Bool} {r_ p : Part} (h_ : Keeps b_ r_ p) (h : PlHeader) (mask at_ : Nat) : Keeps b_ r_ (fireFrame p h mask at_) := by
  refine h_.trans ?_; clear h_; unfold fireFrame; try dsimp only
  repeat' first
    | with_reducible first
      | exact Keeps.refl _ _ | assumption | apply reply_keeps | apply fire_keeps | apply forward_keeps | apply Keeps.ite | apply Keeps.ite1
    | fail_if_no_progress (with_reducible apply Keeps.mkUpd; (focus with_reducible rfl); iterate 6 (focus rfl))

theorem attestFrame_keeps {b_ : Bool} {r_ p : Part} (h_ : Keeps b_ r_ p) (h : PlHeader) (nonce resume : Nat) :
    Keeps b_ r_ (attestFrame p h nonce resume) := by
  refine h_.trans ?_; clear h_; unfold attestFrame; try dsimp only
  repeat' first
    | with_reducible first
      | exact Keeps.refl _ _ | assumption | apply reply_keeps | apply sendReply_keeps | apply attBegin_keeps | apply Keeps.ite

theorem sendLldp_keeps {b_ : Bool} {r_ p : Part} (h_ : Keeps b_ r_ p) (port : EthPort) : Keeps b_ r_ (sendLldp p port) := by
  refine h_.trans ?_; clear h_; unfold sendLldp; try dsimp only
  repeat' first
    | with_reducible first | exact Keeps.refl _ _ | assumption | apply say_keeps | apply Keeps.ite

theorem takeLldp_keeps {b_ : Bool} {r_ p : Part} (h_ : Keeps b_ r_ p) (port : EthPort) (r : LldpRec) : Keeps b_ r_ (takeLldp p port r) := by
  refine h_.trans ?_; clear h_; unfold takeLldp; try dsimp only
  repeat' first
    | with_reducible first | exact Keeps.refl _ _ | assumption | apply Keeps.ite
    | fail_if_no_progress (with_reducible apply Keeps.mkUpd; (focus with_reducible rfl); iterate 6 (focus rfl))
    | split

theorem takeAlarm_keeps {b_ : Bool} {r_ p : Part} (h_ : Keeps b_ r_ p) (bound : KMap Nat) (a k : Nat) (was : Bool) :
    Keeps b_ r_ (takeAlarm p bound a k was) := by
  refine h_.trans ?_; clear h_; unfold takeAlarm; try dsimp only
  repeat' first
    | with_reducible first
      | exact Keeps.refl _ _ | assumption | apply disarmAlarm_keeps | apply planAlarm_keeps | apply armAlarm_keeps | apply Keeps.ite
    | split

theorem takeValue_keeps {b_ : Bool} {r_ p : Part} (h_ : Keeps b_ r_ p) (k : Nat) (e : Nat × Nat) : Keeps b_ r_ (takeValue p k e) := by
  refine h_.trans ?_; clear h_; unfold takeValue; try dsimp only
  repeat' first
    | with_reducible first
      | exact Keeps.refl _ _ | assumption | apply takeQuiet_keeps | apply writeOnes_keeps | apply takeFreeze_keeps | apply setReg_keeps
      | apply Keeps.ite | apply Keeps.ite1
    | fail_if_no_progress (with_reducible apply Keeps.mkUpd; (focus with_reducible rfl); iterate 6 (focus rfl))

theorem takeBound_keeps {b_ : Bool} {r_ p : Part} (h_ : Keeps b_ r_ p) (k : Nat) : Keeps b_ r_ (takeBound p k) := by
  refine h_.trans ?_; clear h_; unfold takeBound; try dsimp only
  repeat' first
    | (intro)
    | with_reducible first | exact Keeps.refl _ _ | assumption | apply takeValue_keeps | apply takeAlarm_keeps | apply Keeps.ite1 | apply Keeps.fold
    | fail_if_no_progress (with_reducible apply Keeps.mkUpd; (focus with_reducible rfl); iterate 6 (focus rfl))

theorem takePlan_keeps {b_ : Bool} {r_ p : Part} (h_ : Keeps b_ r_ p) (c : Chan) (k : Nat) : Keeps b_ r_ (takePlan p c k) := by
  refine h_.trans ?_; clear h_; unfold takePlan; try dsimp only
  repeat' first
    | (intro)
    | with_reducible first
      | exact Keeps.refl _ _ | assumption | apply restartMarks_keeps | apply setOut_keeps | apply applyOps_keeps | apply Keeps.ite
    | fail_if_no_progress (with_reducible apply Keeps.mkUpd; (focus with_reducible rfl); iterate 6 (focus rfl))

theorem showDatapath_keeps {b_ : Bool} {r_ p : Part} (h_ : Keeps b_ r_ p) (c : Chan) : Keeps b_ r_ (showDatapath p c) := by
  refine h_.trans ?_; clear h_; unfold showDatapath; try dsimp only
  repeat' first
    | (intro)
    | with_reducible first | exact Keeps.refl _ _ | assumption | apply setReg_keeps | apply Keeps.ite | apply Keeps.ite1 | apply Keeps.fold

theorem shiftCodes_keeps {b_ : Bool} {r_ p : Part} (h_ : Keeps b_ r_ p) (c : Chan) : Keeps b_ r_ (shiftCodes p c) := by
  refine h_.trans ?_; clear h_; unfold shiftCodes; try dsimp only
  repeat' first
    | with_reducible first | exact Keeps.refl _ _ | assumption | apply setDp_keeps

theorem confirmLeads_keeps {b_ : Bool} {r_ p : Part} (h_ : Keeps b_ r_ p) (c : Chan) (k : Nat) : Keeps b_ r_ (confirmLeads p c k) := by
  refine h_.trans ?_; clear h_; unfold confirmLeads; try dsimp only
  repeat' first
    | (intro)
    | with_reducible first
      | exact Keeps.refl _ _ | assumption | apply addReg_keeps | apply setSeq_keeps | apply Keeps.ite

theorem dropPlans_keeps {b_ : Bool} {r_ p : Part} (h_ : Keeps b_ r_ p) (c : Chan) (k : Nat) : Keeps b_ r_ (dropPlans p c k) := by
  refine h_.trans ?_; clear h_; unfold dropPlans; try dsimp only
  repeat' first
    | (intro)
    | with_reducible first | exact Keeps.refl _ _ | assumption
    | fail_if_no_progress (with_reducible apply Keeps.mkUpd; (focus with_reducible rfl); iterate 6 (focus rfl))

theorem emitStage_keeps {b_ : Bool} {r_ p : Part} (h_ : Keeps b_ r_ p) (c : Chan) (k : Nat) : Keeps b_ r_ (emitStage p c k) := by
  refine h_.trans ?_; clear h_; unfold emitStage; try dsimp only
  repeat' with_reducible first | exact Keeps.refl _ _ | assumption | apply showDatapath_keeps | apply shiftCodes_keeps | apply takePlan_keeps

theorem synthStage_keeps {b_ : Bool} {r_ p : Part} (h_ : Keeps b_ r_ p) (c : Chan) (late : List Nat) (k : Nat) :
    Keeps b_ r_ (synthStage p c late k) := by
  refine h_.trans ?_; clear h_; unfold synthStage; try dsimp only
  repeat' first
    | with_reducible first
      | exact Keeps.refl _ _ | assumption | apply dropPlans_keeps | apply confirmLeads_keeps | apply keepCodes_keeps | apply synthTick_keeps
      | apply lateRefill_keeps | apply Keeps.ite

theorem datumPasses_keeps {b_ : Bool} {r_ p : Part} (h_ : Keeps b_ r_ p) : Keeps b_ r_ (datumPasses p) := by
  refine h_.trans ?_; clear h_; unfold datumPasses; try dsimp only
  repeat' first
    | with_reducible first | exact Keeps.refl _ _ | assumption | apply Keeps.ite
    | fail_if_no_progress (with_reducible apply Keeps.mkUpd; (focus with_reducible rfl); iterate 6 (focus rfl))

theorem wrapCycles_keeps {b_ : Bool} {r_ p : Part} (h_ : Keeps b_ r_ p) : Keeps b_ r_ (wrapCycles p) := by
  refine h_.trans ?_; clear h_; unfold wrapCycles; try dsimp only
  repeat' first
    | (intro)
    | with_reducible first | exact Keeps.refl _ _ | assumption
    | fail_if_no_progress (with_reducible apply Keeps.mkUpd; (focus with_reducible rfl); iterate 6 (focus rfl))

theorem enterTick_keeps {r_ p : Part} (h_ : Keeps false r_ p) : Keeps false r_ (enterTick p) := by
  have h1 := datumPasses_keeps (settle_keeps h_ (25 * (p.time.tick + 1) - 1))
  have h2 : Keeps false r_ (if nextTick p.time.tick = 0 then wrapCycles (datumPasses (settle p (25 * (p.time.tick + 1) - 1)))
      else datumPasses (settle p (25 * (p.time.tick + 1) - 1))) := Keeps.ite (wrapCycles_keeps h1) h1
  unfold enterTick
  dsimp only
  exact ⟨h2.regs, h2.dram, h2.jobs, h2.fires, h2.subs, h2.sent, fun e => Bool.noConfusion e⟩

theorem beginTick_keeps {b_ : Bool} {r_ p : Part} (h_ : Keeps b_ r_ p) (k : Nat) : Keeps b_ r_ (beginTick p k) := by
  refine h_.trans ?_; clear h_; unfold beginTick; try dsimp only
  repeat' first
    | (intro)
    | with_reducible first
      | exact Keeps.refl _ _ | assumption | apply startLoad_keeps | apply takeSegments_keeps | apply takeBound_keeps | apply takeCommits_keeps
      | apply emitStage_keeps | apply driveTick_keeps | apply keepDigest_keeps | apply settleMarkers_keeps | apply markTick_keeps
      | apply outTick_keeps | apply serveWants_keeps | apply synthStage_keeps | apply Keeps.fold

theorem dropCaptured_keeps {b_ : Bool} {r_ p : Part} (h_ : Keeps b_ r_ p) (k : Nat) : Keeps b_ r_ (dropCaptured p k) := by
  refine h_.trans ?_; clear h_; unfold dropCaptured; try dsimp only
  repeat' first
    | (intro)
    | with_reducible first | exact Keeps.refl _ _ | assumption | apply judgePads_keeps
    | fail_if_no_progress (with_reducible apply Keeps.mkUpd; (focus with_reducible rfl); iterate 6 (focus rfl))

theorem tickBoundary_keeps {r_ p : Part} (h_ : Keeps false r_ p) : Keeps false r_ (tickBoundary p) := by
  refine h_.trans ?_; clear h_; unfold tickBoundary; try dsimp only
  repeat' first
    | with_reducible first
      | exact Keeps.refl _ _ | assumption | apply resetPart_keeps | apply datumPasses_keeps | apply ageTest_keeps | apply dropCaptured_keeps
      | apply beginTick_keeps | apply enterTick_keeps | apply Keeps.ite

theorem decideStage_keeps {b_ : Bool} {r_ p : Part} (h_ : Keeps b_ r_ p) : Keeps b_ r_ (decideStage p) := by
  refine h_.trans ?_; clear h_; unfold decideStage; try dsimp only
  repeat' first
    | with_reducible first | exact Keeps.refl _ _ | assumption | apply decideTick_keeps | apply Keeps.ite

theorem inStage_keeps {b_ : Bool} {r_ p : Part} {f : Part → Part} (h_ : Keeps b_ r_ p) (hf : ∀ q, Keeps b_ r_ q → Keeps b_ r_ (f q)) :
    Keeps b_ r_ (inStage f p) := Keeps.ite h_ (hf _ (openStage_keeps h_))

end Sys2Proof.Machine
end

