-- ==== Sys2Proof/Laws/KeepsExec.lean ====
section
/-!
SUPPORT. Every command that answers a next state has the relation of Laws/Keeps.
-/

namespace Sys2Proof.Machine

theorem runStep_keeps {b_ : Bool} {r_ p : Part} (h_ : Keeps b_ r_ p) (c : Chan) (i : Step) : Keeps b_ r_ (runStep c i p) := by
  refine inStage_keeps h_ fun q hq => ?_
  split
  · exact Keeps.ite (advStep_keeps hq _ _ _ _) hq
  · exact hq

theorem runPlayt_keeps {b_ : Bool} {r_ p : Part} (h_ : Keeps b_ r_ p) (c : Chan) : Keeps b_ r_ (runPlayt c p) := by
  refine inStage_keeps h_ fun q hq => ?_
  split
  · exact Keeps.ite (advPlay_keeps hq _ _ _) hq
  · exact hq

theorem runWait_keeps {b_ : Bool} {r_ p : Part} (h_ : Keeps b_ r_ p) (f : WaitFor → Bool) (c : Chan) : Keeps b_ r_ (runWait f c p) := by
  refine inStage_keeps h_ fun q hq => ?_
  split
  · exact Keeps.ite (advWait_keeps hq _ _ _) hq
  · exact hq

theorem runJump_keeps {b_ : Bool} {r_ p : Part} (h_ : Keeps b_ r_ p) (c : Chan) : Keeps b_ r_ (runJump c p) :=
  inStage_keeps h_ fun _ hq => Keeps.ite (advance_keeps hq _ _) hq

theorem pulseLead_keeps {b_ : Bool} {r_ p : Part} (h_ : Keeps b_ r_ p) (c : Chan) : Keeps b_ r_ (pulseLead c p) := by
  refine h_.trans ?_; clear h_; unfold pulseLead; try dsimp only
  repeat' first
    | with_reducible first | exact Keeps.refl _ _ | assumption | apply addReg_keeps | apply setSeq_keeps | apply raiseAt_keeps | apply Keeps.ite
    | fail_if_no_progress (with_reducible apply Keeps.mkUpd; (focus with_reducible rfl); iterate 6 (focus rfl))
    | split

theorem pulseRetract_keeps {b_ : Bool} {r_ p : Part} (h_ : Keeps b_ r_ p) (c : Chan) : Keeps b_ r_ (pulseRetract c p) := by
  refine h_.trans ?_; clear h_; unfold pulseRetract; try dsimp only
  repeat' first
    | with_reducible first | exact Keeps.refl _ _ | assumption | apply raiseAt_keeps | apply addReg_keeps | apply setSeq_keeps | apply Keeps.ite
    | fail_if_no_progress (with_reducible apply Keeps.mkUpd; (focus with_reducible rfl); iterate 6 (focus rfl))
    | split

theorem assertNext_keeps {b_ : Bool} {r_ p : Part} (h_ : Keeps b_ r_ p) (ec : Nat) : Keeps b_ r_ (assertNext ec p) := by
  unfold assertNext
  split
  · exact h_
  · exact Keeps.ite h_ (reachAt_keeps (reachBefore_keeps h_ _ _) _ _)

theorem readPort_keeps {b_ : Bool} {r_ p : Part} (h_ : Keeps b_ r_ p) (path : Path) : Keeps b_ r_ (readPort p path) := by
  refine h_.trans ?_; clear h_; unfold readPort; try dsimp only
  repeat' first
    | with_reducible first
      | exact Keeps.refl _ _ | assumption | apply barRead_keeps | apply readBlockData_keeps | apply say_keeps | apply tell_keeps | apply Keeps.ite
      | apply Keeps.ite1
    | split

theorem countPtp_keeps {b_ : Bool} {r_ p : Part} (h_ : Keeps b_ r_ p) (port : EthPort) : Keeps b_ r_ (countPtp p port) := by
  refine h_.trans ?_; clear h_; unfold countPtp; try dsimp only
  repeat' first
    | with_reducible first | exact Keeps.refl _ _ | assumption | apply Keeps.ite | apply Keeps.ite1
    | fail_if_no_progress (with_reducible apply Keeps.mkUpd; (focus with_reducible rfl); iterate 6 (focus rfl))

theorem ptpMessage_keeps {b_ : Bool} {r_ p : Part} (h_ : Keeps b_ r_ p) (port : EthPort) (h : PtpHead) {f : Part → Part} (hf : Keeps b_ r_ (f p)) :
    Keeps b_ r_ (ptpMessage p port h f) := by
  unfold ptpMessage
  repeat' with_reducible first | exact h_ | exact hf | apply countPtp_keeps | apply Keeps.ite

theorem ptpSync_keeps {b_ : Bool} {r_ p : Part} (h_ : Keeps b_ r_ p) (port : EthPort) (offset meanPath : Int) :
    Keeps b_ r_ (ptpSync p port offset meanPath) := by
  refine h_.trans ?_; clear h_; unfold ptpSync; try dsimp only
  repeat' first
    | with_reducible first | exact Keeps.refl _ _ | assumption | apply measure_keeps | apply setReg_keeps | apply Keeps.ite

theorem setMaster_keeps {b_ : Bool} {r_ p : Part} (h_ : Keeps b_ r_ p) (port : EthPort) (m : Option PtpAnnounce) :
    Keeps b_ r_ (setMaster p port m) := by
  refine h_.trans ?_; clear h_; unfold setMaster; try dsimp only
  repeat' first
    | with_reducible first | exact Keeps.refl _ _ | assumption | apply putSelection_keeps
    | fail_if_no_progress (with_reducible apply Keeps.mkUpd; (focus with_reducible rfl); iterate 6 (focus rfl))
    | split

theorem hearMaster_keeps {b_ : Bool} {r_ p : Part} (h_ : Keeps b_ r_ p) (port : EthPort) (r : PtpAnnounce) : Keeps b_ r_ (hearMaster p port r) := by
  refine h_.trans ?_; clear h_; unfold hearMaster; try dsimp only
  repeat' first
    | with_reducible first | exact Keeps.refl _ _ | assumption | apply hearPartner_keeps | apply setMaster_keeps

theorem loseMaster_keeps {b_ : Bool} {r_ p : Part} (h_ : Keeps b_ r_ p) (port : EthPort) (cyc : Nat) : Keeps b_ r_ (loseMaster p port cyc) := by
  refine h_.trans ?_; clear h_; unfold loseMaster; try dsimp only
  repeat' first
    | with_reducible first
      | exact Keeps.refl _ _ | assumption | apply atCyc_keeps | apply losePartner_keeps | apply raiseNow_keeps | apply setMaster_keeps
      | apply loseSource_keeps | apply Keeps.ite
    | split

theorem judgeHoldover_keeps {b_ : Bool} {r_ p : Part} (h_ : Keeps b_ r_ p) : Keeps b_ r_ (judgeHoldover p) := by
  refine h_.trans ?_; clear h_; unfold judgeHoldover; try dsimp only
  repeat' first
    | with_reducible first | exact Keeps.refl _ _ | assumption | apply enterTimeState_keeps | apply Keeps.ite

theorem endSlew_keeps {b_ : Bool} {r_ p : Part} (h_ : Keeps b_ r_ p) : Keeps b_ r_ (endSlew p) := by
  refine h_.trans ?_; clear h_; unfold endSlew; try dsimp only
  repeat' first
    | with_reducible first | exact Keeps.refl _ _ | assumption | apply clearTimeFlag_keeps | apply Keeps.ite
    | fail_if_no_progress (with_reducible apply Keeps.mkUpd; (focus with_reducible rfl); iterate 6 (focus rfl))

theorem applyStep_keeps {b_ : Bool} {r_ p : Part} (h_ : Keeps b_ r_ p) : Keeps b_ r_ (applyStep p) := by
  refine h_.trans ?_; clear h_; unfold applyStep; try dsimp only
  repeat' first
    | with_reducible first | exact Keeps.refl _ _ | assumption | apply endSlew_keeps | apply stepDatum_keeps | apply Keeps.ite
    | split

theorem loseRefin_keeps {b_ : Bool} {r_ p : Part} (h_ : Keeps b_ r_ p) : Keeps b_ r_ (loseRefin p) := by
  refine h_.trans ?_; clear h_; unfold loseRefin; try dsimp only
  repeat' first
    | with_reducible first | exact Keeps.refl _ _ | assumption | apply restartEstimate_keeps | apply loseSource_keeps | apply setTimeFlag_keeps
    | fail_if_no_progress (with_reducible apply Keeps.mkUpd; (focus with_reducible rfl); iterate 6 (focus rfl))

theorem returnRefin_keeps {b_ : Bool} {r_ p : Part} (h_ : Keeps b_ r_ p) (offset : Int) : Keeps b_ r_ (returnRefin p offset) := by
  refine h_.trans ?_; clear h_; unfold returnRefin; try dsimp only
  repeat' first
    | with_reducible first
      | exact Keeps.refl _ _ | assumption | apply removeOffset_keeps | apply clearTimeFlag_keeps | apply restartEstimate_keeps | apply Keeps.ite

theorem clockRelocks_keeps {b_ : Bool} {r_ p : Part} (h_ : Keeps b_ r_ p) : Keeps b_ r_ (clockRelocks p) := by
  refine h_.trans ?_; clear h_; unfold clockRelocks; try dsimp only
  repeat' first
    | with_reducible first | exact Keeps.refl _ _ | assumption
    | fail_if_no_progress (with_reducible apply Keeps.mkUpd; (focus with_reducible rfl); iterate 6 (focus rfl))

theorem measureDrift_keeps {b_ : Bool} {r_ p : Part} (h_ : Keeps b_ r_ p) (drift sclkPpb : Int) : Keeps b_ r_ (measureDrift p drift sclkPpb) := by
  refine h_.trans ?_; clear h_; unfold measureDrift; try dsimp only
  repeat' first
    | with_reducible first
      | exact Keeps.refl _ _ | assumption | apply setReg_keeps | apply setTimeFlag_keeps | apply clearTimeFlag_keeps | apply Keeps.ite

theorem secondEdge_keeps {b_ : Bool} {r_ p : Part} (h_ : Keeps b_ r_ p) : Keeps b_ r_ (secondEdge p) := by
  refine h_.trans ?_; clear h_; unfold secondEdge; try dsimp only
  repeat' first
    | with_reducible first | exact Keeps.refl _ _ | assumption | apply raiseAt_keeps | apply atCyc_keeps | apply say_keeps | apply Keeps.ite
    | split

theorem sendPtpAnnounce_keeps {b_ : Bool} {r_ p : Part} (h_ : Keeps b_ r_ p) (port : EthPort) : Keeps b_ r_ (sendPtpAnnounce p port) := by
  refine h_.trans ?_; clear h_; unfold sendPtpAnnounce; try dsimp only
  repeat' first
    | with_reducible first | exact Keeps.refl _ _ | assumption | apply say_keeps | apply Keeps.ite

theorem gateNow_keeps {b_ : Bool} {r_ p : Part} (h_ : Keeps b_ r_ p) (c : Chan) (i : Nat) : Keeps b_ r_ (gateNow c i p) :=
  inStage_keeps h_ fun _ hq => Keeps.ite (gateInput_keeps hq _ _ _) hq

theorem writeGroup_keeps {r_ p : Part} (h_ : Keeps false r_ p) (g : Grp) (path : Path) (v : Nat) : Keeps false r_ (writeGroup g path v p) := by
  refine h_.trans ?_; clear h_; unfold writeGroup; try dsimp only
  repeat' with_reducible first | exact Keeps.refl _ _ | assumption | apply commandWrite_keeps

theorem freezeEnds_keeps {b_ : Bool} {r_ p : Part} (h_ : Keeps b_ r_ p) (c : Chan) : Keeps b_ r_ (freezeEnds c p) := by
  refine h_.trans ?_; clear h_; unfold freezeEnds; try dsimp only
  repeat' first
    | with_reducible first | exact Keeps.refl _ _ | assumption | apply endFreeze_keeps | apply Keeps.ite
    | split

theorem sendHeartbeat_keeps {b_ : Bool} {r_ p : Part} (h_ : Keeps b_ r_ p) : Keeps b_ r_ (sendHeartbeat p) := by
  refine h_.trans ?_; clear h_; unfold sendHeartbeat; try dsimp only
  repeat' first
    | with_reducible first | exact Keeps.refl _ _ | assumption | apply say_keeps | apply Keeps.ite

theorem hearHeartbeat_keeps {b_ : Bool} {r_ p : Part} (h_ : Keeps b_ r_ p) (h : Heartbeat) : Keeps b_ r_ (hearHeartbeat h p) := by
  refine h_.trans ?_; clear h_; unfold hearHeartbeat; try dsimp only
  repeat' first
    | with_reducible first | exact Keeps.refl _ _ | assumption | apply hearTwin_keeps | apply Keeps.ite
    | fail_if_no_progress (with_reducible apply Keeps.mkUpd; (focus with_reducible rfl); iterate 6 (focus rfl))

theorem handshake_keeps {b_ : Bool} {r_ p : Part} (h_ : Keeps b_ r_ p) (x : PeerInfo) : Keeps b_ r_ (handshake x p) := by
  refine h_.trans ?_; clear h_; unfold handshake; try dsimp only
  repeat' first
    | with_reducible first | exact Keeps.refl _ _ | assumption | apply setReg_keeps | apply failJoin_keeps | apply beginJoin_keeps | apply Keeps.ite
    | fail_if_no_progress (with_reducible apply Keeps.mkUpd; (focus with_reducible rfl); iterate 6 (focus rfl))
    | split

theorem beginContent_keeps {b_ : Bool} {r_ p : Part} (h_ : Keeps b_ r_ p) : Keeps b_ r_ (beginContent p) := by
  refine h_.trans ?_; clear h_; unfold beginContent; try dsimp only
  repeat' with_reducible first | exact Keeps.refl _ _ | assumption | apply say_keeps | apply setReg_keeps

theorem beginImage_keeps {b_ : Bool} {r_ p : Part} (h_ : Keeps b_ r_ p) : Keeps b_ r_ (beginImage p) := by
  refine h_.trans ?_; clear h_; unfold beginImage; try dsimp only
  repeat' first
    | with_reducible first | exact Keeps.refl _ _ | assumption | apply setReg_keeps | apply say_keeps | apply Keeps.ite

theorem admitJoined_keeps {b_ : Bool} {r_ p : Part} (h_ : Keeps b_ r_ p) (g : Nat) : Keeps b_ r_ (admitJoined p g) := by
  refine h_.trans ?_; clear h_; unfold admitJoined; try dsimp only
  repeat' first
    | with_reducible first
      | exact Keeps.refl _ _ | assumption | apply setReg_keeps | apply failJoin_keeps | apply reserveGroup_keeps | apply Keeps.ite
    | split

theorem joinImage_keeps {b_ : Bool} {r_ p : Part} (h_ : Keeps b_ r_ p) (i : StateImage) : Keeps b_ r_ (joinImage p i) := by
  refine h_.trans ?_; clear h_; unfold joinImage; try dsimp only
  repeat' first
    | (intro)
    | with_reducible first
      | exact Keeps.refl _ _ | assumption | apply admitJoined_keeps | apply takeImage_keeps | apply setReg_keeps | apply Keeps.ite
      | apply Keeps.fold

theorem beginRings_keeps {b_ : Bool} {r_ p : Part} (h_ : Keeps b_ r_ p) : Keeps b_ r_ (beginRings p) := by
  refine h_.trans ?_; clear h_; unfold beginRings; try dsimp only
  repeat' first
    | (intro)
    | with_reducible first | exact Keeps.refl _ _ | assumption | apply setReg_keeps | apply sendRing_keeps | apply Keeps.ite | apply Keeps.fold

theorem joinDone_keeps {b_ : Bool} {r_ p : Part} (h_ : Keeps b_ r_ p) : Keeps b_ r_ (joinDone p) := by
  refine h_.trans ?_; clear h_; unfold joinDone; try dsimp only
  repeat' first
    | with_reducible first
      | exact Keeps.refl _ _ | assumption | apply beginContent_keeps | apply setReg_keeps | apply beginRings_keeps | apply Keeps.ite
    | fail_if_no_progress (with_reducible apply Keeps.mkUpd; (focus with_reducible rfl); iterate 6 (focus rfl))

theorem joinStep_keeps {b_ : Bool} {r_ p : Part} (h_ : Keeps b_ r_ p) (r : JoinResult) : Keeps b_ r_ (joinStep r p) := by
  refine h_.trans ?_; clear h_; unfold joinStep; try dsimp only
  repeat' first
    | with_reducible first
      | exact Keeps.refl _ _ | assumption | apply failJoin_keeps | apply setReg_keeps | apply joinDone_keeps | apply beginContent_keeps
      | apply takeConfig_keeps | apply beginImage_keeps | apply joinImage_keeps | apply takeRing_keeps | apply Keeps.ite
    | split

theorem writePair_keeps {r_ p : Part} (h_ : Keeps false r_ p) (path : Path) (v : Nat) : Keeps false r_ (writePair path v p) := by
  refine h_.trans ?_; clear h_; unfold writePair; try dsimp only
  repeat' with_reducible first | exact Keeps.refl _ _ | assumption | apply commandWrite_keeps

theorem commitImage_keeps {b_ : Bool} {r_ p : Part} (h_ : Keeps b_ r_ p) (path : Path) (image : FwSlot) : Keeps b_ r_ (commitImage path image p) := by
  refine h_.trans ?_; clear h_; unfold commitImage; try dsimp only
  repeat' first
    | with_reducible first
      | exact Keeps.refl _ _ | assumption | apply fwBegin_keeps | apply logged_keeps | apply tell_keeps | apply Keeps.ite | apply Keeps.ite1
    | split

/-- A command that acts on the part keeps what its effect keeps, and leaves the queue. -/
theorem lift_keeps {f : Part → Part} {s t : State} (h : lift f s = .next t) (hf : Keeps false s.part (f s.part)) :
    Keeps false s.part t.part ∧ t.pending = s.pending := by
  unfold lift at h
  cases h
  refine ⟨?_, rfl⟩
  dsimp only
  split
  · exact .refl _ _
  · exact hf

theorem liftAlways_keeps {f : Part → Part} {s t : State} (h : liftAlways f s = .next t) (hf : Keeps false s.part (f s.part)) :
    Keeps false s.part t.part ∧ t.pending = s.pending := by
  unfold liftAlways at h
  cases h
  exact ⟨hf, rfl⟩

theorem liftSeq_keeps {f : Part → Part} {s t : State} (h : liftSeq f s = .next t) (hf : Keeps false s.part (f s.part)) :
    Keeps false s.part t.part ∧ t.pending = s.pending := by
  unfold liftSeq at h
  split at h
  · cases h
    exact ⟨.refl _ _, rfl⟩
  · dsimp only at h
    split at h
    · cases h
    · cases h
      exact ⟨hf, rfl⟩

/-- Every command that answers a next state keeps what Keeps says, and leaves the queue of the commands that wait. -/
theorem exec_keeps (c : Instr) {s t : State} (h : exec c s = .next t) : Keeps false s.part t.part ∧ t.pending = s.pending := by
  cases c with
  | tickBoundary => rw [exec, execTickBoundary] at h; refine lift_keeps h ?_; apply tickBoundary_keeps; exact .refl _ _
  | decideStage => rw [exec, execDecideStage] at h; refine liftSeq_keeps h ?_; apply decideStage_keeps; exact .refl _ _
  | play => rw [exec, execPlay] at h; refine liftSeq_keeps h ?_; apply runStep_keeps; exact .refl _ _
  | playt => rw [exec, execPlayt] at h; refine liftSeq_keeps h ?_; apply runStep_keeps; exact .refl _ _
  | playtExit => rw [exec, execPlaytExit] at h; refine liftSeq_keeps h ?_; apply runPlayt_keeps; exact .refl _ _
  | loop => rw [exec, execLoop] at h; refine liftSeq_keeps h ?_; apply runStep_keeps; exact .refl _ _
  | endl => rw [exec, execEndl] at h; refine liftSeq_keeps h ?_; apply runStep_keeps; exact .refl _ _
  | call => rw [exec, execCall] at h; refine liftSeq_keeps h ?_; apply runStep_keeps; exact .refl _ _
  | ret => rw [exec, execRet] at h; refine liftSeq_keeps h ?_; apply runStep_keeps; exact .refl _ _
  | jump => rw [exec, execJump] at h; refine liftSeq_keeps h ?_; apply runStep_keeps; exact .refl _ _
  | brev => rw [exec, execBrev] at h; refine liftSeq_keeps h ?_; apply runStep_keeps; exact .refl _ _
  | waitev => rw [exec, execWaitev] at h; refine liftSeq_keeps h ?_; apply runStep_keeps; exact .refl _ _
  | waitevRelease => rw [exec, execWaitevRelease] at h; refine liftSeq_keeps h ?_; apply runWait_keeps; exact .refl _ _
  | waittick => rw [exec, execWaittick] at h; refine liftSeq_keeps h ?_; apply runStep_keeps; exact .refl _ _
  | waittickRelease => rw [exec, execWaittickRelease] at h; refine liftSeq_keeps h ?_; apply runWait_keeps; exact .refl _ _
  | sync => rw [exec, execSync] at h; refine liftSeq_keeps h ?_; apply runStep_keeps; exact .refl _ _
  | syncRelease => rw [exec, execSyncRelease] at h; refine lift_keeps h ?_; exact inStage_keeps (.refl _ _) fun _ hq => syncTick_keeps hq _ _
  | tone => rw [exec, execTone] at h; refine liftSeq_keeps h ?_; apply runStep_keeps; exact .refl _ _
  | fire =>
    rw [exec, execFire] at h
    refine liftSeq_keeps h ?_
    repeat' with_reducible first | exact .refl _ _ | apply runStep_keeps
  | level => rw [exec, execLevel] at h; refine liftSeq_keeps h ?_; apply runStep_keeps; exact .refl _ _
  | lead => rw [exec, execLead] at h; refine liftSeq_keeps h ?_; apply runStep_keeps; exact .refl _ _
  | halt => rw [exec, execHalt] at h; refine liftSeq_keeps h ?_; apply runStep_keeps; exact .refl _ _
  | steppedAdvance => rw [exec, execSteppedAdvance] at h; refine liftSeq_keeps h ?_; apply runWait_keeps; exact .refl _ _
  | jumpTakeEffect => rw [exec, execJumpTakeEffect] at h; refine liftSeq_keeps h ?_; apply runJump_keeps; exact .refl _ _
  | leadPulse => rw [exec, execLeadPulse] at h; refine lift_keeps h ?_; apply pulseLead_keeps; exact .refl _ _
  | retract => rw [exec, execRetract] at h; refine lift_keeps h ?_; apply pulseRetract_keeps; exact .refl _ _
  | traverseStepWrite => rw [exec, execTraverseStepWrite] at h; refine lift_keeps h ?_; apply commandWrite_keeps; exact .refl _ _
  | evClear => rw [exec, execEvClear] at h; refine lift_keeps h ?_; apply commandWrite_keeps; exact .refl _ _
  | planGo => rw [exec, execPlanGo] at h; refine lift_keeps h ?_; apply commandWrite_keeps; exact .refl _ _
  | planTakeEffect => rw [exec, execPlanTakeEffect] at h; refine lift_keeps h ?_; apply planTake_keeps; exact .refl _ _
  | gazetteerWrite w => cases w <;> rw [exec, execGazetteerWrite] at h <;> refine lift_keeps h ?_ <;>
    repeat' with_reducible first | exact .refl _ _ | apply barWrite_keeps | apply commandWrite_keeps
  | bar0StagedWordWrite =>
    rw [exec, execBar0StagedWordWrite] at h
    refine lift_keeps h ?_
    repeat' with_reducible first | exact .refl _ _ | apply barWrite_keeps | apply Keeps.ite
  | bar0SnapshotRead => rw [exec, execBar0SnapshotRead] at h; refine lift_keeps h ?_; apply barRead_keeps; exact .refl _ _
  | bar0CrossingAccess => rw [exec, execBar0CrossingAccess] at h; refine lift_keeps h ?_; apply barCrossing_keeps; exact .refl _ _
  | bar0UnsupportedRequest =>
    rw [exec, execBar0UnsupportedRequest] at h
    refine lift_keeps h ?_
    repeat' with_reducible first | exact .refl _ _ | apply say_keeps | apply Keeps.ite
  | logClear => rw [exec, execLogClear] at h; refine lift_keeps h ?_; apply commandWrite_keeps; exact .refl _ _
  | bpTarget => rw [exec, execBpTarget] at h; refine lift_keeps h ?_; apply commandWrite_keeps; exact .refl _ _
  | bpData p data => cases data <;> rw [exec, execBpData] at h <;> refine lift_keeps h ?_ <;>
    repeat' with_reducible first | exact .refl _ _ | apply commandWrite_keeps | apply readPort_keeps
  | bpCommit => rw [exec, execBpCommit] at h; refine lift_keeps h ?_; apply commandWrite_keeps; exact .refl _ _
  | postDone => rw [exec, execPostDone] at h; refine lift_keeps h ?_; apply setBusy_keeps; exact .refl _ _
  | read =>
    rw [exec, execRead] at h
    refine lift_keeps h ?_
    repeat' with_reducible first | intro _ _ | exact .refl _ _ | assumption | apply request_keeps | apply readItems_keeps | apply reply_keeps
  | write =>
    rw [exec, execWrite] at h
    refine lift_keeps h ?_
    repeat' with_reducible first | intro _ _ | exact .refl _ _ | assumption | apply request_keeps | apply writeItems_keeps | apply replyItems_keeps
  | writeBlock =>
    rw [exec, execWriteBlock] at h
    refine lift_keeps h ?_
    repeat' with_reducible first | intro _ _ | exact .refl _ _ | assumption | apply request_keeps | apply writeBlockFrame_keeps
  | subscribe =>
    rw [exec, execSubscribe] at h
    refine lift_keeps h ?_
    repeat' with_reducible first | intro _ _ | exact .refl _ _ | assumption | apply request_keeps | apply subscribeFrame_keeps
  | publication => rw [exec, execPublication] at h; refine lift_keeps h ?_; apply publish_keeps; exact .refl _ _
  | announce => rw [exec, execAnnounce] at h; refine lift_keeps h ?_; apply hearAnnounce_keeps; exact .refl _ _
  | announceSend => rw [exec, execAnnounceSend] at h; refine lift_keeps h ?_; apply sendAnnounce_keeps; exact .refl _ _
  | partnerLost => rw [exec, execPartnerLost] at h; refine lift_keeps h ?_; apply partnerTimeout_keeps; exact .refl _ _
  | discover =>
    rw [exec, execDiscover] at h
    refine lift_keeps h ?_
    repeat' with_reducible first | intro _ _ | exact .refl _ _ | assumption | apply request_keeps | apply takeDiscover_keeps
  | discoverReply => rw [exec, execDiscoverReply] at h; refine lift_keeps h ?_; apply answerDiscover_keeps; exact .refl _ _
  | fireRequest =>
    rw [exec, execFireRequest] at h
    refine lift_keeps h ?_
    repeat' with_reducible first | intro _ _ | exact .refl _ _ | assumption | apply request_keeps | apply atCyc_keeps | apply fireFrame_keeps
  | attest =>
    rw [exec, execAttest] at h
    refine lift_keeps h ?_
    repeat' with_reducible first | intro _ _ | exact .refl _ _ | assumption | apply request_keeps | apply attestFrame_keeps
  | lldpSend => rw [exec, execLldpSend] at h; refine lift_keeps h ?_; apply sendLldp_keeps; exact .refl _ _
  | lldpReceive => rw [exec, execLldpReceive] at h; refine lift_keeps h ?_; apply takeLldp_keeps; exact .refl _ _
  | ptpSyncExchange =>
    rw [exec, execPtpSyncExchange] at h
    refine lift_keeps h ?_
    repeat' with_reducible first | exact .refl _ _ | apply ptpMessage_keeps | apply atCyc_keeps | apply ptpSync_keeps
  | ptpAnnounceReceive =>
    rw [exec, execPtpAnnounceReceive] at h
    refine lift_keeps h ?_
    repeat' with_reducible first | exact .refl _ _ | apply ptpMessage_keeps | apply hearMaster_keeps
  | ptpMasterLost => rw [exec, execPtpMasterLost] at h; refine lift_keeps h ?_; apply loseMaster_keeps; exact .refl _ _
  | ppsInEdge =>
    rw [exec, execPpsInEdge] at h
    refine lift_keeps h ?_
    repeat' with_reducible first | exact .refl _ _ | apply ppsEdge_keeps | apply atCyc_keeps
  | ppsInMissing =>
    rw [exec, execPpsInMissing] at h
    refine lift_keeps h ?_
    repeat' with_reducible first | exact .refl _ _ | apply ppsMissing_keeps | apply atCyc_keeps
  | holdoverLimit =>
    rw [exec, execHoldoverLimit] at h
    refine lift_keeps h ?_
    repeat' with_reducible first | exact .refl _ _ | apply judgeHoldover_keeps | apply atCyc_keeps
  | slewEnd => rw [exec, execSlewEnd] at h; refine lift_keeps h ?_; apply endSlew_keeps; exact .refl _ _
  | datumStep => rw [exec, execDatumStep] at h; refine lift_keeps h ?_; apply applyStep_keeps; exact .refl _ _
  | refinLost =>
    rw [exec, execRefinLost] at h
    refine lift_keeps h ?_
    repeat' with_reducible first | exact .refl _ _ | apply loseRefin_keeps | apply atCyc_keeps
  | refinReturn => rw [exec, execRefinReturn] at h; refine lift_keeps h ?_; apply returnRefin_keeps; exact .refl _ _
  | sampleClockLost => rw [exec, execSampleClockLost] at h; refine lift_keeps h ?_; apply loseClock_keeps; exact .refl _ _
  | tickDriftMeasure => rw [exec, execTickDriftMeasure] at h; refine lift_keeps h ?_; apply measureDrift_keeps; exact .refl _ _
  | fsKhzWrite => rw [exec, execFsKhzWrite] at h; refine lift_keeps h ?_; apply commandWrite_keeps; exact .refl _ _
  | clockRelocked => rw [exec, execClockRelocked] at h; refine lift_keeps h ?_; apply clockRelocks_keeps; exact .refl _ _
  | epochWrite => rw [exec, execEpochWrite] at h; refine lift_keeps h ?_; apply commandWrite_keeps; exact .refl _ _
  | datumSet => rw [exec, execDatumSet] at h; refine lift_keeps h ?_; apply commandWrite_keeps; exact .refl _ _
  | graticuleAligned => rw [exec, execGraticuleAligned] at h; refine lift_keeps h ?_; apply alignGraticule_keeps; exact .refl _ _
  | ppsOutEdge => rw [exec, execPpsOutEdge] at h; refine lift_keeps h ?_; apply secondEdge_keeps; exact .refl _ _
  | syncInEdge => rw [exec, execSyncInEdge] at h; refine lift_keeps h ?_; apply syncEdge_keeps; exact .refl _ _
  | alarmEnable => rw [exec, execAlarmEnable] at h; refine lift_keeps h ?_; apply commandWrite_keeps; exact .refl _ _
  | alarm => rw [exec, execAlarm] at h; refine lift_keeps h ?_; apply fireAlarm_keeps; exact .refl _ _
  | presenceAssert => rw [exec, execPresenceAssert] at h; refine lift_keeps h ?_; apply openPresence_keeps; exact .refl _ _
  | presenceWindowClose => rw [exec, execPresenceWindowClose] at h; refine lift_keeps h ?_; apply closePresence_keeps; exact .refl _ _
  | tamper => rw [exec, execTamper] at h; refine lift_keeps h ?_; apply breakSeal_keeps; exact .refl _ _
  | evioInEdge => rw [exec, execEvioInEdge] at h; refine lift_keeps h ?_; apply padEdge_keeps; exact .refl _ _
  | eventChannelAssert => rw [exec, execEventChannelAssert] at h; refine lift_keeps h ?_; apply assertNext_keeps; exact .refl _ _
  | evioPulseEnd => rw [exec, execEvioPulseEnd] at h; refine lift_keeps h ?_; apply endPulse_keeps; exact .refl _ _
  | fireMask =>
    rw [exec, execFireMask] at h
    refine lift_keeps h ?_
    repeat' with_reducible first | exact .refl _ _ | apply commandWrite_keeps | apply atCyc_keeps
  | timedFire =>
    rw [exec, execTimedFire] at h
    refine lift_keeps h ?_
    repeat' with_reducible first | exact .refl _ _ | apply fireTick_keeps | apply atCyc_keeps
  | segDescWrite => rw [exec, execSegDescWrite] at h; refine lift_keeps h ?_; apply commandWrite_keeps; exact .refl _ _
  | edgeStoreWrite => rw [exec, execEdgeStoreWrite] at h; refine lift_keeps h ?_; apply commandBulk_keeps; exact .refl _ _
  | bar4Write =>
    rw [exec, execBar4Write] at h
    refine lift_keeps h ?_
    repeat' with_reducible first | exact .refl _ _ | apply bar4Store_keeps | apply Keeps.ite
  | bar4Read =>
    rw [exec, execBar4Read] at h
    refine lift_keeps h ?_
    repeat' with_reducible first | exact .refl _ _ | apply bar4Load_keeps | apply say_keeps | apply Keeps.ite
  | ldGo => rw [exec, execLdGo] at h; refine lift_keeps h ?_; apply commandWrite_keeps; exact .refl _ _
  | loadDmaDone => rw [exec, execLoadDmaDone] at h; refine lift_keeps h ?_; apply finishLoad_keeps; exact .refl _ _
  | upData => rw [exec, execUpData] at h; refine lift_keeps h ?_; apply commandBulk_keeps; exact .refl _ _
  | toneGateMute => rw [exec, execToneGateMute] at h; refine lift_keeps h ?_; apply gateNow_keeps; exact .refl _ _
  | toneGateUnmute => rw [exec, execToneGateUnmute] at h; refine lift_keeps h ?_; apply gateNow_keeps; exact .refl _ _
  | pacedPush => rw [exec, execPacedPush] at h; refine lift_keeps h ?_; apply commandWrite_keeps; exact .refl _ _
  | pacedFlush => rw [exec, execPacedFlush] at h; refine lift_keeps h ?_; apply commandWrite_keeps; exact .refl _ _
  | pacedApply => rw [exec, execPacedApply] at h; refine lift_keeps h ?_; exact inStage_keeps (.refl _ _) fun _ hq => pacedTick_keeps hq _ _
  | arm => rw [exec, execArm] at h; refine lift_keeps h ?_; apply writeGroup_keeps; exact .refl _ _
  | start => rw [exec, execStart] at h; refine lift_keeps h ?_; apply writeGroup_keeps; exact .refl _ _
  | stop => rw [exec, execStop] at h; refine lift_keeps h ?_; apply writeGroup_keeps; exact .refl _ _
  | restart => rw [exec, execRestart] at h; refine lift_keeps h ?_; apply writeGroup_keeps; exact .refl _ _
  | strobe => rw [exec, execStrobe] at h; refine lift_keeps h ?_; apply writeGroup_keeps; exact .refl _ _
  | disarm => rw [exec, execDisarm] at h; refine lift_keeps h ?_; apply writeGroup_keeps; exact .refl _ _
  | lgStrobeAt => rw [exec, execLgStrobeAt] at h; refine lift_keeps h ?_; apply commandWrite_keeps; exact .refl _ _
  | groupStart => rw [exec, execGroupStart] at h; refine lift_keeps h ?_; apply startGroup_keeps; exact .refl _ _
  | groupStop => rw [exec, execGroupStop] at h; refine lift_keeps h ?_; apply stopGroup_keeps; exact .refl _ _
  | groupRestart => rw [exec, execGroupRestart] at h; refine lift_keeps h ?_; apply restartGroup_keeps; exact .refl _ _
  | loadStrobe => rw [exec, execLoadStrobe] at h; refine lift_keeps h ?_; apply strobeGroup_keeps; exact .refl _ _
  | outputPark => rw [exec, execOutputPark] at h; refine lift_keeps h ?_; apply taskPark_keeps; exact .refl _ _
  | spanRampStart => rw [exec, execSpanRampStart] at h; refine lift_keeps h ?_; apply spanRamp_keeps; exact .refl _ _
  | spanRampEnd => rw [exec, execSpanRampEnd] at h; refine lift_keeps h ?_; apply spanHold_keeps; exact .refl _ _
  | spanReady => rw [exec, execSpanReady] at h; refine lift_keeps h ?_; apply spanDone_keeps; exact .refl _ _
  | channelFault => rw [exec, execChannelFault] at h; refine lift_keeps h ?_; apply channelFault_keeps; exact .refl _ _
  | faultClear => rw [exec, execFaultClear] at h; refine lift_keeps h ?_; apply commandWrite_keeps; exact .refl _ _
  | vddoLow => rw [exec, execVddoLow] at h; refine lift_keeps h ?_; apply vddoFalls_keeps; exact .refl _ _
  | trimSwap => rw [exec, execTrimSwap] at h; refine lift_keeps h ?_; apply trimSwap_keeps; exact .refl _ _
  | trimFreezeReq => rw [exec, execTrimFreezeReq] at h; refine lift_keeps h ?_; apply commandWrite_keeps; exact .refl _ _
  | trimFreezeEnd => rw [exec, execTrimFreezeEnd] at h; refine lift_keeps h ?_; apply freezeEnds_keeps; exact .refl _ _
  | trimForced => rw [exec, execTrimForced] at h; refine lift_keeps h ?_; apply trimEstimate_keeps; exact .refl _ _
  | watchReading => rw [exec, execWatchReading] at h; refine lift_keeps h ?_; apply watchRead_keeps; exact .refl _ _
  | watchVerdict => rw [exec, execWatchVerdict] at h; refine lift_keeps h ?_; apply watchCompare_keeps; exact .refl _ _
  | watchCauseClear => rw [exec, execWatchCauseClear] at h; refine lift_keeps h ?_; apply commandWrite_keeps; exact .refl _ _
  | sqEnable => rw [exec, execSqEnable] at h; refine lift_keeps h ?_; apply commandWrite_keeps; exact .refl _ _
  | dbTail => rw [exec, execDbTail] at h; refine lift_keeps h ?_; apply bar2_keeps; exact .refl _ _
  | streamDescFetch => rw [exec, execStreamDescFetch] at h; refine lift_keeps h ?_; apply fetchDescs_keeps; exact .refl _ _
  | streamDescComplete => rw [exec, execStreamDescComplete] at h; refine lift_keeps h ?_; apply completeDesc_keeps; exact .refl _ _
  | completionTimeout => rw [exec, execCompletionTimeout] at h; refine lift_keeps h ?_; apply timeout_keeps; exact .refl _ _
  | hostLost => rw [exec, execHostLost] at h; refine lift_keeps h ?_; apply hostEvent_keeps; exact .refl _ _
  | sqNetData => rw [exec, execSqNetData] at h; refine lift_keeps h ?_; apply commandBulk_keeps; exact .refl _ _
  | sqFlush => rw [exec, execSqFlush] at h; refine lift_keeps h ?_; apply commandWrite_keeps; exact .refl _ _
  | dramTrainingDone => rw [exec, execDramTrainingDone] at h; refine lift_keeps h ?_; apply trainingDone_keeps; exact .refl _ _
  | dramRequest => rw [exec, execDramRequest] at h; refine lift_keeps h ?_; apply acceptAccess_keeps; exact .refl _ _
  | dramCommandSlot =>
    rw [exec, execDramCommandSlot] at h
    refine lift_keeps h ?_
    repeat' with_reducible first | exact .refl _ _ | apply commandSlot_keeps | apply atCyc_keeps
  | rowIdleClose => rw [exec, execRowIdleClose] at h; refine lift_keeps h ?_; apply idleClose_keeps; exact .refl _ _
  | refreshDue => rw [exec, execRefreshDue] at h; refine lift_keeps h ?_; apply refreshDue_keeps; exact .refl _ _
  | deviceTempRead => rw [exec, execDeviceTempRead] at h; refine lift_keeps h ?_; apply tempRead_keeps; exact .refl _ _
  | dqsOscRead =>
    rw [exec, execDqsOscRead] at h
    refine lift_keeps h ?_
    repeat' with_reducible first | exact .refl _ _ | apply oscRead_keeps | apply atCyc_keeps
  | retrainPause =>
    rw [exec, execRetrainPause] at h
    refine lift_keeps h ?_
    repeat' with_reducible first | exact .refl _ _ | apply pauseDue_keeps | apply atCyc_keeps
  | quietReq => rw [exec, execQuietReq] at h; refine lift_keeps h ?_; apply commandWrite_keeps; exact .refl _ _
  | quietWindowEnd => rw [exec, execQuietWindowEnd] at h; refine lift_keeps h ?_; apply quietEnd_keeps; exact .refl _ _
  | selfRefreshEnter => rw [exec, execSelfRefreshEnter] at h; refine lift_keeps h ?_; apply enterSelfRefresh_keeps; exact .refl _ _
  | selfRefreshExit => rw [exec, execSelfRefreshExit] at h; refine lift_keeps h ?_; apply exitSelfRefresh_keeps; exact .refl _ _
  | alertN => rw [exec, execAlertN] at h; refine lift_keeps h ?_; apply alert_keeps; exact .refl _ _
  | scrub => rw [exec, execScrub] at h; refine lift_keeps h ?_; apply scrubLine_keeps; exact .refl _ _
  | zeroFill => rw [exec, execZeroFill] at h; refine lift_keeps h ?_; apply fillStep_keeps; exact .refl _ _
  | zeroFillDone => rw [exec, execZeroFillDone] at h; refine lift_keeps h ?_; apply fillDone_keeps; exact .refl _ _
  | admissionVerdict => rw [exec, execAdmissionVerdict] at h; refine lift_keeps h ?_; apply giveVerdict_keeps; exact .refl _ _
  | heartbeatSend => rw [exec, execHeartbeatSend] at h; refine lift_keeps h ?_; apply sendHeartbeat_keeps; exact .refl _ _
  | heartbeatReceive => rw [exec, execHeartbeatReceive] at h; refine lift_keeps h ?_; apply hearHeartbeat_keeps; exact .refl _ _
  | twinLost => rw [exec, execTwinLost] at h; refine lift_keeps h ?_; apply loseTwin_keeps; exact .refl _ _
  | captureLogSend => rw [exec, execCaptureLogSend] at h; refine lift_keeps h ?_; apply sendLog_keeps; exact .refl _ _
  | captureLogReceive =>
    rw [exec, execCaptureLogReceive] at h
    refine lift_keeps h ?_
    repeat' with_reducible first | exact .refl _ _ | apply receiveLog_keeps | apply atCyc_keeps
  | lostTick => rw [exec, execLostTick] at h; refine lift_keeps h ?_; apply loseTick_keeps; exact .refl _ _
  | mirrorWriteRecord => rw [exec, execMirrorWriteRecord] at h; refine lift_keeps h ?_; apply mirrorWrite_keeps; exact .refl _ _
  | mirrorRingBytes => rw [exec, execMirrorRingBytes] at h; refine lift_keeps h ?_; apply mirrorBytes_keeps; exact .refl _ _
  | cutoffRecord => rw [exec, execCutoffRecord] at h; refine lift_keeps h ?_; apply cutoffRecord_keeps; exact .refl _ _
  | digestCompare =>
    rw [exec, execDigestCompare] at h
    refine lift_keeps h ?_
    repeat' with_reducible first | exact .refl _ _ | apply compareDigest_keeps | apply atCyc_keeps
  | driveInChange => rw [exec, execDriveInChange] at h; refine lift_keeps h ?_; apply driveIn_keeps; exact .refl _ _
  | driveContention => rw [exec, execDriveContention] at h; refine lift_keeps h ?_; apply contend_keeps; exact .refl _ _
  | join => rw [exec, execJoin] at h; refine lift_keeps h ?_; apply writePair_keeps; exact .refl _ _
  | leave => rw [exec, execLeave] at h; refine lift_keeps h ?_; apply writePair_keeps; exact .refl _ _
  | handover => rw [exec, execHandover] at h; refine lift_keeps h ?_; apply writePair_keeps; exact .refl _ _
  | force => rw [exec, execForce] at h; refine lift_keeps h ?_; apply writePair_keeps; exact .refl _ _
  | driveRelease =>
    rw [exec, execDriveRelease] at h
    refine lift_keeps h ?_
    repeat' with_reducible first | exact .refl _ _ | apply tryShutdown_keeps | apply releaseDrive_keeps
  | takeover =>
    rw [exec, execTakeover] at h
    refine lift_keeps h ?_
    repeat' with_reducible first | exact .refl _ _ | apply tryShutdown_keeps | apply takeOver_keeps
  | joinHandshake => rw [exec, execJoinHandshake] at h; refine lift_keeps h ?_; apply handshake_keeps; exact .refl _ _
  | joinStepDone => rw [exec, execJoinStepDone] at h; refine lift_keeps h ?_; apply joinStep_keeps; exact .refl _ _
  | powerOn => rw [exec, execPowerOn] at h; refine liftAlways_keeps h ?_; apply powerOn_keeps; exact .refl _ _
  | rstN => rw [exec, execRstN] at h; refine liftAlways_keeps h ?_; apply resetPin_keeps; exact .refl _ _
  | supplyMonitorReset => rw [exec, execSupplyMonitorReset] at h; refine lift_keeps h ?_; apply supplyReset_keeps; exact .refl _ _
  | resetCmd => rw [exec, execResetCmd] at h; refine lift_keeps h ?_; apply commandWrite_keeps; exact .refl _ _
  | startup => rw [exec, execStartup] at h; refine lift_keeps h ?_; apply startUp_keeps; exact .refl _ _
  | fwImage => rw [exec, execFwImage] at h; refine lift_keeps h ?_; apply commitImage_keeps; exact .refl _ _
  | fwActivate => rw [exec, execFwActivate] at h; refine lift_keeps h ?_; apply commandWrite_keeps; exact .refl _ _
  | nvCommit => rw [exec, execNvCommit] at h; refine lift_keeps h ?_; apply commandWrite_keeps; exact .refl _ _
  | nvCommitDone => rw [exec, execNvCommitDone] at h; refine lift_keeps h ?_; apply nvFinish_keeps; exact .refl _ _
  | shdnNAssert => rw [exec, execShdnNAssert] at h; refine liftAlways_keeps h ?_; apply assertShdn_keeps; exact .refl _ _
  | shdnNRelease => rw [exec, execShdnNRelease] at h; refine liftAlways_keeps h ?_; apply releaseShdn_keeps; exact .refl _ _
  | run => rw [exec, execRun] at h; refine lift_keeps h ?_; apply commandWrite_keeps; exact .refl _ _
  | abort => rw [exec, execAbort] at h; refine lift_keeps h ?_; apply commandWrite_keeps; exact .refl _ _
  | selftestPhaseDone => rw [exec, execSelftestPhaseDone] at h; refine lift_keeps h ?_; apply phaseDone_keeps; exact .refl _ _
  | selftestEnd => rw [exec, execSelftestEnd] at h; refine lift_keeps h ?_; apply endTest_keeps; exact .refl _ _
  | lcGo => rw [exec, execLcGo] at h; refine lift_keeps h ?_; apply commandWrite_keeps; exact .refl _ _
  | lcTransitionDone => rw [exec, execLcTransitionDone] at h; refine lift_keeps h ?_; apply lcFinish_keeps; exact .refl _ _
  | attNonce => rw [exec, execAttNonce] at h; refine lift_keeps h ?_; apply commandWrite_keeps; exact .refl _ _
  | attSignDone => rw [exec, execAttSignDone] at h; refine lift_keeps h ?_; apply attFinish_keeps; exact .refl _ _
  | sampleClockReturn => rw [exec, execSampleClockReturn] at h; refine lift_keeps h ?_; apply returnClock_keeps; exact .refl _ _
  | syncInMissing => rw [exec, execSyncInMissing] at h; refine lift_keeps h ?_; apply syncMissing_keeps; exact .refl _ _
  | powerLoss => rw [exec, execPowerLoss] at h; refine liftAlways_keeps h ?_; apply powerLoss_keeps; exact .refl _ _
  | plRxBad =>
    rw [exec, execPlRxBad] at h
    refine lift_keeps h ?_
    repeat' with_reducible first | exact .refl _ _ | apply addReg_keeps | apply Keeps.ite
  | fwUpdateDone => rw [exec, execFwUpdateDone] at h; refine lift_keeps h ?_; apply fwFinish_keeps; exact .refl _ _
  | ptpMasterAnnounce => rw [exec, execPtpMasterAnnounce] at h; refine lift_keeps h ?_; apply sendPtpAnnounce_keeps; exact .refl _ _
  | writeOnlyRead => rw [exec, execWriteOnlyRead] at h; refine lift_keeps h ?_; apply barRead_keeps; exact .refl _ _

end Sys2Proof.Machine
end

