-- ==== Sys2Proof/Tests/Witnesses.lean ====
section
/-!
SUPPORT. Small states for the tests, and for every statement about the sequencers a state and operands that meet its hypotheses together, for each of
its clauses.
-/

namespace Sys2Proof.Tests

open Sys2Proof.Machine

/-- The part at reset with these values in force. -/
def withRegs (l : List (Nat × Nat)) : Part := l.foldl (fun p e => setReg p e.1 e.2) Part.cold

/-- A state with this part and no command waiting. -/
def st (p : Part) : State := ⟨[], p⟩

/-- A write that the part takes, decided. -/
def takesB (p : Part) (path : Path) (k v : Nat) : Bool :=
  match entryOf k with
  | none => false
  | some e => reaches p path (k / 256) && decide (checkWrite (cleared p path k) e k (keptBits e (reg (cleared p path k) k) v) false true = 0) &&
      !(mirrored e k && forwards (cleared p path k))

theorem takes_of {p : Part} {path : Path} {k v : Nat} (h : takesB p path k v = true) : Takes p path k v := by
  unfold takesB at h
  split at h
  · cases h
  · rename_i e he
    simp only [Bool.and_eq_true, decide_eq_true_eq, Bool.not_eq_true'] at h
    exact ⟨e, he, h.1.1, h.1.2, fun x => by simp [x.1, x.2] at h⟩

/-- A bulk object that the part takes, decided. -/
def takesBulkB (p : Part) (path : Path) (k : Nat) : Bool :=
  match entryOf k with
  | none => false
  | some e => reaches p path (k / 256) && decide (checkWrite p e k 0 false true = 0) && !(mirrored e k && forwards p && (keyQueue k).isNone)

theorem takesBulk_of {p : Part} {path : Path} {k : Nat} (h : takesBulkB p path k = true) : TakesBulk p path k := by
  unfold takesBulkB at h
  split at h
  · cases h
  · rename_i e he
    simp only [Bool.and_eq_true, decide_eq_true_eq, Bool.not_eq_true'] at h
    exact ⟨e, he, h.1.1, h.1.2, fun x => by simp [x.1, x.2.1, x.2.2] at h⟩

theorem withRegs_seqs (l : List (Nat × Nat)) : (withRegs l).seqs = Part.cold.seqs := by
  unfold withRegs
  generalize Part.cold = p
  induction l generalizing p with
  | nil => rfl
  | cons e r ih => exact ih _

theorem seqOf_cold (d : Chan) : seqOf Part.cold d = Seq.idle := by
  show (Vector.replicate 256 Seq.idle).get d = Seq.idle
  simp [Vector.get]

theorem seqOf_withRegs (l : List (Nat × Nat)) (d : Chan) : seqOf (withRegs l) d = Seq.idle := by
  unfold seqOf
  rw [withRegs_seqs]
  exact seqOf_cold d

/-- The part with its present decide stage open. -/
def staged (p : Part) : Part := { p with time := { p.time with opened := planTick p } }

/-- Channel 0 of a part stands as a sequencer says; the others are off, and the decide stage is open. -/
def alone (l : List (Nat × Nat)) (x : Seq) : Part := staged (setSeq (withRegs l) 0 x)

theorem alone_others (l : List (Nat × Nat)) (x : Seq) : OthersMove (alone l x) 0 := by
  intro d hd pc w
  show (seqOf (setSeq (withRegs l) 0 x) d).act ≠ _
  rw [seqOf_setSeq_ne (h := hd), seqOf_withRegs]
  intro h; cases h

/-- Channel 0 is about to execute step pc at sample 500, with four steps in its allocation. -/
def atStep (pc : Nat) (x : Seq) : Part := alone [(G.trvSize 0, 4)] { x with act := .run pc, at_ := 500 }

/-- A pulse captured in tick 0 and latched at input i of channel 0. -/
def latched (i : Nat) (p : Part) : Part := { p with fab := { p.fab with latches := kput (chLatch 0 i) ⟨⟨0, 7, 1, 0⟩, 4⟩ p.fab.latches } }

/-- The part in tick k, with the decide stage of that tick open. -/
def inTick (k : Nat) (p : Part) : Part := staged { p with time := { p.time with tick := k } }

theorem witness_step : ∃ s c pc, awake s ∧ AtStep s.part c pc :=
  ⟨st (atStep 1 Seq.idle), 0, 1, rfl, ⟨rfl, by decide⟩, by decide, by decide, by decide, by decide, by decide, alone_others _ _⟩

/-- A PLAYT of descriptor 1 with 100 samples stands at the end of a repetition, at sample 800 of the planned tick 3. -/
def playing : Part :=
  let p := alone [] { Seq.idle with act := .play ⟨1, 1, 700, 0, none, false, 1, true, false, 800, none⟩, at_ := 800 }
  latched 0 (inTick 1 { p with mem := { p.mem with descs := [(1, 100 * 2 ^ 32)] } })

theorem witness_PlaysBeginAndEndAtTheirSeam : ∃ x u, awake (st playing) ∧ StageOpen playing ∧ (seqOf playing 0).act = .play x ∧ OthersMove playing 0 ∧
    x.left = none ∧ x.exitAt = none ∧ x.exitTick = false ∧ x.short = false ∧ (seqOf playing 0).ep = none ∧
    (seqOf playing 0).at_ = x.start + (descOf playing x.d).length * max 1 (interpOf playing 0) ∧ (seqOf playing 0).at_ < 250 * (planTick playing + 1) ∧
    earliest (readyLatches playing 0 x.evm (planTick playing)) = some u ∧ 250 * (u.tick + 3) ≤ (seqOf playing 0).at_ ∧
    playing.strm.open_.filter (fun e => e.2.1 = 0) = [] :=
  ⟨_, _, rfl, ⟨rfl, by decide⟩, rfl, alone_others _ _, rfl, rfl, rfl, rfl, rfl, by decide, by decide, rfl, by decide, rfl⟩

/-- Step 2 of the program of channel 0 is an ENDL, its Waypoint 0 is step 3. -/
def looping (x : Seq) : Part :=
  let p := alone [(G.trvSize 0, 4), (G.wpTable 0, 2 ^ 31 + 3)] { x with act := .run 1, at_ := 500 }
  { p with mem := { p.mem with trav := [(2, 4)] } }

theorem witness_LoopsAndBranchesMoveThePosition :
    (∃ s e, awake s ∧ AtStep s.part 0 1 ∧ (seqOf s.part 0).loops.length < 8 ∧ findEndl s.part 0 (planned s.part (G.trvSize 0)) 2 0 = some e) ∧
    (∃ s e r, awake s ∧ AtStep s.part 0 1 ∧ (seqOf s.part 0).loops = e :: r) ∧
    (∃ s o, awake s ∧ AtStep s.part 0 1 ∧ targetOffset s.part 0 (.waypoint 0) = some o) ∧
    (∃ s, awake s ∧ AtStep s.part 0 1 ∧ readyLatches s.part 0 255 (planTick s.part) = []) ∧
    (∃ s o, awake s ∧ AtStep s.part 0 1 ∧ readyLatches s.part 0 1 (planTick s.part) ≠ [] ∧ targetOffset s.part 0 (.offset 0) = some o) := by
  refine ⟨⟨st (looping { Seq.idle with loops := List.replicate 7 ⟨1, 2, none⟩ }), 2, rfl, ?_, by decide, by decide⟩,
    ⟨st (looping { Seq.idle with loops := [⟨1, 2, some 1⟩] }), _, _, rfl, ?_, rfl⟩, ⟨st (looping Seq.idle), 3, rfl, ?_, by decide⟩,
    ⟨st (looping Seq.idle), rfl, ?_, by decide⟩, ⟨st (latched 0 (inTick 1 (atStep 1 Seq.idle))), 0, rfl, ?_, by decide, by decide⟩⟩
  all_goals exact ⟨⟨rfl, by decide⟩, by decide, by decide, by decide, by decide, by decide, alone_others _ _⟩

theorem witness_CallsReturnWhereTheyCameFrom :
    (∃ s o, awake s ∧ AtStep s.part 0 1 ∧ targetOffset s.part 0 (.offset 9) = some o ∧ (seqOf s.part 0).calls.length < 8) ∧
    (∃ s e r, awake s ∧ AtStep s.part 0 1 ∧ (seqOf s.part 0).calls = e :: r) :=
  ⟨⟨st (atStep 1 { Seq.idle with calls := List.replicate 7 ⟨1, 0⟩ }), 9, rfl,
    ⟨⟨rfl, by decide⟩, by decide, by decide, by decide, by decide, by decide, alone_others _ _⟩, rfl, by decide⟩,
   ⟨st (atStep 1 { Seq.idle with calls := [⟨3, 0⟩] }), _, _, rfl,
    ⟨⟨rfl, by decide⟩, by decide, by decide, by decide, by decide, by decide, alone_others _ _⟩, rfl⟩⟩

/-- Channel 0 waits since sample 500 for what a wait says; a pulse of tick 0 is latched at its input 0. -/
def waiting (w : WaitFor) (rel : Option Nat) : Part :=
  latched 0 (inTick 1 (alone [(G.stepAdvMask 0, 1)] { Seq.idle with act := .wait ⟨1, 2, 500, 0, w, rel⟩, at_ := 750 }))

theorem witness_WaitsHoldAndRelease :
    (∃ s w t, awake s ∧ StageOpen s.part ∧ (seqOf s.part 0).act = .wait w ∧ (seqOf s.part 0).at_ < 250 * (planTick s.part + 1) ∧ pendingJumps s.part 0 = [] ∧
      OthersMove s.part 0 ∧ w.what = .tick ∧ w.rel = some t ∧ max (seqOf s.part 0).at_ t < 250 * (planTick s.part + 1)) ∧
    (∃ s w u, awake s ∧ StageOpen s.part ∧ (seqOf s.part 0).act = .wait w ∧ (seqOf s.part 0).at_ < 250 * (planTick s.part + 1) ∧ pendingJumps s.part 0 = [] ∧
      OthersMove s.part 0 ∧ w.what = .event 1 true true 5 ∧ w.rel = none ∧ earliest (readyLatches s.part 0 1 (planTick s.part)) = some u ∧
      max (seqOf s.part 0).at_ (max w.since (actionInstant u 5 true)) < 250 * (planTick s.part + 1)) ∧
    (∃ s w u, awake s ∧ StageOpen s.part ∧ (seqOf s.part 0).act = .wait w ∧ (seqOf s.part 0).at_ < 250 * (planTick s.part + 1) ∧ pendingJumps s.part 0 = [] ∧
      OthersMove s.part 0 ∧ w.what = .stepped ∧ w.rel = none ∧ planned s.part (G.stepEarly 0) ≠ 1 ∧
      earliest (readyLatches s.part 0 (planned s.part (G.stepAdvMask 0)) (planTick s.part)) = some u ∧
      max (seqOf s.part 0).at_ (max w.since (actionInstant u (planned s.part (G.stepDelay 0)) (planned s.part (G.stepAnchor 0) = 1))) <
        250 * (planTick s.part + 1)) :=
  ⟨⟨st (waiting .tick (some 999)), _, _, rfl, ⟨rfl, by decide⟩, rfl, by decide, by decide, alone_others _ _, rfl, rfl, by decide⟩,
   ⟨st (waiting (.event 1 true true 5) none), _, ⟨0, 7, 1, 0⟩, rfl, ⟨rfl, by decide⟩, rfl, by decide, by decide, alone_others _ _, rfl, rfl, by decide, by decide⟩,
   ⟨st (waiting .stepped none), _, ⟨0, 7, 1, 0⟩, rfl, ⟨rfl, by decide⟩, rfl, by decide, by decide, alone_others _ _, rfl, rfl, by decide, by decide, by decide⟩⟩

theorem witness_UnadmittedStepsStop :
    (∃ s, awake s ∧ AtStep s.part 0 1 ∧ 8 ≤ (seqOf s.part 0).loops.length ∧ 8 ≤ (seqOf s.part 0).calls.length) ∧
    (∃ s, awake s ∧ AtStep s.part 0 1 ∧ (seqOf s.part 0).loops = [] ∧ (seqOf s.part 0).calls = [] ∧
      findEndl s.part 0 (planned s.part (G.trvSize 0)) 2 0 = none ∧ targetOffset s.part 0 (.waypoint 1) = none) :=
  ⟨⟨st (atStep 1 { Seq.idle with loops := List.replicate 8 ⟨1, 2, none⟩, calls := List.replicate 8 ⟨1, 0⟩ }), rfl,
    ⟨⟨rfl, by decide⟩, by decide, by decide, by decide, by decide, by decide, alone_others _ _⟩, by decide, by decide⟩,
   ⟨st (atStep 1 Seq.idle), rfl, ⟨⟨rfl, by decide⟩, by decide, by decide, by decide, by decide, by decide, alone_others _ _⟩, rfl, rfl, by decide, by decide⟩⟩

/-- A jump to Waypoint 0, valid, is latched at input 0 of channel 0 and has reached its instant at sample 800. -/
def jumping : Part :=
  let p := alone [(G.trvSize 0, 4), (G.wpTable 0, 2 ^ 31 + 3)] { Seq.idle with act := .run 1, at_ := 800 }
  inTick 1 { p with fab := { p.fab with latches := [(chLatch 0 8, ⟨⟨0, 7, 1, 0⟩, 4⟩)] } }

theorem witness_JumpsTakeEffectAtTheBoundary : ∃ j o, awake (st jumping) ∧ StageOpen jumping ∧ (seqOf jumping 0).act = .run 1 ∧
    (seqOf jumping 0).at_ < 250 * (planTick jumping + 1) ∧ (seqOf jumping 0).ep = none ∧ OthersMove jumping 0 ∧
    jumpAtBoundary jumping 0 (seqOf jumping 0).at_ (seqOf jumping 0).seam = some j ∧ waypoint jumping 0 j.wp = some o :=
  ⟨⟨0, 750, false, 0, 0⟩, 3, rfl, ⟨rfl, by decide⟩, rfl, by decide, rfl, alone_others _ _, by decide, by decide⟩

/-- A lead of channel 0 is due in tick 2 for a play at sample 1,000, and a retraction at sample 500. -/
def leading : Part :=
  inTick 2 (alone [(G.clockState, 0)] { Seq.idle with leads := [⟨1, 1000, 500, 0, false, false, [], none⟩], retr := [(500, 0)] })

theorem witness_LeadsPulseAndRetract :
    (∃ x, awake (st leading) ∧ nextLead (seqOf leading 0).leads = some x ∧ openLeads leading 0 < 8 ∧ x.doom = none ∧
      leading.time.tick < x.start / 250 ∧ (seqOf leading 0).freed.length + openLeads leading 0 < 8 ∧ x.at_ / 250 ≤ leading.time.tick ∧
      reg leading G.clockState ≠ 2) ∧
    (∃ n gen r, (seqOf leading 0).retr = (n, gen) :: r ∧ n / 250 ≤ leading.time.tick ∧ reg leading G.clockState = 0) :=
  ⟨⟨_, rfl, rfl, by decide, rfl, by decide, by decide, by decide, by decide⟩, _, _, _, rfl, by decide, by decide⟩

theorem witness_DecideStagesPlanEveryChannel :
    (∃ s, awake s ∧ stuckChan s.part = none ∧ reg s.part G.clockState = 2) ∧
    (∃ s, awake s ∧ stuckChan s.part = none ∧ reg s.part G.clockState ≠ 2 ∧ s.part.time.closed = planTick s.part) ∧
    (∃ s, awake s ∧ stuckChan s.part = none ∧ reg s.part G.clockState ≠ 2 ∧ s.part.time.closed ≠ planTick s.part) ∧
    (∃ s, awake s ∧ reg s.part G.clockState ≠ 2 ∧ (∀ c, (seqOf s.part c).act = .off) ∧
      (∀ g : Grp, reg s.part (G.lgState g) = 0 ∧ (grpOf s.part g).startAt = none ∧ (grpOf s.part g).stopAt = none ∧
        (grpOf s.part g).restartAt = none ∧ ∀ i, i < 4 → latchAt s.part (grpLatch g i) = none) ∧ s.part.adm.plans = []) := by
  have n : ∀ l, stuckChan (withRegs l) = none := by
    intro l
    unfold stuckChan
    rw [List.findSome?_eq_none_iff]
    intro c _
    rw [seqOf_withRegs]; rfl
  exact ⟨⟨st (withRegs [(G.clockState, 2)]), rfl, n _, by decide⟩,
    ⟨st { withRegs [] with time := { (withRegs []).time with closed := 2 } }, rfl, n _, by decide, rfl⟩,
    ⟨st (withRegs []), rfl, n _, by decide, by decide⟩,
    st (withRegs []), rfl, by decide, fun c => congrArg Seq.act (seqOf_withRegs [] c), by decide, rfl⟩

theorem witness_TickBoundaryBegins : (∃ s, awake s ∧ s.part.life.test ≠ 6 ∧ reg s.part G.clockState ≠ 2) ∧
    ∃ s, awake s ∧ reg s.part G.clockState = 2 ∧ s.part.life.test ≠ 6 ∧ s.part.life.test ≠ 5 :=
  ⟨⟨st Part.cold, rfl, by decide, by decide⟩, st (withRegs [(G.clockState, 2)]), rfl, by decide, by decide, by decide⟩

/-- Channel 0, the only one with SYNC_PART TRUE that runs, waits at a SYNC with tag 9. -/
def syncing : Part := alone [(G.syncPart 0, 1)] { Seq.idle with act := .wait ⟨1, 2, 500, 0, .sync 9, none⟩, at_ := 500 }

set_option maxRecDepth 20000 in
theorem witness_RendezvousAndCommitsTakeEffect : (awake (st syncing) ∧ StageOpen syncing ∧
      ((participants syncing 0).filterMap fun c => arrivedAt (seqOf syncing (chan c))).length = (participants syncing 0).length ∧
      syncTags syncing 0 ≠ []) ∧
    ∃ s k, awake s ∧ (s.part.adm.plans.find? fun k => decide (k.chan = 0 ∧ k.tick ≤ s.part.time.tick) &&
      !commitCancelled s.part (grp (groupOf s.part 0)) k.tick) = some k :=
  ⟨⟨rfl, ⟨rfl, by decide⟩, by decide, by decide⟩,
   st { Part.cold with adm := { Part.cold.adm with plans := [⟨0, 0, 8, 4, 1, 0⟩] } }, ⟨0, 0, 8, 4, 1, 0⟩, rfl, by decide⟩

set_option maxRecDepth 20000 in
theorem witness_StepsAndLatchesAreWritten :
    (∃ n v, n < 262144 ∧ Takes Part.cold .management (gkey (0x8000 + n / 16) (2 * (n % 16))) v ∧ stepInUse Part.cold n = false ∧
      lockedStep Part.cold n = false ∧ stepRecordOk v = true) ∧
    Takes Part.cold .management (gkey 0x23FF 0x29) 255 :=
  ⟨⟨262143, 4, by decide, takes_of (by decide), by decide, by decide, by decide⟩, takes_of (by decide)⟩

end Sys2Proof.Tests
end

