-- ==== Sys2Proof/Tests/AccessWitnesses.lean ====
section
/-!
SUPPORT. For every statement about accesses, Pearo Link, the event fabric and time, states and operands that meet its hypotheses together, for each
of its clauses.
-/

namespace Sys2Proof.Tests

open Sys2Proof.Machine

/-- A part with a presence window open. -/
def present : Part := withRegs [(G.presenceOpen, 1)]

/-- A write of v to index.sub by Port A with the hypotheses of a whole write, decided but for the shape of its entry. -/
def plainWrite (i s v : Nat) (f : Entry → Bool) : Prop :=
  ∃ e, awake (st present) ∧ s < 256 ∧ lookup i s = .entry e s ∧ (∀ n, e.ty ≠ .bulk n) ∧ Takes present (.portA 1) (gkey i s) v ∧ f e = true

theorem witness_WritesTakeEffectByTheirClass :
    plainWrite 0x10E8 1 7 (fun e => decide (e.kind = .now)) ∧ plainWrite 0x1300 1 0 (fun e => decide (e.kind = .sub)) ∧
    plainWrite 0x10E8 8 5 (fun e => decide (e.kind = .w1c ∧ gkey 0x10E8 8 ≠ G.timeSticky)) ∧
    plainWrite (G.timeSticky / 256) (G.timeSticky % 256) 511 (fun _ => true) ∧ plainWrite 0x1010 1 9 (fun e => decide (e.kind = .plain ∧ e.acc = .wo1)) ∧
    plainWrite 0x1100 1 0 (fun e => decide (e.kind = .plain ∧ e.acc ≠ .wo1 ∧ e.cls = .fixed)) ∧
    plainWrite 0x1100 3 0 (fun e => decide (e.kind = .plain ∧ e.acc ≠ .wo1 ∧ e.cls = .live ∧ keyChan (gkey 0x1100 3) = none)) ∧
    plainWrite 0x20FF 2 0 (fun e => decide (e.kind = .plain ∧ e.acc ≠ .wo1 ∧ e.cls = .live ∧ (keyChan (gkey 0x20FF 2)).isSome)) ∧
    plainWrite 0x2000 1 0 (fun e => decide (e.kind = .plain ∧ e.acc ≠ .wo1 ∧ e.cls = .staged ∧ keyChan (gkey 0x2000 1) = some 0)) ∧
    plainWrite 0x1200 1 0 (fun e => decide (e.kind = .plain ∧ e.acc ≠ .wo1 ∧ e.cls = .staged ∧ keyChan (gkey 0x1200 1) = none ∧
      keyQueue (gkey 0x1200 1) = none)) ∧
    plainWrite 0x1B3F 2 0 (fun e => decide (e.kind = .plain ∧ e.acc ≠ .wo1 ∧ e.cls = .staged ∧ keyChan (gkey 0x1B3F 2) = none ∧
      keyQueue (gkey 0x1B3F 2) = some 63)) := by
  refine ⟨?_, ?_, ?_, ?_, ?_, ?_, ?_, ?_, ?_, ?_, ?_⟩ <;>
    exact ⟨_, rfl, by decide, rfl, (by intro n h; cases h), takes_of (by decide), by decide⟩

theorem witness_BarWritesMakeWholeWrites :
    (∃ e, awake (st Part.cold) ∧ reaches Part.cold (.bar0 5) 0x10E8 = true ∧ (∀ n, e.ty ≠ .bulk n) ∧
      lookup (G.fireMask / 256) (G.fireMask % 256) = .entry e (G.fireMask % 256) ∧
      2 * (G.fireMask % 256 - G.fireMask % 256) + 1 < commitWord e) ∧
    (∃ e, reaches Part.cold (.bar0 5) 0x1100 = true ∧ (∀ n, e.ty ≠ .bulk n) ∧ lookup 0x1100 3 = .entry e 3 ∧ commitWord e = 0 ∧
      (∀ l, Part.cold.gz.stage ≠ some (gkey 0x1100 3, l)) ∧ valueAt Part.cold e (gkey 0x1100 3) < 2 ^ 32) ∧
    (∃ e, (∀ n, e.ty ≠ .bulk n) ∧ lookup 0x10E8 1 = .entry e 1 ∧ commitWord e = 1 ∧
      (∀ l, Part.cold.gz.stage ≠ some (gkey 0x10E8 1, l)) ∧ valueAt Part.cold e (gkey 0x10E8 1) < 2 ^ 64) :=
  ⟨⟨_, rfl, by decide, by (intro n h; cases h), rfl, by decide⟩, ⟨_, by decide, by (intro n h; cases h), rfl, by decide, by (intro l h; cases h), by decide⟩,
   ⟨_, by (intro n h; cases h), rfl, by decide, by (intro l h; cases h), by decide⟩⟩

/-- The snapshot buffer holds entry 10E8.01, its low word returned. -/
def snapped : Part := { Part.cold with gz := { Part.cold.gz with snap := some (gkey 0x10E8 1, 7, 1) } }

theorem witness_BarReadsReturnTheSnapshotOrAreRefused :
    (∃ e, awake (st Part.cold) ∧ reaches Part.cold (.bar0 5) 0x10E8 = true ∧ lookup 0x10E8 1 = .entry e 1 ∧ e.acc ≠ .wo ∧
      gkey 0x10E8 1 ≠ G.bpData ∧ 1 % 2 ^ commitWord e ≠ 0 ∧ (∀ v m, snapped.gz.snap = some (gkey 0x10E8 1, v, m) → m &&& 1 ≠ 0) ∧
      (∀ v m, snapped.gz.snap = some (gkey 0x10E8 1, v, m) → m &&& (2 % 2 ^ commitWord e) = 0)) ∧
    (∃ e, reaches Part.cold (.bar0 5) 0x1100 = true ∧ lookup 0x1100 3 = .entry e 3 ∧ e.acc ≠ .wo ∧ gkey 0x1100 3 ≠ G.bpData ∧
      1 % 2 ^ commitWord e = 0 ∧ ∀ v m, snapped.gz.snap ≠ some (gkey 0x1100 3, v, m)) ∧
    lookup 0x1100 0 = .numSubs 13 ∧ lookup 0x0001 0 = .noIndex ∧ lookup 0x1100 200 = .noSub ∧ barDead Part.cold = false ∧
    (∃ e, reaches Part.cold (.bar0 5) 0x1904 = true ∧ lookup 0x1904 3 = .entry e 3 ∧ e.acc = .wo) := by
  refine ⟨⟨_, rfl, by decide, rfl, by decide, by decide, by decide, ?_, ?_⟩, ⟨_, by decide, rfl, by decide, by decide, by decide, ?_⟩, by decide, rfl, by decide,
    by decide, ⟨_, by decide, rfl, by decide⟩⟩
  · intro v m h; cases h; decide
  · intro v m h; cases h; decide
  · intro v m h; cases h

/-- The block port holds 8 bytes. -/
def blockOpen : Part :=
  let p := withRegs [(G.bpLength, 8)]
  { p with gz := { p.gz with block := List.replicate 8 7 } }

set_option maxRecDepth 20000 in
theorem witness_TheAbortLogAndTheBlockPort :
    (awake (st Part.cold) ∧ reaches Part.cold (.portB 2) 1 = true ∧ lookup 1 0 = .noIndex ∧ lookup 0x1100 200 = .noSub ∧ lookup 0x1100 0 = .numSubs 13) ∧
    (∃ e, reaches Part.cold (.portB 2) 0x1904 = true ∧ lookup 0x1904 3 = .entry e 3 ∧ (∀ n, e.ty ≠ .bulk n) ∧
      checkWrite Part.cold e (gkey 0x1904 3) (keptBits e (reg Part.cold (gkey 0x1904 3)) 1) false true ≠ 0) ∧
    Takes Part.cold (.bar0 5) G.logClear 1 ∧
    (∃ e n, Takes Part.cold (.bar0 5) G.bpTarget (G.wpTable 0) ∧ G.wpTable 0 < 2 ^ 24 ∧ entryOf (G.wpTable 0) = some e ∧ e.ty = .bulk n) ∧
    (Takes blockOpen (.bar0 5) G.bpData (2 ^ 64 - 1) ∧ reg blockOpen G.bpOffset + 8 ≤ reg blockOpen G.bpLength ∧
      blockOpen.gz.block.length = reg blockOpen G.bpLength) ∧
    (Takes (withRegs [(G.bpTarget, G.wpTable 0), (G.bpLength, 1024)]) (.bar0 5) G.bpCommit 1 ∧
      ∃ e r, entryOf (G.wpTable 0) = some e ∧ checkWrite Part.cold e (G.wpTable 0) 0 false true = 0 ∧ (mirrored e (G.wpTable 0) && forwards Part.cold) = false ∧
        applyBulk Part.cold e (G.wpTable 0) (padTo 1024 []) = (r, 0)) := by
  refine ⟨⟨rfl, by decide, rfl, by decide, by decide⟩, ⟨_, by decide, rfl, by (intro n h; cases h), by decide⟩, takes_of (by decide),
    ⟨_, _, takes_of (by decide), by decide, rfl, rfl⟩, ⟨takes_of (by decide), by decide, by decide⟩, takes_of (by decide), _, _, rfl, by decide, by decide, rfl⟩

/-- A request of session 1. -/
def header : PlHeader := ⟨.a, 7, 8, 1, 3, false, false⟩

theorem fresh_of {p : Part} {n : Nat} (hr : p.life.recovery = false) (hn : n ≤ reg p G.plMaxDatagram) (hc : p.pl.cache = []) (ho : p.pl.owed = [])
    (hd : p.pl.discover = []) : Fresh p header n := by
  refine ⟨hr, hn, by simp [hc], ?_, ?_⟩
  · intro o h; rw [ho] at h; cases h
  · intro o h; rw [hd] at h; cases h

/-- A request of the longest length that PL_MAX_DATAGRAM allows is fresh at reset. -/
theorem witness_fresh : awake (st Part.cold) ∧ Part.cold.life.recovery = false ∧ Fresh Part.cold header (reg Part.cold G.plMaxDatagram) ∧
    Part.cold.life.test = 0 :=
  ⟨rfl, rfl, fresh_of rfl (Nat.le_refl _) rfl rfl rfl, rfl⟩

theorem witness_RequestsAreAnsweredOnce : (∃ p, 48 = reg p G.plMaxDatagram) ∧
    ∃ s r, awake s ∧ s.part.life.recovery = false ∧ s.part.pl.cache.find? (repeats header) = some r ∧ frameBytes 0 [] ≤ reg s.part G.plMaxDatagram ∧
      72 ≤ reg s.part G.plMaxDatagram ∧ 76 ≤ reg s.part G.plMaxDatagram :=
  ⟨⟨withRegs [(G.plMaxDatagram, 48)], by decide⟩, st { Part.cold with pl := { Part.cold.pl with cache := [⟨7, 8, 1, 3, []⟩] } }, _, rfl, rfl, rfl, by decide,
   by decide, by decide⟩

theorem witness_ReadsAnswerEveryItem : ∃ items : List PlItem, (∀ x ∈ items, gkey x.index x.sub ≠ G.bpData) ∧ (∀ x ∈ items, x.sub < 256) ∧
    (items.map fun x => lookup x.index x.sub).length = 5 :=
  ⟨[⟨1, 0, 0, 0, 0, []⟩, ⟨0x1100, 200, 0, 0, 0, []⟩, ⟨0x1100, 0, 0, 0, 0, []⟩, ⟨0x1904, 3, 0, 0, 0, []⟩, ⟨0x1000, 1, 0, 0, 0, []⟩], by decide, by decide, rfl⟩

theorem witness_WritesExecuteTheirItems :
    (∃ x e v, wanted x = .value e (gkey x.index x.sub) v ∧ x.sub < 256 ∧ e.kind ≠ .cmd ∧ Takes Part.cold (headerPath header) (gkey x.index x.sub) v) ∧
    (∃ x code, wanted x = .refuse code ∧ code ≠ 0) ∧
    (∃ items y code, firstBad Part.cold header Part.cold.pl.bulk items = some (y, code)) :=
  ⟨⟨⟨0x10E8, 1, tyCode .u64, 8, 0, List.replicate 8 0⟩, _, _, rfl, by decide, by decide, takes_of (by decide)⟩, ⟨⟨1, 0, 0, 0, 0, []⟩, 1, rfl, by decide⟩,
   [⟨1, 0, 0, 0, 0, []⟩], _, _, rfl⟩

/-- One subscription, 5, on change and with a period of 1,000 ticks, made in tick 0; it has seen what it reads. -/
def subscribed : Part :=
  let x : PlItem := ⟨0x1000, 1, 0, 0, 0, []⟩
  { Part.cold with pl := { Part.cold.pl with subs := [⟨5, ⟨.a, 7, 8⟩, 1, 100000, 2, [x], 0, [sampleItem Part.cold x], 0, 0⟩] } }

theorem witness_SubscriptionsPublish :
    (Fresh Part.cold header 44 ∧ (0 : Nat) < 3 ∧ ([] : List PlItem).length ≤ 256 ∧ ((0 : Nat) = 0 ∨ reg Part.cold G.ticksPerSecond / 1000 ≤ 0) ∧
      Part.cold.pl.subs.length < 64) ∧
    (Fresh subscribed header 44 ∧ ∃ x ∈ subscribed.pl.subs, x.id = 5) ∧
    (∃ x, (inTick 100000 subscribed).pl.subs.find? (fun y => decide (y.id = 5)) = some x ∧ x.mode ≠ 1 ∧ x.period ≠ 0 ∧
      ((inTick 100000 subscribed).time.tick + 2 ^ 64 - x.since) % 2 ^ 64 % x.period = 0 ∧ x.done ≠ 100001) ∧
    (∃ x, (inTick 1 subscribed).pl.subs.find? (fun y => decide (y.id = 5)) = some x ∧ (1 + 2 ^ 64 - x.since) % 2 ^ 64 % x.period ≠ 0 ∧
      (1 + 2 ^ 64 - x.since) % 2 ^ 64 % (reg (inTick 1 subscribed) G.ticksPerSecond / 1000) ≠ 0) ∧
    subscribed.pl.subs.find? (fun y => decide (y.id = 6)) = none :=
  ⟨⟨fresh_of rfl (by decide) rfl rfl rfl, by decide, by decide, .inl rfl, by decide⟩,
   ⟨fresh_of rfl (by decide) rfl rfl rfl, _, List.mem_cons_self, rfl⟩, ⟨_, rfl, by decide, by decide, by decide, by decide⟩,
   ⟨_, rfl, by decide, by decide⟩, rfl⟩

theorem witness_PartnersAreHeardAndLost :
    (∃ r : AnnounceRec, (r.role ≠ 3 → ¬ (paired Part.cold = true ∧ Part.cold.pair.peer.map (·.serial) = some r.serial)) ∧
      partnerSlot Part.cold 4 r.serial = none ∧ freeSlot Part.cold = some 0) ∧
    (∃ p, partnerSlot p 4 9 = none ∧ freeSlot p = none) ∧
    (∃ p, awake (st p) ∧ p.life.recovery = false ∧ reg p (G.pKind (31 : Fin 32).val) = 3 ∧ reg p (G.pState (31 : Fin 32).val) = 0 ∧
      7 * secondUnits ≤ sinceHeard p 31 * 2) ∧
    (∃ p, reg p (G.pKind 31) = 4 ∧ reg p (G.pState 31) = 0 ∧ sinceHeard p 31 * 2 < 7 * secondUnits) ∧ Fresh Part.cold header 36 ∧
    (∃ p h r, awake (st p) ∧ p.pl.discover = h :: r) :=
  ⟨⟨⟨9, 0, 0, 0, 0, 0, 0, 0, 0⟩, by decide, by decide, by decide⟩, ⟨withRegs ((List.range 32).map fun i => (G.pKind i, 1)), by decide, by decide⟩,
   ⟨{ withRegs [(G.pKind 31, 3), (G.clockState, 1)] with time := { TimeSt.idle with datum := 4 * secondUnits } }, rfl, rfl, by decide, by decide, by decide⟩,
   ⟨withRegs [(G.pKind 31, 4)], by decide, by decide, by decide⟩, fresh_of rfl (by decide) rfl rfl rfl,
   ⟨{ Part.cold with pl := { Part.cold.pl with discover := [header] } }, _, _, rfl, rfl⟩⟩

/-- A report of a nonce is held. -/
def attested : Part :=
  let p := withRegs [(G.lcState, 2), (G.attState, 2)]
  { p with life := { p.life with nonce := some 9 } }

theorem witness_AttestRequestsAreServed :
    (awake (st attested) ∧ mayAttest attested = true ∧ Fresh attested header 72 ∧ attested.life.test = 0 ∧ attested.life.nonce = some 9 ∧
      reg attested G.attState = 2) ∧
    (∃ n, attested.life.nonce ≠ some n ∧ Takes attested .management G.attNonce n) ∧
    (∃ p, mayAttest p = true ∧ Fresh p header 72 ∧ p.life.test ≠ 0) ∧ (∃ p, mayAttest p = true ∧ reg p G.attState = 1 ∧ p.life.nonce = some 9) ∧
    mayAttest Part.cold = false ∧ reg Part.cold G.attState ≠ 1 :=
  ⟨⟨rfl, by decide, fresh_of rfl (by decide) rfl rfl rfl, rfl, rfl, by decide⟩, ⟨8, by decide, takes_of (by decide)⟩,
   ⟨{ withRegs [(G.lcState, 2)] with life := { Part.cold.life with test := 3 } }, by decide, fresh_of rfl (by decide) rfl rfl rfl, by decide⟩,
   ⟨{ withRegs [(G.lcState, 2), (G.attState, 1)] with life := { Part.cold.life with nonce := some 9 } }, by decide, by decide, rfl⟩, by decide, by decide⟩

/-- Two firings wait for tick 1, which is the present one. -/
def firing (clock : Nat) : Part :=
  inTick 1 { withRegs [(G.clockState, clock)] with fab := { Part.cold.fab with fires := [(1, 1), (1, 2 ^ 255)] } }

theorem witness_FiringsAssertTheirChannels :
    (Takes (atCyc Part.cold 24) .management G.fireMask (2 ^ 256 - 1) ∧ reg Part.cold G.fireAtTick = 0) ∧
    (∃ p, Takes (atCyc p 24) .management G.fireMask 1 ∧ p.time.tick < reg p G.fireAtTick ∧ p.fab.fires.length < 16) ∧
    (Fresh Part.cold header 76 ∧ Part.cold.life.test = 0 ∧ refusesMirrored Part.cold = false ∧ forwards Part.cold = false) ∧
    reg (firing 0) G.clockState = 0 ∧
    (reg (firing 1) G.clockState ≠ 0 ∧ (firing 1).fab.fires.filter (fun e => decide (e.1 = (firing 1).time.tick)) ≠ []) ∧
    (reg (withRegs [(G.clockState, 2)]) G.clockState ≠ 0 ∧ (withRegs [(G.clockState, 2)]).fab.fires = []) :=
  ⟨⟨takes_of (by decide), by decide⟩, ⟨withRegs [(G.fireAtTick, 9)], takes_of (by decide), by decide, by decide⟩,
   ⟨fresh_of rfl (by decide) rfl rfl rfl, rfl, by decide, by decide⟩, by decide, ⟨by decide, by decide⟩, by decide, by decide⟩

/-- A pulse is due at event channel 255 in core cycle 30. -/
def arriving (gen : Nat) (last : KMap Nat) : Part :=
  inTick 1 { Part.cold with fab := { Part.cold.fab with arrivals := [⟨255, 3, 30, ⟨1, 20, 7, gen⟩⟩], lastAt := last } }

/-- A pulse is due at event channel 255, which raises vector 3, with the vector's control word. -/
def vectored (w : Nat) : Part :=
  let p := setReg (setReg (arriving 0 []) (G.ecMsix 255) 3) G.hostLink 0
  { p with strm := { p.strm with vectors := if w = 1 then [] else [(15, w)] } }

/-- Pin 0 drives a pulse that ends at sample 9, and its own rising edge at sample 4 has still to be judged. -/
def pulsing : Part := { Part.cold with fab := { Part.cold.fab with evio := [(0, ⟨true, false, true, 9, 0, 0, false, 0, 5⟩)] } }

theorem witness_EventChannelsAssertAndPinsFollow :
    (awake (st (arriving 0 [])) ∧ coreStopped (arriving 0 []) = false ∧ nextArrival (arriving 0 []) 255 = some 30 ∧
      30 / 25 ≤ (arriving 0 []).time.tick ∧ firstDue (allDue (arriving 0 [])) = some (30, 255) ∧
      mergePulses ((settle (arriving 0 []) 28).fab.arrivals) = some (⟨1, 20, 7, 0⟩, 3) ∧ kget (fun _ => 0) (settle (arriving 0 []) 28).fab.lastAt 255 ≠ 30) ∧
    (nextArrival (arriving 15 []) 255 = some 30 ∧ mergePulses (((settle (arriving 15 []) 28).fab.arrivals).filter fun a => decide (a.pulse.gen < 15)) = none) ∧
    (nextArrival (arriving 0 [(255, 30)]) 255 = some 30 ∧ kget (fun _ => 0) (settle (arriving 0 [(255, 30)]) 28).fab.lastAt 255 = 30) ∧
    (∀ masked, ∃ w, let p := settle (vectored w) 28
      nextArrival (vectored w) 255 = some 30 ∧ kget (fun _ => 0) p.fab.lastAt 255 ≠ 30 ∧ reg p (G.ecMsix 255) = 3 ∧ reg p G.hostLink = 0 ∧
        kget (fun _ => 0) p.fab.msixAt 255 ≠ 31 / 25 + 1 ∧ msixMasked p 3 = masked) ∧ 256 ≤ reg (settle (arriving 0 []) 28) (G.ecMsix 255) ∧
    nextArrival Part.cold 255 = none ∧ (false = (pinOf Part.cold 0).accepted) ∧
    (∃ p, true ≠ (pinOf p 0).accepted ∧ reg p (G.evioFilter 0) ≤ reg p (G.evioFilter 0) ∧ reg p G.clockState = 1 ∧ reg p (G.evioEdge 0) = 3 ∧
      reg p (G.evioDir 0) ≠ 1 ∧ reg p G.pairRole ≠ 2) ∧
    ((pinOf pulsing 0).turned ≠ 0 ∧ (pinOf pulsing 0).pad ≠ (pinOf pulsing 0).accepted ∧
      (pinOf pulsing 0).turned - 1 + reg pulsing (G.evioFilter 0) ≤ 4 + reg pulsing (G.evioFilter 0)) ∧
    (pinOf Part.cold 0).endAt = 0 ∧ ((pinOf pulsing 0).endAt ≠ 0 ∧ coreStopped pulsing = false) :=
  ⟨⟨rfl, by decide, by decide, by decide, by decide, by decide, by decide⟩, ⟨by decide, by decide⟩, ⟨by decide, by decide⟩,
   fun masked => ⟨if masked then 1 else 0, by cases masked <;> decide⟩, by decide, by decide, rfl,
   ⟨withRegs [(G.clockState, 1), (G.evioEdge 0, 3)], by decide, by decide, by decide, by decide, by decide, by decide⟩, ⟨by decide, by decide, by decide⟩, by decide,
   by decide, by decide⟩

/-- The head of a PTP message that this part takes at reset. -/
def ptpHead : PtpHead := ⟨reg Part.cold G.ptpDomain, reg Part.cold G.ptpTransport, reg Part.cold G.ptpProfile, false⟩

theorem witness_MeasurementsSteerTheDatum :
    (∃ p, awake (st p) ∧ ptpEnabled p .b = true ∧ ptpHead = ⟨reg p G.ptpDomain, reg p G.ptpTransport, reg p G.ptpProfile, false⟩ ∧ ptpHead.domain ≤ 127 ∧
      regBit p G.timeFlags 1 = false ∧ reg p G.timeSource = 1 ∧ reg p G.ptpSelected = 2) ∧
    (∃ p, ptpEnabled p .a = true ∧ reg p G.timeSource ≠ 1) ∧
    (∃ p n, awake (st p) ∧ regBit p G.timeFlags 1 = false ∧ reg p G.timeSource = 2 ∧ p.time.ppsNext = some n ∧ p.time.ppsSeen = true ∧
      |(65536000 : Int)| ≤ 65536000) ∧ Part.cold.time.ppsSeen = false :=
  ⟨⟨withRegs [(G.timeSource, 1), (G.ptpSelected, 2), (G.ptpPorts, 2)], rfl, by decide, by decide, by decide, by decide, by decide, by decide⟩,
   ⟨withRegs [(G.ptpPorts, 1)], by decide, by decide⟩,
   ⟨{ withRegs [(G.timeSource, 2), (G.timeState, 2)] with time := { Part.cold.time with ppsNext := some 5, ppsSeen := true } }, 5, rfl, by decide, by decide,
    rfl, rfl, by decide⟩, rfl⟩

/-- The Datum follows PPS and has missed a number of edges. -/
def onPps (miss off : Nat) : Part :=
  { withRegs [(G.timeSource, 2), (G.timeState, 2)] with
      time := { Part.cold.time with ppsMiss := miss, ppsOff := off, ppsNext := some 5, ppsSeen := true } }

/-- A master that a port hears. -/
def master : PtpAnnounce := ⟨128, 6, 32, 5, 128, 9, 1, 0⟩

/-- The part takes its time from a master at port B. -/
def onMaster : Part :=
  { withRegs [(G.timeSource, 1), (G.timeState, 2), (G.ptpPorts, 3), (G.ptpSelected, 2)] with time := { Part.cold.time with masterB := some master } }

/-- The part is in HOLDOVER, with this estimate at entry in ps. -/
def inHoldover (e : Nat) : Part :=
  { withRegs [(G.timeState, 3), (G.holdoverLimit, 1)] with time := { Part.cold.time with holdErr := e } }

theorem witness_LostSourcesLeadToHoldover :
    (∀ m, m = 1 ∨ m = 2 → awake (st (onPps m m)) ∧ reg (onPps m m) G.timeSource = 2 ∧ (onPps m m).time.ppsNext ≠ none ∧ (onPps m m).time.ppsSeen = true ∧
      65536000 < |(65536001 : Int)|) ∧
    (masterOn onMaster .b ≠ none ∧ reg onMaster G.timeSource = 1 ∧ heardOn onMaster .a = none) ∧ masterOn Part.cold .b = none ∧
    (reg (inHoldover 1000) G.timeState = 3 ∧ holdEstimate (inHoldover 1000) ≤ reg (inHoldover 1000) G.holdoverLimit * 1000) ∧
    (reg (inHoldover 1001) G.timeState = 3 ∧ reg (inHoldover 1001) G.holdoverLimit * 1000 < holdEstimate (inHoldover 1001)) ∧
    reg Part.cold G.timeState ≠ 3 ∧ reg Part.cold G.timeSource ≠ 2 := by
  refine ⟨?_, ⟨by decide, by decide, by decide⟩, rfl, ⟨by decide, by decide⟩, ⟨by decide, by decide⟩, by decide, by decide⟩
  rintro m (rfl | rfl) <;> exact ⟨rfl, by decide, by decide, rfl, by decide⟩

theorem witness_PtpPortsFollowTheBestMaster :
    (∃ p, awake (st p) ∧ ptpEnabled p .a = true ∧ ptpEnabled p .b = false ∧
      ptpHead = ⟨reg p G.ptpDomain, reg p G.ptpTransport, reg p G.ptpProfile, false⟩ ∧ ptpHead.domain ≤ 127) ∧
    (∃ h : PtpHead, h.unsupported = true ∨ 127 < h.domain) ∧
    (∃ h : PtpHead, h.unsupported = false ∧ h.domain = 127 ∧
      ¬ (h = ⟨reg Part.cold G.ptpDomain, reg Part.cold G.ptpTransport, reg Part.cold G.ptpProfile, false⟩ ∧ h.domain ≤ 127)) ∧
    masterOn onMaster .b ≠ none ∧
    (∃ p, reg p G.ptpRole = 1 ∧ ptpEnabled p .a = true ∧ p.life.recovery = false ∧
      (reg p G.timeSource = 1 → ∀ r, masterOn p .a = some r → ownRank p < rankOf r)) ∧
    ¬ (reg Part.cold G.ptpRole = 1) :=
  ⟨⟨withRegs [(G.ptpPorts, 1)], rfl, by decide, by decide, by decide, by decide⟩, ⟨⟨128, 0, 0, false⟩, .inr (by decide)⟩,
   ⟨⟨127, 9, 0, false⟩, rfl, rfl, by decide⟩, by decide,
   ⟨withRegs [(G.ptpRole, 1), (G.ptpPorts, 1)], by decide, by decide, rfl, fun _ r h => absurd h (by intro x; cases x)⟩, by decide⟩

/-- A slew of 1,000 units and a step wait; the Datum stands d units after the slew began. -/
def slewing (d : Nat) : Part :=
  { withRegs [(G.clockState, 1), (G.slewMax, 1000)] with time := { TimeSt.idle with slew := 1000, step := some 1000, datum := d } }

theorem witness_DatumStepsAndSlews :
    (awake (st (slewing (10 ^ 10))) ∧ (slewing (10 ^ 10)).time.step ≠ none ∧ anyRuns (slewing (10 ^ 10)) = false ∧
      max 0 ((slewing (10 ^ 10)).time.slew - ((datumNow (slewing (10 ^ 10)) - 0) * reg (slewing (10 ^ 10)) G.slewMax / 10 ^ 9 : Nat)) = 0) ∧
    (max 0 ((slewing (10 ^ 8)).time.slew - ((datumNow (slewing (10 ^ 8)) - 0) * reg (slewing (10 ^ 8)) G.slewMax / 10 ^ 9 : Nat)) ≠ 0) ∧
    (∃ p, anyRuns p = true) ∧
    (∃ v, Takes Part.cold .management G.datumSet v ∧ reg Part.cold G.timeSource = 0) ∧ Takes Part.cold .management G.epoch 0 ∧
    (∃ p, regBit p G.timeFlags 1 = true ∧ anyRuns p = true ∧ ((reg p G.stepThreshold * 65536 : Nat) : Int) < |(10 ^ 12 : Int)|) ∧
    (∃ p, regBit p G.timeFlags 1 = true ∧ anyRuns p = false ∧ (1 : Int) ≠ 0 ∧ |(1 : Int)| ≤ ((reg p G.stepThreshold * 65536 : Nat) : Int)) :=
  ⟨⟨rfl, by decide, by decide, by decide⟩, by decide, ⟨withRegs [(G.lgState 15, 2)], by decide⟩,
   ⟨0, takes_of (by decide), by decide⟩, takes_of (by decide), ⟨withRegs [(G.timeFlags, 2), (G.lgState 0, 3)], by decide, by decide, by decide⟩,
   withRegs [(G.timeFlags, 2)], by decide, by decide, by decide, by decide⟩

theorem witness_SampleClockComesAndGoes :
    (∃ p, reg p G.clockState = 2) ∧ Takes Part.cold .management G.fsKhz 1250000 ∧
    (∃ p, awake (st p) ∧ reg p G.clockState = 1 ∧ p.time.locked = true ∧ p.time.datum ≤ 1 * secondUnits ∧
      1 * secondUnits * 100 ≤ p.time.datum * 100 + 101 * secondUnits) ∧
    (∃ p : Part, p.time.locked = true ∧ ¬ (1 * secondUnits * 100 ≤ p.time.datum * 100 + 101 * secondUnits ∧ p.time.datum ≤ 1 * secondUnits)) :=
  ⟨⟨withRegs [(G.clockState, 2)], by decide⟩, takes_of (by decide),
   ⟨{ withRegs [(G.clockState, 1)] with time := { Part.cold.time with locked := true, datum := secondUnits } }, rfl, by decide, rfl, by decide, by decide⟩,
   { Part.cold with time := { Part.cold.time with locked := true, datum := secondUnits + 1 } }, rfl, by decide⟩

theorem witness_SecondsSyncAndDrift :
    (∃ p, awake (st p) ∧ reg p G.clockState = 0 ∧ signedTick p.time.tick % (max 1 (reg p G.ticksPerSecond) : Nat) = 0) ∧
    (∃ p, reg p G.clockState = 0 ∧ ¬ signedTick p.time.tick % (max 1 (reg p G.ticksPerSecond) : Nat) = 0) ∧
    (∃ p, reg p G.clockState ≠ 0 ∧ (secondUnits - p.time.datum % secondUnits) % secondUnits < tickUnits p) ∧
    (∃ p, reg p G.clockState ≠ 0 ∧ tickUnits p ≤ (secondUnits - p.time.datum % secondUnits) % secondUnits) ∧
    (∃ p, 2 ≤ reg p G.syncMode ∧ |p.time.syncTrim + 400| ≤ 500000000 / ((max 1 (reg p G.fsKhz) : Nat) : Int)) ∧
    (∃ p, 2 ≤ reg p G.syncMode ∧ p.time.syncMiss = 2 ∧ 500000000 / ((max 1 (reg p G.fsKhz) : Nat) : Int) < |p.time.syncTrim + 401|) ∧
    reg Part.cold G.syncMode < 2 ∧ (∃ p, reg p G.sclkSelect = 1) :=
  ⟨⟨withRegs [(G.clockState, 0)], rfl, by decide, by decide⟩, ⟨inTick 1 (withRegs [(G.clockState, 0)]), by decide, by decide⟩,
   ⟨withRegs [(G.clockState, 1)], by decide, by decide⟩,
   ⟨{ withRegs [(G.clockState, 2)] with time := { TimeSt.idle with datum := 1 } }, by decide, by decide⟩,
   ⟨withRegs [(G.syncMode, 3), (G.fsKhz, 1250000)], by decide, by decide⟩,
   ⟨{ withRegs [(G.syncMode, 3), (G.fsKhz, 1250000)] with time := { TimeSt.idle with syncMiss := 2 } }, by decide, rfl, by decide⟩, by decide,
   withRegs [(G.sclkSelect, 1)], by decide⟩

end Sys2Proof.Tests
end

