-- ==== Sys2Proof/Tests/UnitWitnesses.lean ====
section
/-!
SUPPORT. For every statement about segments, outputs, load groups, trim, Watch and streams, states and operands that meet its hypotheses together,
for each of its clauses.
-/

namespace Sys2Proof.Tests

open Sys2Proof.Machine

theorem witness_AlarmsPresenceAndSeal :
    (awake (st Part.cold) ∧ Takes Part.cold .management (gkey 0x1230 4) 1) ∧
    (∃ (p : Part) (n : Int), kfind 0 p.time.alarms = some n ∧ n / 250 = signedTick p.time.tick ∧ reg p G.clockState = 0) ∧
    (∃ (p : Part) (n : Int), kfind 0 p.time.alarms = some n ∧ ¬ (n / 250 = signedTick p.time.tick ∧ reg p G.clockState = 0)) ∧
    (reg Part.cold G.lcState = 0 ∧ ∃ p, reg p G.lcState ≠ 0) :=
  ⟨⟨rfl, takes_of (by decide)⟩, ⟨{ withRegs [(G.clockState, 0)] with time := { Part.cold.time with alarms := [(0, 7)] } }, 7, rfl, by decide, by decide⟩,
   ⟨{ Part.cold with time := { Part.cold.time with alarms := [(0, 7000)] } }, 7000, rfl, by decide⟩, by decide, withRegs [(G.lcState, 2)], by decide⟩

/-- The memory is trained. -/
def trained (l : List (Nat × Nat)) : Part := withRegs ([(G.memState, 2), (G.apDramSize, 2 ^ 37)] ++ l)

set_option maxRecDepth 20000 in
theorem witness_SegmentsAndUploadsAreWritten :
    (∃ d v, d < 16383 ∧ Takes (trained []) .management (gkey (0x4000 + d) 1) v ∧ descOk (trained []) v = true ∧ segInUse (trained []) d = false ∧
      lockedDesc (trained []) d = false) ∧
    (TakesBulk Part.cold .management G.edgeStore ∧
      ∀ i v, (wordsLE [1, 0, 0, 0, 0, 0, 0, 0])[i]? = some v → v ≠ kget (fun _ => 0) (takeSegments Part.cold).mem.edges i →
        ∀ r, r ∈ edgesInUse Part.cold ∨ r ∈ lockedEdges Part.cold → ¬ (r.1 ≤ i ∧ i < r.2)) ∧
    (∃ p, TakesBulk p .management G.upData ∧ ([7, 8] : List Byte).length = reg p G.upChunk ∧ reg p G.upAddr + 2 ≤ reg p G.apDramSize ∧
      (blockedRanges p).any (overlaps (reg p G.upAddr, reg p G.upAddr + 2)) = false ∧ reg p G.memState ≠ 3 ∧ p.mem.bad = []) := by
  have e : edgesInUse Part.cold = [] ∧ lockedEdges Part.cold = [] := by decide
  refine ⟨⟨0, 50 * 2 ^ 32, by decide, takes_of (by decide), by decide, by decide, by decide⟩, ⟨takesBulk_of (by decide), ?_⟩,
    trained [(G.upChunk, 2)], takesBulk_of (by decide), by decide, by decide, by decide, by decide, rfl⟩
  rintro i v - - r (h | h)
  · rw [e.1] at h; cases h
  · rw [e.2] at h; cases h

/-- A load block of 64 bytes runs, from the host to DRAM 0. -/
def loading : Part := { trained [(G.ldState, 1)] with mem := { Part.cold.mem with load := some ⟨0, 0, 0, 0, 64, 0⟩ } }

set_option maxRecDepth 20000 in
theorem witness_HostAccessesReachTheMemory :
    (barDead (trained []) = false ∧ (trained []).life.test = 0 ∧ reg (trained []) G.memState ≠ 3 ∧ (trained []).mem.bad = [] ∧
      reg (trained []) G.apBase + 8 < reg (trained []) G.apDramSize ∧ blockedRanges (trained []) = []) ∧
    (∃ p, Takes p .management G.ldGo 1 ∧ reg p G.ldState ≠ 1 ∧ p.mem.ldGo = false ∧ reg p G.ldTarget ≤ 1 ∧ reg p G.ldLength ≠ 0 ∧
      reg p G.ldLength % 64 = 0) ∧
    (∃ p, Takes p .management G.ldGo 1 ∧ reg p G.ldState ≠ 1 ∧ p.mem.ldGo = false ∧ 2 ≤ reg p G.ldTarget ∧ reg p G.ldTarget ≤ 4 ∧
      reg p G.ldLength ≠ 0 ∧ reg p G.ldLength % 32 = 0 ∧ reg p G.ldInsetAddr * 2 + reg p G.ldLength ≤ 131072) ∧
    Part.cold.mem.load = none ∧
    (∃ b, loading.mem.load = some b ∧ b.target = 0 ∧ (List.replicate 64 (7 : Byte)).length = b.length ∧ reg loading G.memState ≠ 3 ∧ loading.mem.bad = [] ∧
      reg loading G.ldBlocked = 0 ∧ blockedRanges loading = [] ∧ b.dram + 64 ≤ reg loading G.apDramSize) ∧
    (∃ b : LoadBlock, b.target = 2) :=
  ⟨⟨by decide, rfl, by decide, rfl, by decide, by decide⟩, ⟨trained [(G.ldLength, 64)], takes_of (by decide), by decide, rfl, by decide, by decide, by decide⟩,
   ⟨trained [(G.ldLength, 64), (G.ldTarget, 4)], takes_of (by decide), by decide, rfl, by decide, by decide, by decide, by decide, by decide⟩,
   rfl, ⟨_, rfl, rfl, by decide, by decide, rfl, by decide, by decide, by decide⟩, ⟨0, 0, 2, 0, 0, 0⟩, rfl⟩

/-- Channel 0 runs; a pulse of tick 0 is latched at input i and acts in the planned tick 3. -/
def gated (i : Nat) (l : List (Nat × Nat)) (q : List Nat) : Part :=
  let p := latched i (inTick 1 (alone ([(G.lgState 0, 2)] ++ l) { Seq.idle with act := .run 0 }))
  { p with paced := [(0, q)] }

theorem witness_TonesAreGatedAndPaced :
    (∀ i, i = 16 ∨ i = 17 → ∃ l, StageOpen (gated i [] []) ∧
      runsIn (gated i [] []) (grp (planned (gated i [] []) (G.loadGroup 0))) (planTick (gated i [] [])) = true ∧ latchAt (gated i [] []) (chLatch 0 i) = some l ∧
      l.pulse.tick + 3 ≤ planTick (gated i [] []) ∧ 250 * (l.pulse.tick + 3) + planned (gated i [] []) (G.gateDelay 0) < 250 * (planTick (gated i [] []) + 1)) ∧
    (∃ p e, Takes p .management (G.pacedPush 0) e ∧ (pacedEff e).isSome ∧ regBit p (G.pacedKinds 0) (bits e 63 60) = true ∧
      bits e 59 0 &&& [0xFFFF, 0x300FFFFFFFFFFFF, 0x30000000000FFFF, 0x3000000FFFFFFFF, 0xFFFFFFFF, 0xFFFFFFFF].getD (bits e 63 60) 0 = bits e 59 0 ∧
      (pacedQueue p 0).length < 1024) ∧
    Takes Part.cold .management (G.pacedFlush 0) 1 ∧
    (∀ q, q = [] ∨ q = [5] → let p := gated 19 [(G.pacedMode 0, 2)] q
      ∃ l, StageOpen p ∧ runsIn p (grp (planned p (G.loadGroup 0))) (planTick p) = true ∧ (seqOf p 0).paced ≤ 250 * planTick p ∧ planned p (G.pacedMode 0) = 2 ∧
        latchAt p (chLatch 0 19) = some l ∧ l.pulse.tick + 3 ≤ planTick p ∧
        250 * (l.pulse.tick + 3) + planned p (G.pacedDelay 0) < 250 * (planTick p + 1) ∧ pacedQueue p 0 = q) ∧
    (∃ p f, StageOpen p ∧ runsIn p (grp (planned p (G.loadGroup 0))) (planTick p) = true ∧ (seqOf p 0).paced ≤ 250 * planTick p ∧ planned p (G.pacedMode 0) = 1 ∧
      gridInstants (250 * (if planned p (G.pacedStart 0) = 0 then (seqOf p 0).m0 else planned p (G.pacedStart 0)))
        (max 1 (planned p (G.pacedInterval 0) * (if planned p (G.pacedUnit 0) = 0 then 250 else 10))) (250 * planTick p) (250 * (planTick p + 1)) = [750] ∧
      pacedQueue p 0 = [5] ∧ pacedEff 5 = some f) := by
  refine ⟨?_, ⟨withRegs [(G.pacedKinds 0, 1)], 5, takes_of (by decide), by decide, by decide, by decide, by decide⟩, takes_of (by decide), ?_,
    gated 0 [(G.pacedMode 0, 1), (G.pacedInterval 0, 1)] [5], _, ⟨rfl, by decide⟩, by decide, by decide, by decide, by decide, by decide, rfl⟩
  · rintro i (rfl | rfl) <;> exact ⟨⟨⟨0, 7, 1, 0⟩, 4⟩, ⟨rfl, by decide⟩, by decide, by decide, by decide, by decide⟩
  · rintro q (rfl | rfl) <;> exact ⟨⟨⟨0, 7, 1, 0⟩, 4⟩, ⟨rfl, by decide⟩, by decide, by decide, by decide, by decide, by decide, by decide, by decide⟩

/-- Load group 0 is in this state. -/
def grouped (state : Nat) (l : List (Nat × Nat)) : Part := withRegs ([(G.lgState 0, state)] ++ l)

set_option maxRecDepth 20000 in
theorem witness_GroupCommandsAreTaken :
    (Part.cold.adm.jobs.length < 16 ∧ awake (st Part.cold) ∧ reg Part.cold (G.lgState 0) ≤ 1 ∧ reg Part.cold (G.lgAt 0) = 0) ∧
    (∀ v, v = 1 ∨ v = 2 ∨ v = 5 → Takes Part.cold .management (G.lgCmd 0) v) ∧
    (∀ v, v = 3 ∨ v = 4 → Takes (grouped 2 []) .management (G.lgCmd 0) v ∧ reg (grouped 2 []) (G.lgState 0) = 2 ∧ (grouped 2 []).adm.jobs.length < 16 ∧
      reg (grouped 2 []) (G.lgAt 0) = 0) ∧
    (∃ p, groupOf p 0 = 0 ∧ Takes p .management (G.planGo 0) 1 ∧ reg p (G.lgState 0) = 2 ∧ reg p (G.planAt 0) = 0 ∧ p.adm.jobs.length < 16) ∧
    (∃ p, Takes p .management (G.lgCmd 0) 2 ∧ reg p (G.lgState 0) = 1 ∧ reg p (G.lgAt 0) = 0 ∧ clockOk p = true) ∧
    (∃ p, Takes p .management (G.lgCmd 0) 2 ∧ reg p (G.lgState 0) = 1 ∧ reg p (G.lgAt 0) = 900 ∧ decideBegun p 900 = false ∧ clockOk p = true ∧
      max (spanReady p 0) (reg p (G.admGEntryReady 0)) ≤ 900) ∧
    (Takes Part.cold .management (G.lgStrobeAt 0) 9 ∧ decideBegun Part.cold 9 = false) ∧
    (Takes (grouped 1 []) .management (G.lgCmd 0) 6 ∧ reg (grouped 1 []) (G.lgState 0) = 1) := by
  refine ⟨⟨by decide, rfl, by decide, by decide⟩, ?_, ?_, ⟨grouped 2 [], by decide, takes_of (by decide), by decide, by decide, by decide⟩,
    ⟨grouped 1 [(G.clockState, 0)], takes_of (by decide), by decide, by decide, by decide⟩,
    ⟨grouped 1 [(G.clockState, 0), (G.lgAt 0, 900)], takes_of (by decide), by decide, by decide, by decide, by decide, by decide⟩,
    ⟨takes_of (by decide), by decide⟩, takes_of (by decide), by decide⟩
  · rintro v (rfl | rfl | rfl) <;> exact takes_of (by decide)
  · rintro v (rfl | rfl) <;> exact ⟨takes_of (by decide), by decide, by decide, by decide⟩

/-- Group 0 has these plans in tick 9 and is in this state. -/
def grpAt (state : Nat) (x : GroupSt) (l : List (Nat × Nat)) : Part :=
  inTick 9 { grouped state l with grps := Part.cold.grps.set 0 x }

theorem witness_GroupsMoveAtTheirTick :
    (∃ p m, (grpOf p 0).startAt = some m ∧ m ≤ p.time.tick) ∧ (∃ p m, (grpOf p 0).stopAt = some m ∧ m ≤ p.time.tick) ∧
    (∃ p m, (grpOf p 0).restartAt = some m ∧ m ≤ p.time.tick) ∧
    (∃ p, (grpOf p 0).strobes = [8, 9] ∧ (grpOf p 0).stopAt = some 9 ∧ p.time.tick = 9 ∧ reg p (G.lgStrobeAt 0) = 9 ∧
      ∀ y ∈ (grpOf p 0).commits, (keyChan y.2.1).isSome) ∧
    (∀ m, ¬ ((grpOf Part.cold 0).startAt = some m ∧ m ≤ Part.cold.time.tick)) ∧ (grpOf Part.cold 0).commits = [] :=
  ⟨⟨grpAt 3 { GroupSt.idle with startAt := some 9 } [], 9, rfl, by decide⟩, ⟨grpAt 4 { GroupSt.idle with stopAt := some 9 } [], 9, rfl, by decide⟩,
   ⟨grpAt 5 { GroupSt.idle with restartAt := some 9 } [], 9, rfl, by decide⟩,
   ⟨grpAt 4 { GroupSt.idle with strobes := [8, 9], stopAt := some 9, commits := [(8, gkey 0x2000 1, 1)] } [(G.lgStrobeAt 0, 9)], rfl, rfl, rfl, by decide, by decide⟩,
   (fun m h => by cases h.1), rfl⟩

/-- A span-change sequence of channel 0 stands in a stage in tick 2,000,000. -/
def spanning (stage : Nat) : Part :=
  inTick 2000000 { Part.cold with outs := Part.cold.outs.set 0 { OutSt.idle with spanAt := some 7, spanStage := stage } }

theorem witness_OutputsParkSpanAndFault :
    (∃ l, latchAt (latched 18 (inTick 9 Part.cold)) (chLatch 0 18) = some l ∧ l.pulse.tick + 3 ≤ (latched 18 (inTick 9 Part.cold)).time.tick) ∧
    (∃ l, latchAt (latched 18 Part.cold) (chLatch 0 18) = some l ∧ (latched 18 Part.cold).time.tick < l.pulse.tick + 3) ∧
    (∀ n, n = 1 ∨ n = 2 ∨ n = 3 → (outOf (spanning n) 0).spanAt = some 7 ∧ (outOf (spanning n) 0).spanStage = n ∧ 7 + 2 ≤ (spanning n).time.tick ∧
      7 + rampTicks (spanning n) + 3 ≤ (spanning n).time.tick) ∧
    (outOf (spanning 3) 0).spanNext = none ∧
    (∃ p, (outOf p 0).spanAt = some 7 ∧ (outOf p 0).spanNext = some 5 ∧ 7 + rampTicks p + 3 ≤ p.time.tick) ∧
    ((outOf Part.cold 0).spanAt = none) ∧ Takes Part.cold .management (G.faultClear 0) 1 := by
  refine ⟨⟨⟨⟨0, 7, 1, 0⟩, 4⟩, by decide, by decide⟩, ⟨⟨⟨0, 7, 1, 0⟩, 4⟩, by decide, by decide⟩, ?_, by decide,
    ⟨inTick 2000000 { Part.cold with outs := Part.cold.outs.set 0 { OutSt.idle with spanAt := some 7, spanNext := some 5 } }, by decide, by decide, by decide⟩,
    by decide, takes_of (by decide)⟩
  rintro n (rfl | rfl | rfl) <;> exact ⟨by decide, by decide, by decide, by decide⟩

theorem witness_TrimLoopsSwapAndFreeze :
    (Part.cold.time.tick % 80000 = 0) ∧ (inTick 1 Part.cold).time.tick % 80000 ≠ 0 ∧ (∃ p, reg p (G.trimState 0) = 1) ∧
    (∃ p, Takes p .management (G.trimFreezeReq 0) 1 ∧ 1 ≤ reg p (G.trimFreezeMax 0) ∧ reg p (G.lgState (groupOf p 0)) ≠ 0 ∧ reg p (G.trimState 0) ≠ 3) ∧
    (∃ p t, (outOf p 0).freezeTo = some t ∧ t ≤ p.time.tick) ∧ (∃ p t, (outOf p 0).freezeTo = some t ∧ p.time.tick < t) :=
  ⟨rfl, by decide, ⟨withRegs [(G.trimState 0, 1)], by decide⟩,
   ⟨grouped 2 [(G.trimFreezeMax 0, 10)], takes_of (by decide), by decide, by decide, by decide⟩,
   ⟨{ Part.cold with outs := Part.cold.outs.set 0 { OutSt.idle with freezeTo := some 0 } }, 0, rfl, by decide⟩,
   { Part.cold with outs := Part.cold.outs.set 0 { OutSt.idle with freezeTo := some 9 } }, 9, rfl, by decide⟩

/-- A reading of tick 0 waits for its verdict in tick 1. -/
def judged (l : List (Nat × Nat)) : Part :=
  inTick 1 { withRegs l with watch := Part.cold.watch.set 0 { WatchSt.idle with reading := some ⟨0, 0, false, true, 0, 9000, 9000, 10⟩ } }

theorem witness_WatchReadsAndJudges :
    (∃ p, reg p G.clockState ≠ 2 ∧ p.life.test = 0 ∧ p.life.applied = true ∧ reg p (G.watchEnable 0) = 0) ∧
    (∃ p, reg p G.clockState ≠ 2 ∧ p.life.test = 0 ∧ p.life.applied = true ∧ reg p (G.watchEnable 0) ≠ 0) ∧
    (∃ r, ((judged []).watch.get 0).reading = some r ∧ r.tick < (judged []).time.tick ∧ (judged []).life.test = 0) ∧
    Takes Part.cold .management (G.watchCause 0) 3 :=
  ⟨⟨{ withRegs [(G.watchEnable 0, 0)] with life := { Part.cold.life with applied := true } }, by decide, rfl, rfl, by decide⟩,
   ⟨{ withRegs [(G.watchEnable 0, 1)] with life := { Part.cold.life with applied := true } }, by decide, rfl, rfl, by decide⟩,
   ⟨_, rfl, by decide, by decide⟩, takes_of (by decide)⟩

/-- Queue 0 is enabled in state 1, with a ring of 64 KiB at address 0. -/
def queued (l : List (Nat × Nat)) : Part :=
  trained ([(G.hostLink, 0), (G.sqEnable 0, 1), (G.sqState 0, 1), (G.sqRingSize 0, 65536), (G.sqDescCount 0, 4)] ++ l)

theorem witness_QueuesAreEnabledAndFed :
    (∃ p, Takes p .management (G.sqEnable 0) 1 ∧ reg p (G.sqEnable 0) ≠ 1) ∧ (Takes (queued []) .management (G.sqEnable 0) 0 ∧ reg (queued []) (G.sqEnable 0) ≠ 0) ∧
    (∃ p, reg p G.hostLink = 0 ∧ reg p (G.sqEnable 0) = 0) ∧
    (∃ (p : Part) (v : Nat), reg p G.hostLink = 0 ∧ ¬ (reg p (G.sqEnable 0) = 0 ∨ reg p G.pairRole = 2 ∨ p.life.test ≠ 0) ∧
      reg p (G.sqDescCount 0) < (v % 2 ^ 32 + 2 ^ 32 - reg p (G.sqDescDone 0)) % 2 ^ 32) ∧
    (∃ (p : Part) (v : Nat), reg p G.hostLink = 0 ∧ ¬ (reg p (G.sqEnable 0) = 0 ∨ reg p G.pairRole = 2 ∨ p.life.test ≠ 0) ∧
      (v % 2 ^ 32 + 2 ^ 32 - reg p (G.sqDescDone 0)) % 2 ^ 32 ≤ reg p (G.sqDescCount 0)) ∧
    (∃ p, reg p G.hostLink = 0 ∧ p.life.test = 0 ∧ kfind 255 p.strm.msixWait ≠ none) ∧
    (∃ p, reg p G.hostLink ≠ 0) ∧
    (∃ p, TakesBulk p .management (G.sqNetData 0) ∧ reg p (G.sqEnable 0) = 1 ∧ reg p (G.sqSource 0) = 1 ∧ 64 ≤ ringRoom p 0 ∧
      64 ≤ reg p (G.sqRingSize 0) ∧ reg p G.memState ≠ 3 ∧ p.mem.bad = []) ∧
    (Takes (queued []) .management (G.sqFlush 0) 1 ∧ queueRuns (queued []) 0 = false) :=
  ⟨⟨trained [(G.sqRingSize 0, 65536)], takes_of (by decide), by decide⟩, ⟨takes_of (by decide), by decide⟩, ⟨withRegs [(G.hostLink, 0)], by decide, by decide⟩,
   ⟨queued [], 5, by decide, by decide, by decide⟩, ⟨queued [], 4, by decide, by decide, by decide⟩,
   ⟨{ withRegs [(G.hostLink, 0)] with strm := { Part.cold.strm with msixWait := [(255, 1)] } }, by decide, rfl, by decide⟩,
   ⟨withRegs [(G.hostLink, 1)], by decide⟩,
   ⟨queued [(G.sqSource 0, 1)], takesBulk_of (by decide), by decide, by decide, by decide, by decide, by decide, rfl⟩, takes_of (by decide), by decide⟩

/-- Queue 0 fetches: its tail is 1, its head 0. -/
def fetching : Part :=
  let p := queued [(G.sqState 0, 2)]
  { p with strm := { p.strm with tail := [(0, 1)] } }

theorem witness_DescriptorsAreFetchedAndComplete :
    (reg fetching (G.sqEnable 0) ≠ 0 ∧ reg fetching (G.sqSource 0) = 0 ∧ reg fetching G.hostLink = 0 ∧ reg fetching G.pairRole ≠ 2 ∧
      reg fetching (G.sqState 0) = 2 ∧ fetching.life.test = 0 ∧ reg fetching (G.sqDescHead 0) ≠ tailOf fetching 0 ∧
      kget (fun _ => []) fetching.strm.wait 0 = []) ∧
    (∃ raw, streamDescOk raw = false) ∧
    (∃ raw, streamDescOk raw = true ∧ bits raw 95 64 ≤ ringRoom fetching 0) ∧
    (∀ n, n = 5 ∨ n = 0 → ∃ p : Part, ∃ e, p.strm.descs.find? (fun x => decide (x.1 = 0)) = some e ∧ reg p (G.sqWritten 0) = 0 ∧ e.2.1 = n) ∧
    Part.cold.strm.descs.find? (fun x => decide (x.1 = 0)) = none ∧
    (∃ p : Part, kget (fun _ => 0) p.strm.tmo 0 + 1 < 4 ∧ reg p (G.sqState 0) = 2) ∧ (∃ p : Part, 4 ≤ kget (fun _ => 0) p.strm.tmo 0 + 1) ∧
    (∃ p, reg p G.hostLink = 0) ∧ (∃ p, reg p G.hostLink = 1 ∧ p.life.applied = true) ∧ Part.cold.life.applied = false := by
  refine ⟨⟨by decide, by decide, by decide, by decide, by decide, by decide, by decide, by decide⟩, ⟨0, by decide⟩, ⟨64 * 2 ^ 64, by decide, by decide⟩, ?_,
    rfl, ⟨fetching, by decide, by decide⟩, ⟨{ Part.cold with strm := { Part.cold.strm with tmo := [(0, 3)] } }, by decide⟩, ⟨fetching, by decide⟩,
    ⟨{ withRegs [(G.hostLink, 1)] with life := { Part.cold.life with applied := true } }, by decide, rfl⟩, rfl⟩
  rintro n (rfl | rfl)
  · exact ⟨{ Part.cold with strm := { Part.cold.strm with descs := [(0, 5, true)] } }, _, rfl, by decide, rfl⟩
  · exact ⟨{ Part.cold with strm := { Part.cold.strm with descs := [(0, 0, true)] } }, _, rfl, by decide, rfl⟩

end Sys2Proof.Tests
end

