-- ==== Sys2Proof/Tests/PartWitnesses.lean ====
section
/-!
SUPPORT. For every statement about the memory controller, admission, the redundant pair, start-up, self-test and lifecycle, states and operands that
meet its hypotheses together, for each of its clauses.
-/

namespace Sys2Proof.Tests

open Sys2Proof.Machine

/-- The sub-channels of a trained memory, sub-channel 0 as given. -/
def withSub (x : SubChSt) (l : List (Nat × Nat)) : Part :=
  let p := trained l
  { p with dram := { p.dram with subs := p.dram.subs.set 0 x } }

/-- A read of line 0 by port P0. -/
def readReq : DReq := ⟨0, 0, 100, 0, false, true, 0, [], [], false, 0⟩

theorem witness_MemoryTrainsAndServes :
    (awake (st Part.cold) ∧ reg Part.cold G.memState ≤ 1) ∧ 1 < reg (trained []) G.memState ∧
    (reg (trained []) G.memState = 2 ∧ 64 * ((0 + 64 - 1) / 64) < reg (trained []) G.apDramSize ∧ (trained []).mem.bad = [] ∧
      ∀ i : SubCh, ((subAt (trained []) i).input.filter fun r => decide (r.port = 0)).length +
        ((linesTouched 0 64).filter fun x => decide (subOf (trained []) (64 * x.1) = i)).length ≤ 64) ∧
    (∃ e, [(3, 4)].find? (fun y : Nat × Nat => decide (4 ≤ y.2)) = some e ∧
      (subAt (withSub { SubChSt.idle with owed := [(3, 4)] } []) 0).owed = [(3, 4)] ∧
      ((subAt (withSub { SubChSt.idle with owed := [(3, 4)] } []) 0).rows.any fun y => coveredBy (withSub SubChSt.idle []) e.1 y.1) = false) ∧
    ((subAt (withSub { SubChSt.idle with rows := [(3, 9)] } []) 0).rows.any fun y => coveredBy (withSub SubChSt.idle []) 0 y.1) = true ∧
    (let x := subAt (trained []) 0; x.input = [] ∧ x.owed = [] ∧ x.nr = [] ∧ x.due = false ∧ x.banks = []) ∧
    (let p := withSub { SubChSt.idle with banks := [(0, [readReq])], rows := [(0, 0)] } [];
      let x := subAt p 0;
      x.input = [] ∧ x.owed = [] ∧ x.nr = [] ∧ x.due = false ∧ x.banks = [(0, [readReq])] ∧ readReq.isWrite = false ∧ x.writing = false ∧
      kfind 0 x.rows = some (bankRow p (64 * readReq.line)).2 ∧ p.mem.bad.contains readReq.line = false) :=
  ⟨⟨rfl, by decide⟩, by decide, ⟨by decide, by decide, rfl, by decide⟩, ⟨_, rfl, rfl, by decide⟩, by decide, ⟨rfl, rfl, rfl, rfl, rfl⟩, rfl, rfl, rfl, rfl,
   rfl, rfl, rfl, by decide, by decide⟩

theorem witness_MemoryIsKeptUp :
    (let p := withSub { SubChSt.idle with rows := [(0, 9)] } [];
      (kfind 0 (subAt p 0).rows).isSome ∧ reg p G.memIdleClose ≤ 4 * (1000000 - kget (fun _ => 0) (subAt p 0).used 0)) ∧
    kfind 0 (subAt (trained []) 0).rows = none ∧ reg (trained []) G.memState = 2 ∧ (∃ p, reg p G.quietState = 1) ∧ reg (trained []) G.quietState ≠ 1 ∧
    (let p := withSub { SubChSt.idle with due := true } [];
      (subAt p 0).due = true ∧ pauseAllowed p 0 9 = true) ∧
    (let p := withSub { SubChSt.idle with due := true, owed := [(0, 4)] } [];
      (subAt p 0).due = true ∧ pauseAllowed p 0 9 = false) ∧
    (kget (fun _ => 0) (trained []).dram.alerts 0 + 1 < 3) ∧ ∃ p : Part, 3 ≤ kget (fun _ => 0) p.dram.alerts 0 + 1 :=
  ⟨⟨by decide, by decide⟩, by decide, by decide, ⟨withRegs [(G.quietState, 1)], by decide⟩, by decide, ⟨by decide, by decide⟩, ⟨by decide, by decide⟩,
   by decide, { Part.cold with dram := { Part.cold.dram with alerts := [(0, 2)] } }, by decide⟩

/-- A quiet window ends at instant 5 of the Datum, which stands at n. -/
def quiet (n : Nat) : Part :=
  let p := withRegs [(G.quietState, 1), (G.clockState, 1)]
  { p with dram := { p.dram with quietTo := some 5 }, time := { p.time with datum := n } }

set_option maxRecDepth 20000 in
theorem witness_MemoryQuietsSleepsAndFills :
    (∃ p, Takes p .management G.quietReq 1 ∧ 1 ≤ reg p G.quietMax ∧ reg p G.quietState < 2) ∧
    ((quiet 5).dram.quietTo = some 5 ∧ 5 ≤ datumNow (quiet 5) ∧ reg (quiet 5) G.quietState = 1) ∧ datumNow (quiet 4) < 5 ∧
    (let p := trained [(G.memSrIdle, 1), (G.zfState, 0)];
      reg p G.memState = 2 ∧ admittedFlow p = false ∧ reg p G.memSrIdle ≠ 0 ∧ p.dram.lastReq + reg p G.memSrIdle * cyclesPerUs p ≤ 10 ^ 6 ∧
      (∀ j, subIdle (subAt p j) = true) ∧ ∀ j ∈ p.adm.jobs, reservesMemory p j = false) ∧
    (∃ p, reg p G.memState = 4 ∧ ∃ j, subIdle (subAt p j) = false) ∧
    (let p := trained [(G.scrubPeriod, 1), (G.zfState, 0)];
      reg p G.scrubPeriod ≠ 0 ∧ reg p G.zfState ≠ 1 ∧ reg p G.memState = 2 ∧ reservingFlow p = false ∧ p.mem.bad.contains p.dram.scrubAt = false ∧
      64 * (p.dram.scrubAt + 1) < reg p G.apDramSize) ∧
    (let p := trained [(G.zfState, 1)];
      reg p G.zfState ≠ 0 ∧ reg p G.memState = 2 ∧ reg p G.zfFrontier < reg p G.apDramSize ∧ reservingFlow p = false ∧
      p.dram.first.findSome? (ringPage p) = none) ∧
    (let p := trained [(G.zfState, 1), (G.zfFrontier, 2 ^ 37)];
      reg p G.zfState = 1 ∧ reg p G.memState = 2 ∧ reg p G.apDramSize ≤ reg p G.zfFrontier) :=
  ⟨⟨trained [(G.quietMax, 10)], takes_of (by decide), by decide, by decide⟩, ⟨rfl, by decide, by decide⟩, by decide,
   ⟨by decide, by decide, by decide, by decide, by decide, by decide⟩,
   ⟨setReg (withSub { SubChSt.idle with input := [readReq] } []) G.memState 4, by decide, 0, by decide⟩,
   ⟨by decide, by decide, by decide, by decide, by decide, by decide⟩, ⟨by decide, by decide, by decide, by decide, by decide⟩, by decide, by decide, by decide⟩

/-- An ARM of group 0 or another command waits for its verdict; the group is in a state, and the values given are
in force as in its snapshot. -/
def asked (cmd state at_ : Nat) (regs : KMap Nat) : Part :=
  let p := grouped state ([(G.clockState, 0), (G.lcState, 2)] ++ regs)
  { p with adm := { p.adm with jobs := [⟨cmd, 0, 0, .portA 1, 1, at_, regs, 0, 5⟩] } }

/-- What the verdict finds when the waiting command has left the queue. -/
def asking (p : Part) : Part := setReg { atCyc p 0 with adm := { p.adm with jobs := [] } } G.admPending 0

set_option maxRecDepth 20000 in
theorem witness_VerdictsAreGivenInOrder :
    (∃ j, (asked 1 2 0 []).adm.jobs = [j] ∧ awaitsMemory (asked 1 2 0 []) j = false ∧ overtaken (asking (asked 1 2 0 [])) j = true) ∧
    (∃ j, (asked 2 1 0 []).adm.jobs = [j] ∧ j.cmd = 2 ∧ j.at_ = 0 ∧ awaitsMemory (asked 2 1 0 []) j = false ∧
      overtaken (asking (asked 2 1 0 [])) j = false ∧ reg (asked 2 1 0 []) (G.lgState j.group) = 1 ∧ clockOk (asking (asked 2 1 0 [])) = true) ∧
    Part.cold.adm.jobs = [] :=
  ⟨⟨_, rfl, by decide, by decide⟩, ⟨_, rfl, rfl, rfl, by decide, by decide, by decide, by decide⟩, rfl⟩

/-- An ARM of load group 15, to which only channel 0 belongs, waits for its verdict. -/
def askedOne (regs : KMap Nat) : Part :=
  let p := withRegs ([(G.clockState, 0), (G.lcState, 2), (G.loadGroup 0, 15)] ++ regs)
  { p with adm := { p.adm with jobs := [⟨1, 15, 0, .portA 1, 1, 0, kput (G.loadGroup 0) 15 regs, 0, 5⟩] } }

/-- The hypotheses of a verdict, decided, with what the checks answer. -/
def verdictIs (p : Part) (pair : Nat) (accepted : Bool) : Bool :=
  match p.adm.jobs with
  | [j] => !awaitsMemory p j && !overtaken (asking p) j && decide (kget regDefault j.regs G.pairState = pair) &&
      (match admission (asking p) j with
        | .inl _ => !accepted
        | .inr _ => accepted)
  | _ => false

set_option maxRecDepth 20000 in
theorem witness_accepted : verdictIs (askedOne []) 0 true = true := by decide

set_option maxRecDepth 20000 in
theorem witness_twinAsked : verdictIs (askedOne [(G.pairState, 3)]) 3 true = true := by decide

set_option maxRecDepth 20000 in
theorem witness_refused : verdictIs (askedOne [(G.lcState, 0)]) 0 false = true := by decide

end Sys2Proof.Tests
end

