-- ==== Sys2Proof/Tests/PairWitnesses.lean ====
section
/-!
SUPPORT. For every statement about the redundant pair, resets, start-up, self-test and lifecycle, and for those about every command, states and
operands that meet its hypotheses together, for each of its clauses.
-/

namespace Sys2Proof.Tests

open Sys2Proof.Machine

/-- A part of a pair in REDUNDANT with a role. -/
def inPair (role : Nat) (l : List (Nat × Nat)) : Part := withRegs ([(G.pairState, 3), (G.pairRole, role), (G.lcState, 2), (G.clockState, 0)] ++ l)

/-- A heartbeat of a fit partner. -/
def beat : Heartbeat := ⟨0, 3, true, 5, 7, 0⟩

/-- A partner that meets every condition of Table 14-8. -/
def peer : PeerInfo := ⟨9, 0, 0, 66, 0, 65536, 2, 2, 0, true, 1000, false⟩

/-- The pair logic of a part, as given. -/
def withPair (p : Part) (x : PairSt) : Part := { p with pair := x }

set_option maxRecDepth 20000 in
theorem witness_PairTrafficIsCarried :
    (paired (inPair 1 []) = true ∧ paired Part.cold = false ∧ reg Part.cold G.pairState = 0 ∧ forwards (inPair 1 []) = true ∧ forwards Part.cold = false) ∧
    (reg (inPair 1 []) G.pairState ≠ 0 ∧ (inPair 1 []).pair.peer = none) ∧
    (∃ p x i, reg p G.pairState ≠ 0 ∧ p.pair.peer = some x ∧ partnerSlot p 2 (x.serial % 2 ^ 64) = some i) ∧
    (isShadow (inPair 1 []) && paired (inPair 1 [])) = false ∧
    (∃ p x, isShadow p = true ∧ paired p = true ∧ p.time.tick = nextTick 0 ∧ kfind 0 p.pair.logs = none ∧ rtInputs p 5 = [x] ∧ x < 8192 ∧ x % 32 < 8 ∧ jumpDisabled p x = false ∧ latchAt p x = none) ∧
    (let p := inTick 0 (inPair 2 []); isShadow p = true ∧ kfind ((p.time.tick + 2 ^ 64 - 1) % 2 ^ 64) p.pair.logs = none) ∧
    (∀ b, b = true ∨ b = false → ∃ p, paired p = true ∧ heartbeatsMissed p = b) ∧
    (∃ i x v e, isShadow (inPair 2 []) = true ∧ paired (inPair 2 []) = true ∧ entryOf (gkey i x) = some e ∧ e.kind = .plain ∧ e.acc ≠ .wo1 ∧
      e.cls = .live ∧ (∀ n, e.ty ≠ .bulk n) ∧ checkWrite (atCyc (inPair 2 []) 0) e (gkey i x) v true false = 0) ∧
    (∃ f e, let p := withPair (inPair 1 []) { PairSt.idle with toSend := [f] }; isShadow p = false ∧ p.pair.toSend = [f] ∧ f.tick ≤ p.time.tick ∧
      entryOf f.key = some e ∧ e.kind = .plain ∧ e.acc ≠ .wo1 ∧ e.cls = .live ∧ (∀ n, e.ty ≠ .bulk n) ∧
      checkWrite (atCyc { p with pair := { p.pair with toSend := [] } } 0) e f.key f.value true false = 0) ∧
    (∀ r, r = 1 ∨ r = 2 → let p := inPair r [(G.sqEnable 0, 1), (G.sqRingSize 0, 65536), (G.memState, 2), (G.apDramSize, 2 ^ 37)]
      paired p = true ∧ reg p (G.sqEnable 0) ≠ 0 ∧ 0 < reg p (G.sqRingSize 0) ∧ reg p G.memState ≠ 3 ∧ p.mem.bad = [] ∧
      (isShadow p = true ↔ r = 2)) ∧
    (∃ h d, let p := withPair (inPair 1 []) { PairSt.idle with hb := some beat, digests := [(0, 5, 7)] }; p.pair.hb = some h ∧
      p.pair.digests.find? (fun e => decide (e.1 = p.time.tick)) = some d ∧ h.tick = p.time.tick ∧ h.digest = d.2.1 ∧ h.mask = d.2.2) ∧
    (∃ h d, let p := withPair (inPair 1 []) { PairSt.idle with hb := some beat, digests := [(0, 6, 7)] }; p.pair.hb = some h ∧
      p.pair.digests.find? (fun e => decide (e.1 = p.time.tick)) = some d ∧ h.tick = p.time.tick ∧ h.digest ≠ d.2.1) ∧ Part.cold.pair.hb = none := by
  refine ⟨⟨by decide, by decide, by decide, by decide, by decide⟩, ⟨by decide, rfl⟩,
    ⟨withPair (inPair 1 [(G.pKind 3, 2), (G.pIdentity 3, 9)]) { PairSt.idle with peer := some peer }, peer, 3, by decide, rfl, by decide⟩, by decide,
    ⟨inTick 1 (inPair 2 [(gkey 0x2300 0x10, 5)]), 0, by decide, by decide, rfl, by decide, by decide, by decide, by decide, by decide,
      by decide⟩, ⟨by decide, by decide⟩, ?_,
    ⟨0x1100, 3, 0, _, by decide, by decide, rfl, by decide, by decide, by decide, (by intro n h; cases h), by decide⟩,
    ⟨⟨0, gkey 0x1100 3, 0, .bar0 0, 1⟩, _, by decide, rfl, by decide, rfl, by decide, by decide, by decide, (by intro n h; cases h), by decide⟩, ?_,
    ⟨_, _, rfl, rfl, rfl, rfl, rfl⟩, ⟨_, _, rfl, rfl, rfl, by decide⟩, rfl⟩
  · rintro b (rfl | rfl)
    · exact ⟨withPair (inTick 9 (inPair 1 [])) { PairSt.idle with hb := some beat }, by decide, by decide⟩
    · exact ⟨withPair (inPair 1 []) { PairSt.idle with hb := some beat }, by decide, by decide⟩
  · rintro r (rfl | rfl) <;> exact ⟨by decide, by decide, by decide, by decide, rfl, by decide⟩

/-- A shadow that meets every condition of fitness, in a pair with the state given. -/
def fitShadow (l : List (Nat × Nat)) (x : PairSt) : Part := withPair (inPair 2 ([(G.memState, 2), (G.digestWindow, 0)] ++ l)) x

set_option maxRecDepth 20000 in
theorem witness_DrivePassesBetweenThePair :
    (∃ p, reg p G.clockState = 2) ∧ reg Part.cold G.clockState ≠ 2 ∧ (isShadow Part.cold = false) ∧
    (∀ h, h = none ∨ h = some (9, 1) → let p := fitShadow [] { PairSt.idle with handover := h, hb := some beat }; isShadow p = true ∧ fitNow p = true ∧
      p.pair.handover = h) ∧
    (∀ b, b = 0 ∨ b = 1 → let p := fitShadow [(G.pairAuto, b)] PairSt.idle; isShadow p = true ∧ fitNow p = true ∧ regBit p G.pairAuto 0 = decide (b = 1)) ∧
    (∀ n, n = 1 ∨ n = 2 → let p := withPair (withRegs [(G.pairPriority, n)]) { PairSt.idle with both := 1, driveOut := true, driveIn := true }
      inTick 5 p = inTick 5 p ∧ p.pair.both ≠ 0 ∧ p.pair.both ≤ (inTick 5 p).time.tick ∧ p.pair.driveOut = true ∧ p.pair.driveIn = true ∧
      reg p G.pairPriority = n) ∧
    (∃ p, Takes p .management G.pairCmd 4 ∧ reg p G.pairState = 1) ∧ (Takes Part.cold .management G.pairCmd 4 ∧ isShadow Part.cold = false ∧
      reg Part.cold G.pairState ≠ 1 ∧ reg Part.cold G.pairState ≠ 5) ∧
    (let p := withPair (inPair 1 []) { PairSt.idle with hb := some beat }; Takes p .management G.pairCmd 3 ∧ reg p G.pairState = 3 ∧ reg p G.pairRole = 1 ∧
      partnerFit p = true ∧ p.pair.handover = none ∧ reg p G.pairAt = 0) ∧
    (Takes Part.cold .management G.pairCmd 3 ∧ reg Part.cold G.pairState ≠ 3) ∧
    (let p := withPair (inTick 8 (inPair 1 [])) { PairSt.idle with hb := some beat, handover := some (9, 1) }; p.pair.handover = some (9, 1) ∧
      reg p G.pairRole = 1 ∧ p.time.tick + 1 = 9 ∧ partnerFit p = true ∧ p.life.shdn = false) ∧
    (let p := withPair (inTick 9 (inPair 1 [])) { PairSt.idle with handover := some (9, 1), released := true }; p.pair.handover = some (9, 1) ∧
      9 ≤ p.time.tick ∧ p.pair.released = true ∧ p.life.shdn = false) ∧
    (let p := withPair (inTick 9 (inPair 2 [])) { PairSt.idle with handover := some (9, 4), driveOut := true }; p.pair.handover = some (9, 4) ∧
      9 ≤ p.time.tick ∧ p.pair.released = false ∧ p.pair.driveOut = true ∧ p.pair.driveIn = false ∧ isShadow p = true ∧ p.life.shdn = false) := by
  refine ⟨⟨withRegs [(G.clockState, 2)], by decide⟩, by decide, by decide, ?_, ?_, ?_, ⟨withRegs [(G.pairState, 1)], takes_of (by decide), by decide⟩,
    ⟨takes_of (by decide), by decide, by decide, by decide⟩, ⟨takes_of (by decide), by decide, by decide, by decide, rfl, by decide⟩,
    ⟨takes_of (by decide), by decide⟩, ⟨rfl, by decide, rfl, by decide, rfl⟩, ⟨rfl, by decide, rfl, rfl⟩, rfl, by decide, rfl, rfl, rfl, by decide, rfl⟩
  · rintro h (rfl | rfl) <;> exact ⟨by decide, by decide, rfl⟩
  · rintro b (rfl | rfl) <;> exact ⟨by decide, by decide, by decide⟩
  · rintro n (rfl | rfl) <;> exact ⟨rfl, by decide, by decide, rfl, rfl, by decide⟩

/-- A shadow that is about to take over at tick 9, with everything its switches need. -/
def takingOver : Part :=
  let p := withPair (inTick 9 (inPair 2 [(G.outEnable 0, 1)])) { PairSt.idle with handover := some (9, 4), driveOut := true }
  { p with life := { p.life with powered := true, applied := true } }

theorem witness_takeoverClosesSwitches : takingOver.pair.handover = some (9, 4) ∧ 9 ≤ takingOver.time.tick ∧ isShadow takingOver = true ∧
    takingOver.life.powered = true ∧ takingOver.life.applied = true ∧ takingOver.life.test = 0 ∧ takingOver.life.shdn = false ∧
    reg takingOver G.pairState ≠ 5 ∧ reg takingOver G.clockState ≠ 2 ∧ vddoLow takingOver = false ∧ reg takingOver (G.outEnable 0) = 1 ∧
    (outOf takingOver 0).shut = false :=
  ⟨rfl, by decide, by decide, rfl, rfl, rfl, rfl, by decide, by decide, by decide, by decide, by decide⟩

/-- A part in SOLO that may join. -/
def solo (l : List (Nat × Nat)) : Part := withRegs ([(G.pairEnable, 1), (G.pairState, 1), (G.lcState, 2), (G.clockState, 0)] ++ l)

set_option maxRecDepth 20000 in
theorem witness_PairsJoinAndPart :
    (∀ n, n = 1 ∨ n = 0 → Takes (withRegs [(G.pairState, n)]) .management G.pairCmd 1 ∧ reg (withRegs [(G.pairState, n)]) G.pairState = n) ∧
    (Takes (inPair 1 []) .management G.pairCmd 2 ∧ paired (inPair 1 []) = true) ∧ (Takes Part.cold .management G.pairCmd 2 ∧ paired Part.cold = false) ∧
    (reg (solo []) G.pairEnable = 1 ∧ reg (solo []) G.pairState = 1 ∧ (∃ x, joinCauseOf (solo []) x ≠ 0) ∧
      ∃ x, joinCauseOf (solo []) x = 0 ∧ pairBudget (solo []) = none ∧ anyRuns (solo []) = false ∧ x.running = true) ∧
    (∃ p x code, reg p G.pairEnable = 1 ∧ reg p G.pairState = 1 ∧ joinCauseOf p x = 0 ∧ anyRuns p = true ∧ pairBudget p = some code) ∧
    (reg Part.cold G.resyncStep = 0 ∧ ∃ p, reg p G.resyncStep = 4 ∧ paired p = true) := by
  refine ⟨?_, ⟨takes_of (by decide), by decide⟩, ⟨takes_of (by decide), by decide⟩, ⟨by decide, by decide, ⟨{ peer with pairId := 5 }, by decide⟩,
    { peer with running := true }, by decide, by decide, by decide, rfl⟩,
    ⟨{ solo [(G.lgState 0, 2)] with adm := { Part.cold.adm with resv := [⟨0, none, [(0, ⟨10 ^ 15, [], true⟩)], 0⟩] } }, peer, 1, by decide, by decide,
      by decide, by decide, by decide⟩,
    by decide, inPair 1 [(G.resyncStep, 4)], by decide, by decide⟩
  rintro n (rfl | rfl) <;> exact ⟨takes_of (by decide), by decide⟩

/-- A part of a joining pair in a step, with a ring of queue 0 that is to be copied up to 128 bytes. -/
def joinAt (role step : Nat) : Part :=
  let p := withRegs [(G.pairState, 2), (G.pairRole, role), (G.resyncStep, step), (G.sqEnable 0, 1), (G.sqRingSize 0, 65536), (G.sqRingBase 0, 4096),
    (G.memState, 2), (G.apDramSize, 2 ^ 37)]
  withPair p { PairSt.idle with ringTo := [(0, 128)] }

/-- What an active part at reset with this configuration sends in step 2. -/
def anImage : ConfigImage := ⟨[(gkey 0x2000 1, 2)], [], [], [(5, 6)], [], [(1, 7)], [], [(9, 4)]⟩

/-- A run state as sent in step 4. -/
def aState : StateImage := ⟨2, 1, [Seq.idle], [], [], [], [], [GroupSt.idle], [], [], [], [(0, 128)]⟩

set_option maxRecDepth 20000 in
theorem witness_JoinsRunTheirSteps :
    (∀ r, r = 1 ∨ r = 2 → ∀ n, n = 2 ∨ n = 3 ∨ n = 4 ∨ n = 5 ∨ n = 6 ∨ n = 7 → awake (st (joinAt r n)) ∧ paired (joinAt r n) = true ∧
      reg (joinAt r n) G.resyncStep = n ∧ isShadow (joinAt r n) = decide (r = 2) ∧ reg (joinAt r n) G.pairState = 2 ∧ reg (joinAt r n) G.memState ≠ 3 ∧
      (joinAt r n).mem.bad = [] ∧ 0 < reg (joinAt r n) (G.sqRingSize 0)) ∧
    (kwf regDefault anImage.regs = true ∧ kwf (fun _ => 0) anImage.edges = true ∧ kwf (fun _ => 0) anImage.descs = true ∧
      kwf (fun _ => 0) anImage.trav = true) ∧
    (∃ h, h ≠ contentHash (joinAt 2 3)) ∧ (∃ h, h = contentHash (joinAt 2 3)) ∧ (∀ g : Grp, kfind (G.lgState g) aState.shown = none) ∧
    ((joinAt 1 5).pair.ringTo = [((0 : Queue).val, 128)] ∧ playPos (joinAt 1 5) 0 < 128) ∧
    ((kfind (0 : Queue).val (joinAt 2 6).pair.ringTo).getD 0 ≤ 64 + (List.replicate 64 (7 : Byte)).length ∧
      (List.replicate 64 (7 : Byte)).length ≤ reg (joinAt 2 6) (G.sqRingSize 0)) := by
  refine ⟨?_, ⟨by decide, by decide, by decide, by decide⟩, ⟨contentHash (joinAt 2 3) + 1, by omega⟩, ⟨_, rfl⟩, by decide, ⟨rfl, by decide⟩, by decide, by decide⟩
  rintro r (rfl | rfl) n (rfl | rfl | rfl | rfl | rfl | rfl) <;>
    exact ⟨rfl, by decide, by decide, by decide, by decide, by decide, rfl, by decide⟩

theorem witness_ResetsClearThePart :
    (∃ p : Part, p.life.powered = false) ∧ Part.cold.life.powered = true ∧ Part.cold.life.rstN = false ∧ (∃ p : Part, p.life.rstN = true) ∧
    (awake (st Part.cold) ∧ Takes Part.cold .management G.resetCmd 1 ∧ anyRuns Part.cold = false) ∧
    (∃ p, awake (st p) ∧ Takes p .management G.resetCmd 1 ∧ anyRuns p = true) :=
  ⟨⟨{ Part.cold with life := { Part.cold.life with powered := false } }, rfl⟩, rfl, rfl, ⟨{ Part.cold with life := { Part.cold.life with rstN := true } }, rfl⟩,
   ⟨rfl, takes_of (by decide), by decide⟩, grouped 2 [], rfl, takes_of (by decide), by decide⟩

/-- A slot image whose signature is sig and whose digest is right. -/
def image (sig : Nat) : FwSlot := ⟨0x4B584657, 1, 7, 0, 0, Config.sha256 [], sig, []⟩

/-- The part with this image in a firmware slot. -/
def flashed (i : Nat) (x : FwSlot) : Part :=
  { Part.cold with life := if i = 0 then { Part.cold.life with flash0 := some x } else { Part.cold.life with flash1 := some x } }

/-- Where a signature of the image verifies, as one of a released image does, the slot is good (R348). -/
theorem flashed_ok (sig : Nat) (h : Config.slhVerify (Config.publicKey 0) (fwHeader (image sig)) (toBytesLE 7856 sig) = true) :
    Machine.slotOk (flashed 0 (image sig)) 0 = true ∧ Machine.slotOk (flashed 1 (image sig)) 1 = true := by
  have f : ∀ p, reg p G.fwSecurityFloor = 0 → fwVerifies p (image sig) = true := by
    intro p hp
    simp only [image] at h
    simp [fwVerifies, hp, image, h]
  have z : reg Part.cold G.fwSecurityFloor = 0 := by decide
  exact ⟨f _ z, f _ z⟩

theorem witness_StartUpBringsThePartUp (sig : Nat) (h : Config.slhVerify (Config.publicKey 0) (fwHeader (image sig)) (toBytesLE 7856 sig) = true) :
    (∃ p : Part, p.life.applied = true) ∧ (Part.cold.life.applied = false ∧ Part.cold.life.recovery = false ∧ Part.cold.life.intent = none ∧
      Machine.slotOk Part.cold 0 = false ∧ Machine.slotOk Part.cold 1 = false) ∧
    (∃ p x, p.life.applied = false ∧ p.life.recovery = false ∧ p.life.intent = none ∧ reg p G.fwSlotActive % 2 = 0 ∧ Machine.slotOk p 0 = true ∧ fwSlot p 0 = some x ∧
      p.life.bench = [] ∧ reg p G.stResult ≠ 1 ∧ p.life.image0 = none ∧ p.life.image1 = none) ∧
    (∃ p x, p.life.intent = none ∧ Machine.slotOk p 0 = false ∧ Machine.slotOk p 1 = true ∧ fwSlot p 1 = some x) ∧
    (∃ p x, p.life.applied = false ∧ p.life.recovery = false ∧ reg p G.lcPhase = 0 ∧ p.life.intent = some 4 ∧ Machine.slotOk p 0 = true ∧ fwSlot p 0 = some x) := by
  refine ⟨⟨{ Part.cold with life := { Part.cold.life with applied := true } }, rfl⟩, ⟨rfl, rfl, rfl, rfl, rfl⟩,
    ⟨flashed 0 (image sig), _, rfl, rfl, rfl, (by decide : reg Part.cold G.fwSlotActive % 2 = 0), (flashed_ok sig h).1, rfl, rfl,
      (by decide : reg Part.cold G.stResult ≠ 1), rfl, rfl⟩, ⟨_, _, rfl, rfl, (flashed_ok sig h).2, rfl⟩,
    ⟨{ flashed 0 (image sig) with life := { (flashed 0 (image sig)).life with intent := some 4 } }, _, rfl, rfl, (by decide : reg Part.cold G.lcPhase = 0), rfl,
      (flashed_ok sig h).1, rfl⟩⟩

/-- A self-test of a kind stands in a state and a phase. -/
def testing (kind state phase : Nat) (shdn : Bool) : Part :=
  { withRegs [(G.stState, state), (G.stPhase, phase)] with life := { Part.cold.life with test := kind, shdn := shdn } }

/-- Measured values within the conditions of a test, or not. -/
def found (ok : Bool) : PhaseResult := ⟨0, 0, 0, if ok then 7500 else 0, 7500, 10000, 10000, 20, 30, 0, 5⟩

theorem witness_ShutdownTestsRunTheirPhases :
    (∃ p : Part, p.life.shdn = true) ∧ (Part.cold.life.shdn = false ∧ Part.cold.life.held = false ∧ Part.cold.life.test = 0 ∧ Part.cold.life.commit = none ∧
      Part.cold.life.intent = none ∧ Part.cold.pair.handover = none ∧ ¬ (partnerFit Part.cold = true ∧ reg Part.cold G.pairRole = 1)) ∧
    (let p := withPair (inPair 1 []) { PairSt.idle with hb := some beat }; partnerFit p = true ∧ reg p G.pairRole = 1 ∧ p.pair.handover = none) ∧
    (∃ p : Part, p.life.test = 4) ∧
    (∃ (p : Part) (m : KMap Nat), p.life.shdn = true ∧ p.life.test = 0 ∧ p.life.intent = none ∧ p.pair.handover = none ∧ p.life.commit = some m) ∧
    (∃ p : Part, p.life.shdn = true ∧ p.life.test = 0 ∧ p.life.commit = none ∧ p.life.intent = none ∧ p.pair.handover = some (0, 1) ∧ p.pair.released = true) ∧
    (∀ lc, lc = 0 ∨ lc = 2 → let p := withRegs [(G.lcState, lc)]; Takes p .management G.stCmd 1 ∧ p.life.test = 0 ∧ p.life.shdn = false ∧ anyRuns p = false ∧
      reg p G.lcState = lc) ∧
    (∃ p, Takes p .management G.stCmd 1 ∧ reg p G.lcState = 2 ∧ anyRuns p = true) ∧
    (Takes (testing 3 2 4 false) .management G.stCmd 2 ∧ (testing 3 2 4 false).life.test = 3 ∧ reg (testing 3 2 4 false) G.stState = 2) ∧
    (Takes Part.cold .management G.stCmd 2 ∧ Part.cold.life.test = 0) ∧
    (∀ n : Fin 7, reg (testing 3 2 (n.val + 1) false) G.stPhase = n.val + 1 ∧ reg (testing 3 2 (n.val + 1) false) G.stState = 2 ∧
      anyRuns (testing 3 2 (n.val + 1) false) = false) ∧
    testConditions (found true) = true ∧ testConditions (found false) = false ∧
    (∀ b, b = true ∨ b = false → (testing 1 3 0 b).life.test = 1 ∧ (testing 1 3 0 b).life.shdn = b ∧ 3 ≤ reg (testing 1 3 0 b) G.stState) ∧
    (awake (st (testing 5 3 0 false)) ∧ (testing 5 3 0 false).life.test = 5) ∧ (awake (st (testing 6 3 0 false)) ∧ (testing 6 3 0 false).life.test = 6) := by
  refine ⟨⟨testing 0 0 0 true, rfl⟩, ⟨rfl, rfl, rfl, rfl, rfl, rfl, by decide⟩, ⟨by decide, by decide, rfl⟩, ⟨testing 4 3 0 true, rfl⟩,
    ⟨{ Part.cold with life := { Part.cold.life with shdn := true, commit := some [] } }, [], rfl, rfl, rfl, rfl, rfl⟩,
    ⟨withPair (testing 0 0 0 true) { PairSt.idle with handover := some (0, 1), released := true }, rfl, rfl, rfl, rfl, rfl, rfl⟩, ?_,
    ⟨withRegs [(G.lcState, 2), (G.lgState 0, 2)], takes_of (by decide), by decide, by decide⟩, ⟨takes_of (by decide), rfl, by decide⟩,
    ⟨takes_of (by decide), rfl⟩, by decide, by decide, by decide, ?_, ⟨rfl, rfl⟩, rfl, rfl⟩
  · rintro n (rfl | rfl) <;> exact ⟨takes_of (by decide), rfl, rfl, by decide, by decide⟩
  · rintro b (rfl | rfl) <;> exact ⟨rfl, rfl, by decide⟩

/-- A part with a presence window open, in a lifecycle state. -/
def visited (lc : Nat) (l : List (Nat × Nat)) (x : LifeSt) : Part := { withRegs ([(G.presenceOpen, 1), (G.lcState, lc)] ++ l) with life := x }

theorem witness_FirmwareNvAndLifecycleChange (sig : Nat)
    (h : Config.slhVerify (Config.publicKey 0) (fwHeader (image sig)) (toBytesLE 7856 sig) = true) :
    (presenceOpen Part.cold = false ∧ Part.cold.life.test = 0 ∧ reaches Part.cold (.portA 1) 0x1904 = true ∧ reaches Part.cold (.portA 1) 0x1903 = true ∧
      reaches Part.cold (.portA 1) 0x1900 = true) ∧
    (let p := visited 1 [] LifeSt.blank; TakesBulk p .management G.fwImage ∧ p.life.fwNew = none ∧ (reg p G.lcState = 1) ∧ fwVerifies p (image sig) = true ∧
      fwVerifies p { image sig with magic := 0 } = false) ∧
    (∀ b, b = true ∨ b = false → ∃ p : Part, p.life.fwNew = some (image sig) ∧ p.life.recovery = b) ∧ Part.cold.life.fwNew = none ∧
    (∀ v, v = 0 ∨ v = 1 → let p := visited 2 [] { LifeSt.blank with flash0 := some (image sig) }; Takes p .management G.fwActivate v ∧
      Machine.slotOk p v = decide (v = 0)) ∧
    (∀ lc, lc = 0 ∨ lc = 2 → let p := visited lc [] LifeSt.blank; Takes p .management G.nvCommit 1 ∧ reg p G.lcState = lc ∧ p.life.commit = none) ∧
    (∃ p : Part, p.life.commit = some [] ∧ p.life.shdn = false ∧ nvBest p = none) ∧
    (∃ (p : Part) (y : NvImage), p.life.commit = some [] ∧ nvBest p = some (0, y)) ∧ (∃ (p : Part) (y : NvImage), p.life.commit = some [] ∧ nvBest p = some (1, y)) ∧
    (let p := visited 2 [(G.lcTarget, 3)] LifeSt.blank; Takes p .management G.lcGo 1 ∧ lcPermitted (reg p G.lcState) (reg p G.lcTarget) = true ∧
      paired p = false ∧ p.life.intent = none ∧ anyRuns p = false) ∧
    (∃ p, Takes p .management G.lcGo 1 ∧ lcPermitted (reg p G.lcState) (reg p G.lcTarget) = true ∧ anyRuns p = true) ∧
    (∃ p, Takes p .management G.lcGo 1 ∧ lcPermitted (reg p G.lcState) (reg p G.lcTarget) = false) ∧
    (∀ t, t = 3 ∨ t = 4 → ∃ p : Part, p.life.intent = some t ∧ ¬ (reg p G.zfState = 1 ∧ (reg p G.memState = 2 ∨ reg p G.memState = 4)) ∧ p.life.shdn = false) ∧
    (∃ p : Part, p.life.intent = some 3 ∧ reg p G.zfState = 1 ∧ reg p G.memState = 2) := by
  have f : ∀ p, reg p G.fwSecurityFloor = 0 → fwVerifies p (image sig) = true := by
    intro p hp
    simp only [image] at h
    simp [fwVerifies, hp, image, h]
  refine ⟨⟨by decide, rfl, by decide, by decide, by decide⟩, ⟨takesBulk_of (by decide), rfl, by decide, f _ (by decide), ?_⟩, ?_, rfl, ?_, ?_,
    ⟨{ Part.cold with life := { LifeSt.blank with commit := some [] } }, rfl, rfl, rfl⟩,
    ⟨{ Part.cold with life := { LifeSt.blank with commit := some [], nk := 5, image0 := some ⟨3, 5, []⟩ } }, _, rfl, rfl⟩,
    ⟨{ Part.cold with life := { LifeSt.blank with commit := some [], nk := 5, image0 := some ⟨3, 5, []⟩, image1 := some ⟨4, 5, []⟩ } }, _, rfl, rfl⟩,
    ⟨takes_of (by decide), by decide, by decide, rfl, by decide⟩,
    ⟨visited 2 [(G.lcTarget, 3), (G.lgState 0, 2)] LifeSt.blank, takes_of (by decide), by decide, by decide⟩,
    ⟨visited 2 [(G.lcTarget, 0)] LifeSt.blank, takes_of (by decide), by decide⟩, ?_,
    ⟨{ trained [(G.zfState, 1)] with life := { LifeSt.blank with intent := some 3 } }, rfl, by decide, by decide⟩⟩
  · simp [fwVerifies]
  · rintro b (rfl | rfl)
    · exact ⟨{ Part.cold with life := { LifeSt.blank with fwNew := some (image sig), recovery := true } }, rfl, rfl⟩
    · exact ⟨{ Part.cold with life := { LifeSt.blank with fwNew := some (image sig) } }, rfl, rfl⟩
  · rintro v (rfl | rfl)
    · exact ⟨takes_of rfl, f _ (by decide : reg (visited 2 [] LifeSt.blank) G.fwSecurityFloor = 0)⟩
    · exact ⟨takes_of rfl, rfl⟩
  · rintro v (rfl | rfl) <;> exact ⟨takes_of (by decide), by decide, rfl⟩
  · rintro t (rfl | rfl)
    · exact ⟨{ Part.cold with life := { LifeSt.blank with intent := some 3 } }, rfl, by decide, rfl⟩
    · exact ⟨{ Part.cold with life := { LifeSt.blank with intent := some 4 } }, rfl, by decide, rfl⟩

theorem witness_TheLockRefusesStagedAndFixedWrites :
    (∃ e, awake (st (withRegs [(G.gzLock, 1)])) ∧ reaches (withRegs [(G.gzLock, 1)]) (.portA 1) 0x2000 = true ∧ lookup 0x2000 1 = .entry e 1 ∧
      (∀ n, e.ty ≠ .bulk n) ∧ reg (withRegs [(G.gzLock, 1)]) G.gzLock = 1 ∧ e.acc = .rw ∧ e.cls = .staged) ∧
    (∃ e, reaches (withRegs [(G.gzLock, 1)]) (.portA 1) 0x1100 = true ∧ lookup 0x1100 1 = .entry e 1 ∧ e.acc = .rw ∧ e.cls = .fixed) ∧
    (∃ e, reaches Part.cold (.portA 1) 0x1000 = true ∧ lookup 0x1000 1 = .entry e 1 ∧ (∀ n, e.ty ≠ .bulk n) ∧ e.acc = .ro) ∧
    (∃ e p, lookup 0x1010 1 = .entry e 1 ∧ e.acc = .wo1 ∧ regBit p G.wo1Written (onceBit (gkey 0x1010 1)) = true) :=
  ⟨⟨_, rfl, by decide, rfl, (by intro n h; cases h), by decide, by decide, by decide⟩, ⟨_, by decide, rfl, by decide, by decide⟩,
   ⟨_, by decide, rfl, (by intro n h; cases h), by decide⟩, _, withRegs [(G.wo1Written, 2 ^ onceBit (gkey 0x1010 1))], rfl, by decide, by decide⟩

set_option maxRecDepth 20000 in
theorem witness_StepsKeepThePartSound : ∃ s t, Sound s.part ∧ step s = .next t :=
  ⟨State.reset, State.reset, ⟨rfl, rfl, by decide, by decide, by decide⟩, rfl⟩

theorem witness_LldpAndBadFrames : awake (st Part.cold) ∧ Part.cold.life.recovery = false := ⟨rfl, rfl⟩

end Sys2Proof.Tests
end

