-- ==== Sys2Proof/Tests/Slice0.lean ====
section
/-!
SUPPORT. The smoke test of the well-formedness check, with an ill-formed term for each of its checks, and small tests whose expected values are those
of the spec's own tables and worked examples. (The witnesses of the statements stand in the other files of this folder.)
-/

namespace Sys2Proof.Tests

open Sys2Proof.Machine

/-- Every command of a list is refused by the check. -/
def allIllFormed (l : List Instr) : Bool := l.all fun i => !wellFormed i

/-- A path whose requester does not fit. -/
def badPath : Path := .bar0 65536

/-- A header whose source does not fit. -/
def badHeader : PlHeader := ⟨.a, 2 ^ 128, 8, 1, 3, false, false⟩

theorem test_ill_formed_paths :
    allIllFormed [.traverseStepWrite badPath 0 0, .evClear badPath 0 0, .planGo badPath 0 1, .logClear badPath 1, .bpTarget badPath 0, .bpData badPath none,
      .bpCommit badPath 1, .fsKhzWrite badPath 0, .epochWrite badPath 0, .datumSet badPath 0, .alarmEnable badPath 0 1, .fireMask badPath 1 0] = true ∧
    allIllFormed [.segDescWrite badPath 0 0, .edgeStoreWrite badPath [], .ldGo badPath 1, .upData badPath [], .pacedPush badPath 0 0, .pacedFlush badPath 0 1,
      .arm badPath 0, .start badPath 0, .stop badPath 0, .restart badPath 0, .strobe badPath 0, .disarm badPath 0, .lgStrobeAt badPath 0 0] = true ∧
    allIllFormed [.faultClear badPath 0 1, .trimFreezeReq badPath 0 1, .watchCauseClear badPath 0 1, .sqEnable badPath 0 1, .sqNetData badPath 0 [],
      .sqFlush badPath 0 1, .quietReq badPath 1, .join badPath, .leave badPath, .handover badPath, .force badPath, .resetCmd badPath 1] = true ∧
    allIllFormed [.fwImage badPath (image 0), .fwActivate badPath 0, .nvCommit badPath 1, .run badPath, .abort badPath, .lcGo badPath 1,
      .attNonce badPath 0, .join (.portA (2 ^ 32)), .join (.portB (2 ^ 32))] = true := by decide

theorem test_ill_formed_values :
    allIllFormed [.traverseStepWrite .mirror 262144 0, .traverseStepWrite .mirror 0 (2 ^ 128), .evClear .mirror 0 (2 ^ 32), .planGo .mirror 0 256,
      .logClear .mirror 256, .bpTarget .mirror (2 ^ 32), .bpData .mirror (some (2 ^ 64)), .bpCommit .mirror 256, .fsKhzWrite .mirror (2 ^ 32),
      .epochWrite .mirror (2 ^ 96), .datumSet .mirror (2 ^ 96), .alarmEnable .mirror 0 256] = true ∧
    allIllFormed [.fireMask .mirror (2 ^ 256) 0, .segDescWrite .mirror 16384 0, .segDescWrite .mirror 0 (2 ^ 128),
      .ldGo .mirror 256, .pacedPush .mirror 0 (2 ^ 64),
      .pacedFlush .mirror 0 256, .lgStrobeAt .mirror 0 (2 ^ 64), .faultClear .mirror 0 256, .trimFreezeReq .mirror 0 (2 ^ 32)] = true ∧
    allIllFormed [.watchCauseClear .mirror 0 (2 ^ 32), .sqEnable .mirror 0 256, .sqFlush .mirror 0 256, .quietReq .mirror (2 ^ 32), .resetCmd .mirror 256,
      .fwActivate .mirror 256, .nvCommit .mirror 256, .lcGo .mirror 256, .attNonce .mirror (2 ^ 256)] = true := by decide

theorem test_ill_formed_lengths (l : List Byte) : (l.length = 262145 → wellFormed (.edgeStoreWrite .mirror l) = false) ∧
    (l.length = 1048577 → wellFormed (.upData .mirror l) = false) := by
  constructor <;> (intro h; simp [wellFormed, h])

theorem test_ill_formed_steps :
    allIllFormed [.play 0 16384 1, .play 0 0 0, .play 0 0 (2 ^ 32), .playt 0 16384 1 false false, .playt 0 0 256 false false, .loop 0 (2 ^ 32),
      .call 0 (.offset (2 ^ 18)), .call 0 (.waypoint 256), .jump 0 (.offset (2 ^ 18)), .brev 0 0 false (.offset 0), .brev 0 256 false (.offset 0),
      .brev 0 1 false (.waypoint 256)] = true ∧
    allIllFormed [.waitev 0 0 false false 0 0, .waitev 0 256 false false 0 0, .waitev 0 1 false false 3 0, .waitev 0 1 false false 0 65536,
      .waittick 0 false 3 0 0, .waittick 0 false 0 250 0, .waittick 0 false 0 0 (2 ^ 64), .sync 0 3 0, .sync 0 0 256, .lead 0 0, .lead 0 65, .halt 0 3,
      .level 0 3 0, .level 0 0 (2 ^ 32)] = true ∧
    allIllFormed [.tone 0 ⟨4, true, false, false, false, false, 0, 0, 0⟩, .tone 0 ⟨0, false, false, false, false, false, 0, 0, 0⟩,
      .tone 0 ⟨0, true, false, false, false, true, 0, 0, 0⟩, .tone 0 ⟨0, true, false, false, false, false, 65536, 0, 0⟩,
      .tone 0 ⟨0, true, false, false, false, false, 0, 2 ^ 32, 0⟩, .tone 0 ⟨0, true, false, false, false, false, 0, 0, 2 ^ 48⟩] = true := by decide

theorem test_ill_formed_accesses :
    allIllFormed [.gazetteerWrite (.slot 65536 0 0 0), .gazetteerWrite (.slot 0 (2 ^ 24) 0 0), .gazetteerWrite (.whole badPath 0 0 0),
      .gazetteerWrite (.whole .mirror 65536 0 0), .gazetteerWrite (.whole .mirror 0 256 0), .gazetteerWrite (.whole .mirror 0 0 (2 ^ 256)),
      .bar0StagedWordWrite 65536 0 false 0, .bar0StagedWordWrite 0 (2 ^ 24) false 0, .bar0SnapshotRead 65536 0 0, .bar0SnapshotRead 0 (2 ^ 24) 0] = true ∧
    allIllFormed [.bar0CrossingAccess 65536 0 true 0, .bar0CrossingAccess 0 (2 ^ 24) true 0, .bar0CrossingAccess 0 0 true (2 ^ 64),
      .bar0UnsupportedRequest 65536, .writeOnlyRead 65536 0, .writeOnlyRead 0 (2 ^ 24), .bar4Write (2 ^ 32) [none], .bar4Read (2 ^ 32) 1,
      .mirrorWriteRecord 65536 0 0, .mirrorWriteRecord 0 256 0] = true := by decide

theorem test_ill_formed_frames :
    allIllFormed [.read badHeader [], .write badHeader [], .writeBlock badHeader [], .subscribe badHeader 0 0 0 [], .discover badHeader,
      .fireRequest badHeader 0 0 0, .attest badHeader 0 0, .read { header with udpPort := 65536 } [], .read { header with session := 2 ^ 32 } [],
      .read { header with seq := 2 ^ 32 } []] = true ∧
    allIllFormed [.read header [⟨65536, 0, 0, 0, 0, []⟩], .write header [⟨0, 256, 0, 0, 0, []⟩], .writeBlock header [⟨0, 0, 256, 0, 0, []⟩],
      .read header [⟨0, 0, 0, 2 ^ 32, 0, []⟩], .read header [⟨0, 0, 0, 0, 2 ^ 32, []⟩], .subscribe header (2 ^ 32) 0 0 [], .subscribe header 0 65536 0 [],
      .subscribe header 0 0 256 [], .publication 65536, .fireRequest header (2 ^ 256) 0 0, .fireRequest header 0 (2 ^ 64) 0] = true ∧
    allIllFormed [.attest header (2 ^ 256) 0, .attest header 0 (2 ^ 32), .announce .a ⟨2 ^ 64, 0, 0, 0, 0, 0, 0, 0, 0⟩,
      .announce .a ⟨0, 0, 0, 0, 0, 0, 0, 0, 2 ^ 128⟩, .announce .a ⟨0, 256, 0, 0, 0, 0, 0, 0, 0⟩, .lldpReceive .a ⟨0, 0, 0, 65536⟩,
      .ptpSyncExchange .a ptpHead (2 ^ 63) 0 0, .ptpSyncExchange .a ptpHead 0 (2 ^ 63) 0, .ptpSyncExchange .a ⟨256, 0, 0, false⟩ 0 0 0,
      .ptpAnnounceReceive .a ptpHead { master with gmIdentity := 2 ^ 64 }, .ptpAnnounceReceive .a ptpHead { master with stepsRemoved := 65536 },
      .ptpAnnounceReceive .a ptpHead { master with variance := 65536 }, .ptpAnnounceReceive .a ptpHead { master with priority1 := 256 },
      .ptpAnnounceReceive .a ⟨256, 0, 0, false⟩ master, .ppsInEdge (10 ^ 12) 0 0, .ppsInEdge 0 (10 ^ 12) 0, .graticuleAligned (2 ^ 48), .evioInEdge 0 true 250 0] = true := by decide

theorem test_ill_formed_units :
    allIllFormed [.trimForced 0 65536 0, .streamDescFetch 0 [⟨2 ^ 128, .error⟩] 0, .dramTrainingDone 5000 ⟨true, true, 15, 1, 1, 0⟩,
      .dramTrainingDone 6400 ⟨true, true, 16, 1, 1, 0⟩, .dramTrainingDone 6400 ⟨true, true, 15, 1, 3, 0⟩, .dramRequest 0 0 0 0 0 none,
      .dramRequest 0 0 0 (2 ^ 40) 1 none, .dramRequest 0 0 0 0 2 (some [0]), .rowIdleClose 0 2 0 0, .rowIdleClose 0 0 32 0, .refreshDue 0 2 0] = true ∧
    allIllFormed [.deviceTempRead 0 2 true, .dqsOscRead 0 65536 0 0, .scrub 1 .clean, .admissionVerdict 256 0 0, .admissionVerdict 0 (2 ^ 256) 0,
      .heartbeatReceive { beat with tick := 2 ^ 64 }, .heartbeatReceive { beat with mask := 2 ^ 256 }, .heartbeatReceive { beat with parked := 2 ^ 256 },
      .captureLogReceive 0 [⟨250, 0, 0, 0⟩] 0, .captureLogReceive 0 [⟨0, 256, 0, 0⟩] 0, .captureLogReceive 0 [⟨0, 0, 4096, 0⟩] 0] = true ∧
    allIllFormed [.dbTail (2 ^ 19) (.write 4 0), .dbTail 0 (.write 9 0), .dbTail 0 (.write 4 (2 ^ 32)), .dbTail (2 ^ 19) (.read 4), .dbTail 0 (.read 0),
      .hostLost (.returned 256 0), .hostLost (.returned 0 256), .joinStepDone (.content (2 ^ 256)), .joinStepDone (.refused 256),
      .joinStepDone (.ring 64 0 [] [])] = true := by decide

theorem test_well_formed :
    ([.play 0 16383 (2 ^ 32 - 1), .lead 255 64, .traverseStepWrite .mirror 262143 (2 ^ 128 - 1), .gazetteerWrite (.slot 65535 (2 ^ 24 - 1) 15 7),
      .read header [⟨65535, 255, 255, 0, 0, []⟩], .scrub 64 .clean] : List Instr).all wellFormed = true := by decide

/-- A record of 128 bits from its two slots. -/
def rec2 (slot1 slot2 : Nat) : Nat := slot1 + slot2 * 2 ^ 64

/-- Table 06-10: the records of the worked example stand for its steps, and the steps are coded as these records. -/
theorem test_table_06_10 :
    ([(rec2 0x000000000000100A 0x000000012A05F200, .waittick false 1 0 5000000000), (rec2 3 0, .loop 0),
      (rec2 0x000000000000040B 0x0000200000000000, .tone ⟨0, true, false, false, false, false, 0, 0, 0x200000000000⟩),
      (rec2 0x0000002300000005 0, .call (.offset 35)), (rec2 0x0000020000000001 1, .play 512 1), (rec2 0x00003FFF00000001 3, .play 16383 3),
      (rec2 0x00003FFF01010002 0, .playt 16383 1 true false)] : List (Nat × Machine.Step)).all
        (fun e => decide (decodeStep e.1 = some e.2 ∧ encodeStep e.2 = e.1)) = true := by decide

/-- R138: an opcode outside Table 06-2, an unassigned bit and a field outside its range are no step. -/
theorem test_bad_steps : [0x11, 0x04 + 2 ^ 8, 0x01 + 5 * 2 ^ 32, 0x08, 0x0D + 3 * 2 ^ 8, 0x0B].map decodeStep = List.replicate 6 none := by decide

/-- Table 05-10 and the scene of descriptor 1 (chapter 05): the fields of descriptor records. -/
theorem test_table_05_10 :
    readDesc (rec2 0x000007D0000007D0 0x0101000200000004) = ⟨2000, 2000, 0, 1, 0, 0, 2, 0x0101⟩ ∧
    readDesc (rec2 0x0773594000400000 0) = ⟨0x400000, 125000000, 0, 0, 0, 0, 0, 0⟩ := by decide

/-- Chapter 12, "where one sample of a scene lies": sub-channel, rank, bank group and bank, and row of byte 0x1BEBC200 at the two grains. -/
theorem test_where_a_sample_lies :
    (subOf (trained [(G.memGrain, 12), (G.memRanks, 1)]) 0x1BEBC200, bankRow (trained [(G.memGrain, 12), (G.memRanks, 1)]) 0x1BEBC200) = (4, 4 * 4 + 2, 223) ∧
    (subOf (trained [(G.memGrain, 16), (G.memRanks, 1)]) 0x1BEBC200, bankRow (trained [(G.memGrain, 16), (G.memRanks, 1)]) 0x1BEBC200) = (3, 4 * 1 + 2, 223) := by
  decide

/-- Table 02-10: the phase of the tone of 5/32 of fS at samples 125,000,000,000 and 125,000,001,750 is 0 and 0.4375 of a cycle. -/
theorem test_table_02_10 :
    let d : Dp := { Dp.idle with recs := [5 * 2 ^ 43, 0, 0, 0] }
    phaseOf d 0 125000000000 = 0 ∧ phaseOf d 0 125000001750 = 4375 * 2 ^ 48 / 10000 := by decide

/-- Table 08-13 and Table 08-14: the record of f_b, and its phase with P at sample 250 H. -/
theorem test_table_08_13 :
    let r := rec2 0x40001EC000000000 0x0000000095E00000
    toneF r = 123 * 2 ^ 38 ∧ toneA r = 0x4000 ∧ toneP r = 1199 * 2 ^ 21 ∧
      phaseOf { Dp.idle with recs := [0, r, 0, 0] } 1 (250 * 10 ^ 9) = 1199 * 2 ^ 37 := by decide

/-- The part with two words of ALARM_TIME of alarm 3 staged over BAR0 (Table 03-20). -/
def alarmStaged : Part := { Part.cold with gz := { Part.cold.gz with stage := some (gkey 0x1233 1, [(0, 0xC7A80000), (1, 0xD2C73B9A)]) } }

/-- Table 03-20: write 3 is the commit word of G:1233.01 and makes the whole value pending; it is TIME96 of 1,800,000,199 s and 999,999,400 ns. -/
theorem test_table_03_20 :
    (match exec (.gazetteerWrite (.slot 0 (0x1233 * 256 + 2) 0x0F 0x6B49)) (st alarmStaged) with
      | .next t => decide (kfind (gkey 0x1233 1) t.part.gz.bound = some (1800000199 * 2 ^ 48 + 999999400 * 2 ^ 16) ∧ t.part.gz.stage = none)
      | _ => false) = true := by decide

/-- Chapter 03, same example: a write of another entry discards the staged words and is logged with 0x05 against G:1233.01. -/
theorem test_discarded_words :
    (match exec (.gazetteerWrite (.slot 0 (0x1233 * 256 + 4) 0x01 1)) (st alarmStaged) with
      | .next t => decide (t.part.gz.stage = none ∧ bits (reg t.part (G.logWhat 0)) 31 0 = logWhat 5 0x1233 1 1 (.bar0 0) % 2 ^ 32)
      | _ => false) = true := by decide

/-- Table 04-8: a pulse of EVIO12, stamped (k, 43), arrives at EC5, whose CHAIN feeds EC9. -/
def chained : Part :=
  let p := inTick 1 (withRegs [(gkey 0x1309 0x01, 0xA05)])
  { p with fab := { p.fab with arrivals := [⟨5, 0, 31, ⟨1, 43, 0x00C, 0⟩⟩] } }

/-- Table 04-8: EC5 asserts in cycle 6, and CHAIN 5 asserts with generation 1 and stamp (k, 70) in cycle 7. -/
theorem test_table_04_8 :
    (match exec (.eventChannelAssert 5) (st chained) with
      | .next t => decide (t.part.fab.producers.map (fun x => (x.at_, x.pulse)) = [(32, ⟨1, 70, 0xA05, 1⟩)])
      | _ => false) = true := by decide

/-- Table 10-6: three readings of 0.2 mV against 250 mV have been compared; reading 4 of channel 37, taken in tick K+53, waits. -/
def shorted : Part :=
  let w : WatchSt := { WatchSt.idle with devRun := 3, shortRun := 3 }
  inTick 1000000054 { Part.cold with watch := Part.cold.watch.set 37 { w with reading := some ⟨1000000053, 91, false, true, 250000, 200, 100, 10000⟩ } }

set_option maxRecDepth 20000 in
/-- Table 10-6: the verdict of tick K+54: WATCH_CAUSE 0x5, WATCH_CLASS 2, WATCH (0x725) and FAULT (0x625) stamped (K+54, 50), FAULT_CAUSE bit 1. -/
theorem test_table_10_6 :
    (match exec (.watchVerdict 37) (st shorted) with
      | .next t => decide (reg t.part (G.watchCause 37) = 5 ∧ reg t.part (G.watchClass 37) = 2 ∧ reg t.part (G.faultCause 37) = 2 ∧
          t.part.fab.producers.map (fun x => (x.pulse.tick, x.pulse.off, x.pulse.src)) = [(1000000054, 50, 0x725), (1000000054, 50, 0x625)])
      | _ => false) = true := by decide

/-- Chapter 10, same example: converter W2 reads channel 37 in tick K+5 at offset 50, and in tick K+21 at offset 147. -/
theorem test_watch_schedule :
    watchChan 2 1000000005 = 37 ∧ watchOffset Part.cold 37 1000000005 = 50 ∧ watchOffset Part.cold 37 1000000021 = 147 ∧
      watchOffset Part.cold 37 1000000037 = 244 ∧ watchOffset Part.cold 37 1000000053 = 91 := by decide

/-- Table 09-9: from the tick a = v + 1 of a span change to its ready tick v + 54 there are 53 ticks, of which 50 are the ramp (v + 3 to v + 53). -/
theorem test_table_09_9 : rampTicks Part.cold + 3 = 53 := by decide

/-- Table 01-3: the jump task sees a pulse captured at (k, 173) in core cycle 20 (20 = 17 + 3), and acts in tick k + 3 at sample 750 after it. -/
theorem test_table_01_3 : ∀ k : Fin 4, actionInstant ⟨k.val, 173, 0, 0⟩ 0 true = 250 * k.val + 173 + 750 := by decide

end Sys2Proof.Tests
end

section
/-!
SUPPORT. Folds over channels and groups: what every step of a fold leaves alone, the fold leaves alone, and a fold that visits every channel once
settles each by itself.
-/

namespace Sys2Proof.Machine

/-- A fold whose steps leave a view alone leaves it alone. -/
theorem foldl_frame {σ α β : Type} {v : σ → β} {f : σ → α → σ} (h : ∀ q x, v (f q x) = v q) (l : List α) (p : σ) : v (l.foldl f p) = v p :=
  List.foldlRecOn l f (motive := fun q => v q = v p) rfl fun q hq x _ => (h q x).trans hq

/-- A fold that visits every unit once, where the visit of a unit changes its view by g and leaves those of the others, changes each view by g. -/
theorem foldl_each {n : Nat} {β : Type} {v : Part → Fin n → β} {f : Part → Fin n → Part} {g : β → β} (hs : ∀ q c, v (f q c) c = g (v q c))
    (ho : ∀ q c d, d ≠ c → v (f q c) d = v q d) (p : Part) (c : Fin n) : v ((List.finRange n).foldl f p) c = g (v p c) := by
  have key : ∀ (l : List (Fin n)) (p : Part), l.Nodup → v (l.foldl f p) c = if c ∈ l then g (v p c) else v p c := by
    intro l
    induction l with
    | nil => simp
    | cons x l ih =>
      intro p hl
      obtain ⟨hx, hl⟩ := List.nodup_cons.mp hl
      rw [List.foldl_cons, ih _ hl]
      by_cases hc : c = x
      · subst hc; simp [hx, hs]
      · simp [hc, ho p x c hc]
  rw [key _ p (List.nodup_finRange n), if_pos (List.mem_finRange c)]

/-- A search by a fold finds nothing where it starts with nothing and no element is a find. -/
theorem foldl_eq_none_iff {α β : Type} {f : Option β → α → Option β} {P : α → Prop} (h : ∀ a x, f a x = none ↔ a = none ∧ P x) (l : List α)
    (a : Option β) : l.foldl f a = none ↔ a = none ∧ ∀ x ∈ l, P x := by
  induction l generalizing a with
  | nil => simp
  | cons x l ih => rw [List.foldl_cons, ih, h, and_assoc, List.forall_mem_cons]

/-- Where no sequencer is found stuck, none stands still (R158). -/
theorem act_ne_stuck {p : Part} (h : stuckChan p = none) (c : Chan) (pc : Nat) (w : StuckWhy) : (seqOf p c).act ≠ .stuck pc w := by
  intro hc
  have := List.findSome?_eq_none_iff.mp h c (List.mem_finRange c)
  simp [hc] at this

end Sys2Proof.Machine
end

section
/-!
SUPPORT. The decide stage (R12, R140). Its pieces around the advance of the sequencers leave every sequencer at its place and memory, groups and
admission as they were (Stands); the advance itself ends with no channel behind, or with one that stands still.
-/

namespace Sys2Proof.Machine

variable {p q r : Part} {c d : Chan} {m : Nat}

/-- Between p and q no sequencer has moved, and memory, load groups and admission are as they were. -/
structure Stands (p q : Part) : Prop where
  seqs : ∀ c, (seqOf q c).act = (seqOf p c).act ∧ (seqOf q c).at_ = (seqOf p c).at_
  mem  : q.mem = p.mem
  grps : q.grps = p.grps
  adm  : q.adm = p.adm

theorem Stands.refl (p : Part) : Stands p p := ⟨fun _ => ⟨rfl, rfl⟩, rfl, rfl, rfl⟩

theorem Stands.trans (h : Stands p q) (g : Stands q r) : Stands p r :=
  ⟨fun c => ⟨(g.seqs c).1.trans (h.seqs c).1, (g.seqs c).2.trans (h.seqs c).2⟩, g.mem.trans h.mem, g.grps.trans h.grps, g.adm.trans h.adm⟩

/-- A change of other fields than these four. -/
theorem Stands.upd (h : Stands p q) (hs : r.seqs = q.seqs) (hm : r.mem = q.mem) (hg : r.grps = q.grps) (ha : r.adm = q.adm) : Stands p r :=
  h.trans ⟨fun c => by simp only [seqOf, hs, and_self], hm, hg, ha⟩

/-- A change of a sequencer that leaves its act and its boundary. -/
theorem Stands.setSeq (h : Stands p q) {s : Seq} (ha : s.act = (seqOf q c).act) (hn : s.at_ = (seqOf q c).at_) : Stands p (setSeq q c s) := by
  refine h.trans ⟨fun d => ?_, rfl, rfl, rfl⟩
  by_cases hd : d = c
  · subst hd; rw [seqOf_setSeq_same]; exact ⟨ha, hn⟩
  · rw [seqOf_setSeq_ne _ hd]; exact ⟨rfl, rfl⟩

theorem Stands.fold {α : Type} {f : Part → α → Part} (hf : ∀ q x, Stands q (f q x)) (l : List α) (p : Part) : Stands p (l.foldl f p) :=
  List.foldlRecOn l f (motive := Stands p) (.refl p) fun q hq x _ => hq.trans (hf q x)

theorem Stands.addReg (h : Stands p q) (k n : Nat) : Stands p (addReg q k n) := h.upd rfl rfl rfl rfl
theorem Stands.setReg (h : Stands p q) (k n : Nat) : Stands p (setReg q k n) := h.upd rfl rfl rfl rfl
theorem Stands.dropLatch (h : Stands p q) (k : Nat) : Stands p (dropLatch q k) := h.upd rfl rfl rfl rfl
theorem Stands.putPlan (h : Stands p q) (c : Chan) (t : TickPlan) : Stands p (putPlan q c t) := h.upd rfl rfl rfl rfl

theorem Stands.addOp (h : Stands p q) (c : Chan) (m : Nat) (o : RegOp) : Stands p (addOp q c m o) := h.putPlan _ _
theorem Stands.addEff (h : Stands p q) (c : Chan) (m r n : Nat) (e : Eff) : Stands p (addEff q c m r n e) := h.putPlan _ _
theorem Stands.addPulse (h : Stands p q) (c : Chan) (m n src gen : Nat) : Stands p (addPulse q c m n src gen) := h.putPlan _ _

/-! ## The pieces of the stage -/

theorem dropJumpsTo_stands (p : Part) (c : Chan) (n : Nat) (keep : Option Nat) : Stands p (dropJumpsTo p c n keep) := by
  refine Stands.fold (fun q j => ?_) _ p
  split
  · exact (Stands.refl q).dropLatch _
  · split
    · exact ((Stands.refl q).dropLatch _).addReg _ _
    · exact .refl q

theorem gateInput_stands (c : Chan) (m : Nat) (p : Part) (i : Nat) : Stands p (gateInput c m p i) := by
  unfold gateInput
  split
  · exact .refl p
  · dsimp only
    split
    · split <;> exact ((Stands.refl p).dropLatch _).addEff _ _ _ _ _
    · exact .refl p

theorem gateTick_stands (p : Part) (c : Chan) (m : Nat) : Stands p (gateTick p c m) := by
  unfold gateTick
  split
  · exact Stands.fold (gateInput_stands c m) _ p
  · exact .refl p

theorem pacedInstant_stands (p : Part) (c : Chan) (m n : Nat) : Stands p (pacedInstant p c m n) := by
  unfold pacedInstant
  split
  · exact (Stands.refl p).putPlan _ _
  · have hr : ∀ m, Stands p { p with paced := m } := fun _ => (Stands.refl p).upd rfl rfl rfl rfl
    dsimp only
    split
    · refine (Stands.addOp (Stands.addOp ?_ _ _ _) _ _ _).addPulse _ _ _ _ _
      split
      · split
        · exact ((hr _).addEff _ _ _ _ _).addOp _ _ _
        · exact (hr _).addEff _ _ _ _ _
      · exact hr _
    · refine Stands.addOp (Stands.addOp ?_ _ _ _) _ _ _
      split
      · split
        · exact ((hr _).addEff _ _ _ _ _).addOp _ _ _
        · exact (hr _).addEff _ _ _ _ _
      · exact hr _

theorem pacedTick_stands (p : Part) (c : Chan) (m : Nat) : Stands p (pacedTick p c m) := by
  unfold pacedTick
  dsimp only
  split
  · exact .refl p
  · have hs : Stands p (setSeq p c { seqOf p c with paced := 250 * (m + 1) }) := (Stands.refl p).setSeq rfl rfl
    split
    · exact hs.trans (Stands.fold (fun q n => pacedInstant_stands q c m n) _ _)
    · split
      · split
        · exact hs
        · split
          · exact (hs.dropLatch _).trans (pacedInstant_stands ..)
          · exact hs
      · exact hs

theorem settleLeads_stands (p : Part) (c : Chan) (m : Nat) (found : List (Nat × Nat × Nat)) (path : List (Nat × Act)) :
    Stands p (settleLeads p c m found path) := ((Stands.refl p).addReg _ _).setSeq rfl rfl

theorem fetchAhead_stands (p : Part) (c : Chan) (m : Nat) (plan want : List Chunk) (heads : List (Nat × Nat)) :
    Stands p (fetchAhead p c m plan want heads) := by
  unfold fetchAhead
  refine Stands.setSeq (Stands.upd (.refl p) ?_ ?_ ?_ ?_) ?_ ?_ <;> rfl

theorem predict_stands (p : Part) (c : Chan) (m : Nat) : Stands p (predict p c m) := by
  unfold predict
  dsimp only
  split
  · split
    · exact .refl p
    · exact (settleLeads_stands ..).trans (fetchAhead_stands ..)
  · have hs : Stands p (setSeq p c { seqOf p c with untaken := none }) := (Stands.refl p).setSeq rfl rfl
    exact (((hs.trans (settleLeads_stands ..)).setReg _ _).setReg _ _).trans (fetchAhead_stands ..)

theorem snapshot_stands (p : Part) (c : Chan) (m : Nat) : Stands p (snapshot p c m) := (Stands.refl p).putPlan _ _

theorem sealPulses_stands (p : Part) (c : Chan) (m : Nat) : Stands p (sealPulses p c m) := by
  unfold sealPulses
  dsimp only
  split
  · exact .refl p
  · refine Stands.putPlan (Stands.setSeq (.refl p) ?_ ?_) _ _ <;> rfl

theorem settleQueue_stands (p : Part) (i : Nat) : Stands p (settleQueue p i) := by
  have h := (settleQueue_frame p i).1.1
  exact (Stands.refl p).upd (by rw [h]) (by rw [h]) (by rw [h]) (by rw [h])

/-! ## Before and after the advance -/

/-- What the stage for tick m does before it advances the sequencers: gates and rendezvous. -/
def stageHead (p : Part) (m : Nat) : Part :=
  (List.finRange 16).foldl (fun q g => syncTick q g m) ((List.finRange 256).foldl (fun q c => gateTick q c m) p)

/-- What the stage for tick m does once every sequencer is advanced: paced queues, prediction, generations and queue positions. -/
def stageTail (p : Part) (m : Nat) : Part :=
  let p := (List.finRange 256).foldl (fun q c => pacedTick q c m) p
  let p := (List.finRange 256).foldl (fun q c => if busy q c m then snapshot (predict q c m) c m else q) p
  let p := (List.finRange 256).foldl (fun q c => sealPulses q c m) p
  (List.range 64).foldl (fun q i => if reg q (G.sqEnable i) = 1 then settleQueue q i else q) p

theorem runStage_eq (p : Part) (m : Nat) : ∃ k, runStage p m = stageTail (advanceAll m k (stageHead p m)) m :=
  ⟨65536, by unfold runStage stageTail stageHead; rfl⟩

theorem stageTail_stands (p : Part) (m : Nat) : Stands p (stageTail p m) := by
  unfold stageTail
  have h1 := Stands.fold (fun q c => pacedTick_stands q c m) (List.finRange 256) p
  have h2 := fun p => Stands.fold (f := fun q c => if busy q c m then snapshot (predict q c m) c m else q)
    (fun q c => by
      split
      · exact (predict_stands ..).trans (snapshot_stands ..)
      · exact .refl q) (List.finRange 256) p
  have h3 := fun p => Stands.fold (fun q c => sealPulses_stands q c m) (List.finRange 256) p
  have h4 := fun p => Stands.fold (f := fun q i => if reg q (G.sqEnable i) = 1 then settleQueue q i else q)
    (fun q i => by
      split
      · exact settleQueue_stands q i
      · exact .refl q) (List.range 64) p
  exact ((h1.trans (h2 _)).trans (h3 _)).trans (h4 _)

/-! ## The advance of the sequencers -/

/-- No channel is next where none is behind, and only there. -/
theorem nextChan_eq_none : nextChan p m = none ↔ ∀ c, behind (seqOf p c) m = false := by
  unfold nextChan
  rw [foldl_eq_none_iff (P := fun c => behind (seqOf p c) m = false)]
  · simp
  · intro a c
    by_cases h : behind (seqOf p c) m
    · cases a with
      | none => simp [h]
      | some b => simp only [h, if_true]; split <;> simp
    · simp [h]

/-- The advance ends with no channel behind, unless it leaves one that stands still (R140, R158). -/
theorem advanceAll_caughtUp {k : Nat} (h : ∀ c pc w, (seqOf (advanceAll m k p) c).act ≠ .stuck pc w) (c : Chan) :
    behind (seqOf (advanceAll m k p) c) m = false := by
  induction k generalizing p with
  | zero =>
    unfold advanceAll at h ⊢
    cases hn : nextChan p m with
    | none => exact nextChan_eq_none.mp hn c
    | some d =>
      rw [hn] at h
      exact absurd (by simp [getStuck]) (h d 0 .tooManySteps)
  | succ k ih =>
    unfold advanceAll at h ⊢
    cases hn : nextChan p m with
    | none => exact nextChan_eq_none.mp hn c
    | some d => rw [hn] at h; exact ih h

/-- Where no channel is behind, the advance does nothing. -/
theorem advanceAll_of_none_behind {k : Nat} (h : ∀ c, behind (seqOf p c) m = false) : advanceAll m k p = p := by
  have hn : nextChan p m = none := nextChan_eq_none.mpr h
  cases k <;> (unfold advanceAll; rw [hn])

theorem Stands.behind (h : Stands p q) (c : Chan) (m : Nat) : behind (seqOf q c) m = behind (seqOf p c) m := by
  obtain ⟨ha, hn⟩ := h.seqs c
  unfold Machine.behind
  rw [ha, hn]

/-- The stage for tick m leaves no channel behind it, unless it leaves one that stands still. -/
theorem runStage_caughtUp (h : ∀ c pc w, (seqOf (runStage p m) c).act ≠ .stuck pc w) (c : Chan) : behind (seqOf (runStage p m) c) m = false := by
  obtain ⟨k, hk⟩ := runStage_eq p m
  rw [hk] at h ⊢
  have ht := stageTail_stands (advanceAll m k (stageHead p m)) m
  rw [ht.behind]
  exact advanceAll_caughtUp (fun d pc w => (ht.seqs d).1 ▸ h d pc w) c

/-! ## The stage of one tick -/

/-- The stage that fixes tick m is over. -/
def closeStage (p : Part) (m : Nat) : Part := { p with time := { p.time with closed := m } }

@[simp] theorem closeStage_closed (p : Part) (m : Nat) : (closeStage p m).time.closed = m := rfl

theorem closeStage_stands (p : Part) (m : Nat) : Stands p (closeStage p m) := (Stands.refl p).upd rfl rfl rfl rfl

theorem decideTick_closed (h : p.time.closed = planTick p) : decideTick p = p := if_pos h

theorem decideTick_open (h : p.time.closed ≠ planTick p) :
    decideTick p = closeStage (runStage (openStage p) (planTick p)) (planTick p) := by
  unfold planTick at h
  unfold decideTick planTick
  exact if_neg h

theorem decideStage_stopped (h : reg p G.clockState = 2) : decideStage p = p := by simp [decideStage, coreStopped, h]

theorem decideStage_running (h : reg p G.clockState ≠ 2) : decideStage p = decideTick p := by simp [decideStage, coreStopped, h]

/-- The decide stage stays in its tick. -/
theorem decideStage_tick (p : Part) : (decideStage p).time.tick = p.time.tick := (decideStage_keeps (Keeps.refl true p)).tick rfl

/-- An open decide stage closes its tick, and leaves no channel behind unless it leaves one that stands still. -/
theorem decideStage_caughtUp (hc : reg p G.clockState ≠ 2) (hd : p.time.closed ≠ planTick p)
    (h : ∀ c pc w, (seqOf (decideStage p) c).act ≠ .stuck pc w) :
    (decideStage p).time.closed = planTick p ∧ ∀ c, behind (seqOf (decideStage p) c) (planTick p) = false := by
  rw [decideStage_running hc, decideTick_open hd] at h ⊢
  have hs := closeStage_stands (runStage (openStage p) (planTick p)) (planTick p)
  refine ⟨closeStage_closed _ _, fun c => ?_⟩
  rw [hs.behind]
  exact runStage_caughtUp (fun d pc w => (hs.seqs d).1 ▸ h d pc w) c

/-- A command that moves sequencers ends in the fault of the first one that stands still (R158). -/
theorem liftSeq_fault {f : Part → Part} {s : State} {w : StuckWhy} (hw : awake s) (h : stuckChan (f s.part) = some (c, w)) :
    liftSeq f s = .fault (.sequencer c w) := by
  unfold awake at hw
  simp [liftSeq, hw, h]

/-! ## A part in which nothing plays and no group has anything to come -/

/-- Group g is stopped, with no start, stop or restart to come and no pulse of its control task latched. -/
def GroupRests (p : Part) (g : Grp) : Prop :=
  reg p (G.lgState g) = 0 ∧ (grpOf p g).startAt = none ∧ (grpOf p g).stopAt = none ∧ (grpOf p g).restartAt = none ∧
    ∀ i, i < 4 → latchAt p (grpLatch g i) = none

/-- Nothing falls on any tick for a group that rests. -/
theorem groupTick_rests {g : Grp} (h : GroupRests p g) (m : Nat) : groupTick p g m = p := by
  obtain ⟨hst, hstart, hstop, hrestart, hl⟩ := h
  have hp : (List.range 4).foldl (fun q i => groupPulse q g m i) p = p :=
    List.foldlRecOn (List.range 4) _ (motive := fun q => q = p) rfl fun q hq i hi => by
      subst hq; unfold groupPulse; rw [hl i (List.mem_range.mp hi)]
  have ha : strobeActs p g m = false := by simp [strobeActs, runsIn, hst]
  unfold groupTick
  simp [hp, hstart, hstop, hrestart, ha]

theorem syncTick_off (h : ∀ c, (seqOf p c).act = .off) (g : Grp) (m : Nat) : syncTick p g m = p := by
  have hp : participants p g = [] := by simp [participants, h]
  have ht : syncTags p g = [] := by simp [syncTags, hp]
  unfold syncTick
  simp [ht]

theorem Stands.off (h : Stands p q) (ho : ∀ c, (seqOf p c).act = .off) (c : Chan) : (seqOf q c).act = .off := (h.seqs c).1.trans (ho c)

theorem openStage_stands (hg : ∀ g, GroupRests p g) (hp : p.adm.plans = []) : Stands p (openStage p) := by
  unfold openStage
  dsimp only
  split
  · exact .refl p
  · have h0 : Stands p (keepHistory (atCyc { p with time := { p.time with opened := p.time.tick + 2 } } 12)) := (Stands.refl p).upd rfl rfl rfl rfl
    have hg0 : ∀ g, GroupRests (keepHistory (atCyc { p with time := { p.time with opened := p.time.tick + 2 } } 12)) g := hg
    generalize keepHistory (atCyc { p with time := { p.time with opened := p.time.tick + 2 } } 12) = q at h0 hg0 ⊢
    rw [List.foldl_fixed' fun g => groupTick_rests (hg0 g) _, h0.adm, hp, List.foldl_nil]
    refine h0.trans (Stands.fold (fun r c => ?_) _ q)
    split
    · exact dropJumpsTo_stands ..
    · exact .refl r

theorem stageHead_stands (h : ∀ c, (seqOf p c).act = .off) (m : Nat) : Stands p (stageHead p m) := by
  have hg := Stands.fold (fun q c => gateTick_stands q c m) (List.finRange 256) p
  unfold stageHead
  rwa [List.foldl_fixed' (f := fun q g => syncTick q g m) fun g => syncTick_off (hg.off h) g m]

theorem runStage_stands (h : ∀ c, (seqOf p c).act = .off) (m : Nat) : Stands p (runStage p m) := by
  have hh := stageHead_stands h m
  obtain ⟨k, hk⟩ := runStage_eq p m
  rw [hk, advanceAll_of_none_behind fun c => by simp [Machine.behind, hh.off h c]]
  exact hh.trans (stageTail_stands _ m)

/-- Where nothing plays and nothing is to come, the decide stage moves nothing (R140, R141). -/
theorem decideStage_stands (h : ∀ c, (seqOf p c).act = .off) (hg : ∀ g, GroupRests p g) (hp : p.adm.plans = []) : Stands p (decideStage p) := by
  by_cases hc : reg p G.clockState = 2
  · rw [decideStage_stopped hc]; exact .refl p
  rw [decideStage_running hc]
  by_cases hd : p.time.closed = planTick p
  · rw [decideTick_closed hd]; exact .refl p
  · have ho := openStage_stands hg hp
    rw [decideTick_open hd]
    have hr : Stands (openStage p) (runStage (openStage p) (planTick p)) := runStage_stands (ho.off h) (planTick p)
    exact (ho.trans hr).trans (closeStage_stands (runStage (openStage p) (planTick p)) (planTick p))

theorem exec_decideStage (s : State) : exec .decideStage s = liftSeq decideStage s := by unfold exec; rfl

/-- Settles O15: the advance of the sequencers ends with none behind or with one that stands still, and the rest of the stage moves none. -/
theorem decideStagesPlanEveryChannel : Obligations.DecideStagesPlanEveryChannel := by
  unfold Obligations.DecideStagesPlanEveryChannel
  simp only [exec_decideStage]
  refine ⟨fun s hw hs => ⟨fun hc => ?_, fun hc => ⟨fun hd => ?_, fun hd => ?_⟩⟩, fun s hw _ hoff hg hp => ?_⟩
  · have h : decideStage s.part = s.part := decideStage_stopped hc
    rw [liftSeq_next hw (h.symm ▸ act_ne_stuck hs), h]
  · have h : decideStage s.part = s.part := (decideStage_running hc).trans (decideTick_closed hd)
    rw [liftSeq_next hw (h.symm ▸ act_ne_stuck hs), h]
  · cases hst : stuckChan (decideStage s.part) with
    | some x => exact liftSeq_fault hw hst
    | none =>
      have hn := act_ne_stuck hst
      exact ⟨decideStage s.part, liftSeq_next hw hn, decideStage_tick s.part, decideStage_caughtUp hc hd hn⟩
  · have h := decideStage_stands hoff hg hp
    have hn : ∀ c pc w, (seqOf (decideStage s.part) c).act ≠ .stuck pc w := fun c pc w => by rw [h.off hoff c]; simp
    exact ⟨decideStage s.part, liftSeq_next hw hn, fun c => ⟨h.off hoff c, (h.seqs c).2⟩, decideStage_tick s.part, h.mem, h.grps, h.adm⟩

end Sys2Proof.Machine
end

section
/-!
SUPPORT. The tick boundary (R12, R15). The codes that a channel emits and those synthesized for its next tick lie in its datapath: most of the
boundary leaves every datapath alone, markers leave its codes, the emit stage moves its codes on once, and the synthesize stage leaves what is
emitted.
-/

namespace Sys2Proof.Machine

variable {p q r : Part} {c d : Chan} {k : Nat}

/-! ## What leaves the datapaths alone -/

@[simp] theorem ageTest_dps (p : Part) : (ageTest p).dps = p.dps := by unfold ageTest; split <;> rfl
@[simp] theorem ageTest_tick (p : Part) : (ageTest p).time.tick = p.time.tick := by unfold ageTest; split <;> rfl
@[simp] theorem settle_dps (p : Part) (t : Nat) : (settle p t).dps = p.dps := rfl
@[simp] theorem datumPasses_dps (p : Part) : (datumPasses p).dps = p.dps := by unfold datumPasses; split <;> rfl
@[simp] theorem wrapCycles_dps (p : Part) : (wrapCycles p).dps = p.dps := rfl
@[simp] theorem enterTick_dps (p : Part) : (enterTick p).dps = p.dps := by
  unfold enterTick
  dsimp only
  split <;> simp
@[simp] theorem enterTick_tick (p : Part) : (enterTick p).time.tick = nextTick p.time.tick := rfl

@[simp] theorem setSub_dps (p : Part) (i : SubCh) (x : SubChSt) : (setSub p i x).dps = p.dps := rfl
@[simp] theorem endQuiet_dps (p : Part) (state : Nat) : (endQuiet p state).dps = p.dps := by
  unfold endQuiet
  extract_lets src p1
  exact (setReg_dps ..).trans (foldl_frame (v := Part.dps) (fun q j => setSub_dps q j _) _ p1)
@[simp] theorem takeQuiet_dps (p : Part) (ms : Nat) : (takeQuiet p ms).dps = p.dps := by
  unfold takeQuiet
  split
  · split
    · simp
    · rfl
  · rfl
@[simp] theorem endFreeze_dps (p : Part) (c : Chan) : (endFreeze p c).dps = p.dps := by
  unfold endFreeze
  dsimp only
  split
  · rfl
  · split <;> rfl
@[simp] theorem takeFreeze_dps (p : Part) (c : Chan) (k ms : Nat) : (takeFreeze p c k ms).dps = p.dps := by
  unfold takeFreeze
  dsimp only
  split
  · simp
  · split <;> rfl
@[simp] theorem takeValue_dps (p : Part) (k : Nat) (e : Nat × Nat) : (takeValue p k e).dps = p.dps := by
  unfold takeValue writeOnes
  split_ifs <;> simp
@[simp] theorem planAlarm_dps (p : Part) (a : Nat) (k : Int) : (planAlarm p a k).dps = p.dps := by
  unfold planAlarm
  dsimp only
  split_ifs <;> rfl
@[simp] theorem takeAlarm_dps (p : Part) (bound : KMap Nat) (a k : Nat) (was : Bool) : (takeAlarm p bound a k was).dps = p.dps := by
  unfold takeAlarm disarmAlarm armAlarm
  dsimp only
  split <;> (try split_ifs) <;> simp
@[simp] theorem takeBound_dps (p : Part) (k : Nat) : (takeBound p k).dps = p.dps := by
  unfold takeBound
  extract_lets bound armed src p1
  exact (foldl_frame (v := Part.dps) (fun q (a : Bool × Nat) => takeAlarm_dps q bound a.2 k a.1) _ p1).trans
    (foldl_frame (v := Part.dps) (fun q (e : Nat × Nat) => takeValue_dps q k e) bound _)

@[simp] theorem takeSegments_dps (p : Part) : (takeSegments p).dps = p.dps := rfl
@[simp] theorem startLoad_dps (p : Part) : (startLoad p).dps = p.dps := by unfold startLoad; split <;> rfl
@[simp] theorem takeCommit_dps (p : Part) (e : Nat × Nat) : (takeCommit p e).dps = p.dps := by
  unfold takeCommit emptyWindow
  dsimp only
  split
  · split <;> rfl
  · rfl
@[simp] theorem takeCommits_dps (p : Part) (g : Grp) (k : Nat) : (takeCommits p g k).dps = p.dps :=
  foldl_frame (v := Part.dps) (fun q (e : Nat × Nat × Nat) => takeCommit_dps q e.2) _ _
@[simp] theorem applyOps_dps (p : Part) (l : List RegOp) : (applyOps p l).dps = p.dps :=
  foldl_frame (v := Part.dps) (fun q o => by cases o <;> rfl) l p

@[simp] theorem showDatapath_dps (p : Part) (c : Chan) : (showDatapath p c).dps = p.dps := by
  unfold showDatapath
  dsimp only
  split
  · rfl
  · simp only [setReg_dps]
    rw [foldl_frame (v := Part.dps) fun q i => setReg_dps q _ _]
    simp only [setReg_dps]
    rw [foldl_frame (v := Part.dps) fun q e => setReg_dps q _ _]
@[simp] theorem keepDigest_dps (p : Part) (k : Nat) : (keepDigest p k).dps = p.dps := by unfold keepDigest; split <;> rfl
@[simp] theorem settleMarkers_dps (p : Part) : (settleMarkers p).dps = p.dps := by
  unfold settleMarkers
  dsimp only
  split
  · rfl
  · split
    · refine (foldl_frame (v := Part.dps) (fun q c => foldl_frame (v := Part.dps) (fun q l => ?_) _ q) _ _).trans rfl
      split <;> rfl
    · rfl
@[simp] theorem raisePins_dps (p : Part) (n : Nat) : (raisePins p n).dps = p.dps := by
  unfold raisePins
  split
  · rfl
  · refine foldl_frame (v := Part.dps) (fun q pin => ?_) _ p
    dsimp only
    split
    · rfl
    · split <;> rfl
@[simp] theorem setRole_dps (p : Part) (role n : Nat) : (setRole p role n).dps = p.dps := by
  unfold setRole
  dsimp only
  split_ifs <;> simp
@[simp] theorem takeQueues_dps (p : Part) (active : Bool) : (takeQueues p active).dps = p.dps := by
  refine foldl_frame (v := Part.dps) (fun q i => ?_) _ p
  split_ifs <;> rfl
@[simp] theorem driveTick_dps (p : Part) : (driveTick p).dps = p.dps := by
  unfold driveTick
  dsimp only
  split_ifs <;> simp
@[simp] theorem takeSpan_dps (p : Part) (c : Chan) (k : Nat) : (takeSpan p c k).dps = p.dps := by unfold takeSpan; dsimp only; split <;> rfl
@[simp] theorem outTick_dps (p : Part) (c : Chan) (k : Nat) : (outTick p c k).dps = p.dps := by
  unfold outTick putOutState emptyWindow
  dsimp only
  split_ifs <;> simp
@[simp] theorem showLine_dps (p : Part) (c : Chan) (line n : Nat) (b : Bool) : (showLine p c line n b).dps = p.dps := by
  unfold showLine
  dsimp only
  split_ifs <;> rfl
@[simp] theorem serveWants_dps (p : Part) (m : Nat) : (serveWants p m).dps = p.dps := by unfold serveWants; dsimp only; split <;> rfl
@[simp] theorem keepCodes_dps (p : Part) (c : Chan) (k : Nat) : (keepCodes p c k).dps = p.dps := rfl
@[simp] theorem confirmLeads_dps (p : Part) (c : Chan) (k : Nat) : (confirmLeads p c k).dps = p.dps := by
  unfold confirmLeads; dsimp only; split <;> rfl
@[simp] theorem dropPlans_dps (p : Part) (c : Chan) (k : Nat) : (dropPlans p c k).dps = p.dps := rfl
@[simp] theorem shortPlay_dps (p : Part) (c : Chan) (m start : Nat) : (shortPlay p c m start).dps = p.dps := by
  unfold shortPlay
  dsimp only
  split <;> (try split) <;> rfl
@[simp] theorem countLate_dps (p : Part) (c : Chan) (m : Nat) (s : Span) (x : Refilled) : (countLate p c m s x).dps = p.dps := by
  unfold countLate
  dsimp only
  split
  · split <;> simp
  · rfl
@[simp] theorem setPin_dps (p : Part) (n : Nat) (x : PinSt) : (setPin p n x).dps = p.dps := rfl
@[simp] theorem countEdge_dps (p : Part) (pin : Nat) (rising : Bool) (n : Nat) : (countEdge p pin rising n).dps = p.dps := by
  unfold countEdge
  dsimp only
  split
  · exact (setReg_dps ..).trans (addReg_dps ..)
  · rfl
@[simp] theorem judgePad_dps (p : Part) (pin n : Nat) (closed : Bool) : (judgePad p pin n closed).dps = p.dps := by
  unfold judgePad
  dsimp only
  split_ifs <;> simp
@[simp] theorem judgePads_dps (p : Part) (n : Nat) : (judgePads p n).dps = p.dps :=
  foldl_frame (v := Part.dps) (fun q pin => judgePad_dps q pin (n - 1) false) _ p
@[simp] theorem dropCaptured_dps (p : Part) (k : Nat) : (dropCaptured p k).dps = p.dps := judgePads_dps p (nOf k 0)

/-! ## What leaves the codes alone -/

/-- The codes that channel c emits in the present tick, and those synthesized for the next one. -/
def codesOf (p : Part) (c : Chan) : List Int × List Int := ((dpOf p c).emit, (dpOf p c).next)

theorem emit_eq (p : Part) (c : Chan) : (dpOf p c).emit = (codesOf p c).1 := rfl

/-- Every channel emits, and has synthesized for its next tick, the same codes in p and q. -/
structure SameCodes (p q : Part) : Prop where
  codes : codesOf q = codesOf p

theorem SameCodes.of_dps (h : q.dps = p.dps) : SameCodes p q :=
  ⟨funext fun d => by simp only [codesOf, dpOf, h]⟩

theorem SameCodes.emit (h : SameCodes p q) (c : Chan) : (dpOf q c).emit = (dpOf p c).emit := congrArg Prod.fst (congrFun h.codes c)
theorem SameCodes.next (h : SameCodes p q) (c : Chan) : (dpOf q c).next = (dpOf p c).next := congrArg Prod.snd (congrFun h.codes c)

theorem SameCodes.trans (h : SameCodes p q) (g : SameCodes q r) : SameCodes p r := ⟨g.codes.trans h.codes⟩

theorem SameCodes.fold {α : Type} {f : Part → α → Part} (hf : ∀ q x, SameCodes q (f q x)) (l : List α) (p : Part) : SameCodes p (l.foldl f p) :=
  ⟨foldl_frame (v := codesOf) (fun q x => (hf q x).codes) l p⟩

/-- A change of a datapath beside its codes. -/
theorem setDp_sameCodes {x : Dp} (he : x.emit = (dpOf p c).emit) (hn : x.next = (dpOf p c).next) : SameCodes p (setDp p c x) := by
  refine ⟨funext fun d => ?_⟩
  unfold codesOf
  by_cases hd : d = c
  · subst hd; rw [dpOf_setDp_same, he, hn]
  · rw [dpOf_setDp_ne _ hd]

theorem cutEdges_sameCodes (p : Part) (c : Chan) (n : Nat) : SameCodes p (cutEdges p c n) := by
  unfold cutEdges
  extract_lets x delay gone p1
  have h1 : SameCodes p p1 := setDp_sameCodes rfl rfl
  split
  · exact h1
  · exact h1.trans (.of_dps rfl)

theorem restartMarks_sameCodes (p : Part) (c : Chan) (k : Nat) : SameCodes p (restartMarks p c k) := by
  unfold restartMarks
  extract_lets x first old p1
  have h1 : SameCodes p p1 := setDp_sameCodes rfl rfl
  split
  · exact h1
  · exact h1.trans (.of_dps rfl)

theorem takePlan_sameCodes (p : Part) (c : Chan) (k : Nat) : SameCodes p (takePlan p c k) := by
  unfold takePlan
  dsimp only
  split
  · exact (restartMarks_sameCodes p c k).trans (.of_dps (by simp))
  · exact .of_dps (by simp)

theorem applyEdge_sameCodes (p : Part) (c : Chan) (n : Nat) (e : EdgeAt) : SameCodes p (applyEdge p c n e) := by
  unfold applyEdge
  extract_lets dp was now p1 p2 force p3
  have h1 : SameCodes p p1 := setDp_sameCodes rfl rfl
  have h3 : SameCodes p p3 := h1.trans (.of_dps (by simp [p3, p2]))
  split
  · exact h3.trans (.of_dps rfl)
  · exact h3

theorem markTick_sameCodes (p : Part) (c : Chan) (k : Nat) : SameCodes p (markTick p c k) := by
  have hl (b : Nat → Bool) (q : Part) : SameCodes q ([0, 1].foldl (fun q l => showLine q c l (250 * k) (b l)) q) :=
    SameCodes.fold (fun q l => .of_dps (showLine_dps ..)) _ q
  have he (l : List (Nat × EdgeAt)) (q : Part) : SameCodes q (l.foldl (fun q x => applyEdge q c x.1 x.2) q) :=
    SameCodes.fold (fun q (x : Nat × EdgeAt) => applyEdge_sameCodes q c x.1 x.2) l q
  unfold markTick
  extract_lets dp delay due p1 force p2 l p3 p4 p5 src p6 p7
  split
  · exact .of_dps rfl
  · split
    · have h1 : SameCodes p p1 := setDp_sameCodes rfl rfl
      have h3 : SameCodes p p3 := (h1.trans (hl _ _)).trans (he _ _)
      have h4 : SameCodes p3 p4 := .of_dps (setReg_dps ..)
      exact (h3.trans h4).trans (he _ p4)
    · split
      · exact .of_dps rfl
      · have h5 : SameCodes p p5 := cutEdges_sameCodes p c 0
        have h6 : SameCodes p5 p6 := setDp_sameCodes rfl rfl
        exact ((h5.trans h6).trans (hl (fun _ => false) p6)).trans (.of_dps (setReg_dps ..))

/-! ## The emit stage -/

/-- The emit stage of a channel emits what was synthesized for it (R12). -/
theorem emitStage_codes_same (p : Part) (c : Chan) (k : Nat) : codesOf (emitStage p c k) c = ((codesOf p c).2, []) := by
  have h : (dpOf (takePlan p c k) c).next = (codesOf p c).2 := (takePlan_sameCodes p c k).next c
  have hs : SameCodes (shiftCodes (takePlan p c k) c) (emitStage p c k) := .of_dps (by unfold emitStage; simp)
  rw [hs.codes, codesOf, shiftCodes, dpOf_setDp_same, h]

theorem emitStage_codes_ne (p : Part) (k : Nat) (h : d ≠ c) : codesOf (emitStage p c k) d = codesOf p d := by
  have hs : SameCodes (shiftCodes (takePlan p c k) c) (emitStage p c k) := .of_dps (by unfold emitStage; simp)
  rw [hs.codes, codesOf, shiftCodes, dpOf_setDp_ne _ h]
  exact congrFun (takePlan_sameCodes p c k).codes d

/-- The emit stages of all channels together. -/
theorem emitStages_emit (p : Part) (k : Nat) (c : Chan) :
    (dpOf ((List.finRange 256).foldl (fun q c => emitStage q c k) p) c).emit = (dpOf p c).next := by
  rw [emit_eq, foldl_each (v := codesOf) (g := fun x => (x.2, [])) (fun q c => emitStage_codes_same q c k)
    fun q c d => emitStage_codes_ne q k]
  rfl

/-! ## The synthesize stage -/

theorem applyEff_emit (x : Dp) (n : Nat) (e : Eff) : (applyEff x n e).emit = x.emit := by cases e <;> rfl

theorem applyEffs_emit (x : Dp) (n : Nat) (l : List EffAt) :
    (l.foldl (fun x e => if e.n = n then applyEff x n e.eff else x) x).emit = x.emit :=
  foldl_frame (v := Dp.emit) (fun x e => by
    split
    · exact applyEff_emit ..
    · rfl) l x

theorem synthRun_emit (mode i limits : Nat) (effs : List EffAt) (n k : Nat) (x : Dp) : (synthRun mode i limits effs k n x).1.emit = x.emit := by
  induction k generalizing n x with
  | zero => rfl
  | succ k ih => exact (ih (n + 1) _).trans (applyEffs_emit x n effs)

/-- What a channel emits is not touched by the synthesis of another tick. -/
theorem synthTick_emit (p : Part) (c : Chan) (k : Nat) (d : Chan) : (dpOf (synthTick p c k) d).emit = (dpOf p d).emit := by
  unfold synthTick
  extract_lets t x i mode limits n0 clears new old x1 x2 info rest r keep src p1
  have h2 : x2.emit = x.emit := applyEffs_emit x n0 t.effs
  have hr : r.1.emit = x.emit := by
    unfold r
    split
    · exact h2
    · exact (synthRun_emit ..).trans h2
  have h1 : (dpOf p1 d).emit = (dpOf p d).emit := by
    by_cases hd : d = c
    · subst hd; rw [dpOf_setDp_same]; exact hr
    · rw [dpOf_setDp_ne _ hd]
  split <;> exact h1

theorem lateRefill_sameCodes (p : Part) (c : Chan) (m : Nat) (late : List Nat) : SameCodes p (lateRefill p c m late) := by
  unfold lateRefill
  extract_lets t cut was joined src p1 p2
  have h1 : SameCodes p p1 := by
    unfold p1
    split
    · exact .of_dps rfl
    · exact setDp_sameCodes rfl rfl
  have h2 : SameCodes p p2 := by
    unfold p2
    split
    · exact h1
    · exact h1.trans (.of_dps (putPlan_dps ..))
  exact h2.trans (SameCodes.fold (fun q (e : Span × Refilled) => .of_dps (countLate_dps q c m e.1 e.2)) _ p2)

theorem synthStage_emit (p : Part) (c : Chan) (late : List Nat) (k : Nat) (d : Chan) :
    (dpOf (synthStage p c late k) d).emit = (dpOf p d).emit := by
  unfold synthStage
  extract_lets p1
  have h1 : SameCodes p p1 := .of_dps (by simp [p1])
  split
  · rw [synthTick_emit]
    exact (h1.trans (lateRefill_sameCodes ..)).emit d
  · exact h1.emit d

/-! ## The boundary -/

/-- The values, segments and load block that come into force at sample 0 leave the codes alone. -/
theorem takeAll_sameCodes (p : Part) (k : Nat) :
    SameCodes p ((List.finRange 16).foldl (fun q g => takeCommits q g k) (startLoad (takeSegments (takeBound p k)))) :=
  (SameCodes.of_dps (by simp)).trans (SameCodes.fold (fun q g => .of_dps (takeCommits_dps q g k)) _ _)

/-- So do the outputs and markers of the tick. -/
theorem outAll_sameCodes (p : Part) (k : Nat) : SameCodes p ((List.finRange 256).foldl (fun q c => markTick (outTick q c k) c k) p) :=
  SameCodes.fold (fun q c => (SameCodes.of_dps (outTick_dps q c k)).trans (markTick_sameCodes ..)) _ p

/-- The synthesize stages leave what is emitted. -/
theorem synthAll_emit (p : Part) (late : List Nat) (k : Nat) (c : Chan) :
    (dpOf ((List.finRange 256).foldl (fun q d => synthStage q d late k) p) c).emit = (dpOf p c).emit :=
  foldl_frame (v := fun q => (dpOf q c).emit) (fun q d => synthStage_emit q d late k c) _ p

/-- In a tick that begins every channel emits what was synthesized for it. -/
theorem beginTick_emit (p : Part) (k : Nat) (c : Chan) : (dpOf (beginTick p k) c).emit = (dpOf p c).next := by
  unfold beginTick
  dsimp only
  rw [synthAll_emit, SameCodes.emit (.of_dps (serveWants_dps ..)), SameCodes.emit (.of_dps (settleMarkers_dps _)), (outAll_sameCodes ..).emit,
    SameCodes.emit (.of_dps (driveTick_dps _)), SameCodes.emit (.of_dps (keepDigest_dps ..)), emitStages_emit, (takeAll_sameCodes ..).next]

theorem tickBoundary_running (ht : p.life.test ≠ 6) (hc : reg p G.clockState ≠ 2) :
    tickBoundary p = dropCaptured (beginTick (enterTick (ageTest p)) (nextTick p.time.tick)) (nextTick p.time.tick) := by
  simp [tickBoundary, coreStopped, ht, hc]

/-- Without a sample clock there is no tick: the Datum moves on (R22). -/
theorem tickBoundary_stopped (ht : p.life.test ≠ 6) (ht' : p.life.test ≠ 5) (hc : reg p G.clockState = 2) :
    tickBoundary p = { p with time := { p.time with datum := p.time.datum + tickUnits p } } := by
  simp [tickBoundary, coreStopped, ageTest, datumPasses, ht, ht', hc]

/-- The next tick is the present one after the boundary. -/
theorem tickBoundary_tick (ht : p.life.test ≠ 6) (hc : reg p G.clockState ≠ 2) : (tickBoundary p).time.tick = (p.time.tick + 1) % 2 ^ 64 := by
  rw [tickBoundary_running ht hc, (dropCaptured_keeps (beginTick_keeps (Keeps.refl true _) _) _).tick rfl, enterTick_tick, ageTest_tick]
  rfl

theorem tickBoundary_emit (ht : p.life.test ≠ 6) (hc : reg p G.clockState ≠ 2) (c : Chan) : (dpOf (tickBoundary p) c).emit = (dpOf p c).next := by
  have h : ∀ q k, dpOf (dropCaptured q k) c = dpOf q c := fun q k => by unfold dpOf; rw [dropCaptured_dps]
  rw [tickBoundary_running ht hc, h, beginTick_emit]
  simp [dpOf]

theorem exec_tickBoundary (s : State) : exec .tickBoundary s = lift tickBoundary s := by unfold exec; rfl

/-- Settles O16: the emit stages move each channel's codes on once, and nothing after them touches what is emitted. -/
theorem tickBoundaryBegins : Obligations.TickBoundaryBegins := by
  unfold Obligations.TickBoundaryBegins
  intro s hw ht
  rw [exec_tickBoundary, lift_next hw]
  refine ⟨fun hc => ⟨_, rfl, tickBoundary_tick ht hc, tickBoundary_emit ht hc, (tickBoundary_keeps (Keeps.refl false _)).sent⟩, fun hc ht' => ?_⟩
  rw [tickBoundary_stopped ht ht' hc]

end Sys2Proof.Machine
end

section
/-!
SUPPORT. What an operation on pins, markers, outputs, latches or reservations leaves as it was. Steady: the clock of the part but for its alarms,
memory, and the entries that tell the state of the Graticule and of the load groups. Aside: the sequencers, their plans, groups, admission and the
event fabric but for its pins as well.
-/

namespace Sys2Proof.Machine

variable {p q r : Part} {c d : Chan}

/-- The clock of the part, but for its alarms. -/
def clockOf (p : Part) : TimeSt := { p.time with alarms := [] }

section
variable (h : clockOf q = clockOf p)
include h
theorem tick_of_clockOf : q.time.tick = p.time.tick := show (clockOf q).tick = (clockOf p).tick from congrArg _ h
theorem cyc_of_clockOf : q.time.cyc = p.time.cyc := show (clockOf q).cyc = (clockOf p).cyc from congrArg _ h
theorem datum_of_clockOf : q.time.datum = p.time.datum := show (clockOf q).datum = (clockOf p).datum from congrArg _ h
theorem locked_of_clockOf : q.time.locked = p.time.locked := show (clockOf q).locked = (clockOf p).locked from congrArg _ h
theorem opened_of_clockOf : q.time.opened = p.time.opened := show (clockOf q).opened = (clockOf p).opened from congrArg _ h
theorem closed_of_clockOf : q.time.closed = p.time.closed := show (clockOf q).closed = (clockOf p).closed from congrArg _ h
end

/-- The event fabric, but for its pins. -/
def wiresOf (p : Part) : FabSt := { p.fab with evio := [], pinsLow := false }

/-- The entries of the Graticule, and LG_STATE of every group. -/
def stateKey (k : Nat) : Prop := k / 256 = 0x1220 ∨ ∃ g : Grp, k = G.lgState g

/-- A key that is none of those by its index and its subindex. -/
def asideKey (k : Nat) : Prop := k / 256 ≠ 0x1220 ∧ k % 256 ≠ 4

theorem gkey_aside {i s : Nat} (hi : i ≠ 0x1220) (hs : s < 256) (h4 : s ≠ 4) : asideKey (gkey i s) := by
  unfold asideKey
  rw [gkey_div i s hs, gkey_mod i s hs]
  exact ⟨hi, h4⟩

theorem stateKey.ne_aside {k j : Nat} (hk : stateKey k) (hj : asideKey j) : k ≠ j := by
  rintro rfl
  rcases hk with h | ⟨g, rfl⟩
  · exact hj.1 h
  · exact hj.2 (gkey_mod _ _ (by decide))

theorem stateKey_lgState (g : Grp) : stateKey (G.lgState g) := .inr ⟨g, rfl⟩
theorem stateKey_clockState : stateKey G.clockState := .inl (by decide)

/-- Between p and q the clock, memory, and the entries of the Graticule and of the groups' states have not changed. -/
structure Steady (p q : Part) : Prop where
  clock : clockOf q = clockOf p
  mem   : q.mem = p.mem
  regs  : ∀ k, stateKey k → reg q k = reg p k

section
variable (h : Steady p q)
include h
theorem Steady.tick : q.time.tick = p.time.tick := tick_of_clockOf h.clock
theorem Steady.cyc : q.time.cyc = p.time.cyc := cyc_of_clockOf h.clock
theorem Steady.datum : q.time.datum = p.time.datum := datum_of_clockOf h.clock
theorem Steady.locked : q.time.locked = p.time.locked := locked_of_clockOf h.clock
theorem Steady.opened : q.time.opened = p.time.opened := opened_of_clockOf h.clock
theorem Steady.closed : q.time.closed = p.time.closed := closed_of_clockOf h.clock
theorem Steady.clockState : reg q G.clockState = reg p G.clockState := h.regs _ stateKey_clockState
theorem Steady.lgState (g : Grp) : reg q (G.lgState g) = reg p (G.lgState g) := h.regs _ (stateKey_lgState g)
end

theorem Steady.refl (p : Part) : Steady p p := ⟨rfl, rfl, fun _ _ => rfl⟩
theorem Steady.trans (h : Steady p q) (g : Steady q r) : Steady p r :=
  ⟨g.clock.trans h.clock, g.mem.trans h.mem, fun k hk => (g.regs k hk).trans (h.regs k hk)⟩
theorem Steady.fold {α : Type} {f : Part → α → Part} (hf : ∀ q x, Steady q (f q x)) (l : List α) (p : Part) : Steady p (l.foldl f p) :=
  List.foldlRecOn l f (motive := Steady p) (.refl p) fun q hq x _ => hq.trans (hf q x)

theorem Steady.upd (h : Steady p q) (ht : r.time = q.time) (hm : r.mem = q.mem) (hr : r.gz.regs = q.gz.regs) : Steady p r :=
  h.trans ⟨by rw [clockOf, clockOf, ht], hm, fun k _ => by rw [reg, reg, hr]⟩

theorem Steady.setReg (h : Steady p q) {k : Nat} (hk : asideKey k) (v : Nat) : Steady p (setReg q k v) :=
  h.trans ⟨rfl, rfl, fun _ hj => reg_setReg_ne q (hj.ne_aside hk) v⟩
theorem Steady.addReg (h : Steady p q) {k : Nat} (hk : asideKey k) (v : Nat) : Steady p (addReg q k v) := h.setReg hk _
theorem Steady.setSeq (h : Steady p q) (c : Chan) (s : Seq) : Steady p (setSeq q c s) := h.upd rfl rfl rfl

/-- Between p and q only values beside the state entries, alarms, pins, outputs, datapaths, Watch and what has left the part have changed. -/
structure Aside (p q : Part) : Prop extends Steady p q where
  seqs  : q.seqs = p.seqs
  plans : q.plans = p.plans
  grps  : q.grps = p.grps
  adm   : q.adm = p.adm
  wires : wiresOf q = wiresOf p

theorem Aside.refl (p : Part) : Aside p p := ⟨.refl p, rfl, rfl, rfl, rfl, rfl⟩
theorem Aside.trans (h : Aside p q) (g : Aside q r) : Aside p r :=
  ⟨h.toSteady.trans g.toSteady, g.seqs.trans h.seqs, g.plans.trans h.plans, g.grps.trans h.grps, g.adm.trans h.adm, g.wires.trans h.wires⟩
theorem Aside.fold {α : Type} {f : Part → α → Part} (hf : ∀ q x, Aside q (f q x)) (l : List α) (p : Part) : Aside p (l.foldl f p) :=
  List.foldlRecOn l f (motive := Aside p) (.refl p) fun q hq x _ => hq.trans (hf q x)

theorem Aside.upd (ht : clockOf q = clockOf p) (hm : q.mem = p.mem) (hr : q.gz.regs = p.gz.regs) (hs : q.seqs = p.seqs) (hp : q.plans = p.plans)
    (hg : q.grps = p.grps) (ha : q.adm = p.adm) (hw : wiresOf q = wiresOf p) : Aside p q :=
  ⟨⟨ht, hm, fun k _ => by rw [reg, reg, hr]⟩, hs, hp, hg, ha, hw⟩

theorem Aside.setReg (h : Aside p q) {k : Nat} (hk : asideKey k) (v : Nat) : Aside p (setReg q k v) :=
  h.trans ⟨(Steady.refl q).setReg hk v, rfl, rfl, rfl, rfl, rfl⟩
theorem Aside.addReg (h : Aside p q) {k : Nat} (hk : asideKey k) (v : Nat) : Aside p (addReg q k v) := h.setReg hk _
theorem Aside.setPin (h : Aside p q) (n : Nat) (x : PinSt) : Aside p (setPin q n x) := h.trans (.upd rfl rfl rfl rfl rfl rfl rfl rfl)
theorem Aside.setOut (h : Aside p q) (c : Chan) (x : OutSt) : Aside p (setOut q c x) := h.trans (.upd rfl rfl rfl rfl rfl rfl rfl rfl)
theorem Aside.setDp (h : Aside p q) (c : Chan) (x : Dp) : Aside p (setDp q c x) := h.trans (.upd rfl rfl rfl rfl rfl rfl rfl rfl)
theorem Aside.say (h : Aside p q) (o : Out) : Aside p (say q o) := h.trans (.upd rfl rfl rfl rfl rfl rfl rfl rfl)
theorem Aside.emptyWindow (h : Aside p q) (c : Chan) : Aside p (emptyWindow q c) := h.trans (.upd rfl rfl rfl rfl rfl rfl rfl rfl)
theorem Aside.alarms (h : Aside p q) (m : KMap Int) : Aside p { q with time := { q.time with alarms := m } } :=
  h.trans (.upd rfl rfl rfl rfl rfl rfl rfl rfl)

/-! ## Pins -/

theorem countEdge_aside (p : Part) (pin : Nat) (rising : Bool) (n : Nat) : Aside p (countEdge p pin rising n) := by
  unfold countEdge
  dsimp only
  split
  · exact ((Aside.refl p).addReg (gkey_aside (by omega) (by decide) (by decide)) _).setReg (gkey_aside (by omega) (by decide) (by decide)) _
  · exact .refl p

theorem judgePad_aside (p : Part) (pin n : Nat) (closed : Bool) : Aside p (judgePad p pin n closed) := by
  unfold judgePad
  dsimp only
  split_ifs
  · exact .refl p
  · exact (Aside.refl p).setPin _ _
  · exact ((Aside.refl p).setPin _ _).trans (countEdge_aside ..)
  · exact (Aside.refl p).setPin _ _
  · exact .refl p

theorem judgePads_aside (p : Part) (n : Nat) : Aside p (judgePads p n) := Aside.fold (fun q pin => judgePad_aside q pin (n - 1) false) _ p

theorem lowerPins_aside (p : Part) (n : Nat) : Aside p (lowerPins p n) := by
  unfold lowerPins
  extract_lets low q
  have hq : Aside p q := by
    refine Aside.fold (fun q pin => ?_) _ p
    unfold low
    dsimp only
    split
    · exact .refl q
    · split
      · exact ((Aside.refl q).say _).setPin _ _
      · exact (Aside.refl q).setPin _ _
  exact hq.trans (.upd rfl rfl rfl rfl rfl rfl rfl rfl)

theorem raisePins_aside (p : Part) (n : Nat) : Aside p (raisePins p n) := by
  unfold raisePins
  split
  · exact .refl p
  · refine Aside.fold (fun q pin => ?_) _ p
    dsimp only
    split
    · exact .refl q
    · split
      · exact ((Aside.refl q).setPin _ _).say _
      · exact (Aside.refl q).setPin _ _

/-! ## Outputs, markers and alarms -/

theorem putOutState_aside (p : Part) (c : Chan) : Aside p (putOutState p c) :=
  (Aside.refl p).setReg (gkey_aside (by omega) (by decide) (by decide)) _

theorem cutEdges_aside (p : Part) (c : Chan) (n : Nat) : Aside p (cutEdges p c n) := by
  unfold cutEdges
  dsimp only
  split
  · exact (Aside.refl p).setDp _ _
  · exact ((Aside.refl p).setDp _ _).addReg (gkey_aside (by omega) (by decide) (by decide)) _

theorem showLine_aside (p : Part) (c : Chan) (line n : Nat) (b : Bool) : Aside p (showLine p c line n b) := by
  unfold showLine
  dsimp only
  split_ifs
  · exact .refl p
  · exact ((Aside.refl p).setOut _ _).say _
  · exact (Aside.refl p).setOut _ _

theorem planAlarm_aside (p : Part) (a : Nat) (k : Int) : Aside p (planAlarm p a k) := by
  unfold planAlarm
  extract_lets n per first src keep
  have hk (m : KMap Int) : Aside p (keep m) := (Aside.refl p).alarms m
  split_ifs
  · exact hk _
  · exact ((hk _).setReg (gkey_aside (by omega) (by decide) (by decide)) _).setReg (gkey_aside (by decide) (by decide) (by decide)) _
  · exact hk _
  · exact hk _

/-! ## A channel that stops -/

theorem SFrame.steady (h : SFrame p q) : Steady p q := by
  have h1 := h.1
  refine ⟨by rw [h1]; rfl, by rw [h1], fun k hk => h.2 k ?_⟩
  rintro ⟨i, rfl⟩
  exact hk.ne_aside (gkey_aside (by omega) (by decide) (by decide)) rfl

theorem endReservation_steady (p : Part) (c : Chan) : Steady p (endReservation p c) ∧ (endReservation p c).seqs = p.seqs := by
  obtain ⟨q, hq, he⟩ := endReservation_frame p c
  rw [he]
  exact ⟨hq.steady.upd rfl rfl rfl, by rw [hq.1]⟩

theorem dropAllJumps_steady (p : Part) (c : Chan) : Steady p (dropAllJumps p c) ∧ (dropAllJumps p c).seqs = p.seqs :=
  ⟨Steady.fold (fun q (j : Jump) => ((Steady.refl q).upd rfl rfl rfl : Steady q (dropLatch q (chLatch c (8 + j.input)))).addReg
      (gkey_aside (by omega) (by decide) (by decide)) _) _ p,
    foldl_frame (v := Part.seqs) (fun q (j : Jump) => addReg_seqs (dropLatch q (chLatch c (8 + j.input))) (G.jmpDrops c) 1) _ p⟩

/-- Between p and q nothing has changed that Steady speaks of, and no sequencer but that of channel c. -/
structure SteadyBut (c : Chan) (p q : Part) : Prop where
  steady : Steady p q
  others : ∀ d, d ≠ c → seqOf q d = seqOf p d

theorem SteadyBut.of_seqs (h : Steady p q ∧ q.seqs = p.seqs) (c : Chan) : SteadyBut c p q := ⟨h.1, fun d _ => by rw [seqOf, seqOf, h.2]⟩

theorem SteadyBut.trans (h : SteadyBut c p q) (g : SteadyBut c q r) : SteadyBut c p r :=
  ⟨h.steady.trans g.steady, fun d hd => (g.others d hd).trans (h.others d hd)⟩

theorem SteadyBut.setSeq (h : SteadyBut c p q) (s : Seq) : SteadyBut c p (setSeq q c s) :=
  h.trans ⟨(Steady.refl q).setSeq c s, fun _ hd => seqOf_setSeq_ne q hd s⟩

theorem cutRest_steady (p : Part) (c : Chan) (m j : Nat) : Steady p (cutRest p c m j) ∧ (cutRest p c m j).seqs = p.seqs := by
  unfold cutRest
  split
  · exact ⟨.refl p, rfl⟩
  · exact ⟨(Steady.refl p).upd rfl rfl rfl, rfl⟩

theorem retractAll_steady (p : Part) (c : Chan) (n gen : Nat) : SteadyBut c p (retractAll p c n gen) := by
  unfold retractAll
  extract_lets sure rest p1
  have h1 : SteadyBut c p p1 := .of_seqs ⟨(Steady.refl p).addReg (gkey_aside (by omega) (by decide) (by decide)) _, rfl⟩ c
  exact h1.setSeq _

theorem dropFetched_steady (p : Part) (c : Chan) (m : Nat) : SteadyBut c p (dropFetched p c m) := by
  unfold dropFetched
  extract_lets s gone src p1
  have h1 : Steady p p1 := (Steady.refl p).upd rfl rfl rfl
  have h2 : SteadyBut c p p1 := .of_seqs ⟨h1, rfl⟩ c
  exact (h2.setSeq _).trans (.of_seqs ⟨(Steady.refl _).addReg (gkey_aside (by omega) (by decide) (by decide)) _, rfl⟩ c)

theorem stopChan_steady (p : Part) (c : Chan) (m gen : Nat) : SteadyBut c p (stopChan p c m gen) := by
  unfold stopChan
  extract_lets p1 p2 p3
  have h1 : SteadyBut c p p1 := .of_seqs (cutRest_steady ..) c
  have h2 : SteadyBut c p1 p2 :=
    ((retractAll_steady ..).trans (.of_seqs (dropAllJumps_steady ..) c)).trans (.of_seqs (endReservation_steady ..) c)
  exact ((h1.trans h2).trans (dropFetched_steady ..)).setSeq _

theorem dropEdges_steady (p : Part) (c : Chan) (k : Nat) : Steady p (dropEdges p c k) ∧ (dropEdges p c k).seqs = p.seqs := by
  unfold dropEdges
  dsimp only
  split
  · exact ⟨.refl p, rfl⟩
  · exact ⟨(Steady.refl p).addReg (gkey_aside (by omega) (by decide) (by decide)) _, rfl⟩

theorem endFreeze_steady (p : Part) (c : Chan) : Steady p (endFreeze p c) ∧ (endFreeze p c).seqs = p.seqs := by
  unfold endFreeze
  extract_lets o p1
  have h1 : Steady p p1 := (Steady.refl p).upd rfl rfl rfl
  split_ifs
  · exact ⟨.refl p, rfl⟩
  · exact ⟨h1, rfl⟩
  · exact ⟨h1.setReg (gkey_aside (by omega) (by decide) (by decide)) _, rfl⟩

/-- Releasing reservations takes them off the reserved set, and moves values of admission alone. -/
theorem releaseResv_steady (p : Part) (f : Resv → Bool) : Steady p (releaseResv p f) ∧
    (releaseResv p f).seqs = p.seqs ∧ (releaseResv p f).adm = { p.adm with resv := p.adm.resv.filter fun r => !f r } := by
  unfold releaseResv
  extract_lets gone src p1 p2
  have h1 : Steady p p1 := (Steady.refl p).upd rfl rfl rfl
  have h2 : Steady p p2 :=
    ((h1.setReg (gkey_aside (by decide) (by decide) (by decide)) _).setReg (gkey_aside (by decide) (by decide) (by decide)) _).setReg
      (gkey_aside (by decide) (by decide) (by decide)) _
  split
  · exact ⟨h1, rfl, rfl⟩
  · refine ⟨h2.trans (Steady.fold (fun q x => ?_) _ p2), ?_⟩
    · split
      · exact .refl q
      · exact ((Steady.refl q).setReg (gkey_aside (by omega) (by decide) (by decide)) _).setReg (gkey_aside (by omega) (by decide) (by decide)) _
    · have hv := foldl_frame (v := fun q : Part => (q.seqs, q.adm))
        (f := fun q (r : Resv) => if r.chan.isSome then q else Machine.setReg (Machine.setReg q (G.admGDram r.group) 0) (G.admGArmedTick r.group) 0)
        (fun q r => by split <;> rfl) gone p2
      exact ⟨congrArg Prod.fst hv, congrArg Prod.snd hv⟩

end Sys2Proof.Machine
end

section
/-!
SUPPORT. The loss of the sample clock (R22): what each piece of it leaves, in the order in which they follow.
-/

namespace Sys2Proof.Machine

variable {p q r : Part} {c d : Chan}

/-! ## Every channel stops -/

/-- A channel at the loss of the clock in tick k, before its sequencer is looked at. -/
def haltHead (k : Nat) (q : Part) (c : Chan) : Part := endFreeze (dropEdges q c k) c

/-- The program of a channel ends in tick k and is parked; its leads are retracted in that tick. -/
def parkChan (k : Nat) (q : Part) (c : Chan) : Part :=
  let q := stopChan { q with plans := q.plans.set c.val [] c.isLt } c k 0
  let s := seqOf q c
  setReg (setSeq q c { s with act := .parked, retr := s.retr.map fun e => (250 * k, e.2) }) (G.seqState c) 6

/-- One channel at the loss of the clock in tick k: where it has a program, that is parked. -/
def haltChan (k : Nat) (q : Part) (c : Chan) : Part :=
  if (seqOf (haltHead k q c) c).act = .off then haltHead k q c else parkChan k (haltHead k q c) c

theorem haltHead_steady (k : Nat) (q : Part) (c : Chan) : Steady q (haltHead k q c) ∧ (haltHead k q c).seqs = q.seqs := by
  obtain ⟨hd, hds⟩ := dropEdges_steady q c k
  obtain ⟨he, hes⟩ := endFreeze_steady (dropEdges q c k) c
  exact ⟨hd.trans he, hes.trans hds⟩

theorem parkChan_steady (k : Nat) (q : Part) (c : Chan) : SteadyBut c q (parkChan k q c) := by
  have hc : Steady q { q with plans := q.plans.set c.val [] c.isLt } := (Steady.refl q).upd rfl rfl rfl
  have hs := (SteadyBut.of_seqs ⟨hc, rfl⟩ c).trans (stopChan_steady _ c k 0)
  unfold parkChan
  generalize stopChan _ c k 0 = x at hs ⊢
  exact (hs.setSeq _).trans (.of_seqs ⟨(Steady.refl _).setReg (gkey_aside (by omega) (by decide) (by decide)) 6, setReg_seqs ..⟩ c)

theorem parkChan_act (k : Nat) (q : Part) (c : Chan) : (seqOf (parkChan k q c) c).act = .parked := by
  unfold parkChan
  generalize stopChan _ c k 0 = x
  exact congrArg Seq.act (seqOf_setSeq_same x c _)

theorem haltChan_steady (k : Nat) (q : Part) (c : Chan) : SteadyBut c q (haltChan k q c) := by
  have hh := SteadyBut.of_seqs (haltHead_steady k q c) c
  unfold haltChan
  split
  · exact hh
  · exact hh.trans (parkChan_steady ..)

/-- A program is parked where there is one (R22, Table 07-3). -/
def parkedAct (a : Act) : Act := if a = .off then .off else .parked

theorem haltChan_act (k : Nat) (q : Part) (c : Chan) : (seqOf (haltChan k q c) c).act = parkedAct (seqOf q c).act := by
  have hs : seqOf (haltHead k q c) c = seqOf q c := by rw [seqOf, seqOf, (haltHead_steady k q c).2]
  unfold haltChan parkedAct
  split_ifs with h h' h'
  · exact h
  · exact absurd (hs ▸ h) h'
  · exact absurd (hs ▸ h') h
  · exact parkChan_act ..

/-! ## Every group stops -/

/-- LG_STOP of a group that runs waits for the clock (R22). -/
def delayStop (k : Nat) (q : Part) (g : Grp) : Part :=
  if 2 ≤ reg q (G.lgState g) then { q with fab := { q.fab with delayed := q.fab.delayed ++ [⟨k, 0, 0xB10 + g.val, 0⟩] } } else q

/-- One group at the loss of the clock in tick k: it is stopped and disarmed (R22). -/
def haltGroup (k : Nat) (q : Part) (g : Grp) : Part := setReg (setGrp (unfreeze (delayStop k q g) g) g GroupSt.idle) (G.lgState g) 0

/-- What stopping groups leaves: the clock, memory, the sequencers and CLOCK_STATE. -/
def groupFree (q : Part) : TimeSt × MemSt × Vector Seq 256 × Nat := (clockOf q, q.mem, q.seqs, reg q G.clockState)

theorem clockState_ne_lgState (g : Grp) : G.clockState ≠ G.lgState g := by unfold G.clockState G.lgState gkey; omega

theorem lgState_inj {g h : Grp} (e : G.lgState g = G.lgState h) : g = h := by
  unfold G.lgState gkey at e
  exact Fin.ext (by omega)

theorem delayStop_gz (k : Nat) (q : Part) (g : Grp) : (delayStop k q g).gz = q.gz := by unfold delayStop; split <;> rfl

theorem haltGroup_free (k : Nat) (q : Part) (g : Grp) : groupFree (haltGroup k q g) = groupFree q := by
  have hd : groupFree (delayStop k q g) = groupFree q := by unfold delayStop; split <;> rfl
  rw [haltGroup, groupFree, reg_setReg_ne _ (clockState_ne_lgState g)]
  exact hd

theorem haltGroup_lgState_same (k : Nat) (q : Part) (g : Grp) : reg (haltGroup k q g) (G.lgState g) = 0 := reg_setReg_same _ _ _

theorem haltGroup_lgState_ne (k : Nat) (q : Part) (g h : Grp) (hg : h ≠ g) : reg (haltGroup k q g) (G.lgState h) = reg q (G.lgState h) := by
  have hd : reg (delayStop k q g) (G.lgState h) = reg q (G.lgState h) := by rw [reg, reg, delayStop_gz]
  rw [haltGroup, reg_setReg_ne _ fun e => hg (lgState_inj e)]
  exact hd

/-! ## The groups with their plans -/

/-- Every plan commit, every reservation and every plan is dropped. -/
def unplan (p : Part) : Part :=
  let p := p.adm.plans.foldl (fun q x => setReg q (G.planState x.chan) 0) p
  let p := releaseResv { p with adm := { p.adm with plans := [] } } fun _ => true
  { p with plans := Vector.replicate 256 [] }

theorem haltGroups_eq (p : Part) :
    haltGroups p = unplan ((List.finRange 16).foldl (haltGroup p.time.tick) ((List.finRange 256).foldl (haltChan p.time.tick) p)) := by
  delta haltGroups unplan haltChan haltHead parkChan haltGroup delayStop
  dsimp only

theorem haltChans_spec (k : Nat) (p : Part) :
    Steady p ((List.finRange 256).foldl (haltChan k) p) ∧
      ∀ c, (seqOf ((List.finRange 256).foldl (haltChan k) p) c).act = parkedAct (seqOf p c).act :=
  ⟨Steady.fold (fun q c => (haltChan_steady k q c).steady) _ p,
    foldl_each (v := fun q c => (seqOf q c).act) (haltChan_act k) (fun q c d hd => congrArg Seq.act ((haltChan_steady k q c).others d hd)) p⟩

theorem haltGroupFold_spec (k : Nat) (p : Part) :
    groupFree ((List.finRange 16).foldl (haltGroup k) p) = groupFree p ∧
      ∀ g : Grp, reg ((List.finRange 16).foldl (haltGroup k) p) (G.lgState g) = 0 :=
  ⟨foldl_frame (haltGroup_free k) _ p,
    foldl_each (v := fun q g => reg q (G.lgState g)) (g := fun _ => 0) (haltGroup_lgState_same k) (haltGroup_lgState_ne k) p⟩

theorem unplan_spec (p : Part) :
    Steady p (unplan p) ∧ (unplan p).seqs = p.seqs ∧ (unplan p).adm.resv = [] ∧ (unplan p).adm.plans = [] ∧
      (unplan p).plans = Vector.replicate 256 [] := by
  have h1 : Steady p (p.adm.plans.foldl (fun q x => setReg q (G.planState x.chan) 0) p) :=
    Steady.fold (fun q (x : PlanCommit) => (Steady.refl q).setReg (gkey_aside (by omega) (by decide) (by decide)) 0) _ p
  have s1 : (p.adm.plans.foldl (fun q x => setReg q (G.planState x.chan) 0) p).seqs = p.seqs :=
    foldl_frame (v := Part.seqs) (fun q (x : PlanCommit) => setReg_seqs q (G.planState x.chan) 0) _ p
  unfold unplan
  generalize p.adm.plans.foldl _ p = q at h1 s1 ⊢
  have h2 : Steady p { q with adm := { q.adm with plans := [] } } := h1.upd rfl rfl rfl
  obtain ⟨h3, s3, a3⟩ := releaseResv_steady { q with adm := { q.adm with plans := [] } } fun _ => true
  refine ⟨(h2.trans h3).upd rfl rfl rfl, s3.trans s1, ?_, congrArg AdmSt.plans a3, rfl⟩
  exact (congrArg AdmSt.resv a3).trans (List.filter_eq_nil_iff.mpr fun _ _ => by simp)

/-- The groups and their plans at a loss of the clock: programs are parked, groups stopped, and nothing is reserved or planned. -/
theorem haltGroups_spec (p : Part) :
    clockOf (haltGroups p) = clockOf p ∧ (haltGroups p).mem = p.mem ∧ reg (haltGroups p) G.clockState = reg p G.clockState ∧
      (∀ c, (seqOf (haltGroups p) c).act = parkedAct (seqOf p c).act) ∧ (∀ g : Grp, reg (haltGroups p) (G.lgState g) = 0) ∧
      (haltGroups p).adm.resv = [] ∧ (haltGroups p).adm.plans = [] ∧ (haltGroups p).plans = Vector.replicate 256 [] := by
  rw [haltGroups_eq]
  obtain ⟨h1, a1⟩ := haltChans_spec p.time.tick p
  generalize (List.finRange 256).foldl (haltChan p.time.tick) p = p1 at h1 a1 ⊢
  obtain ⟨h2, g2⟩ := haltGroupFold_spec p.time.tick p1
  generalize (List.finRange 16).foldl (haltGroup p.time.tick) p1 = p2 at h2 g2 ⊢
  obtain ⟨hc2, hm2, hs2, hr2⟩ : clockOf p2 = clockOf p1 ∧ p2.mem = p1.mem ∧ p2.seqs = p1.seqs ∧ reg p2 G.clockState = reg p1 G.clockState := by
    simpa only [groupFree, Prod.mk.injEq] using h2
  obtain ⟨h3, s3, hv, hl, hp⟩ := unplan_spec p2
  refine ⟨h3.clock.trans (hc2.trans h1.clock), h3.mem.trans (hm2.trans h1.mem), ?_, fun c => ?_, fun g => ?_, hv, hl, hp⟩
  · exact h3.clockState.trans (hr2.trans h1.clockState)
  · rw [← a1 c, seqOf, seqOf, s3, hs2]
  · exact (h3.lgState g).trans (g2 g)

/-! ## Outputs and markers -/

/-- The marker lines of a channel go low at the loss of the clock. -/
def lowerLines (q : Part) (c : Chan) : Part :=
  [0, 1].foldl (fun q l => showLine q c l (nOf q.time.tick (10 * q.time.cyc)) false) (cutEdges q c 0)

/-- One output at the loss of the clock: taken from its DAC, its marker lines low, its codes dropped. -/
def darken (q : Part) (c : Chan) : Part :=
  let o := outOf q c
  let closed := switchClosed q c && !o.shut
  let q := lowerLines q c
  let o := { o with lines := 0 }
  let q := setDp q c { dpOf q c with marks := 0, emit := [], next := [] }
  let q := setReg (setOut q c { o with dac := false, closed := closed, changed := q.time.tick + 1 }) (G.mrkLevel c) 0
  putOutState q c

theorem lowerLines_aside (q : Part) (c : Chan) : Aside q (lowerLines q c) :=
  (cutEdges_aside q c 0).trans (Aside.fold (fun q l => showLine_aside q c l _ false) _ _)

theorem showLine_out_ne (q : Part) (line n : Nat) (b : Bool) (h : d ≠ c) : outOf (showLine q c line n b) d = outOf q d := by
  unfold showLine
  dsimp only
  split_ifs
  · rfl
  · exact outOf_setOut_ne _ h _
  · exact outOf_setOut_ne _ h _

theorem lowerLines_out_ne (q : Part) (h : d ≠ c) : outOf (lowerLines q c) d = outOf q d := by
  unfold lowerLines
  rw [foldl_frame (v := fun q => outOf q d) fun q l => showLine_out_ne q l _ false h]
  unfold cutEdges
  dsimp only
  split <;> rfl

theorem darken_aside (q : Part) (c : Chan) : Aside q (darken q c) := by
  have hl := lowerLines_aside q c
  unfold darken
  generalize lowerLines q c = x at hl ⊢
  exact (((hl.setDp c _).setOut c _).setReg (gkey_aside (by omega) (by decide) (by decide)) 0).trans (putOutState_aside _ c)

theorem darken_dac_same (q : Part) (c : Chan) : (outOf (darken q c) c).dac = false := by
  unfold darken
  generalize lowerLines q c = x
  exact congrArg OutSt.dac (outOf_setOut_same ..)

theorem darken_dac_ne (q : Part) (c d : Chan) (h : d ≠ c) : (outOf (darken q c) d).dac = (outOf q d).dac := by
  have hl := lowerLines_out_ne q h
  unfold darken
  generalize lowerLines q c = x at hl ⊢
  exact congrArg OutSt.dac ((outOf_setOut_ne _ h _).trans hl)

theorem darkenAll_spec (p : Part) :
    Aside p ((List.finRange 256).foldl darken p) ∧ ∀ c, (outOf ((List.finRange 256).foldl darken p) c).dac = false :=
  ⟨Aside.fold darken_aside _ p, foldl_each (v := fun q c => (outOf q c).dac) (g := fun _ => false) darken_dac_same darken_dac_ne p⟩

/-! ## A realignment begins -/

theorem beginAlign_frame (p : Part) :
    (beginAlign p).time.tick = p.time.tick ∧ (beginAlign p).time.datum = datumNow p ∧ (beginAlign p).mem = p.mem ∧ (beginAlign p).seqs = p.seqs ∧
      (beginAlign p).grps = p.grps ∧ (beginAlign p).adm = p.adm := by
  unfold beginAlign
  dsimp only
  split <;> exact ⟨rfl, rfl, rfl, rfl, rfl, rfl⟩

theorem beginAlign_clockState (p : Part) : reg (beginAlign p) G.clockState = if reg p G.clockState = 2 then 2 else 1 := by
  unfold beginAlign
  dsimp only
  split
  · assumption
  · exact reg_setReg_same ..

/-! ## The loss -/

/-- The Graticule is without its clock (R22). -/
def unclock (p : Part) : Part := setReg { p with time := { p.time with locked := false } } G.clockState 2

theorem loseClock_eq (p : Part) (cyc : Nat) :
    loseClock p cyc =
      let q := unclock (beginAlign (atCyc p cyc))
      (List.finRange 256).foldl darken (lowerPins (haltGroups q) (nOf q.time.tick (10 * cyc))) := by
  delta loseClock unclock darken lowerLines
  dsimp only

theorem unclock_spec (p : Part) :
    reg (unclock p) G.clockState = 2 ∧ (unclock p).time.locked = false ∧ (unclock p).time.tick = p.time.tick ∧
      (unclock p).time.datum = p.time.datum ∧ (unclock p).mem = p.mem ∧ (unclock p).seqs = p.seqs :=
  ⟨reg_setReg_same .., rfl, rfl, rfl, rfl, rfl⟩

/-- The loss of the sample clock in core cycle cyc (R22, R224). -/
theorem loseClock_spec (p : Part) (cyc : Nat) :
    reg (loseClock p cyc) G.clockState = 2 ∧ (loseClock p cyc).time.locked = false ∧
      (∀ c, (seqOf (loseClock p cyc) c).act = parkedAct (seqOf p c).act) ∧ (∀ g : Grp, reg (loseClock p cyc) (G.lgState g) = 0) ∧
      (loseClock p cyc).adm.resv = [] ∧ (loseClock p cyc).adm.plans = [] ∧ (loseClock p cyc).plans = Vector.replicate 256 [] ∧
      (∀ c, (outOf (loseClock p cyc) c).dac = false) ∧ (loseClock p cyc).time.tick = p.time.tick ∧
      (loseClock p cyc).time.datum = datumNow (atCyc p cyc) ∧ (loseClock p cyc).mem = p.mem := by
  rw [loseClock_eq]
  dsimp only
  obtain ⟨bt, bd, bm, bs, -, -⟩ := beginAlign_frame (atCyc p cyc)
  generalize beginAlign (atCyc p cyc) = b at bt bd bm bs ⊢
  obtain ⟨ur, ul, ut, ud, um, us⟩ := unclock_spec b
  generalize unclock b = u at ur ul ut ud um us ⊢
  obtain ⟨hc, hm, hr, ha, hg, hv, hl, hp⟩ := haltGroups_spec u
  generalize haltGroups u = h at hc hm hr ha hg hv hl hp ⊢
  have hlow := lowerPins_aside h (nOf u.time.tick (10 * cyc))
  generalize lowerPins h _ = w at hlow ⊢
  obtain ⟨hd, hdac⟩ := darkenAll_spec w
  generalize (List.finRange 256).foldl darken w = q at hd hdac ⊢
  have hq := hlow.trans hd
  have clock := hq.clock.trans hc
  refine ⟨hq.clockState.trans (hr.trans ur), (locked_of_clockOf clock).trans ul, fun c => ?_, fun g => (hq.lgState g).trans (hg g), ?_, ?_, ?_,
    hdac, (tick_of_clockOf clock).trans (ut.trans bt), (datum_of_clockOf clock).trans (ud.trans bd), hq.mem.trans (hm.trans (um.trans bm))⟩
  · rw [seqOf, hq.seqs]
    refine (ha c).trans ?_
    rw [seqOf, us, bs]
    rfl
  · rw [hq.adm, hv]
  · rw [hq.adm, hl]
  · rw [hq.plans, hp]

end Sys2Proof.Machine
end

section
/-!
SUPPORT. The return of the sample clock (R22) and a relock by FS_KHZ (R39).
-/

namespace Sys2Proof.Machine

variable {p q r : Part} {c d : Chan}

/-! ## The return -/

/-- A channel at the return of the clock: its Watch window is emptied, and OUT_STATE follows (R241). -/
def restartWatch (q : Part) (c : Chan) : Part := putOutState (emptyWindow q c) c

/-- Alignment begins with the clock back. -/
def reclock (p : Part) : Part := setReg { p with time := { p.time with locked := true } } G.clockState 1

theorem returnClock_eq (h : reg p G.clockState = 2) : returnClock p = (List.finRange 256).foldl restartWatch (reclock p) := by
  delta returnClock restartWatch reclock
  rw [if_pos h]

theorem returnClock_idle (h : reg p G.clockState ≠ 2) : returnClock p = p := by
  unfold returnClock
  rw [if_neg h]

theorem restartWatch_aside (q : Part) (c : Chan) : Aside q (restartWatch q c) := ((Aside.refl q).emptyWindow c).trans (putOutState_aside ..)

theorem restartWatch_watch (q : Part) (c : Chan) : (restartWatch q c).watch = (emptyWindow q c).watch := rfl

theorem restartWatch_same (q : Part) (c : Chan) : ((restartWatch q c).watch.get c).window = [] := by
  simp [restartWatch_watch, emptyWindow, Vector.get_eq_getElem]

theorem restartWatch_ne (q : Part) (c d : Chan) (h : d ≠ c) : ((restartWatch q c).watch.get d).window = (q.watch.get d).window := by
  have hv : c.val ≠ d.val := fun e => h (Fin.ext e.symm)
  simp [restartWatch_watch, emptyWindow, Vector.get_eq_getElem, hv]

theorem restartAll_spec (p : Part) :
    Aside p ((List.finRange 256).foldl restartWatch p) ∧ ∀ c, (((List.finRange 256).foldl restartWatch p).watch.get c).window = [] :=
  ⟨Aside.fold restartWatch_aside _ p,
    foldl_each (v := fun q c => (q.watch.get c).window) (g := fun _ => []) restartWatch_same restartWatch_ne p⟩

/-- The return of the sample clock: alignment begins (R22). -/
theorem returnClock_spec (h : reg p G.clockState = 2) :
    reg (returnClock p) G.clockState = 1 ∧ (returnClock p).time.locked = true ∧ (∀ c, ((returnClock p).watch.get c).window = []) ∧
      (returnClock p).seqs = p.seqs ∧ (returnClock p).mem = p.mem ∧ (returnClock p).grps = p.grps ∧ (returnClock p).time.tick = p.time.tick := by
  have rc : reg (reclock p) G.clockState = 1 := reg_setReg_same ..
  have rl : (reclock p).time.locked = true := rfl
  have rt : (reclock p).time.tick = p.time.tick := rfl
  have rs : (reclock p).seqs = p.seqs := rfl
  have rm : (reclock p).mem = p.mem := rfl
  have rg : (reclock p).grps = p.grps := rfl
  rw [returnClock_eq h]
  generalize reclock p = u at rc rl rt rs rm rg ⊢
  obtain ⟨hq, hw⟩ := restartAll_spec u
  generalize (List.finRange 256).foldl restartWatch u = q at hq hw ⊢
  exact ⟨hq.clockState.trans rc, hq.locked.trans rl, hw, hq.seqs.trans rs, hq.mem.trans rm, hq.grps.trans rg, hq.tick.trans rt⟩

/-! ## A relock -/

/-- An output at a relock parks (R39). -/
def parkOut (q : Part) (c : Chan) : Part := putOutState (setOut q c { outOf q c with relock := true, dac := false }) c

/-- FS_KHZ and TICKS_PER_SECOND are in force, and the synthesizer is not locked (R39). -/
def retune (p : Part) (khz : Nat) : Part :=
  let p := setReg (setReg p G.fsKhz khz) G.ticksPerSecond (4 * khz)
  { p with time := { p.time with locked := false } }

theorem relock_eq (p : Part) (khz : Nat) : relock p khz = (List.finRange 256).foldl parkOut (retune (beginAlign p) khz) := by
  delta relock parkOut retune
  rfl

theorem parkOut_aside (q : Part) (c : Chan) : Aside q (parkOut q c) := ((Aside.refl q).setOut c _).trans (putOutState_aside ..)

/-- An output that parks for a relock is off its DAC. -/
def parksOut (o : OutSt) : Bool × Bool := (o.relock, o.dac)

theorem parkOut_same (q : Part) (c : Chan) : parksOut (outOf (parkOut q c) c) = (true, false) := congrArg parksOut (outOf_setOut_same ..)

theorem parkOut_ne (q : Part) (c d : Chan) (h : d ≠ c) : parksOut (outOf (parkOut q c) d) = parksOut (outOf q d) :=
  congrArg parksOut (outOf_setOut_ne _ h _)

theorem parkOuts_spec (p : Part) :
    Aside p ((List.finRange 256).foldl parkOut p) ∧ ∀ c, parksOut (outOf ((List.finRange 256).foldl parkOut p) c) = (true, false) :=
  ⟨Aside.fold parkOut_aside _ p, foldl_each (v := fun q c => parksOut (outOf q c)) (g := fun _ => (true, false)) parkOut_same parkOut_ne p⟩

theorem retune_spec (p : Part) (khz : Nat) :
    reg (retune p khz) G.fsKhz = khz ∧ reg (retune p khz) G.ticksPerSecond = 4 * khz ∧ reg (retune p khz) G.clockState = reg p G.clockState := by
  unfold retune
  refine ⟨?_, reg_setReg_same .., ?_⟩
  · exact (reg_setReg_ne _ (by decide) _).trans (reg_setReg_same ..)
  · exact (reg_setReg_ne _ (by decide) _).trans (reg_setReg_ne _ (by decide) _)

/-- A relock parks every output, with the new frequency in force (R39). -/
theorem relock_spec (p : Part) (khz : Nat) :
    reg (relock p khz) G.fsKhz = khz ∧ reg (relock p khz) G.ticksPerSecond = 4 * khz ∧
      reg (relock p khz) G.clockState = (if reg p G.clockState = 2 then 2 else 1) ∧ (relock p khz).time.locked = false ∧
      (∀ c, (outOf (relock p khz) c).relock = true ∧ (outOf (relock p khz) c).dac = false) ∧ (relock p khz).mem = p.mem ∧
      (relock p khz).seqs = p.seqs ∧ (relock p khz).grps = p.grps ∧ (relock p khz).adm = p.adm := by
  have hc := beginAlign_clockState p
  obtain ⟨-, -, bm, bs, bg, ba⟩ := beginAlign_frame p
  obtain ⟨rf, rt, rc⟩ := retune_spec (beginAlign p) khz
  have rl : (retune (beginAlign p) khz).time.locked = false := rfl
  have rm : (retune (beginAlign p) khz).mem = (beginAlign p).mem := rfl
  have rs : (retune (beginAlign p) khz).seqs = (beginAlign p).seqs := rfl
  have rg : (retune (beginAlign p) khz).grps = (beginAlign p).grps := rfl
  have ra : (retune (beginAlign p) khz).adm = (beginAlign p).adm := rfl
  rw [relock_eq]
  generalize retune (beginAlign p) khz = u at rf rt rc rl rm rs rg ra ⊢
  obtain ⟨hq, ho⟩ := parkOuts_spec u
  generalize (List.finRange 256).foldl parkOut u = q at hq ho ⊢
  have key {k : Nat} (hk : k / 256 = 0x1220) : reg q k = reg u k := hq.regs k (.inl hk)
  refine ⟨(key (by decide)).trans rf, (key (by decide)).trans rt, (key (by decide)).trans (rc.trans hc), ?_, fun c => ?_, ?_, ?_, ?_, ?_⟩
  · exact hq.locked.trans rl
  · exact Prod.mk.inj (ho c)
  · exact hq.mem.trans (rm.trans bm)
  · exact hq.seqs.trans (rs.trans bs)
  · exact hq.grps.trans (rg.trans bg)
  · exact hq.adm.trans (ra.trans ba)

/-! ## The write of FS_KHZ -/

/-- The abort log is at index 0x1018. -/
theorem logAbort_reg (p : Part) (path : Path) (op code i s v : Nat) {k : Nat} (hk : k / 256 ≠ 0x1018) :
    reg (logAbort p path op code i s v) k = reg p k := by
  have hne {j : Nat} (hj : j < 256) : k ≠ gkey 0x1018 j := by
    rintro rfl
    exact hk (gkey_div _ _ hj)
  unfold logAbort
  extract_lets n p1 p2 p3 p4
  have hn : n < 80 := Nat.mod_lt _ (by decide)
  calc reg (setReg p4 G.logTotal _) k
    _ = reg p4 k := reg_setReg_ne _ (hne (by omega)) _
    _ = reg p3 k := reg_setReg_ne _ (hne (by omega)) _
    _ = reg p2 k := reg_setReg_ne _ (hne (by omega)) _
    _ = reg p1 k := reg_setReg_ne _ (hne (by omega)) _
    _ = reg p k := reg_setReg_ne _ (hne (by omega)) _

/-- Discarding staged words leaves every value in force but those of the abort log. -/
theorem cleared_reg (p : Part) (path : Path) (j : Nat) {k : Nat} (hk : k / 256 ≠ 0x1018) : reg (cleared p path j) k = reg p k := by
  have hd : reg (discardStaged p path j) k = reg p k := by
    unfold discardStaged
    split
    · split
      · rfl
      · exact logAbort_reg _ _ _ _ _ _ _ hk
    · rfl
  unfold cleared
  split
  · exact hd
  · rfl

/-- FS_KHZ (Table 02-9). -/
def entryFsKhz : Entry := ⟨3, 3, 1, .u32, .rw, .staged, 1250000, .none, false, false, .between 500000 1250000, .cmd⟩

theorem lookup_fsKhz : lookup 0x1220 0x03 = .entry entryFsKhz 0x03 := by decide

/-- A taken FS_KHZ relocks the part (R39). -/
theorem write_fsKhz {path : Path} {v : Nat} (ht : Takes p path G.fsKhz v) :
    commandWrite p path 0x1220 0x03 v = tell (relock (cleared p path G.fsKhz) v) path 0 := by
  refine commandWrite_takes (e := entryFsKhz) (by decide) lookup_fsKhz rfl nofun (by decide) ht effect_fsKhz ?_
  obtain ⟨-, -, -, -, -, -, -, -, hadm⟩ := relock_spec (cleared p path G.fsKhz) v
  rw [hadm, cleared_adm]
  exact lt_irrefl _

end Sys2Proof.Machine
end

section
/-!
SUPPORT. The alignment of the Graticule (R44): what is loaded, the delayed RETRACT pulses, the alarms, and the timed firings that are discarded.
-/

namespace Sys2Proof.Machine

variable {p q r : Part} {c d : Chan} {k : Nat}

/-! ## Delayed RETRACT pulses -/

/-- The leads of a channel resolve in tick k, and their RETRACT pulses assert (R22). -/
def resolveLeads (k : Nat) (q : Part) (c : Chan) : Part :=
  let s := seqOf q c
  let l := s.retr.map fun e => (⟨25 * k, ⟨e.1 / 250, 0, 0x300 + c.val, e.2⟩⟩ : Producer)
  let q := addReg q (G.retractCount c) s.retr.length
  { setSeq q c { s with retr := [] } with fab := { q.fab with producers := q.fab.producers ++ l } }

/-- A channel whose leads a loss of the clock has kept waiting. -/
def releaseLeads (k : Nat) (q : Part) (c : Chan) : Part := if (seqOf q c).retr.isEmpty then q else resolveLeads k q c

theorem releaseRetracts_eq (p : Part) (k : Nat) : releaseRetracts p k = (List.finRange 256).foldl (releaseLeads k) p := by
  delta releaseRetracts releaseLeads resolveLeads
  rfl

/-- Between p and q what an alignment loads stands: pulses may have been added to those that are to assert, none is gone. -/
structure LoadStands (p q : Part) : Prop extends Steady p q where
  plans    : q.plans = p.plans
  adm      : q.adm = p.adm
  delayed  : q.fab.delayed = p.fab.delayed
  arrivals : q.fab.arrivals = p.fab.arrivals
  captured : q.fab.captured = p.fab.captured
  fires    : q.fab.fires = p.fab.fires
  asserted : p.fab.producers ⊆ q.fab.producers

theorem LoadStands.refl (p : Part) : LoadStands p p := ⟨.refl p, rfl, rfl, rfl, rfl, rfl, rfl, fun _ h => h⟩
theorem LoadStands.trans (h : LoadStands p q) (g : LoadStands q r) : LoadStands p r :=
  ⟨h.toSteady.trans g.toSteady, g.plans.trans h.plans, g.adm.trans h.adm, g.delayed.trans h.delayed, g.arrivals.trans h.arrivals,
    g.captured.trans h.captured, g.fires.trans h.fires, fun _ hx => g.asserted (h.asserted hx)⟩

theorem Aside.loadStands (h : Aside p q) : LoadStands p q := by
  have hw {β : Type} (f : FabSt → β) : f (wiresOf q) = f (wiresOf p) := congrArg f h.wires
  exact ⟨h.toSteady, h.plans, h.adm, hw FabSt.delayed, hw FabSt.arrivals, hw FabSt.captured, hw FabSt.fires,
    fun x hx => (hw FabSt.producers).symm ▸ hx⟩

theorem resolveLeads_stands (k : Nat) (q : Part) (c : Chan) : LoadStands q (resolveLeads k q c) :=
  ⟨((Steady.refl q).addReg (gkey_aside (by omega) (by decide) (by decide)) _).upd rfl rfl rfl, rfl, rfl, rfl, rfl, rfl, rfl,
    List.subset_append_left ..⟩

theorem releaseLeads_stands (k : Nat) (q : Part) (c : Chan) : LoadStands q (releaseLeads k q c) := by
  unfold releaseLeads
  split
  · exact .refl q
  · exact resolveLeads_stands k q c

/-- The leads that wait and the state of a sequencer. -/
def leadsOf (s : Seq) : List (Nat × Nat) × Act := (s.retr, s.act)

theorem releaseLeads_same (k : Nat) (q : Part) (c : Chan) : leadsOf (seqOf (releaseLeads k q c) c) = ([], (leadsOf (seqOf q c)).2) := by
  unfold releaseLeads
  split
  · rename_i h
    exact Prod.ext (List.isEmpty_iff.mp h) rfl
  · exact congrArg leadsOf (seqOf_setSeq_same (addReg q (G.retractCount c) _) c _)

theorem releaseLeads_ne (k : Nat) (q : Part) (c d : Chan) (h : d ≠ c) : leadsOf (seqOf (releaseLeads k q c) d) = leadsOf (seqOf q d) := by
  unfold releaseLeads
  split
  · rfl
  · exact congrArg leadsOf (seqOf_setSeq_ne (addReg q (G.retractCount c) _) h _)

theorem releaseRetracts_spec (p : Part) (k : Nat) :
    LoadStands p (releaseRetracts p k) ∧ ∀ c, (seqOf (releaseRetracts p k) c).retr = [] ∧ (seqOf (releaseRetracts p k) c).act = (seqOf p c).act := by
  rw [releaseRetracts_eq]
  refine ⟨List.foldlRecOn (motive := LoadStands p) _ _ (.refl p) fun q hq x _ => hq.trans (releaseLeads_stands k q x), fun c => ?_⟩
  exact Prod.mk.inj (foldl_each (v := fun q c => leadsOf (seqOf q c)) (g := fun x => ([], x.2)) (releaseLeads_same k) (releaseLeads_ne k) p c)

/-! ## Timed firings -/

/-- Discarding timed firings moves those and the values of the fabric alone (R111). -/
theorem discardFires_spec (p : Part) (f : Nat → Bool) :
    Steady p (discardFires p f) ∧ (discardFires p f).seqs = p.seqs ∧ (discardFires p f).plans = p.plans ∧ (discardFires p f).adm = p.adm ∧
      (discardFires p f).fab = { p.fab with fires := p.fab.fires.filter fun e => !f e.1 } := by
  unfold discardFires
  dsimp only
  split
  · rename_i h
    have hn : ∀ e ∈ p.fab.fires, ¬ f e.1 = true := List.filter_eq_nil_iff.mp (List.isEmpty_iff.mp h)
    have hk : p.fab.fires.filter (fun e => !f e.1) = p.fab.fires := List.filter_eq_self.mpr fun e he => by simp [hn e he]
    exact ⟨.refl p, rfl, rfl, rfl, by rw [hk]⟩
  · have h1 : Steady p { p with fab := { p.fab with fires := p.fab.fires.filter fun e => !f e.1 } } := (Steady.refl p).upd rfl rfl rfl
    refine ⟨?_, rfl, rfl, rfl, rfl⟩
    exact ((h1.setReg (gkey_aside (by decide) (by decide) (by decide)) _).addReg (gkey_aside (by decide) (by decide) (by decide)) _).setReg
      (gkey_aside (by decide) (by decide) (by decide)) _

/-! ## What is loaded -/

/-- The tick of the Graticule at a whole second of the Datum (R44). -/
def tickAt (p : Part) (second : Nat) : Nat :=
  ((((second : Int) - (reg p G.epoch >>> 48 : Nat)) * (reg p G.ticksPerSecond : Int)) % ((2 ^ 64 : Nat) : Int)).toNat

/-- Tick k and the Datum are loaded, and what the pipeline still holds under the old numbers is dropped; delayed pulses assert (R44). -/
def loadTick (p : Part) (second k : Nat) : Part :=
  let p := setReg p G.clockState 0
  let p := { p with time := { p.time with tick := k, cyc := 0, datum := second * secondUnits, opened := 0, closed := 0 },
                    plans := Vector.replicate 256 [], seqs := p.seqs.map fun (s : Seq) => { s with freed := [] } }
  let waiting := p.fab.delayed.map fun q => (⟨25 * k, q⟩ : Producer)
  let p := { p with fab := { p.fab with delayed := [], producers := waiting, arrivals := [], lastAt := [], captured := [] } }
  { p with fab := { p.fab with pinsLow := false } }

/-- Alarms are planned anew (R37). -/
def planAlarms (p : Part) (k : Int) : Part := (p.time.alarms.map (·.1)).foldl (fun q a => planAlarm q a k) p

theorem alignGraticule_eq {second : Nat} (h : reg p G.clockState = 1 ∧ p.time.locked ∧ alignsAt p second) :
    alignGraticule p second =
      let q := judgePads p (nOf (p.time.tick + 1) 0)
      let k := tickAt q second
      discardFires (planAlarms (raisePins (releaseRetracts (loadTick q second k) k) (250 * k)) (signedTick k - 1)) fun t => decide (t < k) := by
  delta alignGraticule tickAt loadTick planAlarms
  rw [if_pos h]

theorem alignGraticule_idle {second : Nat} (h : ¬ (reg p G.clockState = 1 ∧ p.time.locked ∧ alignsAt p second)) : alignGraticule p second = p := by
  unfold alignGraticule
  rw [if_neg h]

theorem tickAt_of_steady (h : Steady p q) (second : Nat) : tickAt q second = tickAt p second := by
  have he : reg q G.epoch = reg p G.epoch := h.regs _ (.inl (by decide))
  have ht : reg q G.ticksPerSecond = reg p G.ticksPerSecond := h.regs _ (.inl (by decide))
  rw [tickAt, tickAt, he, ht]

/-- A sequencer after the load. -/
theorem loadTick_seq (p : Part) (second k : Nat) (c : Chan) : (seqOf (loadTick p second k) c).act = (seqOf p c).act := by
  simp [loadTick, seqOf, Vector.get_eq_getElem]

theorem planAlarms_aside (p : Part) (k : Int) : Aside p (planAlarms p k) := Aside.fold (fun q a => planAlarm_aside q a k) _ p

/-- What an alignment loads (R44), and what it leaves. -/
structure Loaded (p q : Part) (second k : Nat) : Prop where
  state    : reg q G.clockState = 0
  tick     : q.time.tick = k
  cyc      : q.time.cyc = 0
  datum    : q.time.datum = second * secondUnits
  opened   : q.time.opened = 0
  closed   : q.time.closed = 0
  plans    : q.plans = Vector.replicate 256 []
  delayed  : q.fab.delayed = []
  arrivals : q.fab.arrivals = []
  captured : q.fab.captured = []
  asserted : ∀ r ∈ p.fab.delayed, (⟨25 * k, r⟩ : Producer) ∈ q.fab.producers
  mem      : q.mem = p.mem
  adm      : q.adm = p.adm

theorem loadTick_loaded (p : Part) (second k : Nat) : Loaded p (loadTick p second k) second k :=
  ⟨reg_setReg_same .., rfl, rfl, rfl, rfl, rfl, rfl, rfl, rfl, rfl, fun _ h => List.mem_map_of_mem h, rfl, rfl⟩

theorem Loaded.stands {second : Nat} (h : Loaded p q second k) (g : LoadStands q r) : Loaded p r second k :=
  ⟨g.clockState.trans h.state, g.tick.trans h.tick, g.cyc.trans h.cyc, g.datum.trans h.datum, g.opened.trans h.opened, g.closed.trans h.closed,
    g.plans.trans h.plans, g.delayed.trans h.delayed, g.arrivals.trans h.arrivals, g.captured.trans h.captured,
    fun x hx => g.asserted (h.asserted x hx), g.mem.trans h.mem, g.adm.trans h.adm⟩

theorem Loaded.of_stands {second : Nat} (g : LoadStands p q) (h : Loaded q r second k) : Loaded p r second k :=
  { h with
    asserted := fun x hx => h.asserted x (g.delayed.symm ▸ hx)
    mem := h.mem.trans g.mem
    adm := h.adm.trans g.adm }

theorem Loaded.discardFires {second : Nat} (h : Loaded p q second k) (f : Nat → Bool) : Loaded p (discardFires q f) second k := by
  obtain ⟨hs, -, hp, ha, hf⟩ := discardFires_spec q f
  exact ⟨hs.clockState.trans h.state, hs.tick.trans h.tick, hs.cyc.trans h.cyc, hs.datum.trans h.datum, hs.opened.trans h.opened,
    hs.closed.trans h.closed, hp.trans h.plans, by rw [hf]; exact h.delayed, by rw [hf]; exact h.arrivals, by rw [hf]; exact h.captured,
    by rw [hf]; exact h.asserted, hs.mem.trans h.mem, ha.trans h.adm⟩

/-- The alignment at a whole second, where it is due (R44, R111). -/
theorem alignGraticule_spec {second : Nat} (h : reg p G.clockState = 1 ∧ p.time.locked ∧ alignsAt p second) :
    Loaded p (alignGraticule p second) second (tickAt p second) ∧
      (alignGraticule p second).fab.fires = p.fab.fires.filter (fun e => decide (tickAt p second ≤ e.1)) ∧
      ∀ c, (seqOf (alignGraticule p second) c).retr = [] ∧ (seqOf (alignGraticule p second) c).act = (seqOf p c).act := by
  have hj := judgePads_aside p (nOf (p.time.tick + 1) 0)
  rw [alignGraticule_eq h]
  dsimp only
  generalize judgePads p _ = p1 at hj ⊢
  rw [tickAt_of_steady hj.toSteady]
  generalize tickAt p second = k
  have hl : Loaded p (loadTick p1 second k) second k := (loadTick_loaded p1 second k).of_stands hj.loadStands
  have hf : (loadTick p1 second k).fab.fires = p.fab.fires := hj.loadStands.fires
  have ha (c : Chan) : (seqOf (loadTick p1 second k) c).act = (seqOf p c).act := by rw [loadTick_seq, seqOf, hj.seqs, seqOf]
  generalize loadTick p1 second k = p2 at hl hf ha ⊢
  obtain ⟨hr, hs⟩ := releaseRetracts_spec p2 k
  generalize releaseRetracts p2 k = p3 at hr hs ⊢
  have hp := (raisePins_aside p3 (250 * k)).trans (planAlarms_aside _ (signedTick k - 1))
  generalize planAlarms _ (signedTick k - 1) = p4 at hp ⊢
  have h4 := hr.trans hp.loadStands
  obtain ⟨-, hds, -, -, hdf⟩ := discardFires_spec p4 fun t => decide (t < k)
  refine ⟨(hl.stands h4).discardFires _, ?_, fun c => ?_⟩
  · rw [hdf]
    dsimp only
    rw [h4.fires, hf]
    exact List.filter_congr fun e _ => by rw [← decide_not, decide_eq_decide, not_lt]
  · rw [seqOf, hds, hp.seqs]
    exact ⟨(hs c).1, (hs c).2.trans (ha c)⟩

end Sys2Proof.Machine
end

section
/-!
SUPPORT. O36: the sample clock comes and goes (R22, R39, R44, R111).
-/

namespace Sys2Proof.Machine

theorem exec_sampleClockLost (c : Cyc) (s : State) : exec (.sampleClockLost c) s = lift (fun p => loseClock p c) s := by unfold exec; rfl
theorem exec_sampleClockReturn (s : State) : exec .sampleClockReturn s = lift returnClock s := by unfold exec; rfl
theorem exec_fsKhzWrite (path : Path) (v : Nat) (s : State) :
    exec (.fsKhzWrite path v) s = lift (fun p => commandWrite p path 0x1220 0x03 v) s := by unfold exec; rfl
theorem exec_clockRelocked (s : State) : exec .clockRelocked s = lift clockRelocks s := by unfold exec; rfl
theorem exec_graticuleAligned (second : Nat) (s : State) :
    exec (.graticuleAligned second) s = lift (fun p => alignGraticule p second) s := by unfold exec; rfl

/-- Settles O36: each command runs one operation of the part, and what that leaves and changes is said by its lemma. -/
theorem sampleClockComesAndGoes : Obligations.SampleClockComesAndGoes := by
  unfold Obligations.SampleClockComesAndGoes
  intro s hw
  refine ⟨fun c => ?_, fun h2 => ?_, fun h2 => ?_, fun path v ht => ?_, ?_, fun second => ⟨fun hn => ?_, fun hr => ?_⟩⟩
  · exact ⟨loseClock s.part c, by rw [exec_sampleClockLost, lift_next hw], loseClock_spec s.part c⟩
  · exact ⟨returnClock s.part, by rw [exec_sampleClockReturn, lift_next hw], returnClock_spec h2⟩
  · rw [exec_sampleClockReturn, lift_next hw, returnClock_idle h2]
  · obtain ⟨hf, ht4, hc, hl, ho, hm, hs, hg, -⟩ := relock_spec (cleared s.part path G.fsKhz) v
    have hz := cleared_onlyGz s.part path G.fsKhz
    rw [cleared_reg _ _ _ (by decide)] at hc
    refine ⟨_, by rw [exec_fsKhzWrite, lift_next hw, write_fsKhz ht], hf, ht4, hc, hl, ho, hm.trans ?_, hs.trans ?_, hg.trans ?_⟩ <;> rw [hz]
  · rw [exec_clockRelocked, lift_next hw]
    rfl
  · rw [exec_graticuleAligned, lift_next hw, alignGraticule_idle (by simpa [alignsAt] using hn)]
  · obtain ⟨hl, hf, hs⟩ := alignGraticule_spec (p := s.part) (second := second) (by simpa [alignsAt] using hr)
    exact ⟨alignGraticule s.part second, by rw [exec_graticuleAligned, lift_next hw], hl.state, hl.tick, hl.cyc, hl.datum, hl.opened, hl.closed,
      hl.plans, hl.delayed, hl.arrivals, hl.captured, hl.asserted, hf, hs, hl.mem, hl.adm⟩

end Sys2Proof.Machine
end

section
/-!
SUPPORT. Bits of a value, pulses of the present moment, and what the commands of time (chapter 02) leave as it was: every unit but the clock, the
values in force at the keys of a list, pulses and what has left the part.
-/

namespace Sys2Proof.Machine

variable {p q r : Part} {l m : List Nat} {k : Nat}

/-! ## Bits of a value -/

theorem bit_putBits (v i j : Nat) (b : Bool) : bit (putBits v j 1 (ofBool b)) i = if i = j then b else bit v i := by
  have hb : ofBool b % 2 ^ 1 = ofBool b := by cases b <;> rfl
  have hv : putBits v j 1 (ofBool b) = 2 ^ j * (2 ^ 1 * (v >>> (j + 1)) + ofBool b) + v % 2 ^ j := by
    rw [putBits, hb, Nat.pow_succ]
    ring
  have hlt : ofBool b < 2 ^ 1 := by cases b <;> decide
  unfold bit
  rw [hv, Nat.testBit_two_pow_mul_add _ (Nat.mod_lt _ (Nat.two_pow_pos j)), Nat.testBit_two_pow_mul_add _ hlt]
  rcases Nat.lt_trichotomy i j with h | h | h
  · rw [if_pos h, if_neg h.ne, Nat.testBit_mod_two_pow, decide_eq_true h, Bool.true_and]
  · subst h
    rw [if_neg (lt_irrefl i), if_pos rfl, Nat.sub_self, if_pos Nat.zero_lt_one]
    cases b <;> rfl
  · rw [if_neg h.not_gt, if_neg h.ne', if_neg (by omega), Nat.testBit_shiftRight]
    congr 1
    omega

theorem regBit_setRegBit (p : Part) (k i j : Nat) (b : Bool) : regBit (setRegBit p k j b) k i = if i = j then b else regBit p k i := by
  rw [regBit, reg_setRegBit, if_pos rfl, bit_putBits, regBit]

theorem regBit_congr (h : reg q k = reg p k) (i : Nat) : regBit q k i = regBit p k i := by rw [regBit, h, regBit]

theorem regBit_setReg_ne {j : Nat} (h : k ≠ j) (v i : Nat) : regBit (setReg p j v) k i = regBit p k i := regBit_congr (reg_setReg_ne _ h _) i

/-! ## Pulses of the present moment -/

/-- A pulse that asserts now, stamped at the start of the core cycle (Table 04-1). -/
def nowPulse (p : Part) (src : Nat) : Producer := ⟨25 * p.time.tick + p.time.cyc, ⟨p.time.tick, 10 * p.time.cyc, src, 0⟩⟩

theorem raiseNow_producers (p : Part) (src : Nat) : (raiseNow p src).fab.producers = p.fab.producers ++ [nowPulse p src] := by
  rw [raiseNow, raiseAt_producers, Nat.mul_div_cancel_left _ (by decide), nowPulse]

theorem Raised.congr {c src : Nat} (h : Raised q r c src) (hf : q.fab.producers = p.fab.producers) (ht : q.time.tick = p.time.tick) :
    Raised p r c src := by
  unfold Raised at h ⊢
  rw [h, hf, ht]

/-! ## What the commands of time leave -/

/-- A command that runs an operation f of an awake part makes what f makes. -/
theorem exec_next {i : Instr} {f : Part → Part} {s : State} (hi : exec i s = lift f s) (hw : awake s) (hq : f s.part = q) :
    exec i s = .next { s with part := q } := by
  rw [hi, lift_next hw, hq]

theorem reg_of_gz (h : q.gz = p.gz) (k : Nat) : reg q k = reg p k := by rw [reg, h, reg]

theorem SameUnits.trans (h : SameUnits p q) (g : SameUnits q r) : SameUnits p r := by
  unfold SameUnits at h g ⊢
  rw [h] at g
  exact g

/-- Units that stand where only the clock, values in force, pulses and what has left the part have changed. -/
theorem SameUnits.kept (h : SameUnits p q) : q.pl = p.pl ∧ q.mem = p.mem ∧ q.seqs = p.seqs ∧ q.plans = p.plans ∧ q.adm = p.adm := by
  unfold SameUnits at h
  rw [h]
  exact ⟨rfl, rfl, rfl, rfl, rfl⟩

theorem SameRegs.trans (h : SameRegs p q l) (g : SameRegs q r l) : SameRegs p r l := fun k hk => (g k hk).trans (h k hk)
theorem SameRegs.mono (h : SameRegs p q l) (hl : ∀ k ∈ l, k ∈ m) : SameRegs p q m := fun k hk => h k fun hm => hk (hl k hm)
theorem SameRegs.on (h : SameRegs p q l) (hm : ∀ k ∈ m, k ∉ l) : ∀ k ∈ m, reg q k = reg p k := fun k hk => h k (hm k hk)
theorem SameRegs.setReg (h : SameRegs p q l) (hk : k ∈ l) (v : Nat) : SameRegs p (setReg q k v) l :=
  h.trans fun j hj => reg_setReg_ne q (fun e => hj (by rw [e]; exact hk)) v

/-- Between p and q only the clock, the values in force at the keys of a list, pulses and what has left the part have changed. -/
structure TimeFrame (l : List Nat) (p q : Part) : Prop where
  units : SameUnits p q
  regs  : SameRegs p q l

theorem TimeFrame.refl (l : List Nat) (p : Part) : TimeFrame l p p := ⟨rfl, fun _ _ => rfl⟩

theorem TimeFrame.trans (h : TimeFrame l p q) (g : TimeFrame l q r) : TimeFrame l p r := ⟨h.units.trans g.units, h.regs.trans g.regs⟩

theorem TimeFrame.mono (h : TimeFrame l p q) (hl : ∀ k ∈ l, k ∈ m) : TimeFrame m p q := ⟨h.units, h.regs.mono hl⟩

theorem TimeFrame.time (h : TimeFrame l p q) (t : TimeSt) : TimeFrame l p { q with time := t } := h.trans ⟨rfl, fun _ _ => rfl⟩
theorem TimeFrame.setReg (h : TimeFrame l p q) (hk : k ∈ l) (v : Nat) : TimeFrame l p (setReg q k v) :=
  h.trans ⟨rfl, SameRegs.setReg (fun _ _ => rfl) hk v⟩
theorem TimeFrame.addReg (h : TimeFrame l p q) (hk : k ∈ l) (v : Nat) : TimeFrame l p (addReg q k v) := h.setReg hk _
theorem TimeFrame.setRegBit (h : TimeFrame l p q) (hk : k ∈ l) (i : Nat) (b : Bool) : TimeFrame l p (setRegBit q k i b) := h.setReg hk _
theorem TimeFrame.raiseAt (h : TimeFrame l p q) (t o s g : Nat) : TimeFrame l p (raiseAt q t o s g) := h.trans ⟨rfl, fun _ _ => rfl⟩
theorem TimeFrame.raiseNow (h : TimeFrame l p q) (s : Nat) : TimeFrame l p (raiseNow q s) := h.raiseAt ..
theorem TimeFrame.say (h : TimeFrame l p q) (o : Out) : TimeFrame l p (say q o) := h.trans ⟨rfl, fun _ _ => rfl⟩

end Sys2Proof.Machine
end

section
/-!
SUPPORT. The bits of TIME_FLAGS and their sticky copies (Table 02-8).
-/

namespace Sys2Proof.Machine

variable {p q : Part} {l : List Nat}

theorem setTimeFlag_frame (p : Part) (i : Nat) : TimeFrame [G.timeFlags, G.timeSticky] p (setTimeFlag p i) :=
  ((TimeFrame.refl _ p).setRegBit (by simp) _ _).setRegBit (by simp) _ _

theorem clearTimeFlag_frame (p : Part) (i : Nat) : TimeFrame [G.timeFlags] p (clearTimeFlag p i) := (TimeFrame.refl _ p).setRegBit (by simp) _ _

theorem TimeFrame.setTimeFlag (h : TimeFrame l p q) (hf : G.timeFlags ∈ l) (hs : G.timeSticky ∈ l) (i : Nat) : TimeFrame l p (setTimeFlag q i) :=
  (h.setRegBit hf _ _).setRegBit hs _ _

theorem TimeFrame.clearTimeFlag (h : TimeFrame l p q) (hf : G.timeFlags ∈ l) (i : Nat) : TimeFrame l p (clearTimeFlag q i) := h.setRegBit hf _ _

@[simp] theorem setTimeFlag_time (p : Part) (i : Nat) : (setTimeFlag p i).time = p.time := rfl

theorem regBit_setTimeFlag (p : Part) (i j : Nat) :
    regBit (setTimeFlag p i) G.timeFlags j = if j = i then true else regBit p G.timeFlags j :=
  (regBit_setReg_ne (by decide) _ _).trans (regBit_setRegBit ..)

theorem regBit_clearTimeFlag (p : Part) (i j : Nat) :
    regBit (clearTimeFlag p i) G.timeFlags j = if j = i then false else regBit p G.timeFlags j := regBit_setRegBit ..

@[simp] theorem setTimeFlag_flag (p : Part) (i : Nat) : regBit (setTimeFlag p i) G.timeFlags i = true := (regBit_setTimeFlag ..).trans (if_pos rfl)
@[simp] theorem setTimeFlag_sticky (p : Part) (i : Nat) : regBit (setTimeFlag p i) G.timeSticky i = true :=
  (regBit_setRegBit ..).trans (if_pos rfl)
@[simp] theorem clearTimeFlag_flag (p : Part) (i : Nat) : regBit (clearTimeFlag p i) G.timeFlags i = false :=
  (regBit_clearTimeFlag ..).trans (if_pos rfl)

end Sys2Proof.Machine
end

section
/-!
SUPPORT. O38: alarms (R51, R52), the presence window (R65) and the seal (R369).
-/

namespace Sys2Proof.Machine

variable {p q : Part}

/-! ## Alarms -/

/-- ALARM_ENABLE (Table 02-7). -/
def entryAlarmEnable : Entry := ⟨4, 4, 1, .bool, .rw, .live, 0, .none, false, false, .any, .cmd⟩

theorem lookup_alarmEnable (a : AlarmNo) : lookup (0x1230 + a.val) 0x04 = .entry entryAlarmEnable 0x04 :=
  lookup_of (by omega) (entriesAt_1230 (by omega) (by omega)) rfl

/-- A taken ALARM_ENABLE waits for the next tick boundary (R51). -/
theorem write_alarmEnable {path : Path} {a : AlarmNo} {v : Nat} (ht : Takes p path (gkey (0x1230 + a.val) 4) v) :
    commandWrite p path (0x1230 + a.val) 0x04 v =
      tell (toBoundary (cleared p path (gkey (0x1230 + a.val) 4)) (gkey (0x1230 + a.val) 4) v) path 0 := by
  refine commandWrite_takes (e := entryAlarmEnable) (by decide) (lookup_alarmEnable a) rfl nofun ?_ ht (effect_alarm a.isLt (by decide)) ?_
  · unfold gkey G.bpCommit gkey
    omega
  · exact (cleared_adm (p := p) (path := path) _).symm ▸ lt_irrefl _

theorem alarmKeys_ne (a : Nat) : G.alarmCount a ≠ G.alarmStatus a ∧ G.alarmPeriod a ≠ G.alarmStatus a ∧ G.alarmPeriod a ≠ G.alarmCount a := by
  unfold G.alarmCount G.alarmStatus G.alarmPeriod gkey
  omega

/-- Alarm a fires at sample index n: its pulse, its count and its status (R52). -/
def markFired (p : Part) (a : Nat) (n : Int) : Part :=
  setRegBit (addReg (raiseAt p p.time.tick (n % 250).toNat (0xB30 + a) 0) (G.alarmCount a) 1) (G.alarmStatus a) 1 true

theorem markFired_frame (p : Part) (a : Nat) (n : Int) : TimeFrame [G.alarmCount a, G.alarmStatus a] p (markFired p a n) :=
  (((TimeFrame.refl _ p).raiseAt ..).addReg (by simp) _).setRegBit (by simp) _ _

theorem markFired_count (p : Part) (a : Nat) (n : Int) :
    reg (markFired p a n) (G.alarmCount a) = (reg p (G.alarmCount a) + 1) % 2 ^ regWidth (G.alarmCount a) :=
  (reg_setReg_ne _ (alarmKeys_ne a).1 _).trans (reg_setReg_same ..)

theorem markFired_period (p : Part) (a : Nat) (n : Int) : reg (markFired p a n) (G.alarmPeriod a) = reg p (G.alarmPeriod a) :=
  (markFired_frame p a n).regs _ (by simp [alarmKeys_ne])

/-- The alarms that are planned after alarm a has fired at n: the next one of a period later, of a one-shot none. -/
def alarmsAfter (p : Part) (a : Nat) (n : Int) : KMap Int :=
  if (reg p (G.alarmPeriod a) : Int) = 0 then kdel a p.time.alarms else kput a (n + (reg p (G.alarmPeriod a) : Int)) p.time.alarms

theorem kfind_alarmsAfter (p : Part) (a : Nat) (n : Int) :
    kfind a (alarmsAfter p a n) = if reg p (G.alarmPeriod a) = 0 then none else some (n + (reg p (G.alarmPeriod a) : Int)) := by
  unfold alarmsAfter
  by_cases h : reg p (G.alarmPeriod a) = 0 <;> simp [h]

theorem fireAlarm_due {a : Nat} {n : Int} (hf : kfind a p.time.alarms = some n) (hd : n / 250 = signedTick p.time.tick ∧ reg p G.clockState = 0) :
    fireAlarm p a = { markFired p a n with time := { p.time with alarms := alarmsAfter p a n } } := by
  have hp := markFired_period p a n
  unfold markFired at hp
  unfold fireAlarm
  rw [hf]
  dsimp only
  rw [if_pos hd, hp]
  rfl

theorem fireAlarm_idle {a : Nat} {n : Int} (hf : kfind a p.time.alarms = some n)
    (hd : ¬ (n / 250 = signedTick p.time.tick ∧ reg p G.clockState = 0)) : fireAlarm p a = p := by
  unfold fireAlarm
  rw [hf]
  exact if_neg hd

/-! ## The presence window -/

theorem openPresence_held {held released : Nat} (h : 20 ≤ held ∧ 1000 ≤ released) :
    openPresence p held released = setReg { p with time := { p.time with presentAt := p.time.tick + 1 } } G.presenceOpen 1 := if_pos h

theorem openPresence_idle {held released : Nat} (h : held < 20 ∨ released < 1000) : openPresence p held released = p := if_neg (by omega)

theorem presenceOpen_setReg (p : Part) (v : Nat) : presenceOpen (setReg p G.presenceOpen v) = decide (v = 1) := by
  rw [presenceOpen, reg_setReg_same]

theorem closePresence_frame (p : Part) : TimeFrame [G.presenceOpen] p (closePresence p) := ((TimeFrame.refl _ p).time _).setReg (by simp) _

/-! ## The seal -/

/-- The seal loop is open: SEAL_INTACT reads 0. -/
def openSeal (p : Part) : Part := setReg { p with life := { p.life with sealOk := false } } G.sealIntact 0

/-- The break of the seal is latched and counted. -/
def countBreak (p : Part) : Part := addReg (setReg p G.tamperLatched 1) G.tamperCount 1

/-- The time of the break is recorded, the presence window closes, and TAMPER asserts. -/
def recordBreak (p : Part) (cyc : Nat) : Part :=
  raiseNow (closePresence (setReg (atCyc p cyc) G.tamperLast (timeRecord (datumNow p)))) 0xB8A

theorem breakSeal_blank (h : reg p G.lcState = 0) (cyc : Nat) : breakSeal p cyc = openSeal p := by
  have hs : reg (openSeal p) G.lcState = 0 := (reg_setReg_ne _ (by decide) _).trans h
  exact if_pos hs

theorem breakSeal_latches (h : reg p G.lcState ≠ 0) (cyc : Nat) : breakSeal p cyc = recordBreak (countBreak (openSeal p)) cyc := by
  have hs : reg (openSeal p) G.lcState ≠ 0 := (reg_setReg_ne _ (by decide) _).trans_ne h
  exact if_neg hs

theorem openSeal_intact (p : Part) : reg (openSeal p) G.sealIntact = 0 := reg_setReg_same ..

theorem openSeal_regs (p : Part) : SameRegs p (openSeal p) [G.sealIntact] := SameRegs.setReg (fun _ _ => rfl) (by simp) _

theorem countBreak_frame (p : Part) : TimeFrame [G.tamperLatched, G.tamperCount] p (countBreak p) :=
  ((TimeFrame.refl _ p).setReg (by simp) _).addReg (by simp) _

theorem countBreak_latched (p : Part) : reg (countBreak p) G.tamperLatched = 1 :=
  (reg_setReg_ne _ (by decide) _).trans (reg_setReg_same ..)

theorem countBreak_count (p : Part) : reg (countBreak p) G.tamperCount = (reg p G.tamperCount + 1) % 2 ^ regWidth G.tamperCount := by
  rw [countBreak, reg_addReg, if_pos rfl, reg_setReg_ne _ (by decide)]

theorem recordBreak_frame (p : Part) (cyc : Nat) : TimeFrame [G.tamperLast, G.presenceOpen] p (recordBreak p cyc) :=
  ((((TimeFrame.refl _ p).time _).setReg (by simp) _).trans ((closePresence_frame _).mono (by simp))).raiseNow _

theorem recordBreak_closes (p : Part) (cyc : Nat) : presenceOpen (recordBreak p cyc) = false := presenceOpen_setReg _ 0

theorem recordBreak_raises (p : Part) (cyc : Nat) : Raised p (recordBreak p cyc) cyc 0xB8A := raiseNow_producers _ _

/-- The seal loop found open (R369): outside state BLANK the break is latched. -/
theorem breakSeal_spec (p : Part) (cyc : Nat) :
    let q := breakSeal p cyc
    reg q G.sealIntact = 0 ∧ q.life = { p.life with sealOk := false } ∧ q.mem = p.mem ∧ q.seqs = p.seqs ∧
      SameRegs p q [G.sealIntact, G.tamperLatched, G.tamperCount, G.tamperLast, G.presenceOpen] ∧
      (reg p G.lcState = 0 → q.fab = p.fab ∧ SameRegs p q [G.sealIntact]) ∧
      (reg p G.lcState ≠ 0 → reg q G.tamperLatched = 1 ∧ reg q G.tamperCount = (reg p G.tamperCount + 1) % 2 ^ regWidth G.tamperCount ∧
        presenceOpen q = false ∧ Raised p q cyc 0xB8A) := by
  have ho := openSeal_regs p
  by_cases hs : reg p G.lcState = 0
  · rw [breakSeal_blank hs]
    exact ⟨openSeal_intact p, rfl, rfl, rfl, ho.mono (by simp), fun _ => ⟨rfl, ho⟩, fun h => absurd hs h⟩
  · have hc := countBreak_frame (openSeal p)
    have hr := recordBreak_frame (countBreak (openSeal p)) cyc
    rw [breakSeal_latches hs]
    refine ⟨?_, rfl, rfl, rfl, ?_, fun h => absurd h hs, fun _ => ⟨?_, ?_, recordBreak_closes _ _,
      (recordBreak_raises _ _).congr rfl rfl⟩⟩
    · rw [hr.regs _ (by decide), hc.regs _ (by decide), openSeal_intact]
    · exact ((ho.mono (by simp)).trans (hc.regs.mono (by simp))).trans (hr.regs.mono (by simp))
    · rw [hr.regs _ (by decide), countBreak_latched]
    · rw [hr.regs _ (by decide), countBreak_count, ho _ (by decide)]

theorem exec_alarmEnable (path : Path) (a : AlarmNo) (v : Nat) (s : State) :
    exec (.alarmEnable path a v) s = lift (fun p => commandWrite p path (0x1230 + a.val) 0x04 v) s := by unfold exec; rfl
theorem exec_alarm (a : AlarmNo) (s : State) : exec (.alarm a) s = lift (fun p => fireAlarm p a) s := by unfold exec; rfl
theorem exec_presenceAssert (held released : Nat) (s : State) :
    exec (.presenceAssert held released) s = lift (fun p => openPresence p held released) s := by unfold exec; rfl
theorem exec_presenceWindowClose (s : State) : exec .presenceWindowClose s = lift closePresence s := by unfold exec; rfl
theorem exec_tamper (c : Cyc) (s : State) : exec (.tamper c) s = lift (fun p => breakSeal p c) s := by unfold exec; rfl

/-- Settles O38: each command runs one operation of the part, and what that changes and leaves is said by its lemmas. -/
theorem alarmsPresenceAndSeal : Obligations.AlarmsPresenceAndSeal := by
  unfold Obligations.AlarmsPresenceAndSeal
  intro s hw
  refine ⟨fun path a v ht => ?_, fun a n hf => ⟨fun hd => ?_, fun hd => ?_⟩, fun held released => ⟨fun h => ?_, fun h => ?_⟩, ?_, fun c => ?_⟩
  · exact ⟨_, exec_next (exec_alarmEnable path a v s) hw (write_alarmEnable ht), rfl⟩
  · have hq := (markFired_frame s.part a n).time { s.part.time with alarms := alarmsAfter s.part a n }
    exact ⟨_, exec_next (exec_alarm a s) hw (fireAlarm_due hf hd), rfl, markFired_count .., (regBit_setRegBit ..).trans (if_pos rfl),
      kfind_alarmsAfter .., hq.units, hq.regs⟩
  · exact exec_next (exec_alarm a s) hw (fireAlarm_idle hf hd)
  · have hq := ((TimeFrame.refl [G.presenceOpen] s.part).time { s.part.time with presentAt := s.part.time.tick + 1 }).setReg
      (k := G.presenceOpen) (by simp) 1
    exact ⟨_, exec_next (exec_presenceAssert held released s) hw (openPresence_held h), presenceOpen_setReg _ 1, rfl, hq.units, hq.regs⟩
  · exact exec_next (exec_presenceAssert held released s) hw (openPresence_idle h)
  · have hq := closePresence_frame s.part
    exact ⟨_, exec_next (exec_presenceWindowClose s) hw rfl, presenceOpen_setReg _ 0, rfl, hq.units, hq.regs⟩
  · exact ⟨_, exec_next (exec_tamper c s) hw rfl, breakSeal_spec s.part c⟩

end Sys2Proof.Machine
end

section
/-!
SUPPORT. O37: whole seconds (R43, R47, R50), SYNC_IN (R47, R48) and the drift against the Datum (R40).
-/

namespace Sys2Proof.Machine

variable {p q : Part}

/-! ## Whole seconds -/

/-- The PPS producer at sample n of the present tick, where the sample clock runs. -/
def pulseSecond (p : Part) (n : Nat) : Part := if coreStopped p then p else raiseAt (atCyc p (n / 10)) p.time.tick n 0xB80 0

/-- PPS_OUT rises at a second, where its mode lets it (R50). -/
def drivePps (p : Part) (second : Nat) : Part :=
  if reg p G.ppsOutMode = 2 ∨ (reg p G.ppsOutMode = 1 ∧ (reg p G.timeState = 2 ∨ reg p G.timeState = 3)) then
    say p (.ppsOut second (reg p G.ppsOutWidth))
  else p

/-- A SYNC source drives its pulse of 8 samples (R47). -/
def driveSync (p : Part) : Part := if reg p G.syncMode = 1 ∧ !coreStopped p then say p (.syncOut 8 0) else p

theorem secondEdge_some {second n : Nat} (h : secondIn p = some (second, n)) :
    secondEdge p = driveSync (drivePps (pulseSecond p n) second) := by
  delta secondEdge driveSync drivePps pulseSecond
  dsimp only
  rw [h]

theorem secondEdge_none (h : secondIn p = none) : secondEdge p = p := by
  unfold secondEdge
  rw [h]

theorem coreStopped_iff (p : Part) : coreStopped p = true ↔ reg p G.clockState = 2 := decide_eq_true_iff

theorem pulseSecond_spec (p : Part) (n : Nat) :
    SameUnits p (pulseSecond p n) ∧ (pulseSecond p n).gz = p.gz ∧ (pulseSecond p n).sent = p.sent ∧
      (pulseSecond p n).fab.producers =
        p.fab.producers ++ (if reg p G.clockState ≠ 2 then [⟨25 * p.time.tick + n / 10, ⟨p.time.tick, n, 0xB80, 0⟩⟩] else []) := by
  unfold pulseSecond
  split
  · rename_i h
    rw [if_neg (not_not.mpr ((coreStopped_iff p).mp h)), List.append_nil]
    exact ⟨rfl, rfl, rfl, rfl⟩
  · rename_i h
    rw [if_pos fun e => h ((coreStopped_iff p).mpr e)]
    exact ⟨rfl, rfl, rfl, rfl⟩

theorem drivePps_spec (p : Part) (second : Nat) :
    SameUnits p (drivePps p second) ∧ (drivePps p second).gz = p.gz ∧ (drivePps p second).fab = p.fab ∧
      (drivePps p second).sent =
        (if reg p G.ppsOutMode = 2 ∨ (reg p G.ppsOutMode = 1 ∧ (reg p G.timeState = 2 ∨ reg p G.timeState = 3)) then
          [Out.ppsOut second (reg p G.ppsOutWidth)] else []) ++ p.sent := by
  unfold drivePps
  split <;> exact ⟨rfl, rfl, rfl, rfl⟩

theorem driveSync_spec (p : Part) :
    SameUnits p (driveSync p) ∧ (driveSync p).gz = p.gz ∧ (driveSync p).fab = p.fab ∧
      (driveSync p).sent = (if reg p G.syncMode = 1 ∧ reg p G.clockState ≠ 2 then [Out.syncOut 8 0] else []) ++ p.sent := by
  have hc : (reg p G.syncMode = 1 ∧ (!coreStopped p) = true) ↔ (reg p G.syncMode = 1 ∧ reg p G.clockState ≠ 2) := by
    rw [Bool.not_eq_true', ← Bool.not_eq_true, coreStopped_iff]
  unfold driveSync
  by_cases h : reg p G.syncMode = 1 ∧ reg p G.clockState ≠ 2
  · rw [if_pos (hc.mpr h), if_pos h]
    exact ⟨rfl, rfl, rfl, rfl⟩
  · rw [if_neg (fun e => h (hc.mp e)), if_neg h]
    exact ⟨rfl, rfl, rfl, rfl⟩

/-- A whole second that begins in the present tick, at sample n (R43, R47, R50). -/
theorem secondEdge_spec {second n : Nat} (h : secondIn p = some (second, n)) :
    let q := secondEdge p
    q.fab.producers = p.fab.producers ++ (if reg p G.clockState ≠ 2 then [⟨25 * p.time.tick + n / 10, ⟨p.time.tick, n, 0xB80, 0⟩⟩] else []) ∧
      q.gz = p.gz ∧ SameUnits p q ∧
      q.sent = (if reg p G.syncMode = 1 ∧ reg p G.clockState ≠ 2 then [Out.syncOut 8 0] else []) ++
        (if reg p G.ppsOutMode = 2 ∨ (reg p G.ppsOutMode = 1 ∧ (reg p G.timeState = 2 ∨ reg p G.timeState = 3)) then
          [Out.ppsOut second (reg p G.ppsOutWidth)] else []) ++ p.sent := by
  obtain ⟨u1, g1, s1, f1⟩ := pulseSecond_spec p n
  obtain ⟨u2, g2, f2, s2⟩ := drivePps_spec (pulseSecond p n) second
  obtain ⟨u3, g3, f3, s3⟩ := driveSync_spec (drivePps (pulseSecond p n) second)
  rw [secondEdge_some h]
  refine ⟨by rw [f3, f2, f1], g3.trans (g2.trans g1), (u1.trans u2).trans u3, ?_⟩
  rw [s3, s2, s1]
  simp only [reg_of_gz (g2.trans g1), reg_of_gz g1, List.append_assoc]

/-- The whole second of the aligned Graticule (R43). -/
theorem secondIn_aligned (hc : reg p G.clockState = 0) (h : signedTick p.time.tick % (max 1 (reg p G.ticksPerSecond) : Nat) = 0) :
    secondIn p = some ((datumOf p p.time.tick 0 / (secondUnits : Nat)).toNat, 0) := by
  unfold secondIn
  rw [if_pos hc, if_pos h]

theorem secondIn_between (hc : reg p G.clockState = 0) (h : ¬ signedTick p.time.tick % (max 1 (reg p G.ticksPerSecond) : Nat) = 0) :
    secondIn p = none := by
  unfold secondIn
  rw [if_pos hc, if_neg h]

/-- How far the next whole second of the Datum lies ahead. -/
def toSecond (p : Part) : Nat := (secondUnits - p.time.datum % secondUnits) % secondUnits

theorem secondIn_free (hc : reg p G.clockState ≠ 0) (h : toSecond p < tickUnits p) :
    secondIn p = some ((p.time.datum + toSecond p) / secondUnits, min 249 (250 * toSecond p / max 1 (tickUnits p))) := by
  unfold secondIn
  rw [if_neg hc]
  exact if_pos h

theorem secondIn_later (hc : reg p G.clockState ≠ 0) (h : tickUnits p ≤ toSecond p) : secondIn p = none := by
  unfold secondIn
  rw [if_neg hc]
  exact if_neg h.not_gt

/-! ## SYNC_IN -/

/-- A repeater drives the edge on, 3.2 ns later (R47). -/
def repeatSync (p : Part) (phase : Int) : Part := if reg p G.syncMode = 3 then say p (.syncOut 8 (phase + 3200)) else p

theorem repeatSync_spec (p : Part) (phase : Int) :
    TimeFrame [G.timeFlags, G.timeSticky] p (repeatSync p phase) ∧ (repeatSync p phase).time = p.time ∧
      (repeatSync p phase).sent = (if reg p G.syncMode = 3 then [Out.syncOut 8 (phase + 3200)] else []) ++ p.sent := by
  unfold repeatSync
  split
  · exact ⟨(TimeFrame.refl _ p).say _, rfl, rfl⟩
  · exact ⟨.refl _ p, rfl, rfl⟩

theorem syncEdge_eq {phase : Int} (hm : 2 ≤ reg p G.syncMode) :
    let v := phase - toSigned 32 (reg p G.syncInDelay)
    syncEdge p phase = if syncWindow p < |p.time.syncTrim + v| then
        setTimeFlag { repeatSync p phase with time := { p.time with syncTrim := 0, syncMiss := 0 } } 4
      else clearTimeFlag { repeatSync p phase with time := { p.time with syncTrim := p.time.syncTrim + clampInt (-10) 10 v, syncMiss := 0 } } 4 := by
  have hs : ∀ q, q = repeatSync p phase → q.time = p.time ∧ syncWindow q = syncWindow p := by
    rintro _ rfl
    unfold repeatSync
    split <;> exact ⟨rfl, rfl⟩
  unfold syncEdge
  dsimp only
  rw [if_neg (by omega)]
  obtain ⟨ht, hw⟩ := hs _ rfl
  unfold repeatSync at ht hw ⊢
  rw [ht, hw]

theorem syncEdge_idle {phase : Int} (hm : reg p G.syncMode < 2) : syncEdge p phase = p := if_pos hm
theorem syncMissing_idle (hm : reg p G.syncMode < 2) : syncMissing p = p := if_pos hm

/-- An edge at a SYNC follower (R48). -/
theorem syncEdge_spec {phase : Int} (hm : 2 ≤ reg p G.syncMode) :
    let v := phase - toSigned 32 (reg p G.syncInDelay)
    let q := syncEdge p phase
    SameUnits p q ∧ SameRegs p q [G.timeFlags, G.timeSticky] ∧
      q.sent = (if reg p G.syncMode = 3 then [Out.syncOut 8 (phase + 3200)] else []) ++ p.sent ∧
      (|p.time.syncTrim + v| ≤ syncWindow p →
        q.time = { p.time with syncTrim := p.time.syncTrim + clampInt (-10) 10 v, syncMiss := 0 } ∧ regBit q G.timeFlags 4 = false) ∧
      (syncWindow p < |p.time.syncTrim + v| → q.time = { p.time with syncTrim := 0, syncMiss := 0 } ∧ regBit q G.timeFlags 4 = true ∧
        regBit q G.timeSticky 4 = true) := by
  obtain ⟨hf, -, hs⟩ := repeatSync_spec p phase
  dsimp only
  rw [syncEdge_eq hm]
  dsimp only
  split
  · rename_i h
    have hq := (hf.time { p.time with syncTrim := 0, syncMiss := 0 }).setTimeFlag (by simp) (by simp) 4
    exact ⟨hq.units, hq.regs, hs, fun g => absurd h g.not_gt, fun _ => ⟨rfl, setTimeFlag_flag .., setTimeFlag_sticky ..⟩⟩
  · rename_i h
    have hq := (hf.time { p.time with
      syncTrim := p.time.syncTrim + clampInt (-10) 10 (phase - toSigned 32 (reg p G.syncInDelay)), syncMiss := 0 }).clearTimeFlag (by simp) 4
    exact ⟨hq.units, hq.regs, hs, fun _ => ⟨rfl, clearTimeFlag_flag ..⟩, fun g => absurd g h⟩

/-- A missing edge at a SYNC follower (R48). -/
theorem syncMissing_spec (hm : 2 ≤ reg p G.syncMode) :
    let q := syncMissing p
    SameUnits p q ∧
      (3 ≤ p.time.syncMiss + 1 → q.time = { p.time with syncMiss := p.time.syncMiss + 1, syncTrim := 0 } ∧ regBit q G.timeFlags 4 = true ∧
        SameRegs p q [G.timeFlags, G.timeSticky]) ∧
      (p.time.syncMiss + 1 < 3 → q.time = { p.time with syncMiss := p.time.syncMiss + 1 } ∧ q.gz = p.gz) := by
  unfold syncMissing
  dsimp only
  rw [if_neg (by omega)]
  split
  · rename_i h
    have hq := ((TimeFrame.refl [G.timeFlags, G.timeSticky] p).time { p.time with syncMiss := p.time.syncMiss + 1, syncTrim := 0 }).setTimeFlag
      (by simp) (by simp) 4
    exact ⟨hq.units, fun _ => ⟨rfl, setTimeFlag_flag .., hq.regs⟩, fun g => absurd h g.not_ge⟩
  · rename_i h
    exact ⟨rfl, fun g => absurd g h, fun _ => ⟨rfl, rfl⟩⟩

/-! ## Drift -/

theorem measureDrift_idle {drift ppb : Int} (h : reg p G.sclkSelect ≠ 1) : measureDrift p drift ppb = p := if_pos h

/-- A measurement of drift in SCLK mode (R40). -/
theorem measureDrift_spec {drift ppb : Int} (h : reg p G.sclkSelect = 1) :
    let q := measureDrift p drift ppb
    reg q G.tickDrift = ofSigned 32 drift ∧ regBit q G.timeFlags 3 = decide (400 < |drift| ∨ 2000 < |ppb|) ∧ SameUnits p q ∧ q.time = p.time ∧
      SameRegs p q [G.tickDrift, G.timeFlags, G.timeSticky] := by
  have hd := (TimeFrame.refl [G.tickDrift, G.timeFlags, G.timeSticky] p).setReg (k := G.tickDrift) (by simp) (ofSigned 32 drift)
  have hv : reg (setReg p G.tickDrift (ofSigned 32 drift)) G.tickDrift = ofSigned 32 drift := reg_setReg_same ..
  have ht : (setReg p G.tickDrift (ofSigned 32 drift)).time = p.time := rfl
  unfold measureDrift
  rw [if_neg (not_not.mpr h)]
  dsimp only
  generalize setReg p G.tickDrift (ofSigned 32 drift) = u at hd hv ht ⊢
  split
  · rename_i hb
    have hq := hd.setTimeFlag (by simp) (by simp) 3
    exact ⟨((setTimeFlag_frame u 3).regs _ (by decide)).trans hv, by rw [setTimeFlag_flag, decide_eq_true hb], hq.units, ht, hq.regs⟩
  · rename_i hb
    have hq := hd.clearTimeFlag (by simp) 3
    exact ⟨((clearTimeFlag_frame u 3).regs _ (by decide)).trans hv, by rw [clearTimeFlag_flag, decide_eq_false hb], hq.units, ht, hq.regs⟩

theorem exec_ppsOutEdge (s : State) : exec .ppsOutEdge s = lift secondEdge s := by unfold exec; rfl
theorem exec_syncInEdge (phase : Int) (s : State) : exec (.syncInEdge phase) s = lift (fun p => syncEdge p phase) s := by unfold exec; rfl
theorem exec_syncInMissing (s : State) : exec .syncInMissing s = lift syncMissing s := by unfold exec; rfl
theorem exec_tickDriftMeasure (drift ppb : Int) (s : State) :
    exec (.tickDriftMeasure drift ppb) s = lift (fun p => measureDrift p drift ppb) s := by unfold exec; rfl

/-- Settles O37: the second that begins in a tick is found by the clock's state, and each command runs one operation of the part. -/
theorem secondsSyncAndDrift : Obligations.SecondsSyncAndDrift := by
  unfold Obligations.SecondsSyncAndDrift
  intro s hw
  refine ⟨fun hc h => ?_, fun hc h => ?_, fun h => ?_, fun phase hm => ?_, fun hm => ?_, fun hm => ⟨?_, fun phase => ?_⟩,
    fun drift ppb => ⟨fun h => ?_, fun h => ?_⟩⟩
  · exact ⟨_, exec_next (exec_ppsOutEdge s) hw rfl, secondEdge_spec (secondIn_aligned hc h)⟩
  · exact ⟨_, exec_next (exec_ppsOutEdge s) hw rfl, secondEdge_spec (secondIn_free hc h)⟩
  · refine exec_next (exec_ppsOutEdge s) hw (secondEdge_none ?_)
    exact h.elim (fun h => secondIn_between h.1 h.2) fun h => secondIn_later h.1 h.2
  · exact ⟨_, exec_next (exec_syncInEdge phase s) hw rfl, syncEdge_spec hm⟩
  · exact ⟨_, exec_next (exec_syncInMissing s) hw rfl, syncMissing_spec hm⟩
  · exact exec_next (exec_syncInMissing s) hw (syncMissing_idle hm)
  · exact exec_next (exec_syncInEdge phase s) hw (syncEdge_idle hm)
  · exact ⟨_, exec_next (exec_tickDriftMeasure drift ppb s) hw rfl, measureDrift_spec h⟩
  · exact exec_next (exec_tickDriftMeasure drift ppb s) hw (measureDrift_idle h)

end Sys2Proof.Machine
end

section
/-!
SUPPORT. What the Datum reads (R42, R43), and how an offset is slewed out or stepped (R35 to R37).
-/

namespace Sys2Proof.Machine

variable {p q : Part} {l : List Nat}

/-! ## The Datum at the present moment -/

/-- The entries that the Datum at the present moment is computed from. -/
def datumKeys : List Nat := [G.clockState, G.epoch, G.fsKhz, G.sclkSelect, G.tickDrift]

/-- The present moment: the tick, the core cycle, and the Datum that is carried from tick to tick. -/
def momentOf (p : Part) : Nat × Nat × Nat := (p.time.tick, p.time.cyc, p.time.datum)

theorem datumNow_congr (hm : momentOf q = momentOf p) (hr : ∀ k ∈ datumKeys, reg q k = reg p k) : datumNow q = datumNow p := by
  simp only [momentOf, Prod.mk.injEq] at hm
  obtain ⟨ht, hc, hd⟩ := hm
  have hs : reg q G.clockState = reg p G.clockState := hr _ (by decide)
  have he : reg q G.epoch = reg p G.epoch := hr _ (by decide)
  have hf : reg q G.fsKhz = reg p G.fsKhz := hr _ (by decide)
  have hx : reg q G.sclkSelect = reg p G.sclkSelect := hr _ (by decide)
  have hk : reg q G.tickDrift = reg p G.tickDrift := hr _ (by decide)
  unfold datumNow datumOf epochTime tickDrift
  rw [ht, hc, hd, hs, he, hf, hx, hk]

theorem TimeFrame.datumNow (h : TimeFrame l p q) (hl : ∀ k ∈ datumKeys, k ∉ l) (hm : momentOf q = momentOf p) : datumNow q = datumNow p :=
  datumNow_congr hm (h.regs.on hl)

theorem anyRuns_congr (h : ∀ g, reg q (G.lgState g) = reg p (G.lgState g)) : anyRuns q = anyRuns p := by
  unfold anyRuns groupRuns
  simp only [h]

/-! ## Slewing -/

/-- The entries that the removal of an offset writes. -/
def flagKeys : List Nat := [G.timeFlags, G.timeSticky, G.clockState]

theorem slewBy_zero (p : Part) : slewBy p 0 = p := if_pos rfl

theorem slewBy_ne (p : Part) {o : Int} (h : o ≠ 0) : slewBy p o = setTimeFlag { p with time := { p.time with slew := o, slewAt := datumNow p } } 5 :=
  if_neg h

/-- The clock but for what the removal of an offset moves: the Datum, the slew and the pending step. -/
def besideSlew (t : TimeSt) : TimeSt := { t with datum := 0, slew := 0, slewAt := 0, step := none }

/-- Between p and q an offset has been removed, or its removal has begun. -/
structure Removes (p q : Part) : Prop where
  frame  : TimeFrame flagKeys p q
  flags  : ∀ j, j ≠ 0 → j ≠ 5 → regBit q G.timeFlags j = regBit p G.timeFlags j
  beside : besideSlew q.time = besideSlew p.time
  fab    : q.fab = p.fab

theorem Removes.time {t : TimeSt} (ht : besideSlew t = besideSlew p.time) : Removes p { p with time := t } :=
  ⟨(TimeFrame.refl _ p).time t, fun _ _ _ => rfl, ht, rfl⟩
theorem Removes.refl (p : Part) : Removes p p := .time rfl

theorem Removes.setTimeFlag (h : Removes p q) {i : Nat} (hi : i = 0 ∨ i = 5) : Removes p (setTimeFlag q i) :=
  ⟨h.frame.setTimeFlag (by decide) (by decide) i,
    fun j h0 h5 => (regBit_setTimeFlag q i j).trans ((if_neg (by omega)).trans (h.flags j h0 h5)), h.beside, h.fab⟩

theorem Removes.slewBy (h : Removes p q) (o : Int) : Removes p (slewBy q o) := by
  by_cases ho : o = 0
  · rw [ho, slewBy_zero]
    exact h
  · have ht : Removes p { q with time := { q.time with slew := o, slewAt := datumNow q } } := ⟨h.frame.time _, h.flags, h.beside, h.fab⟩
    rw [slewBy_ne q ho]
    exact ht.setTimeFlag (.inr rfl)

/-! ## Stepping -/

/-- CLOCK_STATE once the Datum no longer agrees with the ticks (R22, R37). -/
def unaligned (p : Part) : Nat := if reg p G.clockState = 2 then 2 else 1

/-- The Datum no longer agrees with the ticks. -/
def unalign (p : Part) : Part := if reg p G.clockState = 2 then p else setReg p G.clockState 1

theorem unalign_frame (p : Part) : TimeFrame flagKeys p (unalign p) := by
  unfold unalign
  split
  · exact .refl _ p
  · exact (TimeFrame.refl _ p).setReg (by decide) _

theorem unalign_clockState (p : Part) : reg (unalign p) G.clockState = unaligned p := by
  unfold unalign unaligned
  split
  · assumption
  · exact reg_setReg_same ..

theorem unalign_flag (p : Part) (j : Nat) : regBit (unalign p) G.timeFlags j = regBit p G.timeFlags j := by
  unfold unalign
  split
  · rfl
  · exact regBit_setReg_ne (by decide) _ _

@[simp] theorem unalign_time (p : Part) : (unalign p).time = p.time := by unfold unalign; split <;> rfl
@[simp] theorem unalign_fab (p : Part) : (unalign p).fab = p.fab := by unfold unalign; split <;> rfl

/-- The flags of a slew and of a pending step are cleared. -/
def clearSlew (p : Part) : Part := clearTimeFlag (clearTimeFlag p 0) 5

theorem clearSlew_frame (p : Part) : TimeFrame [G.timeFlags] p (clearSlew p) := (clearTimeFlag_frame p 0).clearTimeFlag (by simp) 5

theorem clearSlew_flag (p : Part) (j : Nat) :
    regBit (clearSlew p) G.timeFlags j = if j = 0 ∨ j = 5 then false else regBit p G.timeFlags j := by
  rw [clearSlew, regBit_clearTimeFlag, regBit_clearTimeFlag]
  by_cases h0 : j = 0 <;> by_cases h5 : j = 5 <;> simp [h0, h5]

/-- A step is marked: no slew, no pending step, and the Graticule no longer aligned (R37). -/
def markStep (p : Part) : Part := setRegBit (unalign (clearSlew p)) G.timeSticky 8 true

theorem stepDatum_eq (p : Part) (d : Int) :
    stepDatum p d = { markStep p with time := { p.time with datum := ((datumNow p : Int) + d).toNat, slew := 0, step := none } } := by
  have ht : (markStep p).time = p.time := unalign_time (clearSlew p)
  rw [← ht]
  rfl

theorem markStep_frame (p : Part) : TimeFrame flagKeys p (markStep p) :=
  (((clearSlew_frame p).mono (by decide)).trans (unalign_frame _)).setRegBit (by decide) _ _

theorem markStep_flag (p : Part) (j : Nat) :
    regBit (markStep p) G.timeFlags j = if j = 0 ∨ j = 5 then false else regBit p G.timeFlags j :=
  (regBit_setReg_ne (by decide) _ _).trans ((unalign_flag ..).trans (clearSlew_flag ..))

theorem markStep_clockState (p : Part) : reg (markStep p) G.clockState = unaligned p := by
  rw [markStep, setRegBit, reg_setReg_ne _ (by decide), unalign_clockState, unaligned, (clearSlew_frame p).regs _ (by decide), unaligned]

/-- A step of the Datum (R37). -/
theorem stepDatum_spec (p : Part) (d : Int) :
    let q := stepDatum p d
    q.time = { p.time with datum := ((datumNow p : Int) + d).toNat, slew := 0, step := none } ∧ reg q G.clockState = unaligned p ∧
      regBit q G.timeFlags 0 = false ∧ regBit q G.timeFlags 5 = false ∧ regBit q G.timeSticky 8 = true ∧ SameUnits p q ∧ SameRegs p q flagKeys := by
  have hq := (markStep_frame p).time { p.time with datum := ((datumNow p : Int) + d).toNat, slew := 0, step := none }
  dsimp only
  rw [stepDatum_eq]
  exact ⟨rfl, markStep_clockState p, (markStep_flag p 0).trans (if_pos (.inl rfl)), (markStep_flag p 5).trans (if_pos (.inr rfl)),
    (regBit_setRegBit ..).trans (if_pos rfl), hq.units, hq.regs⟩

theorem stepDatum_removes (p : Part) (d : Int) : Removes p (stepDatum p d) := by
  rw [stepDatum_eq]
  exact ⟨(markStep_frame p).time _, fun j h0 h5 => (markStep_flag p j).trans (if_neg (by omega)), rfl, unalign_fab (clearSlew p)⟩

/-! ## The removal of an offset -/

theorem removeOffset_small {o : Int} (h : |o| ≤ ((reg p G.stepThreshold * 65536 : Nat) : Int)) : removeOffset p o = slewBy p o := if_pos h

theorem removeOffset_pending {o : Int} (h : ¬ |o| ≤ ((reg p G.stepThreshold * 65536 : Nat) : Int)) (hr : anyRuns p = true) :
    removeOffset p o = setTimeFlag (slewBy { p with time := { p.time with step := some o } } o) 0 := (if_neg h).trans (if_pos hr)

theorem removeOffset_stopped {o : Int} (h : ¬ |o| ≤ ((reg p G.stepThreshold * 65536 : Nat) : Int)) (hr : anyRuns p = false) :
    removeOffset p o = stepDatum p o := (if_neg h).trans (if_neg (by simp [hr]))

/-- The removal of an offset (R35). -/
theorem removeOffset_removes (p : Part) (o : Int) : Removes p (removeOffset p o) := by
  by_cases h : |o| ≤ ((reg p G.stepThreshold * 65536 : Nat) : Int)
  · rw [removeOffset_small h]
    exact (Removes.refl p).slewBy o
  · cases hr : anyRuns p
    · rw [removeOffset_stopped h hr]
      exact stepDatum_removes p o
    · rw [removeOffset_pending h hr]
      exact ((Removes.time (t := { p.time with step := some o }) rfl).slewBy o).setTimeFlag (.inl rfl)

end Sys2Proof.Machine
end

section
/-!
SUPPORT. O35: slews that end, steps of the Datum, a set Datum or epoch, and the return of REFIN (R35 to R37, R41, R53, R56).
-/

namespace Sys2Proof.Machine

variable {p q : Part}

/-! ## The end of a slew -/

/-- The slew and the pending step are over. -/
def slewOver (p : Part) : Part := clearSlew { p with time := { p.time with slew := 0, step := none } }

theorem endSlew_over (h : slewLeft p = 0) : endSlew p = slewOver p := if_pos h
theorem endSlew_idle (h : slewLeft p ≠ 0) : endSlew p = p := if_neg h

theorem slewOver_spec (p : Part) :
    (slewOver p).time = { p.time with slew := 0, step := none } ∧ regBit (slewOver p) G.timeFlags 0 = false ∧
      regBit (slewOver p) G.timeFlags 5 = false ∧ SameUnits p (slewOver p) ∧ SameRegs p (slewOver p) [G.timeFlags] := by
  have hq := ((TimeFrame.refl [G.timeFlags] p).time { p.time with slew := 0, step := none }).trans (clearSlew_frame _)
  exact ⟨rfl, (clearSlew_flag _ 0).trans (if_pos (.inl rfl)), (clearSlew_flag _ 5).trans (if_pos (.inr rfl)), hq.units, hq.regs⟩

/-! ## A pending step -/

theorem applyStep_step (hs : p.time.step ≠ none) (hr : anyRuns p = false) (h : slewLeft p ≠ 0) : applyStep p = stepDatum p (slewLeft p) := by
  obtain ⟨o, ho⟩ := Option.ne_none_iff_exists'.mp hs
  simp [applyStep, ho, hr, h]

theorem applyStep_over (hs : p.time.step ≠ none) (hr : anyRuns p = false) (h : slewLeft p = 0) : applyStep p = slewOver p := by
  obtain ⟨o, ho⟩ := Option.ne_none_iff_exists'.mp hs
  simp [applyStep, ho, hr, h, endSlew_over]

theorem applyStep_waits (h : p.time.step = none ∨ anyRuns p = true) : applyStep p = p := by
  unfold applyStep
  split
  · rename_i ho
    exact if_pos (h.resolve_left (by simp [ho]))
  · rfl

/-! ## DATUM_SET and EPOCH -/

/-- DATUM_SET (Table 02-9). -/
def entryDatumSet : Entry := ⟨7, 7, 1, .time96, .wo, .staged, 0, .none, false, false, .any, .cmd⟩
/-- EPOCH (Table 02-9). -/
def entryEpoch : Entry := ⟨1, 1, 1, .time96, .rw, .staged, 0, .none, false, false, .wholeSeconds, .cmd⟩

theorem lookup_datumSet : lookup 0x1220 0x07 = .entry entryDatumSet 0x07 := by decide
theorem lookup_epoch : lookup 0x1220 0x01 = .entry entryEpoch 0x01 := by decide

/-- A taken DATUM_SET in free-run steps the Datum by what it lacks (R53). -/
theorem write_datumSet {path : Path} {v : Nat} (ht : Takes p path G.datumSet v) (hs : reg p G.timeSource = 0) :
    let u := cleared p path G.datumSet
    commandWrite p path 0x1220 0x07 v = tell (stepDatum u ((timeValue v : Int) - datumNow u)) path 0 := by
  dsimp only
  have he : setDatum (cleared p path G.datumSet) v = (stepDatum (cleared p path G.datumSet)
      ((timeValue v : Int) - datumNow (cleared p path G.datumSet)), 0) :=
    if_neg (not_not.mpr ((cleared_reg p path _ (by decide)).trans hs))
  refine commandWrite_takes (e := entryDatumSet) (by decide) lookup_datumSet rfl nofun (by decide) ht (effect_datumSet.trans he) ?_
  obtain ⟨-, -, -, -, ha⟩ := (stepDatum_removes (cleared p path G.datumSet) _).frame.units.kept
  rw [ha, cleared_adm]
  exact lt_irrefl _

/-- A taken EPOCH begins a realignment (R41). -/
theorem write_epoch {path : Path} {v : Nat} (ht : Takes p path G.epoch v) :
    commandWrite p path 0x1220 0x01 v = tell (setReg (beginAlign (cleared p path G.epoch)) G.epoch v) path 0 := by
  refine commandWrite_takes (e := entryEpoch) (by decide) lookup_epoch rfl nofun (by decide) ht effect_epoch ?_
  obtain ⟨-, -, -, -, -, ha⟩ := beginAlign_frame (cleared p path G.epoch)
  rw [setReg_adm, ha, cleared_adm]
  exact lt_irrefl _

theorem beginAlign_time (p : Part) : (beginAlign p).time = { p.time with datum := datumNow p } := by
  unfold beginAlign
  dsimp only
  split <;> rfl

theorem beginAlign_timeFrame (p : Part) : TimeFrame [G.epoch, G.clockState] p (beginAlign p) := by
  have ht := (TimeFrame.refl [G.epoch, G.clockState] p).time { p.time with datum := datumNow p }
  unfold beginAlign
  dsimp only
  split
  · exact ht
  · exact ht.setReg (by simp) _

/-- A realignment for a new EPOCH (R41). -/
theorem setEpoch_spec (p : Part) (v : Nat) :
    let q := setReg (beginAlign p) G.epoch v
    reg q G.epoch = v ∧ reg q G.clockState = unaligned p ∧ q.time = { p.time with datum := datumNow p } ∧ SameUnits p q ∧
      SameRegs p q [G.epoch, G.clockState] := by
  have hq := (beginAlign_timeFrame p).setReg (k := G.epoch) (by simp) v
  exact ⟨reg_setReg_same .., (reg_setReg_ne _ (by decide) _).trans (beginAlign_clockState p), beginAlign_time p, hq.units, hq.regs⟩

/-! ## The return of REFIN -/

/-- REFIN is back, and the estimate counts on from now (R56). -/
def refinBack (p : Part) : Part := clearTimeFlag (restartEstimate p) 1

/-- The clock of a part that goes on with its estimate from now. -/
def restarted (p : Part) : TimeSt := { p.time with holdErr := holdEstimate p, holdAt := datumNow p }

theorem refinBack_time (p : Part) : (refinBack p).time = restarted p := rfl

theorem refinBack_frame (p : Part) : TimeFrame [G.timeFlags] p (refinBack p) := ((TimeFrame.refl _ p).time _).clearTimeFlag (by simp) 1

theorem refinBack_datumNow (p : Part) : datumNow (refinBack p) = datumNow p := (refinBack_frame p).datumNow (by decide) rfl

theorem lgState_ne_timeFlags (g : Nat) : G.lgState g ∉ [G.timeFlags] := by
  simp only [List.mem_singleton, G.lgState, G.timeFlags, gkey]
  omega

theorem refinBack_anyRuns (p : Part) : anyRuns (refinBack p) = anyRuns p := anyRuns_congr fun g => (refinBack_frame p).regs _ (lgState_ne_timeFlags g)

theorem returnRefin_back {o : Int} (h : regBit p G.timeFlags 1 = true) : returnRefin p o = removeOffset (refinBack p) o := if_pos h
theorem returnRefin_idle {o : Int} (h : regBit p G.timeFlags 1 = false) : returnRefin p o = p := if_neg (by simp [h])

/-- REFIN returns, and the error that has built up is removed (R35, R56). -/
theorem returnRefin_spec {o : Int} (h : regBit p G.timeFlags 1 = true) :
    let t := restarted p
    let small := |o| ≤ ((reg p G.stepThreshold * 65536 : Nat) : Int)
    let q := returnRefin p o
    regBit q G.timeFlags 1 = false ∧ SameUnits p q ∧ SameRegs p q flagKeys ∧ (o = 0 → q.time = t) ∧
      (o ≠ 0 → small → q.time = { t with slew := o, slewAt := datumNow p } ∧ regBit q G.timeFlags 5 = true) ∧
      (¬ small →
        (anyRuns p = true → q.time = { t with slew := o, slewAt := datumNow p, step := some o } ∧ regBit q G.timeFlags 5 = true ∧
          regBit q G.timeFlags 0 = true) ∧
        (anyRuns p = false → q.time = { t with datum := ((datumNow p : Int) + o).toNat, slew := 0, step := none } ∧
          reg q G.clockState = unaligned p)) := by
  have hf := refinBack_frame p
  have ht := refinBack_time p
  have hd := refinBack_datumNow p
  have hr := refinBack_anyRuns p
  have h1 : regBit (refinBack p) G.timeFlags 1 = false := clearTimeFlag_flag ..
  have hs : reg (refinBack p) G.stepThreshold = reg p G.stepThreshold := hf.regs _ (by decide)
  have hc : reg (refinBack p) G.clockState = reg p G.clockState := hf.regs _ (by decide)
  dsimp only
  rw [returnRefin_back h]
  generalize refinBack p = u at *
  have hq := removeOffset_removes u o
  have hall := (hf.mono (by decide)).trans hq.frame
  refine ⟨(hq.flags 1 (by decide) (by decide)).trans h1, hall.units, hall.regs, fun ho => ?_, fun ho hm => ?_,
    fun hm => ⟨fun ha => ?_, fun ha => ?_⟩⟩
  · rw [ho, removeOffset_small (by simp), slewBy_zero, ht]
  · rw [removeOffset_small (by rw [hs]; exact hm), slewBy_ne _ ho, hd]
    exact ⟨by rw [setTimeFlag_time, ht], setTimeFlag_flag ..⟩
  · have ho : o ≠ 0 := fun e => hm (by simp [e])
    rw [removeOffset_pending (by rw [hs]; exact hm) (hr.trans ha), slewBy_ne _ ho]
    refine ⟨?_, (regBit_setTimeFlag ..).trans (setTimeFlag_flag ..), setTimeFlag_flag ..⟩
    rw [← ht, ← hd]
    rfl
  · obtain ⟨hst, hsc, -⟩ := stepDatum_spec u o
    rw [removeOffset_stopped (by rw [hs]; exact hm) (hr.trans ha), hst, hsc, ht, hd, unaligned, hc]
    exact ⟨rfl, rfl⟩

theorem exec_slewEnd (s : State) : exec .slewEnd s = lift endSlew s := by unfold exec; rfl
theorem exec_datumStep (s : State) : exec .datumStep s = lift applyStep s := by unfold exec; rfl
theorem exec_datumSet (path : Path) (v : Nat) (s : State) :
    exec (.datumSet path v) s = lift (fun p => commandWrite p path 0x1220 0x07 v) s := by unfold exec; rfl
theorem exec_epochWrite (path : Path) (v : Nat) (s : State) :
    exec (.epochWrite path v) s = lift (fun p => commandWrite p path 0x1220 0x01 v) s := by unfold exec; rfl
theorem exec_refinReturn (o : Int) (s : State) : exec (.refinReturn o) s = lift (fun p => returnRefin p o) s := by unfold exec; rfl

/-- Settles O35: a step, the end of a slew, a realignment and the removal of an offset are each said by their lemma. -/
theorem datumStepsAndSlews : Obligations.DatumStepsAndSlews := by
  unfold Obligations.DatumStepsAndSlews
  intro s hw
  refine ⟨fun h => ?_, fun h => ?_, fun hs hr => ⟨fun h => ?_, fun h => ?_⟩, fun h => ?_, fun path v ht hs => ?_, fun path v ht => ?_,
    fun o h => ?_, fun o h => ?_⟩
  · exact ⟨_, exec_next (exec_slewEnd s) hw (endSlew_over h), slewOver_spec s.part⟩
  · exact exec_next (exec_slewEnd s) hw (endSlew_idle h)
  · exact ⟨_, exec_next (exec_datumStep s) hw (applyStep_step hs hr h), stepDatum_spec s.part (slewLeft s.part)⟩
  · exact ⟨_, exec_next (exec_datumStep s) hw (applyStep_over hs hr h), slewOver_spec s.part⟩
  · exact exec_next (exec_datumStep s) hw (applyStep_waits h)
  · have hq := stepDatum_spec (cleared s.part path G.datumSet) ((timeValue v : Int) - datumNow (cleared s.part path G.datumSet))
    rw [add_sub_cancel, Int.toNat_natCast] at hq
    exact ⟨_, exec_next (exec_datumSet path v s) hw (write_datumSet ht hs), hq⟩
  · exact ⟨_, exec_next (exec_epochWrite path v s) hw (write_epoch ht), setEpoch_spec (cleared s.part path G.epoch) v⟩
  · exact ⟨_, exec_next (exec_refinReturn o s) hw rfl, returnRefin_spec h⟩
  · exact exec_next (exec_refinReturn o s) hw (returnRefin_idle h)

end Sys2Proof.Machine
end

section
/-!
SUPPORT. O32: a measurement of the Datum's offset (R29, R31, R32): the servo's word, the removal of the offset, and the states of the Datum.
-/

namespace Sys2Proof.Machine

variable {p q u : Part} {l : List Nat} {o : Int}

/-! ## The states of the Datum -/

/-- State s of the Datum is in force; FREE has no estimate (R33). -/
def setState (p : Part) (s : Nat) : Part :=
  if s = 0 then setReg (setReg p G.timeState s) G.timeErrorEst 0xFFFFFFFF else setReg p G.timeState s

/-- State s is in force, and its counts begin anew (R32). -/
def putState (p : Part) (s : Nat) : Part := { setState p s with time := { p.time with near := 0, far := 0 } }

theorem setState_units (p : Part) (s : Nat) : (setState p s).time = p.time ∧ (setState p s).fab = p.fab := by
  unfold setState
  split <;> exact ⟨rfl, rfl⟩

theorem enterTimeState_eq (p : Part) (s : Nat) :
    enterTimeState p s = if reg p G.timeState = s then putState p s else raiseNow (putState p s) 0xB81 := by
  unfold putState
  rw [← (setState_units p s).1]
  rfl

theorem putState_fab (p : Part) (s : Nat) : (putState p s).fab = p.fab := (setState_units p s).2

theorem enterTimeState_time (p : Part) (s : Nat) : (enterTimeState p s).time = { p.time with near := 0, far := 0 } := by
  rw [enterTimeState_eq]
  split <;> rfl

theorem enterTimeState_producers (p : Part) (s : Nat) :
    (enterTimeState p s).fab.producers = p.fab.producers ++ (if reg p G.timeState = s then [] else [nowPulse p 0xB81]) := by
  rw [enterTimeState_eq]
  split
  · rw [putState_fab, List.append_nil]
  · rw [raiseNow_producers, putState_fab]
    rfl

/-- A state other than FREE leaves the estimate. -/
theorem putState_steered (p : Part) {s : Nat} (hs : s ≠ 0) : TimeFrame [G.timeState] p (putState p s) ∧ reg (putState p s) G.timeState = s := by
  have he : setState p s = setReg p G.timeState s := if_neg hs
  unfold putState
  rw [he]
  exact ⟨((TimeFrame.refl _ p).setReg (by simp) s).time _, reg_setReg_same ..⟩

theorem putState_free (p : Part) :
    TimeFrame [G.timeState, G.timeErrorEst] p (putState p 0) ∧ reg (putState p 0) G.timeState = 0 ∧
      reg (putState p 0) G.timeErrorEst = 0xFFFFFFFF := by
  have hf := (((TimeFrame.refl [G.timeState, G.timeErrorEst] p).setReg (k := G.timeState) (by simp) 0).setReg (k := G.timeErrorEst) (by simp)
    0xFFFFFFFF).time { p.time with near := 0, far := 0 }
  exact ⟨hf, (reg_setReg_ne _ (by decide) _).trans (reg_setReg_same ..), reg_setReg_same ..⟩

theorem enterTimeState_steered (p : Part) {s : Nat} (hs : s ≠ 0) :
    TimeFrame [G.timeState] p (enterTimeState p s) ∧ reg (enterTimeState p s) G.timeState = s := by
  obtain ⟨hf, hv⟩ := putState_steered p hs
  rw [enterTimeState_eq]
  split
  · exact ⟨hf, hv⟩
  · exact ⟨hf.raiseNow _, hv⟩

theorem enterTimeState_free (p : Part) :
    TimeFrame [G.timeState, G.timeErrorEst] p (enterTimeState p 0) ∧ reg (enterTimeState p 0) G.timeState = 0 ∧
      reg (enterTimeState p 0) G.timeErrorEst = 0xFFFFFFFF := by
  obtain ⟨hf, hv, he⟩ := putState_free p
  rw [enterTimeState_eq]
  split
  · exact ⟨hf, hv, he⟩
  · exact ⟨hf.raiseNow _, hv, he⟩

/-! ## A measurement, stage by stage -/

/-- The frequency word of the servo and the estimate. -/
def putEstimate (p : Part) (o : Int) : Part := setReg (steer p) G.timeErrorEst (min (toPs o) 0xFFFFFFFE)

/-- The offset is removed: that of a source that has become valid, or of a newly selected port (R29, R35). -/
def takeOffset (p : Part) (o : Int) : Part :=
  if reg p G.timeState = 0 ∨ reg p G.timeState = 3 then removeOffset (enterTimeState p 1) o else if p.time.moved then slewBy p o else p

/-- The measurements in a row within 0.5 ns and beyond 1 ns (R32). -/
def nearAfter (p : Part) (o : Int) : Nat := if |o| ≤ 32768 then p.time.near + 1 else 0
def farAfter (p : Part) (o : Int) : Nat := if 65536 < |o| then p.time.far + 1 else 0

/-- The measurement is counted. -/
def countOffset (p : Part) (o : Int) : Part :=
  { p with time := { p.time with moved := false, near := nearAfter p o, far := farAfter p o } }

/-- The state that the counts lead to (R32). -/
def judgeOffset (p : Part) : Part :=
  if reg p G.timeState = 1 ∧ 16 ≤ p.time.near then enterTimeState p 2
  else if reg p G.timeState = 2 ∧ 16 ≤ p.time.far then enterTimeState p 1 else p

theorem putEstimate_frame (p : Part) (o : Int) : TimeFrame [G.timeErrorEst] p (putEstimate p o) :=
  ((TimeFrame.refl _ p).time (steer p).time).setReg (by simp) _

theorem measure_eq (h : regBit p G.timeFlags 1 = false) : measure p o = judgeOffset (countOffset (takeOffset (putEstimate p o) o) o) := by
  have hs : reg (putEstimate p o) G.timeState = reg p G.timeState := (putEstimate_frame p o).regs _ (by decide)
  unfold measure
  rw [if_neg (by simp [h])]
  dsimp only
  rw [← hs]
  rfl

/-- The clock but for what a measurement moves: the Datum, the slew, the pending step, the counts, and the change of port that it takes. -/
def besideServo (t : TimeSt) : TimeSt := { besideSlew t with near := 0, far := 0, moved := false }

theorem near_of_besideSlew {t t' : TimeSt} (h : besideSlew t = besideSlew t') : t.near = t'.near :=
  show (besideSlew t).near = (besideSlew t').near from congrArg _ h
theorem far_of_besideSlew {t t' : TimeSt} (h : besideSlew t = besideSlew t') : t.far = t'.far :=
  show (besideSlew t).far = (besideSlew t').far from congrArg _ h
theorem besideServo_of_slew {t t' : TimeSt} (h : besideSlew t = besideSlew t') : besideServo t = besideServo t' := by
  unfold besideServo
  rw [h]

/-- What the removal of a measured offset leaves. -/
structure Taken (p q : Part) (o : Int) : Prop where
  frame  : TimeFrame (G.timeState :: flagKeys) p q
  state  : reg q G.timeState = if reg p G.timeState = 0 ∨ reg p G.timeState = 3 then 1 else reg p G.timeState
  counts : ¬ (reg p G.timeState = 0 ∨ reg p G.timeState = 3) → q.time.near = p.time.near ∧ q.time.far = p.time.far
  fresh  : reg p G.timeState = 0 ∨ reg p G.timeState = 3 → q.time.near = 0
  beside : besideServo q.time = besideServo p.time
  slew   : ¬ (reg p G.timeState = 0 ∨ reg p G.timeState = 3) → q.time.slew = if p.time.moved = true ∧ o ≠ 0 then o else p.time.slew

theorem slewBy_slew (p : Part) (o : Int) : (slewBy p o).time.slew = if o ≠ 0 then o else p.time.slew := by
  by_cases h : o = 0
  · rw [h, slewBy_zero]
    rfl
  · rw [slewBy_ne p h, if_pos h]
    rfl

theorem takeOffset_taken (p : Part) (o : Int) : Taken p (takeOffset p o) o := by
  unfold takeOffset
  split
  · rename_i h
    obtain ⟨hf, hs⟩ := enterTimeState_steered p (s := 1) (by decide)
    have ht := enterTimeState_time p 1
    generalize enterTimeState p 1 = u at hf hs ht ⊢
    have hr := removeOffset_removes u o
    refine ⟨(hf.mono (by decide)).trans (hr.frame.mono (by decide)), ?_, fun g => absurd h g,
      fun _ => (near_of_besideSlew hr.beside).trans (by rw [ht]), ?_, fun g => absurd h g⟩
    · rw [hr.frame.regs _ (by decide), hs, if_pos h]
    · rw [besideServo_of_slew hr.beside, ht]
      rfl
  · rename_i h
    split
    · rename_i hm
      have hr := (Removes.refl p).slewBy o
      refine ⟨hr.frame.mono (by decide), ?_, fun _ => ⟨near_of_besideSlew hr.beside, far_of_besideSlew hr.beside⟩, fun g => absurd g h,
        besideServo_of_slew hr.beside, fun _ => ?_⟩
      · rw [hr.frame.regs _ (by decide), if_neg h]
      · rw [slewBy_slew, hm]
        simp
    · rename_i hm
      exact ⟨.refl _ p, (if_neg h).symm, fun _ => ⟨rfl, rfl⟩, fun g => absurd g h, rfl, fun _ => (if_neg fun e => hm e.1).symm⟩

/-- The state of the Datum after the counts (R32). -/
theorem judgeOffset_spec (p : Part) :
    TimeFrame [G.timeState] p (judgeOffset p) ∧
      reg (judgeOffset p) G.timeState = (if reg p G.timeState = 1 ∧ 16 ≤ p.time.near then 2
        else if reg p G.timeState = 2 ∧ 16 ≤ p.time.far then 1 else reg p G.timeState) ∧
      ∃ n f, (judgeOffset p).time = { p.time with near := n, far := f } := by
  unfold judgeOffset
  split
  · obtain ⟨hf, hs⟩ := enterTimeState_steered p (s := 2) (by decide)
    exact ⟨hf, hs, _, _, enterTimeState_time p 2⟩
  · split
    · obtain ⟨hf, hs⟩ := enterTimeState_steered p (s := 1) (by decide)
      exact ⟨hf, hs, _, _, enterTimeState_time p 1⟩
    · exact ⟨.refl _ p, rfl, _, _, rfl⟩

theorem nearAfter_full (p : Part) (o : Int) : 16 ≤ nearAfter p o ↔ |o| ≤ 32768 ∧ 15 ≤ p.time.near := by
  unfold nearAfter
  split <;> omega

theorem farAfter_full (p : Part) (o : Int) : 16 ≤ farAfter p o ↔ 65536 < |o| ∧ 15 ≤ p.time.far := by
  unfold farAfter
  split <;> omega

/-! ## What a measurement changes -/

/-- The entries that a measurement writes. -/
def measureKeys : List Nat := [G.timeErrorEst, G.timeState, G.timeFlags, G.timeSticky, G.clockState]

/-- The part q after a measurement of offset o in p (R32). -/
structure Measured (p q : Part) (o : Int) : Prop where
  est    : reg q G.timeErrorEst = min (toPs o) 0xFFFFFFFE
  state  : reg q G.timeState = (if reg p G.timeState = 0 ∨ reg p G.timeState = 3 then 1
    else if reg p G.timeState = 1 ∧ |o| ≤ 32768 ∧ 15 ≤ p.time.near then 2
    else if reg p G.timeState = 2 ∧ 65536 < |o| ∧ 15 ≤ p.time.far then 1 else reg p G.timeState)
  slew   : reg p G.timeState = 1 ∨ reg p G.timeState = 2 → q.time.slew = if p.time.moved = true ∧ o ≠ 0 then o else p.time.slew
  moved  : q.time.moved = false
  beside : besideServo q.time = besideServo (steer p).time
  frame  : TimeFrame measureKeys p q

theorem measure_spec (h : regBit p G.timeFlags 1 = false) (o : Int) : Measured p (measure p o) o := by
  have he := putEstimate_frame p o
  have hv : reg (putEstimate p o) G.timeErrorEst = min (toPs o) 0xFFFFFFFE := reg_setReg_same ..
  have ht : (putEstimate p o).time = (steer p).time := rfl
  have hs : reg (putEstimate p o) G.timeState = reg p G.timeState := he.regs _ (by decide)
  rw [measure_eq h]
  generalize putEstimate p o = a at he hv ht hs ⊢
  have hb := takeOffset_taken a o
  generalize takeOffset a o = b at hb ⊢
  have hc : TimeFrame [] b (countOffset b o) := (TimeFrame.refl _ b).time _
  obtain ⟨hj, hjs, n, f, hjt⟩ := judgeOffset_spec (countOffset b o)
  have hjs' : reg (judgeOffset (countOffset b o)) G.timeState = (if reg b G.timeState = 1 ∧ 16 ≤ nearAfter b o then 2
      else if reg b G.timeState = 2 ∧ 16 ≤ farAfter b o then 1 else reg b G.timeState) := hjs
  refine ⟨?_, ?_, fun hst => ?_, ?_, ?_, ?_⟩
  · rw [hj.regs _ (by decide), hc.regs _ (by decide), hb.frame.regs _ (by decide), hv]
  · simp only [hjs', nearAfter_full, farAfter_full, hb.state, hs]
    by_cases h0 : reg p G.timeState = 0 ∨ reg p G.timeState = 3
    · have hn := hb.fresh (hs.symm ▸ h0)
      simp [h0, hn]
    · obtain ⟨hn, hf⟩ := hb.counts (hs.symm ▸ h0)
      simp only [if_neg h0, hn, hf, ht]
      rfl
  · rw [hjt]
    show b.time.slew = _
    rw [hb.slew (by omega), ht]
    rfl
  · rw [hjt]
    rfl
  · rw [hjt, ← ht, ← hb.beside]
    rfl
  · exact ((he.mono (by decide)).trans (hb.frame.mono (by decide))).trans ((hc.mono (by simp)).trans (hj.mono (by decide)))

end Sys2Proof.Machine
end

section
/-!
SUPPORT. O32: the commands that measure (R28, R29, R31): a Sync exchange on the selected port and an accepted edge of PPS_IN.
-/

namespace Sys2Proof.Machine

variable {p q u : Part} {o : Int}

/-! ## PTP messages -/

theorem ptpMessage_ours {port : EthPort} {h : PtpHead} (f : Part → Part) (he : ptpEnabled p port = true)
    (hh : h = ⟨reg p G.ptpDomain, reg p G.ptpTransport, reg p G.ptpProfile, false⟩) (hd : h.domain ≤ 127) : ptpMessage p port h f = f p := by
  have hu : ¬ (h.unsupported = true ∨ 127 < h.domain) := by
    rw [not_or, not_lt, hh]
    exact ⟨nofun, hh ▸ hd⟩
  unfold ptpMessage
  rw [if_neg (by simp [he]), if_neg hu, if_pos (by simp [hh])]

/-! ## What the commands do before they measure -/

/-- The clock but for what it keeps of PPS_IN. -/
def besidePps (t : TimeSt) : TimeSt := { t with ppsNext := none, ppsSeen := false, ppsOff := 0, ppsMiss := 0 }

/-- Between p and q entries of PTP, a flag and what is kept of PPS_IN have changed. -/
structure Prepared (p q : Part) : Prop where
  frame  : TimeFrame [G.timeFlags, G.ptpOffset, G.ptpMeanPath] p q
  beside : besidePps q.time = besidePps p.time

section
variable (h : Prepared p q)
include h

theorem Prepared.of_pps {α : Type} (f : TimeSt → α) : f (besidePps q.time) = f (besidePps p.time) := congrArg f h.beside
theorem Prepared.near : q.time.near = p.time.near := h.of_pps TimeSt.near
theorem Prepared.far : q.time.far = p.time.far := h.of_pps TimeSt.far
theorem Prepared.slew : q.time.slew = p.time.slew := h.of_pps TimeSt.slew
theorem Prepared.moved : q.time.moved = p.time.moved := h.of_pps TimeSt.moved
theorem Prepared.steers : q.time.steers = p.time.steers := h.of_pps TimeSt.steers
theorem Prepared.words : q.time.words = p.time.words := h.of_pps TimeSt.words
theorem Prepared.timeState : reg q G.timeState = reg p G.timeState := h.frame.regs _ (by decide)
theorem Prepared.datumNow : datumNow q = datumNow p :=
  h.frame.datumNow (by decide) (h.of_pps fun t => (t.tick, t.cyc, t.datum))
theorem Prepared.recentWords : recentWords q = recentWords p := by
  unfold Machine.recentWords
  rw [h.words, h.datumNow]

end

/-- The entries of a measurement with those that PTP tells of it. -/
def servoKeys : List Nat := measureKeys ++ [G.ptpOffset, G.ptpMeanPath]

/-- The part q after a measurement of offset o, by a command that found the part as p (R32). -/
structure Judged (p q : Part) (o : Int) : Prop where
  est   : reg q G.timeErrorEst = min (toPs o) 0xFFFFFFFE
  state : reg q G.timeState = (if reg p G.timeState = 0 ∨ reg p G.timeState = 3 then 1
    else if reg p G.timeState = 1 ∧ |o| ≤ 32768 ∧ 15 ≤ p.time.near then 2
    else if reg p G.timeState = 2 ∧ 65536 < |o| ∧ 15 ≤ p.time.far then 1 else reg p G.timeState)
  slew  : reg p G.timeState = 1 ∨ reg p G.timeState = 2 → q.time.slew = if p.time.moved = true ∧ o ≠ 0 then o else p.time.slew
  moved : q.time.moved = false
  word  : q.time.word = Config.servoWord p.time.steers
  words : q.time.words = (datumNow p, q.time.word) :: recentWords p
  units : SameUnits p q
  regs  : SameRegs p q servoKeys

theorem Measured.of_servo {α : Type} (h : Measured p q o) (f : TimeSt → α) : f (besideServo q.time) = f (besideServo (steer p).time) :=
  congrArg f h.beside

theorem Measured.judged (h : Prepared p u) (hm : Measured u q o) : Judged p q o := by
  have hf := (h.frame.mono (by decide : ∀ k ∈ _, k ∈ servoKeys)).trans (hm.frame.mono (by decide))
  have hw : q.time.word = Config.servoWord u.time.steers := hm.of_servo TimeSt.word
  have hl : q.time.words = (Machine.datumNow u, Config.servoWord u.time.steers) :: Machine.recentWords u := hm.of_servo TimeSt.words
  refine ⟨hm.est, ?_, fun hs => ?_, hm.moved, ?_, ?_, hf.units, hf.regs⟩
  · rw [hm.state, h.timeState, h.near, h.far]
  · rw [hm.slew (h.timeState ▸ hs), h.moved, h.slew]
  · rw [hw, h.steers]
  · rw [hl, hw, h.datumNow, h.recentWords]

/-! ## A Sync exchange -/

/-- The PTP entries take the measured values (Table 02-3). -/
def putPtp (p : Part) (o meanPath : Int) : Part := setReg (setReg p G.ptpOffset (ofSigned 64 o)) G.ptpMeanPath (ofSigned 64 meanPath)

/-- The offset measured on a port, its declared asymmetry taken off (R29). -/
def ptpOffsetOn (p : Part) (port : EthPort) (offset : Int) : Int :=
  offset - toSigned 32 (reg p (if port = .a then G.ptpAsymA else G.ptpAsymB)) * 65536 / 1000

theorem ptpSync_selected {port : EthPort} {offset meanPath : Int} (hs : reg p G.timeSource = 1)
    (hp : reg p G.ptpSelected = (if port = .a then 1 else 2)) :
    ptpSync p port offset meanPath = measure (putPtp p (ptpOffsetOn p port offset) meanPath) (ptpOffsetOn p port offset) :=
  if_neg (by rw [not_or, not_not, not_not]; exact ⟨hs, hp⟩)

theorem ptpSync_other {port : EthPort} {offset meanPath : Int}
    (h : reg p G.timeSource ≠ 1 ∨ reg p G.ptpSelected ≠ (if port = .a then 1 else 2)) : ptpSync p port offset meanPath = p := if_pos h

theorem putPtp_prepared (p : Part) (o meanPath : Int) : Prepared p (putPtp p o meanPath) :=
  ⟨((TimeFrame.refl _ p).setReg (by simp) _).setReg (by simp) _, rfl⟩

/-- A Sync exchange on the selected port is one measurement (R29, R32). -/
theorem ptpSync_measures {port : EthPort} {offset meanPath : Int} (h1 : regBit p G.timeFlags 1 = false) (hs : reg p G.timeSource = 1)
    (hp : reg p G.ptpSelected = (if port = .a then 1 else 2)) :
    let o := ptpOffsetOn p port offset
    let q := ptpSync p port offset meanPath
    Judged p q o ∧ reg q G.ptpOffset = ofSigned 64 o ∧ reg q G.ptpMeanPath = ofSigned 64 meanPath := by
  dsimp only
  rw [ptpSync_selected hs hp]
  generalize ptpOffsetOn p port offset = o
  have hu : regBit (putPtp p o meanPath) G.timeFlags 1 = false :=
    (regBit_setReg_ne (by decide) _ _).trans ((regBit_setReg_ne (by decide) _ _).trans h1)
  have hm := measure_spec hu o
  refine ⟨hm.judged (putPtp_prepared p o meanPath), ?_, ?_⟩
  · rw [hm.frame.regs _ (by decide), putPtp, reg_setReg_ne _ (by decide), reg_setReg_same]
  · rw [hm.frame.regs _ (by decide), putPtp, reg_setReg_same]

/-! ## An edge of PPS_IN -/

/-- An accepted edge: the counts begin again, the next second is expected, and the flag is clear (R31). -/
def acceptEdge (p : Part) (n : Nat) : Part :=
  clearTimeFlag { p with time := { p.time with ppsSeen := true, ppsOff := 0, ppsMiss := 0, ppsNext := some ((n + 1) % 2 ^ 48) } } 2

/-- The offset of the Datum from second n at an edge err from the nearest whole second of the Datum, PPS_IN_DELAY taken off (R31). -/
def ppsOffset (p : Part) (n : Nat) (err : Int) : Int :=
  ((n : Int) - ((2 * datumNow p + secondUnits) / (2 * secondUnits) : Nat)) * secondUnits - (err - toSigned 32 (reg p G.ppsInDelay) * 65536 / 1000)

theorem ppsEdge_accepted {err dev : Int} {n : Nat} (hs : reg p G.timeSource = 2) (hn : p.time.ppsNext = some n)
    (ha : p.time.ppsSeen = false ∨ |dev| ≤ 65536000) : ppsEdge p err dev = measure (acceptEdge p n) (ppsOffset p n err) := by
  have hb : ¬ (p.time.ppsSeen && decide (65536000 < |dev|)) = true := by
    rw [Bool.and_eq_true, decide_eq_true_iff, not_and, not_lt]
    exact fun h => ha.resolve_left (by simp [h])
  unfold ppsEdge
  rw [if_neg (not_not.mpr hs), hn]
  exact if_neg hb

theorem ppsEdge_otherSource {err dev : Int} (hs : reg p G.timeSource ≠ 2) : ppsEdge p err dev = p := if_pos hs

theorem acceptEdge_prepared (p : Part) (n : Nat) : Prepared p (acceptEdge p n) :=
  ⟨((TimeFrame.refl _ p).time _).clearTimeFlag (by simp) 2, rfl⟩

/-- An accepted edge is one measurement (R31, R32). -/
theorem ppsEdge_measures {err dev : Int} {n : Nat} (h1 : regBit p G.timeFlags 1 = false) (hs : reg p G.timeSource = 2)
    (hn : p.time.ppsNext = some n) (ha : p.time.ppsSeen = false ∨ |dev| ≤ 65536000) :
    let q := ppsEdge p err dev
    Judged p q (ppsOffset p n err) ∧ q.time.ppsNext = some ((n + 1) % 2 ^ 48) ∧ q.time.ppsSeen = true ∧ q.time.ppsOff = 0 ∧ q.time.ppsMiss = 0 := by
  have hu : regBit (acceptEdge p n) G.timeFlags 1 = false := (regBit_clearTimeFlag ..).trans ((if_neg (by decide)).trans h1)
  have hm := measure_spec hu (ppsOffset p n err)
  dsimp only
  rw [ppsEdge_accepted hs hn ha]
  exact ⟨hm.judged (acceptEdge_prepared p n), hm.of_servo TimeSt.ppsNext, hm.of_servo TimeSt.ppsSeen, hm.of_servo TimeSt.ppsOff,
    hm.of_servo TimeSt.ppsMiss⟩

theorem exec_ptpSyncExchange (port : EthPort) (h : PtpHead) (offset meanPath : Int) (c : Cyc) (s : State) :
    exec (.ptpSyncExchange port h offset meanPath c) s = lift (fun p => ptpMessage (atCyc p c) port h fun q => ptpSync q port offset meanPath) s := by
  unfold exec; rfl
theorem exec_ppsInEdge (err dev : Int) (c : Cyc) (s : State) :
    exec (.ppsInEdge err dev c) s = lift (fun p => ppsEdge (atCyc p c) err dev) s := by unfold exec; rfl

/-- Settles O32: a Sync exchange of the selected port and an accepted edge each are one measurement, and what that does is said by its lemma. -/
theorem measurementsSteerTheDatum : Obligations.MeasurementsSteerTheDatum := by
  unfold Obligations.MeasurementsSteerTheDatum
  intro s c hw
  refine ⟨fun port h offset meanPath he _ hh hd => ⟨fun h1 hs hp => ?_, fun hn => ?_⟩, fun err dev n h1 hs hn ha => ?_⟩
  · obtain ⟨hj, ho, hm⟩ := ptpSync_measures (p := atCyc s.part c) (port := port) (offset := offset) (meanPath := meanPath) h1 hs hp
    exact ⟨_, exec_next (exec_ptpSyncExchange port h offset meanPath c s) hw (ptpMessage_ours _ he hh hd),
      ⟨hj.est, hj.state, hj.slew, hj.moved, hj.word, hj.words, hj.units, hj.regs⟩, ho, hm⟩
  · exact exec_next (exec_ptpSyncExchange port h offset meanPath c s) hw ((ptpMessage_ours _ he hh hd).trans (ptpSync_other hn))
  · obtain ⟨hj, hp⟩ := ppsEdge_measures (p := atCyc s.part c) (err := err) h1 hs hn ha
    exact ⟨_, exec_next (exec_ppsInEdge err dev c s) hw rfl, ⟨hj.est, hj.state, hj.slew, hj.moved, hj.word, hj.words, hj.units, hj.regs⟩, hp⟩

end Sys2Proof.Machine
end

section
/-!
SUPPORT. PTP ports (R28 to R30): what a port's master is compared by, the selection of a port, and the partner that a master is (R88, R89).
-/

namespace Sys2Proof.Machine

variable {p q u : Part} {port : EthPort} {l : List Nat}

/-! ## The master that a port hears -/

/-- The entries by which the part is elected master of a port, and ports are enabled. -/
def electKeys : List Nat := [G.ptpPorts, G.ptpRole, G.timeSource, G.ptpPriority1, G.ptpPriority2, G.serial]

theorem ptpEnabled_congr (hr : ∀ k ∈ electKeys, reg q k = reg p k) (port : EthPort) : ptpEnabled q port = ptpEnabled p port :=
  regBit_congr (hr _ (by decide)) _

theorem ownRank_congr (hr : ∀ k ∈ electKeys, reg q k = reg p k) (hs : reg q G.timeState = reg p G.timeState) : ownRank q = ownRank p := by
  have h1 : reg q G.ptpPriority1 = reg p G.ptpPriority1 := hr _ (by decide)
  have h2 : reg q G.ptpPriority2 = reg p G.ptpPriority2 := hr _ (by decide)
  have h3 : reg q G.serial = reg p G.serial := hr _ (by decide)
  have h4 : reg q G.timeSource = reg p G.timeSource := hr _ (by decide)
  unfold ownRank clockClass
  rw [h1, h2, h3, h4, hs]

theorem heardOn_congr (hr : ∀ k ∈ electKeys, reg q k = reg p k) (hs : reg q G.timeState = reg p G.timeState)
    (hm : masterOn q port = masterOn p port) : heardOn q port = heardOn p port := by
  have h1 : reg q G.ptpRole = reg p G.ptpRole := hr _ (by decide)
  have h2 : reg q G.timeSource = reg p G.timeSource := hr _ (by decide)
  unfold heardOn masterAt
  rw [ptpEnabled_congr hr, ownRank_congr hr hs, hm, h1, h2]

theorem selectPort_congr (ha : heardOn q .a = heardOn p .a) (hb : heardOn q .b = heardOn p .b) : selectPort q = selectPort p := by
  unfold selectPort
  rw [ha, hb]

theorem heardOn_of_masterOn_none (h : masterOn p port = none) : heardOn p port = none := by
  unfold heardOn
  rw [h, ite_self]

/-- No port is selected exactly where none hears a master. -/
theorem selectPort_eq_zero : selectPort p = 0 ↔ heardOn p .a = none ∧ heardOn p .b = none := by
  unfold selectPort
  cases heardOn p .a <;> cases heardOn p .b <;> simp
  split <;> decide

/-! ## The selection -/

/-- The entries that follow the selection. -/
def selectKeys : List Nat := [G.ptpSelected, G.ptpState, G.ptpGmIdentity, G.ptpStepsRemoved, G.utcOffset]

/-- A change from one port to the other is noted (R29). -/
def noteMove (p : Part) : Part :=
  if reg p G.ptpSelected ≠ 0 ∧ selectPort p ≠ 0 ∧ selectPort p ≠ reg p G.ptpSelected then { p with time := { p.time with moved := true } } else p

/-- PTP_SELECTED and PTP_STATE. -/
def putPort (p : Part) (s : Nat) : Part := setReg (setReg p G.ptpSelected s) G.ptpState (if s = 0 then 4 else 9)

/-- What the selected master announces. -/
def putMaster (p : Part) : Option PtpAnnounce → Part
  | none => p
  | some x =>
    let q := setReg (setReg p G.ptpGmIdentity (x.gmIdentity % 2 ^ 64)) G.ptpStepsRemoved (x.stepsRemoved % 2 ^ 16)
    if reg q G.timeSource = 1 then setReg q G.utcOffset (ofSigned 32 x.utcOffset) else q

/-- The master of the port with a number of PTP_SELECTED. -/
def masterNo (p : Part) (s : Nat) : Option PtpAnnounce := if s = 1 then p.time.masterA else if s = 2 then p.time.masterB else none

theorem noteMove_masters (p : Part) : (noteMove p).time.masterA = p.time.masterA ∧ (noteMove p).time.masterB = p.time.masterB := by
  unfold noteMove
  split <;> exact ⟨rfl, rfl⟩

theorem putSelection_eq (p : Part) : putSelection p = putMaster (putPort (noteMove p) (selectPort p)) (masterNo p (selectPort p)) := by
  obtain ⟨ha, hb⟩ := noteMove_masters p
  have hm : masterNo p (selectPort p) = masterNo (noteMove p) (selectPort p) := by
    unfold masterNo
    rw [ha, hb]
  rw [hm]
  delta putSelection
  dsimp only
  unfold putMaster
  rfl

theorem noteMove_frame (p : Part) : TimeFrame selectKeys p (noteMove p) := by
  unfold noteMove
  split
  · exact (TimeFrame.refl _ p).time _
  · exact .refl _ p

theorem putPort_frame (p : Part) (s : Nat) : TimeFrame selectKeys p (putPort p s) :=
  ((TimeFrame.refl _ p).setReg (by decide) _).setReg (by decide) _

theorem putMaster_frame (p : Part) (m : Option PtpAnnounce) :
    TimeFrame [G.ptpGmIdentity, G.ptpStepsRemoved, G.utcOffset] p (putMaster p m) := by
  cases m with
  | none => exact .refl _ p
  | some x =>
    have h := ((TimeFrame.refl [G.ptpGmIdentity, G.ptpStepsRemoved, G.utcOffset] p).setReg (k := G.ptpGmIdentity) (by decide)
      (x.gmIdentity % 2 ^ 64)).setReg (k := G.ptpStepsRemoved) (by decide) (x.stepsRemoved % 2 ^ 16)
    unfold putMaster
    dsimp only
    split
    · exact h.setReg (by decide) _
    · exact h

theorem putMaster_time (p : Part) (m : Option PtpAnnounce) : (putMaster p m).time = p.time := by
  cases m with
  | none => rfl
  | some x =>
    unfold putMaster
    dsimp only
    split <;> rfl

theorem putMaster_fab (p : Part) (m : Option PtpAnnounce) : (putMaster p m).fab = p.fab := by
  cases m with
  | none => rfl
  | some x =>
    unfold putMaster
    dsimp only
    split <;> rfl

theorem putMaster_some (p : Part) (x : PtpAnnounce) :
    reg (putMaster p (some x)) G.ptpGmIdentity = x.gmIdentity % 2 ^ 64 ∧
      reg (putMaster p (some x)) G.ptpStepsRemoved = x.stepsRemoved % 2 ^ 16 := by
  have hs : reg (setReg (setReg p G.ptpGmIdentity (x.gmIdentity % 2 ^ 64)) G.ptpStepsRemoved (x.stepsRemoved % 2 ^ 16)) G.ptpGmIdentity =
      x.gmIdentity % 2 ^ 64 := (reg_setReg_ne _ (by decide) _).trans (reg_setReg_same ..)
  unfold putMaster
  dsimp only
  split
  · exact ⟨(reg_setReg_ne _ (by decide) _).trans hs, (reg_setReg_ne _ (by decide) _).trans (reg_setReg_same ..)⟩
  · exact ⟨hs, reg_setReg_same ..⟩

/-- The clock but for the note of a change of port. -/
def besideMove (t : TimeSt) : TimeSt := { t with moved := false }

/-- What the selection leaves. -/
structure Selects (p q : Part) : Prop where
  frame    : TimeFrame selectKeys p q
  selected : reg q G.ptpSelected = selectPort p
  state    : reg q G.ptpState = if selectPort p = 0 then 4 else 9
  moved    : reg p G.ptpSelected ≠ 0 → selectPort p ≠ 0 → selectPort p ≠ reg p G.ptpSelected → q.time.moved = true
  beside   : besideMove q.time = besideMove p.time
  fab      : q.fab = p.fab

theorem putSelection_selects (p : Part) : Selects p (putSelection p) := by
  have hn := noteMove_frame p
  have hp := putPort_frame (noteMove p) (selectPort p)
  have hm := putMaster_frame (putPort (noteMove p) (selectPort p)) (masterNo p (selectPort p))
  have hs : reg (putPort (noteMove p) (selectPort p)) G.ptpSelected = selectPort p := (reg_setReg_ne _ (by decide) _).trans (reg_setReg_same ..)
  have ht : (putSelection p).time = (noteMove p).time := by
    rw [putSelection_eq, putMaster_time]
    rfl
  refine ⟨?_, ?_, ?_, fun h0 h1 h2 => ?_, ?_, ?_⟩
  · rw [putSelection_eq]
    exact (hn.trans hp).trans (hm.mono (by decide))
  · rw [putSelection_eq, hm.regs _ (by decide), hs]
  · rw [putSelection_eq, hm.regs _ (by decide)]
    exact reg_setReg_same ..
  · rw [ht, noteMove, if_pos ⟨h0, h1, h2⟩]
  · rw [ht]
    unfold noteMove
    split <;> rfl
  · rw [putSelection_eq, putMaster_fab]
    unfold putPort noteMove
    split <;> rfl

/-- The selected master tells its identity and distance. -/
theorem putSelection_master {x : PtpAnnounce} (h : masterNo p (selectPort p) = some x) :
    reg (putSelection p) G.ptpGmIdentity = x.gmIdentity % 2 ^ 64 ∧ reg (putSelection p) G.ptpStepsRemoved = x.stepsRemoved % 2 ^ 16 := by
  rw [putSelection_eq, h]
  exact putMaster_some ..

/-! ## The master of a port set or forgotten -/

/-- The other port. -/
def otherPort (port : EthPort) : EthPort := if port = .a then .b else .a

/-- The master of a port is noted. -/
def noteMaster (p : Part) (port : EthPort) (m : Option PtpAnnounce) : Part :=
  match port with
  | .a => { p with time := { p.time with masterA := m } }
  | .b => { p with time := { p.time with masterB := m } }

theorem setMaster_eq (p : Part) (port : EthPort) (m : Option PtpAnnounce) : setMaster p port m = putSelection (noteMaster p port m) := by
  cases port <;> rfl

theorem noteMaster_frame (p : Part) (port : EthPort) (m : Option PtpAnnounce) : TimeFrame [] p (noteMaster p port m) := by
  cases port <;> exact (TimeFrame.refl _ p).time _

theorem noteMaster_same (p : Part) (port : EthPort) (m : Option PtpAnnounce) : masterOn (noteMaster p port m) port = m := by
  cases port <;> rfl

theorem noteMaster_other (p : Part) (port : EthPort) (m : Option PtpAnnounce) :
    masterOn (noteMaster p port m) (otherPort port) = masterOn p (otherPort port) := by
  cases port <;> rfl

theorem noteMaster_fab (p : Part) (port : EthPort) (m : Option PtpAnnounce) : (noteMaster p port m).fab = p.fab := by cases port <;> rfl

/-- The clock but for its masters and the note of a change of port. -/
def besideMasters (t : TimeSt) : TimeSt := { besideMove t with masterA := none, masterB := none }

theorem besideMasters_of_move {t t' : TimeSt} (h : besideMove t = besideMove t') : besideMasters t = besideMasters t' := by
  unfold besideMasters
  rw [h]

theorem noteMaster_beside (p : Part) (port : EthPort) (m : Option PtpAnnounce) :
    besideMasters (noteMaster p port m).time = besideMasters p.time := by cases port <;> rfl

theorem masterOn_congr (h : besideMove q.time = besideMove p.time) (port : EthPort) : masterOn q port = masterOn p port := by
  have ha : q.time.masterA = p.time.masterA := show (besideMove q.time).masterA = (besideMove p.time).masterA from congrArg _ h
  have hb : q.time.masterB = p.time.masterB := show (besideMove q.time).masterB = (besideMove p.time).masterB from congrArg _ h
  unfold masterOn
  rw [ha, hb]

/-- What setting or forgetting the master of a port leaves. -/
structure SetsMaster (p q : Part) (port : EthPort) (m : Option PtpAnnounce) : Prop where
  frame    : TimeFrame selectKeys p q
  same     : masterOn q port = m
  other    : masterOn q (otherPort port) = masterOn p (otherPort port)
  selected : reg q G.ptpSelected = selectPort q
  state    : reg q G.ptpState = if selectPort q = 0 then 4 else 9
  moved    : reg p G.ptpSelected ≠ 0 → selectPort q ≠ 0 → selectPort q ≠ reg p G.ptpSelected → q.time.moved = true
  beside   : besideMasters q.time = besideMasters p.time
  fab      : q.fab = p.fab
  told     : ∀ x, m = some x → selectPort q = (if port = .a then 1 else 2) →
    reg q G.ptpGmIdentity = x.gmIdentity % 2 ^ 64 ∧ reg q G.ptpStepsRemoved = x.stepsRemoved % 2 ^ 16

theorem masterNo_port (p : Part) (port : EthPort) : masterNo p (if port = .a then 1 else 2) = masterOn p port := by cases port <;> rfl

theorem setMaster_spec (p : Part) (port : EthPort) (m : Option PtpAnnounce) : SetsMaster p (setMaster p port m) port m := by
  have hn := noteMaster_frame p port m
  have hsame := noteMaster_same p port m
  have hother := noteMaster_other p port m
  have hfab := noteMaster_fab p port m
  have hb := noteMaster_beside p port m
  rw [setMaster_eq]
  generalize noteMaster p port m = u at hn hsame hother hfab hb ⊢
  have hs := putSelection_selects u
  have hmaster := masterOn_congr hs.beside
  have hkeys : ∀ k ∈ electKeys, reg (putSelection u) k = reg u k := hs.frame.regs.on (by decide)
  have hheard (port : EthPort) : heardOn (putSelection u) port = heardOn u port :=
    heardOn_congr hkeys (hs.frame.regs _ (by decide)) (hmaster port)
  have hsel : selectPort (putSelection u) = selectPort u := selectPort_congr (hheard .a) (hheard .b)
  have hold : reg u G.ptpSelected = reg p G.ptpSelected := hn.regs _ (by simp)
  refine ⟨(hn.mono (by simp)).trans hs.frame, (hmaster port).trans hsame, (hmaster _).trans hother, ?_, ?_, ?_, ?_, hs.fab.trans hfab,
    fun x hx hp => ?_⟩
  · rw [hs.selected, hsel]
  · rw [hs.state, hsel]
  · rw [hsel, ← hold]
    exact hs.moved
  · exact (besideMasters_of_move hs.beside).trans hb
  · refine putSelection_master ?_
    rw [← hsel, hp, masterNo_port, hsame, hx]

/-! ## Partners -/

/-- Between p and q memory, sequencers and plans stand, and every value in force but those of Pearo Link and of partners. -/
structure PartnersMove (p q : Part) : Prop where
  mem   : q.mem = p.mem
  seqs  : q.seqs = p.seqs
  plans : q.plans = p.plans
  regs  : ∀ k, k / 256 < 0x1100 ∨ 0x1130 ≤ k / 256 → reg q k = reg p k

theorem PartnersMove.trans {r : Part} (h : PartnersMove p q) (g : PartnersMove q r) : PartnersMove p r :=
  ⟨g.mem.trans h.mem, g.seqs.trans h.seqs, g.plans.trans h.plans, fun k hk => (g.regs k hk).trans (h.regs k hk)⟩

theorem PartnersMove.on (h : PartnersMove p q) (hl : ∀ k ∈ l, k / 256 < 0x1100 ∨ 0x1130 ≤ k / 256) : ∀ k ∈ l, reg q k = reg p k :=
  fun k hk => h.regs k (hl k hk)

theorem PartnersMove.setReg (h : PartnersMove p q) {k : Nat} (hk : 0x1100 ≤ k / 256 ∧ k / 256 < 0x1130) (v : Nat) :
    PartnersMove p (setReg q k v) :=
  h.trans ⟨rfl, rfl, rfl, fun j hj => reg_setReg_ne _ (by rintro rfl; omega) _⟩

theorem partnerSlot_lt {kind identity i : Nat} (h : partnerSlot p kind identity = some i) : i < 32 :=
  List.mem_range.mp (List.mem_of_find?_eq_some h)

theorem freeSlot_lt {i : Nat} (h : freeSlot p = some i) : i < 32 := by
  unfold freeSlot at h
  split at h
  · rename_i j hj
    cases h
    exact List.mem_range.mp (List.mem_of_find?_eq_some hj)
  · have := List.find?_some h
    simp only [decide_eq_true_iff] at this
    exact this.1

theorem partnerKey {i s : Nat} (hi : i < 32) (hs : s < 256) : 0x1100 ≤ gkey (0x1110 + i) s / 256 ∧ gkey (0x1110 + i) s / 256 < 0x1130 := by
  rw [gkey_div _ _ hs]
  omega

end Sys2Proof.Machine
end

section
/-!
SUPPORT. O33: the loss of a source (R29, R31, R55) and HOLDOVER (R33).
-/

namespace Sys2Proof.Machine

variable {p q u : Part} {port : EthPort}

/-! ## A source is lost -/

/-- What HOLDOVER keeps at its entry: the error and the time, and the average of the frequency words (R33). -/
def holdClock (p : Part) : TimeSt := { p.time with holdErr := reg p G.timeErrorEst, holdAt := datumNow p, word := heldWord p }

theorem loseSource_steered (h : reg p G.timeState = 1 ∨ reg p G.timeState = 2) : loseSource p = enterTimeState { p with time := holdClock p } 3 :=
  if_pos h

theorem loseSource_idle (h : ¬ (reg p G.timeState = 1 ∨ reg p G.timeState = 2)) : loseSource p = p := if_neg h

theorem recentWords_congr (hw : q.time.words = p.time.words) (hd : datumNow q = datumNow p) : recentWords q = recentWords p := by
  unfold recentWords
  rw [hw, hd]

theorem heldWord_recent (h : recentWords p ≠ []) : heldWord p = ((recentWords p).map (·.2)).sum / (recentWords p).length := if_neg h

/-- A part p that was steered is in HOLDOVER in q, with what that keeps (R32, R33). -/
structure Entered (p q : Part) : Prop where
  state : reg q G.timeState = if reg p G.timeState = 1 ∨ reg p G.timeState = 2 then 3 else reg p G.timeState
  kept  : reg p G.timeState = 1 ∨ reg p G.timeState = 2 → q.time.holdErr = reg p G.timeErrorEst ∧ q.time.holdAt = datumNow p ∧
    (recentWords p ≠ [] → q.time.word = ((recentWords p).map (·.2)).sum / (recentWords p).length)

theorem Entered.congr (h : Entered u q) (hs : reg u G.timeState = reg p G.timeState) (he : reg u G.timeErrorEst = reg p G.timeErrorEst)
    (hd : datumNow u = datumNow p) (hw : u.time.words = p.time.words) : Entered p q := by
  obtain ⟨h1, h2⟩ := h
  rw [hs] at h1 h2
  rw [he, hd, recentWords_congr hw hd] at h2
  exact ⟨h1, h2⟩

/-- The clock but for what the entry of HOLDOVER sets. -/
def besideHold (t : TimeSt) : TimeSt := { t with near := 0, far := 0, holdErr := 0, holdAt := 0, word := 0 }

/-- The loss of the steering source (R32, R33). -/
theorem loseSource_spec (p : Part) :
    Entered p (loseSource p) ∧ TimeFrame [G.timeState] p (loseSource p) ∧ besideHold (loseSource p).time = besideHold p.time ∧
      (loseSource p).fab.producers =
        p.fab.producers ++ (if reg p G.timeState = 1 ∨ reg p G.timeState = 2 then [nowPulse p 0xB81] else []) := by
  by_cases h : reg p G.timeState = 1 ∨ reg p G.timeState = 2
  · have ht := enterTimeState_time { p with time := holdClock p } 3
    have hp := enterTimeState_producers { p with time := holdClock p } 3
    obtain ⟨hf, hs⟩ := enterTimeState_steered { p with time := holdClock p } (s := 3) (by decide)
    have h3 : ¬ reg { p with time := holdClock p } G.timeState = 3 := fun e => by
      have : reg p G.timeState = 3 := e
      omega
    rw [loseSource_steered h]
    refine ⟨⟨hs.trans (if_pos h).symm, fun _ => ?_⟩, ((TimeFrame.refl _ p).time _).trans hf, ?_, ?_⟩
    · rw [ht]
      exact ⟨rfl, rfl, heldWord_recent⟩
    · rw [ht]
      rfl
    · rw [hp, if_pos h, if_neg h3]
      rfl
  · rw [loseSource_idle h]
    exact ⟨⟨(if_neg h).symm, fun g => absurd g h⟩, .refl _ p, rfl, by rw [if_neg h, List.append_nil]⟩

theorem nowPulse_congr {src : Nat} (h : momentOf q = momentOf p) : nowPulse q src = nowPulse p src := by
  simp only [momentOf, Prod.mk.injEq] at h
  rw [nowPulse, h.1, h.2.1, nowPulse]

/-- A flag tells of a lost source, and the clock has noted it (R31, R55). -/
def flagLoss (p : Part) (t : TimeSt) (i : Nat) : Part := setTimeFlag { p with time := t } i

theorem flagLoss_frame (p : Part) (t : TimeSt) (i : Nat) : TimeFrame [G.timeFlags, G.timeSticky] p (flagLoss p t i) :=
  ((TimeFrame.refl _ p).time t).trans (setTimeFlag_frame _ i)

/-- The loss of REFIN or PPS, where the clock keeps its moment and its frequency words. -/
theorem loseSource_flagLoss {t : TimeSt} {i : Nat} (hm : (t.tick, t.cyc, t.datum) = momentOf p) (hw : t.words = p.time.words) :
    let q := loseSource (flagLoss p t i)
    (Entered p q ∧ SameUnits p q ∧
      q.fab.producers = p.fab.producers ++ (if reg p G.timeState = 1 ∨ reg p G.timeState = 2 then [nowPulse p 0xB81] else [])) ∧
      (regBit q G.timeFlags i = true ∧ regBit q G.timeSticky i = true ∧ SameRegs p q [G.timeState, G.timeFlags, G.timeSticky]) ∧
      besideHold q.time = besideHold t := by
  have hf := flagLoss_frame p t i
  have h1 : regBit (flagLoss p t i) G.timeFlags i = true := setTimeFlag_flag ..
  have h2 : regBit (flagLoss p t i) G.timeSticky i = true := setTimeFlag_sticky ..
  have hd : datumNow (flagLoss p t i) = datumNow p := hf.datumNow (by decide) hm
  have hs : reg (flagLoss p t i) G.timeState = reg p G.timeState := hf.regs _ (by decide)
  have hn : nowPulse (flagLoss p t i) 0xB81 = nowPulse p 0xB81 := nowPulse_congr hm
  have hb : (flagLoss p t i).fab = p.fab := rfl
  obtain ⟨he, hq, ht, hp⟩ := loseSource_spec (flagLoss p t i)
  have hall := (hf.mono (m := [G.timeState, G.timeFlags, G.timeSticky]) (by simp)).trans (hq.mono (by simp))
  refine ⟨⟨he.congr hs (hf.regs _ (by decide)) hd hw, hall.units, ?_⟩, ⟨?_, ?_, hall.regs⟩, ht⟩
  · rw [hp, hs, hn, hb]
  · rw [regBit_congr (hq.regs _ (by decide)), h1]
  · rw [regBit_congr (hq.regs _ (by decide)), h2]

/-! ## REFIN -/

theorem loseRefin_eq (p : Part) : loseRefin p = loseSource (flagLoss p { restarted p with refinOut := true } 1) := rfl

theorem loseRefin_idle (h : ¬ (reg p G.timeState = 1 ∨ reg p G.timeState = 2)) : (loseRefin p).time = { restarted p with refinOut := true } := by
  have hs : reg (flagLoss p { restarted p with refinOut := true } 1) G.timeState = reg p G.timeState := (flagLoss_frame _ _ _).regs _ (by decide)
  rw [loseRefin_eq, loseSource_idle (by rw [hs]; exact h)]
  rfl

/-! ## PPS -/

/-- The second that PPS_IN brings next, once one has passed (R31). -/
def nextSecond (p : Part) : Option Nat := p.time.ppsNext.map fun n => (n + 1) % 2 ^ 48

/-- The clock after one more missing edge, and after one more far edge. -/
def missedClock (p : Part) : TimeSt := { p.time with ppsMiss := p.time.ppsMiss + 1, ppsNext := nextSecond p }
def farClock (p : Part) : TimeSt := { p.time with ppsOff := p.time.ppsOff + 1, ppsNext := nextSecond p }

/-- PPS is lost: the next edge is the first again (R31). -/
def unseen (t : TimeSt) : TimeSt := { t with ppsSeen := false }

theorem ppsMissing_otherSource (hs : reg p G.timeSource ≠ 2) : ppsMissing p = p := if_pos hs

theorem ppsMissing_few (hs : reg p G.timeSource = 2) (h : p.time.ppsMiss + 1 < 3) :
    ppsMissing p = { p with time := missedClock p } := by
  unfold ppsMissing
  rw [if_neg (not_not.mpr hs)]
  exact if_neg h.not_ge

theorem ppsMissing_third (hs : reg p G.timeSource = 2) (h : 3 ≤ p.time.ppsMiss + 1) :
    ppsMissing p = loseSource (flagLoss p (unseen (missedClock p)) 2) := by
  unfold ppsMissing
  rw [if_neg (not_not.mpr hs)]
  exact if_pos h

section
variable {err dev : Int} (hs : reg p G.timeSource = 2) (hn : p.time.ppsNext ≠ none) (hseen : p.time.ppsSeen = true) (hfar : 65536000 < |dev|)
include hs hn hseen hfar

/-- An edge far from its prediction is counted, and the expected second moves on (R31). -/
theorem ppsEdge_far :
    ppsEdge p err dev =
      if 3 ≤ p.time.ppsOff + 1 then loseSource (flagLoss p (unseen (farClock p)) 2) else { p with time := farClock p } := by
  obtain ⟨n, hn⟩ := Option.ne_none_iff_exists'.mp hn
  unfold ppsEdge farClock nextSecond
  rw [if_neg (not_not.mpr hs), hn]
  exact if_pos (by rw [hseen, decide_eq_true hfar]; rfl)

theorem ppsEdge_farFew (h : p.time.ppsOff + 1 < 3) : ppsEdge p err dev = { p with time := farClock p } := by
  rw [ppsEdge_far hs hn hseen hfar, if_neg h.not_ge]

theorem ppsEdge_farThird (h : 3 ≤ p.time.ppsOff + 1) : ppsEdge p err dev = loseSource (flagLoss p (unseen (farClock p)) 2) := by
  rw [ppsEdge_far hs hn hseen hfar, if_pos h]

end

theorem ppsNext_of_hold {t t' : TimeSt} (h : besideHold t = besideHold t') : t.ppsNext = t'.ppsNext :=
  show (besideHold t).ppsNext = (besideHold t').ppsNext from congrArg _ h
theorem ppsSeen_of_hold {t t' : TimeSt} (h : besideHold t = besideHold t') : t.ppsSeen = t'.ppsSeen :=
  show (besideHold t).ppsSeen = (besideHold t').ppsSeen from congrArg _ h
theorem refinOut_of_hold {t t' : TimeSt} (h : besideHold t = besideHold t') : t.refinOut = t'.refinOut :=
  show (besideHold t).refinOut = (besideHold t').refinOut from congrArg _ h

theorem masterOn_of_hold (h : besideHold q.time = besideHold p.time) (port : EthPort) : masterOn q port = masterOn p port := by
  have ha : q.time.masterA = p.time.masterA := show (besideHold q.time).masterA = (besideHold p.time).masterA from congrArg _ h
  have hb : q.time.masterB = p.time.masterB := show (besideHold q.time).masterB = (besideHold p.time).masterB from congrArg _ h
  unfold masterOn
  rw [ha, hb]

/-! ## The PTP master -/

/-- The partner that a lost master was is marked lost, and PARTNER_LOST asserts (R88). -/
def losesPartner (p : Part) (m : PtpAnnounce) (cyc : Nat) : Part :=
  match partnerSlot p 1 (m.gmIdentity % 2 ^ 64) with
  | some i => losePartner p i cyc
  | none => raiseNow (atCyc p cyc) 0xB82

theorem loseMaster_none (cyc : Nat) (h : masterOn p port = none) : loseMaster p port cyc = atCyc p cyc := by
  unfold loseMaster
  rw [h]

/-- The source that is lost with a master, where no other is selected. -/
def loseSelected (p : Part) : Part := if reg p G.timeSource = 1 ∧ reg p G.ptpSelected = 0 then loseSource p else p

theorem losesPartner_spec (p : Part) (m : PtpAnnounce) (cyc : Nat) :
    PartnersMove p (losesPartner p m cyc) ∧ (losesPartner p m cyc).time = (atCyc p cyc).time ∧
      (losesPartner p m cyc).fab.producers = p.fab.producers ++ [nowPulse (atCyc p cyc) 0xB82] := by
  unfold losesPartner
  split
  · rename_i i hi
    have hm : PartnersMove p (setReg p (G.pState i) 1) :=
      PartnersMove.setReg ⟨rfl, rfl, rfl, fun _ _ => rfl⟩ (partnerKey (partnerSlot_lt hi) (by decide)) 1
    exact ⟨⟨rfl, rfl, rfl, hm.regs⟩, rfl, raiseNow_producers _ _⟩
  · exact ⟨⟨rfl, rfl, rfl, fun _ _ => rfl⟩, rfl, raiseNow_producers _ _⟩

theorem masterOn_of_time (h : q.time = p.time) (port : EthPort) : masterOn q port = masterOn p port := by
  unfold masterOn
  rw [h]

theorem momentOf_of_masters (h : besideMasters q.time = besideMasters p.time) : momentOf q = momentOf p := by
  have hm := congrArg (fun t : TimeSt => (t.tick, t.cyc, t.datum)) h
  exact hm
theorem words_of_masters (h : besideMasters q.time = besideMasters p.time) : q.time.words = p.time.words :=
  show (besideMasters q.time).words = (besideMasters p.time).words from congrArg _ h

/-- The master of a port is lost in core cycle cyc, and the selection is made anew (R29, R88). -/
def forget (p : Part) (port : EthPort) (m : PtpAnnounce) (cyc : Nat) : Part := setMaster (losesPartner p m cyc) port none

theorem loseMaster_some {m : PtpAnnounce} (cyc : Nat) (h : masterOn p port = some m) :
    loseMaster p port cyc = loseSelected (forget p port m cyc) := by
  unfold loseMaster
  split
  · rename_i hn
    exact absurd (h.symm.trans hn) nofun
  · rename_i x hx
    cases h.symm.trans hx
    rfl

/-- What forgetting the master of a port leaves. -/
structure Forgets (p q : Part) (port : EthPort) (cyc : Nat) : Prop where
  regs      : ∀ k, k ∉ selectKeys ∧ (k / 256 < 0x1100 ∨ 0x1130 ≤ k / 256) → reg q k = reg p k
  same      : masterOn q port = none
  other     : masterOn q (otherPort port) = masterOn p (otherPort port)
  selected  : reg q G.ptpSelected = selectPort q
  state     : reg q G.ptpState = if selectPort q = 0 then 4 else 9
  moved     : reg p G.ptpSelected ≠ 0 → selectPort q ≠ 0 → selectPort q ≠ reg p G.ptpSelected → q.time.moved = true
  beside    : besideMasters q.time = besideMasters (atCyc p cyc).time
  producers : q.fab.producers = p.fab.producers ++ [nowPulse (atCyc p cyc) 0xB82]
  units     : q.mem = p.mem ∧ q.seqs = p.seqs ∧ q.plans = p.plans

theorem forget_spec (p : Part) (port : EthPort) (m : PtpAnnounce) (cyc : Nat) : Forgets p (forget p port m cyc) port cyc := by
  obtain ⟨hp, ht, hr⟩ := losesPartner_spec p m cyc
  have hs := setMaster_spec (losesPartner p m cyc) port none
  obtain ⟨-, hm, hq, hl, -⟩ := hs.frame.units.kept
  refine ⟨fun k hk => (hs.frame.regs k hk.1).trans (hp.regs k hk.2), hs.same, ?_, hs.selected, hs.state, ?_, ?_, ?_, hm.trans hp.mem,
    hq.trans hp.seqs, hl.trans hp.plans⟩
  · rw [forget, hs.other]
    exact masterOn_of_time (p := atCyc p cyc) ht _
  · rw [← hp.regs G.ptpSelected (by decide)]
    exact hs.moved
  · rw [← ht]
    exact hs.beside
  · rw [← hr]
    exact congrArg FabSt.producers hs.fab

section
variable {cyc : Nat} (h : Forgets p q port cyc)
include h

theorem Forgets.on {l : List Nat} (hl : ∀ k ∈ l, k ∉ selectKeys ∧ (k / 256 < 0x1100 ∨ 0x1130 ≤ k / 256)) : ∀ k ∈ l, reg q k = reg p k :=
  fun k hk => h.regs k (hl k hk)
theorem Forgets.elect : ∀ k ∈ electKeys, reg q k = reg p k := h.on (by decide)
theorem Forgets.timeState : reg q G.timeState = reg p G.timeState := h.regs _ (by decide)
theorem Forgets.timeSource : reg q G.timeSource = reg p G.timeSource := h.regs _ (by decide)
theorem Forgets.heardOn_other : heardOn q (otherPort port) = heardOn p (otherPort port) := heardOn_congr h.elect h.timeState h.other
theorem Forgets.moment : momentOf q = momentOf (atCyc p cyc) := momentOf_of_masters h.beside
theorem Forgets.datumNow : datumNow q = datumNow (atCyc p cyc) :=
  datumNow_congr h.moment (h.on (by decide))

/-- With no master on the other port none is selected. -/
theorem Forgets.none_selected (ho : heardOn p (otherPort port) = none) : selectPort q = 0 := by
  have hother := h.heardOn_other.trans ho
  refine selectPort_eq_zero.mpr ?_
  cases port
  · exact ⟨heardOn_of_masterOn_none h.same, hother⟩
  · exact ⟨hother, heardOn_of_masterOn_none h.same⟩

end

/-- A part whose selected master is lost, and no other is heard, is left by its source (R29). -/
theorem loseMaster_last {cyc : Nat} (hm : masterOn p port ≠ none) (hs : reg p G.timeSource = 1) (ho : heardOn p (otherPort port) = none) :
    let q := loseMaster p port cyc
    let steered := reg p G.timeState = 1 ∨ reg p G.timeState = 2
    Entered (atCyc p cyc) q ∧ reg q G.ptpSelected = 0 ∧ masterOn q port = none ∧
      q.fab.producers = p.fab.producers ++ nowPulse (atCyc p cyc) 0xB82 :: (if steered then [nowPulse (atCyc p cyc) 0xB81] else []) := by
  obtain ⟨m, hm⟩ := Option.ne_none_iff_exists'.mp hm
  have hf := forget_spec p port m cyc
  dsimp only
  rw [loseMaster_some cyc hm]
  generalize forget p port m cyc = b at hf ⊢
  have h0 : reg b G.ptpSelected = 0 := hf.selected.trans (hf.none_selected ho)
  have hl : loseSelected b = loseSource b := if_pos ⟨hf.timeSource.trans hs, h0⟩
  obtain ⟨he, hq, hb, hp⟩ := loseSource_spec b
  rw [hl]
  refine ⟨he.congr hf.timeState (hf.regs _ (by decide)) hf.datumNow (words_of_masters hf.beside), ?_, ?_, ?_⟩
  · rw [hq.regs _ (by decide), h0]
  · rw [← hf.same]
    exact masterOn_of_hold hb port
  · rw [hp, hf.producers, hf.timeState, nowPulse_congr hf.moment, List.append_assoc]
    rfl

/-! ## HOLDOVER_LIMIT -/

theorem judgeHoldover_idle (h : ¬ (reg p G.timeState = 3 ∧ reg p G.holdoverLimit * 1000 < holdEstimate p)) : judgeHoldover p = p := if_neg h

/-- Past its limit HOLDOVER ends in FREE (R33). -/
theorem judgeHoldover_free {c : Nat} (hc : p.time.cyc = c) (hs : reg p G.timeState = 3) (h : reg p G.holdoverLimit * 1000 < holdEstimate p) :
    let q := judgeHoldover p
    SameUnits p q ∧ SameRegs p q [G.timeState, G.timeErrorEst] ∧ reg q G.timeState = 0 ∧ reg q G.timeErrorEst = 0xFFFFFFFF ∧ Raised p q c 0xB81 := by
  have hp := enterTimeState_producers p 0
  obtain ⟨hf, h0, he⟩ := enterTimeState_free p
  rw [if_neg (by rw [hs]; decide)] at hp
  have hq : judgeHoldover p = enterTimeState p 0 := if_pos ⟨hs, h⟩
  dsimp only
  rw [hq]
  refine ⟨hf.units, hf.regs, h0, he, ?_⟩
  unfold Raised
  rw [hp, nowPulse, hc]

theorem exec_refinLost (c : Cyc) (s : State) : exec (.refinLost c) s = lift (fun p => loseRefin (atCyc p c)) s := by unfold exec; rfl
theorem exec_ppsInMissing (c : Cyc) (s : State) : exec (.ppsInMissing c) s = lift (fun p => ppsMissing (atCyc p c)) s := by unfold exec; rfl
theorem exec_ptpMasterLost (port : EthPort) (c : Cyc) (s : State) :
    exec (.ptpMasterLost port c) s = lift (fun p => loseMaster p port c) s := by unfold exec; rfl
theorem exec_holdoverLimit (c : Cyc) (s : State) : exec (.holdoverLimit c) s = lift (fun p => judgeHoldover (atCyc p c)) s := by unfold exec; rfl

/-- Settles O33: every loss flags its source and runs loseSource, whose lemma says what HOLDOVER keeps. -/
theorem lostSourcesLeadToHoldover : Obligations.LostSourcesLeadToHoldover := by
  unfold Obligations.LostSourcesLeadToHoldover
  intro s c hw
  refine ⟨?_, fun hs => ⟨fun h => ?_, fun h => ?_, fun err dev hn hseen hfar => ⟨fun h => ?_, fun h => ?_⟩⟩, fun hs => ⟨?_, fun err dev => ?_⟩,
    fun port => ⟨fun hm hs ho => ?_, fun hm => ?_⟩, fun h3 => ?_, fun h3 => ⟨?_, fun h => ?_, fun h => ?_⟩⟩
  · obtain ⟨⟨he, hu, hp⟩, hf, ht⟩ :=
      loseSource_flagLoss (p := atCyc s.part c) (t := { restarted (atCyc s.part c) with refinOut := true }) (i := 1) rfl rfl
    refine ⟨loseRefin (atCyc s.part c), exec_next (exec_refinLost c s) hw rfl, ⟨⟨he.state, he.kept⟩, hu, hp⟩, hf, refinOut_of_hold ht,
      fun h3 => ?_⟩
    rw [loseRefin_idle (by omega)]
    exact ⟨rfl, rfl⟩
  · exact exec_next (exec_ppsInMissing c s) hw (ppsMissing_few hs h)
  · obtain ⟨⟨he, hu, hp⟩, hf, ht⟩ := loseSource_flagLoss (p := atCyc s.part c) (t := unseen (missedClock (atCyc s.part c))) (i := 2) rfl rfl
    exact ⟨_, exec_next (exec_ppsInMissing c s) hw (ppsMissing_third hs h), ⟨⟨he.state, he.kept⟩, hu, hp⟩, hf,
      ppsNext_of_hold ht, ppsSeen_of_hold ht⟩
  · exact exec_next (exec_ppsInEdge err dev c s) hw (ppsEdge_farFew hs hn hseen hfar h)
  · obtain ⟨⟨he, hu, hp⟩, hf, ht⟩ := loseSource_flagLoss (p := atCyc s.part c) (t := unseen (farClock (atCyc s.part c))) (i := 2) rfl rfl
    exact ⟨_, exec_next (exec_ppsInEdge err dev c s) hw (ppsEdge_farThird hs hn hseen hfar h), ⟨⟨he.state, he.kept⟩, hu, hp⟩, hf,
      ppsNext_of_hold ht, ppsSeen_of_hold ht⟩
  · exact exec_next (exec_ppsInMissing c s) hw (ppsMissing_otherSource hs)
  · exact exec_next (exec_ppsInEdge err dev c s) hw (ppsEdge_otherSource hs)
  · obtain ⟨he, h0, hn, hp⟩ := loseMaster_last (p := s.part) (cyc := c) hm hs ho
    exact ⟨_, exec_next (exec_ptpMasterLost port c s) hw rfl, ⟨he.state, he.kept⟩, h0, hn, hp⟩
  · exact exec_next (exec_ptpMasterLost port c s) hw (loseMaster_none c hm)
  · exact exec_next (exec_holdoverLimit c s) hw (judgeHoldover_idle fun h => h3 h.1)
  · exact if_pos h3
  · exact exec_next (exec_holdoverLimit c s) hw (judgeHoldover_idle fun hl => absurd h hl.2.not_ge)
  · exact ⟨_, exec_next (exec_holdoverLimit c s) hw rfl, judgeHoldover_free (p := atCyc s.part c) rfl h3 h⟩

end Sys2Proof.Machine
end

section
/-!
SUPPORT. O34: the best master of the PTP ports (R28, R29, R88, R89) and the Announce of a master port (R30).
-/

namespace Sys2Proof.Machine

variable {p q : Part} {port : EthPort}

/-! ## PTP messages that are not for the part -/

theorem ptpMessage_unsupported {h : PtpHead} (f : Part → Part) (he : ptpEnabled p port = true) (hh : h.unsupported = true ∨ 127 < h.domain) :
    ptpMessage p port h f = countPtp p port := by
  unfold ptpMessage
  rw [if_neg (by simp [he]), if_pos hh]

/-- A message of another domain, transport or profile, or on a port that is not enabled, changes nothing (R28). -/
theorem ptpMessage_foreign {h : PtpHead} (f : Part → Part)
    (hh : ptpEnabled p port = false ∨ (h.unsupported = false ∧ h.domain ≤ 127 ∧
      ¬ (h = ⟨reg p G.ptpDomain, reg p G.ptpTransport, reg p G.ptpProfile, false⟩ ∧ h.domain ≤ 127))) : ptpMessage p port h f = p := by
  unfold ptpMessage
  rcases hh with he | ⟨hu, hd, ho⟩
  · rw [if_pos (by simp [he])]
  · split
    · rfl
    · rw [if_neg (by simp [hu, hd]), if_neg]
      rintro ⟨h1, h2, h3⟩
      exact ho ⟨by rw [← h1, ← h2, ← h3, ← hu], hd⟩

/-! ## The partner that is heard -/

/-- Partner i is heard: its entries are written (Table 03-18). -/
def notePartner (p : Part) (kind identity address port role i : Nat) : Part :=
  let q := { p with pl := { p.pl with heard := kput i (datumNow p) p.pl.heard, lost := p.pl.lost.filter fun j => decide (j ≠ i) } }
  let q := setReg (setReg (setReg q (G.pKind i) kind) (G.pIdentity i) identity) (G.pAddress i) address
  setReg (setReg (setReg (setReg q (G.pPort i) port) (G.pLastTick i) q.time.tick) (G.pState i) 0) (G.pRole i) role

/-- The place of a partner: its own, or a free one (R89). -/
def PartnerAt (p : Part) (kind identity i : Nat) : Prop :=
  partnerSlot p kind identity = some i ∨ (partnerSlot p kind identity = none ∧ freeSlot p = some i)

theorem PartnerAt.lt {kind identity i : Nat} (h : PartnerAt p kind identity i) : i < 32 := h.elim partnerSlot_lt fun g => freeSlot_lt g.2

theorem hearPartner_at {kind identity i : Nat} (address prt role : Nat) (h : PartnerAt p kind identity i) :
    hearPartner p kind identity address prt role = notePartner p kind identity address prt role i := by
  unfold hearPartner
  rcases h with h | ⟨h, hf⟩
  · rw [h]
    rfl
  · rw [h, hf]
    rfl

theorem hearPartner_full {kind identity : Nat} (address prt role : Nat) (h : ∀ i, ¬ PartnerAt p kind identity i) :
    hearPartner p kind identity address prt role = addReg p G.partnersDropped 1 := by
  unfold hearPartner
  cases hs : partnerSlot p kind identity with
  | some i => exact absurd (.inl hs) (h i)
  | none =>
    cases hf : freeSlot p with
    | some i => exact absurd (.inr ⟨hs, hf⟩) (h i)
    | none => rfl

theorem gkey_eq_iff (i s t : Nat) : gkey i s = gkey i t ↔ s = t := by
  unfold gkey
  omega

theorem notePartner_moves {i : Nat} (p : Part) (kind identity address prt role : Nat) (hi : i < 32) :
    PartnersMove p (notePartner p kind identity address prt role i) := by
  have h0 : PartnersMove p
      { p with pl := { p.pl with heard := kput i (datumNow p) p.pl.heard, lost := p.pl.lost.filter fun j => decide (j ≠ i) } } :=
    ⟨rfl, rfl, rfl, fun _ _ => rfl⟩
  have h3 := ((h0.setReg (k := G.pKind i) (partnerKey hi (by decide)) kind).setReg (k := G.pIdentity i) (partnerKey hi (by decide)) identity).setReg
    (k := G.pAddress i) (partnerKey hi (by decide)) address
  exact (((h3.setReg (k := G.pPort i) (partnerKey hi (by decide)) prt).setReg (k := G.pLastTick i) (partnerKey hi (by decide)) p.time.tick).setReg
    (k := G.pState i) (partnerKey hi (by decide)) 0).setReg (k := G.pRole i) (partnerKey hi (by decide)) role

/-- What is written of a partner stands: its entries have different subindices. -/
theorem notePartner_regs (p : Part) (kind identity address prt role i : Nat) :
    let q := notePartner p kind identity address prt role i
    reg q (G.pKind i) = kind ∧ reg q (G.pIdentity i) = identity ∧ reg q (G.pState i) = 0 := by
  simp [notePartner, reg_setReg, G.pKind, G.pIdentity, G.pAddress, G.pPort, G.pLastTick, G.pState, G.pRole, gkey_eq_iff]

/-- A partner that is heard moves partners alone, and takes its place (R89). -/
theorem hearPartner_spec (p : Part) (kind identity address prt role : Nat) :
    let q := hearPartner p kind identity address prt role
    PartnersMove p q ∧ q.time = p.time ∧
      ∀ i, PartnerAt p kind identity i → reg q (G.pKind i) = kind ∧ reg q (G.pIdentity i) = identity ∧ reg q (G.pState i) = 0 := by
  dsimp only
  by_cases h : ∃ i, PartnerAt p kind identity i
  · obtain ⟨i, hi⟩ := h
    rw [hearPartner_at address prt role hi]
    refine ⟨notePartner_moves _ _ _ _ _ _ hi.lt, rfl, fun j hj => ?_⟩
    rw [← hearPartner_at address prt role hi, hearPartner_at address prt role hj]
    exact notePartner_regs ..
  · have hn : ∀ i, ¬ PartnerAt p kind identity i := fun i hi => h ⟨i, hi⟩
    rw [hearPartner_full address prt role hn]
    exact ⟨(PartnersMove.mk rfl rfl rfl fun _ _ => rfl).setReg (by decide) _, rfl, fun i hi => absurd hi (hn i)⟩

theorem partnerSlot_congr {kind identity : Nat} (hr : ∀ i s, i < 32 → s < 256 → reg q (gkey (0x1110 + i) s) = reg p (gkey (0x1110 + i) s)) :
    partnerSlot q kind identity = partnerSlot p kind identity := by
  refine List.find?_congr fun i hi => decide_eq_decide.mpr ?_
  have hi := List.mem_range.mp hi
  rw [show reg q (G.pKind i) = reg p (G.pKind i) from hr i 1 hi (by decide),
    show reg q (G.pIdentity i) = reg p (G.pIdentity i) from hr i 2 hi (by decide)]

theorem freeSlot_congr (hl : q.pl = p.pl) (hr : ∀ i s, i < 32 → s < 256 → reg q (gkey (0x1110 + i) s) = reg p (gkey (0x1110 + i) s)) :
    freeSlot q = freeSlot p := by
  have hk : ((List.range 32).find? fun i => decide (reg q (G.pKind i) = 0)) = (List.range 32).find? fun i => decide (reg p (G.pKind i) = 0) := by
    refine List.find?_congr fun i hi => ?_
    rw [show reg q (G.pKind i) = reg p (G.pKind i) from hr i 1 (List.mem_range.mp hi) (by decide)]
  have hs : (q.pl.lost.find? fun i => decide (i < 32 ∧ reg q (G.pState i) = 1)) = p.pl.lost.find? fun i => decide (i < 32 ∧ reg p (G.pState i) = 1) := by
    rw [hl]
    refine List.find?_congr fun i _ => decide_eq_decide.mpr (and_congr_right fun hi => ?_)
    rw [show reg q (G.pState i) = reg p (G.pState i) from hr i 7 hi (by decide)]
  unfold freeSlot
  rw [hk, hs]

/-- The place of a partner depends on the entries of partners and on what is lost alone. -/
theorem partnerAt_congr {kind identity i : Nat} (hl : q.pl = p.pl)
    (hr : ∀ i s, i < 32 → s < 256 → reg q (gkey (0x1110 + i) s) = reg p (gkey (0x1110 + i) s)) :
    PartnerAt q kind identity i ↔ PartnerAt p kind identity i := by
  unfold PartnerAt
  rw [partnerSlot_congr hr, freeSlot_congr hl hr]

/-! ## A master is heard -/

/-- What the selection of a port shows of the masters heard, from a part p before (R29). -/
structure Chosen (p q : Part) (port : EthPort) : Prop where
  selected : reg q G.ptpSelected = selectPort q
  state    : reg q G.ptpState = if selectPort q = 0 then 4 else 9
  moved    : reg p G.ptpSelected ≠ 0 → selectPort q ≠ 0 → selectPort q ≠ reg p G.ptpSelected → q.time.moved = true
  other    : masterOn q (otherPort port) = masterOn p (otherPort port)
  units    : q.mem = p.mem ∧ q.seqs = p.seqs ∧ q.plans = p.plans

theorem partnerKey_unselected {i s : Nat} (hi : i < 32) (hs : s < 256) : gkey (0x1110 + i) s ∉ selectKeys := by
  intro hm
  have hd := (by decide : ∀ k ∈ selectKeys, 0x1200 ≤ k / 256) _ hm
  rw [gkey_div _ _ hs] at hd
  omega

/-- The heard master of a port, and its partner (R29, R89). -/
theorem hearMaster_spec (p : Part) (port : EthPort) (r : PtpAnnounce) :
    let q := hearMaster p port r
    masterOn q port = some r ∧ Chosen p q port ∧
      (reg q G.ptpSelected = (if port = .a then 1 else 2) → reg q G.ptpGmIdentity = r.gmIdentity % 2 ^ 64 ∧
        reg q G.ptpStepsRemoved = r.stepsRemoved % 2 ^ 16) ∧
      (∀ i, PartnerAt p 1 (r.gmIdentity % 2 ^ 64) i →
        reg q (G.pKind i) = 1 ∧ reg q (G.pIdentity i) = r.gmIdentity % 2 ^ 64 ∧ reg q (G.pState i) = 0) ∧
      reg q G.timeState = reg p G.timeState := by
  have hs := setMaster_spec p port (some r)
  obtain ⟨hpl, hm, hq, hl, -⟩ := hs.frame.units.kept
  unfold hearMaster
  generalize setMaster p port (some r) = b at hs hpl hm hq hl ⊢
  obtain ⟨hp, ht, hw⟩ := hearPartner_spec b 1 (r.gmIdentity % 2 ^ 64) 0 (if port = .a then 1 else 2) 0
  generalize hearPartner b _ _ _ _ _ = q at hp ht hw ⊢
  have hk : ∀ k ∈ electKeys, reg q k = reg b k := hp.on (by decide)
  have hst : reg q G.timeState = reg b G.timeState := hp.regs _ (by decide)
  have hsel : selectPort q = selectPort b :=
    selectPort_congr (heardOn_congr hk hst (masterOn_of_time ht _)) (heardOn_congr hk hst (masterOn_of_time ht _))
  have hsp : reg q G.ptpSelected = selectPort b := (hp.regs _ (by decide)).trans hs.selected
  refine ⟨(masterOn_of_time ht _).trans hs.same, ⟨?_, ?_, ?_, ?_, hp.mem.trans hm, hp.seqs.trans hq, hp.plans.trans hl⟩, fun h => ?_,
    fun i hi => ?_, ?_⟩
  · rw [hsp, hsel]
  · rw [hsel, ← hs.state]
    exact hp.regs _ (by decide)
  · rw [hsel, ht]
    exact hs.moved
  · exact (masterOn_of_time ht _).trans hs.other
  · rw [hp.regs G.ptpGmIdentity (by decide), hp.regs G.ptpStepsRemoved (by decide)]
    exact hs.told r rfl (hsp.symm.trans h)
  · exact hw i ((partnerAt_congr hpl fun j s hj hs' => hs.frame.regs _ (partnerKey_unselected hj hs')).mpr hi)
  · exact hst.trans (hs.frame.regs _ (by decide))

/-! ## A master is lost -/

theorem masterAt_iff (p : Part) (port : EthPort) :
    masterAt p port = true ↔ reg p G.ptpRole = 1 ∧ ptpEnabled p port = true ∧
      (reg p G.timeSource = 1 → ∀ r, masterOn p port = some r → ownRank p < rankOf r) := by
  unfold masterAt
  cases masterOn p port <;> simp [and_assoc, Classical.or_iff_not_imp_left]

theorem heardOn_some {r : PtpAnnounce} (hm : masterOn p port = some r) :
    heardOn p port = none ↔ ¬ (ptpEnabled p port = true ∧ ¬ masterAt p port = true) := by
  unfold heardOn
  rw [hm]
  simp

/-- In HOLDOVER the part advertises a better class than while it is steered by PTP (R30), so it ranks higher. -/
theorem ownRank_hold (hr : ∀ k ∈ electKeys, reg q k = reg p k) (hs : reg p G.timeSource = 1) (hst : reg p G.timeState ≠ 3)
    (h3 : reg q G.timeState = 3) : ownRank q < ownRank p := by
  have h1 : reg q G.ptpPriority1 = reg p G.ptpPriority1 := hr _ (by decide)
  have hq : clockClass q = 7 := by simp [clockClass, h3]
  have hp : clockClass p = 248 := by simp [clockClass, hs, hst]
  unfold ownRank
  rw [h1, hq, hp]
  exact List.cons_lt_cons_self.mpr (List.Lex.rel (by decide))

/-- A port that hears no master in a steered Datum hears none in HOLDOVER. -/
theorem loseSource_heardOn (hs : reg p G.timeSource = 1) (h : heardOn p port = none) : heardOn (loseSource p) port = none := by
  obtain ⟨he, hf, hb, -⟩ := loseSource_spec p
  have hm := masterOn_of_hold hb port
  have hk : ∀ k ∈ electKeys, reg (loseSource p) k = reg p k := hf.regs.on (by decide)
  by_cases hst : reg p G.timeState = 1 ∨ reg p G.timeState = 2
  · have h3 := he.state.trans (if_pos hst)
    generalize loseSource p = q at hm hk h3 ⊢
    cases hr : masterOn p port with
    | none => exact heardOn_of_masterOn_none (hm.trans hr)
    | some r =>
      rw [heardOn_some hr] at h
      rw [heardOn_some (hm.trans hr)]
      rintro ⟨hen, hno⟩
      refine h ⟨(ptpEnabled_congr hk port).symm.trans hen, fun ha => hno ?_⟩
      obtain ⟨h1, -, hlt⟩ := (masterAt_iff p port).mp ha
      refine (masterAt_iff q port).mpr ⟨(hk _ (by decide)).trans h1, hen, fun _ x hx => ?_⟩
      rw [hm] at hx
      exact List.lt_trans (ownRank_hold hk hs (by omega) h3) (hlt hs x hx)
  · rw [loseSource_idle hst]
    exact h

theorem loseSelected_idle (h : ¬ (reg p G.timeSource = 1 ∧ reg p G.ptpSelected = 0)) : loseSelected p = p := if_neg h

/-- A lost master is forgotten, and the port selected anew (R29). -/
theorem loseMaster_spec {cyc : Nat} (hm : masterOn p port ≠ none) :
    masterOn (loseMaster p port cyc) port = none ∧ Chosen p (loseMaster p port cyc) port := by
  obtain ⟨m, hm⟩ := Option.ne_none_iff_exists'.mp hm
  have hf := forget_spec p port m cyc
  rw [loseMaster_some cyc hm]
  generalize forget p port m cyc = b at hf ⊢
  have hc : Chosen p b port := ⟨hf.selected, hf.state, hf.moved, hf.other, hf.units⟩
  by_cases h0 : reg b G.timeSource = 1 ∧ reg b G.ptpSelected = 0
  · obtain ⟨-, hq, hb, -⟩ := loseSource_spec b
    obtain ⟨-, hmem, hseqs, hplans, -⟩ := hq.units.kept
    obtain ⟨hna, hnb⟩ := selectPort_eq_zero.mp (hf.selected.symm.trans h0.2)
    have hz : selectPort (loseSource b) = 0 := selectPort_eq_zero.mpr ⟨loseSource_heardOn h0.1 hna, loseSource_heardOn h0.1 hnb⟩
    have hzb : selectPort b = 0 := hf.selected.symm.trans h0.2
    have hl : loseSelected b = loseSource b := if_pos h0
    rw [hl]
    refine ⟨(masterOn_of_hold hb port).trans hf.same, ?_, ?_, fun _ h => absurd hz h, (masterOn_of_hold hb _).trans hf.other, ?_⟩
    · rw [hq.regs _ (by decide), h0.2, hz]
    · rw [hq.regs _ (by decide), hf.state, hzb, hz]
    · exact ⟨hmem.trans hc.units.1, hseqs.trans hc.units.2.1, hplans.trans hc.units.2.2⟩
  · rw [loseSelected_idle h0]
    exact ⟨hf.same, hc⟩

/-! ## The Announce of a master port -/

theorem sendPtpAnnounce_master (h : masterAt p port = true ∧ p.life.recovery = false) :
    sendPtpAnnounce p port = say p (.ptpAnnounce port (clockClass p) (reg p G.ptpPriority1) (reg p G.ptpPriority2)) := if_pos (by simp [h])

theorem sendPtpAnnounce_idle (h : ¬ (masterAt p port = true ∧ p.life.recovery = false)) : sendPtpAnnounce p port = p := if_neg (by simpa using h)

theorem exec_ptpAnnounceReceive (port : EthPort) (h : PtpHead) (r : PtpAnnounce) (s : State) :
    exec (.ptpAnnounceReceive port h r) s = lift (fun p => ptpMessage p port h fun q => hearMaster q port r) s := by unfold exec; rfl
theorem exec_ptpMasterAnnounce (port : EthPort) (s : State) :
    exec (.ptpMasterAnnounce port) s = lift (fun p => sendPtpAnnounce p port) s := by unfold exec; rfl

/-- Settles O34: the selection follows the masters heard, and stands through the loss of the last one; a port announces exactly where it is master. -/
theorem ptpPortsFollowTheBestMaster : Obligations.PtpPortsFollowTheBestMaster := by
  unfold Obligations.PtpPortsFollowTheBestMaster
  intro s port hw
  have hmaster := masterAt_iff s.part port
  refine ⟨fun h r he ho => ?_, fun h r he hu => ?_, fun h r hn => ?_, fun c hm => ?_, fun ha => ?_, fun ha => ?_⟩
  · obtain ⟨hm, hc, ht, hp, hs⟩ := hearMaster_spec s.part port r
    exact ⟨_, exec_next (exec_ptpAnnounceReceive port h r s) hw (ptpMessage_ours _ he ho.1 ho.2), hm,
      ⟨hc.selected, hc.state, hc.moved, hc.other, hc.units⟩, ht, hp, hs⟩
  · exact exec_next (exec_ptpAnnounceReceive port h r s) hw (ptpMessage_unsupported _ he hu)
  · exact exec_next (exec_ptpAnnounceReceive port h r s) hw (ptpMessage_foreign _ hn)
  · obtain ⟨hn, hc⟩ := loseMaster_spec (cyc := c) hm
    exact ⟨_, exec_next (exec_ptpMasterLost port c s) hw rfl, hn, hc.selected, hc.state, hc.moved, hc.other, hc.units⟩
  · obtain ⟨h1, h2, h3, h4⟩ := ha
    exact exec_next (exec_ptpMasterAnnounce port s) hw (sendPtpAnnounce_master ⟨hmaster.mpr ⟨h1, h2, h4⟩, h3⟩)
  · refine exec_next (exec_ptpMasterAnnounce port s) hw (sendPtpAnnounce_idle fun hs => ha ?_)
    obtain ⟨h1, h2, h4⟩ := hmaster.mp hs.1
    exact ⟨h1, h2, hs.2, h4⟩

end Sys2Proof.Machine
end

section
/-!
SUPPORT. The way of a written value through the back end (R58 to R66, R74, R76, R78): what a refused write leaves, and what a taken one.
-/

namespace Sys2Proof.Machine

variable {p q : Part} {path : Path} {i s v k code : Nat} {e : Entry}

theorem exec_wholeWrite (path : Path) (i s v : Nat) (t : State) :
    exec (.gazetteerWrite (.whole path i s v)) t = lift (fun p => commandWrite p path i s v) t := by unfold exec; rfl

/-! ## Values in force that change -/

theorem OnlyRegs.refl (p : Part) (l : List Nat) : OnlyRegs p p l := ⟨rfl, fun _ _ => rfl⟩

theorem OnlyRegs.trans {r : Part} {l : List Nat} (h : OnlyRegs p q l) (g : OnlyRegs q r l) : OnlyRegs p r l := by
  refine ⟨?_, h.2.trans g.2⟩
  have hg := g.1
  rw [h.1] at hg
  exact hg

theorem OnlyRegs.setReg {l : List Nat} (h : OnlyRegs p q l) (hk : k ∈ l) (v : Nat) : OnlyRegs p (setReg q k v) l :=
  h.trans ⟨rfl, SameRegs.setReg (fun _ _ => rfl) hk v⟩

theorem OnlyRegs.mono {l m : List Nat} (h : OnlyRegs p q l) (hl : ∀ k ∈ l, k ∈ m) : OnlyRegs p q m := ⟨h.1, h.2.mono hl⟩

theorem OnlyRegs.adm {l : List Nat} (h : OnlyRegs p q l) : q.adm = p.adm := by rw [h.1]

/-- The entries that record number n of the abort log takes (Table 03-11). -/
def logKeys (n : Nat) : List Nat := [G.logWhen n, G.logWhat n, G.logValue n, G.logNext, G.logTotal]

theorem logAbort_onlyRegs (p : Part) (path : Path) (op c i s v : Nat) :
    OnlyRegs p (logAbort p path op c i s v) (logKeys (reg p G.logNext % 80)) := by
  unfold logAbort logKeys
  exact (((((OnlyRegs.refl p _).setReg (by simp) _).setReg (by simp) _).setReg (by simp) _).setReg (by simp) _).setReg (by simp) _

/-- Between p and q only values in force and staged words differ. -/
def OnlyStaging (p q : Part) : Prop := q = { p with gz := { p.gz with regs := q.gz.regs, stage := q.gz.stage } }

theorem OnlyStaging.refl (p : Part) : OnlyStaging p p := rfl

theorem OnlyStaging.trans {r : Part} (h : OnlyStaging p q) (g : OnlyStaging q r) : OnlyStaging p r := by
  unfold OnlyStaging at h g ⊢
  rw [h] at g
  exact g

theorem OnlyRegs.staging {l : List Nat} (h : OnlyRegs p q l) : OnlyStaging p q := by
  have := h.1
  unfold OnlyStaging
  rw [this]

/-- What waits to take effect is no value in force and no staged word. -/
theorem OnlyStaging.waiting (h : OnlyStaging p q) : q.gz.pend = p.gz.pend ∧ q.gz.bound = p.gz.bound ∧ q.gz.work = p.gz.work := by
  rw [h]
  exact ⟨rfl, rfl, rfl⟩

/-- Discarding staged words changes the abort log and the staging buffer alone (R70). -/
theorem discardStaged_staging (p : Part) (path : Path) (k : Nat) : OnlyStaging p (discardStaged p path k) := by
  unfold discardStaged
  split
  · split
    · exact .refl p
    · exact OnlyStaging.trans (q := { p with gz := { p.gz with stage := none } }) rfl (logAbort_onlyRegs ..).staging
  · exact .refl p

theorem cleared_staging (p : Part) (path : Path) (k : Nat) : OnlyStaging p (cleared p path k) := by
  unfold cleared
  split
  · exact (discardStaged_staging ..).trans rfl
  · exact .refl p

/-- Only BAR0 stages words, so that another path finds the part as it is. -/
theorem cleared_headerPath (p : Part) (h : PlHeader) (k : Nat) : cleared p (headerPath h) k = p := by
  unfold headerPath
  cases h.port <;> rfl

/-! ## Refusals -/

theorem logged_refused (hc : code ≠ 0) (op k v : Nat) :
    logged path op k v (p, .done code) = (logAbort p path op code (k / 256) (k % 256) v, .done code) := by
  cases code with
  | zero => exact absurd rfl hc
  | succ c => rfl

/-- Only a busy posting domain leaves a flag (R76). -/
theorem noteOverrun_other (h : code ≠ 0x0A) : noteOverrun p e k code = p := by
  unfold noteOverrun
  split
  · exact if_neg h
  · rfl

/-- A write that reaches the part and is turned away with a code before its entry is reached: one record (R74, R79). -/
theorem commandWrite_turnedAway (hs : s < 256) (hr : reaches p path i = true) (hc : code ≠ 0)
    (hw : ∀ q, writeAt q path 1 i s v = logged path 1 (gkey i s) v (q, .done code)) :
    commandWrite p path i s v = tell (logAbort (cleared p path (gkey i s)) path 1 code i s v) path code := by
  unfold commandWrite cleared
  rw [hr]
  cases path <;> simp [hw, logged_refused hc, gkey_div i s hs, gkey_mod i s hs]

/-- A write that a check refuses: one record and the overrun flag of a busy domain (R74, R76, R78). -/
theorem commandWrite_refused (hs : s < 256) (hl : lookup i s = .entry e s) (hb : ∀ n, e.ty ≠ .bulk n) (hr : reaches p path i = true)
    (hc : checkWrite (cleared p path (gkey i s)) e (gkey i s) (keptBits e (reg (cleared p path (gkey i s)) (gkey i s)) v) false true = code)
    (hne : code ≠ 0) :
    commandWrite p path i s v =
      tell (logAbort (noteOverrun (cleared p path (gkey i s)) e (gkey i s) code) path 1 code i s v) path code := by
  rw [commandWrite_reach hl hb hr]
  unfold writeEntry
  dsimp only
  rw [hc, if_pos hne, logged_refused hne, gkey_div i s hs, gkey_mod i s hs]

/-- A write refused without a busy domain, as the part finds it and what it leaves. -/
theorem commandWrite_refused_plain (hs : s < 256) (hl : lookup i s = .entry e s) (hb : ∀ n, e.ty ≠ .bulk n) (hr : reaches p path i = true)
    (hc : checkWrite (cleared p path (gkey i s)) e (gkey i s) (keptBits e (reg (cleared p path (gkey i s)) (gkey i s)) v) false true = code)
    (hne : code ≠ 0) (ho : code ≠ 0x0A) :
    commandWrite p path i s v = tell (logAbort (cleared p path (gkey i s)) path 1 code i s v) path code := by
  rw [commandWrite_refused hs hl hb hr hc hne, noteOverrun_other ho]

end Sys2Proof.Machine
end

section
/-!
SUPPORT. O1: a step runs the front command. O6: the lock of the Gazetteer and the refusals of R59 (R66).
-/

namespace Sys2Proof.Machine

variable {p : Part} {path : Path} {k v : Nat} {e : Entry}

/-- Settles O1: both clauses are the two cases of the queue. -/
theorem stepRunsTheFrontCommand : Obligations.StepRunsTheFrontCommand := by
  unfold Obligations.StepRunsTheFrontCommand
  refine ⟨fun c rest s => rfl, fun s h => ?_⟩
  unfold step
  rw [h]

/-- A write-once entry that has been written, or an entry that GZ_LOCK holds (R59, R66). -/
def holdsFast (p : Part) (e : Entry) (k : Nat) : Prop :=
  (e.acc = .wo1 ∧ regBit p G.wo1Written (onceBit k) = true) ∨ lockRefuses p e = true

/-- A check that refuses a write before the lock does: self-test, shadow, range, presence. -/
def refusedEarly (p : Part) (e : Entry) (k w : Nat) : Prop :=
  p.life.test ≠ 0 ∨ (mirrored e k = true ∧ refusesMirrored p = true) ∨ valueOk e w = false ∨ (e.guarded = true ∧ presenceOpen p = false)

theorem checkWrite_ro (ha : e.acc = .ro) (w : Nat) : checkWrite p e k w false true = 3 := if_pos ha

theorem testRefuses_idle (h : p.life.test = 0) : testRefuses p k = false := by simp [testRefuses, h]

theorem holdsFast_check (h : holdsFast p e k) :
    ((decide (e.acc = .wo1) && regBit p G.wo1Written (onceBit k)) || lockRefuses p e) = true := by
  rcases h with ⟨ha, hb⟩ | h
  · simp [ha, hb]
  · simp [h]

/-- What is held fast refuses every write, with the code of an earlier check or its own. -/
theorem checkWrite_held (ha : e.acc ≠ .ro) (h : holdsFast p e k) (w : Nat) :
    checkWrite p e k w false true ∈ [0x0B, 0x0E, 0x06, 0x08, 0x09] := by
  unfold checkWrite
  rw [if_neg ha]
  simp only [holdsFast_check h, if_true]
  split_ifs <;> decide

/-- Where no earlier check refuses, the code is 0x09. -/
theorem checkWrite_held_code (ha : e.acc ≠ .ro) (h : holdsFast p e k) {w : Nat} (hn : ¬ refusedEarly p e k w) :
    checkWrite p e k w false true = 9 := by
  simp only [refusedEarly, not_or, not_and, Bool.not_eq_false, not_not] at hn
  obtain ⟨ht, hm, hv, hg⟩ := hn
  unfold checkWrite
  simp only [holdsFast_check h, if_true]
  rw [if_neg ha, if_neg (by simp [testRefuses_idle ht]), if_neg (by simpa using hm), if_neg (by simp [hv]), if_neg (by simpa using hg)]

/-- Entries that the lock never holds: Live ones, those that are not RW, and GZ_LOCK itself (R66). -/
theorem lockRefuses_free (h : e.cls = .live ∨ e.acc ≠ .rw) : lockRefuses p e = false := by
  unfold lockRefuses
  rcases h with h | h <;> simp [h]

theorem gzLock_live {i s : Nat} (hs : s < 256) (hl : lookup i s = .entry e s) (hk : gkey i s = G.gzLock) : e.cls = .live := by
  have h := entryOf_of hs hl
  rw [hk, show entryOf G.gzLock = some ⟨1, 1, 1, .bool, .rw, .live, 0, .none, true, true, .any, .plain⟩ by decide] at h
  cases h
  rfl

/-- What a refusal by an unbusy check leaves of the part: the answer, every value in force but the log's, and what waits to take effect. -/
theorem refused_leaves {s : State} {path : Path} {i sub v code : Nat} (hw : awake s) (hr : reaches s.part path i = true) (hs : sub < 256)
    (hl : lookup i sub = .entry e sub) (hb : ∀ n, e.ty ≠ .bulk n)
    (hc : checkWrite (cleared s.part path (gkey i sub)) e (gkey i sub)
      (keptBits e (reg (cleared s.part path (gkey i sub)) (gkey i sub)) v) false true = code) (hne : code ≠ 0) (ho : code ≠ 0x0A) :
    let q := logAbort (cleared s.part path (gkey i sub)) path 1 code i sub v
    exec (.gazetteerWrite (.whole path i sub v)) s = .next { s with part := tell q path code } ∧
      (∀ j, j / 256 ≠ 0x1018 → reg q j = reg s.part j) ∧ q.gz.pend = s.part.gz.pend ∧ q.gz.bound = s.part.gz.bound ∧ q.gz.work = s.part.gz.work := by
  refine ⟨exec_next (exec_wholeWrite ..) hw (commandWrite_refused_plain hs hl hb hr hc hne ho), fun j hj => ?_, ?_⟩
  · rw [logAbort_reg _ _ _ _ _ _ _ hj, cleared_reg _ _ _ hj]
  · exact ((cleared_staging ..).trans (logAbort_onlyRegs ..).staging).waiting

/-- Settles O6: the check of what is held fast comes before the posting domain and after the four early ones. -/
theorem theLockRefusesStagedAndFixedWrites : Obligations.TheLockRefusesStagedAndFixedWrites := by
  unfold Obligations.TheLockRefusesStagedAndFixedWrites
  intro s path i sub v e hw hr hs hl hb k p w early refused
  have hleaves {code : Nat} (hc : checkWrite p e k w false true = code) (hne : code ≠ 0) (ho : code ≠ 0x0A) : refused code :=
    refused_leaves hw hr hs hl hb hc hne ho
  have hheld (ha : e.acc ≠ .ro) (h : holdsFast p e k) : (∃ code, code ≠ 0 ∧ refused code) ∧ (¬ early → refused 9) := by
    have hm := checkWrite_held ha h w
    refine ⟨⟨_, ?_, hleaves rfl ?_ ?_⟩, fun hn => hleaves (checkWrite_held_code ha h hn) (by decide) (by decide)⟩ <;>
      (intro h0; rw [h0] at hm; revert hm; decide)
  refine ⟨fun hg ha hc => hheld (by simp [ha]) (.inr ?_), fun ha => hleaves (checkWrite_ro ha w) (by decide) (by decide),
    fun ha ho => hheld (by simp [ha]) (.inl ⟨ha, ho⟩), fun h => lockRefuses_free ?_⟩
  · have hl : reg p G.gzLock = 1 := (cleared_reg _ _ _ (by decide)).trans hg
    exact decide_eq_true ⟨hl, ha, hc⟩
  · rcases h with h | h | h
    · exact .inl h
    · exact .inr h
    · exact .inl (gzLock_live hs hl h)

end Sys2Proof.Machine
end

section
/-!
SUPPORT. O20 and O21: the BAR0 slots with their staging and snapshot buffers (R62, R68 to R74, R78).
-/

namespace Sys2Proof.Machine

variable {p q : Part} {path : Path} {i s f k w x code : Nat} {e : Entry} {be : BitVec 8} {data : BitVec 64}

/-! ## What the staging buffer does not change -/

/-- The part with another content of the staging buffer. -/
def restage (p : Part) (x : Option (Nat × KMap Nat)) : Part := { p with gz := { p.gz with stage := x } }

theorem restage_ite {c : Prop} [Decidable c] (p q : Part) (x : Option (Nat × KMap Nat)) :
    restage (if c then p else q) x = if c then restage p x else restage q x := apply_ite (restage · x) c p q

theorem countEdge_restage (p : Part) (x : Option (Nat × KMap Nat)) (i n : Nat) (b : Bool) :
    countEdge (restage p x) i b n = restage (countEdge p i b n) x := by
  unfold countEdge
  rw [restage_ite]
  rfl

theorem judgePad_restage (p : Part) (x : Option (Nat × KMap Nat)) (i n : Nat) (b : Bool) :
    judgePad (restage p x) i n b = restage (judgePad p i n b) x := by
  unfold judgePad
  extract_lets a
  simp only [restage_ite, ← countEdge_restage]
  rfl

theorem channelValue_restage (p : Part) (x : Option (Nat × KMap Nat)) (i s : Nat) : channelValue (restage p x) i s = channelValue p i s := rfl

theorem unitValue_restage (p : Part) (x : Option (Nat × KMap Nat)) (h : k ≠ G.edgeInUse) : unitValue (restage p x) k = unitValue p k := by
  unfold unitValue
  rw [if_neg h, if_neg h]
  rfl

theorem sharedValue_restage (p : Part) (x : Option (Nat × KMap Nat)) (h : ¬ (0x4000 ≤ i ∧ i < 0x8000 ∧ (s = 3 ∨ s = 4))) :
    sharedValue (restage p x) i s = sharedValue p i s := by
  have hj (n : Nat) (b : Bool) (j : Nat) : reg (judgePad (restage p x) (i % 256) n b) j = reg (judgePad p (i % 256) n b) j := by
    rw [judgePad_restage]
    rfl
  unfold sharedValue
  rw [hj]
  by_cases hi : 0x4000 ≤ i ∧ i < 0x8000
  · simp only [hi, and_self, if_true]
    rw [if_neg (c := s = 3) (by tauto), if_neg (c := s = 3) (by tauto), if_neg (c := s = 4) (by tauto), if_neg (c := s = 4) (by tauto)]
    rfl
  · rw [if_neg hi, if_neg hi]
    rfl

/-- EDGE_IN_USE, SEG_STATE and SEG_USERS, which follow from what the programs use, are entries of one word (Table 05-8, Table 05-9). -/
theorem twoWords_key (he : entryOf k = some e) (hw : commitWord e = 1) :
    k ≠ G.edgeInUse ∧ ¬ (0x4000 ≤ k / 256 ∧ k / 256 < 0x8000 ∧ (k % 256 = 3 ∨ k % 256 = 4)) := by
  refine ⟨?_, ?_⟩
  · rintro rfl
    have h : (entryOf G.edgeInUse).map commitWord = some 0 := by decide
    rw [he, Option.map_some, hw] at h
    cases h
  · rintro ⟨h1, h2, h3⟩
    unfold entryOf lookup at he
    rw [if_neg (by omega), entriesAt_4000 h1 h2] at he
    have h : ∀ s, s = 3 ∨ s = 4 → ∀ e, findEntry s entries4000 = .entry e s → commitWord e = 0 := by
      rintro s (rfl | rfl) e <;> (intro h; cases h; rfl)
    rcases h3 with h3 | h3
    · rw [h3] at he
      cases he
      cases hw
    · rw [h3] at he
      cases he
      cases hw

/-- An entry of two words reads alike whatever is staged (R62, R70). -/
theorem valueAt_restage (p : Part) (x : Option (Nat × KMap Nat)) (he : entryOf k = some e) (hw : commitWord e = 1) :
    valueAt (restage p x) e k = valueAt p e k := by
  obtain ⟨hu, hs⟩ := twoWords_key he hw
  unfold valueAt
  rw [unitValue_restage p x hu, channelValue_restage, sharedValue_restage p x hs]
  rfl

/-! ## The accesses that reach the part -/

theorem exec_slotWrite (r slot : Nat) (be : BitVec 8) (data : BitVec 64) (t : State) :
    exec (.gazetteerWrite (.slot r slot be data)) t = lift (fun p => barWrite p (.bar0 r) (slot / 256) (slot % 256) be data) t := by unfold exec; rfl
theorem exec_stagedWord (r slot : Nat) (high : Bool) (data : BitVec 32) (t : State) :
    exec (.bar0StagedWordWrite r slot high data) t = lift (fun p =>
      if high then barWrite p (.bar0 r) (slot / 256) (slot % 256) 0xF0 (BitVec.ofNat 64 (data.toNat * 2 ^ 32))
      else barWrite p (.bar0 r) (slot / 256) (slot % 256) 0x0F (BitVec.ofNat 64 data.toNat)) t := by unfold exec; rfl
theorem exec_snapshotRead (r slot : Nat) (be : BitVec 8) (t : State) :
    exec (.bar0SnapshotRead r slot be) t = lift (fun p => barRead p (.bar0 r) (slot / 256) (slot % 256) be) t := by unfold exec; rfl
theorem exec_crossing (r slot : Nat) (write : Bool) (data : Nat) (t : State) :
    exec (.bar0CrossingAccess r slot write data) t = lift (fun p => barCrossing p (.bar0 r) (slot / 256) (slot % 256) write data) t := by
  unfold exec; rfl
theorem exec_unsupported (r : Nat) (t : State) :
    exec (.bar0UnsupportedRequest r) t = lift (fun p => if barDead p then p else say p (.read .unsupported)) t := by unfold exec; rfl
theorem exec_writeOnlyRead (r slot : Nat) (t : State) :
    exec (.writeOnlyRead r slot) t = lift (fun p => barRead p (.bar0 r) (slot / 256) (slot % 256) 0xFF) t := by unfold exec; rfl

variable {r : Nat}

/-- BAR0 reaches the part while the host is not lost, and in boot recovery only where it serves (R268, R348). -/
theorem reaches_bar0 (h : reaches p (.bar0 r) i = true) : barDead p = false ∧ ¬ (p.life.recovery = true ∧ (!recoveryServes i) = true) := by
  simp only [reaches, Bool.and_eq_true, Bool.not_eq_true', Bool.or_eq_true] at h
  obtain ⟨hd, hs⟩ := h
  refine ⟨hd, fun hn => ?_⟩
  rcases hs with hs | hs <;> simp [hs] at hn

/-- A write over BAR0 of a value that is not refused before its entry is answered to nobody (R74). -/
theorem commandWrite_bar0 (hl : lookup i s = .entry e s) (hb : ∀ n, e.ty ≠ .bulk n) (hr : reaches p (.bar0 r) i = true) (v : Nat) :
    commandWrite p (.bar0 r) i s v = (writeEntry (cleared p (.bar0 r) (gkey i s)) (.bar0 r) 1 true e (gkey i s) v).1 := by
  rw [commandWrite_reach hl hb hr]
  cases writeEntry _ _ _ _ _ _ _ with
  | mk q c => cases c <;> rfl

/-! ## Staged words -/

/-- A write within the slots of an entry, by its byte enables (R69, R70). -/
theorem barWrite_entry (hr : reaches p (.bar0 r) i = true) (hl : lookup i s = .entry e f ∨ lookup i s = .cont e f) (hb : ∀ n, e.ty ≠ .bulk n)
    (hbe : be ≠ 0) :
    let q := discardStaged p (.bar0 r) (gkey i f)
    let word (p : Part) (w x : Nat) : Part := barWord p (.bar0 r) e (gkey i f) w x
    let w := 2 * (s - f)
    barWrite p (.bar0 r) i s be data =
      if be = 0xFF then word (word q w (data.toNat % 2 ^ 32)) (w + 1) (data.toNat / 2 ^ 32)
      else if be = 0x0F then word q w (data.toNat % 2 ^ 32)
      else if be = 0xF0 then word q (w + 1) (data.toNat / 2 ^ 32)
      else narrowWrite q (.bar0 r) e (gkey i f) be data := by
  obtain ⟨hd, hs⟩ := reaches_bar0 hr
  unfold barWrite
  rw [if_neg (by rw [hd]; simp only [Bool.false_eq_true, false_or, not_or]; exact ⟨hs, hbe⟩)]
  rcases hl with hl | hl <;>
  · rw [hl]
    dsimp only
    split
    · rename_i h
      exact absurd h (hb _)
    · rfl

theorem barWrite_low (hr : reaches p (.bar0 r) i = true) (hl : lookup i s = .entry e f ∨ lookup i s = .cont e f) (hb : ∀ n, e.ty ≠ .bulk n) :
    barWrite p (.bar0 r) i s 0x0F data =
      barWord (discardStaged p (.bar0 r) (gkey i f)) (.bar0 r) e (gkey i f) (2 * (s - f)) (data.toNat % 2 ^ 32) := by
  rw [barWrite_entry hr hl hb (by decide), if_neg (by decide), if_pos rfl]

theorem barWrite_high (hr : reaches p (.bar0 r) i = true) (hl : lookup i s = .entry e f ∨ lookup i s = .cont e f) (hb : ∀ n, e.ty ≠ .bulk n) :
    barWrite p (.bar0 r) i s 0xF0 data =
      barWord (discardStaged p (.bar0 r) (gkey i f)) (.bar0 r) e (gkey i f) (2 * (s - f) + 1) (data.toNat / 2 ^ 32) := by
  rw [barWrite_entry hr hl hb (by decide), if_neg (by decide), if_neg (by decide), if_pos rfl]

theorem barWrite_both (hr : reaches p (.bar0 r) i = true) (hl : lookup i s = .entry e f ∨ lookup i s = .cont e f) (hb : ∀ n, e.ty ≠ .bulk n) :
    barWrite p (.bar0 r) i s 0xFF data =
      barWord (barWord (discardStaged p (.bar0 r) (gkey i f)) (.bar0 r) e (gkey i f) (2 * (s - f)) (data.toNat % 2 ^ 32)) (.bar0 r) e (gkey i f)
        (2 * (s - f) + 1) (data.toNat / 2 ^ 32) := by
  rw [barWrite_entry hr hl hb (by decide), if_pos rfl]

theorem discardStaged_none (h : ∀ l, p.gz.stage ≠ some (k, l)) : (discardStaged p path k).gz.stage = none := by
  unfold discardStaged
  split
  · rename_i j l hj
    rw [if_neg (by rintro rfl; exact h l hj), (logAbort_onlyRegs ..).1]
  · assumption

theorem putBits_low {b : Nat} (hb : b < 2 ^ 32) (x : Nat) : putBits b 0 32 x = x % 2 ^ 32 := by
  unfold putBits
  rw [Nat.shiftRight_eq_div_pow]
  omega

theorem putBits_both {b : Nat} (hb : b < 2 ^ 64) (x y : Nat) : putBits (putBits b 0 32 y) 32 32 x = y % 2 ^ 32 + x % 2 ^ 32 * 2 ^ 32 := by
  unfold putBits
  simp only [Nat.shiftRight_eq_div_pow]
  omega

/-- What words that are not staged are taken from (R70). -/
def unstagedBase (p : Part) (e : Entry) (k : Nat) : Nat := if e.acc = .wo ∨ e.kind = .w1c then 0 else valueAt p e k

theorem unstagedBase_lt {n : Nat} (h : valueAt p e k < 2 ^ n) : unstagedBase p e k < 2 ^ n := by
  unfold unstagedBase
  split
  · exact Nat.two_pow_pos n
  · exact h

/-- The words that the staging buffer holds. -/
def stagedWords (p : Part) : KMap Nat :=
  match p.gz.stage with
  | some (_, l) => l
  | none => []

theorem barWord_stages (h : w < commitWord e) (x : Nat) : barWord p path e k w x = restage p (some (k, kput w x (stagedWords p))) := if_pos h

/-- The commit word makes the value from the words staged and, for every other, the value in force (R70). -/
theorem barWord_commits (h : w = commitWord e) (x : Nat) :
    barWord p path e k w x =
      (writeEntry (restage p none) path 1 true e k (putBits (overWords (unstagedBase p e k) (stagedWords p)) (32 * w) 32 x)).1 := by
  unfold barWord
  rw [if_neg (by omega), if_pos h]
  rfl

@[simp] theorem stagedWords_restage (p : Part) (k : Nat) (l : KMap Nat) : stagedWords (restage p (some (k, l))) = l := rfl
@[simp] theorem restage_restage (p : Part) (x y : Option (Nat × KMap Nat)) : restage (restage p x) y = restage p y := rfl

theorem stagedWords_none (h : p.gz.stage = none) : stagedWords p = [] := by rw [stagedWords, h]

/-- The only word of an entry is its commit word, and makes the value. -/
theorem barWord_only (hc : commitWord e = 0) (hs : p.gz.stage = none) (hv : valueAt p e k < 2 ^ 32) (x : Nat) :
    barWord p path e k 0 x = (writeEntry (restage p none) path 1 true e k (x % 2 ^ 32)).1 := by
  rw [barWord_commits hc.symm, stagedWords_none hs, overWords, List.foldl_nil, Nat.mul_zero, putBits_low (unstagedBase_lt hv)]

/-- The low word of an entry of two words is staged, and the high word then makes the value. -/
theorem barWord_both (hk : entryOf k = some e) (hc : commitWord e = 1) (hs : p.gz.stage = none) (hv : valueAt p e k < 2 ^ 64) (x y : Nat) :
    barWord (barWord p path e k 0 y) path e k 1 x = (writeEntry (restage p none) path 1 true e k (y % 2 ^ 32 + x % 2 ^ 32 * 2 ^ 32)).1 := by
  have hb : unstagedBase (restage p (some (k, [(0, y)]))) e k < 2 ^ 64 := unstagedBase_lt (by rwa [valueAt_restage p _ hk hc])
  rw [barWord_stages (w := 0) (by omega), stagedWords_none hs, barWord_commits hc.symm, stagedWords_restage, restage_restage, kput, overWords, List.foldl_cons,
    List.foldl_nil, Nat.mul_zero, Nat.mul_one, putBits_both hb]

/-- Settles O20: below the commit word a write stages; a write of every word of an entry leaves the staging buffer empty and makes the whole value. -/
theorem barWritesMakeWholeWrites : Obligations.BarWritesMakeWholeWrites := by
  unfold Obligations.BarWritesMakeWholeWrites
  intro s r slot f e hw hr hb k p
  refine ⟨?_, ?_⟩
  · intro high data hl w hwc l
    have h32 : data.toNat < 2 ^ 32 := data.isLt
    refine exec_next (exec_stagedWord ..) hw ?_
    cases high with
    | false =>
      have hx : (BitVec.ofNat 64 data.toNat).toNat % 2 ^ 32 = data.toNat := by rw [BitVec.toNat_ofNat]; omega
      exact (barWrite_low hr hl hb).trans (by rw [hx]; exact barWord_stages hwc _)
    | true =>
      have hx : (BitVec.ofNat 64 (data.toNat * 2 ^ 32)).toNat / 2 ^ 32 = data.toNat := by rw [BitVec.toNat_ofNat]; omega
      exact (barWrite_high hr hl hb).trans (by rw [hx]; exact barWord_stages hwc _)
  · intro data hl hf hst
    subst hf
    have h0 : p.gz.stage = none := discardStaged_none hst
    have hk : entryOf k = some e := entryOf_of (Nat.mod_lt _ (by decide)) hl
    have hwhole (v : Nat) : exec (.gazetteerWrite (.whole (.bar0 r) (slot / 256) (slot % 256) v)) s =
        .next { s with part := (writeEntry (restage p none) (.bar0 r) 1 true e k v).1 } :=
      exec_next (exec_wholeWrite ..) hw (commandWrite_bar0 hl hb hr v)
    refine ⟨fun hc hv => ?_, fun hc hv => ?_⟩ <;> rw [hwhole] <;> refine exec_next (exec_slotWrite ..) hw ?_
    · rw [barWrite_low hr (.inl hl) hb, Nat.sub_self, Nat.mul_zero, barWord_only hc h0 hv, Nat.mod_mod]
    · have h64 : data.toNat < 2 ^ 64 := data.isLt
      rw [barWrite_both hr (.inl hl) hb, Nat.sub_self, Nat.mul_zero, Nat.zero_add, barWord_both hk hc h0 hv,
        show data.toNat % 2 ^ 32 % 2 ^ 32 + data.toNat / 2 ^ 32 % 2 ^ 32 * 2 ^ 32 = data.toNat by omega]

/-! ## Reads -/

/-- The words of an entry that the byte enables of a slot select, w being the slot's low word (R69). -/
def readWords (w : Nat) (be : BitVec 8) : Nat := (if be.toNat % 16 ≠ 0 then 2 ^ w else 0) + (if be.toNat / 16 ≠ 0 then 2 ^ (w + 1) else 0)

/-- The 64 bits of a value that a slot shows, w being the slot's low word. -/
def slotOf (v w : Nat) : Nat := bits v (32 * w + 63) (32 * w)

/-- The part with another content of the snapshot buffer. -/
def resnap (p : Part) (x : Option (Nat × Nat × Nat)) : Part := { p with gz := { p.gz with snap := x } }

/-- The words below the commit word that a read selects: those that a snapshot serves (R71). -/
def wordsBelow (e : Entry) (w : Nat) (be : BitVec 8) : Nat := readWords w be % 2 ^ commitWord e

/-- A read of an entry of which no snapshot is held (R71). -/
theorem snapshotRead_other (hs : ∀ v m, p.gz.snap ≠ some (k, v, m)) :
    snapshotRead p e k w be =
      if wordsBelow e w be ≠ 0 then (resnap p (some (k, valueAt p e k, readWords w be)), slotOf (valueAt p e k) w)
      else (p, slotOf (valueAt p e k) w) := by
  have hx : readWords w be = (if be.toNat % 16 ≠ 0 then 2 ^ w else 0) + (if be.toNat / 16 ≠ 0 then 2 ^ (w + 1) else 0) := rfl
  unfold snapshotRead wordsBelow resnap slotOf
  simp only [decide_eq_true_eq, ← hx]
  generalize readWords w be = x
  rcases hp : p.gz.snap with _ | ⟨j, v, m⟩
  · simp
  · have hj : j ≠ k := by rintro rfl; exact hs v m hp
    simp [hj]

/-- A read of an entry of which a snapshot is held: words not returned yet come from it (R71). -/
theorem snapshotRead_held {v m : Nat} (hs : p.gz.snap = some (k, v, m)) :
    snapshotRead p e k w be =
      if m &&& wordsBelow e w be ≠ 0 then (resnap p (some (k, valueAt p e k, readWords w be)), slotOf (valueAt p e k) w)
      else (resnap p (some (k, v, m ||| readWords w be)), slotOf v w) := by
  have hx : readWords w be = (if be.toNat % 16 ≠ 0 then 2 ^ w else 0) + (if be.toNat / 16 ≠ 0 then 2 ^ (w + 1) else 0) := rfl
  unfold snapshotRead wordsBelow resnap slotOf
  simp only [decide_eq_true_eq, ← hx]
  generalize readWords w be = x
  by_cases h : m &&& (x % 2 ^ commitWord e) = 0
  · simp [hs, h]
  · have hz : x % 2 ^ commitWord e ≠ 0 := fun h0 => h (by rw [h0, Nat.and_zero])
    simp [hs, h, hz]

/-- What a read of a value shows in the slot. -/
def showSlot (p : Part) (v : Nat) (be : BitVec 8) : Part := say p (.read (.value (slotBytes v be)))

/-- A read within the slots of an entry, by what the entry is (R71, R74, R75). -/
theorem barRead_entry (hr : reaches p (.bar0 r) i = true) (hl : lookup i s = .entry e f ∨ lookup i s = .cont e f) :
    barRead p (.bar0 r) i s be =
      if e.acc = .wo then showSlot (logAbort p (.bar0 r) 0 0x04 i s 0) 0 be
      else if gkey i f = G.bpData then showSlot (readBlockData p).1 (readBlockData p).2.1 be
      else showSlot (snapshotRead p e (gkey i f) (2 * (s - f)) be).1 (snapshotRead p e (gkey i f) (2 * (s - f)) be).2 be := by
  obtain ⟨hd, hs⟩ := reaches_bar0 hr
  unfold barRead
  rw [if_neg (by simp [hd]), if_neg hs]
  rcases hl with hl | hl <;> rw [hl] <;> rfl

/-- A read where no entry stands shows NUM_SUBS or nothing (R57, R74). -/
theorem barRead_noEntry (hr : reaches p (.bar0 r) i = true) {n : Nat}
    (hl : lookup i s = .numSubs n ∨ (n = 0 ∧ (lookup i s = .noIndex ∨ lookup i s = .noSub))) :
    barRead p (.bar0 r) i s be = showSlot p n be := by
  obtain ⟨hd, hs⟩ := reaches_bar0 hr
  unfold barRead
  rw [if_neg (by simp [hd]), if_neg hs]
  rcases hl with hl | ⟨rfl, hl | hl⟩ <;> rw [hl] <;> rfl

/-- Settles O21: the two cases of the snapshot buffer, then the accesses that BAR0 turns away. -/
theorem barReadsReturnTheSnapshotOrAreRefused : Obligations.BarReadsReturnTheSnapshotOrAreRefused := by
  unfold Obligations.BarReadsReturnTheSnapshotOrAreRefused
  refine ⟨fun s r slot be hw hr => ⟨?_, fun n hl => ?_, fun hl => ?_⟩, fun s r slot hw hd => ⟨fun data => ?_, fun data => ?_, ?_, fun e f hr ha hl => ?_⟩⟩
  · intro e f hl ha hk k w now words below gives
    have hread {x : Option (Nat × Nat × Nat)} {v : Nat} (hq : snapshotRead s.part e k w be = (resnap s.part x, slotOf v w)) : gives x v :=
      exec_next (exec_snapshotRead ..) hw (by rw [barRead_entry hr hl, if_neg ha, if_neg hk, hq]; rfl)
    refine ⟨fun hb hs => hread ?_, fun v m hs hm => hread ?_, fun hb hs => hread ?_⟩
    · by_cases hh : ∃ v m, s.part.gz.snap = some (k, v, m)
      · obtain ⟨v, m, hh⟩ := hh
        rw [snapshotRead_held hh]
        exact if_pos (hs v m hh)
      · rw [snapshotRead_other fun v m hv => hh ⟨v, m, hv⟩]
        exact if_pos hb
    · rw [snapshotRead_held hs]
      exact if_neg (not_not.mpr hm)
    · rw [snapshotRead_other hs]
      exact if_neg (not_not.mpr hb)
  · exact exec_next (exec_snapshotRead ..) hw (barRead_noEntry hr (.inl hl))
  · exact exec_next (exec_snapshotRead ..) hw (barRead_noEntry hr (.inr ⟨rfl, hl⟩))
  · exact exec_next (exec_crossing ..) hw (if_neg (by simp [hd]))
  · exact exec_next (exec_crossing ..) hw (if_neg (by simp [hd]))
  · exact exec_next (exec_unsupported ..) hw (if_neg (by simp [hd]))
  · refine ⟨_, exec_next (exec_writeOnlyRead ..) hw ?_, rfl⟩
    rw [barRead_entry hr hl, if_pos ha, showSlot, show slotBytes 0 0xFF = 0 by decide]

end Sys2Proof.Machine
end

section
/-!
SUPPORT. O19: a taken write of an entry with no effect of its own takes effect by its class (R59, R60, R73, R76).
-/

namespace Sys2Proof.Machine

variable {p q : Part} {path : Path} {i s k v w op : Nat} {e : Entry} {posts : Bool}

/-! ## No such write makes a job for admission -/

theorem endFreeze_adm (p : Part) (c : Chan) : (endFreeze p c).adm = p.adm := by
  unfold endFreeze
  dsimp only
  split_ifs <;> rfl

theorem disarm_jobs (p : Part) (g : Nat) : (disarm p g).adm.jobs = p.adm.jobs := by
  unfold disarm
  split
  · refine (foldl_frame (v := fun q : Part => q.adm.jobs) (fun q c => by rw [endFreeze_adm]) _ _).trans ?_
    rw [(releaseResv_steady _ _).2.2]
    rfl
  · rfl

theorem disarmReaders_jobs (p : Part) (n : Nat) : (disarmReaders p n).adm.jobs = p.adm.jobs :=
  foldl_frame (v := fun q : Part => q.adm.jobs) disarm_jobs _ _

theorem stagedDisarms_jobs (p : Part) (e : Entry) (k : Nat) : (stagedDisarms p e k).adm.jobs = p.adm.jobs := by
  unfold stagedDisarms
  split
  · split
    · rw [disarm_jobs, disarm_jobs]
    · exact disarmReaders_jobs ..
    · rfl
  · rfl

theorem classWrite_jobs (p : Part) (e : Entry) (k w : Nat) : (classWrite p e k w).adm.jobs = p.adm.jobs := by
  unfold classWrite
  split
  · rfl
  · split <;> first | rfl | exact stagedDisarms_jobs ..

theorem post_jobs (p : Part) (e : Entry) (k : Nat) : (post p e k).adm.jobs = p.adm.jobs := by
  unfold post
  split <;> rfl

theorem clearOnes_jobs (p : Part) (k m : Nat) : (clearOnes p k m).adm.jobs = p.adm.jobs := by
  unfold clearOnes
  dsimp only
  split <;> rfl

/-- An entry with no command effect is never refused by its own effect, and makes no job. -/
theorem applyWrite_done (hk : e.kind ≠ .cmd) (p : Part) (path : Path) (k w : Nat) :
    (applyWrite p path e k w).2 = 0 ∧ (applyWrite p path e k w).1.adm.jobs = p.adm.jobs := by
  unfold applyWrite
  split
  · exact ⟨rfl, (post_jobs ..).trans (classWrite_jobs ..)⟩
  · exact ⟨rfl, rfl⟩
  · exact ⟨rfl, rfl⟩
  · refine ⟨rfl, ?_⟩
    dsimp only
    split
    · rfl
    · exact clearOnes_jobs ..
  · rename_i h
    exact absurd h hk

/-! ## A taken write -/

theorem bpCommit_cmd (he : entryOf G.bpCommit = some e) : e.kind = .cmd := by
  have h : (entryOf G.bpCommit).map (·.kind) = some .cmd := by decide
  rw [he] at h
  exact Option.some.inj h

/-- A write that passes its checks, of an entry with no command effect, takes its effect where it is not forwarded. -/
theorem writeEntry_takes (he : entryOf k = some e) (hk : e.kind ≠ .cmd) (hc : checkWrite p e k (keptBits e (reg p k) v) false posts = 0)
    (hf : (mirrored e k && forwards p) = false) :
    writeEntry p path op posts e k v = ((applyWrite p path e k (keptBits e (reg p k) v)).1, .done 0) := by
  obtain ⟨h0, hj⟩ := applyWrite_done hk p path k (keptBits e (reg p k) v)
  have hr : runWrite p path op e k (keptBits e (reg p k) v) = ((applyWrite p path e k (keptBits e (reg p k) v)).1, .done 0) := by
    unfold runWrite
    rw [if_neg (by rintro rfl; exact hk (bpCommit_cmd he))]
    dsimp only
    rw [if_neg (by rw [hj]; exact fun h => lt_irrefl _ h.2), h0]
  unfold writeEntry
  simp only [hc, ne_eq, not_true_eq_false, if_false, hr, hf, Bool.false_and]
  rfl

/-- A taken write of an entry with no command effect: its effect, and the answer 0. -/
theorem commandWrite_applies (hs : s < 256) (hl : lookup i s = .entry e s) (hb : ∀ n, e.ty ≠ .bulk n) (hk : e.kind ≠ .cmd)
    (ht : Takes p path (gkey i s) v) :
    commandWrite p path i s v = tell (applyWrite (cleared p path (gkey i s)) path e (gkey i s)
      (keptBits e (reg (cleared p path (gkey i s)) (gkey i s)) v)).1 path 0 := by
  obtain ⟨hr, h0, hf⟩ := ht.elim hs hl
  rw [commandWrite_reach hl hb hr, writeEntry_takes (entryOf_of hs hl) hk h0 hf]

/-! ## The effect by kind and class -/

theorem applyWrite_plain (hk : e.kind = .plain) : applyWrite p path e k w = (post (classWrite p e k w) e k, 0) := by
  unfold applyWrite
  rw [hk]

theorem applyWrite_now (hk : e.kind = .now) : applyWrite p path e k w = (setReg p k w, 0) := by
  unfold applyWrite
  rw [hk]

theorem applyWrite_sub (hk : e.kind = .sub) : applyWrite p path e k w = (setReg (settle p (acyc p)) k w, 0) := by
  unfold applyWrite
  rw [hk]

theorem applyWrite_w1c (hk : e.kind = .w1c) :
    applyWrite p path e k w = (if k = G.timeSticky then clearLater p k w else clearOnes p k w, 0) := by
  unfold applyWrite
  rw [hk]

theorem timeSticky_w1c (he : entryOf G.timeSticky = some e) : e.kind = .w1c := by
  have h : (entryOf G.timeSticky).map (·.kind) = some .w1c := by decide
  rw [he] at h
  exact Option.some.inj h

/-- Flags that re-arm nothing are cleared alone (R245 speaks of WATCH_CAUSE). -/
theorem clearOnes_plain (h : ¬ (k / 256 / 256 = 0x25 ∧ k % 256 = 0x08)) (w : Nat) : clearOnes p k w = setReg p k (reg p k ^^^ (reg p k &&& w)) :=
  if_neg h

theorem classWrite_once (ha : e.acc = .wo1) (w : Nat) :
    classWrite p e k w = setRegBit (toBoundary p k w) G.wo1Written (onceBit k) true := if_pos ha

theorem classWrite_fixed (ha : e.acc ≠ .wo1) (hc : e.cls = .fixed) (w : Nat) :
    classWrite p e k w = { p with gz := { p.gz with work := kput k w p.gz.work } } := by
  unfold classWrite
  rw [if_neg ha, hc]

theorem classWrite_live_shared (ha : e.acc ≠ .wo1) (hc : e.cls = .live) (hn : keyChan k = none) (w : Nat) : classWrite p e k w = toBoundary p k w := by
  unfold classWrite
  rw [if_neg ha, hc, hn]

theorem classWrite_live_chan (ha : e.acc ≠ .wo1) (hc : e.cls = .live) {c : Nat} (hn : keyChan k = some c) (w : Nat) :
    classWrite p e k w = toPending p k w := by
  unfold classWrite
  rw [if_neg ha, hc, hn]

/-- A Staged value of a channel waits for its group, and disarms the groups the channel is in and moves to (R206). -/
theorem classWrite_staged_chan (ha : e.acc ≠ .wo1) (hc : e.cls = .staged) {c : Nat} (hn : keyChan k = some c) (w : Nat) :
    classWrite p e k w = disarm (disarm (toPending p k w) (groupOf (toPending p k w) c)) (nextGroup (toPending p k w) c) := by
  unfold classWrite stagedDisarms
  rw [if_neg ha, hc, hn]
  rfl

/-- A Staged value of no channel is in force at once, and one of a queue disarms the groups that name it (R252). -/
theorem classWrite_staged_shared (ha : e.acc ≠ .wo1) (hc : e.cls = .staged) (hn : keyChan k = none) (w : Nat) :
    classWrite p e k w = match keyQueue k with
      | some q => disarmReaders (setReg p k w) q
      | none => setReg p k w := by
  unfold classWrite stagedDisarms
  rw [if_neg ha, hc, hn]
  cases keyQueue k <;> rfl

/-- Settles O19: the effect of the write is that of its entry's kind, and for a plain entry that of its class. -/
theorem writesTakeEffectByTheirClass : Obligations.WritesTakeEffectByTheirClass := by
  unfold Obligations.WritesTakeEffectByTheirClass
  intro s path index sub v e hw hs hl hb ht k p w gives posted
  have hgives {r : Part} (hk : e.kind ≠ .cmd) (h : (applyWrite p path e k w).1 = r) : gives r :=
    exec_next (exec_wholeWrite ..) hw (by rw [commandWrite_applies hs hl hb hk ht]; exact congrArg (fun r => tell r path 0) h)
  have hplain {r : Part} (hk : e.kind = .plain) (h : classWrite p e k w = r) : gives (posted r) := by
    refine hgives (by simp [hk]) ?_
    rw [applyWrite_plain hk, h]
    rfl
  refine ⟨fun hk => hgives (by simp [hk]) (by rw [applyWrite_now hk]), fun hk => hgives (by simp [hk]) (by rw [applyWrite_sub hk]),
    fun hk hn hx => hgives (by simp [hk]) ?_, fun hk => ?_, fun hk ha => hplain hk (classWrite_once ha w), fun hk ha => ⟨fun hc => ?_, fun hc hn => ?_,
      fun hc hn => ?_, fun hc c hn => ?_, fun hc hn hq => ?_, fun hc hn q hq => ?_⟩⟩
  · rw [applyWrite_w1c hk, if_neg hn]
    refine clearOnes_plain ?_ w
    rwa [gkey_div _ _ hs, gkey_mod _ _ hs]
  · have he : e.kind = .w1c := timeSticky_w1c (hk ▸ entryOf_of hs hl)
    exact hgives (by simp [he]) (by rw [applyWrite_w1c he, if_pos hk]; rfl)
  · exact hplain hk (classWrite_fixed ha hc w)
  · exact hplain hk (classWrite_live_shared ha hc hn w)
  · obtain ⟨c, hn⟩ := Option.isSome_iff_exists.mp hn
    exact hplain hk (classWrite_live_chan ha hc hn w)
  · exact hplain hk (classWrite_staged_chan ha hc hn w)
  · exact hplain hk ((classWrite_staged_shared ha hc hn w).trans (by rw [hq]))
  · exact hplain hk ((classWrite_staged_shared ha hc hn w).trans (by rw [hq]))

end Sys2Proof.Machine
end

section
/-!
SUPPORT. The records of the abort log (R78, Table 03-11, Table 03-12).
-/

namespace Sys2Proof.Machine

variable {p q : Part} {k r : Nat}

/-- What a record of the abort log holds (Table 03-12). -/
theorem logAbort_record (p : Part) (path : Path) (op code i s v : Nat) :
    let n := reg p G.logNext % 80
    let q := logAbort p path op code i s v
    reg q (G.logWhen n) = p.time.tick ∧ reg q (G.logValue n) = v % 2 ^ 64 ∧ reg q (G.logWhat n) = logWhat code i s op path ∧
      reg q G.logNext = (n + 1) % 80 ∧ reg q G.logTotal = min (reg p G.logTotal + 1) 0xFFFFFFFF := by
  unfold logAbort
  simp (disch := (simp only [G.logWhen, G.logWhat, G.logValue, G.logNext, G.logTotal, gkey]; omega)) only
    [reg_setReg_same, reg_setReg_ne, and_self]

/-- The entries of record r. -/
def recordKeys (r : Nat) : List Nat := [G.logWhen r, G.logWhat r, G.logValue r]

/-- Record r is invalidated. -/
def zeroRecord (p : Part) (r : Nat) : Part := setReg (setReg (setReg p (G.logWhen r) 0) (G.logWhat r) 0) (G.logValue r) 0

theorem reg_zeroRecord (p : Part) (r k : Nat) : reg (zeroRecord p r) k = if k ∈ recordKeys r then 0 else reg p k := by
  unfold zeroRecord
  simp only [reg_setReg, recordKeys, List.mem_cons, List.not_mem_nil, or_false]
  split_ifs <;> first | rfl | tauto

theorem reg_zeroRecords (l : List Nat) (p : Part) (k : Nat) :
    reg (l.foldl zeroRecord p) k = if k ∈ l.flatMap recordKeys then 0 else reg p k := by
  induction l generalizing p with
  | nil => rfl
  | cons r l ih =>
    rw [List.foldl_cons, ih, reg_zeroRecord, List.flatMap_cons]
    simp only [List.mem_append]
    split_ifs <;> first | rfl | tauto

theorem zeroRecords_regs (l : List Nat) (p : Part) : OnlyRegs p (l.foldl zeroRecord p) (l.flatMap recordKeys) := by
  induction l generalizing p with
  | nil => exact .refl _ _
  | cons r l ih =>
    have h : OnlyRegs p (zeroRecord p r) (recordKeys r) :=
      (((OnlyRegs.refl p _).setReg (by simp [recordKeys]) _).setReg (by simp [recordKeys]) _).setReg (by simp [recordKeys]) _
    rw [List.foldl_cons, List.flatMap_cons]
    exact (h.mono fun k hk => List.mem_append_left _ hk).trans ((ih _).mono fun k hk => List.mem_append_right _ hk)

theorem clearLog_eq (p : Part) : clearLog p = setReg (setReg ((List.range 80).foldl zeroRecord p) G.logTotal 0) G.logNext 0 := rfl

/-- LOG_CLEAR as a frame: the counts and every record (R78). -/
theorem clearLog_onlyRegs (p : Part) : OnlyRegs p (clearLog p) (G.logTotal :: G.logNext :: (List.range 80).flatMap recordKeys) := by
  rw [clearLog_eq]
  exact (((zeroRecords_regs (List.range 80) p).mono fun k hk => List.mem_cons_of_mem _ (List.mem_cons_of_mem _ hk)).setReg (by simp) _).setReg (by simp) _

theorem reg_clearLog {k : Nat} (hk : k ∈ (List.range 80).flatMap recordKeys) : reg (clearLog p) k = 0 := by
  rw [clearLog_eq, reg_setReg, reg_setReg, reg_zeroRecords, if_pos hk]
  split_ifs <;> rfl

theorem recordKey_mem {r k : Nat} (hr : r < 80) (hk : k ∈ recordKeys r) : k ∈ (List.range 80).flatMap recordKeys :=
  List.mem_flatMap.mpr ⟨r, List.mem_range.mpr hr, hk⟩

end Sys2Proof.Machine
end

section
/-!
SUPPORT. O22: the abort log, and the block port's commands (R74 to R79).
-/

namespace Sys2Proof.Machine

variable {p q : Part} {path : Path} {k v r n o : Nat} {e : Entry}

theorem exec_logClear (path : Path) (v : Nat) (t : State) : exec (.logClear path v) t = lift (fun p => commandWrite p path 0x1018 0x03 v) t := by
  unfold exec; rfl
theorem exec_bpTarget (path : Path) (v : Nat) (t : State) : exec (.bpTarget path v) t = lift (fun p => commandWrite p path 0x10E0 0x01 v) t := by
  unfold exec; rfl
theorem exec_bpDataWrite (path : Path) (v : Nat) (t : State) : exec (.bpData path (some v)) t = lift (fun p => commandWrite p path 0x10E0 0x04 v) t := by
  unfold exec; rfl
theorem exec_bpDataRead (path : Path) (t : State) : exec (.bpData path none) t = lift (fun p => readPort p path) t := by unfold exec; rfl
theorem exec_bpCommit (path : Path) (v : Nat) (t : State) : exec (.bpCommit path v) t = lift (fun p => commandWrite p path 0x10E0 0x05 v) t := by
  unfold exec; rfl
theorem exec_postDone (d : Domain) (t : State) : exec (.postDone d) t = lift (fun p => setBusy p d false) t := by unfold exec; rfl

/-! ## The entries of the block port and LOG_CLEAR (Table 03-11, Table 03-8) -/

def entryLogClear : Entry := ⟨3, 3, 1, .bool, .wo, .live, 0, .none, false, false, .any, .cmd⟩
def entryBpTarget : Entry := ⟨1, 1, 1, .u32, .rw, .live, 0, .none, false, false, .any, .cmd⟩
def entryBpData : Entry := ⟨4, 4, 1, .u64, .rw, .live, 0, .none, false, false, .any, .cmd⟩
def entryBpCommit : Entry := ⟨5, 5, 1, .bool, .wo, .live, 0, .none, false, false, .any, .cmd⟩

theorem lookup_logClear : lookup 0x1018 0x03 = .entry entryLogClear 0x03 := by decide
theorem lookup_bpTarget : lookup 0x10E0 0x01 = .entry entryBpTarget 0x01 := by decide
theorem lookup_bpData : lookup 0x10E0 0x04 = .entry entryBpData 0x04 := by decide
theorem lookup_bpCommit : lookup 0x10E0 0x05 = .entry entryBpCommit 0x05 := by decide

/-- An effect that makes no job for admission. -/
theorem jobs_of_adm (h : q.adm = (cleared p path k).adm) : ¬ p.adm.jobs.length < q.adm.jobs.length := by
  rw [h, cleared_adm]
  exact lt_irrefl _

/-- A taken LOG_CLEAR TRUE clears the log (R78). -/
theorem write_logClear (ht : Takes p path G.logClear 1) :
    commandWrite p path 0x1018 0x03 1 = tell (clearLog (cleared p path G.logClear)) path 0 :=
  commandWrite_takes (e := entryLogClear) (by decide) lookup_logClear rfl nofun (by decide) ht (effect_logClear.trans (onTrue_one _))
    (jobs_of_adm (clearLog_onlyRegs _).adm)

/-! ## The block buffer -/

/-- The part with another content of the block buffer. -/
def reblock (p : Part) (l : List Byte) : Part := { p with gz := { p.gz with block := l } }

theorem reg_reblock (p : Part) (l : List Byte) (k : Nat) : reg (reblock p l) k = reg p k := rfl

/-- No bulk object is read from the block buffer. -/
theorem bulkBytes_reblock (p : Part) (l : List Byte) (k : Nat) : bulkBytes (reblock p l) k false = bulkBytes p k false := by
  unfold bulkBytes
  rfl

/-- What BP_TARGET leaves of the entries when it names bulk object k. -/
def openedRegs (p : Part) (k : Nat) : Part :=
  setReg (setReg (setReg (setReg p G.bpTarget k) G.bpOffset 0) G.bpLength (bulkTotal p k [])) G.bpStatus 0

theorem openBlock_bulk (hv : v < 2 ^ 24) (he : entryOf v = some e) (hb : e.ty = .bulk n) :
    openBlock p v = (reblock (openedRegs p v) (bulkBytes (openedRegs p v) v false), 0) := by
  obtain ⟨a, b, c, ty, d, f, g, h, i, j, l, m⟩ := e
  cases hb
  have hk : (if v < 2 ^ 24 then entryOf v else none) = _ := (if_pos hv).trans he
  unfold openBlock
  rw [Nat.mod_eq_of_lt hv]
  dsimp only
  rw [hk]
  rfl

/-- What BP_TARGET names is open: its contents in the buffer, read from their beginning (R75). -/
theorem openBlock_spec (p : Part) (k : Nat) :
    let q := reblock (openedRegs p k) (bulkBytes (openedRegs p k) k false)
    q.gz.block = bulkBytes q k false ∧ reg q G.bpTarget = k ∧ reg q G.bpOffset = 0 ∧ reg q G.bpLength = bulkTotal p k [] ∧
      q = { p with gz := { p.gz with regs := q.gz.regs, block := q.gz.block } } ∧ SameRegs p q [G.bpTarget, G.bpOffset, G.bpLength, G.bpStatus] := by
  refine ⟨(bulkBytes_reblock ..).symm, ?_, ?_, ?_, rfl, ?_⟩
  · simp (disch := decide) only [reg_reblock, openedRegs, reg_setReg_same, reg_setReg_ne]
  · simp (disch := decide) only [reg_reblock, openedRegs, reg_setReg_same, reg_setReg_ne]
  · simp (disch := decide) only [reg_reblock, openedRegs, reg_setReg_same, reg_setReg_ne]
  · have h : OnlyRegs p (openedRegs p k) [G.bpTarget, G.bpOffset, G.bpLength, G.bpStatus] :=
      ((((OnlyRegs.refl p _).setReg (by simp) _).setReg (by simp) _).setReg (by simp) _).setReg (by simp) _
    exact h.2

theorem write_bpTarget (ht : Takes p path G.bpTarget v) (hv : v < 2 ^ 24) (he : entryOf v = some e) (hb : e.ty = .bulk n) :
    commandWrite p path 0x10E0 0x01 v = tell (reblock (openedRegs (cleared p path G.bpTarget) v)
      (bulkBytes (openedRegs (cleared p path G.bpTarget) v) v false)) path 0 :=
  commandWrite_takes (e := entryBpTarget) (by decide) lookup_bpTarget rfl nofun (by decide) ht (effect_bpTarget.trans (openBlock_bulk hv he hb))
    (jobs_of_adm rfl)

/-- Bytes replaced within a list: the rest stays (R75). -/
theorem patch_within {l d : List Byte} (ho : o ≤ l.length) : patch l o d = l.take o ++ d ++ l.drop (o + d.length) := by
  unfold patch padTo
  rw [List.take_append_of_le_length ho]

/-- BP_DATA has moved 8 bytes. -/
def movedOn (p : Part) : Part := setReg (setReg p G.bpOffset (reg p G.bpOffset + 8)) G.bpStatus 0

theorem movedOn_onlyRegs (p : Part) : OnlyRegs p (movedOn p) [G.bpOffset, G.bpStatus] :=
  ((OnlyRegs.refl p _).setReg (by simp) _).setReg (by simp) _

theorem reg_movedOn (p : Part) : reg (movedOn p) G.bpOffset = reg p G.bpOffset + 8 := by
  unfold movedOn
  simp (disch := decide) only [reg_setReg_ne, reg_setReg_same]

theorem writeBlockData_within (h : reg p G.bpOffset + 8 ≤ reg p G.bpLength) (hl : p.gz.block.length = reg p G.bpLength) :
    writeBlockData p v =
      (reblock (movedOn p) (p.gz.block.take (reg p G.bpOffset) ++ toBytesLE 8 v ++ p.gz.block.drop (reg p G.bpOffset + 8)), 0) := by
  have hp := patch_within (l := p.gz.block) (d := toBytesLE 8 v) (o := reg p G.bpOffset) (by omega)
  rw [show (toBytesLE 8 v).length = 8 by simp [toBytesLE]] at hp
  unfold writeBlockData
  rw [← hp]
  exact if_neg (by omega)

theorem write_bpData (ht : Takes p path G.bpData v) (h : reg (cleared p path G.bpData) G.bpOffset + 8 ≤ reg (cleared p path G.bpData) G.bpLength)
    (hl : (cleared p path G.bpData).gz.block.length = reg (cleared p path G.bpData) G.bpLength) :
    commandWrite p path 0x10E0 0x04 v = tell (writeBlockData (cleared p path G.bpData) v).1 path 0 := by
  rw [writeBlockData_within h hl]
  exact commandWrite_takes (e := entryBpData) (by decide) lookup_bpData rfl nofun (by decide) ht (effect_bpData.trans (writeBlockData_within h hl))
    (jobs_of_adm rfl)

theorem readBlockData_within (h : reg p G.bpOffset + 8 ≤ reg p G.bpLength) :
    readBlockData p = (movedOn p, ofBytesLE ((p.gz.block.drop (reg p G.bpOffset)).take 8), 0) := by
  unfold readBlockData
  exact if_neg (by omega)

/-! ## What a read of BP_DATA shows -/

theorem ofBytesLE_lt (l : List Byte) : ofBytesLE l < 256 ^ l.length := by
  induction l with
  | nil => decide
  | cons b l ih =>
    have hb : b.toNat < 256 := b.isLt
    rw [ofBytesLE, List.length_cons, Nat.pow_succ]
    omega

/-- Bytes written one after another make the number they are bytes of. -/
theorem putBytes_eq (x n : Nat) :
    (List.range n).foldl (fun v i => putBits v (8 * i) 8 (bits x (8 * i + 7) (8 * i))) 0 = x % 2 ^ (8 * n) := by
  induction n with
  | zero => simp [Nat.mod_one]
  | succ n ih =>
    have hb : bits x (8 * n + 7) (8 * n) = x / 2 ^ (8 * n) % 2 ^ 8 := by
      rw [bits, Nat.shiftRight_eq_div_pow, show 8 * n + 7 + 1 - 8 * n = 8 by omega]
    have hz : x % 2 ^ (8 * n) / 2 ^ (8 * n + 8) = 0 :=
      Nat.div_eq_of_lt ((Nat.mod_lt _ (Nat.two_pow_pos _)).trans (Nat.pow_lt_pow_right (by decide) (by omega)))
    rw [List.range_succ, List.foldl_append, ih, List.foldl_cons, List.foldl_nil, putBits, hb, Nat.shiftRight_eq_div_pow, hz, Nat.mod_mod, Nat.mod_mod,
      Nat.mul_succ, Nat.pow_add, Nat.mod_mul, Nat.mul_comm (x / 2 ^ (8 * n) % 2 ^ 8), Nat.zero_mul, Nat.add_zero]

/-- A read of a whole slot shows all its 64 bits. -/
theorem slotBytes_all (h : v < 2 ^ 64) : slotBytes v 0xFF = v := by
  have hx : (BitVec.ofNat 64 v).toNat = v := by rw [BitVec.toNat_ofNat, Nat.mod_eq_of_lt h]
  unfold slotBytes mergeBytes
  rw [hx]
  exact (putBytes_eq v 8).trans (Nat.mod_eq_of_lt h)

theorem blockWord_lt (l : List Byte) : ofBytesLE (l.take 8) < 2 ^ 64 :=
  calc ofBytesLE (l.take 8) < 256 ^ (l.take 8).length := ofBytesLE_lt _
    _ ≤ 256 ^ 8 := Nat.pow_le_pow_right (by decide) (List.length_take_le ..)

/-- A read of BP_DATA within BP_LENGTH shows 8 bytes and moves on, over every path (R75). -/
theorem readPort_within (hr : reaches p path 0x10E0 = true) (h : reg p G.bpOffset + 8 ≤ reg p G.bpLength) :
    readPort p path = say (movedOn p) (.read (.value (ofBytesLE ((p.gz.block.drop (reg p G.bpOffset)).take 8)))) := by
  have hother (hp : ∀ r, path ≠ .bar0 r) : readPort p path =
      if !reaches p path 0x10E0 then p
      else if (readBlockData p).2.2 = 0 then say (readBlockData p).1 (.read (.value (readBlockData p).2.1))
      else tell (readBlockData p).1 path (readBlockData p).2.2 := by
    cases path <;> first | rfl | exact absurd rfl (hp _)
  by_cases hp : ∃ r, path = .bar0 r
  · obtain ⟨r, rfl⟩ := hp
    refine (barRead_entry hr (.inl lookup_bpData)).trans ?_
    rw [if_neg (by decide), if_pos (by decide), readBlockData_within h, showSlot, slotBytes_all (blockWord_lt _)]
  · rw [hother (not_exists.mp hp), hr, readBlockData_within h]
    rfl

/-! ## The block is committed -/

/-- A bulk object that passes its checks, is not forwarded and applied without a refusal (R75). -/
theorem writeBulk_applied {data : List Byte} {op : Nat} (hc : checkWrite p e k 0 false true = 0) (hf : (mirrored e k && forwards p) = false)
    (ha : applyBulk p e k data = (q, 0)) : writeBulk p path op e k data = (q, .done 0) := by
  unfold writeBulk
  simp only [hc, hf, ha, ne_eq, not_true_eq_false, if_false, Bool.false_and]
  rfl

theorem commitBlock_applied (he : entryOf (reg p G.bpTarget) = some e) (hc : checkWrite p e (reg p G.bpTarget) 0 false true = 0)
    (hf : (mirrored e (reg p G.bpTarget) && forwards p) = false)
    (ha : applyBulk p e (reg p G.bpTarget) (padTo (reg p G.bpLength) p.gz.block) = (q, 0)) :
    commitBlock p path = (setReg q G.bpStatus 0, .done 0) := by
  unfold commitBlock
  dsimp only
  rw [he]
  dsimp only
  rw [writeBulk_applied hc hf ha]

theorem write_bpCommit (ht : Takes p path G.bpCommit 1) {c : Part} (hp : cleared p path G.bpCommit = c) {r : Part}
    (hq : commitBlock c path = (r, .done 0)) : commandWrite p path 0x10E0 0x05 1 = tell r path 0 := by
  subst hp
  obtain ⟨hr, h0, hf⟩ := ht.elim (by decide) lookup_bpCommit
  have hw : runWrite (cleared p path G.bpCommit) path 1 entryBpCommit G.bpCommit 1 = (r, .done 0) := by
    unfold runWrite
    rw [if_pos rfl, if_pos rfl, hq]
  rw [commandWrite_reach lookup_bpCommit nofun hr]
  unfold writeEntry
  dsimp only
  rw [if_neg (not_not.mpr h0), hf]
  simp only [Bool.false_and, Bool.false_eq_true, if_false]
  rw [show keptBits entryBpCommit (reg (cleared p path (gkey 0x10E0 0x05)) (gkey 0x10E0 0x05)) 1 = 1 from rfl, show gkey 0x10E0 0x05 = G.bpCommit from rfl,
    hw]
  rfl

/-! ## Posting domains -/

theorem postBusy_inj {a b : Nat} (h : G.postBusy a = G.postBusy b) : a = b := by
  simp only [G.postBusy, gkey] at h
  omega

/-- A domain's busy bit alone is set or cleared (R76). -/
theorem domainBusy_setBusy (p : Part) (d d' : Domain) (b : Bool) :
    domainBusy (setBusy p d b) d' = if domainBit d' = domainBit d then b else domainBusy p d' := by
  unfold domainBusy setBusy
  by_cases h1 : (domainBit d').1 = (domainBit d).1
  · rw [h1, regBit_setRegBit]
    by_cases h2 : (domainBit d').2 = (domainBit d).2
    · rw [if_pos h2, if_pos (Prod.ext h1 h2)]
    · rw [if_neg h2, if_neg fun h => h2 (congrArg Prod.snd h)]
  · rw [if_neg fun h => h1 (congrArg Prod.fst h)]
    exact regBit_setReg_ne (fun h => h1 (postBusy_inj h)) _ _

theorem setBusy_onlyRegs (p : Part) (d : Domain) (b : Bool) : OnlyRegs p (setBusy p d b) [G.postBusy (domainBit d).1] :=
  (OnlyRegs.refl p _).setReg (List.mem_singleton_self _) _

/-- Settles O22: the refusals by their place before or in the entry's checks, then each command of the log and of the block port by its effect. -/
theorem theAbortLogAndTheBlockPort : Obligations.TheAbortLogAndTheBlockPort := by
  unfold Obligations.TheAbortLogAndTheBlockPort
  refine ⟨⟨fun s path i sub v hw hr hs => ?_, fun p path op code i sub v => ?_⟩, fun s path hw => ⟨fun ht => ?_, fun v e n ht hv he hb => ?_, fun v ht ho hl => ?_,
    fun hr ho => ?_, fun ht e r he hc hf ha => ?_, fun d => ?_⟩⟩
  · intro k p refused
    have hearly {code : Nat} (hc : code ≠ 0) (h : ∀ q, writeAt q path 1 i sub v = logged path 1 (gkey i sub) v (q, .done code)) : refused p code :=
      exec_next (exec_wholeWrite ..) hw (commandWrite_turnedAway hs hr hc h)
    refine ⟨fun hl => hearly (by decide) fun q => ?_, fun hl => hearly (by decide) fun q => ?_, fun n hl => hearly (by decide) fun q => ?_,
      fun e hl hb hne => exec_next (exec_wholeWrite ..) hw (commandWrite_refused hs hl hb hr rfl hne)⟩ <;>
    · unfold writeAt
      rw [hl]
  · obtain ⟨hwhen, hvalue, hwhat, hnext, htotal⟩ := logAbort_record p path op code i sub v
    exact ⟨hwhen, hvalue, hwhat, hnext, htotal, logAbort_onlyRegs ..⟩
  · refine ⟨_, exec_next (exec_logClear ..) hw (write_logClear ht), fun r hr => ⟨?_, ?_, ?_⟩, ?_, ?_, clearLog_onlyRegs _⟩
    · exact reg_clearLog (recordKey_mem hr (by simp [recordKeys]))
    · exact reg_clearLog (recordKey_mem hr (by simp [recordKeys]))
    · exact reg_clearLog (recordKey_mem hr (by simp [recordKeys]))
    · rw [clearLog_eq]
      simp (disch := decide) only [reg_setReg_ne, reg_setReg_same]
    · rw [clearLog_eq, reg_setReg_same]
  · exact ⟨_, exec_next (exec_bpTarget ..) hw (write_bpTarget ht hv he hb), openBlock_spec ..⟩
  · refine ⟨_, exec_next (exec_bpDataWrite ..) hw (write_bpData ht ho hl), ?_⟩
    rw [writeBlockData_within ho hl]
    exact ⟨reg_movedOn _, rfl, rfl, (movedOn_onlyRegs _).2⟩
  · exact ⟨_, exec_next (exec_bpDataRead ..) hw (readPort_within hr ho), reg_movedOn _, movedOn_onlyRegs _⟩
  · exact exec_next (exec_bpCommit ..) hw (write_bpCommit ht rfl (commitBlock_applied he hc hf ha))
  · refine ⟨_, exec_next (exec_postDone ..) hw rfl, ?_, fun d' hd => ?_, setBusy_onlyRegs ..⟩
    · rw [domainBusy_setBusy, if_pos rfl]
    · rw [domainBusy_setBusy, if_neg hd]

end Sys2Proof.Machine
end

section
/-!
SUPPORT. Requests of Pearo Link (R80, R81, R85): what a request does that is new, what one does whose reply is kept, and the frames of a reply.
-/

namespace Sys2Proof.Machine

variable {p q : Part} {h : PlHeader} {size : Nat} {f : Part → Part}

theorem exec_read (h : PlHeader) (items : List PlItem) (t : State) : exec (.read h items) t = lift (fun p => request p h (frameBytes 0 items) fun q =>
    reply (readItems q h.pending items).1 h 0 (readItems q h.pending items).2) t := by unfold exec; rfl
theorem exec_write (h : PlHeader) (items : List PlItem) (t : State) : exec (.write h items) t = lift (fun p => request p h (frameBytes 0 items) fun q =>
    replyItems (writeItems q h 1 true items).1 h (writeItems q h 1 true items).2) t := by unfold exec; rfl
theorem exec_writeBlock (h : PlHeader) (items : List PlItem) (t : State) :
    exec (.writeBlock h items) t = lift (fun p => request p h (frameBytes 0 items) fun q => writeBlockFrame q h items) t := by unfold exec; rfl
theorem exec_subscribe (h : PlHeader) (period id mode : Nat) (items : List PlItem) (t : State) : exec (.subscribe h period id mode items) t =
    lift (fun p => request p h (frameBytes 8 items) fun q => subscribeFrame q h period id mode items) t := by unfold exec; rfl
theorem exec_attest (h : PlHeader) (nonce resume : Nat) (t : State) :
    exec (.attest h nonce resume) t = lift (fun p => request p h 72 fun q => attestFrame q h nonce resume) t := by unfold exec; rfl
theorem exec_discover (h : PlHeader) (t : State) : exec (.discover h) t = lift (fun p => request p h 36 fun q => takeDiscover q h) t := by
  unfold exec; rfl
theorem exec_fireRequest (h : PlHeader) (mask tick : Nat) (c : Cyc) (t : State) :
    exec (.fireRequest h mask tick c) t = lift (fun p => request (atCyc p c) h 76 fun q => fireFrame q h mask tick) t := by unfold exec; rfl

/-- What leaves one after another stands in the order of leaving, the last first. -/
theorem foldl_say {α : Type} (f : α → Out) (l : List α) (p : Part) :
    l.foldl (fun q x => say q (f x)) p = { p with sent := (l.map f).reverse ++ p.sent } := by
  induction l generalizing p with
  | nil => rfl
  | cons x l ih =>
    rw [List.foldl_cons, ih, List.map_cons, List.reverse_cons, List.append_assoc]
    rfl

/-- A new request is executed (R85). -/
theorem request_fresh (hf : Fresh p h size) : request p h size f = f p := by
  obtain ⟨hr, hs, hc, ho, hd⟩ := hf
  have hany : ((p.pl.owed.any fun o => sameRequest o.head h) || p.pl.discover.any (sameRequest h)) = false := by
    simpa only [Bool.or_eq_false_iff, List.any_eq_false, Bool.not_eq_true] using ⟨ho, hd⟩
  unfold request
  rw [if_neg (by rw [hr]; simpa using hs), hc]
  simp only [hany, Bool.false_eq_true, if_false]

/-- A request whose reply is kept is answered with it (R85). -/
theorem request_kept (hr : p.life.recovery = false) (hs : size ≤ reg p G.plMaxDatagram) {r : CacheRec} (hc : p.pl.cache.find? (repeats h) = some r) :
    request p h size f = { addReg p G.plDuplicates 1 with sent := (r.frames.map (Out.frame (destOf h))).reverse ++ p.sent } := by
  unfold request
  rw [if_neg (by rw [hr]; simpa using hs), hc]
  exact foldl_say ..

/-! ## The frames of a reply -/

/-- The bytes of a frame's items. -/
def itemsBytes (l : List ReplyItem) : Nat := (l.map itemBytes).sum

theorem itemBytes_fitItem (hp : 48 ≤ reg p G.plMaxDatagram) (x : ReplyItem) : itemBytes (fitItem p x) ≤ frameRoom p := by
  have hl : (fitItem p x).value.length ≤ (frameRoom p - 12) / 4 * 4 := List.length_take_le ..
  have hr : 12 ≤ frameRoom p := by unfold frameRoom; omega
  unfold itemBytes ceilDiv
  omega

theorem fitItem_of_fits {x : ReplyItem} (hx : itemBytes x ≤ frameRoom p) : fitItem p x = x := by
  unfold fitItem
  rw [List.take_of_length_le]
  unfold itemBytes ceilDiv at hx
  omega

/-- Items packed into frames keep their order, and no frame is longer than it may be (R80, R81). -/
theorem packItems_fits {room : Nat} {items : List ReplyItem} (hi : ∀ x ∈ items, itemBytes x ≤ room) (left : Nat) :
    ∃ a l, packItems room left items = a :: l ∧ a ++ l.flatten = items ∧ itemsBytes a ≤ left ∧ ∀ b ∈ l, itemsBytes b ≤ room := by
  induction items generalizing left with
  | nil => exact ⟨[], [], rfl, rfl, Nat.zero_le _, nofun⟩
  | cons x r ih =>
    have hx : itemBytes x ≤ room := hi x (List.mem_cons_self ..)
    have ih := ih fun y hy => hi y (List.mem_cons_of_mem _ hy)
    unfold packItems
    dsimp only
    split
    · obtain ⟨a, l, hp, hf, ha, hl⟩ := ih (left - itemBytes x)
      rw [hp]
      refine ⟨x :: a, l, rfl, congrArg (x :: ·) hf, ?_, hl⟩
      rw [itemsBytes, List.map_cons, List.sum_cons, ← itemsBytes]
      omega
    · obtain ⟨a, l, hp, hf, ha, hl⟩ := ih (room - itemBytes x)
      rw [hp]
      refine ⟨[], (x :: a) :: l, rfl, congrArg (x :: ·) hf, Nat.zero_le _, fun b hb => ?_⟩
      rcases List.mem_cons.mp hb with rfl | hb
      · rw [itemsBytes, List.map_cons, List.sum_cons, ← itemsBytes]
        omega
      · exact hl b hb

/-- All but the last of a list of frames carry MORE (R80). -/
theorem more_flags {α : Type} (a : α) (l : List α) :
    (a :: l).zipIdx.map (fun e => decide (e.2 + 1 < (a :: l).length)) = List.replicate l.length true ++ [false] := by
  refine List.ext_getElem (by simp) fun i h1 h2 => ?_
  rw [List.getElem_map, List.getElem_zipIdx, List.getElem_append]
  have h3 : i ≤ l.length := by simpa [Nat.lt_succ_iff] using h1
  split
  · rename_i h
    simpa using h
  · rename_i h
    simp only [List.length_replicate, not_lt] at h
    simp [Nat.le_antisymm h3 h]

/-- The frames of a reply: in order, none too long, all but the last with MORE (R80, R81). -/
theorem framed_spec (hp : 48 ≤ reg p G.plMaxDatagram) (items : List ReplyItem) :
    let l := framed p [] items
    l.flatMap (·.2) = items.map (fitItem p) ∧ (∀ e ∈ l, 36 + itemsBytes e.2 ≤ reg p G.plMaxDatagram) ∧
      l.map (·.1) = List.replicate (l.length - 1) true ++ [false] := by
  have hi : ∀ x ∈ items.map (fitItem p), itemBytes x ≤ frameRoom p := by
    intro x hx
    obtain ⟨y, -, rfl⟩ := List.mem_map.mp hx
    exact itemBytes_fitItem hp y
  obtain ⟨a, l, hpack, hf, ha, hl⟩ := packItems_fits hi (frameRoom p)
  have hframed : framed p [] items = (a :: l).zipIdx.map fun e => (decide (e.2 + 1 < (a :: l).length), e.1) := by
    unfold framed
    rw [List.length_nil, Nat.sub_zero, hpack]
  have hroom : frameRoom p + 36 = reg p G.plMaxDatagram := by unfold frameRoom; omega
  rw [hframed]
  refine ⟨?_, fun e he => ?_, ?_⟩
  · have hz : ((a :: l).zipIdx.map Prod.fst).flatten = a ++ l.flatten := by rw [List.zipIdx_map_fst, List.flatten_cons]
    rw [List.flatMap_map, ← hf, ← hz, List.flatMap_def]
  · obtain ⟨b, hb, rfl⟩ := List.mem_map.mp he
    have hb := List.fst_mem_of_mem_zipIdx hb
    have hle : itemsBytes b.1 ≤ frameRoom p := by
      rcases List.mem_cons.mp hb with h | h
      · rw [h]; exact ha
      · exact hl _ h
    dsimp only
    omega
  · rw [List.map_map, List.length_map, List.length_zipIdx]
    exact more_flags a l

/-! ## Kept replies -/

/-- The kept replies of a request's source, UDP port and session. -/
def ownReply (h : PlHeader) (r : CacheRec) : Bool := decide (r.source = h.source ∧ r.udpPort = h.udpPort ∧ r.session = h.session)

/-- The replies kept for a session, the new one first, at most 16 (R85). -/
def keptReplies (p : Part) (h : PlHeader) (frames : List PlFrame) : List CacheRec :=
  (⟨h.source, h.udpPort, h.session, h.seq, frames⟩ :: p.pl.cache.filter (ownReply h)).take 16

theorem sendReply_eq (p : Part) (h : PlHeader) (frames : List PlFrame) :
    sendReply p h frames = { p with
      pl := { p.pl with cache := keptReplies p h frames ++ p.pl.cache.filter fun r => !ownReply h r }
      sent := (frames.map (Out.frame (destOf h))).reverse ++ p.sent } := foldl_say ..

theorem keptReplies_own (p : Part) (h : PlHeader) (frames : List PlFrame) : ∀ r ∈ keptReplies p h frames, ownReply h r = true := by
  intro r hr
  rcases List.mem_cons.mp (List.mem_of_mem_take hr) with rfl | hr
  · simp [ownReply]
  · exact (List.mem_filter.mp hr).2

/-- A reply is kept under its request, with no other session's replies touched (R85). -/
theorem sendReply_cache (p : Part) (h : PlHeader) (frames : List PlFrame) :
    let q := sendReply p h frames
    q.pl.cache.find? (repeats h) = some ⟨h.source, h.udpPort, h.session, h.seq, frames⟩ ∧ (q.pl.cache.filter (ownReply h)).length ≤ 16 ∧
      q.pl.cache.filter (fun r => !ownReply h r) = p.pl.cache.filter (fun r => !ownReply h r) := by
  have hown := keptReplies_own p h frames
  rw [sendReply_eq]
  refine ⟨?_, ?_, ?_⟩
  · simp [keptReplies, repeats]
  · rw [List.filter_append, List.filter_eq_self.mpr hown, List.filter_filter]
    simp [keptReplies]
  · rw [List.filter_append, List.filter_eq_nil_iff.mpr fun r hr => by simp [hown r hr], List.filter_filter, List.nil_append]
    simp

/-- Settles O23: the frames, the kept reply, and the requests that are answered with one. -/
theorem requestsAreAnsweredOnce : Obligations.RequestsAreAnsweredOnce := by
  unfold Obligations.RequestsAreAnsweredOnce
  refine ⟨fun p items hp => ?_, fun p h status items => ?_, fun s h r hw hr hc => ?_⟩
  · obtain ⟨hflat, hfit, hmore⟩ := framed_spec hp items
    exact ⟨hflat, fun x _ hx => fitItem_of_fits hx, hfit, hmore⟩
  · obtain ⟨hfind, hlen, hother⟩ := sendReply_cache p h
      ((framed p [] items).map fun e => PlFrame.reply h.session h.seq p.time.tick status e.1 [] e.2)
    refine ⟨?_, hfind, hlen, hother, ?_⟩ <;> rw [reply, replyHead, sendReply_eq]
  · intro again t fits
    have hkept {i : Instr} {size : Nat} {f : Part → Part} (hi : exec i s = lift (fun p => request p h size f) s) (hs : fits size) : exec i s = t :=
      exec_next hi hw (request_kept hr hs hc)
    exact ⟨fun items hs => ⟨hkept (exec_read ..) hs, hkept (exec_write ..) hs, hkept (exec_writeBlock ..) hs⟩,
      fun period id mode items hs => hkept (exec_subscribe ..) hs, fun nonce resume hs => hkept (exec_attest ..) hs, fun hs => hkept (exec_discover ..) hs,
      fun mask tick c hs => exec_next (exec_fireRequest ..) hw (request_kept (p := atCyc s.part c) hr hs hc)⟩

end Sys2Proof.Machine
end

section
/-!
SUPPORT. O24 and O25: the items of READ, WRITE and WRITE_BLOCK (R58, R62, R76, R81, R83).
-/

namespace Sys2Proof.Machine

variable {p q : Part} {h : PlHeader} {x : PlItem} {e : Entry} {i s f k v code : Nat} {path : Path}

/-! ## READ -/

/-- A subindex found to be an entry's own is that entry's first. -/
theorem findEntry_self {l : List Entry} (hl : findEntry s l = .entry e f) : f = s := by
  induction l with
  | nil => cases hl
  | cons e' r ih =>
    unfold findEntry at hl
    split at hl
    · split at hl
      · cases hl
        assumption
      · cases hl
    · exact ih hl

theorem lookup_self (hl : lookup i s = .entry e f) : f = s := by
  unfold lookup at hl
  dsimp only at hl
  split_ifs at hl
  · cases hl
    rfl
  · exact findEntry_self hl

/-- Items of a READ none of which moves the block port leave the part as it is, and each is answered from it (R83). -/
theorem readItems_unmoved {b : Bool} {items : List PlItem} (hi : ∀ x ∈ items, (readItem p b x).1 = p) :
    readItems p b items = (p, items.map fun x => answerItem x (readItem p b x).2.1 (readItem p b x).2.2) := by
  induction items with
  | nil => rfl
  | cons x r ih =>
    unfold readItems
    dsimp only
    rw [hi x (List.mem_cons_self ..), ih fun y hy => hi y (List.mem_cons_of_mem _ hy)]
    rfl

/-- Settles O24: item by item, along what stands at its index and subindex. -/
theorem readsAnswerEveryItem : Obligations.ReadsAnswerEveryItem := by
  unfold Obligations.ReadsAnswerEveryItem
  intro s h items hw hf hd hs p result answer
  have hitem (x : PlItem) (hx : x ∈ items) : readItem p h.pending x = (p, result x) := by
    unfold readItem
    dsimp only [result]
    cases hl : lookup x.index x.sub with
    | noIndex => rfl
    | noSub => rfl
    | cont e f => rfl
    | numSubs n =>
      dsimp only
      split_ifs <;> rfl
    | entry e f =>
      have hfs := lookup_self hl
      subst hfs
      dsimp only
      rw [if_neg (hd x hx)]
      split_ifs
      · rfl
      · rfl
      · cases e.ty <;> rfl
      · cases e.ty <;> rfl
  refine exec_next (exec_read ..) hw ((request_fresh hf).trans ?_)
  rw [show readItems s.part h.pending items = _ from readItems_unmoved fun x hx => congrArg Prod.fst (hitem x hx)]
  exact congrArg (reply p h 0) (List.map_congr_left fun x hx => by rw [hitem x hx]; rfl)

/-! ## WRITE and WRITE_BLOCK -/

/-- A write item that names a value names it of an entry that is no bulk object. -/
theorem wanted_value (hw : wanted x = .value e (gkey x.index x.sub) v) : lookup x.index x.sub = .entry e x.sub ∧ ∀ n, e.ty ≠ .bulk n := by
  unfold wanted at hw
  cases hl : lookup x.index x.sub with
  | noIndex => rw [hl] at hw; cases hw
  | noSub => rw [hl] at hw; cases hw
  | cont e f => rw [hl] at hw; cases hw
  | numSubs n => rw [hl] at hw; cases hw
  | entry e' f =>
    have hfs := lookup_self hl
    subst hfs
    rw [hl] at hw
    dsimp only at hw
    cases ht : e'.ty <;> rw [ht] at hw <;> dsimp only at hw <;> split_ifs at hw <;>
    · cases hw
      exact ⟨rfl, fun n hn => by rw [ht] at hn; cases hn⟩

/-- A write that passes with the test of its posting domain passes without it (R76). -/
theorem checkWrite_unposted {w : Nat} (hc : checkWrite p e k w false true = 0) : checkWrite p e k w false false = 0 := by
  unfold checkWrite at hc ⊢
  simp only [Bool.false_and, Bool.false_eq_true, if_false]
  split_ifs at hc ⊢
  rfl

theorem writeItem_value {op : Nat} {posts last : Bool} (hw : wanted x = .value e k v) :
    writeItem p h op posts x last = writeEntry p (headerPath h) op posts e k v := by
  unfold writeItem
  rw [hw]

theorem writeItem_refuse {op : Nat} {posts last : Bool} (hw : wanted x = .refuse code) :
    writeItem p h op posts x last = logged (headerPath h) op (gkey x.index x.sub) (itemValue x) (p, .done code) := by
  unfold writeItem
  rw [hw]

/-- One item that has its code is answered with it at once (R83). -/
theorem replyItems_one {op : Nat} {posts : Bool} (hw : ∀ last, writeItem p h op posts x last = (q, .done code)) :
    replyItems (writeItems p h op posts [x]).1 h (writeItems p h op posts [x]).2 = reply q h 0 [answerItem x code []] := by
  unfold writeItems
  rw [hw]
  rfl

/-- An entry with no command effect refuses nothing of its own (R83). -/
theorem firstBad_value {l : List BulkBuf} (hw : wanted x = .value e k v) (hk : e.kind ≠ .cmd)
    (hc : checkWrite p e k (keptBits e (reg p k) v) false true = 0) : firstBad p h l [x] = none := by
  have ho (w : Nat) : ownCode p (headerPath h) e k w = 0 := if_neg fun hn => hk hn.1
  have hi (last : Bool) : (checkItem p h l x last).2 = 0 := by
    unfold checkItem
    rw [hw]
    dsimp only
    rw [hc, ho]
    rfl
  unfold firstBad
  dsimp only
  rw [hi]
  rfl

theorem firstBad_code {l : List BulkBuf} {items : List PlItem} (hb : firstBad p h l items = some (x, code)) : code ≠ 0 := by
  induction items generalizing l with
  | nil => cases hb
  | cons y r ih =>
    unfold firstBad at hb
    dsimp only at hb
    split at hb
    · cases hb
      assumption
    · exact ih hb

/-- A failing block logs its first failing item, and executes none (R83). -/
theorem writeBlockFrame_bad {items : List PlItem} (hb : firstBad p h p.pl.bulk items = some (x, code)) :
    writeBlockFrame p h items =
      reply (logAbort (itemOverrun p x code) (headerPath h) 2 code (gkey x.index x.sub / 256) (gkey x.index x.sub % 256) (itemValue x)) h code
        [answerItem x code []] := by
  unfold writeBlockFrame
  rw [hb]
  dsimp only
  rw [logged_refused (firstBad_code hb)]

theorem writeBlockFrame_good {items : List PlItem} (hb : firstBad p h p.pl.bulk items = none) :
    writeBlockFrame p h items = replyItems (writeItems p h 2 false items).1 h (writeItems p h 2 false items).2 := by
  unfold writeBlockFrame
  rw [hb]

/-- Settles O25: the item's write is that of its entry, whichever request carries it; what fails its check is only logged. -/
theorem writesExecuteTheirItems : Obligations.WritesExecuteTheirItems := by
  unfold Obligations.WritesExecuteTheirItems
  intro s h x hw path answer
  refine ⟨fun e v hf hx hs hk ht => ?_, fun code hf hx hc => ?_, fun items y code hf hb => ?_⟩
  · obtain ⟨hl, hb⟩ := wanted_value hx
    obtain ⟨-, h0, hfw⟩ := ht.elim hs hl
    have hcommand := commandWrite_applies hs hl hb hk ht
    rw [cleared_headerPath] at h0 hfw hcommand
    have hitem (op : Nat) (posts : Bool) (hc : checkWrite s.part e (gkey x.index x.sub) (keptBits e (reg s.part (gkey x.index x.sub)) v) false posts = 0)
        (last : Bool) : writeItem s.part h op posts x last =
          ((applyWrite s.part path e (gkey x.index x.sub) (keptBits e (reg s.part (gkey x.index x.sub)) v)).1, .done 0) :=
      (writeItem_value hx).trans (writeEntry_takes (entryOf_of hs hl) hk hc hfw)
    refine ⟨_, exec_next (exec_wholeWrite ..) hw hcommand, exec_next (exec_write ..) hw ((request_fresh hf).trans (replyItems_one (hitem 1 true h0))),
      exec_next (exec_writeBlock ..) hw ((request_fresh hf).trans ?_)⟩
    rw [writeBlockFrame_good (firstBad_value hx hk h0)]
    exact replyItems_one (hitem 2 false (checkWrite_unposted h0))
  · refine ⟨_, exec_next (exec_write ..) hw ((request_fresh hf).trans (replyItems_one fun last => ?_)), rfl⟩
    rw [writeItem_refuse hx, logged_refused hc]
  · exact ⟨_, exec_next (exec_writeBlock ..) hw ((request_fresh hf).trans (writeBlockFrame_bad hb)), rfl⟩

end Sys2Proof.Machine
end

section
/-!
SUPPORT. O26: subscriptions (R87).
-/

namespace Sys2Proof.Machine

variable {p q : Part} {h : PlHeader} {period id mode : Nat} {items : List PlItem} {l : List Sub} {x : Sub}

theorem exec_publication (id : Nat) (t : State) : exec (.publication id) t = lift (fun p => publish p id) t := by unfold exec; rfl

/-- The list of subscriptions and SUBS_ACTIVE change, and nothing else. -/
theorem setSubs_spec (p : Part) (l : List Sub) :
    (setSubs p l).pl.subs = l ∧ reg (setSubs p l) G.subsActive = l.length ∧
      setSubs p l = { p with gz := { p.gz with regs := (setSubs p l).gz.regs }, pl := { p.pl with subs := (setSubs p l).pl.subs } } ∧
      SameRegs p (setSubs p l) [G.subsActive] :=
  ⟨rfl, reg_setReg_same .., rfl, SameRegs.setReg (fun _ _ => rfl) (List.mem_singleton_self _) _⟩

/-- Some subscription has the identity. -/
def hasSub (l : List Sub) (id : Nat) : Bool := l.any fun s => decide (s.id = id)

theorem hasSub_iff : hasSub l id = true ↔ ∃ x ∈ l, x.id = id := by simp [hasSub]

/-- A MODE that is none, an identity that no subscription has, or the cancelling of identity 0 (R87). -/
def subUnknown (l : List Sub) (id mode : Nat) : Prop := 3 < mode ∨ (id ≠ 0 ∧ (!hasSub l id) = true) ∨ (mode = 3 ∧ id = 0)

/-- A subscription beyond its limits (R87). -/
def subBeyond (p : Part) (period id : Nat) (items : List PlItem) : Prop :=
  256 < items.length ∨ (period ≠ 0 ∧ period < reg p G.ticksPerSecond / 1000) ∨ (id = 0 ∧ 64 ≤ p.pl.subs.length)

theorem subscribeFrame_unknown (hu : subUnknown p.pl.subs id mode) : subscribeFrame p h period id mode items = reply p h 0x06 [] := if_pos hu

theorem subscribeFrame_cancels (hu : ¬ subUnknown p.pl.subs id 3) :
    subscribeFrame p h period id 3 items = subReply (setSubs p (p.pl.subs.filter fun s => decide (s.id ≠ id))) h id [] :=
  (if_neg hu).trans (if_pos rfl)

theorem subscribeFrame_beyond (hu : ¬ subUnknown p.pl.subs id mode) (hm : mode ≠ 3) (hb : subBeyond p period id items) :
    subscribeFrame p h period id mode items = reply p h 0x06 [] :=
  (if_neg hu).trans ((if_neg hm).trans (if_pos hb))

/-- The identity that a SUBSCRIBE makes or names (R87). -/
def subIdentity (l : List Sub) (id : Nat) : Nat := if id = 0 then freeSubId l else id

/-- The items of a SUBSCRIBE that can be read. -/
def readable (p : Part) (items : List PlItem) : List PlItem := items.filter fun x => decide ((sampleItem p x).status = 0)

/-- The subscription that a SUBSCRIBE makes: its destination, its items and their values now (R87). -/
def madeSub (p : Part) (h : PlHeader) (period id mode : Nat) (items : List PlItem) : Sub :=
  ⟨subIdentity p.pl.subs id, destOf h, h.session, period, mode, readable p items, 0, (readable p items).map (sampleItem p), p.time.tick, p.time.tick + 1⟩

theorem subscribeFrame_makes (hu : ¬ subUnknown p.pl.subs id mode) (hm : mode ≠ 3) (hb : ¬ subBeyond p period id items) :
    subscribeFrame p h period id mode items =
      subReply (setSubs p (p.pl.subs.filter (fun s => decide (s.id ≠ subIdentity p.pl.subs id)) ++ [madeSub p h period id mode items])) h
        (subIdentity p.pl.subs id) (items.map fun x => answerItem x (sampleItem p x).status []) :=
  (if_neg hu).trans ((if_neg hm).trans (if_neg hb))

/-! ## PUBLICATION -/

/-- The tick is one of a subscription's, n ticks apart, in which it has done nothing yet (R87). -/
@[reducible] def subTime (p : Part) (x : Sub) (n : Nat) : Prop := n ≠ 0 ∧ (p.time.tick + 2 ^ 64 - x.since) % 2 ^ 64 % n = 0 ∧ x.done ≠ p.time.tick + 1

/-- The subscription is compared in this tick. -/
@[reducible] def subCompares (p : Part) (x : Sub) : Prop := x.mode ≠ 0 ∧ subTime p x (reg p G.ticksPerSecond / 1000)

/-- The subscription publishes in this tick. -/
@[reducible] def subPublishes (p : Part) (x : Sub) : Prop :=
  (x.mode ≠ 1 ∧ subTime p x x.period) ∨ (subCompares p x ∧ x.items.map (sampleItem p) ≠ x.seen)

/-- The part with a subscription replaced. -/
def keepSub (p : Part) (id : Nat) (y : Sub) : Part :=
  { p with pl := { p.pl with subs := p.pl.subs.map fun z => if z.id = id then y else z } }

theorem publish_found (hx : p.pl.subs.find? (fun y => decide (y.id = id)) = some x) :
    publish p id =
      if subPublishes p x then
        (framed p [] (x.items.map (sampleItem p))).foldl
          (fun q e => say q (.frame x.dest (.publication x.session id x.count p.time.tick e.1 e.2)))
          (keepSub p id { x with count := x.count + 1, seen := if subCompares p x then x.items.map (sampleItem p) else x.seen, done := p.time.tick + 1 })
      else if subCompares p x then keepSub p id { x with done := p.time.tick + 1 } else p := by
  have hc : (decide (x.mode ≠ 0) && subDue p x (reg p G.ticksPerSecond / 1000)) = decide (subCompares p x) := by
    simp only [subDue, subCompares, subTime, Bool.decide_and]
  have hd : (decide (x.mode ≠ 1) && subDue p x x.period || (decide (x.mode ≠ 0) && subDue p x (reg p G.ticksPerSecond / 1000)) &&
      decide (subValues p x.items ≠ x.seen)) = decide (subPublishes p x) := by
    rw [hc]
    simp only [subDue, subPublishes, subTime, subValues, Bool.decide_and, Bool.decide_or]
    rfl
  unfold publish
  rw [hx]
  dsimp only
  rw [hd, hc]
  simp only [decide_eq_true_eq]
  rfl

theorem publish_unknown (hx : p.pl.subs.find? (fun y => decide (y.id = id)) = none) : publish p id = p := by
  unfold publish
  rw [hx]

/-- Settles O26: SUBSCRIBE by its limits, PUBLICATION by what is due. -/
theorem subscriptionsPublish : Obligations.SubscriptionsPublish := by
  unfold Obligations.SubscriptionsPublish
  intro s hw p l step replaced
  refine ⟨fun h period id mode items hf hm hi hp hid => ?_, fun h period id items hf h0 hid => ?_, fun h period id mode items hf hbad => ?_,
    fun id x hx => ?_, fun id hx => exec_next (exec_publication ..) hw (publish_unknown hx)⟩
  · have hu : ¬ subUnknown l id mode := by
      unfold subUnknown
      rcases hid with ⟨h0, -⟩ | ⟨h0, hid⟩
      · omega
      · simp only [hasSub_iff.mpr hid, Bool.not_true, Bool.false_eq_true, and_false, false_or]
        omega
    have hb : ¬ subBeyond p period id items := by
      unfold subBeyond
      rcases hid with ⟨-, hl⟩ | ⟨h0, -⟩
      · have hl : p.pl.subs.length < 64 := hl
        omega
      · omega
    exact ⟨_, exec_next (exec_subscribe ..) hw ((request_fresh hf).trans (subscribeFrame_makes hu (by omega) hb)), setSubs_spec ..⟩
  · have hu : ¬ subUnknown l id 3 := by
      simp [subUnknown, hasSub_iff.mpr hid, h0]
    exact ⟨_, exec_next (exec_subscribe ..) hw ((request_fresh hf).trans (subscribeFrame_cancels hu)), setSubs_spec ..⟩
  · refine exec_next (exec_subscribe ..) hw ((request_fresh hf).trans ?_)
    rcases hbad with h3 | ⟨h0, hn⟩ | h0 | ⟨hm, hb⟩
    · exact subscribeFrame_unknown (.inl h3)
    · exact subscribeFrame_unknown (.inr (.inl ⟨h0, by simpa [hasSub] using hn⟩))
    · exact subscribeFrame_unknown (.inr (.inr h0))
    · by_cases hu : subUnknown p.pl.subs id mode
      · exact subscribeFrame_unknown hu
      · exact subscribeFrame_beyond hu (by omega) hb
  · intro now due compares publishes kept frames next
    have hpub := publish_found hx
    refine ⟨fun hn => exec_next (exec_publication ..) hw ?_, fun hn => exec_next (exec_publication ..) hw ?_⟩
    · exact (hpub.trans (if_pos hn)).trans (foldl_say ..)
    · exact hpub.trans (if_neg hn)

end Sys2Proof.Machine
end

section
/-!
SUPPORT. O27 and O28: announces, partners and LLDP (R86 to R90).
-/

namespace Sys2Proof.Machine

variable {p q : Part} {port : EthPort} {i kind cyc : Nat}

theorem exec_announce (port : EthPort) (r : AnnounceRec) (t : State) : exec (.announce port r) t = lift (fun p => hearAnnounce p port r) t := by
  unfold exec; rfl
theorem exec_announceSend (t : State) : exec .announceSend t = lift sendAnnounce t := by unfold exec; rfl
theorem exec_partnerLost (i : Fin 32) (c : Cyc) (t : State) : exec (.partnerLost i c) t = lift (fun p => partnerTimeout p i c) t := by unfold exec; rfl
theorem exec_discoverReply (t : State) : exec .discoverReply t = lift answerDiscover t := by unfold exec; rfl
theorem exec_lldpSend (port : EthPort) (t : State) : exec (.lldpSend port) t = lift (fun p => sendLldp p port) t := by unfold exec; rfl
theorem exec_lldpReceive (port : EthPort) (r : LldpRec) (t : State) : exec (.lldpReceive port r) t = lift (fun p => takeLldp p port r) t := by
  unfold exec; rfl
theorem exec_plRxBad (t : State) : exec .plRxBad t = lift (fun p => if p.life.recovery then p else addReg p G.plRxBad 1) t := by unfold exec; rfl

/-! ## Announces that are sent -/

/-- The part with other output. -/
def resend (p : Part) (l : List Out) : Part := { p with sent := l }

/-- Steps that each send what the part tells them to, whatever has left it before. -/
theorem foldl_sends {α : Type} (g : Part → α → Part) (out : α → List Out) (p : Part)
    (hg : ∀ s x, g (resend p s) x = resend p ((out x).reverse ++ s)) (l : List α) (s : List Out) :
    l.foldl g (resend p s) = resend p ((l.flatMap out).reverse ++ s) := by
  induction l generalizing s with
  | nil => rfl
  | cons x l ih => rw [List.foldl_cons, hg, ih, List.flatMap_cons, List.reverse_append, List.append_assoc]

/-- The announce of a port to a group. -/
def announceOut (p : Part) (port : EthPort) (a : Nat) : Out := .frame ⟨port, a, reg p G.plUdpPort⟩ (.announce (ownAnnounce p port))

/-- ANNOUNCE_SEND sends to the groups of every enabled port, and does nothing else (R88). -/
theorem sendAnnounce_eq (hr : p.life.recovery = false) :
    sendAnnounce p =
      resend p (((portsOf (reg p G.plAnnounce)).flatMap fun port => (announceGroups p port).map (announceOut p port)).reverse ++ p.sent) := by
  have hport (s : List Out) (port : EthPort) :
      (announceGroups (resend p s) port).foldl (fun q a => say q (announceOut q port a)) (resend p s) =
        resend p (((announceGroups p port).map (announceOut p port)).reverse ++ s) := by
    have h := foldl_sends (fun q a => say q (announceOut q port a)) (fun a => [announceOut p port a]) p (fun _ _ => rfl) (announceGroups p port) s
    rwa [← List.map_eq_flatMap] at h
  unfold sendAnnounce
  rw [if_neg (by simp [hr])]
  exact foldl_sends _ _ p hport _ p.sent

/-! ## Partners -/

/-- What is written of a partner stands (Table 03-18). -/
theorem notePartner_entries (p : Part) (kind identity address prt role i : Nat) :
    let q := notePartner p kind identity address prt role i
    reg q (G.pKind i) = kind ∧ reg q (G.pIdentity i) = identity ∧ reg q (G.pAddress i) = address ∧ reg q (G.pPort i) = prt ∧ reg q (G.pRole i) = role ∧
      reg q (G.pLastTick i) = p.time.tick ∧ reg q (G.pState i) = 0 := by
  simp [notePartner, reg_setReg, G.pKind, G.pIdentity, G.pAddress, G.pPort, G.pLastTick, G.pState, G.pRole, gkey_eq_iff]

/-- The entries of partner i that hearing it writes. -/
def partnerKeys (i : Nat) : List Nat := [G.pKind i, G.pIdentity i, G.pAddress i, G.pPort i, G.pRole i, G.pLastTick i, G.pState i]

theorem notePartner_sameRegs (p : Part) (kind identity address prt role i : Nat) :
    SameRegs p (notePartner p kind identity address prt role i) (partnerKeys i) := by
  have h0 : SameRegs p { p with pl := { p.pl with heard := kput i (datumNow p) p.pl.heard, lost := p.pl.lost.filter fun j => decide (j ≠ i) } }
      (partnerKeys i) := fun _ _ => rfl
  have h3 := ((h0.setReg (k := G.pKind i) (by simp [partnerKeys]) kind).setReg (k := G.pIdentity i) (by simp [partnerKeys]) identity).setReg
    (k := G.pAddress i) (by simp [partnerKeys]) address
  exact (((h3.setReg (k := G.pPort i) (by simp [partnerKeys]) prt).setReg (k := G.pLastTick i) (by simp [partnerKeys]) p.time.tick).setReg
    (k := G.pState i) (by simp [partnerKeys]) 0).setReg (k := G.pRole i) (by simp [partnerKeys]) role

/-- A partner has just been heard. -/
theorem sinceHeard_notePartner (p : Part) (kind identity address prt role : Nat) (hi : i < 32) :
    sinceHeard (notePartner p kind identity address prt role i) i = 0 := by
  have hd : datumNow (notePartner p kind identity address prt role i) = datumNow p :=
    datumNow_congr rfl ((notePartner_moves p kind identity address prt role hi).on (by decide))
  have hk : kfind i (notePartner p kind identity address prt role i).pl.heard = some (datumNow p) := kfind_kput_same ..
  rw [sinceHeard, hd, hk, Option.getD_some, Nat.sub_self]

/-- An announce of a partner that is not the twin is heard (R88, R89). -/
theorem hearAnnounce_heard {r : AnnounceRec} (hr : p.life.recovery = false)
    (ht : r.role ≠ 3 → ¬ (paired p = true ∧ p.pair.peer.map (·.serial) = some r.serial)) :
    hearAnnounce p port r = hearPartner p (if r.role = 3 then 3 else 4) r.serial r.address (if port = .a then 1 else 2) r.role := by
  unfold hearAnnounce
  exact if_neg (by simpa [hr] using ht)

/-! ## Partners that are lost -/

theorem losePartner_producers (p : Part) (i cyc : Nat) : (losePartner p i cyc).fab.producers = p.fab.producers ++
    [⟨25 * p.time.tick + cyc, ⟨p.time.tick, 10 * cyc, 0xB82, 0⟩⟩] := raiseNow_producers _ _

theorem losePartner_sameRegs (p : Part) (i cyc : Nat) : SameRegs p (losePartner p i cyc) [G.pState i] :=
  SameRegs.setReg (fun _ _ => rfl) (List.mem_singleton_self _) 1

theorem reg_losePartner (p : Part) (i cyc : Nat) : reg (losePartner p i cyc) (G.pState i) = 1 := reg_setReg_same ..

/-- The subscriptions that the loss of partner i leaves (R87). -/
def subsAfterLoss (p : Part) (i : Nat) : List Sub :=
  if reg p (G.pKind i) = 3 then p.pl.subs.filter fun x => decide (x.dest.address ≠ reg p (G.pAddress i)) else p.pl.subs

/-- The loss of partner i, with the subscriptions of a lost host (R87, R88). -/
def lostPartner (p : Part) (i cyc : Nat) : Part :=
  if reg p (G.pKind i) = 3 then setSubs (losePartner p i cyc) (subsAfterLoss p i) else losePartner p i cyc

theorem partnerTimeout_lost (hk : reg p (G.pKind i) = 3 ∨ reg p (G.pKind i) = 4) (hs : reg p (G.pState i) = 0) (ht : 7 * secondUnits ≤ sinceHeard p i * 2) :
    partnerTimeout p i cyc = lostPartner p i cyc := by
  have ha : reg (losePartner p i cyc) (G.pAddress i) = reg p (G.pAddress i) :=
    losePartner_sameRegs p i cyc _ (by simp [G.pAddress, G.pState, gkey_eq_iff])
  unfold partnerTimeout lostPartner subsAfterLoss
  dsimp only
  rw [if_neg (by omega), ha]
  split_ifs <;> rfl

theorem partnerTimeout_early (ht : sinceHeard p i * 2 < 7 * secondUnits) : partnerTimeout p i cyc = p := if_pos (.inr (.inr ht))

/-- The subscriptions change in no other entry than their count. -/
theorem reg_setSubs_pState (p : Part) (l : List Sub) (hi : i < 32) : reg (setSubs p l) (G.pState i) = reg p (G.pState i) := by
  have hne : G.pState i ≠ G.subsActive := by
    simp only [G.pState, G.subsActive, gkey]
    omega
  exact reg_setReg_ne _ hne l.length

/-- What the loss of a partner leaves (R87, R88). -/
theorem lostPartner_spec (p : Part) (cyc : Nat) (hi : i < 32) :
    let q := lostPartner p i cyc
    reg q (G.pState i) = 1 ∧ q.pl.lost = p.pl.lost.filter (fun j => decide (j ≠ i)) ++ [i] ∧
      q.fab.producers = p.fab.producers ++ [⟨25 * p.time.tick + cyc, ⟨p.time.tick, 10 * cyc, 0xB82, 0⟩⟩] ∧ q.pl.subs = subsAfterLoss p i ∧
      SameRegs p q [G.pState i, G.subsActive] ∧ q.mem = p.mem ∧ q.seqs = p.seqs ∧ q.plans = p.plans ∧ q.sent = p.sent := by
  have hregs : SameRegs p (losePartner p i cyc) [G.pState i, G.subsActive] := (losePartner_sameRegs p i cyc).mono (by simp)
  dsimp only
  unfold lostPartner
  split_ifs with hk
  · exact ⟨(reg_setSubs_pState _ _ hi).trans (reg_losePartner ..), rfl, losePartner_producers .., rfl, hregs.setReg (by simp) _, rfl, rfl, rfl, rfl⟩
  · exact ⟨reg_losePartner .., rfl, losePartner_producers .., (if_neg hk).symm, hregs, rfl, rfl, rfl, rfl⟩

/-- Settles O27: what is heard by the place of the partner, what is sent by the enabled ports, what is lost by the time since it was heard. -/
theorem partnersAreHeardAndLost : Obligations.PartnersAreHeardAndLost := by
  unfold Obligations.PartnersAreHeardAndLost
  intro s hw hr p own v4 groups
  refine ⟨fun port r ht => ⟨fun i hi => ?_, fun hp hf => ?_⟩, ?_, fun i c hk hs => ⟨fun ht => ?_, fun ht => ?_⟩, fun h hf => ?_, fun h r hd => ?_⟩
  · have hat : PartnerAt p (if r.role = 3 then 3 else 4) r.serial i := hi
    have he := exec_next (exec_announce port r s) hw ((hearAnnounce_heard hr ht).trans (hearPartner_at _ _ _ hat))
    obtain ⟨h1, h2, h3, h4, h5, h6, h7⟩ :=
      notePartner_entries p (if r.role = 3 then 3 else 4) r.serial r.address (if port = .a then 1 else 2) r.role i
    exact ⟨_, he, h1, h2, h3, h4, h5, h6, h7, notePartner_sameRegs _ _ _ _ _ _ _, sinceHeard_notePartner _ _ _ _ _ _ hat.lt, rfl, rfl⟩
  · refine exec_next (exec_announce port r s) hw ((hearAnnounce_heard hr ht).trans (hearPartner_full _ _ _ fun i hi => ?_))
    rcases hi with hi | ⟨-, hi⟩
    · cases hp.symm.trans hi
    · cases hf.symm.trans hi
  · exact exec_next (exec_announceSend s) hw (sendAnnounce_eq hr)
  · exact ⟨_, exec_next (exec_partnerLost i c s) hw (partnerTimeout_lost hk hs ht), lostPartner_spec p c i.isLt⟩
  · exact exec_next (exec_partnerLost i c s) hw (partnerTimeout_early ht)
  · exact exec_next (exec_discover h s) hw (request_fresh hf)
  · refine exec_next (exec_discoverReply s) hw ?_
    unfold answerDiscover
    rw [hd]
    rfl

/-! ## LLDP, and frames that are dropped -/

theorem contains_portsOf (m : Nat) (port : EthPort) : (portsOf m).contains port = bit m (if port = .a then 0 else 1) := by
  have h (a b : Bool) : ((if a then [EthPort.a] else []) ++ (if b then [EthPort.b] else [])).contains port = if port = .a then a else b := by
    cases port <;> cases a <;> cases b <;> rfl
  rw [portsOf, h]
  cases port <;> rfl

/-- Settles O28: a port sends where its bit is set; what is heard is the port's neighbour; a bad frame is counted. -/
theorem lldpAndBadFrames : Obligations.LldpAndBadFrames := by
  unfold Obligations.LldpAndBadFrames
  intro s hw hr p
  have hnot : ¬ s.part.life.recovery = true := by simp [hr]
  refine ⟨fun port => exec_next (exec_lldpSend port s) hw ?_, fun r => ⟨?_, ?_⟩, _, exec_next (exec_plRxBad s) hw (if_neg hnot), ?_,
    (OnlyRegs.refl p _).setReg (List.mem_singleton_self _) _⟩
  · unfold sendLldp
    dsimp only
    rw [contains_portsOf]
    simp only [hr, Bool.not_false, and_true]
    rfl
  · exact exec_next (exec_lldpReceive .a r s) hw (if_neg hnot)
  · exact exec_next (exec_lldpReceive .b r s) hw (if_neg hnot)
  · rw [reg_addReg, if_pos rfl]

end Sys2Proof.Machine
end

section
/-!
SUPPORT. O29: attestation reports (R92, R368).
-/

namespace Sys2Proof.Machine

variable {p q : Part} {h : PlHeader} {path : Path} {nonce resume code : Nat}

theorem exec_attNonce (path : Path) (n : Nat) (t : State) : exec (.attNonce path n) t = lift (fun p => commandWrite p path 0x1905 0x0F n) t := by
  unfold exec; rfl
theorem exec_attSignDone (t : State) : exec .attSignDone t = lift attFinish t := by unfold exec; rfl

/-- The part holds a new nonce and signs its report (R368). -/
def beginSigning (p : Part) (nonce : Nat) : Part :=
  setReg { p with life := { p.life with nonce := some nonce, report := [] } } G.attState 1

theorem beginSigning_spec (p : Part) (nonce : Nat) :
    (beginSigning p nonce).life = { p.life with nonce := some nonce, report := [] } ∧ reg (beginSigning p nonce) G.attState = 1 ∧
      SameRegs p (beginSigning p nonce) [G.attState] ∧ (beginSigning p nonce).mem = p.mem ∧ (beginSigning p nonce).seqs = p.seqs ∧
      (beginSigning p nonce).fab = p.fab :=
  ⟨rfl, reg_setReg_same .., SameRegs.setReg (q := { p with life := { p.life with nonce := some nonce, report := [] } }) (fun _ _ => rfl)
    (List.mem_singleton_self _) 1, rfl, rfl, rfl⟩

/-! ## A nonce arrives, by the lifecycle state and the nonce held -/

theorem attBegin_new (ha : mayAttest p = true) (hn : p.life.nonce ≠ some nonce) : attBegin p nonce = (beginSigning p nonce, 0) := by
  unfold attBegin
  rw [ha, if_neg (by decide), if_neg hn]
  rfl

theorem attBegin_held (ha : mayAttest p = true) (hn : p.life.nonce = some nonce) : attBegin p nonce = (p, 0) := by
  unfold attBegin
  rw [ha, if_neg (by decide), if_pos hn]

theorem attBegin_refused (ha : mayAttest p = false) : attBegin p nonce = (p, 0x0C) := by
  unfold attBegin
  rw [ha, if_pos (by decide)]

/-! ## ATTEST -/

/-- The report of this nonce is held and ready. -/
def reportReady (p : Part) (nonce : Nat) : Prop := p.life.nonce = some nonce ∧ reg p G.attState = 2 ∧ mayAttest p = true

theorem attestFrame_testing (ht : p.life.test ≠ 0) : attestFrame p h nonce resume = reply p h 0x0B [] := if_pos ht

theorem attestFrame_ready (ht : p.life.test = 0) (hr : reportReady p nonce) :
    attestFrame p h nonce resume = sendReply p h (reportFrames p h resume) := (if_neg (not_not.mpr ht)).trans (if_pos hr)

theorem attestFrame_unready (ht : p.life.test = 0) (hr : ¬ reportReady p nonce) (hb : attBegin p nonce = (q, code)) :
    attestFrame p h nonce resume =
      if code = 0 then sendReply q h [.report h.session h.seq p.time.tick 0 0 false []] else reply q h code [] := by
  refine (if_neg (not_not.mpr ht)).trans ((if_neg hr).trans ?_)
  rw [hb]

/-! ## ATT_NONCE -/

def entryAttNonce : Entry := ⟨15, 15, 1, .blob 32 .bytes, .wo, .live, 0, .none, false, false, .any, .cmd⟩

theorem lookup_attNonce : lookup 0x1905 0x0F = .entry entryAttNonce 0x0F := by decide

/-- What attestation rests on is not changed by what is staged. -/
theorem mayAttest_cleared (p : Part) (path : Path) (k : Nat) : mayAttest (cleared p path k) = mayAttest p := by
  unfold mayAttest
  rw [cleared_reg _ _ _ (by decide)]

theorem life_cleared (p : Part) (path : Path) (k : Nat) : (cleared p path k).life = p.life := by rw [cleared_onlyGz p path k]

/-- A taken ATT_NONCE of a new nonce starts its signing (R368). -/
theorem write_attNonce (ht : Takes p path G.attNonce nonce) (ha : mayAttest p = true) (hn : p.life.nonce ≠ some nonce) :
    commandWrite p path 0x1905 0x0F nonce = tell (beginSigning (cleared p path G.attNonce) nonce) path 0 :=
  commandWrite_takes (e := entryAttNonce) (by decide) lookup_attNonce rfl nofun (by decide) ht
    (effect_attNonce.trans (attBegin_new ((mayAttest_cleared ..).trans ha) (by rwa [life_cleared]))) (jobs_of_adm rfl)

/-! ## ATT_SIGN_DONE -/

/-- The part with a report that is signed (R368). -/
def withReport (p : Part) (l : List Byte) : Part := setReg { p with life := { p.life with report := l } } G.attState 2

theorem withReport_spec (p : Part) (l : List Byte) :
    reg (withReport p l) G.attState = 2 ∧ (withReport p l).life.nonce = p.life.nonce ∧ (withReport p l).life.report = l ∧
      (withReport p l).mem = p.mem ∧ (withReport p l).seqs = p.seqs := ⟨reg_setReg_same .., rfl, rfl, rfl, rfl⟩

/-- The report is its body and the signature of it (R368). -/
theorem attFinish_signing (hs : reg p G.attState = 1) :
    attFinish p = withReport p (reportBody p ++ padTo 17088 (Config.slhSign p.life.ak (reportBody p))) := if_pos hs

/-- Settles O29: an ATTEST by what the part holds of its nonce, then what begins and what ends a signing. -/
theorem attestRequestsAreServed : Obligations.AttestRequestsAreServed := by
  unfold Obligations.AttestRequestsAreServed
  intro s hw p begun
  have hattest {h : PlHeader} {nonce resume : Nat} {q : Part} (hf : Fresh p h 72) (hq : attestFrame p h nonce resume = q) :
      exec (.attest h nonce resume) s = .next { s with part := q } := exec_next (exec_attest ..) hw ((request_fresh hf).trans hq)
  refine ⟨fun h nonce resume hf ht ha hn hs => hattest hf (attestFrame_ready ht ⟨hn, hs, ha⟩), fun h nonce resume hf ht ha hn => ?_,
    fun h nonce resume hf ht ha hn hs => ?_, fun h nonce resume hf ht ha => ?_, fun h nonce resume hf ht => hattest hf (attestFrame_testing ht),
    fun path nonce ht ha hn => ⟨_, exec_next (exec_attNonce ..) hw (write_attNonce ht ha hn), beginSigning_spec ..⟩, fun hs => ?_,
    fun hs => exec_next (exec_attSignDone s) hw (if_neg hs)⟩
  · exact ⟨_, hattest hf (attestFrame_unready ht (fun hr => hn hr.1) (attBegin_new ha hn)), beginSigning_spec ..⟩
  · exact hattest hf (attestFrame_unready ht (fun hr => hs hr.2.1) (attBegin_held ha hn))
  · refine hattest hf (attestFrame_unready ht (fun hr => ?_) (attBegin_refused ha))
    exact Bool.false_ne_true (ha.symm.trans hr.2.2)
  · obtain ⟨hstate, hnonce, hreport, hmem, hseqs⟩ :=
      withReport_spec p (reportBody p ++ padTo 17088 (Config.slhSign p.life.ak (reportBody p)))
    refine ⟨_, exec_next (exec_attSignDone s) hw (attFinish_signing hs), hstate, hnonce, ?_, hmem, hseqs⟩
    rw [hreport]
    exact List.prefix_append ..

end Sys2Proof.Machine
end

section
/-!
SUPPORT. O30: software pulses and timed firings (R91, R109 to R111).
-/

namespace Sys2Proof.Machine

variable {p q r : Part} {l m : List Nat} {mask tick off due : Nat}

theorem exec_fireMask (path : Path) (mask : Nat) (c : Cyc) (t : State) :
    exec (.fireMask path mask c) t = lift (fun p => commandWrite (atCyc p c) path 0x10E8 0x02 mask) t := by unfold exec; rfl
theorem exec_timedFire (t : State) : exec .timedFire t = lift (fun p => fireTick (atCyc p 0) p.time.tick) t := by unfold exec; rfl

/-- Steps that each add what they are told at the end of a list add it all, in order. -/
theorem foldl_appends {σ α β : Type} {v : σ → List β} {f : σ → α → σ} {out : α → List β} (h : ∀ q x, v (f q x) = v q ++ out x)
    (l : List α) (p : σ) : v (l.foldl f p) = v p ++ l.flatMap out := by
  induction l generalizing p with
  | nil => simp
  | cons x l ih => rw [List.foldl_cons, ih, h, List.flatMap_cons, List.append_assoc]

theorem ecFlags_inj {i j : Nat} : G.ecFlags i = G.ecFlags j ↔ i = j := by
  simp only [G.ecFlags, gkey]
  omega

/-! ## A software pulse -/

/-- Between p and q nothing has changed but the pulses on their way to channels and the values in force at the keys of a list. -/
structure FireFrame (l : List Nat) (p q : Part) : Prop where
  units : q = { p with gz := { p.gz with regs := q.gz.regs }, fab := { p.fab with arrivals := q.fab.arrivals } }
  regs  : SameRegs p q l

theorem FireFrame.refl (l : List Nat) (p : Part) : FireFrame l p p := ⟨rfl, fun _ _ => rfl⟩

theorem FireFrame.trans (h : FireFrame l p q) (g : FireFrame l q r) : FireFrame l p r := by
  refine ⟨?_, h.regs.trans g.regs⟩
  have hg := g.units
  rw [h.units] at hg
  exact hg

theorem FireFrame.mono (h : FireFrame l p q) (hl : ∀ k ∈ l, k ∈ m) : FireFrame m p q := ⟨h.units, h.regs.mono hl⟩

theorem FireFrame.fold {α : Type} {f : Part → α → Part} {xs : List α} (hf : ∀ q, ∀ x ∈ xs, FireFrame l q (f q x)) (p : Part) :
    FireFrame l p (xs.foldl f p) :=
  List.foldlRecOn xs f (motive := FireFrame l p) (.refl l p) fun q hq x hx => hq.trans (hf q x hx)

/-- The software pulse on channel ec (R109, R110). -/
def softArrival (tick off due ec : Nat) : Arrival := ⟨ec, 16, due, ⟨tick, off, 0xFFF, 0⟩⟩

/-- A software pulse is put on channel ec, which is flagged (R110). -/
def softPulse (tick off due : Nat) (p : Part) (ec : Nat) : Part :=
  let q := orReg p (G.ecFlags ec) 8
  { q with fab := { q.fab with arrivals := q.fab.arrivals ++ [softArrival tick off due ec] } }

theorem softFire_eq (p : Part) (mask tick off due : Nat) :
    softFire p mask tick off due = ((List.range 256).filter (bit mask)).foldl (softPulse tick off due) p := by
  rw [List.foldl_filter]
  rfl

theorem softPulse_frame (p : Part) (tick off due ec : Nat) : FireFrame [G.ecFlags ec] p (softPulse tick off due p ec) :=
  ⟨rfl, SameRegs.setReg (fun _ _ => rfl) (List.mem_singleton_self _) _⟩

/-- The flags of a channel after pulses on a list of channels. -/
theorem ecFlags_softPulses (xs : List Nat) (p : Part) (ec : Nat) :
    reg (xs.foldl (softPulse tick off due) p) (G.ecFlags ec) = if ec ∈ xs then reg p (G.ecFlags ec) ||| 8 else reg p (G.ecFlags ec) := by
  induction xs generalizing p with
  | nil => rfl
  | cons x xs ih =>
    have hx : reg (softPulse tick off due p x) (G.ecFlags ec) = if ec = x then reg p (G.ecFlags x) ||| 8 else reg p (G.ecFlags ec) :=
      (reg_orReg p (G.ecFlags x) 8 (G.ecFlags ec)).trans (if_congr ecFlags_inj rfl rfl)
    rw [List.foldl_cons, ih, hx]
    by_cases h : ec = x
    · subst h
      simp
    · simp [h]

theorem softFire_arrivals (p : Part) (mask tick off due : Nat) :
    (softFire p mask tick off due).fab.arrivals = p.fab.arrivals ++ ((List.range 256).filter (bit mask)).map (softArrival tick off due) := by
  rw [softFire_eq, List.map_eq_flatMap]
  exact foldl_appends (v := fun q : Part => q.fab.arrivals) (fun _ _ => rfl) _ p

theorem softFire_frame (p : Part) (mask tick off due : Nat) :
    FireFrame ((List.range 256).map G.ecFlags) p (softFire p mask tick off due) := by
  rw [softFire_eq]
  refine FireFrame.fold (fun q ec hec => (softPulse_frame q tick off due ec).mono ?_) p
  intro k hk
  rw [List.mem_singleton.mp hk]
  exact List.mem_map_of_mem (List.mem_of_mem_filter hec)

/-- Firing a mask puts a software pulse on every channel of it, and changes nothing else (R109, R110). -/
theorem softFire_fired (p : Part) (mask tick off due : Nat) : SoftFired p (softFire p mask tick off due) mask tick off due := by
  refine ⟨(softFire_frame ..).units, softFire_arrivals .., fun ec hec => ?_, (softFire_frame ..).regs⟩
  rw [softFire_eq, ecFlags_softPulses]
  simp [hec]

/-! ## Firing now, and firing later -/

theorem fire_now (p : Part) (mask : Nat) : fire p mask 0 = (softFire p mask p.time.tick (10 * p.time.cyc) (acyc p + 2), 0) := if_pos rfl

/-- A mask waits for its tick (R111). -/
def awaitFire (p : Part) (mask t : Nat) : Part :=
  setReg { p with fab := { p.fab with fires := p.fab.fires ++ [(t, mask)] } } G.firePending (p.fab.fires.length + 1)

theorem fire_later {t : Nat} (ht : p.time.tick < t) (hl : p.fab.fires.length < 16) : fire p mask t = (awaitFire p mask t, 0) := by
  unfold fire
  rw [if_neg (by omega), if_neg (by omega), if_neg (by omega)]
  rfl

theorem awaitFire_spec (p : Part) (mask t : Nat) :
    (awaitFire p mask t).fab = { p.fab with fires := p.fab.fires ++ [(t, mask)] } ∧
      reg (awaitFire p mask t) G.firePending = p.fab.fires.length + 1 ∧ SameRegs p (awaitFire p mask t) [G.firePending] ∧
      awaitFire p mask t = { p with gz := { p.gz with regs := (awaitFire p mask t).gz.regs }, fab := (awaitFire p mask t).fab } :=
  ⟨rfl, reg_setReg_same .., SameRegs.setReg (q := { p with fab := { p.fab with fires := p.fab.fires ++ [(t, mask)] } }) (fun _ _ => rfl)
    (List.mem_singleton_self _) _, rfl⟩

/-- FIRE_MASK (R109). -/
def entryFireMask : Entry := ⟨2, 2, 1, .blob 32 .mask, .wo, .live, 0, .none, false, false, .any, .cmd⟩

theorem lookup_fireMask : lookup 0x10E8 0x02 = .entry entryFireMask 0x02 := by decide

/-- A taken FIRE_MASK fires its mask at the tick of FIRE_AT_TICK (R109). -/
theorem write_fireMask {path : Path} (ht : Takes p path G.fireMask mask) (hm : mask < 2 ^ 256)
    (hf : fire (cleared p path G.fireMask) mask (reg (cleared p path G.fireMask) G.fireAtTick) = (q, 0))
    (ha : q.adm = (cleared p path G.fireMask).adm) :
    commandWrite p path 0x10E8 0x02 mask = tell q path 0 := by
  refine commandWrite_takes (e := entryFireMask) (by decide) lookup_fireMask rfl nofun (by decide) ht (effect_fireMask.trans ?_) (jobs_of_adm ha)
  have hk : keptBits entryFireMask (reg (cleared p path (gkey 0x10E8 2)) (gkey 0x10E8 2)) mask = mask := rfl
  rw [hk, if_pos hm, Nat.mod_eq_of_lt hm]
  exact hf

/-- A FIRE that a part fires itself is answered with the code of the firing (R91). -/
theorem fireFrame_own {h : PlHeader} {t : Nat} (ht : p.life.test = 0) (hr : refusesMirrored p = false) (hf : forwards p = false)
    (hq : fire p mask t = (q, 0)) : fireFrame p h mask t = reply q h 0 [] := by
  unfold fireFrame
  simp [ht, hr, hf, hq]

/-! ## Timed firings -/

/-- The firings that wait for another tick go on waiting, and are counted (R111). -/
def keepFires (p : Part) (l : List (Nat × Nat)) : Part := setReg { p with fab := { p.fab with fires := l } } G.firePending l.length

theorem firePending_not_ecFlags : G.firePending ∉ (List.range 256).map G.ecFlags := by
  simp only [List.mem_map, not_exists, not_and, G.firePending, G.ecFlags, gkey]
  omega

/-- The masks of tick t are fired together, in core cycle 0, and the others go on waiting (R111). -/
theorem fireDue_spec (p : Part) (t : Nat) :
    let rest := p.fab.fires.filter fun e => decide (e.1 ≠ t)
    let due := p.fab.fires.filter fun e => decide (e.1 = t)
    let q := fireDue p t
    q.fab.fires = rest ∧ reg q G.firePending = rest.length ∧
      q.fab.arrivals = p.fab.arrivals ++ due.flatMap (fun e => ((List.range 256).filter (bit e.2)).map (softArrival t 0 (25 * t + 2))) ∧
      SameRegs p q (G.firePending :: (List.range 256).map G.ecFlags) ∧ q.mem = p.mem ∧ q.seqs = p.seqs ∧ q.plans = p.plans := by
  intro rest due q
  have hframe : FireFrame ((List.range 256).map G.ecFlags) (keepFires p rest) q := FireFrame.fold (fun q e _ => softFire_frame ..) _
  have hkeep : SameRegs p (keepFires p rest) (G.firePending :: (List.range 256).map G.ecFlags) :=
    SameRegs.setReg (q := { p with fab := { p.fab with fires := rest } }) (fun _ _ => rfl) (List.mem_cons_self ..) _
  refine ⟨by rw [hframe.units]; rfl, (hframe.regs _ firePending_not_ecFlags).trans (reg_setReg_same ..), ?_,
    hkeep.trans (hframe.regs.mono fun _ hk => List.mem_cons_of_mem _ hk), by rw [hframe.units]; rfl, by rw [hframe.units]; rfl,
    by rw [hframe.units]; rfl⟩
  exact foldl_appends (v := fun q : Part => q.fab.arrivals) (fun q e => softFire_arrivals q e.2 t 0 (25 * t + 2)) due (keepFires p rest)

/-- Firings that are discarded leave those that wait, and are counted (R111). -/
theorem discardFires_some (p : Part) (f : Nat → Bool) (h : p.fab.fires.filter (fun e => f e.1) ≠ []) :
    let gone := p.fab.fires.filter fun e => f e.1
    let rest := p.fab.fires.filter fun e => !f e.1
    let q := discardFires p f
    q.fab = { p.fab with fires := rest } ∧ reg q G.firePending = rest.length ∧
      reg q G.fireDiscarded = (reg p G.fireDiscarded + gone.length) % 2 ^ regWidth G.fireDiscarded ∧
      OnlyRegs { p with fab := q.fab } q [G.firePending, G.fireDiscarded, G.fabricFlags] := by
  intro gone rest q
  have hq : q = orReg (addReg (keepFires p rest) G.fireDiscarded gone.length) G.fabricFlags 8 :=
    if_neg fun he => h (List.isEmpty_iff.mp he)
  have h1 : G.fireDiscarded ≠ G.fabricFlags := by decide
  have h2 : G.firePending ≠ G.fabricFlags := by decide
  have h3 : G.firePending ≠ G.fireDiscarded := by decide
  rw [hq]
  refine ⟨rfl, ?_, ?_, (((OnlyRegs.refl _ _).setReg (by simp) _).setReg (by simp) _).setReg (by simp) _⟩
  · rw [reg_orReg, if_neg h2, reg_addReg, if_neg h3]
    exact reg_setReg_same ..
  · rw [reg_orReg, if_neg h1, reg_addReg, if_pos rfl]
    exact congrArg (fun x => (x + gone.length) % 2 ^ regWidth G.fireDiscarded) (reg_setReg_ne _ h3.symm _)

theorem discardFires_none (p : Part) (f : Nat → Bool) (h : p.fab.fires.filter (fun e => f e.1) = []) : discardFires p f = p :=
  if_pos (List.isEmpty_iff.mpr h)

/-- Settles O30: a mask is fired now or waits, by whichever way it comes; the masks of a tick are fired together, or discarded. -/
theorem firingsAssertTheirChannels : Obligations.FiringsAssertTheirChannels := by
  unfold Obligations.FiringsAssertTheirChannels
  intro s mask c hw hm now later
  have hnow (p : Part) (hc : p.time.cyc = c.val) : now p (softFire p mask p.time.tick (10 * p.time.cyc) (acyc p + 2)) := by
    rw [acyc, hc]
    exact softFire_fired ..
  refine ⟨fun path ht => ?_, fun h t hf htest hr hfw => ?_, ?_⟩
  · intro p t
    have hexec {q : Part} (hq : fire p mask t = (q, 0)) (ha : q.adm = p.adm) :
        exec (.fireMask path mask c) s = .next { s with part := tell q path 0 } :=
      exec_next (exec_fireMask ..) hw (write_fireMask ht hm hq ha)
    have hc : p.time.cyc = c.val := congrArg (fun q : Part => q.time.cyc) (cleared_onlyGz (atCyc s.part c) path G.fireMask)
    refine ⟨fun h0 => ⟨_, hexec (h0 ▸ fire_now p mask) ?_, hnow p hc⟩,
      fun hlt hlen => ⟨_, hexec (fire_later hlt hlen) rfl, awaitFire_spec ..⟩⟩
    rw [(softFire_frame ..).units]
  · intro p
    have hexec {q : Part} (hq : fire p mask t = (q, 0)) : exec (.fireRequest h mask t c) s = .next { s with part := reply q h 0 [] } :=
      exec_next (exec_fireRequest ..) hw ((request_fresh (p := p) hf).trans (fireFrame_own htest hr hfw hq))
    exact ⟨fun h0 => ⟨_, hexec (h0 ▸ fire_now p mask), hnow p rfl⟩, fun hlt hlen => ⟨_, hexec (fire_later hlt hlen), awaitFire_spec ..⟩⟩
  · intro p rest due
    have hrest : p.fab.fires.filter (fun e => !decide (e.1 = p.time.tick)) = rest := List.filter_congr fun e _ => by rw [decide_not]
    have hexec {q : Part} (hq : fireTick p p.time.tick = q) : exec .timedFire s = .next { s with part := q } := exec_next (exec_timedFire s) hw hq
    refine ⟨fun h0 => ⟨_, hexec (if_pos h0), fireDue_spec p p.time.tick⟩, fun h0 hd => ?_,
      fun h0 hd => hexec ((if_neg h0).trans (discardFires_none p _ hd))⟩
    have hspec := discardFires_some p (fun k => decide (k = p.time.tick)) hd
    rw [hrest] at hspec
    exact ⟨_, hexec (if_neg h0), hspec⟩

end Sys2Proof.Machine
end

section
/-!
SUPPORT. What the tasks of an event channel leave as it was (R100, R101, R105, R106): the capture stage with its latches, and the pins' drive tasks.
-/

namespace Sys2Proof.Machine

variable {p q r : Part}

/-- An entry that a pin, a drop counter of a real-time task or the capture stage counts in. -/
def taskKey (k : Nat) : Prop := 0x1400 ≤ k / 256 ∨ k = G.captureOverflow ∨ k = G.fabricFlags

theorem taskKey_gkey {i s : Nat} (hi : 0x1400 ≤ i) (hs : s < 256) : taskKey (gkey i s) := .inl ((gkey_div i s hs).symm ▸ hi)

/-- Between p and q pins and real-time inputs may have moved with the entries they count in, and pin changes have left the part: nothing else has
changed, and no interrupt message has left. -/
structure TaskFrame (p q : Part) : Prop where
  units : q = { p with
    gz := { p.gz with regs := q.gz.regs }, sent := q.sent
    fab := { p.fab with captured := q.fab.captured, latches := q.fab.latches, taken := q.fab.taken, evio := q.fab.evio, log := q.fab.log } }
  regs  : ∀ k, ¬ taskKey k → reg q k = reg p k
  msix  : ∀ w, .msix w ∈ q.sent → .msix w ∈ p.sent

theorem TaskFrame.refl (p : Part) : TaskFrame p p := ⟨rfl, fun _ _ => rfl, fun _ h => h⟩

theorem TaskFrame.trans (h : TaskFrame p q) (g : TaskFrame q r) : TaskFrame p r := by
  refine ⟨?_, fun k hk => (g.regs k hk).trans (h.regs k hk), fun w hw => h.msix w (g.msix w hw)⟩
  have hg := g.units
  rw [h.units] at hg
  exact hg

theorem TaskFrame.fold {α : Type} {f : Part → α → Part} (hf : ∀ q x, TaskFrame q (f q x)) (l : List α) (p : Part) :
    TaskFrame p (l.foldl f p) :=
  List.foldlRecOn l f (motive := TaskFrame p) (.refl p) fun q hq x _ => hq.trans (hf q x)

theorem TaskFrame.setReg (h : TaskFrame p q) {k : Nat} (hk : taskKey k) (v : Nat) : TaskFrame p (setReg q k v) :=
  h.trans ⟨rfl, fun j hj => reg_setReg_ne q (fun e : j = k => hj (e ▸ hk)) v, fun _ hw => hw⟩
theorem TaskFrame.addReg (h : TaskFrame p q) {k : Nat} (hk : taskKey k) (d : Nat) : TaskFrame p (addReg q k d) := h.setReg hk _
theorem TaskFrame.orReg (h : TaskFrame p q) {k : Nat} (hk : taskKey k) (m : Nat) : TaskFrame p (orReg q k m) := h.setReg hk _

theorem TaskFrame.setPin (h : TaskFrame p q) (n : Nat) (x : PinSt) : TaskFrame p (setPin q n x) := h.trans ⟨rfl, fun _ _ => rfl, fun _ hw => hw⟩
theorem TaskFrame.sayPin (h : TaskFrame p q) (pin : Nat) (b : Bool) (n : Nat) : TaskFrame p (say q (.evio pin b n)) :=
  h.trans ⟨rfl, fun _ _ => rfl, fun _ hw => (List.mem_cons.mp hw).resolve_left nofun⟩
theorem TaskFrame.setLatch (h : TaskFrame p q) (l : Nat) (x : Option Latch) : TaskFrame p (setLatch q l x) :=
  h.trans ⟨rfl, fun _ _ => rfl, fun _ hw => hw⟩
theorem TaskFrame.taken (h : TaskFrame p q) (m : KMap (Nat × Nat × Option Latch)) : TaskFrame p { q with fab := { q.fab with taken := m } } :=
  h.trans ⟨rfl, fun _ _ => rfl, fun _ hw => hw⟩
theorem TaskFrame.captures (h : TaskFrame p q) (m : KMap Nat) (l : List (Nat × LogRecord)) :
    TaskFrame p { q with fab := { q.fab with captured := m, log := l } } :=
  h.trans ⟨rfl, fun _ _ => rfl, fun _ hw => hw⟩

/-! ## The capture stage -/

theorem taskKey_drops (l : Nat) : taskKey (taskOf l).2.2 := by
  unfold taskOf
  dsimp only
  split_ifs <;> exact taskKey_gkey (by omega) (by decide)

theorem TaskFrame.holdPulse (h : TaskFrame p q) (l t : Nat) {drops : Nat} (hd : taskKey drops) (x : Pulse) :
    TaskFrame p (holdPulse q l t drops x) := by
  unfold Machine.holdPulse
  split
  · exact h.setLatch _ _
  · dsimp only
    split
    · exact (h.addReg hd 1).setLatch _ _
    · exact h.addReg hd 1

theorem TaskFrame.latchPulse (h : TaskFrame p q) (l t : Nat) (x : Pulse) : TaskFrame p (latchPulse q l t x) := by
  unfold Machine.latchPulse
  extract_lets k take
  have hd : taskKey k.2.2 := taskKey_drops l
  have htake {r : Part} (hr : TaskFrame p r) : TaskFrame p (take r) := (hr.taken _).holdPulse l t hd x
  split_ifs
  · exact h.addReg hd 1
  · exact h.holdPulse l t hd x
  · split
    · exact htake h
    · split_ifs
      · exact htake h
      · exact h.addReg hd 1
      · exact htake ((h.addReg hd 1).setLatch _ _)
      · exact htake (h.setLatch _ _)

theorem latchAll_task (t : Nat) (x : Pulse) (ls : List Nat) (h : TaskFrame p q) (seen : List Nat) : TaskFrame p (latchAll q t x seen ls) := by
  induction ls generalizing q seen with
  | nil => exact h
  | cons l ls ih =>
    unfold latchAll
    dsimp only
    split
    · exact ih (h.addReg (taskKey_drops l) 1) _
    · exact ih (h.latchPulse l t x) _

theorem capture_task (p : Part) (ec t : Nat) (x : Pulse) : TaskFrame p (capture p ec t x) := by
  unfold capture
  extract_lets ls n p1
  split_ifs
  · exact .refl p
  · exact ((TaskFrame.refl p).addReg (.inr (.inl rfl)) 1).orReg (.inr (.inr rfl)) 2
  · exact (TaskFrame.refl p).captures _ _
  · exact latchAll_task t x ls ((TaskFrame.refl p).captures _ _) []

/-! ## Pins -/

/-- A pin counts its edges in its own entries (R105). -/
theorem countEdge_onlyRegs (p : Part) (pin : Nat) (rising : Bool) (n : Nat) :
    OnlyRegs p (countEdge p pin rising n) [G.evioEdges pin, G.evioLast pin] := by
  unfold countEdge
  dsimp only
  split_ifs
  · exact ((OnlyRegs.refl p _).setReg (by simp) _).setReg (by simp) _
  · exact .refl p _

theorem TaskFrame.countEdge (h : TaskFrame p q) (pin : Nat) (rising : Bool) (n : Nat) : TaskFrame p (countEdge q pin rising n) := by
  unfold Machine.countEdge
  dsimp only
  split_ifs
  · exact (h.addReg (taskKey_gkey (by omega) (by decide)) 1).setReg (taskKey_gkey (by omega) (by decide)) _
  · exact h

theorem TaskFrame.judgePad (h : TaskFrame p q) (pin n : Nat) (closed : Bool) : TaskFrame p (judgePad q pin n closed) := by
  unfold Machine.judgePad
  dsimp only
  split_ifs
  · exact h
  · exact h.setPin _ _
  · exact (h.setPin _ _).countEdge _ _ _
  · exact h.setPin _ _
  · exact h

theorem TaskFrame.drivePin (h : TaskFrame p q) (pin : Nat) (level : Bool) (n endAt : Nat) (x : PinSt) :
    TaskFrame p (drivePin q pin level n endAt x) := by
  unfold Machine.drivePin
  dsimp only
  split_ifs
  · exact h.setPin _ _
  · exact h.setPin _ _
  · exact (h.setPin _ _).sayPin _ _ _

theorem driveTask_task (p : Part) (pin input t : Nat) (x : Pulse) : TaskFrame p (driveTask p pin input t x) := by
  unfold driveTask
  extract_lets x0 again said p1 p2 y y1 f n mode stop p3
  have h1 : TaskFrame p p1 := by
    unfold p1
    split
    · exact (TaskFrame.refl p).setPin _ _
    · exact (TaskFrame.refl p).judgePad _ _ _
  have h2 : TaskFrame p p2 := by
    unfold p2
    split_ifs
    · exact h1.sayPin _ _ _
    · exact h1
  have h3 : TaskFrame p p3 := by
    unfold p3
    split_ifs
    · exact h2.orReg (taskKey_gkey (by omega) (by decide)) 2
    · exact h2
  split_ifs
  · exact .refl p
  · exact h3.drivePin _ _ _ _ _
  · exact h2.drivePin _ _ _ _ _
  · exact h2.setPin _ _
  all_goals exact h2.drivePin _ _ _ _ _

end Sys2Proof.Machine
end

section
/-!
SUPPORT. Pulses reach an event channel (R95, R97 to R102): those that are dropped, an assertion or its absorption, and what of it the channel's
tasks leave.
-/

namespace Sys2Proof.Machine

variable {p q r : Part} {ec t v : Nat} {live : List Arrival} {x : Pulse}

/-! ## What pulses at channels leave -/

/-- Between p and q only the core cycle, values in force, the event fabric, waiting messages and what has left the part differ. -/
def Fabric (p q : Part) : Prop :=
  q = { p with time := { p.time with cyc := q.time.cyc }, gz := { p.gz with regs := q.gz.regs }, fab := q.fab,
               strm := { p.strm with msixWait := q.strm.msixWait }, sent := q.sent }

theorem Fabric.refl (p : Part) : Fabric p p := rfl

theorem Fabric.trans (h : Fabric p q) (g : Fabric q r) : Fabric p r := by
  unfold Fabric at h g ⊢
  rw [h] at g
  exact g

theorem TaskFrame.fabric (h : TaskFrame p q) : Fabric p q := by
  unfold Fabric
  rw [h.units]

/-- Units that pulses at channels leave alone, and the present tick. -/
theorem Fabric.kept (h : Fabric p q) : q.time.tick = p.time.tick ∧ q.mem = p.mem ∧ q.seqs = p.seqs ∧ q.plans = p.plans ∧ q.adm = p.adm := by
  unfold Fabric at h
  rw [h]
  exact ⟨rfl, rfl, rfl, rfl, rfl⟩

/-! ## The pulses that are due -/

/-- The pulses that reach channel ec in cycle t. -/
def dueAt (p : Part) (ec t : Nat) : List Arrival := p.fab.arrivals.filter fun a => decide (a.ec = ec ∧ a.due = t)

/-- Those of them that are not dropped for their generation (R98). -/
def liveAt (p : Part) (ec t : Nat) : List Arrival := (dueAt p ec t).filter fun a => decide (a.pulse.gen < 15)

/-- How many are dropped (R98). -/
def loopsAt (p : Part) (ec t : Nat) : Nat := ((dueAt p ec t).filter fun a => decide (15 ≤ a.pulse.gen)).length

theorem loopsAt_eq (p : Part) (ec t : Nat) : loopsAt p ec t = (dueAt p ec t).length - (liveAt p ec t).length := by
  have h := List.length_eq_length_filter_add (l := dueAt p ec t) fun a => decide (a.pulse.gen < 15)
  have hl : (dueAt p ec t).filter (fun a => !decide (a.pulse.gen < 15)) = (dueAt p ec t).filter fun a => decide (15 ≤ a.pulse.gen) :=
    List.filter_congr fun a _ => by rw [← decide_not, decide_eq_decide, not_lt]
  rw [hl] at h
  unfold loopsAt liveAt
  omega

/-- Pulses merge into none only where there is none. -/
theorem mergePulses_eq_none {l : List Arrival} (h : mergePulses l = none) : l = [] := by
  cases l with
  | nil => rfl
  | cons a l =>
    unfold mergePulses at h
    split at h
    · cases h
    · dsimp only at h
      split at h <;> cases h

/-- The pulses due at channel ec in cycle t are taken, and those of generation 15 are counted (R98). -/
def takePulses (p : Part) (ec t : Nat) : Part :=
  let q := { p with fab := { p.fab with arrivals := p.fab.arrivals.filter fun a => decide (¬ (a.ec = ec ∧ a.due = t)) } }
  if ((dueAt p ec t).filter fun a => decide (15 ≤ a.pulse.gen)).isEmpty then q
  else orReg (orReg (addReg q (G.ecLoopDrops ec) (loopsAt p ec t)) (G.ecFlags ec) 1) G.fabricFlags 1

theorem takePulses_fab (p : Part) (ec t : Nat) :
    (takePulses p ec t).fab = { p.fab with arrivals := p.fab.arrivals.filter fun a => decide (¬ (a.ec = ec ∧ a.due = t)) } := by
  unfold takePulses
  dsimp only
  split <;> rfl

theorem takePulses_onlyRegs (p : Part) (ec t : Nat) :
    OnlyRegs { p with fab := (takePulses p ec t).fab } (takePulses p ec t) [G.ecLoopDrops ec, G.ecFlags ec, G.fabricFlags] := by
  rw [takePulses_fab]
  unfold takePulses
  dsimp only
  split
  · exact .refl _ _
  · exact (((OnlyRegs.refl _ _).setReg (by simp) _).setReg (by simp) _).setReg (by simp) _

/-- The entries of a channel are none of the fabric's flags. -/
theorem gkey_ne_fabricFlags (ec s : Nat) : gkey (0x1300 + ec) s ≠ G.fabricFlags := by
  simp only [gkey, G.fabricFlags]
  omega

theorem takePulses_loopDrops (p : Part) (ec t : Nat) : reg (takePulses p ec t) (G.ecLoopDrops ec) =
    if loopsAt p ec t = 0 then reg p (G.ecLoopDrops ec) else (reg p (G.ecLoopDrops ec) + loopsAt p ec t) % 2 ^ regWidth (G.ecLoopDrops ec) := by
  have hf : G.ecLoopDrops ec ≠ G.ecFlags ec := by simp [G.ecLoopDrops, G.ecFlags, gkey_eq_iff]
  have hg : G.ecLoopDrops ec ≠ G.fabricFlags := gkey_ne_fabricFlags ec _
  unfold takePulses
  dsimp only
  by_cases h : loopsAt p ec t = 0
  · rw [if_pos h, if_pos (List.isEmpty_iff.mpr (List.eq_nil_of_length_eq_zero h))]
    rfl
  · rw [if_neg h, if_neg fun he => h (List.length_eq_zero_iff.mpr (List.isEmpty_iff.mp he)), reg_orReg, if_neg hg, reg_orReg,
      if_neg hf, reg_addReg, if_pos rfl]
    rfl

/-! ## Absorbed pulses, and an assertion -/

/-- Pulses in the refractory cycle are counted as absorbed (R99). -/
def absorb (p : Part) (ec n : Nat) : Part := orReg (addReg p (G.ecCoalesce ec) n) (G.ecFlags ec) 4

theorem absorb_onlyRegs (p : Part) (ec n : Nat) : OnlyRegs p (absorb p ec n) [G.ecCoalesce ec, G.ecFlags ec] :=
  ((OnlyRegs.refl _ _).setReg (by simp) _).setReg (by simp) _

theorem absorb_coalesce (p : Part) (ec n : Nat) :
    reg (absorb p ec n) (G.ecCoalesce ec) = (reg p (G.ecCoalesce ec) + n) % 2 ^ regWidth (G.ecCoalesce ec) := by
  have hf : G.ecCoalesce ec ≠ G.ecFlags ec := by simp [G.ecCoalesce, G.ecFlags, gkey_eq_iff]
  rw [absorb, reg_orReg, if_neg hf, reg_addReg, if_pos rfl]

/-- An assertion is counted and recorded, with the n pulses that merged in it (R99). -/
def countAssertion (p : Part) (ec t n record : Nat) : Part :=
  let q := setReg (addReg p (G.ecCount ec) 1) (G.ecLast ec) record
  let q := if n = 1 then q else orReg (addReg q (G.ecCoalesce ec) (n - 1)) (G.ecFlags ec) 2
  { q with fab := { q.fab with lastAt := kset (fun _ => 0) q.fab.lastAt ec (t + 1) } }

theorem countAssertion_fab (p : Part) (ec t n record : Nat) :
    (countAssertion p ec t n record).fab = { p.fab with lastAt := kset (fun _ => 0) p.fab.lastAt ec (t + 1) } := by
  unfold countAssertion
  dsimp only
  split <;> rfl

/-- What is counted of the merged pulses, after the assertion is counted and recorded. -/
theorem countAssertion_merged (p : Part) (ec t n record : Nat) :
    OnlyRegs { setReg (addReg p (G.ecCount ec) 1) (G.ecLast ec) record with fab := (countAssertion p ec t n record).fab }
      (countAssertion p ec t n record) [G.ecCoalesce ec, G.ecFlags ec] := by
  rw [countAssertion_fab]
  unfold countAssertion
  dsimp only
  split
  · exact .refl _ _
  · exact ((OnlyRegs.refl _ _).setReg (by simp) _).setReg (by simp) _

theorem countAssertion_onlyRegs (p : Part) (ec t n record : Nat) :
    OnlyRegs { p with fab := (countAssertion p ec t n record).fab } (countAssertion p ec t n record)
      [G.ecCount ec, G.ecLast ec, G.ecCoalesce ec, G.ecFlags ec] := by
  have h : OnlyRegs { p with fab := (countAssertion p ec t n record).fab }
      { setReg (addReg p (G.ecCount ec) 1) (G.ecLast ec) record with fab := (countAssertion p ec t n record).fab }
      [G.ecCount ec, G.ecLast ec, G.ecCoalesce ec, G.ecFlags ec] := ((OnlyRegs.refl _ _).setReg (by simp) _).setReg (by simp) _
  exact h.trans ((countAssertion_merged p ec t n record).mono (by simp))

theorem countAssertion_count (p : Part) (ec t n record : Nat) :
    reg (countAssertion p ec t n record) (G.ecCount ec) = (reg p (G.ecCount ec) + 1) % 2 ^ regWidth (G.ecCount ec) := by
  have hl : G.ecCount ec ≠ G.ecLast ec := by simp [G.ecCount, G.ecLast, gkey_eq_iff]
  calc reg (countAssertion p ec t n record) (G.ecCount ec)
    _ = reg (setReg (addReg p (G.ecCount ec) 1) (G.ecLast ec) record) (G.ecCount ec) :=
      (countAssertion_merged p ec t n record).2 _ (by simp [G.ecCount, G.ecCoalesce, G.ecFlags, gkey_eq_iff])
    _ = reg (addReg p (G.ecCount ec) 1) (G.ecCount ec) := reg_setReg_ne _ hl _
    _ = _ := reg_setReg_same ..

theorem countAssertion_last (p : Part) (ec t n record : Nat) : reg (countAssertion p ec t n record) (G.ecLast ec) = record :=
  ((countAssertion_merged p ec t n record).2 _ (by simp [G.ecLast, G.ecCoalesce, G.ecFlags, gkey_eq_iff])).trans (reg_setReg_same ..)

/-- The capture stage and the drive tasks of channel ec see an assertion in cycle t (R100, R101). -/
def deliver (p : Part) (ec t : Nat) (x : Pulse) : Part :=
  let q := capture p ec t x
  (pinInputs q ec).foldl (fun q y => driveTask q y.1 y.2 t x) q

theorem deliver_task (p : Part) (ec t : Nat) (x : Pulse) : TaskFrame p (deliver p ec t x) :=
  (capture_task ..).trans (TaskFrame.fold (fun _ _ => driveTask_task ..) _ _)

/-- An assertion is counted, and the channel's tasks see it one cycle later, before the interrupt task acts (R95, R99 to R101). -/
def beforeInterrupt (p : Part) (ec t : Nat) (live : List Arrival) (x : Pulse) : Part :=
  deliver (countAssertion p ec t live.length (ecLastRecord x (live.any fun a => a.slot = 16))) ec (t + 1) x

theorem assertion_eq (p : Part) (ec t : Nat) (live : List Arrival) (x : Pulse) :
    assertion p ec t live x = chainTask (interruptTask (beforeInterrupt p ec t live x) ec (t + 1)) ec (t + 1) x := rfl

/-! ## The interrupt task (R102) -/

/-- The vector of the channel has been raised in the tick of cycle t. -/
def raisedAlready (p : Part) (ec t : Nat) : Prop := kget (fun _ => 0) p.fab.msixAt ec = t / 25 + 1

theorem interruptTask_silent (h : 256 ≤ reg p (G.ecMsix ec) ∨ raisedAlready p ec t) : interruptTask p ec t = p := if_pos h

theorem interruptTask_raises (h : ¬ (256 ≤ reg p (G.ecMsix ec) ∨ raisedAlready p ec t)) : interruptTask p ec t =
    raiseMsix { p with fab := { p.fab with msixAt := kset (fun _ => 0) p.fab.msixAt ec (t / 25 + 1) } } (reg p (G.ecMsix ec)) := if_neg h

theorem raiseMsix_sends (hv : v < 256) (hl : reg p G.hostLink = 0) (hm : msixMasked p v = false) : raiseMsix p v = say p (.msix v) := by
  unfold raiseMsix
  rw [if_pos ⟨hv, hl⟩, hm]
  rfl

theorem raiseMsix_waits (hv : v < 256) (hl : reg p G.hostLink = 0) (hm : msixMasked p v = true) :
    raiseMsix p v = { p with strm := { p.strm with msixWait := kput v 1 p.strm.msixWait } } := by
  unfold raiseMsix
  rw [if_pos ⟨hv, hl⟩, if_pos hm]

/-- Raising a vector sends its message, or has it wait, and does nothing else. -/
theorem raiseMsix_only (p : Part) (v : Nat) :
    raiseMsix p v = { p with strm := { p.strm with msixWait := (raiseMsix p v).strm.msixWait }, sent := (raiseMsix p v).sent } := by
  unfold raiseMsix
  split_ifs <;> rfl

/-- The interrupt task changes nothing but what it remembers of the tick, the messages that wait and what has left the part. -/
theorem interruptTask_only (p : Part) (ec t : Nat) : interruptTask p ec t = { p with
    fab := { p.fab with msixAt := (interruptTask p ec t).fab.msixAt }
    strm := { p.strm with msixWait := (interruptTask p ec t).strm.msixWait }, sent := (interruptTask p ec t).sent } := by
  by_cases h : 256 ≤ reg p (G.ecMsix ec) ∨ raisedAlready p ec t
  · rw [interruptTask_silent h]
  · rw [interruptTask_raises h, raiseMsix_only]

theorem interruptTask_message (hv : reg p (G.ecMsix ec) < 256) (hl : reg p G.hostLink = 0) (hr : ¬ raisedAlready p ec t) :
    (msixMasked p (reg p (G.ecMsix ec)) = false → (interruptTask p ec t).sent.head? = some (.msix (reg p (G.ecMsix ec)))) ∧
    (msixMasked p (reg p (G.ecMsix ec)) = true → kfind (reg p (G.ecMsix ec)) (interruptTask p ec t).strm.msixWait = some 1) := by
  have hnot : ¬ (256 ≤ reg p (G.ecMsix ec) ∨ raisedAlready p ec t) := not_or.mpr ⟨by omega, hr⟩
  refine ⟨fun hm => ?_, fun hm => ?_⟩
  · rw [(interruptTask_raises hnot).trans (raiseMsix_sends hv hl hm)]
    rfl
  · rw [(interruptTask_raises hnot).trans (raiseMsix_waits hv hl hm)]
    exact kfind_kput_same ..

/-! ## Pulses reach a channel -/

/-- The channel asserted in the cycle before t (R99). -/
def refractory (p : Part) (ec t : Nat) : Prop := kget (fun _ => 0) p.fab.lastAt ec = t ∧ t ≠ 0

theorem reachChannel_none (h : mergePulses (liveAt p ec t) = none) : reachChannel p ec t = takePulses p ec t := by
  unfold reachChannel
  extract_lets here fab p1 loops live p2
  have hl : live = liveAt p ec t := rfl
  rw [hl, h]
  rfl

theorem reachChannel_some (h : mergePulses (liveAt p ec t) = some (x, v)) : reachChannel p ec t =
    if kget (fun _ => 0) (takePulses p ec t).fab.lastAt ec = t ∧ t ≠ 0 then absorb (takePulses p ec t) ec (liveAt p ec t).length
    else assertion (takePulses p ec t) ec t (liveAt p ec t) x := by
  unfold reachChannel
  extract_lets here fab p1 loops live p2
  have hl : live = liveAt p ec t := rfl
  rw [hl, h]
  rfl

theorem reachChannel_absorbs (h : mergePulses (liveAt p ec t) = some (x, v)) (hq : refractory p ec t) :
    reachChannel p ec t = absorb (takePulses p ec t) ec (liveAt p ec t).length := by
  rw [reachChannel_some h, takePulses_fab]
  exact if_pos hq

theorem reachChannel_asserts (h : mergePulses (liveAt p ec t) = some (x, v)) (hq : ¬ refractory p ec t) :
    reachChannel p ec t = assertion (takePulses p ec t) ec t (liveAt p ec t) x := by
  rw [reachChannel_some h, takePulses_fab]
  exact if_neg hq

end Sys2Proof.Machine
end

section
/-!
SUPPORT. What pulses at a channel leave of it, by what becomes of them (R98, R99, R102), and the order in which channels are reached (R101).
-/

namespace Sys2Proof.Machine

variable {p q r : Part} {ec t v k : Nat} {live : List Arrival} {x : Pulse}

/-! ## What an assertion leaves -/

/-- Entries of a channel are none that its tasks count in. -/
theorem not_taskKey_ec (ec : Ec) {s : Nat} (hs : s < 256) : ¬ taskKey (gkey (0x1300 + ec.val) s) := by
  have hec := ec.isLt
  simp only [taskKey, gkey, G.captureOverflow, G.fabricFlags]
  omega

theorem not_taskKey_hostLink : ¬ taskKey G.hostLink := by
  unfold taskKey
  decide

theorem interruptTask_gz (p : Part) (ec t : Nat) : (interruptTask p ec t).gz = p.gz := by rw [interruptTask_only]
theorem interruptTask_arrivals (p : Part) (ec t : Nat) : (interruptTask p ec t).fab.arrivals = p.fab.arrivals := by rw [interruptTask_only]

@[simp] theorem chainTask_gz (p : Part) (ec t : Nat) (x : Pulse) : (chainTask p ec t x).gz = p.gz := rfl
@[simp] theorem chainTask_strm (p : Part) (ec t : Nat) (x : Pulse) : (chainTask p ec t x).strm = p.strm := rfl
@[simp] theorem chainTask_sent (p : Part) (ec t : Nat) (x : Pulse) : (chainTask p ec t x).sent = p.sent := rfl
@[simp] theorem chainTask_arrivals (p : Part) (ec t : Nat) (x : Pulse) : (chainTask p ec t x).fab.arrivals = p.fab.arrivals := rfl

/-- The interrupt task and the chain task count in no entry. -/
theorem reg_assertion (p : Part) (ec t : Nat) (live : List Arrival) (x : Pulse) (k : Nat) :
    reg (assertion p ec t live x) k = reg (beforeInterrupt p ec t live x) k := by
  rw [assertion_eq]
  exact reg_of_gz ((chainTask_gz ..).trans (interruptTask_gz ..)) k

/-- What the tasks of a channel see is counted by then. -/
theorem reg_beforeInterrupt (p : Part) (ec t : Nat) (live : List Arrival) (x : Pulse) (hk : ¬ taskKey k) :
    reg (beforeInterrupt p ec t live x) k =
      reg (countAssertion p ec t live.length (ecLastRecord x (live.any fun a => a.slot = 16))) k := (deliver_task ..).regs k hk

theorem beforeInterrupt_same (p : Part) (ec t : Nat) (live : List Arrival) (x : Pulse) (hk : ¬ taskKey k)
    (hm : k ∉ [G.ecCount ec, G.ecLast ec, G.ecCoalesce ec, G.ecFlags ec]) : reg (beforeInterrupt p ec t live x) k = reg p k :=
  (reg_beforeInterrupt p ec t live x hk).trans ((countAssertion_onlyRegs ..).2 k hm)

/-- Before the interrupt task acts, messages and what it remembers of the tick are as they were, as are the pulses on their way. -/
theorem beforeInterrupt_units (p : Part) (ec t : Nat) (live : List Arrival) (x : Pulse) :
    (beforeInterrupt p ec t live x).strm = p.strm ∧ (beforeInterrupt p ec t live x).fab.msixAt = p.fab.msixAt ∧
      (beforeInterrupt p ec t live x).fab.arrivals = p.fab.arrivals ∧
      ∀ w, .msix w ∈ (beforeInterrupt p ec t live x).sent → .msix w ∈ p.sent := by
  have hc := (countAssertion_onlyRegs p ec t live.length (ecLastRecord x (live.any fun a => a.slot = 16))).1
  have hf := countAssertion_fab p ec t live.length (ecLastRecord x (live.any fun a => a.slot = 16))
  have hd : TaskFrame _ (beforeInterrupt p ec t live x) := deliver_task ..
  generalize countAssertion p ec t live.length (ecLastRecord x (live.any fun a => a.slot = 16)) = q at hc hf hd
  refine ⟨?_, ?_, ?_, fun w hw => ?_⟩
  · rw [hd.units, hc]
  · rw [hd.units, hf]
  · rw [hd.units, hf]
  · have := hd.msix w hw
    rwa [hc] at this

theorem assertion_arrivals (p : Part) (ec t : Nat) (live : List Arrival) (x : Pulse) : (assertion p ec t live x).fab.arrivals = p.fab.arrivals := by
  obtain ⟨-, -, ha, -⟩ := beforeInterrupt_units p ec t live x
  rw [assertion_eq, chainTask_arrivals, interruptTask_arrivals, ha]

theorem assertion_count (p : Part) (ec : Ec) (t : Nat) (live : List Arrival) (x : Pulse) :
    reg (assertion p ec t live x) (G.ecCount ec) = (reg p (G.ecCount ec) + 1) % 2 ^ regWidth (G.ecCount ec) :=
  (reg_assertion ..).trans ((reg_beforeInterrupt _ _ _ _ _ (not_taskKey_ec ec (by decide))).trans (countAssertion_count ..))

theorem assertion_last (p : Part) (ec : Ec) (t : Nat) (live : List Arrival) (x : Pulse) :
    reg (assertion p ec t live x) (G.ecLast ec) = ecLastRecord x (live.any fun a => a.slot = 16) :=
  (reg_assertion ..).trans ((reg_beforeInterrupt _ _ _ _ _ (not_taskKey_ec ec (by decide))).trans (countAssertion_last ..))

/-- The chain producer asserts one cycle later, with the next generation (R97). -/
theorem assertion_chains (p : Part) (ec t : Nat) (live : List Arrival) (x : Pulse) :
    ⟨t + 1, ⟨(t + 1) / 25, 10 * ((t + 1) % 25), 0xA00 + ec, x.gen + 1⟩⟩ ∈ (assertion p ec t live x).fab.producers := by
  rw [assertion_eq]
  exact List.mem_append_right _ (List.mem_singleton_self _)

/-- The channel's vector is raised once in a tick (R102). -/
theorem assertion_message (p : Part) (ec : Ec) (t : Nat) (live : List Arrival) (x : Pulse) (hv : reg p (G.ecMsix ec) < 256)
    (hl : reg p G.hostLink = 0) (hr : ¬ raisedAlready p ec (t + 1)) :
    (msixMasked p (reg p (G.ecMsix ec)) = false → (assertion p ec t live x).sent.head? = some (.msix (reg p (G.ecMsix ec)))) ∧
    (msixMasked p (reg p (G.ecMsix ec)) = true → kfind (reg p (G.ecMsix ec)) (assertion p ec t live x).strm.msixWait = some 1) := by
  have hmsix : reg (beforeInterrupt p ec t live x) (G.ecMsix ec) = reg p (G.ecMsix ec) :=
    beforeInterrupt_same _ _ _ _ _ (not_taskKey_ec ec (by decide)) (by simp [G.ecMsix, G.ecCount, G.ecLast, G.ecCoalesce, G.ecFlags, gkey_eq_iff])
  have hlink : reg (beforeInterrupt p ec t live x) G.hostLink = reg p G.hostLink := by
    refine beforeInterrupt_same _ _ _ _ _ not_taskKey_hostLink ?_
    simp only [List.mem_cons, List.not_mem_nil, or_false, G.hostLink, G.ecCount, G.ecLast, G.ecCoalesce, G.ecFlags, gkey]
    omega
  obtain ⟨hstrm, hat, -, -⟩ := beforeInterrupt_units p ec t live x
  have hmask (v : Nat) : msixMasked (beforeInterrupt p ec t live x) v = msixMasked p v := by rw [msixMasked, hstrm, msixMasked]
  have h := interruptTask_message (p := beforeInterrupt p ec t live x) (ec := ec) (t := t + 1) (by rwa [hmsix]) (by rwa [hlink])
    (by rwa [raisedAlready, hat])
  rw [hmsix, hmask] at h
  rwa [assertion_eq, chainTask_sent, chainTask_strm]

theorem assertion_silent (p : Part) (ec : Ec) (t : Nat) (live : List Arrival) (x : Pulse)
    (h : 256 ≤ reg p (G.ecMsix ec) ∨ raisedAlready p ec (t + 1)) :
    (assertion p ec t live x).strm.msixWait = p.strm.msixWait ∧ ∀ w, .msix w ∈ (assertion p ec t live x).sent → .msix w ∈ p.sent := by
  have hmsix : reg (beforeInterrupt p ec t live x) (G.ecMsix ec) = reg p (G.ecMsix ec) :=
    beforeInterrupt_same _ _ _ _ _ (not_taskKey_ec ec (by decide)) (by simp [G.ecMsix, G.ecCount, G.ecLast, G.ecCoalesce, G.ecFlags, gkey_eq_iff])
  obtain ⟨hstrm, hat, -, hsent⟩ := beforeInterrupt_units p ec t live x
  rw [assertion_eq, chainTask_sent, chainTask_strm, interruptTask_silent (by rwa [hmsix, raisedAlready, hat])]
  exact ⟨congrArg StrmSt.msixWait hstrm, hsent⟩

/-! ## What pulses at a channel leave of the part -/

theorem takePulses_fabric (p : Part) (ec t : Nat) : Fabric p (takePulses p ec t) := by
  unfold Fabric
  rw [(takePulses_onlyRegs p ec t).1]

theorem countAssertion_fabric (p : Part) (ec t n record : Nat) : Fabric p (countAssertion p ec t n record) := by
  unfold Fabric
  rw [(countAssertion_onlyRegs p ec t n record).1]

theorem interruptTask_fabric (p : Part) (ec t : Nat) : Fabric p (interruptTask p ec t) := by
  unfold Fabric
  rw [interruptTask_only]

theorem chainTask_fabric (p : Part) (ec t : Nat) (x : Pulse) : Fabric p (chainTask p ec t x) := rfl

theorem assertion_fabric (p : Part) (ec t : Nat) (live : List Arrival) (x : Pulse) : Fabric p (assertion p ec t live x) := by
  have h : Fabric p (beforeInterrupt p ec t live x) := (countAssertion_fabric ..).trans (deliver_task ..).fabric
  rw [assertion_eq]
  exact (h.trans (interruptTask_fabric ..)).trans (chainTask_fabric ..)

/-- The pulses at a channel are none, or are absorbed, or make an assertion (R98, R99). -/
theorem reachChannel_cases (p : Part) (ec t : Nat) :
    (mergePulses (liveAt p ec t) = none ∧ reachChannel p ec t = takePulses p ec t) ∨
    (refractory p ec t ∧ reachChannel p ec t = absorb (takePulses p ec t) ec (liveAt p ec t).length) ∨
    (¬ refractory p ec t ∧ ∃ x v, mergePulses (liveAt p ec t) = some (x, v) ∧
      reachChannel p ec t = assertion (takePulses p ec t) ec t (liveAt p ec t) x) := by
  cases h : mergePulses (liveAt p ec t) with
  | none => exact .inl ⟨rfl, reachChannel_none h⟩
  | some y =>
    by_cases hq : refractory p ec t
    · exact .inr (.inl ⟨hq, reachChannel_absorbs h hq⟩)
    · exact .inr (.inr ⟨hq, y.1, y.2, rfl, reachChannel_asserts h hq⟩)

theorem reachChannel_fabric (p : Part) (ec t : Nat) : Fabric p (reachChannel p ec t) := by
  have ht := takePulses_fabric p ec t
  rcases reachChannel_cases p ec t with ⟨-, h⟩ | ⟨-, h⟩ | ⟨-, x, v, -, h⟩
  · rwa [h]
  · rw [h]
    exact ht.trans rfl
  · rw [h]
    exact ht.trans (assertion_fabric ..)

/-- Taking the pulses is all that happens to the pulses on their way. -/
theorem reachChannel_arrivals (p : Part) (ec t : Nat) : (reachChannel p ec t).fab.arrivals = (takePulses p ec t).fab.arrivals := by
  rcases reachChannel_cases p ec t with ⟨-, h⟩ | ⟨-, h⟩ | ⟨-, x, v, -, h⟩
  · rw [h]
  · rw [h]
    rfl
  · rw [h]
    exact assertion_arrivals ..

/-- No pulse that reaches the channel in the cycle is left. -/
theorem reachChannel_takes (p : Part) (ec t : Nat) : ∀ a ∈ (reachChannel p ec t).fab.arrivals, ¬ (a.ec = ec ∧ a.due = t) := by
  rw [reachChannel_arrivals, takePulses_fab]
  exact fun a ha => of_decide_eq_true (List.mem_filter.mp ha).2

/-- Dropped pulses are counted whatever becomes of the rest (R98). -/
theorem reachChannel_loopDrops (p : Part) (ec : Ec) (t : Nat) : reg (reachChannel p ec t) (G.ecLoopDrops ec) =
    if loopsAt p ec t = 0 then reg p (G.ecLoopDrops ec) else (reg p (G.ecLoopDrops ec) + loopsAt p ec t) % 2 ^ regWidth (G.ecLoopDrops ec) := by
  refine Eq.trans ?_ (takePulses_loopDrops p ec t)
  rcases reachChannel_cases p ec t with ⟨-, h⟩ | ⟨-, h⟩ | ⟨-, x, v, -, h⟩
  · rw [h]
  · rw [h]
    exact (absorb_onlyRegs ..).2 _ (by simp [G.ecLoopDrops, G.ecCoalesce, G.ecFlags, gkey_eq_iff])
  · rw [h, reg_assertion]
    exact beforeInterrupt_same _ _ _ _ _ (not_taskKey_ec ec (by decide))
      (by simp [G.ecLoopDrops, G.ecCount, G.ecLast, G.ecCoalesce, G.ecFlags, gkey_eq_iff])

/-- Taking pulses changes only the entries in which the dropped ones are counted and flagged. -/
theorem takePulses_same (p : Part) (ec t s : Nat) (h1 : s ≠ 0x14) (h2 : s ≠ 0x17) :
    reg (takePulses p ec t) (gkey (0x1300 + ec) s) = reg p (gkey (0x1300 + ec) s) := by
  refine (takePulses_onlyRegs p ec t).2 _ ?_
  simp only [List.mem_cons, List.not_mem_nil, or_false, not_or]
  exact ⟨fun e => h1 ((gkey_eq_iff ..).mp e), fun e => h2 ((gkey_eq_iff ..).mp e), gkey_ne_fabricFlags ec s⟩

/-- Where no pulse asserts the channel, its count and its record stand (R99). -/
theorem reachChannel_idle (h : mergePulses (liveAt p ec t) = none ∨ refractory p ec t) :
    reg (reachChannel p ec t) (G.ecCount ec) = reg p (G.ecCount ec) ∧ reg (reachChannel p ec t) (G.ecLast ec) = reg p (G.ecLast ec) := by
  have hcount : reg (takePulses p ec t) (G.ecCount ec) = reg p (G.ecCount ec) := takePulses_same _ _ _ _ (by decide) (by decide)
  have hlast : reg (takePulses p ec t) (G.ecLast ec) = reg p (G.ecLast ec) := takePulses_same _ _ _ _ (by decide) (by decide)
  rcases reachChannel_cases p ec t with ⟨-, he⟩ | ⟨-, he⟩ | ⟨hq, x, v, hm, -⟩
  · rw [he]
    exact ⟨hcount, hlast⟩
  · rw [he]
    exact ⟨((absorb_onlyRegs ..).2 _ (by simp [G.ecCount, G.ecCoalesce, G.ecFlags, gkey_eq_iff])).trans hcount,
      ((absorb_onlyRegs ..).2 _ (by simp [G.ecLast, G.ecCoalesce, G.ecFlags, gkey_eq_iff])).trans hlast⟩
  · exact absurd (h.resolve_left (by simp [hm])) hq

/-- Pulses in the refractory cycle are counted as absorbed (R99). -/
theorem reachChannel_coalesce (hq : refractory p ec t) (hl : liveAt p ec t ≠ []) : reg (reachChannel p ec t) (G.ecCoalesce ec) =
    (reg p (G.ecCoalesce ec) + (liveAt p ec t).length) % 2 ^ regWidth (G.ecCoalesce ec) := by
  have hc : reg (takePulses p ec t) (G.ecCoalesce ec) = reg p (G.ecCoalesce ec) := takePulses_same _ _ _ _ (by decide) (by decide)
  rcases reachChannel_cases p ec t with ⟨hm, -⟩ | ⟨-, he⟩ | ⟨hn, -⟩
  · exact absurd (mergePulses_eq_none hm) hl
  · rw [he, absorb_coalesce, hc]
  · exact absurd hq hn

/-- Taking pulses leaves the host's link, and what messages and vectors wait (R102). -/
theorem takePulses_units (p : Part) (ec t : Nat) : reg (takePulses p ec t) G.hostLink = reg p G.hostLink ∧ (takePulses p ec t).strm = p.strm ∧
    (takePulses p ec t).fab.msixAt = p.fab.msixAt ∧ (takePulses p ec t).sent = p.sent := by
  have hr := takePulses_onlyRegs p ec t
  refine ⟨hr.2 _ ?_, by rw [hr.1], by rw [takePulses_fab], by rw [hr.1]⟩
  simp only [List.mem_cons, List.not_mem_nil, or_false, G.hostLink, G.ecLoopDrops, G.ecFlags, G.fabricFlags, gkey]
  omega

theorem ecLastRecord_eq (x : Pulse) (sw : Bool) :
    ecLastRecord x sw = x.tick + x.off * 2 ^ 64 + x.src * 2 ^ 72 + x.gen * 2 ^ 84 + (if sw then 2 ^ 88 else 0) + 2 ^ 127 := by
  unfold ecLastRecord
  cases sw <;> simp [ofBool]

/-- Pulses that assert the channel are counted as one, recorded, chained and raise its vector (R97, R99, R102). -/
theorem reachChannel_asserted (p : Part) (ec : Ec) (t : Nat) {x : Pulse} {slot : Nat} (hm : mergePulses (liveAt p ec t) = some (x, slot))
    (hq : ¬ refractory p ec t) :
    let q := reachChannel p ec t
    let v := reg p (G.ecMsix ec)
    reg q (G.ecCount ec) = (reg p (G.ecCount ec) + 1) % 2 ^ regWidth (G.ecCount ec) ∧
      reg q (G.ecLast ec) = ecLastRecord x ((liveAt p ec t).any fun a => a.slot = 16) ∧
      ⟨t + 1, ⟨(t + 1) / 25, 10 * ((t + 1) % 25), 0xA00 + ec.val, x.gen + 1⟩⟩ ∈ q.fab.producers ∧
      (v < 256 → reg p G.hostLink = 0 → ¬ raisedAlready p ec (t + 1) →
        (msixMasked p v = false → q.sent.head? = some (.msix v)) ∧ (msixMasked p v = true → kfind v q.strm.msixWait = some 1)) ∧
      (256 ≤ v ∨ raisedAlready p ec (t + 1) → q.strm.msixWait = p.strm.msixWait ∧ ∀ w, .msix w ∈ q.sent → .msix w ∈ p.sent) := by
  have hcount : reg (takePulses p ec t) (G.ecCount ec) = reg p (G.ecCount ec) := takePulses_same _ _ _ _ (by decide) (by decide)
  have hmsix : reg (takePulses p ec t) (G.ecMsix ec) = reg p (G.ecMsix ec) := takePulses_same _ _ _ _ (by decide) (by decide)
  obtain ⟨hlink, hstrm, hat, hsent⟩ := takePulses_units p ec t
  have hmask (v : Nat) : msixMasked (takePulses p ec t) v = msixMasked p v := by rw [msixMasked, hstrm, msixMasked]
  have hagain : raisedAlready (takePulses p ec t) ec (t + 1) ↔ raisedAlready p ec (t + 1) := by rw [raisedAlready, hat, raisedAlready]
  rw [reachChannel_asserts hm hq]
  generalize takePulses p ec t = r at hcount hmsix hlink hstrm hsent hmask hagain ⊢
  refine ⟨by rw [assertion_count, hcount], assertion_last .., assertion_chains _ ec _ _ _, fun hv hl hn => ?_, fun h => ?_⟩
  · rw [← hmsix, ← hmask]
    exact assertion_message r ec t _ x (hmsix ▸ hv) (hlink.trans hl) fun h => hn (hagain.mp h)
  · rw [← hstrm, ← hsent]
    exact assertion_silent r ec t _ x (by rwa [hmsix, hagain])

/-! ## The order of channels (R101) -/

theorem reachAt_fabric (p : Part) (ec t : Nat) : Fabric p (reachAt p ec t) := by
  have h : Fabric p (atCyc (settle p (t - 2)) (t - 25 * p.time.tick)) := rfl
  exact h.trans (reachChannel_fabric ..)

theorem reachBefore_fabric (y : Nat × Nat) (n : Nat) (p : Part) : Fabric p (reachBefore y n p) := by
  induction n generalizing p with
  | zero => exact .refl p
  | succ n ih =>
    unfold reachBefore
    split
    · exact .refl p
    · split
      · exact (reachAt_fabric ..).trans (ih _)
      · exact .refl p

/-- Nothing comes before the first pulse that is due (R101). -/
theorem reachBefore_first {y : Nat × Nat} (h : firstDue (allDue p) = some y) (n : Nat) : reachBefore y n p = p := by
  cases n with
  | zero => rfl
  | succ n =>
    unfold reachBefore
    rw [h]
    exact if_neg (by simp [sooner])

end Sys2Proof.Machine
end

section
/-!
SUPPORT. The EVIO pins (R105, R106): which edges a pin counts, what is made of its own edges, of an edge at its pad, and of the end of a pulse.
-/

namespace Sys2Proof.Machine

variable {p q r : Part} {pin n : Nat} {x y : PinSt} {rising closed : Bool}

theorem exec_evioInEdge (pin : Pin) (rising : Bool) (off held : Nat) (t : State) :
    exec (.evioInEdge pin rising off held) t = lift (fun p => padEdge p pin rising off held) t := by unfold exec; rfl
theorem exec_evioPulseEnd (pin : Pin) (t : State) : exec (.evioPulseEnd pin) t = lift (fun p => endPulse p pin) t := by unfold exec; rfl

/-! ## A pin that moves -/

@[simp] theorem pinOf_setPin_same (p : Part) (pin : Nat) (x : PinSt) : pinOf (setPin p pin x) pin = x := by simp [pinOf, setPin]

theorem pinOf_setPin_ne (p : Part) {i : Nat} (h : i ≠ pin) (x : PinSt) : pinOf (setPin p pin x) i = pinOf p i := by
  simp [pinOf, setPin, kfind_kput_ne h]

/-- The pin has come to a state, and no other pin has; what stands elsewhere in the part, but for entries, producers and what has left. -/
structure PinMoved (p q : Part) (pin : Nat) (y : PinSt) : Prop where
  level    : pinOf q pin = y
  others   : ∀ i, i ≠ pin → pinOf q i = pinOf p i
  mem      : q.mem = p.mem
  seqs     : q.seqs = p.seqs
  time     : q.time = p.time
  arrivals : q.fab.arrivals = p.fab.arrivals

theorem PinMoved.parts (h : PinMoved p q pin y) : pinOf q pin = y ∧ (∀ i, i ≠ pin → pinOf q i = pinOf p i) ∧
    q.mem = p.mem ∧ q.seqs = p.seqs ∧ q.time = p.time ∧ q.fab.arrivals = p.fab.arrivals :=
  ⟨h.level, h.others, h.mem, h.seqs, h.time, h.arrivals⟩

theorem setPin_moved (p : Part) (pin : Nat) (y : PinSt) : PinMoved p (setPin p pin y) pin y :=
  ⟨pinOf_setPin_same .., fun _ hi => pinOf_setPin_ne p hi y, rfl, rfl, rfl, rfl⟩

theorem PinMoved.setPin (h : PinMoved p q pin x) (y : PinSt) : PinMoved p (setPin q pin y) pin y :=
  ⟨pinOf_setPin_same .., fun i hi => (pinOf_setPin_ne q hi y).trans (h.others i hi), h.mem, h.seqs, h.time, h.arrivals⟩

theorem PinMoved.onlyRegs {l : List Nat} (h : PinMoved p q pin y) (hr : OnlyRegs q r l) : PinMoved p r pin y := by
  have hp (i : Nat) : pinOf r i = pinOf q i := by rw [pinOf, hr.1, pinOf]
  rw [hr.1]
  exact ⟨h.level, h.others, h.mem, h.seqs, h.time, h.arrivals⟩

/-! ## Edges that count -/

/-- EVIO_EDGE of the pin selects edges of this direction (R105). -/
def selects (p : Part) (pin : Nat) (rising : Bool) : Prop :=
  reg p (G.evioEdge pin) = 3 ∨ (reg p (G.evioEdge pin) = 1 ∧ rising = true) ∨ (reg p (G.evioEdge pin) = 2 ∧ rising = false)

/-- The record of an edge at sample n (R105). -/
def edgeRecord (rising : Bool) (n : Nat) : Nat := n / 250 + n % 250 * 2 ^ 64 + (if rising then 2 ^ 72 else 0) + 2 ^ 127

/-- The entries of a pin count its edge. -/
def noteEdge (p : Part) (pin record : Nat) : Part := setReg (addReg p (G.evioEdges pin) 1) (G.evioLast pin) record

theorem noteEdge_edges (p : Part) (pin record : Nat) :
    reg (noteEdge p pin record) (G.evioEdges pin) = (reg p (G.evioEdges pin) + 1) % 2 ^ regWidth (G.evioEdges pin) := by
  have hne : G.evioEdges pin ≠ G.evioLast pin := by simp [G.evioEdges, G.evioLast, gkey_eq_iff]
  rw [noteEdge, reg_setReg_ne _ hne, reg_addReg, if_pos rfl]

theorem noteEdge_last (p : Part) (pin record : Nat) : reg (noteEdge p pin record) (G.evioLast pin) = record := reg_setReg_same ..

theorem countEdge_selected (h : selects p pin rising) : countEdge p pin rising n = noteEdge p pin (edgeRecord rising n) := by
  have hr : n / 250 + n % 250 * 2 ^ 64 + ofBool rising * 2 ^ 72 + 2 ^ 127 = edgeRecord rising n := by
    unfold edgeRecord
    cases rising <;> simp [ofBool]
  unfold countEdge
  dsimp only
  rw [if_pos (by simpa [selects] using h), hr]
  rfl

theorem selects_congr (h : reg q (G.evioEdge pin) = reg p (G.evioEdge pin)) : selects q pin rising ↔ selects p pin rising := by
  rw [selects, h, selects]

theorem selects_setPin {i : Nat} : selects (setPin p i x) pin rising ↔ selects p pin rising := Iff.rfl

/-! ## The pin's own edges -/

theorem judgePad_idle (h : (pinOf p pin).turned = 0) : judgePad p pin n closed = p := if_pos h

/-- An own edge whose level has held is accepted (R106). -/
theorem judgePad_accepts (h0 : (pinOf p pin).turned ≠ 0) (hp : (pinOf p pin).pad ≠ (pinOf p pin).accepted)
    (hn : (pinOf p pin).turned - 1 + reg p (G.evioFilter pin) ≤ n) : judgePad p pin n closed =
      countEdge (setPin p pin { pinOf p pin with accepted := (pinOf p pin).pad, turned := 0 }) pin (pinOf p pin).pad ((pinOf p pin).turned - 1) := by
  unfold judgePad
  dsimp only
  rw [if_neg h0, if_neg hp, if_pos hn]

theorem judgePad_sameRegs (p : Part) (pin n : Nat) (closed : Bool) : SameRegs p (judgePad p pin n closed) [G.evioEdges pin, G.evioLast pin] := by
  unfold judgePad
  dsimp only
  split_ifs
  · exact fun _ _ => rfl
  · exact fun _ _ => rfl
  · exact (countEdge_onlyRegs ..).2
  · exact fun _ _ => rfl
  · exact fun _ _ => rfl

theorem judgePad_evioEdge (p : Part) (pin n : Nat) (closed : Bool) : reg (judgePad p pin n closed) (G.evioEdge pin) = reg p (G.evioEdge pin) :=
  judgePad_sameRegs _ _ _ _ _ (by simp [G.evioEdge, G.evioEdges, G.evioLast, gkey_eq_iff])

/-- What acceptance of an own edge leaves and counts (R106). -/
theorem judgePad_spec (closed : Bool) (h0 : (pinOf p pin).turned ≠ 0) (hp : (pinOf p pin).pad ≠ (pinOf p pin).accepted)
    (hn : (pinOf p pin).turned - 1 + reg p (G.evioFilter pin) ≤ n) :
    PinMoved p (judgePad p pin n closed) pin { pinOf p pin with accepted := (pinOf p pin).pad, turned := 0 } ∧
      (selects p pin (pinOf p pin).pad →
        reg (judgePad p pin n closed) (G.evioEdges pin) = (reg p (G.evioEdges pin) + 1) % 2 ^ regWidth (G.evioEdges pin)) := by
  rw [judgePad_accepts h0 hp hn]
  refine ⟨(setPin_moved ..).onlyRegs (countEdge_onlyRegs ..), fun hs => ?_⟩
  rw [countEdge_selected (selects_setPin.mpr hs), noteEdge_edges]
  rfl

/-! ## An edge at the pad -/

/-- An accepted edge pulses EVIO_IN when acceptance completes, unless the pin is an output or the part a shadow, or an edge of the pin asserts there
already (R105). -/
def pulseEdge (p : Part) (k pin : Nat) (rising : Bool) (off f : Nat) : Part :=
  let sel := reg p (G.evioEdge pin)
  if (sel = 3 ∨ (sel = 1 ∧ rising) ∨ (sel = 2 ∧ !rising)) ∧ reg p (G.evioDir pin) ≠ 1 ∧ !isShadow p then
    let at_ := 25 * k + (off + f) / 10
    if p.fab.producers.any (fun y => y.pulse.src = pin && y.at_ = at_) then orReg p (G.evioFlags pin) 1
    else { p with fab := { p.fab with producers := p.fab.producers ++ [⟨at_, ⟨k, off, pin, 0⟩⟩] } }
  else p

/-- An edge of the pin asserts in core cycle t already. -/
def edgeThere (p : Part) (pin t : Nat) : Bool := p.fab.producers.any fun y => decide (y.pulse.src = pin) && decide (y.at_ = t)

/-- The edge pulses EVIO_IN (R105). -/
def pulsesEvio (p : Part) (k pin : Nat) (rising : Bool) (off f : Nat) : Prop :=
  selects p pin rising ∧ reg p (G.evioDir pin) ≠ 1 ∧ reg p G.pairRole ≠ 2 ∧ edgeThere p pin (25 * k + (off + f) / 10) = false

theorem pulseEdge_pulses {k off f : Nat} (h : pulsesEvio p k pin rising off f) : pulseEdge p k pin rising off f =
    { p with fab := { p.fab with producers := p.fab.producers ++ [⟨25 * k + (off + f) / 10, ⟨k, off, pin, 0⟩⟩] } } := by
  obtain ⟨hs, hd, hr, ht⟩ := h
  unfold pulseEdge
  dsimp only
  rw [if_pos ⟨by simpa [selects] using hs, hd, by simpa [isShadow] using hr⟩]
  exact if_neg (by simpa [edgeThere] using ht)

theorem pulseEdge_stops {k off f : Nat} (h : ¬ pulsesEvio p k pin rising off f) : OnlyRegs p (pulseEdge p k pin rising off f) [G.evioFlags pin] := by
  unfold pulseEdge
  dsimp only
  split_ifs with hc ht
  · exact (OnlyRegs.refl p _).setReg (List.mem_singleton_self _) _
  · obtain ⟨hs, hd, hr⟩ := hc
    exact absurd ⟨by simpa [selects] using hs, hd, by simpa [isShadow] using hr, by simpa [edgeThere] using ht⟩ h
  · exact .refl p _

/-- The part that judges an edge at the pad: the pin's own last edge is judged first (R105, R106). -/
def ownJudged (p : Part) (pin off : Nat) : Part :=
  judgePad (atCyc p (max p.time.cyc (min 24 ((off + reg p (G.evioFilter pin)) / 10)))) pin (nOf p.time.tick off - 1) true

theorem ownJudged_tick (p : Part) (pin off : Nat) : (ownJudged p pin off).time.tick = p.time.tick := (judgePad_aside ..).tick

theorem selects_ownJudged {off : Nat} : selects (ownJudged p pin off) pin rising ↔ selects p pin rising :=
  selects_congr ((judgePad_evioEdge ..).trans (reg_atCyc ..))

/-- The pad takes the level of the edge. -/
def padTakes (p : Part) (pin : Nat) (rising : Bool) : Part := setPin p pin { pinOf p pin with pad := rising }

/-- The pin accepts the level of the edge, which is counted (R105). -/
def acceptPadEdge (p : Part) (pin : Nat) (rising : Bool) (n : Nat) : Part :=
  countEdge (setPin (padTakes p pin rising) pin { pinOf p pin with pad := rising, accepted := rising }) pin rising n

theorem padEdge_drops {off held : Nat} (h : rising = (pinOf (ownJudged p pin off) pin).accepted ∨ held < reg p (G.evioFilter pin) ∨
    coreStopped (ownJudged p pin off) = true) : padEdge p pin rising off held = padTakes (ownJudged p pin off) pin rising :=
  if_pos h

theorem padEdge_accepts {off held : Nat} (h : ¬ (rising = (pinOf (ownJudged p pin off) pin).accepted ∨ held < reg p (G.evioFilter pin) ∨
    coreStopped (ownJudged p pin off) = true)) : padEdge p pin rising off held =
      let q := ownJudged p pin off
      pulseEdge (acceptPadEdge q pin rising (nOf q.time.tick off)) q.time.tick pin rising off (reg p (G.evioFilter pin)) := by
  dsimp only
  rw [ownJudged_tick]
  exact if_neg h

/-- What acceptance of an edge leaves of a part that has judged the pin's own. -/
theorem acceptPadEdge_onlyRegs (p : Part) (pin : Nat) (rising : Bool) (n : Nat) :
    OnlyRegs (setPin (padTakes p pin rising) pin { pinOf p pin with pad := rising, accepted := rising }) (acceptPadEdge p pin rising n)
      [G.evioEdges pin, G.evioLast pin] := countEdge_onlyRegs ..

theorem acceptPadEdge_sameRegs (p : Part) (pin : Nat) (rising : Bool) (n : Nat) :
    SameRegs p (acceptPadEdge p pin rising n) [G.evioEdges pin, G.evioLast pin] := (acceptPadEdge_onlyRegs ..).2

theorem acceptPadEdge_moved (p : Part) (pin : Nat) (rising : Bool) (n : Nat) :
    PinMoved p (acceptPadEdge p pin rising n) pin { pinOf p pin with pad := rising, accepted := rising } :=
  ((setPin_moved ..).setPin _).onlyRegs (acceptPadEdge_onlyRegs ..)

theorem acceptPadEdge_producers (p : Part) (pin : Nat) (rising : Bool) (n : Nat) :
    (acceptPadEdge p pin rising n).fab.producers = p.fab.producers := by
  rw [(acceptPadEdge_onlyRegs ..).1]
  rfl

theorem acceptPadEdge_counts (p : Part) (h : selects p pin rising) :
    reg (acceptPadEdge p pin rising n) (G.evioEdges pin) = (reg p (G.evioEdges pin) + 1) % 2 ^ regWidth (G.evioEdges pin) ∧
      reg (acceptPadEdge p pin rising n) (G.evioLast pin) = edgeRecord rising n := by
  rw [acceptPadEdge, padTakes, countEdge_selected (selects_setPin.mpr (selects_setPin.mpr h))]
  exact ⟨noteEdge_edges .., noteEdge_last ..⟩

/-- Accepting the edge does not change whether it pulses EVIO_IN. -/
theorem pulsesEvio_acceptPadEdge {k off f : Nat} (p : Part) :
    pulsesEvio (acceptPadEdge p pin rising n) k pin rising off f ↔ pulsesEvio p k pin rising off f := by
  have hr := acceptPadEdge_sameRegs p pin rising n
  have he : reg (acceptPadEdge p pin rising n) (G.evioEdge pin) = reg p (G.evioEdge pin) :=
    hr _ (by simp [G.evioEdge, G.evioEdges, G.evioLast, gkey_eq_iff])
  have hd : reg (acceptPadEdge p pin rising n) (G.evioDir pin) = reg p (G.evioDir pin) :=
    hr _ (by simp [G.evioDir, G.evioEdges, G.evioLast, gkey_eq_iff])
  have hp : reg (acceptPadEdge p pin rising n) G.pairRole = reg p G.pairRole := by
    refine hr _ ?_
    simp only [List.mem_cons, List.not_mem_nil, or_false, G.pairRole, G.evioEdges, G.evioLast, gkey]
    omega
  rw [pulsesEvio, selects_congr he, hd, hp, edgeThere, acceptPadEdge_producers]
  rfl

/-- What an edge leaves that is accepted by a part that has judged the pin's own (R105). -/
theorem pulseEdge_acceptPadEdge (p : Part) (k pin : Nat) (rising : Bool) (n off f : Nat) :
    let q := pulseEdge (acceptPadEdge p pin rising n) k pin rising off f
    PinMoved p q pin { pinOf p pin with pad := rising, accepted := rising } ∧
      (selects p pin rising → reg q (G.evioEdges pin) = (reg p (G.evioEdges pin) + 1) % 2 ^ regWidth (G.evioEdges pin) ∧
        reg q (G.evioLast pin) = edgeRecord rising n) ∧
      (pulsesEvio p k pin rising off f → q.fab.producers = p.fab.producers ++ [⟨25 * k + (off + f) / 10, ⟨k, off, pin, 0⟩⟩]) ∧
      (¬ pulsesEvio p k pin rising off f → q.fab.producers = p.fab.producers) ∧
      SameRegs p q [G.evioEdges pin, G.evioLast pin, G.evioFlags pin] := by
  intro q
  have hmoved := acceptPadEdge_moved p pin rising n
  have hregs : SameRegs p (acceptPadEdge p pin rising n) [G.evioEdges pin, G.evioLast pin, G.evioFlags pin] :=
    (acceptPadEdge_sameRegs p pin rising n).mono (by simp)
  by_cases hpass : pulsesEvio p k pin rising off f
  · have hq : q = _ := pulseEdge_pulses ((pulsesEvio_acceptPadEdge p).mpr hpass)
    rw [hq]
    refine ⟨⟨hmoved.level, hmoved.others, hmoved.mem, hmoved.seqs, hmoved.time, hmoved.arrivals⟩,
      fun hs => acceptPadEdge_counts p hs, fun _ => ?_, fun hn => absurd hpass hn, hregs⟩
    exact congrArg (· ++ _) (acceptPadEdge_producers ..)
  · have hq : OnlyRegs _ q [G.evioFlags pin] := pulseEdge_stops fun h => hpass ((pulsesEvio_acceptPadEdge p).mp h)
    have hstop {i : Nat} (hi : i ≠ 0x0D) : reg q (gkey (0x1400 + pin) i) = reg (acceptPadEdge p pin rising n) (gkey (0x1400 + pin) i) :=
      hq.2 _ (by simpa [G.evioFlags, gkey_eq_iff] using hi)
    refine ⟨hmoved.onlyRegs hq, fun hs => ?_, fun h => absurd h hpass, fun _ => ?_, hregs.trans (hq.2.mono (by simp))⟩
    · exact ⟨(hstop (by decide)).trans (acceptPadEdge_counts p hs).1, (hstop (by decide)).trans (acceptPadEdge_counts p hs).2⟩
    · rw [hq.1]
      exact acceptPadEdge_producers ..

/-! ## The end of a pulse -/

/-- The end of its pulse changes the level of a pin: it is high, and the drive tasks' levels reach the pads (R106, R112). -/
def pulseFalls (p : Part) (pin : Nat) : Prop := (pinOf p pin).drive = true ∧ reg p G.pairRole ≠ 2 ∧ p.fab.pinsLow = false

theorem pinsDriven_iff (p : Part) : pinsDriven p = true ↔ reg p G.pairRole ≠ 2 ∧ p.fab.pinsLow = false := by simp [pinsDriven, isShadow]

theorem drivePin_falls (h : pulseFalls p pin) : drivePin p pin false n 0 (pinOf p pin) =
    say (setPin p pin { pinOf p pin with drive := false, endAt := 0, pad := false, turned := n + 1 }) (.evio pin false n) := by
  obtain ⟨hd, hr⟩ := h
  unfold drivePin
  dsimp only
  rw [(pinsDriven_iff p).mpr hr, hd]
  rfl

theorem drivePin_stays (h : ¬ pulseFalls p pin) : drivePin p pin false n 0 (pinOf p pin) =
    setPin p pin { pinOf p pin with drive := false, endAt := 0 } := by
  unfold drivePin
  dsimp only
  split_ifs with hd hl
  · rfl
  · rfl
  · exact absurd ⟨by simpa using hl, (pinsDriven_iff p).mp (by simpa using hd)⟩ h

theorem endPulse_idle (h : (pinOf p pin).endAt = 0 ∨ coreStopped p = true) : endPulse p pin = p := if_pos h

theorem endPulse_ends (h : (pinOf p pin).endAt ≠ 0) (hc : coreStopped p = false) : endPulse p pin =
    drivePin (judgePad p pin ((pinOf p pin).endAt - 1) true) pin false (pinOf p pin).endAt 0
      (pinOf (judgePad p pin ((pinOf p pin).endAt - 1) true) pin) := if_neg (by simp [h, hc])

end Sys2Proof.Machine
end

section
/-!
SUPPORT. O31: event channels assert (R95, R97 to R102), and pins take edges and end pulses (R105, R106).
-/

namespace Sys2Proof.Machine

variable {p : Part} {ec t : Nat}

theorem exec_eventChannelAssert (ec : Ec) (t : State) : exec (.eventChannelAssert ec) t = lift (assertNext ec) t := by unfold exec; rfl

theorem assertNext_idle (h : coreStopped p = true ∨ nextArrival p ec = none ∨ ∃ t, nextArrival p ec = some t ∧ p.time.tick < t / 25) :
    assertNext ec p = p := by
  unfold assertNext
  rcases h with h | h | ⟨t, h, ht⟩
  · split
    · rfl
    · exact if_pos (.inr h)
  · rw [h]
  · rw [h]
    exact if_pos (.inl ht)

/-- The pulses that are due next reach the channel, after all that comes before them (R101). -/
theorem assertNext_due (hc : coreStopped p = false) (h : nextArrival p ec = some t) (ht : t / 25 ≤ p.time.tick) :
    assertNext ec p = reachAt (reachBefore (t, ec) (256 * (t + 1 - ((firstDue (allDue p)).map (·.1)).getD t)) p) ec t := by
  unfold assertNext
  rw [h]
  exact if_neg (by simp [hc, ht])

/-- Settles O31: the pulses due at a channel by what becomes of them, an edge by whether the pin accepts it, the end of a pulse by whether the pin
falls. -/
theorem eventChannelsAssertAndPinsFollow : Obligations.EventChannelsAssertAndPinsFollow := by
  unfold Obligations.EventChannelsAssertAndPinsFollow
  refine ⟨fun s ec t hw hc hn ht _ => ?_, fun s ec hw h => exec_next (exec_eventChannelAssert ec s) hw (assertNext_idle h), fun s pin hw => ?_⟩
  · intro p0 p here live loops quiet
    have hfabric : Fabric s.part (reachAt p0 ec t) := (reachBefore_fabric ..).trans (reachAt_fabric ..)
    obtain ⟨htick, hmem, hseqs, hplans, hadm⟩ := hfabric.kept
    -- The part whose channel the pulses reach: p in the core cycle of the pulses.
    let r := atCyc p (t - 25 * p.time.tick)
    have hloops : loopsAt r ec t = loops := loopsAt_eq r ec t
    refine ⟨fun hf => reachBefore_first hf _, reachChannel r ec t, exec_next (exec_eventChannelAssert ec s) hw (assertNext_due hc hn ht), htick,
      reachChannel_takes r ec t, ?_, fun pulse slot hm hq => ?_, reachChannel_idle (p := r), reachChannel_coalesce (p := r),
      hmem, hseqs, hplans, hadm⟩
    · rw [← hloops]
      exact reachChannel_loopDrops r ec t
    · rw [← ecLastRecord_eq]
      exact reachChannel_asserted r ec t hm hq
  · intro f e chosen pins
    refine ⟨fun rising off held => ?_, fun n closed => ⟨judgePad_idle, fun h0 hp hn => ?_⟩,
      fun h => exec_next (exec_evioPulseEnd pin s) hw (endPulse_idle h), fun h hc => ?_⟩
    · intro p x at_ taken passes
      have hstop : coreStopped p = true ↔ reg p G.clockState = 2 := decide_eq_true_iff
      have hsel : chosen rising ↔ selects p pin rising := selects_ownJudged.symm
      have hpass : passes ↔ pulsesEvio p p.time.tick pin rising off f := and_congr_left' hsel
      refine ⟨fun h => ?_, fun hr hf hc => ?_⟩
      · have hdrop : rising = x.accepted ∨ held < f ∨ coreStopped p = true := by rwa [hstop]
        exact ⟨_, exec_next (exec_evioInEdge pin rising off held s) hw (padEdge_drops hdrop), (setPin_moved ..).parts, rfl, rfl⟩
      · have haccept : ¬ (rising = x.accepted ∨ held < f ∨ coreStopped p = true) := by
          rw [hstop]
          exact not_or.mpr ⟨hr, not_or.mpr ⟨hf.not_gt, hc⟩⟩
        obtain ⟨hmoved, hcount, hpulse, hnone, hregs⟩ := pulseEdge_acceptPadEdge p p.time.tick pin rising (nOf p.time.tick off) off f
        exact ⟨_, exec_next (exec_evioInEdge pin rising off held s) hw (padEdge_accepts haccept), hmoved.parts, fun h => hcount (hsel.mp h),
          fun h => hpulse (hpass.mp h), fun h => hnone fun g => h (hpass.mpr g), hregs⟩
    · obtain ⟨hmoved, hcount⟩ := judgePad_spec closed h0 hp hn
      exact ⟨hmoved.parts, judgePad_sameRegs _ _ _ _, hcount⟩
    · intro n p x falls
      have hends := endPulse_ends h hc
      by_cases hf : falls
      · simp only [if_pos hf]
        exact ⟨_, exec_next (exec_evioPulseEnd pin s) hw (hends.trans (drivePin_falls hf)), rfl, (setPin_moved ..).parts, rfl⟩
      · simp only [if_neg hf]
        exact ⟨_, exec_next (exec_evioPulseEnd pin s) hw (hends.trans (drivePin_stays hf)), rfl, (setPin_moved ..).parts, rfl⟩

end Sys2Proof.Machine
end

section
/-!
SUPPORT. Bytes written into DRAM (R276, R297, R131): where no line is uncorrectable and the memory has not failed, a write by lines stores exactly its
bytes, and nothing else of the part but the pages that count as filled changes.
-/

namespace Sys2Proof.Machine

variable {p q : Part} {α : Type} {a x : Nat} {b : Byte} {l : List (Nat × Byte)}

/-- What stands at address x of data that begins at address a. -/
def placed (a : Nat) (data : List α) (x : Nat) : Option α := if a ≤ x then data[x - a]? else none

theorem placed_eq_some {data : List α} {v : α} : placed a data x = some v ↔ ∃ i, data[i]? = some v ∧ a + i = x := by
  unfold placed
  split_ifs with h
  · exact ⟨fun hv => ⟨x - a, hv, by omega⟩, fun ⟨i, hv, hi⟩ => by rwa [show x - a = i by omega]⟩
  · exact ⟨nofun, fun ⟨i, _, hi⟩ => by omega⟩

/-- The bytes of a string with their addresses. -/
theorem mem_addressed {data : List Byte} : (x, b) ∈ data.zipIdx.map (fun e => (a + e.2, e.1)) ↔ placed a data x = some b := by
  simp only [List.mem_map, Prod.exists, List.mem_zipIdx_iff_getElem?, Prod.mk.injEq, placed_eq_some]
  exact ⟨fun ⟨_, i, hv, hi, hb⟩ => ⟨i, hb ▸ hv, hi⟩, fun ⟨i, hv, hi⟩ => ⟨b, i, hv, hi, rfl⟩⟩

/-- The enabled bytes of a string with their addresses. -/
theorem mem_enabled {data : List (Option Byte)} :
    (x, b) ∈ data.zipIdx.filterMap (fun e => e.1.map fun v => (a + e.2, v)) ↔ placed a data x = some (some b) := by
  simp only [List.mem_filterMap, Prod.exists, List.mem_zipIdx_iff_getElem?, Option.map_eq_some_iff, Prod.mk.injEq, placed_eq_some]
  exact ⟨fun ⟨_, i, hv, _, ho, hi, hb⟩ => ⟨i, by rw [hv, ho, hb], hi⟩, fun ⟨i, hv, hi⟩ => ⟨some b, i, hv, b, rfl, hi, rfl⟩⟩

/-- Between p and q only the bytes of DRAM and the pages that count as filled differ. -/
def OnlyBytes (p q : Part) : Prop := q = { p with mem := { p.mem with dram := q.mem.dram }, dram := { p.dram with filled := q.dram.filled } }

theorem OnlyBytes.refl (p : Part) : OnlyBytes p p := rfl

theorem OnlyBytes.trans {r : Part} (h : OnlyBytes p q) (g : OnlyBytes q r) : OnlyBytes p r := by
  unfold OnlyBytes at h g ⊢
  rw [h] at g
  exact g

/-- What a write of bytes leaves as it was. -/
theorem OnlyBytes.kept (h : OnlyBytes p q) :
    q.gz = p.gz ∧ q.seqs = p.seqs ∧ q.plans = p.plans ∧ q.adm = p.adm ∧ q.sent = p.sent ∧ q.mem.bad = p.mem.bad ∧ q.mem.load = p.mem.load := by
  rw [h]
  exact ⟨rfl, rfl, rfl, rfl, rfl, rfl, rfl⟩

theorem fillPage_onlyBytes (p : Part) (a : Nat) : OnlyBytes p (fillPage p a) := by
  unfold fillPage
  dsimp only
  split_ifs <;> rfl

theorem fillPage_mem (p : Part) (a : Nat) : (fillPage p a).mem = p.mem := by
  unfold fillPage
  dsimp only
  split_ifs <;> rfl

/-- Where no line is uncorrectable, a write of a line is dropped nowhere and stores its bytes. -/
theorem writeLine_clean (hb : p.mem.bad = []) (line : Nat) (l : List (Nat × Byte)) :
    ∃ q, writeLine p line l = (q, false) ∧ OnlyBytes p q ∧ q.mem.dram = dramPut p.mem.dram l := by
  unfold writeLine
  split_ifs with he hd
  · exact ⟨p, rfl, .refl p, by rw [List.isEmpty_iff.mp he, dramPut_nil]⟩
  · simp [hb] at hd
  · refine ⟨_, rfl, OnlyBytes.trans ?_ (fillPage_onlyBytes _ _), congrArg MemSt.dram (fillPage_mem _ _)⟩
    simp [OnlyBytes, hb]

/-- The bytes of a write in the order in which their lines are written. -/
def byLine (l : List (Nat × Byte)) : List (Nat × Byte) :=
  ((l.map fun e => e.1 / 64).eraseDups).flatMap fun n => l.filter fun e => decide (e.1 / 64 = n)

theorem mem_byLine {e : Nat × Byte} : e ∈ byLine l ↔ e ∈ l := by
  simp only [byLine, List.mem_flatMap, List.mem_eraseDups, List.mem_map, List.mem_filter, decide_eq_true_eq]
  exact ⟨fun ⟨_, _, he, _⟩ => he, fun he => ⟨e.1 / 64, ⟨e, he, rfl⟩, he, rfl⟩⟩

/-- One line of a write by a port: its bytes are stored, or dropped and counted (R297). -/
def writeOneLine (port : Nat) (l : List (Nat × Byte)) (a : Part × Nat) (n : Nat) : Part × Nat :=
  let these := l.filter fun e => decide (e.1 / 64 = n)
  let r := writeLine a.1 n these
  if r.2 then (recordUe r.1 n port, a.2 + these.length) else (r.1, a.2)

/-- A write of bytes is dropped whole by a failed memory, and goes line by line otherwise. -/
theorem writeBytes_eq (p : Part) (port : Nat) (l : List (Nat × Byte)) : writeBytes p port l =
    if reg p G.memState = 3 then (p, l.length) else ((l.map fun e => e.1 / 64).eraseDups).foldl (writeOneLine port l) (p, 0) := rfl

/-- Lines written one after the other, where none is uncorrectable. -/
theorem writeLines_clean (port : Nat) (l : List (Nat × Byte)) (lines : List Nat) (n : Nat) (hb : p.mem.bad = []) :
    ∃ q, lines.foldl (writeOneLine port l) (p, n) = (q, n) ∧ OnlyBytes p q ∧
      q.mem.dram = dramPut p.mem.dram (lines.flatMap fun n => l.filter fun e => decide (e.1 / 64 = n)) := by
  induction lines generalizing p with
  | nil => exact ⟨p, rfl, .refl p, rfl⟩
  | cons line lines ih =>
    obtain ⟨r, hr, hpr, hrm⟩ := writeLine_clean hb line (l.filter fun e => decide (e.1 / 64 = line))
    obtain ⟨-, -, -, -, -, hbad, -⟩ := hpr.kept
    obtain ⟨q, hq, hrq, hqm⟩ := ih (hbad.trans hb)
    have hone : writeOneLine port l (p, n) line = (r, n) := by
      unfold writeOneLine
      dsimp only
      rw [hr]
      rfl
    refine ⟨q, by rw [List.foldl_cons, hone, hq], hpr.trans hrq, ?_⟩
    rw [hqm, hrm, List.flatMap_cons]
    exact (List.foldl_append ..).symm

/-- A write where the memory has not failed and no line is uncorrectable stores its bytes, each at its address (R276). -/
theorem writeBytes_clean {f : Nat → Option Byte} (hs : reg p G.memState ≠ 3) (hb : p.mem.bad = []) (port : Nat)
    (hl : ∀ x b, (x, b) ∈ l ↔ f x = some b) :
    ∃ q, writeBytes p port l = (q, 0) ∧ OnlyBytes p q ∧ ∀ x, dramByte q.mem.dram x = (f x).getD (dramByte p.mem.dram x) := by
  obtain ⟨q, hq, hpq, hm⟩ := writeLines_clean port l ((l.map fun e => e.1 / 64).eraseDups) 0 hb
  refine ⟨q, by rw [writeBytes_eq, if_neg hs, hq], hpq, fun x => ?_⟩
  rw [hm]
  cases hx : f x with
  | none =>
    refine dramByte_dramPut_other (l := byLine l) (fun e he hex => ?_) _
    have := (hl e.1 e.2).mp (mem_byLine.mp he)
    rw [hex, hx] at this
    cases this
  | some b =>
    refine dramByte_dramPut_stored (l := byLine l) (mem_byLine.mpr ((hl x b).mpr hx)) (fun e he hex => ?_) _
    have := (hl e.1 e.2).mp (mem_byLine.mp he)
    rw [hex, hx] at this
    exact (Option.some.inj this).symm

/-- A string of bytes written at an address. -/
theorem writeBytes_addressed (hs : reg p G.memState ≠ 3) (hb : p.mem.bad = []) (port a : Nat) (data : List Byte) :
    ∃ q, writeBytes p port (data.zipIdx.map fun e => (a + e.2, e.1)) = (q, 0) ∧ OnlyBytes p q ∧
      ∀ x, dramByte q.mem.dram x = if a ≤ x ∧ x < a + data.length then data.getD (x - a) 0 else dramByte p.mem.dram x := by
  obtain ⟨q, hq, hpq, hm⟩ := writeBytes_clean hs hb port fun x b => mem_addressed (a := a) (data := data)
  refine ⟨q, hq, hpq, fun x => (hm x).trans ?_⟩
  unfold placed
  by_cases ha : a ≤ x
  · by_cases hx : x < a + data.length
    · rw [if_pos ha, if_pos ⟨ha, hx⟩, List.getD_eq_getElem?_getD, List.getElem?_eq_getElem (by omega)]
      rfl
    · rw [if_pos ha, if_neg (fun h => hx h.2), List.getElem?_eq_none (by omega)]
      rfl
  · rw [if_neg ha, if_neg (fun h => ha h.1)]
    rfl

/-- Bytes that meet no blocked range pass a load path (R131). -/
theorem passBytes_free (h : ∀ e ∈ l, ∀ r ∈ blockedRanges p, ¬ (r.1 ≤ e.1 ∧ e.1 < r.2)) : passBytes p l = l := by
  refine List.filter_eq_self.mpr fun e he => ?_
  simpa using h e he

end Sys2Proof.Machine
end

section
/-!
SUPPORT. O39: descriptors, edge lists and upload chunks (R115, R131, R133, R134) on their way through the back end.
-/

namespace Sys2Proof.Machine

variable {p q : Part} {path : Path} {d v k : Nat} {e : Entry} {data : List Byte}

theorem exec_segDescWrite (path : Path) (d v : Nat) (s : State) :
    exec (.segDescWrite path d v) s = lift (fun p => commandWrite p path (0x4000 + d) 0x01 v) s := by unfold exec; rfl
theorem exec_edgeStoreWrite (path : Path) (data : List Byte) (s : State) :
    exec (.edgeStoreWrite path data) s = lift (fun p => commandBulk p path G.edgeStore data) s := by unfold exec; rfl
theorem exec_upData (path : Path) (data : List Byte) (s : State) :
    exec (.upData path data) s = lift (fun p => commandBulk p path G.upData data) s := by unfold exec; rfl

/-! ## Bulk objects -/

/-- A bulk object of the part as a whole is its effect alone. -/
theorem applyBulk_eq (hk : keyChan k = none) : applyBulk p e k data = bulkEffect p k data := by
  unfold applyBulk
  rw [hk]
  exact if_neg fun h => absurd h.2 (by decide)

/-- A taken bulk object, of the part as a whole, whose effect is not refused (R84). -/
theorem commandBulk_takes (ht : TakesBulk p path k) (hk : keyChan k = none) (hq : keyQueue k = none) (ha : bulkEffect p k data = (q, 0)) :
    commandBulk p path k data = tell q path 0 := by
  obtain ⟨e, he, hr, hc, hf⟩ := ht
  have hfw : (mirrored e k && forwards p) = false := by
    rw [Bool.eq_false_iff]
    simpa [hq] using hf
  unfold commandBulk
  rw [he]
  dsimp only
  rw [hr, writeBulk_applied hc hfw ((applyBulk_eq hk).trans ha)]
  rfl

theorem bulkEffect_edgeStore : bulkEffect p G.edgeStore data = commitEdges p data := if_pos rfl

theorem bulkEffect_upData : bulkEffect p G.upData data = commitUpload p data := (if_neg (by decide)).trans (if_pos rfl)

/-! ## Descriptors -/

/-- SEG_DESC (Table 05-8). -/
def entrySegDesc : Entry := ⟨1, 1, 1, .blob 16 .int, .rw, .live, 0, .none, false, false, .any, .cmd⟩

theorem lookup_segDesc (h : d < 16384) : lookup (0x4000 + d) 0x01 = .entry entrySegDesc 0x01 :=
  lookup_of (by omega) (entriesAt_4000 (by omega) (by omega)) rfl

/-- The part with a record that waits to become descriptor d at the next tick boundary (R128). -/
def withDesc (p : Part) (d v : Nat) : Part := { p with mem := { p.mem with newDesc := kput d v p.mem.newDesc } }

/-- A valid record of a descriptor that is neither in use nor an input of a waiting verdict is accepted (R115, R127, R307). -/
theorem commitDesc_free (hd : d ≠ zeroSeg) (hv : descOk p v = true) (hu : segInUse p d = false) (hl : lockedDesc p d = false) :
    commitDesc p d v = (withDesc p d v, 0) := by
  unfold commitDesc writeDesc withDesc
  rw [hl, if_neg (by simp), if_neg hd, hv, if_neg (by simp), hu, if_neg (by simp)]

/-- A taken SEG_DESC whose record is accepted waits for the next tick boundary (R115). -/
theorem write_segDesc (hd : d < 16383) (ht : Takes p path (gkey (0x4000 + d) 1) v) (hv : descOk (cleared p path (gkey (0x4000 + d) 1)) v = true)
    (hu : segInUse (cleared p path (gkey (0x4000 + d) 1)) d = false) (hl : lockedDesc (cleared p path (gkey (0x4000 + d) 1)) d = false) :
    commandWrite p path (0x4000 + d) 0x01 v = tell (withDesc (cleared p path (gkey (0x4000 + d) 1)) d v) path 0 := by
  have hlt : d < 16384 := by omega
  refine commandWrite_takes (e := entrySegDesc) (by decide) (lookup_segDesc hlt) rfl nofun ?_ ht
    ((effect_segDesc hlt).trans (commitDesc_free hd.ne hv hu hl)) (jobs_of_adm rfl)
  unfold gkey G.bpCommit gkey
  omega

/-! ## The edge store -/

/-- What is found after the words of a list have been put at their places from n on. -/
theorem kfind_putWords (words : List Nat) (n i : Nat) (m : KMap Nat) :
    kfind i ((words.zipIdx n).foldl (fun m e => kput e.2 e.1 m) m) = (placed n words i).orElse fun _ => kfind i m := by
  induction words generalizing n m with
  | nil => simp [placed]
  | cons w words ih =>
    rw [List.zipIdx_cons, List.foldl_cons, ih]
    rcases Nat.lt_trichotomy i n with h | h | h
    · simp [placed, show ¬ n + 1 ≤ i by omega, show ¬ n ≤ i by omega, kfind_kput_ne h.ne]
    · simp [placed, h]
    · simp [placed, show n + 1 ≤ i by omega, h.le, show i - n = i - (n + 1) + 1 by omega, kfind_kput_ne h.ne']

/-- The edge store as the words of an edge list leave what waits for the next tick boundary (R134). -/
def withEdges (p : Part) (words : List Nat) : Part :=
  { p with mem := { p.mem with newEdge := words.zipIdx.foldl (fun m e => kput e.2 e.1 m) p.mem.newEdge } }

/-- A word that a list changes, against the contents that are to be in force. -/
def changesEdge (p : Part) (words : List Nat) (i : Nat) : Prop := ∃ v, words[i]? = some v ∧ v ≠ kget (fun _ => 0) (takeSegments p).mem.edges i

/-- An edge list of the store's size that changes no entry in use or locked is accepted (R127, R134, R307). -/
theorem commitEdges_free (hlen : data.length ≤ 262144)
    (h : ∀ i, changesEdge p (wordsLE data) i → ∀ r, r ∈ edgesInUse p ∨ r ∈ lockedEdges p → ¬ (r.1 ≤ i ∧ i < r.2)) :
    commitEdges p data = (withEdges p (wordsLE data), 0) := by
  have hlocked : ¬ (((wordsLE data).zipIdx.filter fun e => decide (e.1 ≠ kget (fun _ => 0) (takeSegments p).mem.edges e.2)).any
      fun e => (lockedEdges p).any fun r => decide (r.1 ≤ e.2 ∧ e.2 < r.2)) = true := by
    simp only [List.any_eq_true, List.mem_filter, Prod.exists, List.mem_zipIdx_iff_getElem?, decide_eq_true_eq]
    exact fun ⟨v, i, ⟨hv, hne⟩, r, r', hr, hi⟩ => h i ⟨v, hv, hne⟩ (r, r') (.inr hr) hi
  have hused : ¬ ((((wordsLE data).zipIdx.map fun e => (e.2, e.1)).filter
      fun e => decide (e.2 ≠ kget (fun _ => 0) (takeSegments p).mem.edges e.1)).any
      fun e => (edgesInUse p).any fun r => decide (r.1 ≤ e.1 ∧ e.1 < r.2)) = true := by
    simp only [List.any_eq_true, List.mem_filter, List.mem_map, Prod.exists, List.mem_zipIdx_iff_getElem?, decide_eq_true_eq, Prod.mk.injEq]
    rintro ⟨_, _, ⟨⟨v, i, hv, rfl, rfl⟩, hne⟩, r, r', hr, hi⟩
    exact h _ ⟨_, hv, hne⟩ (r, r') (.inl hr) hi
  unfold commitEdges writeEdges withEdges
  dsimp only
  rw [if_neg hlocked, if_neg (by omega), if_neg hused, List.foldl_map]

/-! ## Upload -/

/-- The part after a chunk of network upload has moved UP_ADDR and UP_CRC on (R133). -/
def uploaded (p : Part) (a : Nat) (data : List Byte) : Part :=
  setReg (setReg p G.upAddr (a + data.length)) G.upCrc (crc32c (reg p G.upCrc) data)

/-- A chunk of UP_CHUNK bytes within DRAM that meets nothing in use is stored, and UP_ADDR and UP_CRC go on (R133). -/
theorem commitUpload_free (hn : data.length = reg p G.upChunk) (hin : reg p G.upAddr + data.length ≤ reg p G.apDramSize)
    (hfree : (blockedRanges p).any (overlaps (reg p G.upAddr, reg p G.upAddr + data.length)) = false) (hs : reg p G.memState ≠ 3)
    (hb : p.mem.bad = []) :
    ∃ r, commitUpload p data = (uploaded r (reg p G.upAddr) data, 0) ∧ OnlyBytes p r ∧
      ∀ x, dramByte r.mem.dram x = if reg p G.upAddr ≤ x ∧ x < reg p G.upAddr + data.length then data.getD (x - reg p G.upAddr) 0
        else dramByte p.mem.dram x := by
  obtain ⟨r, hr, hpr, hm⟩ := writeBytes_addressed hs hb 3 (reg p G.upAddr) data
  refine ⟨r, ?_, hpr, hm⟩
  unfold commitUpload uploaded
  dsimp only
  rw [if_neg (not_or.mpr ⟨not_not.mpr hn, hin.not_gt⟩), hfree, if_neg (by simp), hr]
  dsimp only
  rw [reg_setReg_ne r (show G.upCrc ≠ G.upAddr by decide)]

theorem uploaded_regs (p : Part) (a : Nat) (data : List Byte) :
    reg (uploaded p a data) G.upAddr = a + data.length ∧ reg (uploaded p a data) G.upCrc = crc32c (reg p G.upCrc) data ∧
      SameRegs p (uploaded p a data) [G.upAddr, G.upCrc] :=
  ⟨(reg_setReg_ne _ (by decide) _).trans (reg_setReg_same ..), reg_setReg_same ..,
    (SameRegs.setReg (fun _ _ => rfl) (by simp) _).setReg (by simp) _⟩

/-- Settles O39: the record, the words and the chunk each pass what is tested for things in use, and what is taken is said by its lemma. -/
theorem segmentsAndUploadsAreWritten : Obligations.SegmentsAndUploadsAreWritten := by
  unfold Obligations.SegmentsAndUploadsAreWritten
  refine fun s path hw => ⟨fun d v hd ht => ?_, fun data ht hlen => ?_, fun data ht => ?_⟩
  · intro p hv hu hl
    exact ⟨withDesc p d v, exec_next (exec_segDescWrite path d v s) hw (write_segDesc hd ht hv hu hl), rfl⟩
  · intro p words hfree
    have hc := commitEdges_free hlen fun i ⟨v, hv, hne⟩ => hfree i v hv hne
    refine ⟨withEdges p words, exec_next (exec_edgeStoreWrite path data s) hw
      (commandBulk_takes ht (by decide) (by decide) (bulkEffect_edgeStore.trans hc)), fun i => ?_, rfl⟩
    exact kfind_putWords words 0 i _
  · intro p a hn hin hfree hs hb
    obtain ⟨r, hc, hpr, hm⟩ := commitUpload_free hn hin hfree hs hb
    obtain ⟨hgz, hseqs, hplans, hadm, -⟩ := hpr.kept
    obtain ⟨haddr, hcrc, hregs⟩ := uploaded_regs r a data
    have hreg : ∀ k, reg r k = reg p k := reg_of_gz hgz
    refine ⟨uploaded r a data, exec_next (exec_upData path data s) hw
      (commandBulk_takes ht (by decide) (by decide) (bulkEffect_upData.trans hc)), hm, haddr, ?_, fun k hk => (hregs k hk).trans (hreg k),
      hseqs, hplans, hadm⟩
    rw [hcrc, hreg]

end Sys2Proof.Machine
end

section
/-!
SUPPORT. What a load path may not write (R127, R131, R251) rests on the plans in use: on the values in force of groups, queues and channels, on what
waits for a group or is committed, on the Traverse store and on the descriptors. Two parts alike in these have the same ranges blocked.
-/

namespace Sys2Proof.Machine

/-- What the plans in use are told from stands alike in p and q: the values of load groups, queues and channels (indices from 0x1A00 on), those that
wait or are committed, the Traverse store, the descriptors, and the accepted plan commits. -/
structure SamePlans (p q : Part) : Prop where
  regs    : ∀ k, 0x1A00 * 256 ≤ k → reg q k = reg p k
  pend    : q.gz.pend = p.gz.pend
  grps    : q.grps = p.grps
  trav    : q.mem.trav = p.mem.trav
  descs   : q.mem.descs = p.mem.descs
  newDesc : q.mem.newDesc = p.mem.newDesc
  commits : q.adm.plans = p.adm.plans

namespace SamePlans

variable {p q : Part} (h : SamePlans p q) (c : Nat)

include h

/-! ## Values -/

theorem reg_high {i : Nat} (hi : 0x1A00 ≤ i) (s : Nat) : reg q (gkey i s) = reg p (gkey i s) := h.regs _ (by unfold gkey; omega)

theorem planned_high {i : Nat} (hi : 0x1A00 ≤ i) (s : Nat) : planned q (gkey i s) = planned p (gkey i s) := by
  unfold planned
  rw [h.grps, h.reg_high hi]

theorem planned_trvBase : planned q (G.trvBase c) = planned p (G.trvBase c) := h.planned_high (by omega) _
theorem planned_trvSize : planned q (G.trvSize c) = planned p (G.trvSize c) := h.planned_high (by omega) _
theorem planned_trvEntry : planned q (G.trvEntry c) = planned p (G.trvEntry c) := h.planned_high (by omega) _
theorem planned_wpTable : planned q (G.wpTable c) = planned p (G.wpTable c) := h.planned_high (by omega) _
theorem planned_jmpBind (i : Nat) : planned q (G.jmpBind c i) = planned p (G.jmpBind c i) := h.planned_high (by omega) _
theorem planned_gapSeg : planned q (G.gapSeg c) = planned p (G.gapSeg c) := h.planned_high (by omega) _
theorem planned_idleSeg : planned q (G.idleSeg c) = planned p (G.idleSeg c) := h.planned_high (by omega) _
theorem planned_loadGroup : planned q (G.loadGroup c) = planned p (G.loadGroup c) := h.planned_high (by omega) _
theorem reg_loadGroup : reg q (G.loadGroup c) = reg p (G.loadGroup c) := h.reg_high (by omega) _
theorem reg_lgState (g : Nat) : reg q (G.lgState g) = reg p (G.lgState g) := h.reg_high (by omega) _
theorem reg_sqPolicy (i : Nat) : reg q (G.sqPolicy i) = reg p (G.sqPolicy i) := h.reg_high (by omega) _
theorem reg_sqEscWp (i : Nat) : reg q (G.sqEscWp i) = reg p (G.sqEscWp i) := h.reg_high (by omega) _
theorem reg_sqEnable (i : Nat) : reg q (G.sqEnable i) = reg p (G.sqEnable i) := h.reg_high (by omega) _
theorem reg_sqRingBase (i : Nat) : reg q (G.sqRingBase i) = reg p (G.sqRingBase i) := h.reg_high (by omega) _
theorem reg_sqRingSize (i : Nat) : reg q (G.sqRingSize i) = reg p (G.sqRingSize i) := h.reg_high (by omega) _

/-! ## The walk of a program -/

theorem stepWord_eq : stepWord q c = stepWord p c := by
  funext o
  unfold stepWord
  rw [h.trav, h.planned_trvBase]

theorem stepAt_eq : stepAt q c = stepAt p c := by
  funext o
  unfold stepAt
  rw [h.stepWord_eq]

theorem playedAt_eq : playedAt q c = playedAt p c := by
  funext o
  unfold playedAt
  rw [h.stepAt_eq]

theorem waypoint_eq : waypoint q c = waypoint p c := by
  funext w
  unfold waypoint
  rw [h.planned_wpTable]

theorem targetOffset_eq : targetOffset q c = targetOffset p c := by
  funext t
  unfold targetOffset
  rw [h.waypoint_eq]

theorem descOf_eq : descOf q = descOf p := by
  funext d
  unfold descOf descRecord
  rw [h.descs]

theorem findEndl_eq : findEndl q c = findEndl p c := by
  funext fuel
  induction fuel with
  | zero => rfl
  | succ fuel ih =>
    funext o k
    unfold findEndl
    rw [ih, h.planned_trvSize, h.stepWord_eq]

theorem loopBodies_eq : loopBodies q c = loopBodies p c := by
  unfold loopBodies
  rw [h.planned_trvSize, h.stepWord_eq, h.findEndl_eq]

theorem jumpTo_eq : jumpTo q c = jumpTo p c := by
  funext bodies x t
  unfold jumpTo
  rw [h.targetOffset_eq, h.planned_trvSize]

theorem follow_eq : follow q c = follow p c := by
  funext bodies x
  unfold follow
  rw [h.planned_trvSize, h.stepAt_eq, h.targetOffset_eq, h.jumpTo_eq]

theorem walk_eq : walk q c = walk p c := by
  funext bodies fuel
  induction fuel with
  | zero => rfl
  | succ fuel ih =>
    funext seen l
    cases l with
    | nil => rfl
    | cons x todo => rw [walk, walk, ih, h.follow_eq]

theorem after_eq : after q c = after p c := by
  funext bodies x
  unfold after
  rw [h.follow_eq]

theorem endless_eq : endless q c = endless p c := by
  funext bodies fuel
  induction fuel with
  | zero => rfl
  | succ fuel ih =>
    funext l
    rw [endless, endless, ih, h.playedAt_eq, h.after_eq]

theorem boundWaypoints_eq : boundWaypoints q c = boundWaypoints p c := by
  funext queues
  unfold boundWaypoints
  simp only [h.planned_jmpBind, h.waypoint_eq, h.reg_sqPolicy, h.reg_sqEscWp]

theorem queuesOf_eq : queuesOf q = queuesOf p := by
  funext l
  unfold queuesOf
  rw [h.descOf_eq]

theorem segmentsOf_eq : segmentsOf q c = segmentsOf p c := by
  funext l
  unfold segmentsOf
  rw [h.playedAt_eq]

theorem walkBound_eq : walkBound q c = walkBound p c := by
  funext bodies fuel
  induction fuel with
  | zero => rfl
  | succ fuel ih =>
    funext offs seen
    rw [walkBound, walkBound, ih, h.boundWaypoints_eq, h.queuesOf_eq, h.segmentsOf_eq, h.planned_trvSize, h.walk_eq]

/-- The walk of channel c's program goes alike in p and q (R158). -/
theorem walkProgram_eq : walkProgram q c = walkProgram p c := by
  unfold walkProgram
  rw [h.planned_trvBase, h.planned_trvSize, h.planned_trvEntry, h.loopBodies_eq, h.walk_eq, h.walkBound_eq, h.endless_eq, h.playedAt_eq, h.after_eq]

theorem channelSegs_eq : channelSegs q c = channelSegs p c := by
  unfold channelSegs
  rw [h.walkProgram_eq, h.segmentsOf_eq, h.planned_gapSeg, h.planned_idleSeg]

/-! ## The plans in use -/

theorem inForce : SamePlans (inForce p) (inForce q) := { h with grps := rfl }

theorem setReg (k v : Nat) : SamePlans (setReg p k v) (setReg q k v) :=
  { h with regs := fun j hj => by rw [reg_setReg, reg_setReg, h.regs j hj] }

theorem withPlan (base size entry : Nat) : SamePlans (withPlan p c base size entry) (withPlan q c base size entry) :=
  ((h.inForce.setReg _ _).setReg _ _).setReg _ _

/-- Values put into force over the same ones. -/
theorem putRegs (l : List (Nat × Nat)) {k : Nat} (hk : 0x1A00 * 256 ≤ k) :
    kget regDefault (l.foldl (fun m e => kset regDefault m e.1 e.2) q.gz.regs) k =
      kget regDefault (l.foldl (fun m e => kset regDefault m e.1 e.2) p.gz.regs) k := by
  have key : ∀ m n, kget regDefault m k = kget regDefault n k →
      kget regDefault (l.foldl (fun m e => kset regDefault m e.1 e.2) m) k = kget regDefault (l.foldl (fun m e => kset regDefault m e.1 e.2) n) k := by
    induction l with
    | nil => exact fun m n hmn => hmn
    | cons e l ih => exact fun m n hmn => ih _ _ (by rw [kget_kset, kget_kset, hmn])
  exact key _ _ (h.regs k hk)

theorem nextGroup_eq : nextGroup q c = nextGroup p c := by
  unfold nextGroup
  rw [h.pend, h.planned_loadGroup]

theorem groupRuns_eq (g : Nat) : groupRuns q g = groupRuns p g := by
  unfold groupRuns
  rw [h.reg_lgState]

theorem soon : SamePlans (soon p c) (soon q c) := by
  unfold Machine.soon pendingOf
  rw [h.grps, h.pend, h.nextGroup_eq, h.reg_lgState]
  exact { h with regs := fun k hk => h.putRegs _ hk, pend := h.pend, grps := rfl }

/-- The plans in use of channel c, one by one (R127, R129, R137). -/
theorem plansInUse : List.Forall₂ SamePlans (plansInUse p c) (plansInUse q c) := by
  have hg : groupOf q c = groupOf p c := by
    unfold groupOf
    rw [h.reg_loadGroup]
  unfold Machine.plansInUse
  simp only [hg, h.nextGroup_eq, h.groupRuns_eq, h.reg_lgState, h.commits]
  refine List.rel_append (List.rel_append ?_ ?_) ?_
  · split_ifs
    · exact .cons h.inForce .nil
    · exact .nil
  · split_ifs
    · exact .cons (h.soon c) .nil
    · exact .nil
  · exact List.rel_map (R := Eq) (fun k _ e => e ▸ h.withPlan c ..) (List.forall₂_refl _)

/-- The segments that the plans in use of channel c name (R127). -/
theorem segsInUse_eq : (Machine.plansInUse q c).flatMap (fun r => channelSegs r c) = (Machine.plansInUse p c).flatMap fun r => channelSegs r c := by
  have key : ∀ l m, List.Forall₂ SamePlans l m → m.flatMap (fun r => channelSegs r c) = l.flatMap fun r => channelSegs r c := by
    intro l m hlm
    induction hlm with
    | nil => rfl
    | cons hr _ ih => rw [List.flatMap_cons, List.flatMap_cons, ih, hr.channelSegs_eq]
  exact key _ _ (h.plansInUse c)

theorem users_eq : users q = users p := by
  unfold users
  simp only [h.segsInUse_eq]

/-! ## What is blocked -/

theorem takeSegments : SamePlans (takeSegments p) (takeSegments q) := by
  unfold Machine.takeSegments
  exact { h with descs := by rw [h.newDesc, h.descs], newDesc := rfl }

theorem pagesInUse_eq : pagesInUse q = pagesInUse p := by
  unfold pagesInUse
  rw [h.users_eq, h.takeSegments.descOf_eq]

theorem ringRegions_eq : ringRegions q = ringRegions p := by
  unfold ringRegions
  simp only [h.reg_sqEnable, h.reg_sqRingBase, h.reg_sqRingSize]

/-- The ranges that a load path may not write are the same (R131, R251). -/
theorem blockedRanges_eq : blockedRanges q = blockedRanges p := by
  unfold blockedRanges
  rw [h.pagesInUse_eq, h.ringRegions_eq]

end SamePlans

end Sys2Proof.Machine
end

section
/-!
SUPPORT. BAR4 accesses that meet nothing blocked and nothing uncorrectable (R130, R131), and an LD_GO of a legal block (R132).
-/

namespace Sys2Proof.Machine

variable {p q : Part} {path : Path} {off len : Nat}

theorem exec_bar4Write (off : Nat) (data : List (Option Byte)) (s : State) :
    exec (.bar4Write off data) s = lift (fun p => if barDead p then p else bar4Store p off data) s := by unfold exec; rfl
theorem exec_bar4Read (off len : Nat) (s : State) : exec (.bar4Read off len) s = lift (fun p =>
    if barDead p then p else say (bar4Load p off len).1 (.read (bar4Load p off len).2)) s := by unfold exec; rfl
theorem exec_ldGo (path : Path) (v : Nat) (s : State) : exec (.ldGo path v) s = lift (fun p => commandWrite p path 0x1584 0x0A v) s := by
  unfold exec; rfl

/-! ## BAR4 -/

/-- A write of bytes that lie within the space and meet nothing blocked stores them and counts nothing (R130, R131). -/
theorem bar4Store_free {data : List (Option Byte)} (ht : p.life.test = 0) (hs : reg p G.memState ≠ 3) (hb : p.mem.bad = [])
    (hfree : ∀ i b, data[i]? = some (some b) → reg p G.apBase + off + i < reg p G.apDramSize ∧
      ∀ r ∈ blockedRanges p, ¬ (r.1 ≤ reg p G.apBase + off + i ∧ reg p G.apBase + off + i < r.2)) :
    ∃ q, bar4Store p off data = q ∧ OnlyBytes p q ∧
      ∀ x, dramByte q.mem.dram x = (placed (reg p G.apBase + off) data x).join.getD (dramByte p.mem.dram x) := by
  have hjoin : ∀ x b, (x, b) ∈ data.zipIdx.filterMap (fun e => e.1.map fun v => (reg p G.apBase + off + e.2, v)) ↔
      (placed (reg p G.apBase + off) data x).join = some b := fun x b => mem_enabled.trans Option.join_eq_some_iff.symm
  obtain ⟨q, hq, hpq, hm⟩ := writeBytes_clean hs hb 3 hjoin
  refine ⟨q, ?_, hpq, hm⟩
  have hall : ∀ e ∈ data.zipIdx.filterMap (fun e => e.1.map fun v => (reg p G.apBase + off + e.2, v)),
      e.1 < reg p G.apDramSize ∧ ∀ r ∈ blockedRanges p, ¬ (r.1 ≤ e.1 ∧ e.1 < r.2) := by
    rintro ⟨x, b⟩ he
    obtain ⟨i, hi, rfl⟩ := placed_eq_some.mp (mem_enabled.mp he)
    exact hfree i b hi
  have hin := List.filter_eq_self.mpr fun e he => decide_eq_true (hall e he).1
  unfold bar4Store
  extract_lets base size all p1 inside pass r
  have hp1 : p1 = p := if_neg fun h => by
    obtain ⟨e, he, hout⟩ := List.any_eq_true.mp h
    exact absurd (hall e he).1 (of_decide_eq_true hout).not_gt
  have hinside : inside = all := hin
  have hpass : pass = all := by
    show passBytes p1 inside = all
    rw [hp1, hinside]
    exact passBytes_free fun e he => (hall e he).2
  have hr : r = (q, 0) := by
    show writeBytes p1 3 pass = _
    rw [hp1, hpass, hq]
  rw [if_neg (not_not.mpr ht), hpass, hinside, hr, if_neg (by simp)]

/-- A read within the space that meets no uncorrectable line returns the bytes there (R130). -/
theorem bar4Load_clean (ht : p.life.test = 0) (hs : reg p G.memState ≠ 3) (hb : p.mem.bad = [])
    (hin : reg p G.apBase + off + len ≤ reg p G.apDramSize) :
    bar4Load p off len = (p, .bytes (dramRead p.mem.dram (reg p G.apBase + off) len)) := by
  have hgood : meetsBad p (reg p G.apBase + off) len = false := by simp [meetsBad, hs, hb]
  have hmin : min len (reg p G.apDramSize - (reg p G.apBase + off)) = len := by omega
  unfold bar4Load
  dsimp only
  rw [if_neg (not_not.mpr ht), if_neg (c := reg p G.apDramSize < _ ∧ 0 < len) (fun h => by omega), hmin, hgood,
    if_neg (fun h => absurd h.2 (by decide)), Nat.sub_self, List.replicate_zero, List.append_nil]

/-! ## LD_GO -/

/-- LD_GO (Table 05-9). -/
def entryLdGo : Entry := ⟨10, 10, 1, .bool, .wo, .live, 0, .none, false, false, .any, .cmd⟩

theorem lookup_ldGo : lookup 0x1584 0x0A = .entry entryLdGo 0x0A := by decide

/-- The part whose block was accepted, which starts at the next tick boundary (R132). -/
def loadAccepted (p : Part) : Part := { p with mem := { p.mem with ldGo := true } }

/-- LD_LENGTH obeys Table 05-7. -/
theorem loadLengthOk_iff : loadLengthOk p = true ↔ reg p G.ldLength ≠ 0 ∧ (if reg p G.ldTarget < 2 then reg p G.ldLength % 64 = 0
    else reg p G.ldLength % 32 = 0 ∧ reg p G.ldInsetAddr * 2 + reg p G.ldLength ≤ 131072) := by
  unfold loadLengthOk
  dsimp only
  split_ifs <;> rw [decide_eq_true_iff]

theorem loadGo_accepts (hs : reg p G.ldState ≠ 1) (hg : p.mem.ldGo = false) (ht : reg p G.ldTarget ≤ 4) (hl : loadLengthOk p = true) :
    loadGo p = (loadAccepted p, 0) := by
  unfold loadGo loadAccepted
  rw [if_neg (by simp [hs, hg, hl, ht])]

/-- What is staged is no part of what a block is judged by. -/
theorem loadLengthOk_cleared (p : Part) (path : Path) (k : Nat) : loadLengthOk (cleared p path k) = loadLengthOk p := by
  unfold loadLengthOk
  simp only [cleared_reg _ _ _ (show G.ldLength / 256 ≠ 0x1018 by decide), cleared_reg _ _ _ (show G.ldTarget / 256 ≠ 0x1018 by decide),
    cleared_reg _ _ _ (show G.ldInsetAddr / 256 ≠ 0x1018 by decide)]

theorem mem_cleared (p : Part) (path : Path) (k : Nat) : (cleared p path k).mem = p.mem := by rw [cleared_onlyGz p path k]

/-- A taken LD_GO TRUE of a legal block, with none running, is accepted (R132). -/
theorem write_ldGo (ht : Takes p path G.ldGo 1) (hs : reg p G.ldState ≠ 1) (hg : p.mem.ldGo = false) (h4 : reg p G.ldTarget ≤ 4)
    (hl : loadLengthOk p = true) : commandWrite p path 0x1584 0x0A 1 = tell (loadAccepted (cleared p path G.ldGo)) path 0 := by
  refine commandWrite_takes (e := entryLdGo) (by decide) lookup_ldGo rfl nofun (by decide) ht
    (effect_ldGo.trans ((onTrue_one _).trans (loadGo_accepts ?_ ?_ ?_ ?_))) (jobs_of_adm rfl)
  · rwa [cleared_reg _ _ _ (by decide)]
  · rwa [mem_cleared]
  · rwa [cleared_reg _ _ _ (by decide)]
  · rwa [loadLengthOk_cleared]

end Sys2Proof.Machine
end

section
/-!
SUPPORT. The end of a load block (R132), in its stages: the byte count and the CRC are published, the bytes reach their target, and LD_STATE tells how
the block ended.
-/

namespace Sys2Proof.Machine

variable {p q : Part} {b : LoadBlock} {source src : List Byte} {ok : Bool}

/-- The source of a block: what the host supplied, or what stands in DRAM or in the first selected store. -/
def loadBytes (p : Part) (b : LoadBlock) (source : List Byte) : List Byte :=
  if b.target = 0 ∨ b.target = 2 then source.take b.length
  else if b.target = 1 then dramRead p.mem.dram b.dram b.length
  else if b.target = 3 then loadSource p b.dram b.length
  else ((loadChans b).head?.map fun c => (List.range (b.length / 2)).flatMap fun i => toBytesLE 2 (insetSlot p c (b.slot + i))).getD []

/-- The block runs no more; its byte count and its CRC are published. -/
def publishLoad (p : Part) (src : List Byte) : Part :=
  setReg (setReg { p with mem := { p.mem with load := none } } G.ldDoneBytes src.length) G.ldCrc (crc32c 0 src)

/-- A block into DRAM: bytes outside the space or blocked are counted (R131). -/
def storeLoad (p : Part) (b : LoadBlock) (src : List Byte) : Part :=
  let all := src.zipIdx.map fun e => (b.dram + e.2, e.1)
  let pass := passBytes p (all.filter fun e => decide (e.1 < reg p G.apDramSize))
  let r := writeBytes p 3 pass
  addReg r.1 G.ldBlocked (all.length - pass.length + r.2)

/-- A line of a block that goes from DRAM to the host, poisoned where it is uncorrectable. -/
def sendLine (b : LoadBlock) (p : Part) (i : Nat) : Part :=
  if meetsBad p (b.dram + 64 * i) 64 then say p (.hostPoison (b.host + 64 * i) 64)
  else say p (.hostWrite (b.host + 64 * i) (dramRead p.mem.dram (b.dram + 64 * i) 64))

/-- The bytes of a block reach their target. -/
def moveLoad (p : Part) (b : LoadBlock) (src : List Byte) : Part :=
  let p := if b.target = 1 ∨ b.target = 3 then recordRange p b.dram b.length 3 else p
  if b.target = 0 then storeLoad p b src
  else if b.target = 1 then (List.range (b.length / 64)).foldl (sendLine b) p
  else if b.target = 2 then spreadLines p b (linesOf 32 src)
  else if b.target = 3 then
    addReg (spreadLines p b (linesOf 32 src)) G.ldBlocked
      (64 * ((List.range (b.length / 64)).filter fun i => meetsBad p (b.dram + 64 * i) 64).length)
  else say p (.hostWrite b.host src)

/-- LD_STATE tells how the block ended, and its MSI-X message is raised. -/
def closeLoad (p : Part) (ok : Bool) : Part :=
  let p := setReg p G.ldState (if !ok then 4 else if reg p G.ldBlocked ≠ 0 then 5 else 2)
  if reg p G.ldMsix = 0 then p else raiseMsix p (reg p G.ldMsix)

/-- A running block ends by these stages. -/
theorem finishLoad_eq (h : p.mem.load = some b) : finishLoad p source ok =
    closeLoad (moveLoad (publishLoad p (loadBytes p b source)) b (loadBytes p b source)) ok := by
  unfold finishLoad
  rw [h]
  rfl

theorem finishLoad_idle (h : p.mem.load = none) : finishLoad p source ok = p := by
  unfold finishLoad
  rw [h]

/-! ## What the stages leave -/

/-- What no byte that a block moves changes: sequencers, plans, admission, the block that runs, and what was published of it. -/
def loadView (p : Part) : Vector Seq 256 × Vector (List TickPlan) 256 × AdmSt × Option LoadBlock × Nat × Nat :=
  (p.seqs, p.plans, p.adm, p.mem.load, reg p G.ldDoneBytes, reg p G.ldCrc)

theorem loadView_setReg {k : Nat} (hd : k ≠ G.ldDoneBytes) (hc : k ≠ G.ldCrc) (v : Nat) : loadView (setReg p k v) = loadView p := by
  simp [loadView, reg_setReg_ne p hd.symm, reg_setReg_ne p hc.symm]

theorem loadView_addReg {k : Nat} (hd : k ≠ G.ldDoneBytes) (hc : k ≠ G.ldCrc) (v : Nat) : loadView (addReg p k v) = loadView p :=
  loadView_setReg hd hc _

theorem loadView_raiseNow (d : DramSt) (src : Nat) : loadView (raiseNow { p with dram := d } src) = loadView p := rfl

theorem loadView_recordUe (line port : Nat) : loadView (recordUe p line port) = loadView p := by
  unfold recordUe
  extract_lets a rank p1 p2
  have h1 : loadView p1 = loadView p := (loadView_setReg (by decide) (by decide) _).trans (loadView_addReg (by decide) (by decide) _)
  have h2 : loadView p2 = loadView p := (loadView_setReg (by decide) (by decide) _).trans h1
  split_ifs
  · exact h2
  · exact (loadView_raiseNow ..).trans h2

theorem loadView_recordRange (a n port : Nat) : loadView (recordRange p a n port) = loadView p :=
  foldl_frame (v := loadView) (fun _ _ => loadView_recordUe ..) _ p

theorem loadView_fillPage (a : Nat) : loadView (fillPage p a) = loadView p := by
  rw [fillPage_onlyBytes p a]
  rfl

theorem loadView_writeLine (line : Nat) (l : List (Nat × Byte)) : loadView (writeLine p line l).1 = loadView p := by
  unfold writeLine
  split_ifs
  · rfl
  · rfl
  · exact loadView_fillPage _

theorem loadView_writeBytes (port : Nat) (l : List (Nat × Byte)) : loadView (writeBytes p port l).1 = loadView p := by
  rw [writeBytes_eq]
  split_ifs
  · rfl
  · refine foldl_frame (v := fun a : Part × Nat => loadView a.1) (fun a n => ?_) _ (p, 0)
    unfold writeOneLine
    dsimp only
    split_ifs
    · exact (loadView_recordUe ..).trans (loadView_writeLine ..)
    · exact loadView_writeLine ..

theorem loadView_storeLoad : loadView (storeLoad p b src) = loadView p :=
  (loadView_addReg (by decide) (by decide) _).trans (loadView_writeBytes ..)

theorem loadView_sendLine (i : Nat) : loadView (sendLine b p i) = loadView p := by
  unfold sendLine
  split_ifs <;> rfl

/-- An INSET_BLOCKED is none of the entries that tell of the block. -/
theorem insetBlocked_ne (c : Nat) {j : Nat} (hj : j < 256) : G.insetBlocked c ≠ gkey 0x1584 j := by
  unfold G.insetBlocked gkey
  omega

theorem loadView_writeInsetLine (c slot : Nat) (bytes : List Byte) : loadView (writeInsetLine p c slot bytes) = loadView p := by
  unfold writeInsetLine
  dsimp only
  split_ifs
  · exact (loadView_addReg (by decide) (by decide) _).trans (loadView_addReg (insetBlocked_ne c (by decide)) (insetBlocked_ne c (by decide)) _)
  · rfl

theorem loadView_spreadLines (lines : List (List Byte)) : loadView (spreadLines p b lines) = loadView p :=
  foldl_frame (v := loadView) (fun q _ => foldl_frame (v := loadView) (fun _ _ => loadView_writeInsetLine ..) _ q) _ p

theorem loadView_moveLoad : loadView (moveLoad p b src) = loadView p := by
  unfold moveLoad
  extract_lets p1
  have h1 : loadView p1 = loadView p := by
    show loadView (if _ then _ else _) = _
    split_ifs
    · exact loadView_recordRange ..
    · rfl
  refine Eq.trans ?_ h1
  split_ifs
  · exact loadView_storeLoad
  · exact foldl_frame (v := loadView) (fun _ _ => loadView_sendLine _) _ p1
  · exact loadView_spreadLines _
  · exact (loadView_addReg (by decide) (by decide) _).trans (loadView_spreadLines _)
  · rfl

/-! ## The end -/

/-- LD_STATE of a block that ends (Table 05-9). -/
def loadEnd (p : Part) (ok : Bool) : Nat := if ok = false then 4 else if reg p G.ldBlocked ≠ 0 then 5 else 2

/-- The end of a block shows LD_STATE and raises a message, and does nothing else. -/
theorem closeLoad_only (p : Part) (ok : Bool) : closeLoad p ok =
    { setReg p G.ldState (loadEnd p ok) with strm := (closeLoad p ok).strm, sent := (closeLoad p ok).sent } := by
  have hend : (if !ok then 4 else if reg p G.ldBlocked ≠ 0 then 5 else 2) = loadEnd p ok := by cases ok <;> rfl
  unfold closeLoad
  rw [hend]
  dsimp only
  split_ifs
  · rfl
  · rw [raiseMsix_only]

theorem closeLoad_reg (p : Part) (ok : Bool) (k : Nat) : reg (closeLoad p ok) k = if k = G.ldState then loadEnd p ok else reg p k := by
  rw [closeLoad_only]
  exact reg_setReg ..

theorem closeLoad_mem (p : Part) (ok : Bool) : (closeLoad p ok).mem = p.mem := by rw [closeLoad_only, setReg_mem]

theorem loadView_closeLoad (p : Part) (ok : Bool) : loadView (closeLoad p ok) = loadView p := by
  rw [closeLoad_only]
  exact loadView_setReg (p := p) (k := G.ldState) (by decide) (by decide) _

theorem closeLoad_state (p : Part) (ok : Bool) : reg (closeLoad p ok) G.ldState = loadEnd (closeLoad p ok) ok := by
  rw [closeLoad_reg, if_pos rfl, loadEnd, loadEnd, closeLoad_reg, if_neg (show G.ldBlocked ≠ G.ldState by decide)]

/-- What a block that ends leaves and publishes, whatever its target (R132). -/
theorem finishLoad_view (h : p.mem.load = some b) : loadView (finishLoad p source ok) =
    (p.seqs, p.plans, p.adm, none, (loadBytes p b source).length, crc32c 0 (loadBytes p b source)) := by
  rw [finishLoad_eq h, loadView_closeLoad, loadView_moveLoad]
  simp [loadView, publishLoad, reg_setReg_ne _ (show G.ldDoneBytes ≠ G.ldCrc by decide)]

theorem finishLoad_state (h : p.mem.load = some b) :
    reg (finishLoad p source ok) G.ldState = loadEnd (finishLoad p source ok) ok := by
  rw [finishLoad_eq h, closeLoad_state]

/-! ## A block into DRAM -/

theorem publishLoad_reg (src : List Byte) {k : Nat} (hd : k ≠ G.ldDoneBytes) (hc : k ≠ G.ldCrc) : reg (publishLoad p src) k = reg p k :=
  (reg_setReg_ne _ hc _).trans (reg_setReg_ne _ hd _)

/-- What is published of a block is no part of what the plans in use are told from. -/
theorem publishLoad_plans (p : Part) (src : List Byte) : SamePlans p (publishLoad p src) where
  regs k hk := publishLoad_reg src (by rintro rfl; exact absurd hk (by decide)) (by rintro rfl; exact absurd hk (by decide))
  pend := rfl
  grps := rfl
  trav := rfl
  descs := rfl
  newDesc := rfl
  commits := rfl

/-- A block into DRAM that lies within the space and meets nothing blocked is stored (R131, R132). -/
theorem storeLoad_free (hs : reg p G.memState ≠ 3) (hb : p.mem.bad = [])
    (hfree : ∀ i, i < src.length → b.dram + i < reg p G.apDramSize ∧ ∀ r ∈ blockedRanges p, ¬ (r.1 ≤ b.dram + i ∧ b.dram + i < r.2)) :
    ∃ q, storeLoad p b src = addReg q G.ldBlocked 0 ∧ OnlyBytes p q ∧
      ∀ x, dramByte q.mem.dram x = if b.dram ≤ x ∧ x < b.dram + src.length then src.getD (x - b.dram) 0 else dramByte p.mem.dram x := by
  obtain ⟨q, hq, hpq, hm⟩ := writeBytes_addressed hs hb 3 b.dram src
  refine ⟨q, ?_, hpq, hm⟩
  have hall : ∀ e ∈ src.zipIdx.map (fun e => (b.dram + e.2, e.1)),
      e.1 < reg p G.apDramSize ∧ ∀ r ∈ blockedRanges p, ¬ (r.1 ≤ e.1 ∧ e.1 < r.2) := by
    rintro ⟨x, v⟩ he
    obtain ⟨i, hi, rfl⟩ := placed_eq_some.mp (mem_addressed.mp he)
    exact hfree i (List.getElem?_eq_some_iff.mp hi).1
  unfold storeLoad
  dsimp only
  rw [List.filter_eq_self.mpr fun e he => decide_eq_true (hall e he).1, passBytes_free fun e he => (hall e he).2, hq, Nat.sub_self]
  rfl

/-- A block from the host into DRAM that meets nothing blocked, while the memory has neither failed nor an uncorrectable line (R132). -/
theorem finishLoad_stores (h : p.mem.load = some b) (ht : b.target = 0) (hn : source.length = b.length) (hs : reg p G.memState ≠ 3)
    (hb : p.mem.bad = []) (h0 : reg p G.ldBlocked = 0)
    (hfree : ∀ i, i < source.length → b.dram + i < reg p G.apDramSize ∧ ∀ r ∈ blockedRanges p, ¬ (r.1 ≤ b.dram + i ∧ b.dram + i < r.2)) :
    (∀ x, dramByte (finishLoad p source ok).mem.dram x =
      if b.dram ≤ x ∧ x < b.dram + source.length then source.getD (x - b.dram) 0 else dramByte p.mem.dram x) ∧
    reg (finishLoad p source ok) G.ldBlocked = 0 := by
  have hsrc : loadBytes p b source = source := (if_pos (.inl ht)).trans (List.take_of_length_le hn.le)
  have hmove : ∀ r, moveLoad r b source = storeLoad r b source := fun r => by
    unfold moveLoad
    rw [if_pos ht, if_neg (by omega)]
  have hreg : ∀ {k}, k ≠ G.ldDoneBytes → k ≠ G.ldCrc → reg (publishLoad p source) k = reg p k := publishLoad_reg source
  obtain ⟨q, hq, hpq, hm⟩ := storeLoad_free (p := publishLoad p source) (b := b) (src := source)
    (by rwa [hreg (by decide) (by decide)]) hb (by rwa [hreg (by decide) (by decide), (publishLoad_plans p source).blockedRanges_eq])
  rw [finishLoad_eq h, hsrc, hmove, hq]
  refine ⟨fun x => by rw [closeLoad_mem]; exact hm x, ?_⟩
  obtain ⟨hgz, -⟩ := hpq.kept
  rw [closeLoad_reg, if_neg (by decide), reg_addReg, if_pos rfl, reg_of_gz hgz, hreg (by decide) (by decide), h0, Nat.zero_add, Nat.zero_mod]

end Sys2Proof.Machine
end

section
/-!
SUPPORT. O40: BAR4 and load blocks (R130 to R132).
-/

namespace Sys2Proof.Machine

theorem exec_loadDmaDone (source : List Byte) (ok : Bool) (s : State) :
    exec (.loadDmaDone source ok) s = lift (fun p => finishLoad p source ok) s := by unfold exec; rfl

/-- Settles O40: a BAR4 access of an open space, an accepted block, and the end of a block are each said by their lemma. -/
theorem hostAccessesReachTheMemory : Obligations.HostAccessesReachTheMemory := by
  unfold Obligations.HostAccessesReachTheMemory
  intro s hw p free
  refine ⟨fun hd ht hs hb => ⟨fun off data => ?_, fun off len hin => ?_⟩, fun path ht hs hg h4 hn hl => ?_, fun hn source ok => ?_,
    fun b source ok h => ?_⟩
  · intro a hfree
    obtain ⟨q, hq, hpq, hm⟩ := bar4Store_free ht hs hb hfree
    obtain ⟨hgz, hseqs, -, hadm, hsent, -⟩ := hpq.kept
    refine ⟨q, exec_next (exec_bar4Write off data s) hw ((if_neg (by simpa using hd)).trans hq), fun x => (hm x).trans ?_, hgz, hseqs, hsent, hadm⟩
    unfold placed
    split_ifs
    · rw [List.getD_eq_getElem?_getD]
      cases data[x - a]? <;> rfl
    · rfl
  · refine exec_next (exec_bar4Read off len s) hw ((if_neg (by simpa using hd)).trans ?_)
    rw [bar4Load_clean ht hs hb hin]
  · have hlen : loadLengthOk p = true := loadLengthOk_iff.mpr ⟨hn, hl⟩
    refine ⟨loadAccepted (cleared p path G.ldGo), exec_next (exec_ldGo path 1 s) hw (write_ldGo ht hs hg h4 hlen), ?_⟩
    unfold loadAccepted
    rw [mem_cleared]
  · exact exec_next (exec_loadDmaDone source ok s) hw (finishLoad_idle hn)
  · have hview := finishLoad_view (source := source) (ok := ok) h
    simp only [loadView, Prod.mk.injEq] at hview
    obtain ⟨hseqs, hplans, hadm, hload, hdone, hcrc⟩ := hview
    refine ⟨finishLoad p source ok, exec_next (exec_loadDmaDone source ok s) hw rfl, hload, finishLoad_state h, fun ht => ?_, hseqs, hplans, hadm,
      fun ht hn hs hb h0 hfree => finishLoad_stores h ht hn hs hb h0 hfree⟩
    have hsrc : loadBytes p b source = source.take b.length := if_pos ht
    rw [hdone, hcrc, hsrc]
    exact ⟨rfl, rfl⟩

end Sys2Proof.Machine
end

section
/-!
SUPPORT. O5: the records of Traverse steps (R138, Tables 06-1 and 06-2). A record is a sum of fields at fixed places; reading a field is a division and a
remainder, so that each field of a step in range is read back by arithmetic.
-/

namespace Sys2Proof.Machine

/-- A field of a word, by the number that stands there. -/
theorem bits_of_div {w hi lo x : Nat} (h : w / 2 ^ lo % 2 ^ (hi + 1 - lo) = x) : bits w hi lo = x := by
  rw [bits, Nat.shiftRight_eq_div_pow, h]

/-- A flag of a word, by the number that stands there. -/
theorem bit_of_div {w i : Nat} {b : Bool} (h : w / 2 ^ i % 2 = ofBool b) : bit w i = b := by
  rw [bit, Nat.testBit_eq_decide_div_mod_eq, h]
  cases b <;> rfl

theorem ofBool_lt (b : Bool) : ofBool b < 2 := by cases b <;> decide

/-- Field TGT is read back over anything below it. -/
theorem readTarget_add {r : Nat} {t : Target} (hr : r < 2 ^ 32) (ht : targetOk t = true) : readTarget (r + encodeTarget t) = t := by
  cases t with
  | offset o =>
    have ho : o < 2 ^ 18 := of_decide_eq_true ht
    dsimp only [readTarget, encodeTarget]
    rw [bit_of_div (b := false) (show _ = 0 by omega), if_neg Bool.false_ne_true, bits_of_div (x := o) (by omega)]
  | waypoint v =>
    have hv : v < 256 := of_decide_eq_true ht
    dsimp only [readTarget, encodeTarget]
    rw [bit_of_div (b := true) (show _ = 1 by omega), if_pos rfl, bits_of_div (x := v) (by omega)]

/-- Field TGT lies in bits [63:32] (Table 06-1). -/
theorem encodeTarget_range {t : Target} (ht : targetOk t = true) : encodeTarget t < 2 ^ 64 ∧ encodeTarget t % 2 ^ 32 = 0 := by
  cases t with
  | offset o =>
    have ho : o < 2 ^ 18 := of_decide_eq_true ht
    dsimp only [encodeTarget]
    omega
  | waypoint v =>
    have hv : v < 256 := of_decide_eq_true ht
    dsimp only [encodeTarget]
    omega

/-- The fields of each kind of step are read back where its record holds them, and the record has 128 bits. -/
theorem readStep_encodeStep {i : Step} (h : stepOk i = true) : readStep (encodeStep i) = some i ∧ encodeStep i < 2 ^ 128 := by
  cases i with
  | play seg count =>
    simp only [stepOk, Bool.and_eq_true, decide_eq_true_eq] at h
    obtain ⟨⟨hs, -⟩, hn⟩ := h
    dsimp only [encodeStep]
    refine ⟨?_, by omega⟩
    have hop : (0x01 + seg * 2 ^ 32 + count * 2 ^ 64) % 256 = 1 := by omega
    simp only [readStep, hop]
    rw [bits_of_div (x := seg) (by omega), bits_of_div (x := count) (by omega)]
  | playt seg evm clr ex =>
    simp only [stepOk, Bool.and_eq_true, decide_eq_true_eq] at h
    obtain ⟨hs, he⟩ := h
    have hclr := ofBool_lt clr
    have hex := ofBool_lt ex
    dsimp only [encodeStep]
    refine ⟨?_, by omega⟩
    have hop : (0x02 + ofBool ex * 2 ^ 8 + evm * 2 ^ 16 + ofBool clr * 2 ^ 24 + seg * 2 ^ 32) % 256 = 2 := by omega
    simp only [readStep, hop]
    rw [bits_of_div (x := seg) (by omega), bits_of_div (x := evm) (by omega), bit_of_div (b := clr) (by omega), bit_of_div (b := ex) (by omega)]
  | loop count =>
    have hn : count < 2 ^ 32 := of_decide_eq_true h
    dsimp only [encodeStep]
    refine ⟨?_, by omega⟩
    have hop : (0x03 + count * 2 ^ 64) % 256 = 3 := by omega
    simp only [readStep, hop]
    rw [bits_of_div (x := count) (by omega)]
  | endl => exact ⟨rfl, by decide⟩
  | call t =>
    have ht : targetOk t = true := h
    have hr := encodeTarget_range ht
    dsimp only [encodeStep]
    refine ⟨?_, by omega⟩
    have hop : (0x05 + encodeTarget t) % 256 = 5 := by omega
    simp only [readStep, hop]
    rw [readTarget_add (by omega) ht]
  | ret => exact ⟨rfl, by decide⟩
  | jump t =>
    have ht : targetOk t = true := h
    have hr := encodeTarget_range ht
    dsimp only [encodeStep]
    refine ⟨?_, by omega⟩
    have hop : (0x07 + encodeTarget t) % 256 = 7 := by omega
    simp only [readStep, hop]
    rw [readTarget_add (by omega) ht]
  | brev evm clr t =>
    simp only [stepOk, Bool.and_eq_true, decide_eq_true_eq] at h
    obtain ⟨⟨-, he⟩, ht⟩ := h
    have hclr := ofBool_lt clr
    have hr := encodeTarget_range ht
    dsimp only [encodeStep]
    refine ⟨?_, by omega⟩
    have hop : (0x08 + evm * 2 ^ 16 + ofBool clr * 2 ^ 24 + encodeTarget t) % 256 = 8 := by omega
    simp only [readStep, hop]
    rw [bits_of_div (x := evm) (by omega), bit_of_div (b := clr) (by omega), readTarget_add (by omega) ht]
  | waitev evm clr anchor o d =>
    simp only [stepOk, Bool.and_eq_true, decide_eq_true_eq] at h
    obtain ⟨⟨⟨-, he⟩, ho⟩, hd⟩ := h
    have hclr := ofBool_lt clr
    have hanchor := ofBool_lt anchor
    dsimp only [encodeStep]
    refine ⟨?_, by omega⟩
    have hop : (0x09 + ofBool anchor * 2 ^ 8 + o * 2 ^ 12 + evm * 2 ^ 16 + ofBool clr * 2 ^ 24 + d * 2 ^ 32) % 256 = 9 := by omega
    simp only [readStep, hop]
    rw [bits_of_div (x := evm) (by omega), bit_of_div (b := clr) (by omega), bit_of_div (b := anchor) (by omega), bits_of_div (x := o) (by omega), bits_of_div (x := d) (by omega)]
  | waittick rel o s t =>
    simp only [stepOk, Bool.and_eq_true, decide_eq_true_eq] at h
    obtain ⟨⟨ho, hs⟩, ht⟩ := h
    have hrel := ofBool_lt rel
    dsimp only [encodeStep]
    refine ⟨?_, by omega⟩
    have hop : (0x0A + ofBool rel * 2 ^ 9 + o * 2 ^ 12 + s * 2 ^ 32 + t * 2 ^ 64) % 256 = 10 := by omega
    simp only [readStep, hop]
    rw [bit_of_div (b := rel) (by omega), bits_of_div (x := o) (by omega), bits_of_div (x := s) (by omega), bits_of_div (x := t) (by omega)]
  | tone a =>
    obtain ⟨tone, f, p, a, m, mode, amp, phase, ftw⟩ := a
    simp only [stepOk, toneOk, Bool.and_eq_true, decide_eq_true_eq] at h
    obtain ⟨⟨⟨⟨⟨ht, -⟩, -⟩, ha⟩, hp⟩, hf⟩ := h
    have hsf := ofBool_lt f
    have hsp := ofBool_lt p
    have hsa := ofBool_lt a
    have hsm := ofBool_lt m
    have hmode := ofBool_lt mode
    dsimp only [encodeStep]
    refine ⟨?_, by omega⟩
    have hop : (0x0B + tone * 2 ^ 8 + ofBool f * 2 ^ 10 + ofBool p * 2 ^ 11 + ofBool a * 2 ^ 12 + ofBool m * 2 ^ 13 + ofBool mode * 2 ^ 14 +
        amp * 2 ^ 16 + phase * 2 ^ 32 + ftw * 2 ^ 64) % 256 = 11 := by omega
    simp only [readStep, hop]
    rw [bits_of_div (x := tone) (by omega), bit_of_div (b := f) (by omega), bit_of_div (b := p) (by omega), bit_of_div (b := a) (by omega),
      bit_of_div (b := m) (by omega), bit_of_div (b := mode) (by omega), bits_of_div (x := amp) (by omega), bits_of_div (x := phase) (by omega),
      bits_of_div (x := ftw) (by omega)]
  | fire => exact ⟨rfl, by decide⟩
  | level t v =>
    simp only [stepOk, Bool.and_eq_true, decide_eq_true_eq] at h
    obtain ⟨ht, hv⟩ := h
    dsimp only [encodeStep]
    refine ⟨?_, by omega⟩
    have hop : (0x0D + t * 2 ^ 8 + v * 2 ^ 32) % 256 = 13 := by omega
    simp only [readStep, hop]
    rw [bits_of_div (x := t) (by omega), bits_of_div (x := v) (by omega)]
  | lead l =>
    simp only [stepOk, Bool.and_eq_true, decide_eq_true_eq] at h
    obtain ⟨h0, hl⟩ := h
    dsimp only [encodeStep]
    refine ⟨?_, by omega⟩
    have hop : (0x0E + l % 64 * 2 ^ 32) % 256 = 14 := by omega
    simp only [readStep, hop]
    rw [bits_of_div (x := l % 64) (by omega)]
    split_ifs with hz
    · rw [show l = 64 by omega]
    · rw [Nat.mod_eq_of_lt (show l < 64 by omega)]
  | halt o =>
    have ho : o < 3 := of_decide_eq_true h
    dsimp only [encodeStep]
    refine ⟨?_, by omega⟩
    have hop : (0x0F + o * 2 ^ 8) % 256 = 15 := by omega
    simp only [readStep, hop]
    rw [bits_of_div (x := o) (by omega)]
  | sync o g =>
    simp only [stepOk, Bool.and_eq_true, decide_eq_true_eq] at h
    obtain ⟨ho, hg⟩ := h
    dsimp only [encodeStep]
    refine ⟨?_, by omega⟩
    have hop : (0x10 + o * 2 ^ 12 + g * 2 ^ 32) % 256 = 16 := by omega
    simp only [readStep, hop]
    rw [bits_of_div (x := o) (by omega), bits_of_div (x := g) (by omega)]

/-- Settles O5: the fields of a step are read back, and decoding checks that what it reads is encoded as the word. -/
theorem traverseRecordsRoundTrip : Obligations.TraverseRecordsRoundTrip := by
  unfold Obligations.TraverseRecordsRoundTrip
  refine ⟨fun i h => ?_, fun w i h => ?_⟩
  · obtain ⟨hr, hlt⟩ := readStep_encodeStep h
    refine ⟨?_, hlt⟩
    unfold decodeStep
    rw [hr]
    simp [h]
  · unfold decodeStep at h
    split at h
    · rename_i j _
      split_ifs at h with hj
      obtain rfl := Option.some.inj h
      simpa using hj
    · cases h

end Sys2Proof.Machine
end

section
/-!
SUPPORT. O9, O12: CALL and RET (R145), and the steps that no admitted program reaches (R158). Each command is its step run at the boundary.
-/

namespace Sys2Proof.Machine

theorem exec_loop (c : Chan) (count : Nat) (s : State) : exec (.loop c count) s = liftSeq (runStep c (.loop count)) s := by unfold exec; rfl
theorem exec_endl (c : Chan) (s : State) : exec (.endl c) s = liftSeq (runStep c .endl) s := by unfold exec; rfl
theorem exec_call (c : Chan) (t : Target) (s : State) : exec (.call c t) s = liftSeq (runStep c (.call t)) s := by unfold exec; rfl
theorem exec_ret (c : Chan) (s : State) : exec (.ret c) s = liftSeq (runStep c .ret) s := by unfold exec; rfl
theorem exec_jump (c : Chan) (t : Target) (s : State) : exec (.jump c t) s = liftSeq (runStep c (.jump t)) s := by unfold exec; rfl

/-- A step that only counts itself and goes on with a sequencer that runs answers that next state. -/
theorem step_goesOn {s : State} {c : Chan} {pc n : Nat} {i : Step} {x : Seq} (hw : awake s) (h : AtStep s.part c pc)
    (hq : execStep s.part c (planTick s.part) pc i = setSeq (countStep s.part c (planTick s.part)) c x) (hx : x.act = .run n) :
    ∃ q, liftSeq (runStep c i) s = .next { s with part := q } ∧ StepAdds s.part q c [.add (G.seqSteps c) 1] [] [] ∧ seqOf q c = x :=
  stepAdds_exists hw h hq (countStep_adds ..) fun _ _ hs => by rw [hx] at hs; cases hs

/-- Settles O9: a CALL and a RET each count one step and leave the sequencer that R145 says. -/
theorem callsReturnWhereTheyCameFrom : Obligations.CallsReturnWhereTheyCameFrom := by
  unfold Obligations.CallsReturnWhereTheyCameFrom
  intro s c pc hw h
  refine ⟨fun t o ht hl => ?_, fun e r hr => ?_⟩
  · rw [exec_call]
    exact step_goesOn hw h (execStep_call ht hl) rfl
  · rw [exec_ret]
    exact step_goesOn hw h (execStep_ret hr) rfl

/-- Settles O12: in each situation the step gets stuck with its reason, which is what the command faults with. -/
theorem unadmittedStepsStop : Obligations.UnadmittedStepsStop := by
  unfold Obligations.UnadmittedStepsStop
  intro s c pc hw h
  have fault {i : Step} {w : StuckWhy} (hq : execStep s.part c (planTick s.part) pc i = getStuck (countStep s.part c (planTick s.part)) c pc w) :
      liftSeq (runStep c i) s = .fault (.sequencer c w) := step_fault hw h hq (seqOf_countStep _ _ _)
  refine ⟨fun count hl => ?_, fun count hl he => ?_, fun hl => ?_, fun t hl => ?_, fun hl => ?_, fun t ht => ⟨?_, fun hl => ?_⟩⟩
  · rw [exec_loop]
    exact fault (execStep_loop_over count hl)
  · rw [exec_loop]
    exact fault (execStep_loop_noEndl count hl he)
  · rw [exec_endl]
    exact fault (execStep_endl_under hl)
  · rw [exec_call]
    exact fault (execStep_call_over t hl)
  · rw [exec_ret]
    exact fault (execStep_ret_under hl)
  · rw [exec_jump]
    exact fault (execStep_jump_bad ht)
  · rw [exec_call]
    exact fault (execStep_call_bad ht hl)

end Sys2Proof.Machine
end

section
/-!
SUPPORT. O11: TONE, LEVEL, FIRE and LEAD (R151 to R154) place their effect at the boundary sample and go on.
-/

namespace Sys2Proof.Machine

theorem exec_tone (c : Chan) (a : ToneArgs) (s : State) : exec (.tone c a) s = liftSeq (runStep c (.tone a)) s := by unfold exec; rfl
theorem exec_level (c : Chan) (t v : Nat) (s : State) : exec (.level c t v) s = liftSeq (runStep c (.level t v)) s := by unfold exec; rfl
theorem exec_fire (c : Chan) (s : State) : exec (.fire c) s = liftSeq (runStep c .fire) s := by unfold exec; rfl
theorem exec_lead (c : Chan) (l : Nat) (s : State) : exec (.lead c l) s = liftSeq (runStep c (.lead l)) s := by unfold exec; rfl

variable {p : Part} {c : Chan} {m pc : Nat}

/-- The fields that a TONE sets, and its record (R151, Table 06-2). -/
def toneEff (a : ToneArgs) : Eff :=
  .tone a.tone (ofBool a.setF + 2 * ofBool a.setP + 4 * ofBool a.setA + 8 * ofBool a.setM)
    (a.ftw + a.amp * 2 ^ 48 + a.phase * 2 ^ 64 + ofBool a.mode * 2 ^ 96)

/-- The code that a LEVEL writes (R152). -/
def levelEff (t v : Nat) : Eff := if t = 0 then .gain v else if t = 1 then .offset v else .level v

theorem execStep_tone (a : ToneArgs) : execStep p c m pc (.tone a) =
    setSeq (addOp (addEff (countStep p c m) c m 4 (seqOf p c).at_ (toneEff a)) c m (.add (G.toneCommits c) 1)) c ((seqOf p c).goOn (pc + 1)) := rfl

theorem execStep_level (t v : Nat) : execStep p c m pc (.level t v) =
    setSeq (addEff (countStep p c m) c m 4 (seqOf p c).at_ (levelEff t v)) c ((seqOf p c).goOn (pc + 1)) := rfl

theorem execStep_fire : execStep p c m pc .fire =
    setSeq (addPulse (countStep p c m) c m (seqOf p c).at_ (0x100 + c.val) 0) c ((seqOf p c).goOn (pc + 1)) := rfl

theorem execStep_lead (l : Nat) : execStep p c m pc (.lead l) =
    setSeq (countStep p c m) c { (seqOf p c).goOn (pc + 1) with armed := some (pc, l) } := rfl

/-- Settles O11: each step's effect is one addition to the plan at the boundary sample. -/
theorem commitStepsPlaceTheirEffect : Obligations.CommitStepsPlaceTheirEffect := by
  unfold Obligations.CommitStepsPlaceTheirEffect
  intro s c pc hw h
  have hc := countStep_adds s.part c
  have places {i : Step} {q : Part} {o : List RegOp} {e : List EffAt} {u : List Pulse} (ha : StepAdds s.part q c o e u)
      (hq : execStep s.part c (planTick s.part) pc i = setSeq q c ((seqOf s.part c).goOn (pc + 1))) :
      ∃ r, liftSeq (runStep c i) s = .next { s with part := r } ∧ seqOf r c = (seqOf s.part c).goOn (pc + 1) ∧ StepAdds s.part r c o e u := by
    obtain ⟨r, hr, hadds, hseq⟩ := stepAdds_exists hw h hq ha fun _ _ hs => by cases hs
    exact ⟨r, hr, hseq, hadds⟩
  refine ⟨fun a => ?_, fun t v => ?_, ?_, fun l => ?_⟩
  · rw [exec_tone]
    exact places ((hc.addEff _ _ _).addOp _) (execStep_tone a)
  · rw [exec_level]
    exact places (hc.addEff _ _ _) (execStep_level t v)
  · rw [exec_fire]
    exact places (hc.addPulse _ _ _) execStep_fire
  · rw [exec_lead]
    exact step_goesOn hw h (execStep_lead l) rfl

end Sys2Proof.Machine
end

section
/-!
SUPPORT. O8: LOOP, ENDL, JUMP and BREV (R144, R146). A taken BREV acts on the pulses that qualified and, with CLR, empties their latches before it goes to
its target.
-/

namespace Sys2Proof.Machine

theorem exec_brev (c : Chan) (evm : Nat) (clr : Bool) (t : Target) (s : State) :
    exec (.brev c evm clr t) s = liftSeq (runStep c (.brev evm clr t)) s := by unfold exec; rfl

variable {p q : Part} {c : Chan} {m pc evm : Nat} {clr : Bool} {t : Target}

/-- BREV with no latch that qualifies notes its target as not taken and goes on (R146, R175). -/
theorem execStep_brev_untaken (h : readyLatches p c evm m = []) : execStep p c m pc (.brev evm clr t) =
    setSeq (setSeq (countStep p c m) c { seqOf p c with untaken := some ((seqOf p c).untaken.getD (t, (seqOf p c).loops, (seqOf p c).calls)) }) c
      { (seqOf p c).goOn (pc + 1) with untaken := some ((seqOf p c).untaken.getD (t, (seqOf p c).loops, (seqOf p c).calls)) } := by
  have hl : (readyLatches (countStep p c m) c evm m).isEmpty = true := List.isEmpty_iff.mpr h
  rw [execStep]
  dsimp only
  rw [if_pos hl, goTo, seqOf_setSeq_same]
  rfl

/-- Pulses have been acted on and latches emptied between p and q: nothing but the plans and the latches has changed. -/
def OnlyActed (p q : Part) : Prop := q = { p with plans := q.plans, fab := { p.fab with latches := q.fab.latches } }

theorem OnlyActed.trans {r : Part} (h : OnlyActed p q) (g : OnlyActed q r) : OnlyActed p r := by
  unfold OnlyActed at *
  rw [g]
  conv_lhs => rw [h]

theorem OnlyActed.seqOf (h : OnlyActed p q) (d : Chan) : Machine.seqOf q d = Machine.seqOf p d := by rw [h]; rfl

theorem OnlyActed.kept (h : OnlyActed p q) : q.gz = p.gz ∧ q.mem = p.mem ∧ q.sent = p.sent := by
  rw [h]
  exact ⟨rfl, rfl, rfl⟩

theorem dropLatches_onlyActed (p : Part) (l : List Nat) : OnlyActed p (dropLatches p l) := by
  have hp : (dropLatches p l).plans = p.plans := by rw [dropLatches_eq]
  unfold OnlyActed
  rw [hp]
  exact dropLatches_eq l p

/-- What a decide stage does that acts on the pulses of some latches of channel c (R97), and with CLR empties them (R146). -/
def actOnAll (p : Part) (c : Chan) (m : Nat) (clr : Bool) (l : List (Nat × Pulse)) : Part :=
  if clr then dropLatches (l.foldl (fun q e => addActed q c m e.2.gen) p) (l.map fun e => chLatch c e.1)
  else l.foldl (fun q e => addActed q c m e.2.gen) p

theorem actOnAll_onlyActed (l : List (Nat × Pulse)) : OnlyActed p (actOnAll p c m clr l) := by
  have hA : OnlyActed p (l.foldl (fun q e => addActed q c m e.2.gen) p) := by
    unfold OnlyActed
    rw [actedAll_eq]
  unfold actOnAll
  split
  · exact hA.trans (dropLatches_onlyActed ..)
  · exact hA

theorem actOnAll_acted (l : List (Nat × Pulse)) : (planOf (actOnAll p c m clr l) c m).acted = (planOf p c m).acted ++ l.map (·.2.gen) := by
  have hA := actedAll_acted (c := c) (fun e : Nat × Pulse => e.2.gen) l m p
  unfold actOnAll
  split
  · rw [dropLatches_eq]
    exact hA
  · exact hA

theorem latchAt_actOnAll (l : List (Nat × Pulse)) (k : Nat) : latchAt (actOnAll p c m clr l) k =
    if clr ∧ k ∈ l.map (fun e => chLatch c e.1) then none else latchAt p k := by
  have hA : latchAt (l.foldl (fun q e => addActed q c m e.2.gen) p) k = latchAt p k := by rw [actedAll_eq]; rfl
  unfold actOnAll
  split
  · rename_i h
    simp only [latchAt_dropLatches, hA, h, true_and]
  · rename_i h
    rw [hA, if_neg fun e => h e.1]

/-- BREV with a latch that qualifies, to a target that names a step (R146). -/
theorem execStep_brev_taken {o : Nat} (h : readyLatches p c evm m ≠ []) (ht : targetOffset p c t = some o) :
    execStep p c m pc (.brev evm clr t) = setSeq (actOnAll (countStep p c m) c m clr (readyLatches p c evm m)) c
      { (seqOf p c).goOn o with loops := popOut (seqOf p c) o } := by
  have hl : ¬ (readyLatches (countStep p c m) c evm m).isEmpty = true := fun e => h (List.isEmpty_iff.mp e)
  have hq : OnlyActed (countStep p c m) (actOnAll (countStep p c m) c m clr (readyLatches p c evm m)) := actOnAll_onlyActed _
  have hto : targetOffset (actOnAll (countStep p c m) c m clr (readyLatches p c evm m)) c t = some o := by rw [hq]; exact ht
  rw [execStep]
  dsimp only
  rw [if_neg hl]
  exact (goTarget_some hto).trans (by rw [hq.seqOf]; rfl)

/-- Settles O8: LOOP, ENDL and JUMP each leave the sequencer that their equation says; BREV by whether a latch qualifies. -/
theorem loopsAndBranchesMoveThePosition : Obligations.LoopsAndBranchesMoveThePosition := by
  unfold Obligations.LoopsAndBranchesMoveThePosition
  refine ⟨fun s c pc hw h => ⟨fun count e hl he => ?_, fun e r hr => ?_, fun t o ht => ?_⟩, fun s c pc evm clr t hw h => ⟨fun hl => ?_, fun o hl ht => ?_⟩⟩
  · rw [exec_loop]
    exact step_goesOn hw h (execStep_loop count hl he) rfl
  · rw [exec_endl]
    refine stepAdds_exists hw h (execStep_endl hr) (countStep_adds ..) fun _ _ hs => ?_
    split at hs
    · cases hs
    · split at hs <;> cases hs
  · rw [exec_jump]
    exact step_goesOn hw h (execStep_jump ht) rfl
  · rw [exec_brev]
    exact stepAdds_exists hw h (execStep_brev_untaken hl) ((countStep_adds ..).setSeq _) fun _ _ hs => by cases hs
  · rw [exec_brev]
    have hq : OnlyActed (countStep s.part c (planTick s.part)) (actOnAll (countStep s.part c (planTick s.part)) c (planTick s.part) clr _) :=
      actOnAll_onlyActed (readyLatches s.part c evm (planTick s.part))
    obtain ⟨hgz, hmem, hsent⟩ := hq.kept
    refine ⟨_, stepNext hw h (execStep_brev_taken hl ht) (fun d hd => ?_) (fun _ _ hs => ?_), seqOf_setSeq_same .., ?_, fun k => ?_, fun k => ?_,
      fun d hd => ?_, hmem, hsent⟩
    · rw [seqOf_setSeq_ne _ hd, hq.seqOf, seqOf_countStep]
    · rw [seqOf_setSeq_same] at hs
      cases hs
    · rw [planOf_setSeq, actOnAll_acted, countStep, planOf_addOp]
    · exact latchAt_actOnAll _ k
    · rw [reg_setSeq, reg, hgz]; rfl
    · rw [seqOf_setSeq_ne _ hd, hq.seqOf, seqOf_countStep]

end Sys2Proof.Machine
end

section
/-!
SUPPORT. O10: the steps that hold a channel, WAITEV, WAITTICK, SYNC and HALT (R148 to R150, R155).
-/

namespace Sys2Proof.Machine

theorem exec_waitev (c : Chan) (evm : Nat) (clr anchor : Bool) (out delay : Nat) (s : State) :
    exec (.waitev c evm clr anchor out delay) s = liftSeq (runStep c (.waitev evm clr anchor out delay)) s := by unfold exec; rfl
theorem exec_waittick (c : Chan) (rel : Bool) (out off tick : Nat) (s : State) :
    exec (.waittick c rel out off tick) s = liftSeq (runStep c (.waittick rel out off tick)) s := by unfold exec; rfl
theorem exec_sync (c : Chan) (out tag : Nat) (s : State) : exec (.sync c out tag) s = liftSeq (runStep c (.sync out tag)) s := by unfold exec; rfl
theorem exec_halt (c : Chan) (h : Nat) (s : State) : exec (.halt c h) s = liftSeq (runStep c (.halt h)) s := by unfold exec; rfl

variable {p : Part} {c : Chan} {m pc : Nat}

/-- The sequencer that begins act a at its boundary. -/
def Seq.begins (s : Seq) (a : Act) : Seq := { s with act := a, fresh := false, seam := false }

theorem execStep_waitev (evm : Nat) (clr anchor : Bool) (out delay : Nat) : execStep p c m pc (.waitev evm clr anchor out delay) =
    setSeq (countStep p c m) c ((seqOf p c).begins (.wait ⟨pc, pc + 1, (seqOf p c).at_, out, .event evm clr anchor delay, none⟩)) := rfl

/-- The sample at which a WAITTICK releases (R149). -/
def tickInstant (s : Seq) (rel : Bool) (off tick : Nat) : Nat := if rel then 250 * (s.m0 + tick) + off + s.slip else 250 * tick + off

/-- A WAITTICK whose instant has been reached is late and goes on (R149). -/
theorem execStep_waittick_late {rel : Bool} {out off tick : Nat} (h : tickInstant (seqOf p c) rel off tick ≤ (seqOf p c).at_) :
    execStep p c m pc (.waittick rel out off tick) =
      setSeq (addOp (addOp (countStep p c m) c m (.bits (G.seqFlags c) 1)) c m (.add (G.seqLate c) 1)) c ((seqOf p c).goOn (pc + 1)) :=
  if_pos h

theorem execStep_waittick_waits {rel : Bool} {out off tick : Nat} (h : ¬ tickInstant (seqOf p c) rel off tick ≤ (seqOf p c).at_) :
    execStep p c m pc (.waittick rel out off tick) =
      setSeq (countStep p c m) c ((seqOf p c).begins (.wait ⟨pc, pc + 1, (seqOf p c).at_, out, .tick, some (tickInstant (seqOf p c) rel off tick)⟩)) :=
  if_neg h

/-- What a SYNC at boundary n begins: a participant waits, another channel goes on (R150). -/
def syncAct (p : Part) (c : Chan) (pc out tag : Nat) : Act :=
  if planned p (G.syncPart c) = 1 then .wait ⟨pc, pc + 1, (seqOf p c).at_, out, .sync tag, none⟩ else .run (pc + 1)

theorem execStep_sync (out tag : Nat) : execStep p c m pc (.sync out tag) =
    setSeq (countStep p c m) c ((seqOf p c).begins (syncAct p c pc out tag)) := by
  unfold syncAct
  by_cases h : planned p (G.syncPart c) = 1
  · rw [if_pos h]
    exact if_pos h
  · rw [if_neg h]
    exact if_neg h

/-- The sequencer that a HALT at its boundary leaves (R155): an underrun episode ends with it (R267). -/
def Seq.halts (s : Seq) (pc h : Nat) : Seq := { s with act := .halted pc h s.at_, fresh := false, seam := false, ep := none }

theorem endEpisode_none {n : Nat} (h : (seqOf p c).ep = none) : endEpisode p c m n = p := by rw [endEpisode, h]

theorem endEpisode_some {n : Nat} {e : Episode} (h : (seqOf p c).ep = some e) : endEpisode p c m n =
    addOp (setSeq p c { seqOf p c with ep := none }) c m (.set (G.sqLastEvent e.q) (e.since + n * 2 ^ 64 + c.val * 2 ^ 128 + e.policy * 2 ^ 136)) := by
  rw [endEpisode, h]

theorem execStep_halt_none (h : Nat) (he : (seqOf p c).ep = none) : execStep p c m pc (.halt h) =
    setSeq (addPulse (countStep p c m) c m (seqOf p c).at_ (0x500 + c.val) 0) c ((seqOf p c).halts pc h) := by
  rw [execStep, seqOf_countStep, Seq.halts, ← he]
  rw [endEpisode_none (p := countStep p c m) he]
  rfl

theorem execStep_halt_some (h : Nat) {e : Episode} (he : (seqOf p c).ep = some e) : execStep p c m pc (.halt h) =
    setSeq (addPulse (addOp (setSeq (countStep p c m) c { seqOf p c with ep := none }) c m
      (.set (G.sqLastEvent e.q) (e.since + (seqOf p c).at_ * 2 ^ 64 + c.val * 2 ^ 128 + e.policy * 2 ^ 136))) c m (seqOf p c).at_ (0x500 + c.val) 0) c
      ((seqOf p c).halts pc h) := by
  rw [execStep, seqOf_countStep]
  dsimp only
  rw [endEpisode_some (p := countStep p c m) he, goTo, seqOf_addPulse, seqOf_addOp, seqOf_setSeq_same]
  rfl

/-- A step that begins act a, which is none of a sequencer that stands still, answers that next state. -/
theorem step_begins {s : State} {i : Step} {a : Act} (hw : awake s) (h : AtStep s.part c pc)
    (hq : execStep s.part c (planTick s.part) pc i = setSeq (countStep s.part c (planTick s.part)) c ((seqOf s.part c).begins a))
    (ha : ∀ pc w, a ≠ .stuck pc w) : ∃ q, liftSeq (runStep c i) s = .next { s with part := q } ∧
      StepAdds s.part q c [.add (G.seqSteps c) 1] [] [] ∧ seqOf q c = (seqOf s.part c).begins a :=
  stepAdds_exists hw h hq (countStep_adds ..) ha

end Sys2Proof.Machine
end

section
/-!
SUPPORT. O10: the release of a wait (R147 to R149, R171). Resolving the wait acts on the pulse and empties latches; then the samples up to its instant are
placed and the next step is about to be executed.
-/

namespace Sys2Proof.Machine

variable {p p1 q : Part} {c : Chan} {m t : Nat} {w : Wait}

theorem exec_waitevRelease (c : Chan) (s : State) : exec (.waitevRelease c) s = liftSeq (runWait isEventWait c) s := by unfold exec; rfl
theorem exec_waittickRelease (c : Chan) (s : State) :
    exec (.waittickRelease c) s = liftSeq (runWait (fun w => decide (w = .tick)) c) s := by unfold exec; rfl
theorem exec_steppedAdvance (c : Chan) (s : State) :
    exec (.steppedAdvance c) s = liftSeq (runWait (fun w => decide (w = .stepped)) c) s := by unfold exec; rfl

/-- A release command advances the wait at which its channel stands in the open stage. -/
theorem runWait_at {f : WaitFor → Bool} (h : StageOpen p) (hw : (seqOf p c).act = .wait w) (hf : f w.what = true)
    (hn : (seqOf p c).at_ < 250 * (planTick p + 1)) : runWait f c p = advWait p c (planTick p) w := by
  have hb : behind (seqOf p c) (planTick p) = true := by simpa [behind, hw] using hn
  rw [runWait, inStage_open h, hw]
  simp only [hf, hb, Bool.and_self, if_true]

/-- Between p and q a wait of channel c has been resolved: the stage of tick m has acted on these generations and planned these changes of values, and
nothing else but latches has changed. -/
structure Resolved (p q : Part) (c : Chan) (m : Nat) (acted : List Nat) (ops : List RegOp) : Prop where
  only   : OnlyActed p q
  plan   : planOf q c m = { planOf p c m with acted := (planOf p c m).acted ++ acted, ops := (planOf p c m).ops ++ ops }
  others : ∀ d, d ≠ c → ∀ k, planOf q d k = planOf p d k

theorem Resolved.refl (p : Part) (c : Chan) (m : Nat) : Resolved p p c m [] [] := ⟨rfl, by simp only [List.append_nil], fun _ _ _ => rfl⟩

/-- What a decide stage does that acts on a pulse of generation g (R97), and with CLR empties the latches that qualified (R148). -/
def actOnOne (p : Part) (c : Chan) (m g : Nat) (clr : Bool) (l : List (Nat × Pulse)) : Part :=
  if clr then dropLatches (addActed p c m g) (l.map fun e => chLatch c e.1) else addActed p c m g

theorem actOnOne_resolved (g : Nat) (clr : Bool) (l : List (Nat × Pulse)) : Resolved p (actOnOne p c m g clr l) c m [g] [] := by
  have h : actOnOne p c m g clr l = addActed p c m g ∨ actOnOne p c m g clr l = dropLatches (addActed p c m g) (l.map fun e => chLatch c e.1) := by
    cases clr
    · exact .inl rfl
    · exact .inr rfl
  obtain ⟨-, hplan, hothers, hq⟩ := acted_end _ h
  exact ⟨hq, by rw [hplan]; simp only [List.append_nil], fun d hd => (hothers d hd).2⟩

theorem latchAt_actOnOne (g : Nat) (clr : Bool) (l : List (Nat × Pulse)) (k : Nat) : latchAt (actOnOne p c m g clr l) k =
    if clr ∧ k ∈ l.map (fun e => chLatch c e.1) then none else latchAt p k := by
  cases clr with
  | false => exact (if_neg fun h => Bool.false_ne_true h.1).symm
  | true =>
    refine (latchAt_dropLatches _ (addActed p c m g) k).trans ?_
    simp only [true_and]
    rfl

theorem pendingJumps_actOnOne (g : Nat) (clr : Bool) (l : List (Nat × Pulse)) (h : pendingJumps p c = []) :
    pendingJumps (actOnOne p c m g clr l) c = [] := by
  cases clr with
  | false => exact h
  | true => exact pendingJumps_drop (p := addActed p c m g) h

theorem Resolved.addOp {g : Nat} (h : Resolved p q c m [g] []) (o : RegOp) : Resolved p (addOp q c m o) c m [g] [o] where
  only := h.only.trans rfl
  plan := by rw [planOf_addOp, h.plan]; simp only [List.append_nil]
  others d hd k := (planOf_putPlan_chan _ hd k).trans (h.others d hd k)

/-- A wait that is resolved to an instant in the planned tick, with no jump pending, ends there (R147). -/
theorem wait_ends {s : State} {f : WaitFor → Bool} {acted : List Nat} {ops : List RegOp} (hw : awake s) (ho : StageOpen s.part)
    (ha : (seqOf s.part c).act = .wait w) (hn : (seqOf s.part c).at_ < 250 * (planTick s.part + 1)) (hm : OthersMove s.part c)
    (hf : f w.what = true) (hr : resolveWait s.part c (planTick s.part) w = (p1, { w with rel := some t }))
    (h1 : Resolved s.part p1 c (planTick s.part) acted ops) (hj : pendingJumps p1 c = [])
    (ht : max (seqOf s.part c).at_ t < 250 * (planTick s.part + 1)) :
    ∃ q, liftSeq (runWait f c) s = .next { s with part := q } ∧ WaitEnded s.part q c w (max (seqOf s.part c).at_ t) acted ∧ q.fab = p1.fab ∧
      planOf q c (planTick s.part) = { planOf p1 c (planTick s.part) with spans := (planOf q c (planTick s.part)).spans } := by
  have hs : ∀ d, seqOf p1 d = seqOf s.part d := h1.only.seqOf
  have hdone := advWait_done hr rfl hj (by rwa [hs])
  rw [hs, show waitSrc p1 c w.out w.since = waitSrc s.part c w.out w.since by rw [h1.only]; rfl] at hdone
  obtain ⟨eseq, eplan, eothers, eq⟩ := place_end (p := p1) (c := c) (m := planTick s.part) (n := (seqOf s.part c).at_)
    (t := max (seqOf s.part c).at_ t) (src := waitSrc s.part c w.out w.since) (a := .run w.next)
  rw [hs, show ∀ n, sampleAt p1 (waitSrc s.part c w.out w.since) n (interpOf p1 c) = sampleAt s.part (waitSrc s.part c w.out w.since) n (interpOf s.part c)
    by intro n; rw [h1.only]; rfl] at eseq
  generalize goTo _ _ _ _ _ _ = q at *
  have hstuck : ∀ d pc v, (seqOf q d).act ≠ .stuck pc v := by
    intro d pc v
    by_cases hd : d = c
    · subst hd
      rw [eseq]
      intro h; cases h
    · rw [(eothers d hd).1, hs]
      exact hm d hd pc v
  have hrun : runWait f c s.part = q := (runWait_at ho ha hf hn).trans hdone
  refine ⟨q, ?_, ⟨eseq, by rw [eplan, h1.plan], by rw [eplan, h1.plan], by rw [eplan, h1.plan], by rw [eplan, h1.plan], by rw [eplan, h1.plan],
    fun d hd => ⟨by rw [(eothers d hd).1, hs], fun k => by rw [(eothers d hd).2, h1.others d hd]⟩, by rw [eq, h1.only], by rw [eq, h1.only],
    by rw [eq, h1.only]⟩, by rw [eq], by rw [eplan]⟩
  rw [liftSeq_next hw (by rwa [hrun]), hrun]

theorem latchAt_of_fab (h : q.fab = p.fab) (k : Nat) : latchAt q k = latchAt p k := by rw [latchAt, h]; rfl

/-- A wait whose instant is known is resolved as it is. -/
theorem resolveWait_known (h : w.rel = some t) : resolveWait p c m w = (p, { w with rel := some t }) := by
  have hw : w = { w with rel := some t } := by rw [← h]
  unfold resolveWait
  rw [h]
  exact congrArg _ hw

/-- A WAITEV with a latch that qualifies is resolved by the earliest pulse (R148). -/
theorem resolveWait_event {evm delay : Nat} {clr anchor : Bool} {u : Pulse} (hr : w.rel = none) (hw : w.what = .event evm clr anchor delay)
    (hu : earliest (readyLatches p c evm m) = some u) (ht : max w.since (actionInstant u delay anchor) < 250 * (m + 1)) :
    resolveWait p c m w =
      (actOnOne p c m u.gen clr (readyLatches p c evm m), { w with rel := some (max w.since (actionInstant u delay anchor)) }) := by
  unfold resolveWait
  rw [hr, hw]
  dsimp only
  rw [hu]
  dsimp only
  rw [actOn_here ht]
  rfl

/-- A stepped wait with an advance latch that qualifies is resolved by the earliest pulse and counts it (R171). -/
theorem resolveWait_stepped {u : Pulse} (hr : w.rel = none) (hw : w.what = .stepped) (he : planned p (G.stepEarly c) ≠ 1)
    (hu : earliest (readyLatches p c (planned p (G.stepAdvMask c)) m) = some u)
    (ht : max w.since (actionInstant u (planned p (G.stepDelay c)) (planned p (G.stepAnchor c) = 1)) < 250 * (m + 1)) :
    resolveWait p c m w =
      (Machine.addOp (actOnOne p c m u.gen true (readyLatches p c (planned p (G.stepAdvMask c)) m)) c m (.add (G.stepCount c) 1),
        { w with rel := some (max w.since (actionInstant u (planned p (G.stepDelay c)) (planned p (G.stepAnchor c) = 1))) }) := by
  unfold resolveWait
  rw [hr, hw]
  dsimp only
  rw [if_neg he, List.foldl_nil, hu]
  dsimp only
  rw [actOn_here ht]
  rfl

/-- Settles O10: each step that holds a channel is one addition to the plan and the act it begins; each release is a resolved wait that ends. -/
theorem waitsHoldAndRelease : Obligations.WaitsHoldAndRelease := by
  unfold Obligations.WaitsHoldAndRelease
  refine ⟨fun s c pc out hw h => ⟨fun evm clr anchor delay => ?_, fun rel off tick => ?_, fun tag => ?_, ?_⟩,
    fun s c w hw ho ha hn hj hm => ⟨fun t hwt hr ht => ?_, fun evm clr anchor delay u hwt hr hu ht => ?_, fun u hwt hr he hu => ?_⟩⟩
  · rw [exec_waitev]
    exact step_begins hw h (execStep_waitev ..) fun _ _ hs => by cases hs
  · rw [exec_waittick]
    by_cases hl : tickInstant (seqOf s.part c) rel off tick ≤ (seqOf s.part c).at_
    · obtain ⟨q, hq, hadds, hseq⟩ := stepAdds_exists hw h (execStep_waittick_late (out := out) hl) (((countStep_adds ..).addOp _).addOp _)
        fun _ _ hs => by cases hs
      refine ⟨q, hq, ?_⟩
      exact (if_pos hl).mpr ⟨hadds, hseq⟩
    · obtain ⟨q, hq, hadds, hseq⟩ := step_begins hw h (execStep_waittick_waits (out := out) hl) fun _ _ hs => by cases hs
      refine ⟨q, hq, ?_⟩
      exact (if_neg hl).mpr ⟨hadds, hseq⟩
  · rw [exec_sync]
    refine step_begins hw h (execStep_sync out tag) fun _ _ hs => ?_
    split at hs <;> cases hs
  · rw [exec_halt]
    cases he : (seqOf s.part c).ep with
    | none => exact stepAdds_exists hw h (execStep_halt_none out he) ((countStep_adds ..).addPulse _ _ _) fun _ _ hs => by cases hs
    | some e =>
      exact stepAdds_exists hw h (execStep_halt_some out he) ((((countStep_adds ..).setSeq _).addOp _).addPulse _ _ _) fun _ _ hs => by cases hs
  · rw [exec_waittickRelease]
    have hf : decide (w.what = .tick) = true := decide_eq_true hwt
    obtain ⟨q, hq, hend, hfab, hplan⟩ := wait_ends (f := fun v => decide (v = .tick)) hw ho ha hn hm hf (resolveWait_known hr) (.refl ..) hj ht
    exact ⟨q, hq, hend, hfab, hplan⟩
  · rw [exec_waitevRelease]
    have hf : isEventWait w.what = true := by rw [hwt]; rfl
    have hp := actOnOne_resolved (p := s.part) (c := c) (m := planTick s.part) u.gen clr (readyLatches s.part c evm (planTick s.part))
    obtain ⟨q, hq, hend, hfab, hplan⟩ := wait_ends hw ho ha hn hm hf (resolveWait_event hr hwt hu (by omega)) hp (pendingJumps_actOnOne _ _ _ hj) ht
    refine ⟨q, hq, hend, fun k => ?_, ?_⟩
    · rw [latchAt_of_fab hfab, latchAt_actOnOne]
    · rw [hplan, hp.plan, List.append_nil]
  · dsimp only
    intro ht
    rw [exec_steppedAdvance]
    have hf : decide (w.what = .stepped) = true := decide_eq_true hwt
    have hp := (actOnOne_resolved (p := s.part) (c := c) (m := planTick s.part) u.gen true
      (readyLatches s.part c (planned s.part (G.stepAdvMask c)) (planTick s.part))).addOp (.add (G.stepCount c) 1)
    obtain ⟨q, hq, hend, hfab, hplan⟩ := wait_ends (f := fun v => decide (v = .stepped)) hw ho ha hn hm hf
      (resolveWait_stepped hr hwt he hu (by omega)) hp (pendingJumps_actOnOne _ _ _ hj) ht
    refine ⟨q, hq, hend, fun k => ?_, ?_⟩
    · rw [latchAt_of_fab hfab]
      exact (latchAt_actOnOne ..).trans (by simp only [true_and])
    · rw [hplan, hp.plan]

end Sys2Proof.Machine
end

section
/-!
SUPPORT. O7: a play begins at its boundary (R142, R143): what is outside the queues' counts is said by its plan and its sequencer.
-/

namespace Sys2Proof.Machine

theorem exec_play (c : Chan) (seg count : Nat) (s : State) : exec (.play c seg count) s = liftSeq (runStep c (.play seg count)) s := by unfold exec; rfl
theorem exec_playt (c : Chan) (seg evm : Nat) (clr ex : Bool) (s : State) :
    exec (.playt c seg evm clr ex) s = liftSeq (runStep c (.playt seg evm clr ex)) s := by unfold exec; rfl

variable {p q : Part} {c : Chan} {pc d evm : Nat} {left : Option Nat} {clr ex : Bool}

/-- The sequencer whose armed lead, if any, has found its step at its boundary (R154). -/
def Seq.leadFound (s : Seq) : Seq :=
  { s with armed := none
           cands := match s.armed with
             | some (lp, l) => s.cands ++ [(lp, l, s.at_)]
             | none => s.cands }

/-- The part in which the playing step of channel c has been counted and its lead found, before its first repetition. -/
def playCounted (p : Part) (c : Chan) : Part := setSeq (countStep p c (planTick p)) c (seqOf p c).leadFound

/-- The play of descriptor d that begins at the boundary of channel c, from ring position pos (R142, R143). -/
def newPlay (p : Part) (c : Chan) (pc d pos : Nat) (left : Option Nat) (evm : Nat) (clr ex : Bool) : Play :=
  ⟨pc, d, (seqOf p c).at_, pos, left, false, evm, clr, ex, (seqOf p c).at_ + (descOf p d).length * interpOf p c, none⟩

/-- The part in which the first repetition has begun. -/
def playStarted (p : Part) (c : Chan) (pc d : Nat) (left : Option Nat) (evm : Nat) (clr ex : Bool) : Part :=
  let r := reserve (playCounted p c) c d
  addOp (goTo r.1 c (seqOf p c).at_ (.play (newPlay p c pc d r.2 left evm clr ex)) false false) c (planTick p) (.set (G.strmRepsDone c) 0)

theorem execStep_play (count : Nat) : execStep p c (planTick p) pc (.play d count) = playStarted p c pc d (some count) 0 false false := rfl

theorem execStep_playt : execStep p c (planTick p) pc (.playt d evm clr ex) = playStarted p c pc d none evm clr ex := rfl

theorem playCounted_adds (p : Part) (c : Chan) : StepAdds p (playCounted p c) c [.add (G.seqSteps c) 1] [] [] := (countStep_adds p c).setSeq _

/-- A frame on the queues keeps sequencers and plans. -/
theorem QFrame.seqOf (h : QFrame p q) (e : Chan) : Machine.seqOf q e = Machine.seqOf p e := by rw [h.1]; rfl
theorem QFrame.planOf (h : QFrame p q) (e : Chan) (k : Nat) : Machine.planOf q e k = Machine.planOf p e k := by rw [h.1]; rfl

theorem playStarted_begun (p : Part) (c : Chan) (pc d : Nat) (left : Option Nat) (evm : Nat) (clr ex : Bool) :
    PlayBegun p (playStarted p c pc d left evm clr ex) c pc d left evm clr ex := by
  obtain ⟨⟨honly, hothers⟩, -, hplan⟩ := playCounted_adds p c
  obtain ⟨hq, hpos, hres, hopen⟩ := reserve_spec (playCounted p c) c d
  have hseq : seqOf (reserve (playCounted p c) c d).1 c = (seqOf p c).leadFound := by rw [hq.seqOf, playCounted, seqOf_setSeq_same]
  refine ⟨?_, ?_, fun h2 => ?_, fun e he hc => hopen e he hc, ?_, fun k hk => hq.2 k ?_, fun e he => ⟨?_, fun k => ?_⟩⟩
  · unfold playStarted
    rw [seqOf_addOp, goTo, seqOf_setSeq_same, hseq, hpos]
    rfl
  · unfold playStarted
    rw [planOf_addOp, goTo, planOf_setSeq, hq.planOf, hplan]
    simp only [List.append_assoc, List.singleton_append, List.foldl_nil, List.append_nil]
  · rw [if_pos h2]
    exact hres h2
  · have h0 : playStarted p c pc d left evm clr ex = { (reserve (playCounted p c) c d).1 with
        seqs := (playStarted p c pc d left evm clr ex).seqs, plans := (playStarted p c pc d left evm clr ex).plans } := rfl
    conv_lhs => rw [h0, hq.1]
    rfl
  · rintro ⟨i, hi⟩
    obtain ⟨hreserved, hplaypos, hahead, hskipped⟩ := hk i
    exact hi.elim hreserved (·.elim hplaypos (·.elim hahead hskipped))
  · unfold playStarted
    rw [seqOf_addOp, goTo, seqOf_setSeq_ne _ he, hq.seqOf, (hothers e he).1]
  · unfold playStarted
    rw [addOp, planOf_putPlan_chan _ he, goTo, planOf_setSeq, hq.planOf, (hothers e he).2]

/-- A step that begins a play answers that next state. -/
theorem step_plays {s : State} {i : Step} (hw : awake s) (h : AtStep s.part c pc)
    (hi : execStep s.part c (planTick s.part) pc i = playStarted s.part c pc d left evm clr ex) :
    ∃ q, liftSeq (runStep c i) s = .next { s with part := q } ∧ PlayBegun s.part q c pc d left evm clr ex := by
  have hbegun := playStarted_begun s.part c pc d left evm clr ex
  refine ⟨_, stepNext hw h hi (fun e he => ?_) (fun _ _ hs => ?_), hbegun⟩
  · obtain ⟨-, -, -, -, -, -, hothers⟩ := hbegun
    exact (hothers e he).1
  · rw [hbegun.1] at hs
    cases hs

end Sys2Proof.Machine
end

section
/-!
SUPPORT. O7: the end of a PLAYT at its seam (R143, R165): the seam lies where the channel stands, so that the advance places nothing.
-/

namespace Sys2Proof.Machine

theorem exec_playtExit (c : Chan) (s : State) : exec (.playtExit c) s = liftSeq (runPlayt c) s := by unfold exec; rfl

variable {p p1 : Part} {c : Chan} {m n : Nat} {x y : Play}

theorem runPlayt_at (h : StageOpen p) (hx : (seqOf p c).act = .play x) (hl : x.left = none) (hn : (seqOf p c).at_ < 250 * (planTick p + 1)) :
    runPlayt c p = advPlay p c (planTick p) x := by
  have hb : behind (seqOf p c) (planTick p) = true := by simpa [behind, hx] using hn
  rw [runPlayt, inStage_open h, hx]
  simp only [hl, hb, and_self, if_true]

/-- An unresolved PLAYT with a latch that qualifies is resolved by the earliest pulse (R143). -/
theorem resolveExit_some {u : Pulse} (hl : x.left = none) (he : x.exitAt = none) (hu : earliest (readyLatches p c x.evm m) = some u) :
    resolveExit p c m x = (actOnOne p c m u.gen x.clr (readyLatches p c x.evm m), { x with exitAt := some (250 * (u.tick + 3)) }) := by
  unfold resolveExit
  rw [if_pos ⟨hl, he⟩]
  dsimp only
  rw [hu]
  rfl

theorem firstJump_nil : firstJump [] = none := rfl

theorem placePlay_nothing (d start pos a : Nat) : placePlay p c m d start pos 252 a a = (p, false) := if_pos le_rfl

/-- A play that stands at the end of its repetition, outside an episode, does there what its seam says. -/
theorem advPlay_atSeam (hr : resolveExit p c m x = (p1, y)) (hy : y.exitTick = false) (he : (seqOf p1 c).ep = none)
    (hn : (seqOf p1 c).at_ = y.start + (descOf p1 y.d).length * max 1 (interpOf p1 c)) (hm : (seqOf p1 c).at_ < 250 * (m + 1)) :
    advPlay p c m x = seamOf p1 c m (seqOf p1 c).at_ y := by
  have hno : ∀ k, decide (max (seqOf p1 c).at_ k < (seqOf p1 c).at_) = false := fun k => decide_eq_false (not_lt.mpr (le_max_left ..))
  unfold advPlay
  simp only [hr, hy, he, ← hn, Bool.false_and, Bool.false_eq_true, if_false, Nat.min_eq_left hm.le, hno, Bool.and_false, List.filter_false,
    List.map_nil, firstJump_nil, lt_irrefl, and_false, placePlay_nothing, Bool.or_false, Option.map_none, Option.getD_none, false_and, hm,
    Bool.not_false, and_self, if_true]
  rw [← hy]

/-- The seam at which a PLAYT has reached its exit (R143), with no reservation open. -/
theorem seamOf_exit {t : Nat} (hs : y.short = false) (hl : y.left = none) (ht : y.exitAt = some t) (htn : t ≤ n) (he : (seqOf p c).ep = none)
    (ho : p.strm.open_.filter (fun e => e.2.1 = c.val) = []) :
    seamOf p c m n y = goTo (addOp p c m (.rep (G.strmRepsDone c) (G.strmShort c) y.start y.firstEnd)) c n (.run (y.pc + 1)) true true := by
  unfold seamOf
  simp only [hs, hl, ht, Bool.false_eq_true, if_false, Option.map_some, Option.getD_some, decide_eq_true htn, if_true]
  rw [endEpisode_none (p := addOp p c m _) he, endReservation_none (p := addOp p c m _) ho]

/-- The part in which the PLAYT x of channel c has ended at its seam, by a pulse of generation g in one of the latches l (R143). -/
def playtEnded (p : Part) (c : Chan) (x : Play) (g : Nat) (l : List (Nat × Pulse)) : Part :=
  goTo (addOp (actOnOne p c (planTick p) g x.clr l) c (planTick p) (.rep (G.strmRepsDone c) (G.strmShort c) x.start x.firstEnd)) c (seqOf p c).at_
    (.run (x.pc + 1)) true true

/-- A PLAYT at its seam, with a latch that qualifies and its exit bound reached, ends there. -/
theorem runPlayt_ends {u : Pulse} (h : StageOpen p) (hx : (seqOf p c).act = .play x) (hl : x.left = none) (he : x.exitAt = none)
    (ht : x.exitTick = false) (hs : x.short = false) (hep : (seqOf p c).ep = none)
    (hstop : (seqOf p c).at_ = x.start + (descOf p x.d).length * max 1 (interpOf p c)) (hn : (seqOf p c).at_ < 250 * (planTick p + 1))
    (hu : earliest (readyLatches p c x.evm (planTick p)) = some u) (hex : 250 * (u.tick + 3) ≤ (seqOf p c).at_)
    (ho : p.strm.open_.filter (fun e => e.2.1 = c.val) = []) :
    runPlayt c p = playtEnded p c x u.gen (readyLatches p c x.evm (planTick p)) := by
  have hp : OnlyActed p (actOnOne p c (planTick p) u.gen x.clr (readyLatches p c x.evm (planTick p))) := (actOnOne_resolved ..).only
  have hseam := advPlay_atSeam (resolveExit_some hl he hu) ht (by rwa [hp.seqOf]) (by rw [hp.seqOf, hp]; exact hstop) (by rwa [hp.seqOf])
  have hexit := seamOf_exit (p := actOnOne p c (planTick p) u.gen x.clr (readyLatches p c x.evm (planTick p))) (c := c) (m := planTick p)
    (n := (seqOf p c).at_) (y := { x with exitAt := some (250 * (u.tick + 3)) }) hs hl rfl hex (by rwa [hp.seqOf]) (by rw [hp]; exact ho)
  rw [hp.seqOf] at hseam
  rw [runPlayt_at h hx hl hn, hseam, hexit]
  rfl

/-- Settles O7: a play begins in the part that playStarted_begun describes, and a PLAYT that has reached its exit ends at its seam. -/
theorem playsBeginAndEndAtTheirSeam : Obligations.PlaysBeginAndEndAtTheirSeam := by
  unfold Obligations.PlaysBeginAndEndAtTheirSeam
  refine ⟨fun s c pc seg hw h => ⟨fun count => ?_, fun evm clr ex => ?_⟩, fun s c x u hw h hx hm hl he ht hs hep hstop hn hu hex ho => ?_⟩
  · rw [exec_play]
    exact step_plays hw h (execStep_play count)
  · rw [exec_playt]
    exact step_plays hw h execStep_playt
  · rw [exec_playtExit]
    have hrun := runPlayt_ends h hx hl he ht hs hep hstop hn hu hex ho
    generalize hlat : readyLatches s.part c x.evm (planTick s.part) = l at hrun ⊢
    have hp := actOnOne_resolved (p := s.part) (c := c) (m := planTick s.part) u.gen x.clr l
    obtain ⟨hgz, hmem, hsent⟩ := hp.only.kept
    have hothers : ∀ d, d ≠ c → seqOf (playtEnded s.part c x u.gen l) d = seqOf s.part d := fun d hd => by
      rw [playtEnded, goTo, seqOf_setSeq_ne _ hd, seqOf_addOp, hp.only.seqOf]
    have hseq : seqOf (playtEnded s.part c x u.gen l) c = { seqOf s.part c with act := .run (x.pc + 1), fresh := true, seam := true } := by
      rw [playtEnded, goTo, seqOf_setSeq_same, seqOf_addOp, hp.only.seqOf]
    have hplan : planOf (playtEnded s.part c x u.gen l) c (planTick s.part) =
        planOf (addOp (actOnOne s.part c (planTick s.part) u.gen x.clr l) c (planTick s.part) (.rep (G.strmRepsDone c) (G.strmShort c) x.start x.firstEnd)) c
          (planTick s.part) := rfl
    rw [planOf_addOp, hp.plan] at hplan
    refine ⟨playtEnded s.part c x u.gen l, ?_, hseq, by rw [hplan], by rw [hplan, List.append_nil], fun k => ?_, hothers, ?_, ?_, ?_⟩
    · rw [liftSeq_next hw, hrun]
      rw [hrun]
      intro d pc w
      by_cases hd : d = c
      · subst hd
        rw [hseq]
        intro hrunning; cases hrunning
      · rw [hothers d hd]
        exact hm d hd pc w
    · exact (latchAt_of_fab rfl k).trans (latchAt_actOnOne u.gen x.clr l k)
    · exact hgz
    · exact hmem
    · exact hsent

end Sys2Proof.Machine
end

section
/-!
SUPPORT. O18: the writes of a Traverse step (R135, R138) and of EV_CLEAR (R141).
-/

namespace Sys2Proof.Machine

theorem exec_traverseStepWrite (path : Path) (n v : Nat) (s : State) :
    exec (.traverseStepWrite path n v) s = lift (fun p => commandWrite p path (0x8000 + n / 16) (2 * (n % 16)) v) s := by unfold exec; rfl
theorem exec_evClear (path : Path) (c : Chan) (mask : Nat) (s : State) :
    exec (.evClear path c mask) s = lift (fun p => commandWrite p path (0x2300 + c.val) 0x29 mask) s := by unfold exec; rfl

variable {p : Part} {path : Path} {n v : Nat}

/-- A Traverse step stands at the first of its two subindices (R135). -/
theorem lookup_step (h : n < 262144) :
    lookup (0x8000 + n / 16) (2 * (n % 16)) = .entry (stepEntry (2 * (n % 16))) (2 * (n % 16)) := by
  unfold lookup
  rw [if_pos (by omega), if_neg (by omega), if_pos (by omega)]

/-- The part with record v at step n. -/
def withStep (p : Part) (n v : Nat) : Part := { p with mem := { p.mem with trav := kset (fun _ => 0) p.mem.trav n v } }

/-- A record that is a step, for a step that neither a program nor a waiting verdict uses, is stored (R138). -/
theorem writeStep_free (hu : stepInUse p n = false) (hl : lockedStep p n = false) (ho : stepRecordOk v = true) :
    writeStep p n v = (withStep p n v, 0) := by
  unfold writeStep withStep
  rw [hu, hl, if_neg (by decide), ho, if_neg (by decide)]

/-- A taken write of a Traverse step that is accepted stores its record (R135). -/
theorem write_step (hn : n < 262144) (ht : Takes p path (gkey (0x8000 + n / 16) (2 * (n % 16))) v)
    (hu : stepInUse (cleared p path (gkey (0x8000 + n / 16) (2 * (n % 16)))) n = false)
    (hl : lockedStep (cleared p path (gkey (0x8000 + n / 16) (2 * (n % 16)))) n = false) (ho : stepRecordOk v = true) :
    commandWrite p path (0x8000 + n / 16) (2 * (n % 16)) v
      = tell (withStep (cleared p path (gkey (0x8000 + n / 16) (2 * (n % 16)))) n v) path 0 := by
  refine commandWrite_takes (by omega) (lookup_step hn) rfl nofun ?_ ht ((effect_step hn).trans (writeStep_free hu hl ho)) (jobs_of_adm rfl)
  unfold gkey G.bpCommit gkey
  omega

/-- EV_CLEAR (Table 06-1). -/
def entryEvClear : Entry := ⟨41, 41, 1, .bits32, .wo, .live, 0, .none, false, false, .keep 0xFF, .cmd⟩

theorem lookup_evClear (c : Chan) : lookup (0x2300 + c.val) 0x29 = .entry entryEvClear 0x29 :=
  lookup_of (by omega) (entriesAt_2300 (by omega) (by omega)) rfl

/-- A bit below m of the value a write leaves where bits from m on stay as they are (R73). -/
theorem bit_kept {m i : Nat} (old v : Nat) (h : i < m) :
    bit ((v &&& (2 ^ m - 1)) ||| (old ^^^ (old &&& (2 ^ m - 1)))) i = bit v i := by
  unfold bit
  simp only [Nat.testBit_or, Nat.testBit_and, Nat.testBit_xor, Nat.testBit_two_pow_sub_one, h]
  simp

/-- The latches that EV_CLEAR selects are those of the word written, whatever its undefined bits were (R73). -/
theorem clearEvents_keptBits (p : Part) (c old v : Nat) : clearEvents p c (keptBits entryEvClear old v) = clearEvents p c v := by
  have h : (List.range 8).filter (bit (keptBits entryEvClear old v)) = (List.range 8).filter (bit v) :=
    List.filter_congr fun i hi => bit_kept old v (List.mem_range.mp hi)
  unfold clearEvents
  rw [h]

/-- A taken EV_CLEAR empties the latches its mask selects (R141). -/
theorem write_evClear (c : Chan) (ht : Takes p path (gkey (0x2300 + c.val) 0x29) v) :
    commandWrite p path (0x2300 + c.val) 0x29 v
      = tell (clearEvents (cleared p path (gkey (0x2300 + c.val) 0x29)) c.val v) path 0 := by
  refine commandWrite_takes (by decide) (lookup_evClear c) rfl nofun ?_ ht
    ((effect_evClear c).trans (congrArg (·, 0) (clearEvents_keptBits ..)))
    (jobs_of_adm (path := path) (k := gkey (0x2300 + c.val) 0x29) ?_)
  · unfold gkey G.bpCommit gkey
    omega
  · rw [clearEvents, dropLatches_eq]

/-- Settles O18: a taken step write stores its record alone, a taken EV_CLEAR empties the latches its mask selects alone. -/
theorem stepsAndLatchesAreWritten : Obligations.StepsAndLatchesAreWritten := by
  unfold Obligations.StepsAndLatchesAreWritten
  intro s path hw
  refine ⟨fun n v hn ht hu hl ho => ?_, fun c mask ht => ?_⟩
  · exact ⟨_, exec_next (exec_traverseStepWrite path n v s) hw (write_step hn ht hu hl ho), fun k => kget_kset _ _ _ _ _, rfl⟩
  · exact ⟨_, exec_next (exec_evClear path c mask s) hw (write_evClear c ht), fun k => latchAt_dropLatches _ _ _, dropLatches_eq _ _⟩

end Sys2Proof.Machine

end

section
/-!
SUPPORT. What the operations on load groups, plan commits, outputs and markers leave. Moves K l p q: from p to q values at keys of K have moved
and the producers of l have asserted; the clock, memory, sequencers, plans, admission and groups, every other value and the rest of the event
fabric are as they were.
-/

namespace Sys2Proof.Machine

variable {p q r : Part} {K L : Nat → Prop} {l m : List Producer}

/-- The clock, memory, sequencers, plans, admission and load groups. -/
def restOf (p : Part) : TimeSt × MemSt × Vector Seq 256 × Vector (List TickPlan) 256 × AdmSt × Vector GroupSt 16 :=
  (p.time, p.mem, p.seqs, p.plans, p.adm, p.grps)

section
variable (h : restOf q = restOf p)
include h
theorem time_of_restOf : q.time = p.time := congrArg (·.1) h
theorem mem_of_restOf : q.mem = p.mem := congrArg (·.2.1) h
theorem seqs_of_restOf : q.seqs = p.seqs := congrArg (·.2.2.1) h
theorem plans_of_restOf : q.plans = p.plans := congrArg (·.2.2.2.1) h
theorem adm_of_restOf : q.adm = p.adm := congrArg (·.2.2.2.2.1) h
theorem grps_of_restOf : q.grps = p.grps := congrArg (·.2.2.2.2.2) h
theorem grpOf_of_restOf (g : Grp) : grpOf q g = grpOf p g := by rw [grpOf, grps_of_restOf h, grpOf]
end

/-- From p to q values at keys of K alone have moved, and the producers of l have asserted. -/
structure Moves (K : Nat → Prop) (l : List Producer) (p q : Part) : Prop where
  rest : restOf q = restOf p
  fab  : q.fab = { p.fab with producers := p.fab.producers ++ l }
  regs : ∀ k, ¬ K k → reg q k = reg p k

theorem Moves.refl (K : Nat → Prop) (p : Part) : Moves K [] p p := ⟨rfl, by simp, fun _ _ => rfl⟩

theorem Moves.trans (h : Moves K l p q) (h' : Moves K m q r) : Moves K (l ++ m) p r :=
  ⟨h'.rest.trans h.rest, by rw [h'.fab, h.fab, List.append_assoc], fun k hk => (h'.regs k hk).trans (h.regs k hk)⟩

/-- What follows raises nothing. -/
theorem Moves.quiet (h : Moves K l p q) (h' : Moves K [] q r) : Moves K l p r := by simpa using h.trans h'

theorem Moves.mono (h : Moves K l p q) (hk : ∀ k, K k → L k) : Moves L l p q := ⟨h.rest, h.fab, fun k hL => h.regs k fun hK => hL (hk k hK)⟩

/-- A change of none of what is spoken of. -/
theorem Moves.upd (h : Moves K l p q) (hr : restOf r = restOf q) (hf : r.fab = q.fab) (hg : r.gz.regs = q.gz.regs) : Moves K l p r :=
  h.quiet ⟨hr, by rw [hf]; simp, fun k _ => by rw [reg, hg, reg]⟩

theorem Moves.setReg (h : Moves K l p q) {k : Nat} (hk : K k) (v : Nat) : Moves K l p (setReg q k v) :=
  h.quiet ⟨rfl, by simp, fun _ hj => reg_setReg_ne q (by rintro rfl; exact hj hk) v⟩
theorem Moves.addReg (h : Moves K l p q) {k : Nat} (hk : K k) (v : Nat) : Moves K l p (addReg q k v) := h.setReg hk _
theorem Moves.setOut (h : Moves K l p q) (c : Chan) (x : OutSt) : Moves K l p (setOut q c x) := h.upd rfl rfl rfl
theorem Moves.setDp (h : Moves K l p q) (c : Chan) (x : Dp) : Moves K l p (setDp q c x) := h.upd rfl rfl rfl
theorem Moves.say (h : Moves K l p q) (o : Out) : Moves K l p (say q o) := h.upd rfl rfl rfl
theorem Moves.emptyWindow (h : Moves K l p q) (c : Chan) : Moves K l p (emptyWindow q c) := h.upd rfl rfl rfl

theorem Moves.withAdm (h : Moves K l p q) (a : AdmSt) : Moves K l { p with adm := a } { q with adm := a } :=
  ⟨by simp [restOf, time_of_restOf h.rest, mem_of_restOf h.rest, seqs_of_restOf h.rest, plans_of_restOf h.rest, grps_of_restOf h.rest],
    h.fab, h.regs⟩

theorem raiseAt_moves (K : Nat → Prop) (p : Part) (t o s g : Nat) : Moves K [⟨25 * t + o / 10, ⟨t, o, s, g⟩⟩] p (raiseAt p t o s g) :=
  ⟨rfl, rfl, fun _ _ => rfl⟩

theorem Moves.fold {α : Type} {f : Part → α → Part} (hf : ∀ q x, Moves K [] q (f q x)) (l : List α) (p : Part) : Moves K [] p (l.foldl f p) :=
  List.foldlRecOn l f (motive := Moves K [] p) (.refl K p) fun q hq x _ => hq.quiet (hf q x)

theorem Moves.foldSome {α : Type} {f : Part → α → Part} (hf : ∀ q x, ∃ l, Moves K l q (f q x)) (l : List α) (p : Part) :
    ∃ m, Moves K m p (l.foldl f p) :=
  List.foldlRecOn l f (motive := fun q => ∃ m, Moves K m p q) ⟨_, .refl K p⟩ fun q ⟨_, hq⟩ x _ => (hf q x).imp' _ fun _ hx => hq.trans hx

/-! ## Outputs and markers -/

/-- The entries that tell a channel's span, output state, marker levels and counts of edges. -/
def outKey (k : Nat) : Prop := (k / 65536 = 0x20 ∧ (k % 256 = 1 ∨ k % 256 = 3)) ∨ (k / 65536 = 0x24 ∧ 5 ≤ k % 256 ∧ k % 256 ≤ 8)

theorem outKey_outSpan (c : Chan) : outKey (G.outSpan c) := by unfold outKey G.outSpan gkey; omega
theorem outKey_outState (c : Chan) : outKey (G.outState c) := by unfold outKey G.outState gkey; omega
theorem outKey_mrkLevel (c : Chan) : outKey (G.mrkLevel c) := by unfold outKey G.mrkLevel gkey; omega
theorem outKey_mrkEdgesA (c : Chan) : outKey (G.mrkEdgesA c) := by unfold outKey G.mrkEdgesA gkey; omega
theorem outKey_mrkEdgesB (c : Chan) : outKey (G.mrkEdgesB c) := by unfold outKey G.mrkEdgesB gkey; omega
theorem outKey_mrkCut (c : Chan) : outKey (G.mrkCut c) := by unfold outKey G.mrkCut gkey; omega

theorem takeSpan_moves (p : Part) (c : Chan) (k : Nat) : Moves outKey [] p (takeSpan p c k) := by
  unfold takeSpan
  extract_lets o p1 pend
  split
  · have h : Moves outKey [] p p1 := (Moves.refl _ p).setReg (outKey_outSpan c) _
    exact (h.upd (r := { p1 with gz := { p1.gz with pend := pend } }) rfl rfl rfl).emptyWindow c
  · exact .refl _ p

theorem putOutState_moves (p : Part) (c : Chan) : Moves outKey [] p (putOutState p c) := (Moves.refl _ p).setReg (outKey_outState c) _

theorem spanDone_moves (p : Part) (c : Chan) : Moves outKey [] p (spanDone p c) := by
  unfold spanDone
  dsimp only
  split
  · split
    · split
      · exact ((Moves.refl _ p).setOut _ _).quiet (putOutState_moves ..)
      · exact ((Moves.refl _ p).setOut _ _).quiet (takeSpan_moves ..)
    · exact .refl _ p
  · exact .refl _ p

theorem beginMember_moves (p : Part) (c : Chan) : Moves outKey [] p (beginMember p c) := (spanDone_moves p c).setOut _ _

theorem outTick_moves (p : Part) (c : Chan) (k : Nat) : Moves outKey [] p (outTick p c k) := by
  unfold outTick
  extract_lets p1 o dac wanted o' closed p2 p3
  have h2 : Moves outKey [] p p2 := (takeSpan_moves p c k).setOut _ _
  have h3 : Moves outKey [] p p3 := by
    unfold p3
    split
    · exact h2
    · exact h2.emptyWindow c
  exact h3.quiet (putOutState_moves ..)

theorem outGroup_moves (p : Part) (g k : Nat) : Moves outKey [] p (outGroup p g k) := .fold (fun q c => outTick_moves q (chan c) k) _ p

theorem showLine_moves (p : Part) (c : Chan) (line n : Nat) (b : Bool) : Moves outKey [] p (showLine p c line n b) := by
  unfold showLine
  dsimp only
  split_ifs
  · exact .refl _ p
  · exact ((Moves.refl _ p).setOut c _).say _
  · exact (Moves.refl _ p).setOut _ _

/-- An edge may raise its marker's producer. -/
theorem applyEdge_moves (p : Part) (c : Chan) (n : Nat) (e : EdgeAt) : ∃ l, Moves outKey l p (applyEdge p c n e) := by
  unfold applyEdge
  extract_lets d was now p1 p2 force p3
  have h2 : Moves outKey [] p p2 := by
    refine ((Moves.refl _ p).setDp _ _).addReg ?_ _
    split
    · exact outKey_mrkEdgesA c
    · exact outKey_mrkEdgesB c
  have h3 : Moves outKey [] p p3 := h2.quiet (showLine_moves ..)
  split
  · exact ⟨_, h3.trans (raiseAt_moves ..)⟩
  · exact ⟨_, h3⟩

theorem cutEdges_moves (p : Part) (c : Chan) (n : Nat) : Moves outKey [] p (cutEdges p c n) := by
  unfold cutEdges
  dsimp only
  split
  · exact (Moves.refl _ p).setDp _ _
  · exact ((Moves.refl _ p).setDp _ _).addReg (outKey_mrkCut c) _

theorem markTick_moves (p : Part) (c : Chan) (k : Nat) : ∃ l, Moves outKey l p (markTick p c k) := by
  unfold markTick
  extract_lets d delay due p1 force p2 l p3 p4 q1 d0 q2 q3
  split_ifs
  · exact ⟨_, .refl _ p⟩
  · have h2 : Moves outKey [] p p2 := ((Moves.refl _ p).setDp _ _).quiet (.fold (fun q x => showLine_moves q c x _ _) _ _)
    obtain ⟨l3, h3⟩ : ∃ l, Moves outKey l p2 p3 := Moves.foldSome (fun q (x : Nat × EdgeAt) => applyEdge_moves q c x.1 x.2) _ p2
    have h4 : Moves outKey l3 p2 p4 := h3.setReg (outKey_mrkLevel c) _
    obtain ⟨l5, h5⟩ := Moves.foldSome (K := outKey) (fun q (x : Nat × EdgeAt) => applyEdge_moves q c x.1 x.2)
      (l.filter fun x => decide (250 * k < x.1)) p4
    exact ⟨_, (h2.trans h4).trans h5⟩
  · exact ⟨_, .refl _ p⟩
  · have h2 : Moves outKey [] p q2 := (cutEdges_moves p c 0).setDp _ _
    have h3 : Moves outKey [] p q3 := h2.quiet (.fold (fun q x => showLine_moves q c x _ _) _ _)
    exact ⟨_, h3.setReg (outKey_mrkLevel c) _⟩

/-! ## Frozen values -/

theorem reg_takeCommit (p : Part) (e : Nat × Nat) (k : Nat) : reg (takeCommit p e) k = if k = e.1 then e.2 else reg p k := by
  have h : reg (takeCommit p e) k = reg (setReg p e.1 e.2) k := by
    unfold takeCommit
    dsimp only
    split
    · split <;> rfl
    · rfl
  rw [h, reg_setReg]

theorem takeCommit_moves (p : Part) (e : Nat × Nat) : Moves (· = e.1) [] p (takeCommit p e) := by
  have h : Moves (· = e.1) [] p (setReg p e.1 e.2) := (Moves.refl (· = e.1) p).setReg rfl _
  unfold takeCommit
  dsimp only
  split
  · split
    · exact h.emptyWindow _
    · exact h
  · exact h

/-- The keys of frozen values (tick, key, value). -/
def commitKey (l : List (Nat × Nat × Nat)) (k : Nat) : Prop := ∃ e ∈ l, e.2.1 = k

theorem foldCommits_moves (l : List (Nat × Nat × Nat)) (p : Part) : Moves (commitKey l) [] p (l.foldl (fun q e => takeCommit q e.2) p) :=
  List.foldlRecOn l _ (motive := Moves (commitKey l) [] p) (.refl _ p) fun q hq e he =>
    hq.quiet ((takeCommit_moves q e.2).mono fun _ hk => ⟨e, he, hk.symm⟩)

/-- A value that alone has its key among those brought in is in force afterwards. -/
theorem reg_foldCommits (x : Nat × Nat × Nat) (l : List (Nat × Nat × Nat)) (p : Part) (hx : x ∈ l) (hu : ∀ y ∈ l, y.2.1 = x.2.1 → y = x) :
    reg (l.foldl (fun q e => takeCommit q e.2) p) x.2.1 = x.2.2 := by
  induction l generalizing p with
  | nil => exact absurd hx List.not_mem_nil
  | cons a l ih =>
    rw [List.foldl_cons]
    by_cases hl : x ∈ l
    · exact ih _ hl fun y hy => hu y (List.mem_cons_of_mem _ hy)
    · have ha : x = a := (List.mem_cons.mp hx).resolve_right hl
      have hn : ¬ commitKey l x.2.1 := fun ⟨e, he, hk⟩ => hl (hu e (List.mem_cons_of_mem _ he) hk ▸ he)
      rw [(foldCommits_moves l _).regs _ hn, reg_takeCommit, ← ha, if_pos rfl]

/-- Group g with only what is frozen for the ticks after k left to come. -/
def laterOnly (p : Part) (g : Grp) (k : Nat) : Part :=
  setGrp p g { grpOf p g with commits := (grpOf p g).commits.filter fun e => decide (k < e.1) }

/-- Bringing in a group's frozen values moves those values alone (R207). -/
theorem takeCommits_moves (p : Part) (g : Grp) (k : Nat) :
    Moves (commitKey (grpOf p g).commits) [] (laterOnly p g k) (takeCommits p g k) :=
  (foldCommits_moves _ (laterOnly p g k)).mono fun _ ⟨e, he, hk⟩ => ⟨e, (List.mem_filter.mp he).1, hk⟩

/-- A value frozen for a tick up to k that alone has its key among the group's is in force afterwards. -/
theorem reg_takeCommits {g : Grp} {k : Nat} {x : Nat × Nat × Nat} (hx : x ∈ (grpOf p g).commits) (hk : x.1 ≤ k)
    (hu : ∀ y ∈ (grpOf p g).commits, y.2.1 = x.2.1 → y = x) : reg (takeCommits p g k) x.2.1 = x.2.2 :=
  reg_foldCommits x _ (laterOnly p g k) (List.mem_filter.mpr ⟨hx, decide_eq_true hk⟩) fun y hy => hu y (List.mem_filter.mp hy).1

/-! ## Admission -/

/-- The published totals (Table 13-7). -/
def totalsKey (k : Nat) : Prop := k / 256 = 0x1600

theorem publishTotals_moves (p : Part) (regs : KMap Nat) : Moves totalsKey [] p (publishTotals p regs) :=
  (((Moves.refl totalsKey p).setReg (k := G.admDramReserved) rfl _).setReg (k := G.admIngressReserved) rfl _).setReg (k := G.admEventReserved) rfl _

/-- The published totals and the values of the groups' reservations (Table 13-7). -/
def resvKey (k : Nat) : Prop := totalsKey k ∨ (0x1620 ≤ k / 256 ∧ (k % 256 = 1 ∨ k % 256 = 3))

theorem resvKey_admGDram (g : Nat) : resvKey (G.admGDram g) := by unfold resvKey G.admGDram gkey; omega
theorem resvKey_admGArmedTick (g : Nat) : resvKey (G.admGArmedTick g) := by unfold resvKey G.admGArmedTick gkey; omega

/-- Releasing reservations takes them off the reserved set and moves published values alone (R309). -/
theorem releaseResv_moves (p : Part) (f : Resv → Bool) :
    Moves resvKey [] { p with adm := { p.adm with resv := p.adm.resv.filter fun r => !f r } } (releaseResv p f) := by
  unfold releaseResv
  extract_lets gone src p1 p2
  split
  · exact .refl _ p1
  · refine ((publishTotals_moves p1 _).mono fun _ => .inl).quiet (.fold (fun q r => ?_) _ p2)
    split
    · exact .refl _ q
    · exact ((Moves.refl _ q).setReg (resvKey_admGDram _) _).setReg (resvKey_admGArmedTick _) _

/-- The values that the cancelling of plan commits moves. -/
def cancelKey (k : Nat) : Prop := (∃ c, k = G.planState c) ∨ resvKey k

/-- Admission without the plan commits of the members of group g that satisfy f. -/
def admWithout (p : Part) (g : Nat) (f : PlanCommit → Bool) (resv : List Resv) : AdmSt :=
  { p.adm with plans := p.adm.plans.filter fun k => !(decide (groupOf p k.chan = g) && f k), resv := resv }

/-- Cancelling plan commits takes them and their reservations off admission and moves values of theirs alone (R162). -/
theorem cancelCommits_moves (p : Part) (g : Nat) (f : PlanCommit → Bool) :
    ∃ resv, Moves cancelKey [] { p with adm := admWithout p g f resv } (cancelCommits p g f) := by
  unfold cancelCommits
  extract_lets gone src p1 p2
  have h2 : Moves cancelKey [] p1 p2 := .fold (fun q k => (Moves.refl _ q).setReg (.inl ⟨_, rfl⟩) _) _ p1
  have h3 := (releaseResv_moves p2 fun r => decide (r.group = g) && gone.any fun k => decide (r.chan = some k.chan ∧ r.tick = k.made)).mono
    (L := cancelKey) fun _ => .inr
  rw [adm_of_restOf h2.rest] at h3
  exact ⟨_, (h2.withAdm _).quiet h3⟩

end Sys2Proof.Machine

end

section
/-!
SUPPORT. O17: the rendezvous (R150) and the plan commit that takes effect (R162).
-/

namespace Sys2Proof.Machine

theorem exec_syncRelease (g : Grp) (s : State) : exec (.syncRelease g) s = lift (inStage fun p => syncTick p g (planTick p)) s := by unfold exec; rfl
theorem exec_planTakeEffect (c : Chan) (s : State) : exec (.planTakeEffect c) s = lift (fun p => planTake p c) s := by unfold exec; rfl

variable {p q : Part} {c d : Chan} {g : Grp} {t m n : Nat} {uneven : Bool} {k : PlanCommit}

/-! ## The rendezvous -/

/-- A sequencer is held at a SYNC: it waits there without a release. -/
def Seq.HeldAtSync (s : Seq) : Prop := ∃ w tag, s.act = .wait w ∧ w.what = .sync tag ∧ w.rel = none

theorem Seq.released_of_not_held {s : Seq} (h : ¬ s.HeldAtSync) (n : Nat) : s.released n = s := by
  unfold Seq.released
  split
  next w ha =>
    split
    next tag hw hr => exact absurd ⟨w, tag, ha, hw, hr⟩ h
    · rfl
  · rfl

/-- Participant c of a rendezvous goes on at tick t where it still waits; where the tags differ, that is recorded in the plan of tick m (R150). -/
def releaseAt (t m : Nat) (uneven : Bool) (q : Part) (c : Nat) : Part :=
  let s := seqOf q (chan c)
  match s.act with
  | .wait w =>
    match w.what, w.rel with
    | .sync _, none =>
      let q := setSeq q (chan c) { s with act := .wait { w with rel := some (250 * t) } }
      if uneven then addOp (addOp q (chan c) m (.bits (G.seqFlags c) 2)) (chan c) m (.add (G.syncErrors c) 1) else q
    | _, _ => q
  | _ => q

/-- A participant's release moves its own sequencer, and changes nothing but sequencers and plans. -/
theorem releaseAt_eq (t m : Nat) (uneven : Bool) (q : Part) (c : Nat) :
    ∃ plans, releaseAt t m uneven q c = { setSeq q (chan c) ((seqOf q (chan c)).released (250 * t)) with plans := plans } := by
  by_cases h : (seqOf q (chan c)).HeldAtSync
  · obtain ⟨w, tag, ha, hw, hr⟩ := h
    unfold releaseAt Seq.released
    simp only [ha, hw, hr]
    split <;> exact ⟨_, rfl⟩
  · have hs : setSeq q (chan c) (seqOf q (chan c)) = q := by
      unfold setSeq seqOf Vector.get
      simp
    rw [Seq.released_of_not_held h, hs]
    unfold releaseAt
    dsimp only
    split
    next w ha =>
      split
      next tag hw hr => exact absurd ⟨w, tag, ha, hw, hr⟩ h
      · exact ⟨_, rfl⟩
    · exact ⟨_, rfl⟩

theorem releaseAt_seqOf (t m : Nat) (uneven : Bool) (q : Part) (c : Nat) (d : Chan) :
    seqOf (releaseAt t m uneven q c) d = if d = chan c then (seqOf q d).released (250 * t) else seqOf q d := by
  obtain ⟨plans, h⟩ := releaseAt_eq t m uneven q c
  rw [h]
  show seqOf (setSeq q (chan c) _) d = _
  split
  next hd => rw [hd, seqOf_setSeq_same]
  next hd => exact seqOf_setSeq_ne _ hd _

/-- A rendezvous that all have reached releases every participant. -/
theorem syncTick_all (h : ((participants p g).filterMap fun c => arrivedAt (seqOf p (chan c))).length = (participants p g).length)
    (ht : syncTags p g ≠ []) :
    ∃ uneven, syncTick p g m = (participants p g).foldl
      (releaseAt (max m (((participants p g).filterMap fun c => arrivedAt (seqOf p (chan c))).foldl max 0 / 250 + 1)) m uneven) p := by
  unfold syncTick
  exact ⟨_, if_pos ⟨h, ht⟩⟩

/-- A fold of releases gives each channel of the list its release. -/
theorem foldRelease_seqOf (t m : Nat) (uneven : Bool) (l : List Nat) (hl : ∀ c ∈ l, c < 256) (hn : l.Nodup) (p : Part) (d : Chan) :
    seqOf (l.foldl (releaseAt t m uneven) p) d = if d.val ∈ l then (seqOf p d).released (250 * t) else seqOf p d := by
  induction l generalizing p with
  | nil => simp
  | cons a l ih =>
    have ha : d = chan a ↔ d.val = a := by
      rw [Fin.ext_iff]
      exact iff_of_eq (congrArg (d.val = ·) (Nat.mod_eq_of_lt (hl a (by simp))))
    obtain ⟨hal, hn⟩ := List.nodup_cons.mp hn
    rw [List.foldl_cons, ih (fun c hc => hl c (List.mem_cons_of_mem _ hc)) hn, releaseAt_seqOf]
    simp only [ha, List.mem_cons]
    by_cases hd : d.val = a
    · simp [hd, hal]
    · simp [hd]

theorem foldRelease_frame (t m : Nat) (uneven : Bool) (l : List Nat) (p : Part) :
    ∃ seqs plans, l.foldl (releaseAt t m uneven) p = { p with seqs := seqs, plans := plans } := by
  induction l generalizing p with
  | nil => exact ⟨p.seqs, p.plans, rfl⟩
  | cons a l ih =>
    obtain ⟨plans, ha⟩ := releaseAt_eq t m uneven p a
    obtain ⟨seqs', plans', hl⟩ := ih (releaseAt t m uneven p a)
    refine ⟨seqs', plans', ?_⟩
    rw [List.foldl_cons, hl, ha]
    rfl

theorem participants_nodup (p : Part) (g : Nat) : (participants p g).Nodup := (List.nodup_range.filter _).filter _

theorem participants_lt (p : Part) (g : Nat) : ∀ c ∈ participants p g, c < 256 := fun _ hc =>
  List.mem_range.mp (List.mem_filter.mp (List.mem_filter.mp hc).1).1

/-! ## The plan commit -/

/-- The part in which commit k of channel c has become the allocation in force. -/
def allocated (p : Part) (c : Chan) (k : PlanCommit) : Part :=
  setReg (setReg (setReg (takeCommits p (grp (groupOf p c)) k.tick) (G.trvBase c) k.base) (G.trvSize c) k.size) (G.trvEntry c) k.entry

/-- The values that a plan commit of channel c moves besides its allocation. -/
def commitEndKey (c : Chan) (k : Nat) : Prop :=
  totalsKey k ∨ (0x1620 ≤ k / 256 ∧ k / 256 < 0x1630) ∨ k = G.planState c ∨ k = G.seqState c ∨ outKey k

theorem commitEndKey_planState (c : Chan) : commitEndKey c (G.planState c) := .inr (.inr (.inl rfl))
theorem commitEndKey_seqState (c : Chan) : commitEndKey c (G.seqState c) := .inr (.inr (.inr (.inl rfl)))

theorem commitEndKey_admGDram {g : Nat} (h : g < 16) : commitEndKey c (G.admGDram g) := by
  unfold commitEndKey G.admGDram gkey
  omega

/-- The allocation of a channel is at none of the other values that its commit moves: their subindices 2, 3 and 4 are another chapter's. -/
theorem not_commitEndKey_trv {s : Nat} (h : 2 ≤ s ∧ s ≤ 4) : ¬ commitEndKey c (gkey (0x2300 + c) s) := by
  unfold commitEndKey totalsKey G.planState G.seqState outKey gkey
  omega

theorem not_outKey_trv (s : Nat) (h : s < 256) : ¬ outKey (gkey (0x2300 + c) s) := by
  unfold outKey gkey
  omega

/-- The end of a plan commit: the totals, PLAN_STATE, and where the program is gone SEQ_STATE and the output (R162). -/
def commitEnds (p : Part) (c : Chan) (g charge size : Nat) : Part :=
  let p := setReg (setReg (publishTotals p p.gz.regs) (G.admGDram g) charge) (G.planState c) 3
  let p := if size = 0 then setReg p (G.seqState c) 0 else p
  outTick p c p.time.tick

theorem commitEnds_moves {g : Nat} (hg : g < 16) (p : Part) (c : Chan) (charge size : Nat) :
    Moves (commitEndKey c) [] p (commitEnds p c g charge size) ∧ reg (commitEnds p c g charge size) (G.planState c) = 3 ∧
      (size = 0 → reg (commitEnds p c g charge size) (G.seqState c) = 0) := by
  unfold commitEnds
  extract_lets p1 p2
  have h1 : Moves (commitEndKey c) [] p p1 :=
    (((publishTotals_moves p _).mono fun _ => .inl).setReg (commitEndKey_admGDram hg) _).setReg (commitEndKey_planState c) _
  have hs : reg p1 (G.planState c) = 3 := reg_setReg_same _ _ _
  have hne : G.planState c ≠ G.seqState c := by
    unfold G.planState G.seqState gkey
    omega
  have hp2 : Moves (commitEndKey c) [] p p2 ∧ reg p2 (G.planState c) = 3 ∧ (size = 0 → reg p2 (G.seqState c) = 0) := by
    unfold p2
    split
    next h0 => exact ⟨h1.setReg (commitEndKey_seqState c) 0, (reg_setReg_ne _ hne _).trans hs, fun _ => reg_setReg_same _ _ _⟩
    next h0 => exact ⟨h1, hs, fun h => absurd h h0⟩
  obtain ⟨h2, hs2, hz⟩ := hp2
  have hout := outTick_moves p2 c p2.time.tick
  exact ⟨h2.quiet (hout.mono fun _ h => .inr (.inr (.inr (.inr h)))), (hout.regs _ (not_outKey_trv _ (by decide))).trans hs2,
    fun h => (hout.regs _ (not_outKey_trv _ (by decide))).trans (hz h)⟩

/-- A commit that takes effect becomes the allocation in force, goes off the commits that wait, and then ends (R162). -/
theorem planTake_of (h : (p.adm.plans.find? fun k => decide (k.chan = c.val ∧ k.tick ≤ p.time.tick) &&
      !commitCancelled p (grp (groupOf p c)) k.tick) = some k) :
    ∃ resv charge, planTake p c = commitEnds { allocated p c k with
      adm := { p.adm with plans := p.adm.plans.filter (fun x => decide (x ≠ k)), resv := resv } } c (groupOf p c) charge k.size := by
  have ha : (allocated p c k).adm = p.adm := (adm_of_restOf (takeCommits_moves p (grp (groupOf p c)) k.tick).rest :)
  rw [← ha]
  unfold planTake
  rw [h]
  exact ⟨_, _, rfl⟩

/-- The allocation of a commit stands in the entries of its channel, and its making touched no sequencer, plan or memory. -/
theorem allocated_spec (p : Part) (c : Chan) (k : PlanCommit) :
    (reg (allocated p c k) (G.trvBase c) = k.base ∧ reg (allocated p c k) (G.trvSize c) = k.size ∧ reg (allocated p c k) (G.trvEntry c) = k.entry) ∧
      (allocated p c k).seqs = p.seqs ∧ (allocated p c k).plans = p.plans ∧ (allocated p c k).mem = p.mem := by
  have h := (takeCommits_moves p (grp (groupOf p c)) k.tick).rest
  refine ⟨?_, (seqs_of_restOf h :), (plans_of_restOf h :), (mem_of_restOf h :)⟩
  unfold allocated
  have h1 : G.trvBase c ≠ G.trvSize c := by unfold G.trvBase G.trvSize gkey; omega
  have h2 : G.trvBase c ≠ G.trvEntry c := by unfold G.trvBase G.trvEntry gkey; omega
  have h3 : G.trvSize c ≠ G.trvEntry c := by unfold G.trvSize G.trvEntry gkey; omega
  simp [reg_setReg, h1, h2, h3]

/-- Settles O17: a complete rendezvous folds the release over its participants; a due plan commit becomes the allocation in force. -/
theorem rendezvousAndCommitsTakeEffect : Obligations.RendezvousAndCommitsTakeEffect := by
  unfold Obligations.RendezvousAndCommitsTakeEffect
  refine ⟨fun s g hw ho => ?_, fun s c k hw hk => ?_⟩
  · intro l arrived t ha ht
    obtain ⟨uneven, hq⟩ := syncTick_all (m := planTick s.part) ha ht
    obtain ⟨seqs, plans, hf⟩ := foldRelease_frame t (planTick s.part) uneven l s.part
    refine ⟨_, exec_next (exec_syncRelease g s) hw ((inStage_open ho).trans hq), fun c => ?_, ?_⟩
    · exact foldRelease_seqOf t _ uneven l (participants_lt s.part g) (participants_nodup s.part g) s.part c
    · show l.foldl (releaseAt t (planTick s.part) uneven) s.part = _
      rw [hf]
  · obtain ⟨resv, charge, hq⟩ := planTake_of hk
    obtain ⟨hm, hstate, hoff⟩ := commitEnds_moves (Nat.mod_lt _ (by decide) : groupOf s.part c < 16) { allocated s.part c k with
      adm := { s.part.adm with plans := s.part.adm.plans.filter (fun x => decide (x ≠ k)), resv := resv } } c charge k.size
    obtain ⟨⟨hb, hz, he⟩, hs, hp, hmem⟩ := allocated_spec s.part c k
    exact ⟨_, exec_next (exec_planTakeEffect c s) hw hq, (hm.regs _ (not_commitEndKey_trv (by decide))).trans hb,
      (hm.regs _ (not_commitEndKey_trv (by decide))).trans hz, (hm.regs _ (not_commitEndKey_trv (by decide))).trans he, hstate, hoff,
      congrArg AdmSt.plans (adm_of_restOf hm.rest), (seqs_of_restOf hm.rest).trans hs, (plans_of_restOf hm.rest).trans hp,
      (mem_of_restOf hm.rest).trans hmem⟩

end Sys2Proof.Machine

end

section
/-!
SUPPORT. O43: what groups do at their tick (R141, R205 to R209).
-/

namespace Sys2Proof.Machine

theorem exec_groupStart (g : Grp) (s : State) : exec (.groupStart g) s = lift (fun p => startGroup p g) s := by unfold exec; rfl
theorem exec_groupStop (g : Grp) (s : State) : exec (.groupStop g) s = lift (fun p => stopGroup p g) s := by unfold exec; rfl
theorem exec_groupRestart (g : Grp) (s : State) : exec (.groupRestart g) s = lift (fun p => restartGroup p g) s := by unfold exec; rfl
theorem exec_loadStrobe (g : Grp) (s : State) : exec (.loadStrobe g) s = lift (fun p => strobeGroup p g) s := by unfold exec; rfl

variable {p q r : Part} {g h : Grp} {m : Nat} {K : Nat → Prop} {l : List Producer}

/-- A producer's pulse at sample 0 of tick m. -/
def pulseOf (m src : Nat) : Producer := ⟨25 * m, ⟨m, 0, src, 0⟩⟩

/-! ## Keys of groups and of frozen values -/

/-- A value of group g (Table 03-5). -/
def groupKey (g : Grp) (k : Nat) : Prop := k / 256 = 0x1A00 + g

theorem groupKey_lgState (g : Grp) : groupKey g (G.lgState g) := gkey_div _ _ (by decide)
theorem groupKey_lgStartTick (g : Grp) : groupKey g (G.lgStartTick g) := gkey_div _ _ (by decide)
theorem groupKey_lgStrobes (g : Grp) : groupKey g (G.lgStrobes g) := gkey_div _ _ (by decide)
theorem groupKey_lgStrobeAt (g : Grp) : groupKey g (G.lgStrobeAt g) := gkey_div _ _ (by decide)

theorem groupKey.not_outKey {k : Nat} (h : groupKey g k) : ¬ outKey k := by
  unfold groupKey at h
  unfold outKey
  omega

/-- A value of a channel is none of a group. -/
theorem groupKey.ne_chanKey {j k : Nat} (h : groupKey g k) (hj : (keyChan j).isSome) : j ≠ k := by
  rintro rfl
  unfold keyChan at hj
  rw [h, if_neg (by omega)] at hj
  exact Bool.noConfusion hj

theorem entriesAt_2400 {i : Nat} (h : 0x2400 ≤ i) (h' : i < 0x2500) : entriesAt i = entries2400 := by
  unfold entriesAt
  repeat rw [if_neg (by omega)]
  rw [if_pos ⟨h, h'⟩]

/-- Of the entries by which an output and its markers tell what they do, OUT_SPAN alone may be written. -/
theorem not_outKey_of_rw {k : Nat} (he : ∃ e, entryOf k = some e ∧ e.acc = .rw) (hs : ∀ c, k ≠ G.outSpan c) : ¬ outKey k := by
  obtain ⟨e, he, ha⟩ := he
  rintro (⟨hi, h1 | h3⟩ | ⟨hi, h5, h8⟩)
  · exact hs (k / 256 - 0x2000) (by unfold G.outSpan gkey; omega)
  · have hl : lookup (k / 256) 3 = .entry ⟨3, 3, 1, .u8, .ro, .none, 0, .none, false, false, .any, .plain⟩ 3 :=
      lookup_of (by omega) (entriesAt_2000 (by omega) (by omega)) rfl
    unfold entryOf at he
    rw [h3, hl] at he
    cases he
    exact absurd ha (by decide)
  · have hl : ∃ e, lookup (k / 256) (k % 256) = .entry e (k % 256) ∧ e.acc = .ro := by
      have hcase : k % 256 = 5 ∨ k % 256 = 6 ∨ k % 256 = 7 ∨ k % 256 = 8 := by omega
      rcases hcase with hk | hk | hk | hk <;> rw [hk] <;>
        exact ⟨_, lookup_of (by omega) (entriesAt_2400 (by omega) (by omega)) rfl, rfl⟩
    obtain ⟨e', hl, ha'⟩ := hl
    unfold entryOf at he
    rw [hl] at he
    cases he
    exact absurd (ha.symm.trans ha') (by decide)

/-- What is frozen for a group is in force in q where it is in r, and from r to q only values of outputs and markers and those of the group itself
have moved. -/
theorem Committed.of_reg (hc : ∀ x ∈ (grpOf p g).commits, x.1 ≤ m → (∀ y ∈ (grpOf p g).commits, y.2.1 = x.2.1 → y = x) → reg r x.2.1 = x.2.2)
    (hr : ∀ k, ¬ outKey k → (keyChan k).isSome → reg q k = reg r k) : Committed p q g m :=
  fun x hx hm hu hs he hk => (hr x.2.1 (not_outKey_of_rw he hs) hk).trans (hc x hx hm hu)

/-- Committed is about what is frozen for the group. -/
theorem Committed.of_commits (hg : (grpOf r g).commits = (grpOf p g).commits) (hc : Committed r q g m) : Committed p q g m := by
  unfold Committed at hc ⊢
  rwa [hg] at hc

/-! ## Start and restart -/

theorem beginGroup_moves (p : Part) (g : Grp) (k : Nat) :
    ∃ l, Moves outKey (pulseOf k (0xB00 + g) :: l) (setReg (setReg (takeCommits p g k) (G.lgState g) 2) (G.lgStartTick g) k) (beginGroup p g k) := by
  unfold beginGroup
  extract_lets p1 p2 p3 p4
  have h3 : Moves outKey [pulseOf k (0xB00 + g)] p2 p3 := raiseAt_moves outKey p2 k 0 (0xB00 + g) 0
  have h4 : Moves outKey [pulseOf k (0xB00 + g)] p2 p4 := h3.quiet (.fold (fun q c => beginMember_moves q (chan c)) _ p3)
  obtain ⟨l, h5⟩ := Moves.foldSome (K := outKey) (fun q c => markTick_moves q (chan c) q.time.tick) (members p4 g) (outGroup p4 g p4.time.tick)
  exact ⟨l, (h4.quiet (outGroup_moves ..)).trans h5⟩

/-- What a group's beginning at tick m does (R141, R205, R207). -/
theorem beginGroup_spec (p : Part) (g : Grp) (m : Nat) :
    restOf (beginGroup p g m) = restOf (laterOnly p g m) ∧ reg (beginGroup p g m) (G.lgState g) = 2 ∧ reg (beginGroup p g m) (G.lgStartTick g) = m ∧
      Committed p (beginGroup p g m) g m ∧ pulseOf m (0xB00 + g) ∈ (beginGroup p g m).fab.producers := by
  obtain ⟨l, hb⟩ := beginGroup_moves p g m
  have hne : G.lgState g ≠ G.lgStartTick g := by unfold G.lgState G.lgStartTick gkey; omega
  refine ⟨hb.rest.trans (takeCommits_moves p g m).rest, ?_, ?_, .of_reg (fun x hx hm hu => reg_takeCommits hx hm hu) fun k ho hk => ?_, ?_⟩
  · rw [hb.regs _ (groupKey_lgState g).not_outKey, reg_setReg_ne _ hne, reg_setReg_same]
  · rw [hb.regs _ (groupKey_lgStartTick g).not_outKey, reg_setReg_same]
  · rw [hb.regs k ho, reg_setReg_ne _ ((groupKey_lgStartTick g).ne_chanKey hk), reg_setReg_ne _ ((groupKey_lgState g).ne_chanKey hk)]
  · rw [hb.fab]
    simp

theorem grpOf_laterOnly_ne (hh : h ≠ g) (k : Nat) : grpOf (laterOnly p g k) h = grpOf p h := grpOf_setGrp_ne _ hh _

theorem startGroup_come (ht : (grpOf p g).startAt = some m) (hm : m ≤ p.time.tick) :
    startGroup p g = beginGroup (setGrp p g { grpOf p g with startAt := none }) g m := by
  unfold startGroup
  dsimp only
  rw [ht]
  exact if_pos hm

theorem restartGroup_come (ht : (grpOf p g).restartAt = some m) (hm : m ≤ p.time.tick) :
    restartGroup p g =
      beginGroup (cancelCommits (setGrp p g { grpOf p g with restartAt := none, stopGen := none }) g fun k => decide (m ≤ k.tick)) g m := by
  unfold restartGroup
  dsimp only
  rw [ht]
  exact if_pos hm

/-! ## Stop -/

/-- The values that a stop moves besides LG_STATE. -/
def stopKey (k : Nat) : Prop := cancelKey k ∨ (∃ c, k = G.seqState c) ∨ outKey k

theorem not_stopKey_lgState (g : Grp) : ¬ stopKey (G.lgState g) := by
  rintro ((⟨c, h⟩ | h) | ⟨c, h⟩ | h)
  · unfold G.lgState G.planState gkey at h
    omega
  · unfold resvKey totalsKey G.lgState gkey at h
    omega
  · unfold G.lgState G.seqState gkey at h
    omega
  · exact (groupKey_lgState g).not_outKey h

theorem haltMembers_moves (p : Part) (g m : Nat) :
    ∃ resv, Moves stopKey [] { p with adm := admWithout p g (fun k => decide (m ≤ k.tick)) resv } (haltMembers p g m) := by
  obtain ⟨resv, hc⟩ := cancelCommits_moves p g fun k => decide (m ≤ k.tick)
  refine ⟨resv, (hc.mono fun _ => .inl).quiet (.fold (fun q c => ?_) _ _)⟩
  split
  · exact (Moves.refl _ q).setReg (.inr (.inl ⟨_, rfl⟩)) _
  · exact .refl _ q

/-- The group at its first stopped tick m, with its pulse and LG_STATE armed, before its plan commits and members. -/
def stopped (p : Part) (g : Grp) (m : Nat) : Part :=
  setReg (setGrp (raiseAt p m 0 (0xB10 + g.val) 0) g
    { grpOf p g with stopAt := none, stopGen := none, strobes := (grpOf p g).strobes.filter fun t => decide (t < m) }) (G.lgState g) 1

theorem stopGroup_moves (ht : (grpOf p g).stopAt = some m) (hm : m ≤ p.time.tick) :
    ∃ resv, Moves stopKey [] { stopped p g m with adm := admWithout (stopped p g m) g (fun k => decide (m ≤ k.tick)) resv } (stopGroup p g) := by
  have hs : stopGroup p g = outGroup (haltMembers (stopped p g m) g m) g p.time.tick := by
    unfold stopGroup
    dsimp only
    rw [ht]
    exact if_pos hm
  obtain ⟨resv, hh⟩ := haltMembers_moves (stopped p g m) g m
  rw [hs]
  exact ⟨resv, hh.quiet ((outGroup_moves ..).mono fun _ ho => .inr (.inr ho))⟩

theorem groupOf_stopped (p : Part) (g : Grp) (m c : Nat) : groupOf (stopped p g m) c = groupOf p c := by
  have hne : G.loadGroup c ≠ G.lgState g := by unfold G.loadGroup G.lgState gkey; omega
  unfold groupOf
  rw [stopped, reg_setReg_ne _ hne]
  rfl

/-! ## Strobes -/

theorem setGrp_self (p : Part) (g : Grp) : setGrp p g (grpOf p g) = p := by
  unfold setGrp grpOf Vector.get
  simp

theorem setGrp_setGrp (p : Part) (g : Grp) (x y : GroupSt) : setGrp (setGrp p g x) g y = setGrp p g y := by
  unfold setGrp
  simp

theorem Moves.setGrp (hm : Moves K l p q) (g : Grp) (x : GroupSt) : Moves K l (setGrp p g x) (setGrp q g x) := by
  have hr := hm.rest
  refine ⟨?_, hm.fab, hm.regs⟩
  simp [restOf, Machine.setGrp, time_of_restOf hr, mem_of_restOf hr, seqs_of_restOf hr, plans_of_restOf hr, adm_of_restOf hr, grps_of_restOf hr]

/-- The values that strobes of group g move, where commits are frozen for it. -/
def strobeKey (g : Grp) (commits : List (Nat × Nat × Nat)) (k : Nat) : Prop := commitKey commits k ∨ k = G.lgStrobes g

theorem strobeAt_moves (g : Grp) (p : Part) (m : Nat) :
    Moves (strobeKey g (grpOf p g).commits) [pulseOf m (0xB20 + g)] (laterOnly p g m) (strobeAt g p m) := by
  have h1 := (takeCommits_moves p g m).mono (L := strobeKey g (grpOf p g).commits) fun _ => .inl
  exact (h1.trans (raiseAt_moves _ (takeCommits p g m) m 0 (0xB20 + g) 0)).addReg (.inr rfl) 1

theorem grpOf_strobeAt (g : Grp) (p : Part) (m : Nat) :
    grpOf (strobeAt g p m) g = { grpOf p g with commits := (grpOf p g).commits.filter fun e => decide (m < e.1) } :=
  (grpOf_of_restOf (strobeAt_moves g p m).rest g).trans (grpOf_setGrp_same ..)

theorem reg_strobeAt {k : Nat} (hk : k ≠ G.lgStrobes g) : reg (strobeAt g p m) k = reg (takeCommits p g m) k := reg_setReg_ne _ hk _

/-- Strobes at the ticks of a list take frozen values off the group, move those and LG_STROBES, and pulse once each (R207). -/
theorem foldStrobes_moves (g : Grp) (ticks : List Nat) (p : Part) :
    ∃ left, left ⊆ (grpOf p g).commits ∧ Moves (strobeKey g (grpOf p g).commits) (ticks.map fun m => pulseOf m (0xB20 + g))
      (setGrp p g { grpOf p g with commits := left }) (ticks.foldl (strobeAt g) p) := by
  induction ticks generalizing p with
  | nil => exact ⟨(grpOf p g).commits, fun _ h => h, by rw [setGrp_self]; exact .refl _ p⟩
  | cons a ticks ih =>
    obtain ⟨left, hl, hm⟩ := ih (strobeAt g p a)
    have hsub : (grpOf (strobeAt g p a) g).commits ⊆ (grpOf p g).commits := by
      rw [grpOf_strobeAt]
      exact List.filter_subset_self _
    have ha := (strobeAt_moves g p a).setGrp g { grpOf p g with commits := left }
    rw [laterOnly, setGrp_setGrp] at ha
    rw [grpOf_strobeAt] at hm hl hsub
    exact ⟨left, fun _ he => hsub (hl he), ha.trans (hm.mono fun k hk => hk.imp_left fun ⟨e, he, hek⟩ => ⟨e, hsub he, hek⟩)⟩

/-- A value frozen up to one of the strobes' ticks that alone has its key among the group's is in force after them. -/
theorem reg_foldStrobes {x : Nat × Nat × Nat} (hn : x.2.1 ≠ G.lgStrobes g) (ticks : List Nat) (p : Part) (hx : x ∈ (grpOf p g).commits)
    (hu : ∀ y ∈ (grpOf p g).commits, y.2.1 = x.2.1 → y = x) (hm : ∃ m ∈ ticks, x.1 ≤ m) :
    reg (ticks.foldl (strobeAt g) p) x.2.1 = x.2.2 := by
  induction ticks generalizing p with
  | nil => simp at hm
  | cons a ticks ih =>
    have hg : ∀ y, y ∈ (grpOf (strobeAt g p a) g).commits ↔ y ∈ (grpOf p g).commits ∧ a < y.1 := fun y => by
      rw [grpOf_strobeAt, List.mem_filter, decide_eq_true_eq]
    rw [List.foldl_cons]
    by_cases ha : x.1 ≤ a
    · have hnot : ¬ strobeKey g (grpOf (strobeAt g p a) g).commits x.2.1 := by
        rintro (⟨e, he, hk⟩ | hk)
        · obtain ⟨hp, hlt⟩ := (hg e).mp he
          rw [hu e hp hk] at hlt
          omega
        · exact hn hk
      obtain ⟨_, _, hf⟩ := foldStrobes_moves g ticks (strobeAt g p a)
      exact (hf.regs _ hnot).trans ((reg_strobeAt hn).trans (reg_takeCommits hx ha hu))
    · obtain ⟨m, hmem, hle⟩ := hm
      have hmt : m ∈ ticks := (List.mem_cons.mp hmem).resolve_left (by rintro rfl; exact ha hle)
      exact ih _ ((hg x).mpr ⟨hx, by omega⟩) (fun y hy => hu y ((hg y).mp hy).1) ⟨m, hmt, hle⟩

/-- LG_STROBES counts the strobes (R207), where what is frozen are channels' values. -/
theorem lgStrobes_foldStrobes (ticks : List Nat) (p : Part) (hc : ∀ y ∈ (grpOf p g).commits, (keyChan y.2.1).isSome) :
    reg (ticks.foldl (strobeAt g) p) (G.lgStrobes g) =
      if ticks = [] then reg p (G.lgStrobes g) else (reg p (G.lgStrobes g) + ticks.length) % 2 ^ regWidth (G.lgStrobes g) := by
  induction ticks generalizing p with
  | nil => rfl
  | cons a ticks ih =>
    have hn : ¬ commitKey (grpOf p g).commits (G.lgStrobes g) := fun ⟨y, hy, hk⟩ => (groupKey_lgStrobes g).ne_chanKey (hc y hy) hk
    have ha : reg (strobeAt g p a) (G.lgStrobes g) = (reg p (G.lgStrobes g) + 1) % 2 ^ regWidth (G.lgStrobes g) := by
      refine (reg_setReg_same _ _ _).trans ?_
      rw [reg_raiseAt, (takeCommits_moves p g a).regs _ hn]
      rfl
    have hc' : ∀ y ∈ (grpOf (strobeAt g p a) g).commits, (keyChan y.2.1).isSome := fun y hy => by
      rw [grpOf_strobeAt] at hy
      exact hc y (List.mem_filter.mp hy).1
    rw [List.foldl_cons, ih _ hc', ha, if_neg (List.cons_ne_nil _ _), List.length_cons]
    split
    next h0 => simp [h0]
    next h0 => rw [Nat.mod_add_mod, Nat.add_assoc, Nat.add_comm 1]

/-- The group's strobes that have come are off its list, and LG_STROBE_AT reads 0 where its tick has come (R208). -/
def readied (p : Part) (g : Grp) : Part :=
  let q := setGrp p g { grpOf p g with strobes := (grpOf p g).strobes.filter fun t => decide (p.time.tick < t) }
  if reg q (G.lgStrobeAt g) ≤ q.time.tick then setReg q (G.lgStrobeAt g) 0 else q

theorem readied_moves (p : Part) (g : Grp) : Moves (· = G.lgStrobeAt g) []
    (setGrp p g { grpOf p g with strobes := (grpOf p g).strobes.filter fun t => decide (p.time.tick < t) }) (readied p g) := by
  unfold readied
  extract_lets src q
  split
  · exact (Moves.refl (· = G.lgStrobeAt g) q).setReg rfl 0
  · exact .refl _ q

theorem grpOf_readied (p : Part) (g : Grp) :
    grpOf (readied p g) g = { grpOf p g with strobes := (grpOf p g).strobes.filter fun t => decide (p.time.tick < t) } :=
  (grpOf_of_restOf (readied_moves p g).rest g).trans (grpOf_setGrp_same ..)

theorem lgStrobeAt_readied (p : Part) (g : Grp) :
    reg (readied p g) (G.lgStrobeAt g) = if reg p (G.lgStrobeAt g) ≤ p.time.tick then 0 else reg p (G.lgStrobeAt g) := by
  unfold readied
  extract_lets src q
  show _ = if reg q (G.lgStrobeAt g) ≤ q.time.tick then 0 else reg q (G.lgStrobeAt g)
  split
  · exact reg_setReg_same _ _ _
  · rfl

/-- The strobes due are those that have come and lie before a stop (R208, R209). -/
theorem strobesDue_eq (p : Part) (g : Grp) : strobesDue p g =
    (grpOf p g).strobes.filter fun t => decide (t ≤ p.time.tick) && decide (∀ m, (grpOf p g).stopAt = some m → t < m) := by
  unfold strobesDue
  cases (grpOf p g).stopAt <;> simp

/-- After the strobes due, the outputs of the members follow (R219). -/
theorem strobeGroup_moves (p : Part) (g : Grp) :
    Moves outKey [] ((strobesDue p g).foldl (strobeAt g) (readied p g)) (strobeGroup p g) := by
  have hs : strobeGroup p g = if (strobesDue p g).isEmpty then readied p g
      else outGroup ((strobesDue p g).foldl (strobeAt g) (readied p g)) g (readied p g).time.tick := rfl
  rw [hs]
  split
  next h0 =>
    rw [List.isEmpty_iff.mp h0]
    exact .refl _ _
  · exact outGroup_moves ..

/-! ## The commands -/

theorem startGroup_idle (hn : ∀ m, ¬ ((grpOf p g).startAt = some m ∧ m ≤ p.time.tick)) : startGroup p g = p := by
  unfold startGroup
  dsimp only
  split
  next m ht => exact if_neg fun hm => hn m ⟨ht, hm⟩
  · rfl

theorem stopGroup_idle (hn : ∀ m, ¬ ((grpOf p g).stopAt = some m ∧ m ≤ p.time.tick)) : stopGroup p g = p := by
  unfold stopGroup
  dsimp only
  split
  next m ht => exact if_neg fun hm => hn m ⟨ht, hm⟩
  · rfl

theorem restartGroup_idle (hn : ∀ m, ¬ ((grpOf p g).restartAt = some m ∧ m ≤ p.time.tick)) : restartGroup p g = p := by
  unfold restartGroup
  dsimp only
  split
  next m ht => exact if_neg fun hm => hn m ⟨ht, hm⟩
  · rfl

/-- Sequencers, memory, plans and the clock stay as they were. -/
def GroupFrame (p q : Part) : Prop := q.seqs = p.seqs ∧ q.mem = p.mem ∧ q.plans = p.plans ∧ q.time = p.time

theorem GroupFrame.of_restOf (hr : restOf q = restOf p) : GroupFrame p q :=
  ⟨seqs_of_restOf hr, mem_of_restOf hr, plans_of_restOf hr, time_of_restOf hr⟩

theorem GroupFrame.trans (hf : GroupFrame p q) (hf' : GroupFrame q r) : GroupFrame p r := by
  obtain ⟨hs, hm, hp, ht⟩ := hf
  obtain ⟨hs', hm', hp', ht'⟩ := hf'
  exact ⟨hs'.trans hs, hm'.trans hm, hp'.trans hp, ht'.trans ht⟩

/-- A start whose tick has come (R141, R205). -/
theorem startGroup_spec (ht : (grpOf p g).startAt = some m) (hm : m ≤ p.time.tick) :
    reg (startGroup p g) (G.lgState g) = 2 ∧ reg (startGroup p g) (G.lgStartTick g) = m ∧ Committed p (startGroup p g) g m ∧
      pulseOf m (0xB00 + g) ∈ (startGroup p g).fab.producers ∧ (grpOf (startGroup p g) g).startAt = none ∧
      (∀ h, h ≠ g → grpOf (startGroup p g) h = grpOf p h) ∧ (startGroup p g).adm = p.adm ∧ GroupFrame p (startGroup p g) := by
  rw [startGroup_come ht hm]
  obtain ⟨hr, hs, htick, hc, hp⟩ := beginGroup_spec (setGrp p g { grpOf p g with startAt := none }) g m
  refine ⟨hs, htick, hc.of_commits (by rw [grpOf_setGrp_same]), hp, ?_, fun h hh => ?_, (adm_of_restOf hr :), (GroupFrame.of_restOf hr :)⟩
  · rw [grpOf_of_restOf hr, laterOnly, grpOf_setGrp_same, grpOf_setGrp_same]
  · rw [grpOf_of_restOf hr, grpOf_laterOnly_ne hh, grpOf_setGrp_ne _ hh]

/-- A restart whose tick has come (R206). -/
theorem restartGroup_spec (ht : (grpOf p g).restartAt = some m) (hm : m ≤ p.time.tick) :
    reg (restartGroup p g) (G.lgState g) = 2 ∧ reg (restartGroup p g) (G.lgStartTick g) = m ∧ Committed p (restartGroup p g) g m ∧
      pulseOf m (0xB00 + g) ∈ (restartGroup p g).fab.producers ∧ (grpOf (restartGroup p g) g).restartAt = none ∧
      (∀ h, h ≠ g → grpOf (restartGroup p g) h = grpOf p h) ∧ GroupFrame p (restartGroup p g) := by
  rw [restartGroup_come ht hm]
  generalize hx : setGrp p g { grpOf p g with restartAt := none, stopGen := none } = p1
  obtain ⟨resv, hcan⟩ := cancelCommits_moves p1 g fun k => decide (m ≤ k.tick)
  have hg (h : Grp) : grpOf (cancelCommits p1 g fun k => decide (m ≤ k.tick)) h = grpOf p1 h := grpOf_of_restOf hcan.rest h
  have hsame : grpOf p1 g = { grpOf p g with restartAt := none, stopGen := none } := hx ▸ grpOf_setGrp_same ..
  have hframe : GroupFrame p (cancelCommits p1 g fun k => decide (m ≤ k.tick)) := by
    subst hx
    exact (GroupFrame.of_restOf hcan.rest :)
  obtain ⟨hr, hs, htick, hc, hp⟩ := beginGroup_spec (cancelCommits p1 g fun k => decide (m ≤ k.tick)) g m
  refine ⟨hs, htick, hc.of_commits (by rw [hg, hsame]), hp, ?_, fun h hh => ?_, hframe.trans (GroupFrame.of_restOf hr :)⟩
  · rw [grpOf_of_restOf hr, laterOnly, grpOf_setGrp_same, hg, hsame]
  · rw [grpOf_of_restOf hr, grpOf_laterOnly_ne hh, hg, ← hx, grpOf_setGrp_ne _ hh]

/-- A stop whose tick has come (R141, R205). -/
theorem stopGroup_spec (ht : (grpOf p g).stopAt = some m) (hm : m ≤ p.time.tick) :
    reg (stopGroup p g) (G.lgState g) = 1 ∧
      grpOf (stopGroup p g) g =
        { grpOf p g with stopAt := none, stopGen := none, strobes := (grpOf p g).strobes.filter fun t => decide (t < m) } ∧
      (∀ h, h ≠ g → grpOf (stopGroup p g) h = grpOf p h) ∧
      (stopGroup p g).fab = { p.fab with producers := p.fab.producers ++ [pulseOf m (0xB10 + g)] } ∧
      (stopGroup p g).adm.plans = p.adm.plans.filter (fun a => !(decide (groupOf p a.chan = g) && decide (m ≤ a.tick))) ∧
      (stopGroup p g).adm.jobs = p.adm.jobs ∧ GroupFrame p (stopGroup p g) := by
  obtain ⟨resv, hs⟩ := stopGroup_moves ht hm
  have hadm := adm_of_restOf hs.rest
  refine ⟨(hs.regs _ (not_stopKey_lgState g)).trans (reg_setReg_same _ _ _), (grpOf_of_restOf hs.rest g).trans (grpOf_setGrp_same ..),
    fun h hh => (grpOf_of_restOf hs.rest h).trans (grpOf_setGrp_ne _ hh _), ?_, ?_, (congrArg AdmSt.jobs hadm :), (GroupFrame.of_restOf hs.rest :)⟩
  · rw [hs.fab, List.append_nil]
    rfl
  · refine (congrArg AdmSt.plans hadm).trans (List.filter_congr fun a _ => ?_)
    rw [groupOf_stopped]

/-- What the strobes that are due do (R207 to R209). -/
theorem strobeGroup_spec (hk : ∀ y ∈ (grpOf p g).commits, (keyChan y.2.1).isSome) :
    (∀ m ∈ strobesDue p g, Committed p (strobeGroup p g) g m) ∧
      reg (strobeGroup p g) (G.lgStrobes g) = (if strobesDue p g = [] then reg p (G.lgStrobes g)
        else (reg p (G.lgStrobes g) + (strobesDue p g).length) % 2 ^ regWidth (G.lgStrobes g)) ∧
      reg (strobeGroup p g) (G.lgStrobeAt g) = (if reg p (G.lgStrobeAt g) ≤ p.time.tick then 0 else reg p (G.lgStrobeAt g)) := by
  have hc : (grpOf (readied p g) g).commits = (grpOf p g).commits := by rw [grpOf_readied]
  have hm := strobeGroup_moves p g
  obtain ⟨left, -, hf⟩ := foldStrobes_moves g (strobesDue p g) (readied p g)
  have hne : G.lgStrobes g ≠ G.lgStrobeAt g := by unfold G.lgStrobes G.lgStrobeAt gkey; omega
  rw [hc] at hf
  refine ⟨fun m hd => .of_reg (fun x hx hle hu => ?_) fun k ho _ => hm.regs k ho, ?_, ?_⟩
  · exact reg_foldStrobes ((groupKey_lgStrobes g).ne_chanKey (hk x hx)) _ _ (hc ▸ hx) (hc ▸ hu) ⟨m, hd, hle⟩
  · have hr : reg (readied p g) (G.lgStrobes g) = reg p (G.lgStrobes g) := (readied_moves p g).regs _ hne
    rw [hm.regs _ (groupKey_lgStrobes g).not_outKey, lgStrobes_foldStrobes _ _ (hc ▸ hk), hr]
  · have hn : ¬ strobeKey g (grpOf p g).commits (G.lgStrobeAt g) := by
      rintro (⟨y, hy, he⟩ | he)
      · exact (groupKey_lgStrobeAt g).ne_chanKey (hk y hy) he
      · exact hne he.symm
    rw [hm.regs _ (groupKey_lgStrobeAt g).not_outKey, hf.regs _ hn]
    exact lgStrobeAt_readied p g

/-- What the strobes that are due leave, and what has pulsed (R207 to R209). -/
theorem strobeGroup_frame (p : Part) (g : Grp) :
    (strobeGroup p g).fab = { p.fab with producers := p.fab.producers ++ (strobesDue p g).map fun m => pulseOf m (0xB20 + g) } ∧
      (grpOf (strobeGroup p g) g).strobes = (grpOf p g).strobes.filter (fun t => decide (p.time.tick < t)) ∧
      (∀ h, h ≠ g → grpOf (strobeGroup p g) h = grpOf p h) ∧ (strobeGroup p g).adm = p.adm ∧ GroupFrame p (strobeGroup p g) := by
  obtain ⟨left, -, hf⟩ := foldStrobes_moves g (strobesDue p g) (readied p g)
  have hr := (readied_moves p g).setGrp g { grpOf (readied p g) g with commits := left }
  have hall := ((hr.mono (L := fun _ => True) fun _ _ => trivial).trans (hf.mono fun _ _ => trivial)).quiet
    ((strobeGroup_moves p g).mono fun _ _ => trivial)
  have hrest := hall.rest
  refine ⟨hall.fab, ?_, fun h hh => ?_, (adm_of_restOf hrest :), (GroupFrame.of_restOf hrest :)⟩
  · rw [grpOf_of_restOf hrest, grpOf_setGrp_same, grpOf_readied]
  · rw [grpOf_of_restOf hrest, grpOf_setGrp_ne _ hh, grpOf_setGrp_ne _ hh]

theorem strobeGroup_none (hd : strobesDue p g = []) :
    strobeGroup p g = readied p g := by
  unfold strobeGroup
  rw [hd]
  rfl

/-- Settles O43: a group's start, stop, restart and strobes act at their tick and idle before it; what they bring in is their frozen values. -/
theorem groupsMoveAtTheirTick : Obligations.GroupsMoveAtTheirTick := by
  unfold Obligations.GroupsMoveAtTheirTick
  intro s g hw p x k frame pulse come idle
  refine ⟨fun m hm => ?_, fun m hm => ?_, fun m hm => ?_, fun hn => ?_, fun hn => ?_, fun hn => ?_, ?_⟩
  · exact ⟨_, exec_next (exec_groupStart g s) hw rfl, startGroup_spec hm.1 hm.2⟩
  · exact ⟨_, exec_next (exec_groupStop g s) hw rfl, stopGroup_spec hm.1 hm.2⟩
  · exact ⟨_, exec_next (exec_groupRestart g s) hw rfl, restartGroup_spec hm.1 hm.2⟩
  · exact exec_next (exec_groupStart g s) hw (startGroup_idle hn)
  · exact exec_next (exec_groupStop g s) hw (stopGroup_idle hn)
  · exact exec_next (exec_groupRestart g s) hw (restartGroup_idle hn)
  · intro due left hk
    have hd : strobesDue p g = due := strobesDue_eq p g
    obtain ⟨hc, hn, ha⟩ := strobeGroup_spec hk
    obtain ⟨hf, hst, ho, hadm, hfr⟩ := strobeGroup_frame p g
    rw [hd] at hc hn hf
    refine ⟨_, exec_next (exec_loadStrobe g s) hw rfl, hc, hn, ha, hf, hst, ho, hadm, hfr, fun h0 => ?_⟩
    show SameRegs p (strobeGroup p g) _ ∧ (grpOf (strobeGroup p g) g).commits = _
    rw [strobeGroup_none (hd.trans h0), grpOf_readied]
    exact ⟨fun k hk => (readied_moves p g).regs k (by simpa using hk), rfl⟩

end Sys2Proof.Machine

end

section
/-!
SUPPORT. O13: a jump takes effect at a boundary (R166 to R168): the jumps of the old path and its reservation go, and the channel stands on the
Waypoint path.
-/

namespace Sys2Proof.Machine

theorem exec_jumpTakeEffect (c : Chan) (s : State) : exec (.jumpTakeEffect c) s = liftSeq (runJump c) s := by unfold exec; rfl

variable {p q r : Part} {c : Chan} {m n pc o : Nat} {j : Jump}

/-! ## Which jump acts -/

theorem firstJump_mem {l : List (Nat × Jump)} {e : Nat × Jump} (h : firstJump l = some e) : e ∈ l := by
  refine List.foldlRecOn l _ (motive := fun a => ∀ e, a = some e → e ∈ l) (fun _ h => by cases h) (fun a ha x hx e he => ?_) e h
  cases a with
  | none => cases he; exact hx
  | some b =>
    dsimp only at he
    split at he
    · cases he; exact hx
    · exact ha e he

/-- A jump that acts at a boundary is pending, and its J0 has been reached (R166). -/
theorem jumpAtBoundary_mem {seam : Bool} (h : jumpAtBoundary p c n seam = some j) : j ∈ pendingJumps p c ∧ j.j0 ≤ n := by
  obtain ⟨e, he, rfl⟩ := Option.map_eq_some_iff.mp h
  obtain ⟨x, hx, rfl⟩ := List.mem_map.mp (firstJump_mem he)
  obtain ⟨hpending, hacts⟩ := List.mem_filter.mp hx
  exact ⟨hpending, of_decide_eq_true (Bool.and_eq_true_iff.mp hacts).1⟩

/-- The command advances a channel that stands at a step to the jump that acts there (R166). -/
theorem runJump_atBoundary (h : StageOpen p) (ha : (seqOf p c).act = .run pc) (hn : (seqOf p c).at_ < 250 * (planTick p + 1))
    (hj : jumpAtBoundary p c (seqOf p c).at_ (seqOf p c).seam = some j) : runJump c p = takeJump p c (planTick p) (seqOf p c).at_ j := by
  obtain ⟨hpending, hreached⟩ := jumpAtBoundary_mem hj
  have hb : behind (seqOf p c) (planTick p) = true := by simpa [behind, ha] using hn
  have hany : ((pendingJumps p c).any fun j => decide (j.j0 < 250 * (planTick p + 1))) = true :=
    List.any_eq_true.mpr ⟨j, hpending, decide_eq_true (by omega)⟩
  rw [runJump, inStage_open h]
  refine (if_pos ⟨hb, hany⟩).trans ?_
  rw [advance, ha]
  dsimp only
  rw [advRun, advStep.eq_def]
  dsimp only
  rw [hj]

/-! ## What goes with the old path -/

/-- From p to q inputs have been emptied and JMP_DROPS of channel c has moved: nothing else has changed, and no input has been filled. -/
structure JumpsPassed (c : Chan) (p q : Part) : Prop where
  only    : q = { p with gz := { p.gz with regs := q.gz.regs }, fab := { p.fab with latches := q.fab.latches } }
  regs    : ∀ k, k ≠ G.jmpDrops c → reg q k = reg p k
  latches : ∀ k, latchAt p k = none → latchAt q k = none

/-- One pending jump at the jump that takes effect at n by input keep: that one's input is emptied, and the others whose J0 has been reached are
discarded and counted (R168). -/
def passJump (c : Chan) (n : Nat) (keep : Option Nat) (q : Part) (j : Jump) : Part :=
  if some j.input = keep then dropLatch q (chLatch c (8 + j.input))
  else if j.j0 ≤ n then addReg (dropLatch q (chLatch c (8 + j.input))) (G.jmpDrops c) 1
  else q

theorem dropJumpsTo_eq (p : Part) (c : Chan) (n : Nat) (keep : Option Nat) :
    dropJumpsTo p c n keep = (pendingJumps p c).foldl (passJump c n keep) p := rfl

theorem JumpsPassed.refl (c : Chan) (p : Part) : JumpsPassed c p p := ⟨rfl, fun _ _ => rfl, fun _ h => h⟩

theorem JumpsPassed.trans (h : JumpsPassed c p q) (g : JumpsPassed c q r) : JumpsPassed c p r := by
  refine ⟨?_, fun k hk => (g.regs k hk).trans (h.regs k hk), fun k hk => g.latches k (h.latches k hk)⟩
  rw [g.only]
  conv_lhs => rw [h.only]

theorem JumpsPassed.dropLatch (h : JumpsPassed c p q) (k : Nat) : JumpsPassed c p (dropLatch q k) := by
  refine h.trans ⟨rfl, fun _ _ => rfl, fun i hi => ?_⟩
  by_cases hk : i = k
  · rw [hk, latchAt_dropLatch_same]
  · rwa [latchAt_dropLatch_ne q hk]

theorem JumpsPassed.countDrop (h : JumpsPassed c p q) : JumpsPassed c p (addReg q (G.jmpDrops c) 1) :=
  h.trans ⟨rfl, fun _ hk => reg_setReg_ne q hk _, fun _ h => h⟩

theorem JumpsPassed.passJump (h : JumpsPassed c p q) (n : Nat) (keep : Option Nat) (j : Jump) : JumpsPassed c p (passJump c n keep q j) := by
  unfold Machine.passJump
  split_ifs
  · exact h.dropLatch _
  · exact (h.dropLatch _).countDrop
  · exact h

theorem passJumps_passed (c : Chan) (n : Nat) (keep : Option Nat) (l : List Jump) (p : Part) :
    JumpsPassed c p (l.foldl (passJump c n keep) p) :=
  List.foldlRecOn l _ (motive := JumpsPassed c p) (.refl c p) fun _ hq x _ => hq.passJump n keep x

theorem dropJumpsTo_passed (p : Part) (c : Chan) (n : Nat) (keep : Option Nat) : JumpsPassed c p (dropJumpsTo p c n keep) := passJumps_passed ..

/-- The input of the jump that takes effect is empty, whatever goes before and after it. -/
theorem latchAt_dropJumpsTo (hj : j ∈ pendingJumps p c) (n : Nat) :
    latchAt (dropJumpsTo p c n (some j.input)) (chLatch c (8 + j.input)) = none := by
  obtain ⟨before, after, hl⟩ := List.append_of_mem hj
  rw [dropJumpsTo_eq, hl, List.foldl_append, List.foldl_cons]
  refine (passJumps_passed ..).latches _ ?_
  rw [passJump, if_pos rfl, latchAt_dropLatch_same]

theorem JumpsPassed.waypoint (h : JumpsPassed c p q) (w : Nat) : waypoint q c w = waypoint p c w := by
  have hne : G.wpTable c ≠ G.jmpDrops c := fun h => absurd ((gkey_eq_iff ..).mp h) (by decide)
  have hplanned : planned q (G.wpTable c) = planned p (G.wpTable c) := by
    unfold planned
    rw [h.regs _ hne, h.only]
  rw [Machine.waypoint, hplanned, Machine.waypoint]

/-- The part in which the stage has acted on jump j at sample n, and the jumps and the reservation of the old path are gone (R168, R267). -/
def oldPathGone (p : Part) (c : Chan) (m n : Nat) (j : Jump) : Part :=
  endReservation (dropJumpsTo (addActed p c m j.gen) c n (some j.input)) c

theorem oldPathGone_spec (p : Part) (c : Chan) (m n : Nat) (j : Jump) :
    let q := oldPathGone p c m n j
    q = { addActed p c m j.gen with gz := { p.gz with regs := q.gz.regs }, strm := { p.strm with open_ := q.strm.open_ }
                                    fab := { p.fab with latches := q.fab.latches } } ∧
      (j ∈ pendingJumps p c → latchAt q (chLatch c (8 + j.input)) = none) := by
  have hjumps := dropJumpsTo_passed (addActed p c m j.gen) c n (some j.input)
  obtain ⟨r, ⟨hskipped, -⟩, hended⟩ := endReservation_frame (dropJumpsTo (addActed p c m j.gen) c n (some j.input)) c
  have hr : r.fab = (dropJumpsTo (addActed p c m j.gen) c n (some j.input)).fab := by rw [hskipped]
  dsimp only
  rw [oldPathGone, hended]
  refine ⟨?_, fun hj => ?_⟩
  · rw [hskipped, hjumps.only]; rfl
  · exact (latchAt_of_fab hr _).trans (latchAt_dropJumpsTo (p := addActed p c m j.gen) hj n)

/-! ## The Waypoint path -/

/-- The sequencer at sample n about to execute the step at offset o of a Waypoint path, both stacks empty (R157, R167). -/
def Seq.onPath (s : Seq) (n o : Nat) : Seq :=
  { s with at_ := n, act := .run o, fresh := false, seam := false, loops := [], calls := [], armed := none }

/-- A channel that plays nothing has no edges to cut. -/
theorem cutRest_run (ha : (seqOf p c).act = .run pc) (n : Nat) : cutRest p c m n = p := by
  have h : edgesLeft p c n = 0 := by rw [edgesLeft, ha]
  rw [cutRest, if_pos h]

/-- A channel at a step, outside an episode, leaves its path for offset o: its reservation ends (R157, R267). -/
theorem enterPath_run (ha : (seqOf p c).act = .run pc) (he : (seqOf p c).ep = none) (n o : Nat) :
    enterPath p c m n (some o) = setSeq (endReservation p c) c ((seqOf p c).onPath n o) := by
  have hseq : seqOf (endReservation p c) c = seqOf p c := by rw [seqOf, (endReservation_steady p c).2, seqOf]
  rw [enterPath, cutRest_run ha, endEpisode_none he, hseq]
  rfl

/-- The part in which jump j of channel c has taken effect at sample n: the channel stands on the Waypoint path at offset o, WAYPOINT pulses, and
JMP_LAST_AT and JMP_COUNT move with tick m (R167). -/
def jumpTaken (p : Part) (c : Chan) (m n o : Nat) (j : Jump) : Part :=
  addOp (addOp (addPulse (setSeq (oldPathGone p c m n j) c ((seqOf p c).onPath n o)) c m n (0x400 + c.val) 0) c m (.set (G.jmpLastAt c) n)) c m
    (.add (G.jmpCount c) 1)

/-- A jump takes effect in the planned tick at the boundary of a channel that stands at a step, outside an episode (R167). -/
theorem takeJump_run (ha : (seqOf p c).act = .run pc) (he : (seqOf p c).ep = none) (hn : n < 250 * (m + 1)) (hw : waypoint p c j.wp = some o) :
    takeJump p c m n j = jumpTaken p c m n o j := by
  have hjumps := dropJumpsTo_passed (addActed p c m j.gen) c n (some j.input)
  have hseq : seqOf (dropJumpsTo (addActed p c m j.gen) c n (some j.input)) c = seqOf p c := by rw [hjumps.only]; rfl
  rw [takeJump, actOn_here hn, jumpAt, hjumps.waypoint, show waypoint (addActed p c m j.gen) c j.wp = some o from hw,
    enterPath_run (by rw [hseq, ha]) (by rw [hseq, he]), hseq, jumpTaken, oldPathGone]

theorem seqOf_jumpTaken (p : Part) (c : Chan) (m n o : Nat) (j : Jump) : seqOf (jumpTaken p c m n o j) c = (seqOf p c).onPath n o := by
  rw [jumpTaken, seqOf_addOp, seqOf_addOp, seqOf_addPulse, seqOf_setSeq_same]

theorem planOf_jumpTaken (p : Part) (c : Chan) (m n o : Nat) (j : Jump) : planOf (jumpTaken p c m n o j) c m = { planOf p c m with
    acted := (planOf p c m).acted ++ [j.gen]
    pulses := (planOf p c m).pulses ++ [⟨n / 250, n % 250, 0x400 + c.val, 0⟩]
    ops := (planOf p c m).ops ++ [.set (G.jmpLastAt c) n, .add (G.jmpCount c) 1] } := by
  have hold : planOf (oldPathGone p c m n j) c m = planOf (addActed p c m j.gen) c m := by rw [(oldPathGone_spec p c m n j).1]; rfl
  rw [jumpTaken, planOf_addOp, planOf_addOp, planOf_addPulse, planOf_setSeq, hold, planOf_addActed]
  simp only [List.append_assoc, List.singleton_append]

/-- A jump leaves the other channels, memory and what has left the part. -/
theorem jumpTaken_frame (p : Part) (c : Chan) (m n o : Nat) (j : Jump) :
    (∀ d, d ≠ c → seqOf (jumpTaken p c m n o j) d = seqOf p d) ∧ (jumpTaken p c m n o j).mem = p.mem ∧ (jumpTaken p c m n o j).sent = p.sent := by
  have hold := (oldPathGone_spec p c m n j).1
  unfold jumpTaken
  generalize oldPathGone p c m n j = old at hold ⊢
  refine ⟨fun d hd => ?_, ?_, ?_⟩
  · rw [seqOf_addOp, seqOf_addOp, seqOf_addPulse, seqOf_setSeq_ne _ hd, hold]; rfl
  · rw [hold]; rfl
  · rw [hold]; rfl

theorem latchAt_jumpTaken (hj : j ∈ pendingJumps p c) (m n o : Nat) : latchAt (jumpTaken p c m n o j) (chLatch c (8 + j.input)) = none := by
  have hold := (oldPathGone_spec p c m n j).2 hj
  unfold jumpTaken
  generalize oldPathGone p c m n j = old at hold ⊢
  exact hold

/-- A command that moves one sequencer on, where no other stands still, answers the next state. -/
theorem liftSeq_moves {f : Part → Part} {s : State} (hw : awake s) (hm : OthersMove s.part c) (hq : f s.part = q)
    (ho : ∀ d, d ≠ c → seqOf q d = seqOf s.part d) (hc : ∀ pc w, (seqOf q c).act ≠ .stuck pc w) :
    liftSeq f s = .next { s with part := q } := by
  rw [liftSeq_next hw, hq]
  intro d pc w
  rw [hq]
  by_cases hd : d = c
  · exact hd ▸ hc pc w
  · exact ho d hd ▸ hm d hd pc w

/-- Settles O13: the jump that acts at the boundary is taken there; what it makes is said by the sequencer, the plan and the frame of jumpTaken. -/
theorem jumpsTakeEffectAtTheBoundary : Obligations.JumpsTakeEffectAtTheBoundary := by
  unfold Obligations.JumpsTakeEffectAtTheBoundary
  intro s c pc o j hw h ha hn he hm hj hwp
  have hseq := seqOf_jumpTaken s.part c (planTick s.part) (seqOf s.part c).at_ o j
  have hplan := planOf_jumpTaken s.part c (planTick s.part) (seqOf s.part c).at_ o j
  obtain ⟨hothers, hmem, hsent⟩ := jumpTaken_frame s.part c (planTick s.part) (seqOf s.part c).at_ o j
  have hlatch := latchAt_jumpTaken (jumpAtBoundary_mem hj).1 (planTick s.part) (seqOf s.part c).at_ o
  have hrun := (runJump_atBoundary h ha hn hj).trans (takeJump_run ha he hn hwp)
  refine ⟨_, (exec_jumpTakeEffect c s).trans (liftSeq_moves hw hm hrun hothers fun _ _ => ?_), ?_⟩ <;> rw [hseq]
  · nofun
  · rw [hplan]
    exact ⟨rfl, rfl, rfl, rfl, rfl, rfl, rfl, rfl, rfl, rfl, hlatch, hothers, hmem, hsent⟩

end Sys2Proof.Machine
end

section
/-!
SUPPORT. O14: the pulse of the next lead and of a retraction (R177, R178). Both commands change one sequencer, count, and assert one producer.
-/

namespace Sys2Proof.Machine

theorem exec_leadPulse (c : Chan) (s : State) : exec (.leadPulse c) s = lift (pulseLead c) s := by unfold exec; rfl
theorem exec_retract (c : Chan) (s : State) : exec (.retract c) s = lift (pulseRetract c) s := by unfold exec; rfl

variable {p r : Part} {c : Chan} {x : Lead} {n gen : Nat}

/-- The place that the next lead of channel c takes: none of another lead while fewer than 8 are unresolved or resolved before it, else the
earliest instant at which one has resolved (R177). -/
def placeFreed (p : Part) (c : Chan) : Option Nat :=
  if (seqOf p c).freed.length + openLeads p c < 8 then none else (seqOf p c).freed.min?

/-- The sample at which lead x pulses: its own instant, or that of the place it has to wait for (R177). -/
def leadInstant (p : Part) (c : Chan) (x : Lead) : Nat := max x.at_ ((placeFreed p c).getD 0)

/-- The sequencer in which lead x has pulsed and stays open, in the place that has become free. -/
def Seq.leadOpened (s : Seq) (x : Lead) (free : Option Nat) : Seq :=
  { s with leads := swapOut x [{ x with pulsed := true }] s.leads
           freed := match free with
             | some t => s.freed.erase t
             | none => s.freed }

/-- A pulse of a lead is counted, and a late one counted as such (LEAD_COUNT, LEAD_LATE). -/
def countLead (p : Part) (c : Chan) (late : Prop) [Decidable late] : Part :=
  if late then addReg (addReg p (G.leadCount c) 1) (G.leadLate c) 1 else addReg p (G.leadCount c) 1

section
variable (p : Part) (c : Chan) (late : Prop) [Decidable late]

theorem leadCount_ne_leadLate : G.leadCount c ≠ G.leadLate c := fun h => absurd ((gkey_eq_iff ..).mp h) (by decide)

theorem leadCount_countLead : reg (countLead p c late) (G.leadCount c) = (reg p (G.leadCount c) + 1) % 2 ^ regWidth (G.leadCount c) := by
  unfold countLead
  split
  · rw [reg_addReg, if_neg (leadCount_ne_leadLate c), reg_addReg, if_pos rfl]
  · rw [reg_addReg, if_pos rfl]

theorem leadLate_countLead : reg (countLead p c late) (G.leadLate c) =
    if late then (reg p (G.leadLate c) + 1) % 2 ^ regWidth (G.leadLate c) else reg p (G.leadLate c) := by
  have hne := (leadCount_ne_leadLate c).symm
  unfold countLead
  split
  · rw [reg_addReg, if_pos rfl, reg_addReg, if_neg hne]
  · rw [reg_addReg, if_neg hne]

theorem countLead_onlyRegs : OnlyRegs p (countLead p c late) [G.leadCount c, G.leadLate c] := by
  have hcount : OnlyRegs p (addReg p (G.leadCount c) 1) [G.leadCount c, G.leadLate c] := (OnlyRegs.refl p _).setReg (by simp) _
  unfold countLead
  split
  · exact hcount.setReg (by simp) _
  · exact hcount

end

/-- The next lead pulses at its instant, before its step begins and while the core domain runs, and stays open (R177). -/
theorem pulseLead_due (hx : nextLead (seqOf p c).leads = some x) (ho : openLeads p c < 8) (hd : x.doom = none) (hs : p.time.tick < x.start / 250)
    (hn : leadInstant p c x / 250 ≤ p.time.tick) (hc : reg p G.clockState ≠ 2) :
    pulseLead c p = raiseAt (countLead (setSeq p c ((seqOf p c).leadOpened x (placeFreed p c))) c (x.late = true ∨ x.at_ < leadInstant p c x))
      (leadInstant p c x / 250) (leadInstant p c x % 250) (0x200 + c.val) x.gen := by
  have hgo : ¬ (p.time.tick < leadInstant p c x / 250 ∨ 8 ≤ openLeads p c ∨ coreStopped p = true) := by
    simp only [coreStopped, decide_eq_true_eq]
    omega
  have hopen : decide (x.start / 250 ≤ p.time.tick) = false := decide_eq_false hs.not_ge
  unfold pulseLead Seq.leadOpened
  extract_lets s
  rw [show nextLead s.leads = some x from hx]
  refine (if_neg hgo).trans ?_
  rw [hopen, hd]
  rfl

/-- The first retraction asserts RETRACT at its instant where the Graticule is aligned, and resolves (R22, R178). -/
theorem pulseRetract_due {l : List (Nat × Nat)} (hr : (seqOf p c).retr = (n, gen) :: l) (hn : n / 250 ≤ p.time.tick)
    (hc : reg p G.clockState = 0) :
    pulseRetract c p = raiseAt (addReg (setSeq p c { seqOf p c with retr := l, freed := (seqOf p c).freed ++ [n] }) (G.retractCount c) 1)
      (n / 250) (n % 250) (0x300 + c.val) gen := by
  unfold pulseRetract
  dsimp only
  rw [hr]
  exact if_neg (by omega)

/-- A sequencer changed, values counted and a producer asserted: what that leaves. -/
theorem seqAsserted_spec {y : Seq} {l : List Nat} (h : OnlyRegs (setSeq p c y) r l) (src : Nat) :
    let q := raiseAt r (n / 250) (n % 250) src gen
    seqOf q c = y ∧ SameRegs p q l ∧ q.fab.producers = p.fab.producers ++ [⟨25 * (n / 250) + n % 250 / 10, ⟨n / 250, n % 250, src, gen⟩⟩] ∧
      q = { p with gz := { p.gz with regs := q.gz.regs }, fab := { p.fab with producers := q.fab.producers }, seqs := q.seqs } ∧
      ∀ d, d ≠ c → seqOf q d = seqOf p d := by
  obtain ⟨honly, hregs⟩ := h
  have hseqs : ∀ d, seqOf r d = seqOf (setSeq p c y) d := fun d => by rw [honly]; rfl
  refine ⟨(hseqs c).trans (seqOf_setSeq_same ..), hregs, ?_, ?_, fun d hd => (hseqs d).trans (seqOf_setSeq_ne _ hd _)⟩
  · rw [raiseAt_producers, honly]; rfl
  · rw [honly]; rfl

/-- Settles O14: the due lead and the due retraction are each one change of the sequencer, its counts and one assertion. -/
theorem leadsPulseAndRetract : Obligations.LeadsPulseAndRetract := by
  unfold Obligations.LeadsPulseAndRetract
  intro s c hw
  refine ⟨fun x hx ho hd hs => ?_, fun n gen l hr hn hc => ?_⟩
  · intro freed free n hn hc
    obtain ⟨hseq, hsame, hproducers, hframe, hothers⟩ := seqAsserted_spec (n := n) (gen := x.gen)
      (countLead_onlyRegs (setSeq s.part c ((seqOf s.part c).leadOpened x free)) c (x.late = true ∨ x.at_ < n)) (0x200 + c.val)
    exact ⟨_, exec_next (exec_leadPulse c s) hw (pulseLead_due hx ho hd hs hn hc), hseq, leadCount_countLead .., leadLate_countLead .., hsame,
      hproducers, hframe, hothers⟩
  · obtain ⟨hseq, hsame, hproducers, hframe, hothers⟩ := seqAsserted_spec (n := n) (gen := gen)
      ((OnlyRegs.refl (setSeq s.part c { seqOf s.part c with retr := l, freed := (seqOf s.part c).freed ++ [n] }) _).setReg
        (List.mem_singleton_self (G.retractCount c)) _) (0x300 + c.val)
    exact ⟨_, exec_next (exec_retract c s) hw (pulseRetract_due hr hn hc), hseq, reg_setReg_same .., hsame, hproducers, hframe, hothers⟩

end Sys2Proof.Machine
end

section
/-!
SUPPORT. The tone gate (R198): a pulse at its input is taken once its J0 lies before the end of the tick that is planned.
-/

namespace Sys2Proof.Machine

theorem exec_toneGateMute (c : Chan) (s : State) : exec (.toneGateMute c) s = lift (gateNow c 16) s := by unfold exec; rfl
theorem exec_toneGateUnmute (c : Chan) (s : State) : exec (.toneGateUnmute c) s = lift (gateNow c 17) s := by unfold exec; rfl

variable {p : Part} {c : Chan} {l : Latch} {i j k m : Nat}

/-- J0 of a pulse, with the anchor chosen by a condition (R164). -/
theorem actionInstant_decide (u : Pulse) (delay : Nat) (a : Prop) [Decidable a] :
    actionInstant u delay a = 250 * (u.tick + 3) + (if a then u.off else 0) + delay := by
  unfold actionInstant
  simp only [decide_eq_true_eq]

/-- The pulse at key k is taken, and datapath commit e stands in the plan of tick m at sample n and at its rank. -/
def latchCommits (p : Part) (c : Chan) (k m rank n : Nat) (e : Eff) : Part := addEff (dropLatch p k) c m rank n e

/-- A pulse of the gate that may be acted on and whose J0 comes before the end of tick m is taken: MUTE last, UNMUTE before it (R198, Table 01-4). -/
theorem gateInput_due (hl : latchAt p (chLatch c i) = some l) (hq : l.pulse.tick + 3 ≤ m)
    (hj : actionInstant l.pulse (planned p (G.gateDelay c)) (planned p (G.gateAnchor c) = 1) = j) (hjm : j < 250 * (m + 1)) :
    gateInput c m p i = if i = 16 then latchCommits p c (chLatch c i) m 7 (max j (250 * m)) (.mute (planned p (G.gateMask c) % 16))
      else latchCommits p c (chLatch c i) m 6 (max j (250 * m)) (.unmute (planned p (G.gateMask c) % 16)) := by
  unfold gateInput
  rw [hl]
  dsimp only
  rw [hj, if_pos ⟨decide_eq_true hq, hjm⟩]
  rfl

/-- Where the group runs, a gate command takes the pulse at its input. -/
theorem gateNow_runs (ho : StageOpen p) (hr : runsIn p (grp (planned p (G.loadGroup c))) (planTick p) = true) :
    gateNow c i p = gateInput c (planTick p) p i :=
  (inStage_open ho).trans (if_pos hr)

/-- A taken latch is the only one that has become empty, and its commit the only one placed. -/
theorem latchCommits_spec (p : Part) (c : Chan) (k m rank n : Nat) (e : Eff) :
    let q := latchCommits p c k m rank n e
    (∀ i, latchAt q i = if i = k then none else latchAt p i) ∧
      planOf q c m = { planOf p c m with effs := insertEff ⟨n, rank, e⟩ (planOf p c m).effs } ∧
      (∀ i, i ≠ m → planOf q c i = planOf p c i) ∧ (∀ d, d ≠ c → ∀ i, planOf q d i = planOf p d i) ∧
      q = { p with fab := { p.fab with latches := q.fab.latches }, plans := q.plans } := by
  refine ⟨fun i => ?_, planOf_addEff .., fun i hi => ?_, fun d hd i => planOf_putPlan_chan _ hd i, rfl⟩
  · show latchAt (dropLatch p k) i = _
    split
    next h => rw [h, latchAt_dropLatch_same]
    next h => exact latchAt_dropLatch_ne p h
  · exact planOf_putPlan_tick _ (by rw [planOf_tick]; exact hi)

end Sys2Proof.Machine
end

section
/-!
SUPPORT. The paced queues (R200 to R202): what a push and a flush put into a queue, and what an instant takes from it.
-/

namespace Sys2Proof.Machine

theorem exec_pacedPush (path : Path) (c : Chan) (e : Nat) (s : State) :
    exec (.pacedPush path c e) s = lift (fun p => commandWrite p path (0x2600 + c.val) 0x09 e) s := by unfold exec; rfl
theorem exec_pacedFlush (path : Path) (c : Chan) (v : Nat) (s : State) :
    exec (.pacedFlush path c v) s = lift (fun p => commandWrite p path (0x2600 + c.val) 0x0D v) s := by unfold exec; rfl
theorem exec_pacedApply (c : Chan) (s : State) :
    exec (.pacedApply c) s = lift (inStage fun p => pacedTick p c (planTick p)) s := by unfold exec; rfl

variable {p q : Part} {path : Path} {c : Chan} {e n : Nat} {r w : List Nat} {l : Latch}

/-! ## PACED_PUSH and PACED_FLUSH -/

/-- Channel c's paced queue holds w. -/
def holdsPaced (p : Part) (c : Nat) (w : List Nat) : Part := { p with paced := kset (fun _ => []) p.paced c w }

@[simp] theorem pacedQueue_holdsPaced (p : Part) (c : Nat) (w : List Nat) : pacedQueue (holdsPaced p c w) c = w := kget_kset_same ..

theorem pacedQueue_holdsPaced_ne {c d : Nat} (h : d ≠ c) (p : Part) (w : List Nat) : pacedQueue (holdsPaced p c w) d = pacedQueue p d :=
  kget_kset_ne _ _ h _

/-- Channel c's paced queue holds w, and PACED_FILL counts it. -/
def fillPaced (p : Part) (c : Nat) (w : List Nat) : Part := setReg (holdsPaced p c w) (G.pacedFill c) w.length

/-- PACED_PUSH (Table 08-11). -/
def entryPacedPush : Entry := ⟨9, 9, 1, .u64, .wo, .live, 0, .none, false, false, .any, .cmd⟩
/-- PACED_FLUSH (Table 08-11). -/
def entryPacedFlush : Entry := ⟨13, 13, 1, .bool, .wo, .live, 0, .none, false, false, .any, .cmd⟩

theorem lookup_pacedPush (c : Chan) : lookup (0x2600 + c.val) 0x09 = .entry entryPacedPush 0x09 :=
  lookup_of (by omega) (entriesAt_2600 (by omega) (by omega)) rfl
theorem lookup_pacedFlush (c : Chan) : lookup (0x2600 + c.val) 0x0D = .entry entryPacedFlush 0x0D :=
  lookup_of (by omega) (entriesAt_2600 (by omega) (by omega)) rfl

/-- An entry that makes a datapath commit is of one of the six kinds of Table 08-5. -/
theorem kind_of_pacedEff (h : (pacedEff e).isSome) : bits e 63 60 ≤ 5 := by
  unfold pacedEff at h
  dsimp only at h
  split at h
  case h_7 => exact absurd h Bool.false_ne_true
  all_goals omega

/-- Entry e makes a commit, of a kind that PACED_KINDS of channel c allows, and sets no bit that its kind leaves unused (R200, Table 08-5). -/
def AllowsPaced (p : Part) (c e : Nat) : Prop :=
  (pacedEff e).isSome ∧ regBit p (G.pacedKinds c) (bits e 63 60) = true ∧
    bits e 59 0 &&& [0xFFFF, 0x300FFFFFFFFFFFF, 0x30000000000FFFF, 0x3000000FFFFFFFF, 0xFFFFFFFF, 0xFFFFFFFF].getD (bits e 63 60) 0 = bits e 59 0

theorem AllowsPaced.cleared {c : Nat} (h : AllowsPaced p c e) (path : Path) (k : Nat) : AllowsPaced (cleared p path k) c e := by
  obtain ⟨heff, hkind, hbits⟩ := h
  refine ⟨heff, ?_, hbits⟩
  rw [regBit, cleared_reg p path k (by unfold G.pacedKinds gkey; omega)]
  exact hkind

/-- An allowed entry is appended to a queue that has room for it (R200). -/
theorem pushPaced_allowed {c : Nat} (h : AllowsPaced p c e) (hr : (pacedQueue p c).length < 1024) :
    pushPaced p c e = (fillPaced p c (pacedQueue p c ++ [e]), 0) := by
  obtain ⟨heff, hkind, hbits⟩ := h
  unfold pushPaced
  extract_lets kind allowed l
  have hn : ¬ (5 < kind ∨ !regBit p (G.pacedKinds c) kind ∨ bits e 59 0 &&& allowed.getD kind 0 ≠ bits e 59 0) := by
    rintro (h | h | h)
    · exact absurd (kind_of_pacedEff heff) (Nat.not_le.mpr h)
    · rw [hkind] at h
      cases h
    · exact h hbits
  rw [if_neg hn, if_neg (Nat.not_le.mpr hr), fillPaced, List.length_append]
  rfl

theorem pacedQueue_cleared (p : Part) (path : Path) (k c : Nat) : pacedQueue (cleared p path k) c = pacedQueue p c := by
  rw [cleared_onlyGz p path k]
  rfl

/-- A taken push of an allowed entry appends it (R200). -/
theorem write_pacedPush (ht : Takes p path (G.pacedPush c) e) (h : AllowsPaced p c e) (hr : (pacedQueue p c).length < 1024) :
    commandWrite p path (0x2600 + c.val) 0x09 e = tell (fillPaced (cleared p path (G.pacedPush c)) c (pacedQueue p c ++ [e])) path 0 := by
  refine commandWrite_takes (e := entryPacedPush) (by decide) (lookup_pacedPush c) rfl nofun ?_ ht ((effect_pacedPush c).trans ?_) (jobs_of_adm rfl)
  · unfold gkey G.bpCommit gkey
    omega
  · rw [← pacedQueue_cleared p path (G.pacedPush c)] at hr ⊢
    exact pushPaced_allowed (h.cleared path _) hr

/-- A taken flush empties the queue (R202). -/
theorem write_pacedFlush (ht : Takes p path (G.pacedFlush c) 1) :
    commandWrite p path (0x2600 + c.val) 0x0D 1 = tell (fillPaced (cleared p path (G.pacedFlush c)) c []) path 0 := by
  refine commandWrite_takes (e := entryPacedFlush) (by decide) (lookup_pacedFlush c) rfl nofun ?_ ht
    ((effect_pacedFlush c).trans (onTrue_one _)) (jobs_of_adm rfl)
  unfold gkey G.bpCommit gkey
  omega

/-- What a queue that is written to leaves as it was. -/
theorem fillPaced_cleared (p : Part) (path : Path) (k c : Nat) (w : List Nat) :
    let q := fillPaced (cleared p path k) c w
    pacedQueue q c = w ∧ reg q (G.pacedFill c) = w.length ∧ (∀ d, d ≠ c → pacedQueue q d = pacedQueue p d) ∧
      SameRegs (cleared p path k) q [G.pacedFill c] ∧ q.seqs = p.seqs ∧ q.plans = p.plans ∧ q.mem = p.mem := by
  refine ⟨pacedQueue_holdsPaced .., reg_setReg_same .., fun d hd => ?_, ?_, ?_⟩
  · exact (pacedQueue_holdsPaced_ne hd _ w).trans (pacedQueue_cleared ..)
  · exact SameRegs.setReg (q := holdsPaced (cleared p path k) c w) (fun _ _ => rfl) (List.mem_singleton_self _) _
  · show (cleared p path k).seqs = _ ∧ (cleared p path k).plans = _ ∧ (cleared p path k).mem = _
    rw [cleared_onlyGz p path k]
    exact ⟨rfl, rfl, rfl⟩

/-! ## An instant of a queue -/

/-- The datapath commit of a paced entry is placed at sample n, and a tone commit counted (R201, R202). -/
def commitPaced (p : Part) (c : Chan) (m n e : Nat) : Part :=
  match pacedEff e with
  | some f =>
    let q := addEff p c m 5 n f
    match f with
    | .tone _ _ _ => addOp q c m (.add (G.toneCommits c) 1)
    | _ => q
  | none => p

/-- A queue with a head applies and removes it, counts that, and pulses where nothing is left (R201, R202). -/
theorem pacedInstant_head (m : Nat) (h : pacedQueue p c = e :: r) :
    pacedInstant p c m n =
      (let q := addOp (addOp (commitPaced (holdsPaced p c r) c m n e) c m (.add (G.pacedApplied c) 1)) c m (.set (G.pacedFill c) r.length)
       if r.isEmpty then addPulse q c m n (0xE00 + c.val) 0 else q) := by
  unfold pacedInstant
  rw [h]
  rfl

/-- An instant that finds the queue empty is counted (R202). -/
theorem pacedInstant_starves (m : Nat) (h : pacedQueue p c = []) : pacedInstant p c m n = addOp p c m (.add (G.pacedStarved c) 1) := by
  unfold pacedInstant
  rw [h]

theorem commitPaced_adds (p : Part) (c : Chan) (n e : Nat) :
    ∃ o, StepAdds p (commitPaced p c (planTick p) n e) c o ((pacedEff e).toList.map fun f => ⟨n, 5, f⟩) [] := by
  unfold commitPaced
  split
  next f hf =>
    rw [hf]
    have hadd := (StepAdds.refl p c).addEff 5 n f
    dsimp only
    split
    · exact ⟨_, hadd.addOp _⟩
    · exact ⟨_, hadd⟩
  next hf =>
    rw [hf]
    exact ⟨_, .refl p c⟩

/-- What the instant of a queue with a head adds to the plan of its channel. -/
theorem pacedInstant_adds (h : pacedQueue p c = e :: r) :
    ∃ o u, StepAdds (holdsPaced p c r) (pacedInstant p c (planTick p) n) c (o ++ [.add (G.pacedApplied c) 1] ++ [.set (G.pacedFill c) r.length])
      ((pacedEff e).toList.map fun f => ⟨n, 5, f⟩) u := by
  obtain ⟨o, ho⟩ := commitPaced_adds (holdsPaced p c r) c n e
  have hadd := (ho.addOp (.add (G.pacedApplied c) 1)).addOp (.set (G.pacedFill c) r.length)
  rw [pacedInstant_head (planTick p) h]
  dsimp only
  split
  · exact ⟨_, _, hadd.addPulse _ _ _⟩
  · exact ⟨_, _, hadd⟩

/-- Between p and q only a paced queue, and the sequencer and plans of channel c, have changed. -/
def PacedMoves (p q : Part) (c : Chan) : Prop := ∃ w, OnlyChan { p with paced := w } q c

/-- Whatever a queue holds, its instant moves the queue and the plans of its channel alone. -/
theorem pacedInstant_moves (p : Part) (c : Chan) (n : Nat) : PacedMoves p (pacedInstant p c (planTick p) n) c := by
  cases h : pacedQueue p c with
  | nil =>
    rw [pacedInstant_starves (planTick p) h]
    exact ⟨p.paced, ((StepAdds.refl p c).addOp _).1⟩
  | cons e r =>
    obtain ⟨o, u, ha⟩ := pacedInstant_adds (n := n) h
    exact ⟨_, ha.1⟩

theorem PacedMoves.frame (h : PacedMoves p q c) : q.gz = p.gz ∧ q.mem = p.mem ∧ q.fab = p.fab ∧
    ∀ d, d ≠ c → seqOf q d = seqOf p d ∧ ∀ k, planOf q d k = planOf p d k := by
  obtain ⟨w, hq, hd⟩ := h
  refine ⟨?_, ?_, ?_, hd⟩ <;> rw [hq]

/-- An instant of a queue with a head, as PACED_APPLY tells it. -/
theorem pacedInstant_applies {f : Eff} (h : pacedQueue p c = e :: r) (hf : pacedEff e = some f) :
    let q := pacedInstant p c (planTick p) n
    pacedQueue q c = r ∧ (planOf q c (planTick p)).effs = insertEff ⟨n, 5, f⟩ (planOf p c (planTick p)).effs ∧
      RegOp.add (G.pacedApplied c) 1 ∈ (planOf q c (planTick p)).ops ∧ RegOp.set (G.pacedFill c) r.length ∈ (planOf q c (planTick p)).ops := by
  obtain ⟨o, u, ⟨honly, -⟩, -, hplan⟩ := pacedInstant_adds (n := n) h
  have hplan : planOf (pacedInstant p c (planTick p) n) c (planTick p) = _ := hplan
  have hqueue : pacedQueue (pacedInstant p c (planTick p) n) c = pacedQueue (holdsPaced p c r) c := by rw [pacedQueue, honly]; rfl
  rw [hf] at hplan
  exact ⟨hqueue.trans (pacedQueue_holdsPaced ..), congrArg TickPlan.effs hplan, by rw [hplan]; simp, by rw [hplan]; simp⟩

/-- An instant of an empty queue, as PACED_APPLY tells it. -/
theorem pacedInstant_counts (m : Nat) (h : pacedQueue p c = []) :
    let q := pacedInstant p c m n
    q.paced = p.paced ∧ (planOf q c m).effs = (planOf p c m).effs ∧ (planOf q c m).ops = (planOf p c m).ops ++ [.add (G.pacedStarved c) 1] := by
  dsimp only
  rw [pacedInstant_starves m h, planOf_addOp]
  exact ⟨rfl, rfl, rfl⟩

/-! ## The instants of a tick -/

/-- The instants of channel c up to the end of tick m have been decided. -/
def pacedDecided (p : Part) (c : Chan) (m : Nat) : Part := setSeq p c { seqOf p c with paced := 250 * (m + 1) }

theorem pacedDecided_seqOf_ne {d : Chan} (h : d ≠ c) (p : Part) (m : Nat) : seqOf (pacedDecided p c m) d = seqOf p d := seqOf_setSeq_ne _ h _

variable {m : Nat}

/-- A running queue whose instants are decided up to tick m at most has those of tick m to decide. -/
theorem pacedOpen (hr : runsIn p (grp (planned p (G.loadGroup c))) m = true) (hp : (seqOf p c).paced ≤ 250 * m) :
    ¬ ((!runsIn p (grp (planned p (G.loadGroup c))) m) = true ∨ 250 * (m + 1) ≤ (seqOf p c).paced) := by
  rw [hr]
  simp only [Bool.not_true, Bool.false_eq_true, false_or]
  omega

/-- The one instant that an event-driven queue has in tick m is that of the pulse at ADVANCE (R201). -/
theorem pacedTick_event (hr : runsIn p (grp (planned p (G.loadGroup c))) m = true) (hp : (seqOf p c).paced ≤ 250 * m)
    (hmode : planned p (G.pacedMode c) = 2) (hl : latchAt p (chLatch c 19) = some l) (hq : l.pulse.tick + 3 ≤ m) {j : Nat}
    (hj : actionInstant l.pulse (planned p (G.pacedDelay c)) (planned p (G.pacedAnchor c) = 1) = j) (hjm : j < 250 * (m + 1)) :
    pacedTick p c m = pacedInstant (dropLatch (pacedDecided p c m) (chLatch c 19)) c m (max j (250 * m)) := by
  unfold pacedTick
  dsimp only
  rw [if_neg (pacedOpen hr hp), if_neg (by omega), if_pos hmode]
  split
  next h => cases h.symm.trans hl
  next x h =>
    obtain rfl : x = l := Option.some.inj (h.symm.trans hl)
    rw [Nat.max_eq_right hp, ← hj, if_pos ⟨decide_eq_true hq, hj.symm ▸ hjm⟩]
    rfl

/-- The instants of a timed queue in tick m are those of its grid (R201). -/
theorem pacedTick_timed (hr : runsIn p (grp (planned p (G.loadGroup c))) m = true) (hp : (seqOf p c).paced ≤ 250 * m)
    (hmode : planned p (G.pacedMode c) = 1)
    (hn : gridInstants (250 * (if planned p (G.pacedStart c) = 0 then (seqOf p c).m0 else planned p (G.pacedStart c)))
      (max 1 (planned p (G.pacedInterval c) * (if planned p (G.pacedUnit c) = 0 then 250 else 10))) (250 * m) (250 * (m + 1)) = [n]) :
    pacedTick p c m = pacedInstant (pacedDecided p c m) c m n := by
  unfold pacedTick
  dsimp only
  rw [if_neg (pacedOpen hr hp), if_pos hmode, Nat.max_eq_right hp]
  exact congrArg (List.foldl (fun q n => pacedInstant q c m n) (pacedDecided p c m)) hn

/-- Settles O41: a taken gate pulse is one latch and one commit, a taken push or flush one queue, and an instant one head or one count. -/
theorem tonesAreGatedAndPaced : Obligations.TonesAreGatedAndPaced := by
  unfold Obligations.TonesAreGatedAndPaced
  intro s c hw p m runs gated
  refine ⟨fun ⟨ho, hr⟩ => ⟨fun l hl hq => ?_, fun l hl hq => ?_⟩, fun path e ht hk ha hm hroom => ?_, fun path ht => ?_,
    fun l ⟨ho, hr⟩ hp hmode hl hq => ?_, fun n e r f ⟨ho, hr⟩ hp hmode hn he hf => ?_⟩
  · intro j hj
    have hgate := gateInput_due hl hq (actionInstant_decide ..) hj
    exact ⟨_, exec_next (exec_toneGateMute c s) hw ((gateNow_runs ho hr).trans hgate), latchCommits_spec ..⟩
  · intro j hj
    have hgate := gateInput_due hl hq (actionInstant_decide ..) hj
    exact ⟨_, exec_next (exec_toneGateUnmute c s) hw ((gateNow_runs ho hr).trans hgate), latchCommits_spec ..⟩
  · obtain ⟨hqueue, hfill, hspec⟩ := fillPaced_cleared p path (G.pacedPush c) c (pacedQueue p c ++ [e])
    exact ⟨_, exec_next (exec_pacedPush path c e s) hw (write_pacedPush ht ⟨hk, ha, hm⟩ hroom), hqueue, hfill.trans List.length_append, hspec⟩
  · exact ⟨_, exec_next (exec_pacedFlush path c 1 s) hw (write_pacedFlush ht), fillPaced_cleared ..⟩
  · intro j hj
    have htick := pacedTick_event hr hp hmode hl hq (actionInstant_decide ..) hj
    obtain ⟨hgz, hmem, hfab, hothers⟩ := (pacedInstant_moves (dropLatch (pacedDecided p c m) (chLatch c 19)) c (max j (250 * m))).frame
    exact ⟨_, exec_next (exec_pacedApply c s) hw ((inStage_open ho).trans htick), (latchAt_of_fab hfab _).trans (latchAt_dropLatch_same ..),
      fun e r f he hf => pacedInstant_applies (p := dropLatch (pacedDecided p c m) (chLatch c 19)) he hf,
      fun he => pacedInstant_counts (p := dropLatch (pacedDecided p c m) (chLatch c 19)) m he, hgz, hmem,
      fun d hd => ⟨(hothers d hd).1.trans (pacedDecided_seqOf_ne hd p m), (hothers d hd).2⟩⟩
  · have htick := pacedTick_timed hr hp hmode hn
    obtain ⟨hgz, hmem, hfab, -⟩ := (pacedInstant_moves (pacedDecided p c m) c n).frame
    obtain ⟨hqueue, heffs, happlied, hfill⟩ := pacedInstant_applies (p := pacedDecided p c m) (n := n) he hf
    exact ⟨_, exec_next (exec_pacedApply c s) hw ((inStage_open ho).trans htick), hqueue, heffs, happlied, hfill, hfab, hgz, hmem⟩

end Sys2Proof.Machine
end

section
/-!
SUPPORT. Commands for load groups (R205, R206, R208, R162) on the part as their write finds it: the entries behind them, what the staging buffer does
not change for them, and snapshots that wait for a verdict (R306).
-/

namespace Sys2Proof.Machine

theorem exec_arm (path : Path) (g : Grp) (s : State) : exec (.arm path g) s = lift (writeGroup g path 1) s := by unfold exec; rfl
theorem exec_start (path : Path) (g : Grp) (s : State) : exec (.start path g) s = lift (writeGroup g path 2) s := by unfold exec; rfl
theorem exec_stop (path : Path) (g : Grp) (s : State) : exec (.stop path g) s = lift (writeGroup g path 3) s := by unfold exec; rfl
theorem exec_restart (path : Path) (g : Grp) (s : State) : exec (.restart path g) s = lift (writeGroup g path 4) s := by unfold exec; rfl
theorem exec_strobe (path : Path) (g : Grp) (s : State) : exec (.strobe path g) s = lift (writeGroup g path 5) s := by unfold exec; rfl
theorem exec_disarm (path : Path) (g : Grp) (s : State) : exec (.disarm path g) s = lift (writeGroup g path 6) s := by unfold exec; rfl
theorem exec_lgStrobeAt (path : Path) (g : Grp) (t : Nat) (s : State) :
    exec (.lgStrobeAt path g t) s = lift (fun p => commandWrite p path (0x1A00 + g.val) 0x03 t) s := by unfold exec; rfl
theorem exec_planGo (path : Path) (c : Chan) (v : Nat) (s : State) :
    exec (.planGo path c v) s = lift (fun p => commandWrite p path (0x2300 + c.val) 0x53 v) s := by unfold exec; rfl

variable {p q : Part} {path : Path} {g : Grp} {c : Chan} {v cmd group ch t k : Nat} {l : List Nat}

/-! ## What a write finds -/

/-- The sequencers, memory, plans, clock and datapaths are as they were. -/
def PathsStand (p q : Part) : Prop := q.seqs = p.seqs ∧ q.mem = p.mem ∧ q.plans = p.plans ∧ q.time = p.time ∧ q.dps = p.dps

theorem cleared_pathsStand (p : Part) (path : Path) (k : Nat) : PathsStand p (cleared p path k) := by
  rw [cleared_onlyGz p path k]
  exact ⟨rfl, rfl, rfl, rfl, rfl⟩

theorem time_cleared (p : Part) (path : Path) (k : Nat) : (cleared p path k).time = p.time := by rw [cleared_onlyGz p path k]
theorem grps_cleared (p : Part) (path : Path) (k : Nat) : (cleared p path k).grps = p.grps := by rw [cleared_onlyGz p path k]

theorem grpOf_cleared (p : Part) (path : Path) (k : Nat) (g : Grp) : grpOf (cleared p path k) g = grpOf p g := by
  rw [grpOf, grps_cleared, grpOf]

theorem decideBegun_cleared (p : Part) (path : Path) (k t : Nat) : decideBegun (cleared p path k) t = decideBegun p t := by
  rw [decideBegun, time_cleared, decideBegun]

/-- Discarding staged words changes nothing that plans are told from. -/
theorem cleared_samePlans (p : Part) (path : Path) (k : Nat) : SamePlans p (cleared p path k) where
  regs i hi := cleared_reg p path k (by omega)
  pend := (cleared_staging p path k).waiting.1
  grps := grps_cleared p path k
  trav := congrArg MemSt.trav (mem_cleared p path k)
  descs := congrArg MemSt.descs (mem_cleared p path k)
  newDesc := congrArg MemSt.newDesc (mem_cleared p path k)
  commits := congrArg AdmSt.plans (cleared_adm k)

theorem lgState_cleared (p : Part) (path : Path) (k g : Nat) : reg (cleared p path k) (G.lgState g) = reg p (G.lgState g) :=
  (cleared_samePlans p path k).reg_lgState g
theorem lgAt_cleared (p : Part) (path : Path) (k g : Nat) : reg (cleared p path k) (G.lgAt g) = reg p (G.lgAt g) :=
  (cleared_samePlans p path k).reg_high (by omega) _
theorem planAt_cleared (p : Part) (path : Path) (k c : Nat) : reg (cleared p path k) (G.planAt c) = reg p (G.planAt c) :=
  (cleared_samePlans p path k).reg_high (by omega) _

theorem groupOf_cleared (p : Part) (path : Path) (k c : Nat) : groupOf (cleared p path k) c = groupOf p c := by
  rw [groupOf, (cleared_samePlans p path k).reg_loadGroup, groupOf]

/-- The members' spans are ready at the same tick (R221). -/
theorem spanReady_cleared (p : Part) (path : Path) (k g : Nat) : spanReady (cleared p path k) g = spanReady p g := by
  have hout : ∀ d, outOf (cleared p path k) d = outOf p d := fun d => by
    rw [cleared_onlyGz p path k]
    rfl
  have hready : ∀ d, reg (cleared p path k) (G.spanReadyTick d) = reg p (G.spanReadyTick d) := fun d =>
    (cleared_samePlans p path k).reg_high (by omega) _
  unfold spanReady
  simp only [(cleared_samePlans p path k).nextGroup_eq, hout, hready]

/-- The clock plan is judged by the clock and by entries of the Graticule (R320). -/
theorem clockOk_cleared (p : Part) (path : Path) (k : Nat) : clockOk (cleared p path k) = clockOk p := by
  have hreg : ∀ {i}, i / 256 ≠ 0x1018 → reg (cleared p path k) i = reg p i := cleared_reg p path k
  have hdatum : datumNow (cleared p path k) = datumNow p :=
    datumNow_congr (by rw [momentOf, time_cleared, momentOf]) fun i hi => hreg (by revert i hi; decide)
  have hepoch : epochTime (cleared p path k) = epochTime p := by rw [epochTime, hreg (by decide), epochTime]
  unfold clockOk regBit
  rw [hdatum, hepoch, time_cleared, hreg (by decide), hreg (by decide)]

/-! ## Entries -/

/-- LG_CMD (Table 08-12). -/
def entryLgCmd : Entry := ⟨1, 1, 1, .u8, .wo, .live, 0, .none, false, false, .between 1 6, .cmd⟩
/-- LG_STROBE_AT (Table 08-12). -/
def entryLgStrobeAt : Entry := ⟨3, 3, 1, .u64, .rw, .live, 0, .none, false, false, .any, .cmd⟩
/-- PLAN_GO (Table 06-8). -/
def entryPlanGo : Entry := ⟨83, 83, 1, .bool, .wo, .live, 0, .none, false, false, .any, .cmd⟩

theorem lookup_lgCmd (g : Grp) : lookup (0x1A00 + g.val) 0x01 = .entry entryLgCmd 0x01 :=
  lookup_of (by omega) (entriesAt_1A00 (by omega) (by omega)) rfl
theorem lookup_lgStrobeAt (g : Grp) : lookup (0x1A00 + g.val) 0x03 = .entry entryLgStrobeAt 0x03 :=
  lookup_of (by omega) (entriesAt_1A00 (by omega) (by omega)) rfl
theorem lookup_planGo (c : Chan) : lookup (0x2300 + c.val) 0x53 = .entry entryPlanGo 0x53 :=
  lookup_of (by omega) (entriesAt_2300 (by omega) (by omega)) rfl

/-- No entry of a group or a channel is BP_COMMIT. -/
theorem ne_bpCommit {i s : Nat} (hi : 0x1A00 ≤ i) : gkey i s ≠ G.bpCommit := by
  unfold G.bpCommit gkey
  omega

/-- A taken group command that takes effect without a snapshot. -/
theorem writeGroup_done (ht : Takes p path (G.lgCmd g) v) (he : groupCommand (cleared p path (G.lgCmd g)) path g v = (q, 0))
    (hj : ¬ p.adm.jobs.length < q.adm.jobs.length) : writeGroup g path v p = tell q path 0 :=
  commandWrite_takes (by decide) (lookup_lgCmd g) rfl nofun (ne_bpCommit (by omega)) ht ((effect_lgCmd g).trans he) hj

/-! ## Snapshots -/

/-- The snapshot of a command at the present moment (R306). -/
def jobOf (p : Part) (cmd group ch : Nat) (path : Path) (t : Nat) : AdmJob :=
  ⟨cmd, group, ch, path, 1, t, snapRegs p cmd group ch, p.time.tick, if paired p then configDigest p else 0⟩

/-- Snapshot j waits behind the others, and ADM_PENDING counts it. -/
def submitted (p : Part) (j : AdmJob) : Part :=
  setReg { p with adm := { p.adm with jobs := p.adm.jobs ++ [j] } } G.admPending (p.adm.jobs.length + 1)

theorem submit_room (h : p.adm.jobs.length < 16) : submit p cmd group ch path t = (submitted p (jobOf p cmd group ch path t), 0) :=
  if_neg (Nat.not_le.mpr h)

/-- A snapshot names the operation that took it from the start (R78). -/
theorem stampJob_submitted (p : Part) (cmd group ch : Nat) (path : Path) (t : Nat) :
    stampJob (submitted p (jobOf p cmd group ch path t)) 1 = submitted p (jobOf p cmd group ch path t) := by
  have hjobs : (p.adm.jobs ++ [jobOf p cmd group ch path t]).dropLast ++
      ((p.adm.jobs ++ [jobOf p cmd group ch path t]).getLast?.toList.map fun j => { j with op := 1 }) =
        p.adm.jobs ++ [jobOf p cmd group ch path t] := by
    rw [List.dropLast_concat, List.getLast?_concat]
    rfl
  exact congrArg (fun jobs => { submitted p (jobOf p cmd group ch path t) with
    adm := { (submitted p (jobOf p cmd group ch path t)).adm with jobs := jobs } }) hjobs

/-- One more snapshot waits than before the write. -/
theorem jobs_submitted (p : Part) (path : Path) (k : Nat) (j : AdmJob) :
    p.adm.jobs.length < (submitted (cleared p path k) j).adm.jobs.length := by
  show p.adm.jobs.length < ((cleared p path k).adm.jobs ++ [j]).length
  rw [cleared_adm, List.length_append]
  exact Nat.lt_succ_self _

/-- A taken group command that submits itself to admission, with room for its snapshot (R306). -/
theorem writeGroup_waits (ht : Takes p path (G.lgCmd g) v)
    (he : groupCommand (cleared p path (G.lgCmd g)) path g v = submit (cleared p path (G.lgCmd g)) cmd g 0 path t) (hr : p.adm.jobs.length < 16) :
    writeGroup g path v p = submitted (cleared p path (G.lgCmd g)) (jobOf (cleared p path (G.lgCmd g)) cmd g 0 path t) := by
  rw [submit_room (by rwa [cleared_adm])] at he
  exact (commandWrite_waits (by decide) (lookup_lgCmd g) rfl nofun (ne_bpCommit (by omega)) ht ((effect_lgCmd g).trans he)
    (jobs_submitted ..)).trans (stampJob_submitted ..)

/-- What a snapshot that waits leaves, where besides only values in force have changed. -/
theorem submitted_waits (hq : OnlyRegs (submitted (cleared p path k) (jobOf (cleared p path k) cmd group ch path t)) q l) (hl : G.admPending ∉ l) :
    ∃ j : AdmJob, q.adm = { p.adm with jobs := p.adm.jobs ++ [j] } ∧ j.cmd = cmd ∧ j.group = group ∧ j.chan = ch ∧ j.path = path ∧ j.at_ = t ∧
      j.tick = p.time.tick ∧ reg q G.admPending = p.adm.jobs.length + 1 ∧ q.grps = p.grps ∧
      (∀ i, i / 256 ≠ 0x1018 → i ≠ G.admPending → i ∉ l → reg q i = reg p i) ∧ PathsStand p q := by
  obtain ⟨honly, hregs⟩ := hq
  refine ⟨jobOf (cleared p path k) cmd group ch path t, ?_, rfl, rfl, rfl, rfl, rfl, congrArg TimeSt.tick (time_cleared ..), ?_, ?_,
    fun i hi hp hil => ?_, ?_⟩
  · rw [honly, ← cleared_adm (p := p) (path := path) k]
    rfl
  · rw [hregs _ hl, submitted, reg_setReg_same, cleared_adm]
  · rw [honly]
    exact grps_cleared ..
  · exact (hregs i hil).trans ((reg_setReg_ne _ hp _).trans (cleared_reg p path k hi))
  · rw [honly]
    exact cleared_pathsStand p path k

end Sys2Proof.Machine
end

section
/-!
SUPPORT. O42: the group commands and PLAN_GO (R162, R205, R206, R208), one by one.
-/

namespace Sys2Proof.Machine

variable {p : Part} {path : Path} {g : Grp} {c : Chan} {t k : Nat}

/-- A tick that is 0 or whose decide stage has not begun is not refused (R205, R208). -/
theorem tick_open (h : t = 0 ∨ decideBegun p t = false) (path : Path) (k : Nat) : ¬ (t ≠ 0 ∧ decideBegun (cleared p path k) t = true) := by
  rw [decideBegun_cleared]
  rintro ⟨h0, hb⟩
  rcases h with h | h
  · exact h0 h
  · rw [h] at hb
    cases hb

/-! ## Commands that wait for a verdict -/

/-- ARM of a stopped group submits it (R205). -/
theorem write_arm (ht : Takes p path (G.lgCmd g) 1) (hs : reg p (G.lgState g) ≤ 1) (hr : p.adm.jobs.length < 16) :
    writeGroup g path 1 p = submitted (cleared p path (G.lgCmd g)) (jobOf (cleared p path (G.lgCmd g)) 1 g 0 path 0) :=
  writeGroup_waits ht (if_neg (by rw [lgState_cleared]; omega)) hr

/-- START of a group that is stopped and not armed submits it for its tick (R205). -/
theorem write_start (ht : Takes p path (G.lgCmd g) 2) (hs : reg p (G.lgState g) = 0)
    (ho : reg p (G.lgAt g) = 0 ∨ decideBegun p (reg p (G.lgAt g)) = false) (hr : p.adm.jobs.length < 16) :
    writeGroup g path 2 p = submitted (cleared p path (G.lgCmd g)) (jobOf (cleared p path (G.lgCmd g)) 2 g 0 path (reg p (G.lgAt g))) := by
  refine writeGroup_waits ht ?_ hr
  have hopen := tick_open ho path (G.lgCmd g)
  show commandStart _ g path = _
  unfold commandStart
  dsimp only
  rw [lgState_cleared, lgAt_cleared, if_neg (not_or.mpr ⟨by omega, hopen⟩), if_neg (by omega)]

/-- RESTART of a running group submits it for its tick (R205, R206). -/
theorem write_restart (ht : Takes p path (G.lgCmd g) 4) (hs : reg p (G.lgState g) = 2)
    (ho : reg p (G.lgAt g) = 0 ∨ decideBegun p (reg p (G.lgAt g)) = false) (hr : p.adm.jobs.length < 16) :
    writeGroup g path 4 p = submitted (cleared p path (G.lgCmd g)) (jobOf (cleared p path (G.lgCmd g)) 4 g 0 path (reg p (G.lgAt g))) := by
  refine writeGroup_waits ht ?_ hr
  have hopen := tick_open ho path (G.lgCmd g)
  show commandRestart _ g path = _
  unfold commandRestart
  dsimp only
  rw [lgState_cleared, lgAt_cleared, if_neg (not_or.mpr ⟨by omega, hopen⟩)]

/-- PLAN_GO of a channel of a running group submits its plan, and PLAN_STATE tells so (R162). -/
theorem write_planGo (ht : Takes p path (G.planGo c) 1) (hs : reg p (G.lgState (groupOf p c)) = 2 ∨ reg p (G.lgState (groupOf p c)) = 4)
    (ho : reg p (G.planAt c) = 0 ∨ decideBegun p (reg p (G.planAt c)) = false) (hr : p.adm.jobs.length < 16) :
    commandWrite p path (0x2300 + c.val) 0x53 1 = setReg (submitted (cleared p path (G.planGo c))
      (jobOf (cleared p path (G.planGo c)) 8 (groupOf p c) c path (reg p (G.planAt c)))) (G.planState c) 1 := by
  have hopen := tick_open ho path (G.planGo c)
  have hgo : planGoes (cleared p path (G.planGo c)) c path = (setReg (submitted (cleared p path (G.planGo c))
      (jobOf (cleared p path (G.planGo c)) 8 (groupOf p c) c path (reg p (G.planAt c)))) (G.planState c) 1, 0) := by
    unfold planGoes
    dsimp only
    rw [groupOf_cleared, lgState_cleared, planAt_cleared, if_neg (by omega), if_neg hopen, submit_room (by rwa [cleared_adm])]
    rfl
  refine (commandWrite_waits (e := entryPlanGo) (by decide) (lookup_planGo c) rfl nofun (ne_bpCommit (by omega)) ht
    ((effect_planGo c).trans ((onTrue_one _).trans hgo)) (jobs_submitted ..)).trans ?_
  exact congrArg (fun q => setReg q (G.planState c) 1) (stampJob_submitted ..)

/-! ## A start and a stop that are planned -/

/-- Group g has the plans x, and LG_STATE tells them. -/
def groupPlans (p : Part) (g : Grp) (x : GroupSt) (state : Nat) : Part := setReg (setGrp p g x) (G.lgState g) state

/-- What a group's plans leave as it was. -/
theorem groupPlans_cleared (p : Part) (path : Path) (k : Nat) (g : Grp) (x : GroupSt) (state : Nat) :
    let q := groupPlans (cleared p path k) g x state
    reg q (G.lgState g) = state ∧ grpOf q g = x ∧ (∀ h, h ≠ g → grpOf q h = grpOf p h ∧ reg q (G.lgState h) = reg p (G.lgState h)) ∧
      q.adm = p.adm ∧ PathsStand p q := by
  refine ⟨reg_setReg_same .., grpOf_setGrp_same .., fun h hh => ⟨?_, ?_⟩, cleared_adm k, cleared_pathsStand p path k⟩
  · exact (grpOf_setGrp_ne _ hh x).trans (grpOf_cleared ..)
  · exact (reg_setReg_ne _ (fun e => hh (lgState_inj e)) _).trans (lgState_cleared ..)

/-- START of an armed group, where the clock plan admits starts, plans it for LG_AT or for the earliest tick that its members allow (R205, R221). -/
theorem write_start_armed (ht : Takes p path (G.lgCmd g) 2) (hs : reg p (G.lgState g) = 1)
    (ho : reg p (G.lgAt g) = 0 ∨ decideBegun p (reg p (G.lgAt g)) = false) (hc : clockOk p = true) {ready : Nat}
    (hready : max (spanReady p g) (reg p (G.admGEntryReady g)) = ready) (ha : reg p (G.lgAt g) = 0 ∨ ready ≤ reg p (G.lgAt g)) :
    writeGroup g path 2 p = tell (groupPlans (cleared p path (G.lgCmd g)) g
      { grpOf p g with startAt := some (if reg p (G.lgAt g) = 0 then max (p.time.tick + 3) ready else reg p (G.lgAt g)) } 3) path 0 := by
  refine writeGroup_done ht ?_ (jobs_of_adm rfl)
  have hopen := tick_open ho path (G.lgCmd g)
  have hlate : ¬ (reg p (G.lgAt g) ≠ 0 ∧ (decideBegun (cleared p path (G.lgCmd g)) (reg p (G.lgAt g)) = true ∨ reg p (G.lgAt g) < ready)) :=
    fun ⟨h0, h⟩ => h.elim (fun hb => hopen ⟨h0, hb⟩) (Nat.not_lt.mpr (ha.resolve_left h0))
  have hentry : reg (cleared p path (G.lgCmd g)) (G.admGEntryReady g) = reg p (G.admGEntryReady g) :=
    cleared_reg _ _ _ (by unfold G.admGEntryReady gkey; omega)
  show commandStart _ g path = _
  unfold commandStart scheduleStart earliestTick
  dsimp only
  rw [lgState_cleared, lgAt_cleared, clockOk_cleared, spanReady_cleared, hentry, hready, time_cleared, grpOf_cleared,
    if_neg (not_or.mpr ⟨by omega, hopen⟩), if_pos hs, if_pos hc, if_neg hlate]
  rfl

/-- STOP of a running group plans it for LG_AT or 3 ticks on (R205). -/
theorem write_stop (ht : Takes p path (G.lgCmd g) 3) (hs : reg p (G.lgState g) = 2)
    (ho : reg p (G.lgAt g) = 0 ∨ decideBegun p (reg p (G.lgAt g)) = false) :
    writeGroup g path 3 p = tell (groupPlans (cleared p path (G.lgCmd g)) g
      { grpOf p g with stopAt := some (if reg p (G.lgAt g) = 0 then p.time.tick + 3 else reg p (G.lgAt g)), stopGen := none } 4) path 0 := by
  refine writeGroup_done ht ?_ (jobs_of_adm rfl)
  have hopen := tick_open ho path (G.lgCmd g)
  show commandStop _ g _ = _
  unfold commandStop earliestTick
  dsimp only
  rw [lgState_cleared, lgAt_cleared, time_cleared, grpOf_cleared, if_neg (not_or.mpr ⟨by omega, hopen⟩)]
  rfl

/-! ## Strobes -/

/-- STROBE plans a load strobe for 3 ticks on (R205). -/
theorem write_strobe (ht : Takes p path (G.lgCmd g) 5) :
    writeGroup g path 5 p = tell (setReg (cleared p path (G.lgCmd g)) (G.lgStrobeAt g) (p.time.tick + 3)) path 0 := by
  refine writeGroup_done ht ?_ (jobs_of_adm rfl)
  show commandStrobe _ g = _
  unfold commandStrobe earliestTick
  rw [time_cleared]

/-- LG_STROBE_AT plans a load strobe or cancels one (R208). -/
theorem write_lgStrobeAt (ht : Takes p path (G.lgStrobeAt g) t) (ho : t = 0 ∨ decideBegun p t = false) :
    commandWrite p path (0x1A00 + g.val) 0x03 t = tell (setReg (cleared p path (G.lgStrobeAt g)) (G.lgStrobeAt g) t) path 0 :=
  commandWrite_takes (e := entryLgStrobeAt) (by decide) (lookup_lgStrobeAt g) rfl nofun (ne_bpCommit (by omega)) ht
    ((effect_lgStrobeAt g).trans (if_neg (tick_open ho path _))) (jobs_of_adm rfl)

theorem setReg_cleared (p : Part) (path : Path) (k i v : Nat) :
    let q := setReg (cleared p path k) i v
    reg q i = v ∧ SameRegs (cleared p path k) q [i] ∧ q.grps = p.grps ∧ q.adm = p.adm ∧ PathsStand p q :=
  ⟨reg_setReg_same .., SameRegs.setReg (fun _ _ => rfl) (List.mem_singleton_self _) _, grps_cleared p path k, cleared_adm k,
    cleared_pathsStand p path k⟩

/-! ## DISARM -/

/-- The values that a disarming moves besides LG_STATE: those of reservations, and TRIM_STATE. -/
def disarmKey (k : Nat) : Prop := resvKey k ∨ ∃ c, k = G.trimState c

theorem not_disarmKey_lgState (g : Nat) : ¬ disarmKey (G.lgState g) := by
  unfold disarmKey resvKey totalsKey G.lgState G.trimState gkey
  rintro (h | ⟨c, h⟩) <;> omega

theorem endFreeze_moves (p : Part) (c : Chan) : Moves disarmKey [] p (endFreeze p c) := by
  unfold endFreeze
  dsimp only
  split_ifs
  · exact .refl _ p
  · exact (Moves.refl _ p).setOut _ _
  · exact ((Moves.refl _ p).setOut _ _).setReg (.inr ⟨c, rfl⟩) _

theorem releaseResv_dps (p : Part) (f : Resv → Bool) : (releaseResv p f).dps = p.dps := by
  unfold releaseResv
  dsimp only
  split
  · rfl
  · exact foldl_frame (v := Part.dps) (fun q r => by split <;> rfl) _ _

/-- The part with no reservation of group g. -/
def unreserved (p : Part) (g : Nat) : Part := { p with adm := { p.adm with resv := p.adm.resv.filter fun r => decide (r.group ≠ g) } }

/-- An armed group that is disarmed loses its reservations, and its members' freezes end (R206, R229). -/
theorem disarm_armed {g : Nat} (h : reg p (G.lgState g) = 1) :
    Moves disarmKey [] (unreserved (setReg p (G.lgState g) 0) g) (disarm p g) ∧ (disarm p g).dps = p.dps := by
  have hrelease := releaseResv_moves (setReg p (G.lgState g) 0) fun r => decide (r.group = g)
  simp only [← decide_not] at hrelease
  unfold disarm
  rw [if_pos h]
  refine ⟨(hrelease.mono fun _ => .inl).quiet (.fold (fun q c => endFreeze_moves q (chan c)) _ _), ?_⟩
  exact (foldl_frame (v := Part.dps) (fun q c => endFreeze_dps q (chan c)) _ _).trans (releaseResv_dps ..)

/-- DISARM of an armed group (R205, R206). -/
theorem write_disarm (ht : Takes p path (G.lgCmd g) 6) (hs : reg p (G.lgState g) = 1) :
    writeGroup g path 6 p = tell (disarm (cleared p path (G.lgCmd g)) g) path 0 := by
  have hjobs : (disarm (cleared p path (G.lgCmd g)) g).adm.jobs = p.adm.jobs := (disarm_jobs ..).trans (congrArg AdmSt.jobs (cleared_adm _))
  exact writeGroup_done ht (if_pos ((lgState_cleared ..).trans hs)) (by rw [hjobs]; exact lt_irrefl _)

/-- What a disarming leaves. -/
theorem disarm_cleared (path : Path) (k : Nat) (hs : reg p (G.lgState g) = 1) :
    let q := disarm (cleared p path k) g
    reg q (G.lgState g) = 0 ∧ q.adm = { p.adm with resv := p.adm.resv.filter fun r => decide (r.group ≠ g.val) } ∧ q.grps = p.grps ∧
      (∀ h, h ≠ g → reg q (G.lgState h) = reg p (G.lgState h)) ∧ PathsStand p q := by
  obtain ⟨hmoves, hdps⟩ := disarm_armed ((lgState_cleared p path k g).trans hs)
  obtain ⟨hseqs, hmem, hplans, htime, hd⟩ := cleared_pathsStand p path k
  have hrest := hmoves.rest
  refine ⟨(hmoves.regs _ (not_disarmKey_lgState g)).trans (reg_setReg_same ..), ?_, (grps_of_restOf hrest).trans (grps_cleared p path k),
    fun h hh => ?_, (seqs_of_restOf hrest).trans hseqs, (mem_of_restOf hrest).trans hmem, (plans_of_restOf hrest).trans hplans,
    (time_of_restOf hrest).trans htime, hdps.trans hd⟩
  · refine (adm_of_restOf hrest).trans ?_
    rw [← cleared_adm (p := p) (path := path) k]
    rfl
  · exact (hmoves.regs _ (not_disarmKey_lgState h)).trans ((reg_setReg_ne _ (fun e => hh (lgState_inj e)) _).trans (lgState_cleared ..))

/-- Settles O42: a command that waits is its snapshot behind the others; the others are each one plan of their group, one value, or a disarming. -/
theorem groupCommandsAreTaken : Obligations.GroupCommandsAreTaken := by
  unfold Obligations.GroupCommandsAreTaken
  intro s path g hw p st at_ open_ taken frame waits
  refine ⟨fun hroom => ⟨fun ht hs => ?_, fun ht hs ho => ?_, fun ht hs ho => ?_, fun c h hg ht hs ho => ?_⟩, fun ht hs ho hc => ?_,
    fun ht hs ho => ?_, fun ht => ?_, fun t ht ho => ?_, fun ht hs => ?_⟩
  · exact ⟨_, (submitted_waits (.refl _ _) (by decide)).imp fun _ hj => ⟨exec_next (exec_arm path g s) hw (write_arm ht hs hroom), hj⟩⟩
  · exact ⟨_, (submitted_waits (.refl _ _) (by decide)).imp fun _ hj => ⟨exec_next (exec_start path g s) hw (write_start ht hs ho hroom), hj⟩⟩
  · exact ⟨_, (submitted_waits (.refl _ _) (by decide)).imp fun _ hj =>
      ⟨exec_next (exec_restart path g s) hw (write_restart ht hs ho hroom), hj⟩⟩
  · subst hg
    have hx := exec_next (exec_planGo path c 1 s) hw (write_planGo ht hs ho hroom)
    have hl : G.admPending ∉ [G.planState c] := by
      simp only [List.mem_singleton, G.admPending, G.planState, gkey]
      omega
    exact ⟨⟨_, (submitted_waits ((OnlyRegs.refl _ _).setReg (List.mem_singleton_self _) _) hl).imp fun _ hj => ⟨hx, hj⟩⟩, _, hx,
      reg_setReg_same ..⟩
  · intro ready ha
    have hx := exec_next (exec_start path g s) hw (write_start_armed ht hs ho hc rfl ha)
    obtain ⟨hstate, hgrp, hothers, hadm, hframe⟩ := groupPlans_cleared p path (G.lgCmd g) g
      { grpOf p g with startAt := some (if at_ = 0 then max (p.time.tick + 3) ready else at_) } 3
    exact ⟨_, hx, hstate, congrArg GroupSt.startAt hgrp, hothers, hadm, hframe⟩
  · exact ⟨_, exec_next (exec_stop path g s) hw (write_stop ht hs ho), groupPlans_cleared ..⟩
  · exact ⟨_, exec_next (exec_strobe path g s) hw (write_strobe ht), setReg_cleared ..⟩
  · exact ⟨_, exec_next (exec_lgStrobeAt path g t s) hw (write_lgStrobeAt ht ho), setReg_cleared ..⟩
  · exact ⟨_, exec_next (exec_disarm path g s) hw (write_disarm ht hs), disarm_cleared path _ hs⟩

end Sys2Proof.Machine
end

section
/-!
SUPPORT. O45: the trim loop: what a swap does to one channel (R228), a freeze and its end (R229), and an estimate of the worst cell (R230).
-/

namespace Sys2Proof.Machine

variable {p q r : Part} {path : Path} {c : Chan} {ms t estimate cyc : Nat}

theorem exec_trimSwap (s : State) : exec .trimSwap s = lift trimSwap s := by unfold exec; rfl
theorem exec_trimFreezeReq (path : Path) (c : Chan) (ms : Nat) (s : State) :
    exec (.trimFreezeReq path c ms) s = lift (fun p => commandWrite p path (0x2000 + c.val) 0x0D ms) s := by unfold exec; rfl
theorem exec_trimFreezeEnd (c : Chan) (s : State) : exec (.trimFreezeEnd c) s = lift (freezeEnds c) s := by unfold exec; rfl
theorem exec_trimForced (c : Chan) (estimate : Nat) (at_ : Cyc) (s : State) :
    exec (.trimForced c estimate at_) s = lift (fun p => trimEstimate p c estimate at_) s := by unfold exec; rfl

/-! ## Entries -/

/-- Two entries of outputs are one where channel and subindex are. -/
theorem outputKey_inj {c d s t : Nat} (hs : s < 256) (ht : t < 256) (h : gkey (0x2000 + c) s = gkey (0x2000 + d) t) : c = d ∧ s = t := by
  unfold gkey at h
  omega

theorem trimState_ne_trimSwaps (c d : Nat) : G.trimState c ≠ G.trimSwaps d := fun h => by
  cases (outputKey_inj (by decide) (by decide) h).2
theorem trimWorst_ne_trimState (c d : Nat) : G.trimWorst c ≠ G.trimState d := fun h => by
  cases (outputKey_inj (by decide) (by decide) h).2
theorem trimFlags_ne_trimState (c d : Nat) : G.trimFlags c ≠ G.trimState d := fun h => by
  cases (outputKey_inj (by decide) (by decide) h).2
theorem trimFlags_ne_trimWorst (c d : Nat) : G.trimFlags c ≠ G.trimWorst d := fun h => by
  cases (outputKey_inj (by decide) (by decide) h).2
theorem trimState_ne {d : Chan} (h : d ≠ c) : G.trimState d ≠ G.trimState c := fun e =>
  h (Fin.ext (outputKey_inj (by decide) (by decide) e).1)
theorem trimSwaps_ne {d : Chan} (h : d ≠ c) : G.trimSwaps d ≠ G.trimSwaps c := fun e =>
  h (Fin.ext (outputKey_inj (by decide) (by decide) e).1)

/-- TRIM_SWAPS (Table 09-7). -/
def entryTrimSwaps : Entry := ⟨16, 16, 1, .u64, .ro, .none, 0, .none, false, false, .any, .plain⟩
/-- TRIM_FREEZE_REQ (Table 09-7). -/
def entryTrimFreezeReq : Entry := ⟨13, 13, 1, .u32, .wo, .live, 0, .none, false, false, .any, .cmd⟩

theorem lookup_trimSwaps (c : Chan) : lookup (0x2000 + c.val) 0x10 = .entry entryTrimSwaps 0x10 :=
  lookup_of (by omega) (entriesAt_2000 (by omega) (by omega)) rfl
theorem lookup_trimFreezeReq (c : Chan) : lookup (0x2000 + c.val) 0x0D = .entry entryTrimFreezeReq 0x0D :=
  lookup_of (by omega) (entriesAt_2000 (by omega) (by omega)) rfl

theorem regWidth_trimSwaps (c : Chan) : regWidth (G.trimSwaps c) = 64 := by
  unfold regWidth G.trimSwaps
  rw [entryOf_of (by decide) (lookup_trimSwaps c)]
  rfl

/-! ## Swaps -/

/-- What the trim loop keeps of a channel: its output, TRIM_SWAPS and TRIM_STATE. -/
def trimOf (p : Part) (c : Chan) : OutSt × Nat × Nat := (outOf p c, reg p (G.trimSwaps c), reg p (G.trimState c))

/-- An output after one swap of the trim loop (R228): its cell moves on, and a freeze of a forced trim ends. -/
def OutSt.swapped (o : OutSt) : OutSt := { o with rotPos := (o.rotPos + 1) % 64, rotLeft := o.rotLeft - 1, freezeTo := none }

/-- What one swap makes of a channel: nothing where it is frozen (R229); else the next cell, counted, and a full rotation ends TRIM_STATE 3. -/
def swapOf : OutSt × Nat × Nat → OutSt × Nat × Nat
  | (o, n, st) => if st = 1 then (o, n, st) else (o.swapped, (n + 1) % 2 ^ 64, if st = 3 ∧ o.rotLeft ≤ 1 then 0 else st)

/-- A channel that is not frozen and its swap, counted. -/
def swapCounted (p : Part) (c : Chan) : Part := addReg (setOut p c (outOf p c).swapped) (G.trimSwaps c) 1

theorem swapCell_frozen (h : reg p (G.trimState c) = 1) : swapCell p c = p := if_pos h

theorem swapCell_free (h : reg p (G.trimState c) ≠ 1) : swapCell p c =
    if reg p (G.trimState c) = 3 ∧ (outOf p c).rotLeft ≤ 1 then setReg (swapCounted p c) (G.trimState c) 0 else swapCounted p c := by
  unfold swapCell
  simp only [if_neg h, Nat.sub_eq_zero_iff_le]
  rfl

theorem trimOf_swapCounted (p : Part) (c : Chan) :
    trimOf (swapCounted p c) c = ((outOf p c).swapped, (reg p (G.trimSwaps c) + 1) % 2 ^ 64, reg p (G.trimState c)) := by
  have hout : outOf (swapCounted p c) c = (outOf p c).swapped := outOf_setOut_same ..
  have hcount : reg (swapCounted p c) (G.trimSwaps c) = (reg p (G.trimSwaps c) + 1) % 2 ^ 64 := by
    rw [swapCounted, addReg, reg_setReg_same, reg_setOut, regWidth_trimSwaps]
  have hstate : reg (swapCounted p c) (G.trimState c) = reg p (G.trimState c) := reg_setReg_ne _ (trimState_ne_trimSwaps c c) _
  rw [trimOf, hout, hcount, hstate]

theorem trimOf_swapCell_same (p : Part) (c : Chan) : trimOf (swapCell p c) c = swapOf (trimOf p c) := by
  by_cases h : reg p (G.trimState c) = 1
  · rw [swapCell_frozen h]
    exact (if_pos h).symm
  · obtain ⟨hout, hcount, hstate⟩ : _ ∧ _ ∧ _ := by simpa only [trimOf, Prod.mk.injEq] using trimOf_swapCounted p c
    refine Eq.trans ?_ (if_neg h).symm
    rw [swapCell_free h]
    split
    · show (outOf (swapCounted p c) c, _, _) = _
      rw [reg_setReg_same, reg_setReg_ne _ (trimState_ne_trimSwaps c c).symm, hout, hcount]
    · exact trimOf_swapCounted p c

theorem trimOf_swapCell_ne (p : Part) (c d : Chan) (h : d ≠ c) : trimOf (swapCell p c) d = trimOf p d := by
  have hcounted : trimOf (swapCounted p c) d = trimOf p d := by
    have hout : outOf (swapCounted p c) d = outOf p d := outOf_setOut_ne _ h _
    have hcount : reg (swapCounted p c) (G.trimSwaps d) = reg p (G.trimSwaps d) := reg_setReg_ne _ (trimSwaps_ne h) _
    have hstate : reg (swapCounted p c) (G.trimState d) = reg p (G.trimState d) := reg_setReg_ne _ (trimState_ne_trimSwaps d c) _
    rw [trimOf, hout, hcount, hstate, trimOf]
  by_cases hf : reg p (G.trimState c) = 1
  · rw [swapCell_frozen hf]
  · rw [swapCell_free hf]
    split
    · refine Eq.trans ?_ hcounted
      rw [trimOf, reg_setReg_ne _ (trimState_ne_trimSwaps c d).symm, reg_setReg_ne _ (trimState_ne h)]
      rfl
    · exact hcounted

/-- Only values in force and outputs differ between p and q. -/
def OnlyOuts (p q : Part) : Prop := q = { p with gz := { p.gz with regs := q.gz.regs }, outs := q.outs }

theorem OnlyOuts.trans (h : OnlyOuts p q) (g : OnlyOuts q r) : OnlyOuts p r := by
  unfold OnlyOuts at h g ⊢
  rw [h] at g
  exact g

theorem swapCell_onlyOuts (p : Part) (c : Chan) : OnlyOuts p (swapCell p c) := by
  by_cases h : reg p (G.trimState c) = 1
  · rw [swapCell_frozen h]
    rfl
  · rw [swapCell_free h]
    split <;> rfl

/-- At its tick the trim loop makes one swap on every channel (R228). -/
theorem trimSwap_due (h : p.time.tick % 80000 = 0) : OnlyOuts p (trimSwap p) ∧ ∀ c, trimOf (trimSwap p) c = swapOf (trimOf p c) := by
  unfold trimSwap
  rw [if_pos h]
  exact ⟨List.foldlRecOn _ swapCell (motive := OnlyOuts p) rfl fun q hq c _ => hq.trans (swapCell_onlyOuts q c),
    foldl_each (v := trimOf) (g := swapOf) trimOf_swapCell_same trimOf_swapCell_ne p⟩

/-- What a swap makes of a frozen channel and of one that is not. -/
theorem swapOf_spec (h : trimOf q c = swapOf (trimOf p c)) :
    (reg p (G.trimState c) = 1 → outOf q c = outOf p c ∧ reg q (G.trimSwaps c) = reg p (G.trimSwaps c) ∧ reg q (G.trimState c) = 1) ∧
      (reg p (G.trimState c) ≠ 1 → outOf q c = (outOf p c).swapped ∧
        reg q (G.trimSwaps c) = (reg p (G.trimSwaps c) + 1) % 2 ^ regWidth (G.trimSwaps c) ∧
        reg q (G.trimState c) = if reg p (G.trimState c) = 3 ∧ (outOf p c).rotLeft ≤ 1 then 0 else reg p (G.trimState c)) := by
  refine ⟨fun hf => ?_, fun hf => ?_⟩
  · have hs : trimOf q c = trimOf p c := h.trans (if_pos hf)
    simpa only [trimOf, Prod.mk.injEq, hf] using hs
  · have hs := h.trans (if_neg hf)
    simpa only [trimOf, Prod.mk.injEq, regWidth_trimSwaps] using hs

/-! ## Freezes -/

/-- A freeze request within its limits, of an armed group, waits for the tick boundary (R229). -/
theorem freezeRequest_allowed (hm : ms ≤ reg p (G.trimFreezeMax c)) (hg : reg p (G.lgState (groupOf p c)) ≠ 0)
    (hs : reg p (G.trimState c) ≠ 3) : freezeRequest p c ms = (toBoundary p (G.trimFreezeReq c) ms, 0) := by
  have hcode : freezeCode p c ms = 0 := if_neg (by
    rintro (h | h | h)
    · exact absurd hm (Nat.not_le.mpr h)
    · exact hg h
    · exact hs h)
  unfold freezeRequest
  dsimp only
  rw [hcode, if_pos rfl]

theorem write_trimFreezeReq (ht : Takes p path (G.trimFreezeReq c) ms) (hm : ms ≤ reg p (G.trimFreezeMax c))
    (hg : reg p (G.lgState (groupOf p c)) ≠ 0) (hs : reg p (G.trimState c) ≠ 3) :
    commandWrite p path (0x2000 + c.val) 0x0D ms =
      tell (toBoundary (cleared p path (G.trimFreezeReq c)) (G.trimFreezeReq c) ms) path 0 := by
  have hreg (s : Nat) (h : s < 256) : reg (cleared p path (G.trimFreezeReq c)) (gkey (0x2000 + c.val) s) = reg p (gkey (0x2000 + c.val) s) :=
    cleared_reg p path _ (by rw [gkey_div _ _ h]; omega)
  refine commandWrite_takes (e := entryTrimFreezeReq) (by decide) (lookup_trimFreezeReq c) rfl nofun (ne_bpCommit (by omega)) ht
    ((effect_trimFreezeReq c).trans (freezeRequest_allowed ?_ ?_ ?_)) (jobs_of_adm rfl)
  · exact hm.trans_eq (hreg 0x0C (by decide)).symm
  · rw [groupOf_cleared]
    exact fun h => hg ((lgState_cleared ..).symm.trans h)
  · exact fun h => hs ((hreg 0x0E (by decide)).symm.trans h)

theorem freezeEnds_due (h : (outOf p c).freezeTo = some t) (ht : t ≤ p.time.tick) : freezeEnds c p = endFreeze p c := by
  unfold freezeEnds
  rw [h]
  exact if_pos ht

theorem freezeEnds_before (h : (outOf p c).freezeTo = some t) (ht : p.time.tick < t) : freezeEnds c p = p := by
  unfold freezeEnds
  rw [h]
  exact if_neg (Nat.not_le.mpr ht)

/-- A channel with its freeze over and a full rotation to come (R229). -/
def unfrozen (p : Part) (c : Chan) : Part := setOut p c { outOf p c with freezeTo := none, rotLeft := 64 }

theorem endFreeze_running (h : (outOf p c).freezeTo = some t) :
    endFreeze p c = if reg p (G.trimState c) = 2 then unfrozen p c else setReg (unfrozen p c) (G.trimState c) 3 := by
  unfold endFreeze
  dsimp only
  rw [h]
  exact if_neg Bool.false_ne_true

/-- The end of a freeze changes the output of its channel and TRIM_STATE (R229). -/
theorem endFreeze_spec (h : (outOf p c).freezeTo = some t) :
    let q := endFreeze p c
    reg q (G.trimState c) = (if reg p (G.trimState c) = 2 then 2 else 3) ∧
      outOf q c = { outOf p c with freezeTo := none, rotLeft := 64 } ∧ SameRegs p q [G.trimState c] ∧
      (∀ d, d ≠ c → outOf q d = outOf p d) ∧ q.seqs = p.seqs ∧ q.mem = p.mem := by
  dsimp only
  rw [endFreeze_running h]
  split
  next hf => exact ⟨hf, outOf_setOut_same .., fun _ _ => rfl, fun d hd => outOf_setOut_ne _ hd _, rfl, rfl⟩
  next => exact ⟨reg_setReg_same .., outOf_setOut_same .., SameRegs.setReg (p := p) (q := unfrozen p c) (fun _ _ => rfl)
    (List.mem_singleton_self _) 3, fun d hd => outOf_setOut_ne _ hd _, rfl, rfl⟩

/-! ## Estimates -/

/-- The estimate of the worst cell as it is published. -/
def estimated (p : Part) (c : Chan) (estimate : Nat) : Part := setReg p (G.trimWorst c) estimate

/-- A forced trim begins (R230): a full rotation is to come, TRIM_STATE reads 2, and the channel's flag and MARGIN tell so. -/
def trimForces (p : Part) (c : Chan) (cyc : Nat) : Part :=
  raiseNow (orReg (atCyc (setReg (setOut p c { outOf p c with rotLeft := 64 }) (G.trimState c) 2) cyc) (G.trimFlags c) 1) 0xB86

theorem reg_estimated (p : Part) (c : Chan) (estimate : Nat) : reg (estimated p c estimate) (G.trimState c) = reg p (G.trimState c) :=
  reg_setReg_ne _ (trimWorst_ne_trimState c c).symm _

theorem trimEstimate_forces (hs : reg p (G.trimState c) = 1) (he : 128 ≤ estimate) :
    trimEstimate p c estimate cyc = trimForces (estimated p c estimate) c cyc :=
  if_pos ⟨(reg_estimated ..).trans hs, he⟩

/-- An estimate that forces nothing may end a forced trim (R230). -/
theorem trimEstimate_rests (h : ¬ (reg p (G.trimState c) = 1 ∧ 128 ≤ estimate)) :
    let q := estimated p c estimate
    trimEstimate p c estimate cyc = q ∨ ∃ v, trimEstimate p c estimate cyc = setReg q (G.trimState c) v := by
  dsimp only
  have hn : ¬ (reg (estimated p c estimate) (G.trimState c) = 1 ∧ 128 ≤ estimate) := by rwa [reg_estimated]
  rw [show trimEstimate p c estimate cyc = _ from if_neg hn]
  split
  · exact .inr ⟨_, rfl⟩
  · exact .inl rfl

/-- The entries that an estimate moves. -/
def estimateKeys (c : Chan) : List Nat := [G.trimWorst c, G.trimState c, G.trimFlags c]

theorem estimated_sameRegs (p : Part) (c : Chan) (estimate : Nat) : SameRegs p (estimated p c estimate) (estimateKeys c) :=
  SameRegs.setReg (fun _ _ => rfl) List.mem_cons_self _

theorem trimForces_spec (p : Part) (c : Chan) (cyc : Nat) :
    let q := trimForces p c cyc
    reg q (G.trimState c) = 2 ∧ regBit q (G.trimFlags c) 0 = true ∧ Raised p q cyc 0xB86 ∧ reg q (G.trimWorst c) = reg p (G.trimWorst c) ∧
      SameRegs p q (estimateKeys c) := by
  have hmem : ∀ k, k = G.trimState c ∨ k = G.trimFlags c → k ∈ estimateKeys c := by
    rintro k (rfl | rfl) <;> simp [estimateKeys]
  refine ⟨?_, ?_, raiseNow_producers .., ?_, ?_⟩
  · exact (reg_setReg_ne _ (trimFlags_ne_trimState c c).symm _).trans (reg_setReg_same ..)
  · show Nat.testBit (reg (trimForces p c cyc) (G.trimFlags c)) 0 = true
    rw [trimForces, reg_raiseNow, orReg, reg_setReg_same, Nat.testBit_or]
    exact Bool.or_true _
  · exact (reg_setReg_ne _ (trimFlags_ne_trimWorst c c).symm _).trans (reg_setReg_ne _ (trimWorst_ne_trimState c c) _)
  · have hstate : SameRegs p (setReg (setOut p c { outOf p c with rotLeft := 64 }) (G.trimState c) 2) (estimateKeys c) :=
      SameRegs.setReg (q := setOut p c { outOf p c with rotLeft := 64 }) (fun _ _ => rfl) (hmem _ (.inl rfl)) 2
    exact hstate.setReg (hmem _ (.inr rfl)) _

/-- An estimate is published; it forces a frozen channel's trim once it reaches half an LSB, and else raises nothing (R230). -/
theorem trimEstimate_spec (p : Part) (c : Chan) (estimate cyc : Nat) :
    let q := trimEstimate p c estimate cyc
    reg q (G.trimWorst c) = estimate ∧ SameRegs p q (estimateKeys c) ∧ q.seqs = p.seqs ∧ q.mem = p.mem ∧
      (reg p (G.trimState c) = 1 ∧ 128 ≤ estimate → reg q (G.trimState c) = 2 ∧ regBit q (G.trimFlags c) 0 = true ∧ Raised p q cyc 0xB86) ∧
      (reg p (G.trimState c) ≠ 1 ∨ estimate < 128 → q.fab = p.fab) := by
  have hworst : reg (estimated p c estimate) (G.trimWorst c) = estimate := reg_setReg_same ..
  have hsame := estimated_sameRegs p c estimate
  by_cases h : reg p (G.trimState c) = 1 ∧ 128 ≤ estimate
  · obtain ⟨hstate, hflag, hraised, hkept, hregs⟩ := trimForces_spec (estimated p c estimate) c cyc
    dsimp only
    rw [trimEstimate_forces h.1 h.2]
    exact ⟨hkept.trans hworst, hsame.trans hregs, rfl, rfl, fun _ => ⟨hstate, hflag, hraised⟩, fun hn => by omega⟩
  · rcases trimEstimate_rests (cyc := cyc) h with hq | ⟨v, hq⟩
    · dsimp only
      rw [hq]
      exact ⟨hworst, hsame, rfl, rfl, fun hy => absurd hy h, fun _ => rfl⟩
    · dsimp only
      rw [hq]
      exact ⟨(reg_setReg_ne _ (trimWorst_ne_trimState c c) _).trans hworst, hsame.setReg (by simp [estimateKeys]) v, rfl, rfl,
        fun hy => absurd hy h, fun _ => rfl⟩

/-- Settles O45: a swap visits each channel once, a freeze request waits for the boundary, and the end of a freeze and an estimate are each said by
their lemma. -/
theorem trimLoopsSwapAndFreeze : Obligations.TrimLoopsSwapAndFreeze := by
  unfold Obligations.TrimLoopsSwapAndFreeze
  intro s hw p
  refine ⟨fun hk => ?_, fun hk => ?_, fun path c ms ht hm hg hs => ?_, fun c t hf => ⟨fun ht => ?_, fun ht => ?_⟩, fun c estimate cyc => ?_⟩
  · obtain ⟨honly, heach⟩ := trimSwap_due hk
    exact ⟨_, exec_next (exec_trimSwap s) hw rfl, fun c => swapOf_spec (heach c), honly⟩
  · exact exec_next (exec_trimSwap s) hw (if_neg hk)
  · exact ⟨_, exec_next (exec_trimFreezeReq path c ms s) hw (write_trimFreezeReq ht hm hg hs), rfl⟩
  · exact ⟨_, exec_next (exec_trimFreezeEnd c s) hw (freezeEnds_due hf ht), endFreeze_spec hf⟩
  · exact exec_next (exec_trimFreezeEnd c s) hw (freezeEnds_before hf ht)
  · exact ⟨_, exec_next (exec_trimForced c estimate cyc s) hw rfl, trimEstimate_spec ..⟩

end Sys2Proof.Machine
end

section
/-!
SUPPORT. What the operations on the output of one channel leave at the others, and what they make of that output: its owner (R217), its span
(R220) and its markers (R233).
-/

namespace Sys2Proof.Machine

variable {p q r : Part} {c d : Chan} {k a stage next : Nat} {due : Nat → Nat}

/-- From p to q memory, and the output, sequencer and datapath of every channel but c, are as they were. -/
structure OthersStay (c : Chan) (p q : Part) : Prop where
  chans : ∀ d, d ≠ c → outOf q d = outOf p d ∧ seqOf q d = seqOf p d ∧ dpOf q d = dpOf p d
  mem   : q.mem = p.mem

theorem OthersStay.refl (c : Chan) (p : Part) : OthersStay c p p := ⟨fun _ _ => ⟨rfl, rfl, rfl⟩, rfl⟩

theorem OthersStay.trans (h : OthersStay c p q) (g : OthersStay c q r) : OthersStay c p r := by
  refine ⟨fun d hd => ?_, g.mem.trans h.mem⟩
  obtain ⟨hout, hseq, hdp⟩ := h.chans d hd
  obtain ⟨gout, gseq, gdp⟩ := g.chans d hd
  exact ⟨gout.trans hout, gseq.trans hseq, gdp.trans hdp⟩

/-- A change of none of the units spoken of. -/
theorem OthersStay.of_units (ho : q.outs = p.outs) (hs : q.seqs = p.seqs) (hd : q.dps = p.dps) (hm : q.mem = p.mem) : OthersStay c p q :=
  ⟨fun d _ => ⟨by rw [outOf, ho, outOf], by rw [seqOf, hs, seqOf], by rw [dpOf, hd, dpOf]⟩, hm⟩

theorem OthersStay.setReg (h : OthersStay c p q) (k v : Nat) : OthersStay c p (setReg q k v) := h.trans (.of_units rfl rfl rfl rfl)
theorem OthersStay.setOut (h : OthersStay c p q) (x : OutSt) : OthersStay c p (setOut q c x) :=
  h.trans ⟨fun _ hd => ⟨outOf_setOut_ne q hd x, rfl, rfl⟩, rfl⟩
theorem OthersStay.setSeq (h : OthersStay c p q) (x : Seq) : OthersStay c p (setSeq q c x) :=
  h.trans ⟨fun _ hd => ⟨rfl, seqOf_setSeq_ne q hd x, rfl⟩, rfl⟩
theorem OthersStay.setDp (h : OthersStay c p q) (x : Dp) : OthersStay c p (setDp q c x) :=
  h.trans ⟨fun _ hd => ⟨rfl, rfl, dpOf_setDp_ne q hd x⟩, rfl⟩

theorem OthersStay.fold {α : Type} {f : Part → α → Part} (hf : ∀ q x, OthersStay c q (f q x)) (l : List α) (p : Part) :
    OthersStay c p (l.foldl f p) :=
  List.foldlRecOn l f (motive := OthersStay c p) (.refl c p) fun q hq x _ => hq.trans (hf q x)

/-! ## Spans -/

@[simp] theorem takeSpan_outs (p : Part) (c : Chan) (k : Nat) : (takeSpan p c k).outs = p.outs := by
  unfold takeSpan
  dsimp only
  split <;> rfl

theorem outOf_takeSpan (p : Part) (c : Chan) (k : Nat) (d : Chan) : outOf (takeSpan p c k) d = outOf p d := by
  rw [outOf, takeSpan_outs, outOf]

theorem takeSpan_othersStay (p : Part) (c : Chan) (k : Nat) : OthersStay c p (takeSpan p c k) :=
  .of_units (takeSpan_outs ..) (seqs_of_restOf (takeSpan_moves p c k).rest) (takeSpan_dps ..) (mem_of_restOf (takeSpan_moves p c k).rest)

/-- At its tick the span that is being brought in is in force, and no other value moves (R220). -/
theorem takeSpan_due (h : (outOf p c).spanAt = some k) :
    reg (takeSpan p c k) (G.outSpan c) = (outOf p c).spanTo ∧ SameRegs p (takeSpan p c k) [G.outSpan c] := by
  have hreg : ∀ i, reg (takeSpan p c k) i = reg (setReg p (G.outSpan c) (outOf p c).spanTo) i := fun i => by
    unfold takeSpan
    dsimp only
    rw [if_pos h]
    rfl
  exact ⟨(hreg _).trans (reg_setReg_same ..), fun i hi => (hreg i).trans (reg_setReg_ne _ (fun e => hi (List.mem_singleton.mpr e)) _)⟩

/-- The span-change sequence of tick a leaves a stage once tick due a has come (R220). -/
def spanMoves (p : Part) (c : Chan) (stage : Nat) (due : Nat → Nat) : Part :=
  match (outOf p c).spanAt with
  | some a => if (outOf p c).spanStage = stage ∧ due a ≤ p.time.tick then setOut p c { outOf p c with spanStage := stage + 1 } else p
  | none => p

theorem spanRamp_eq (p : Part) (c : Chan) : spanRamp p c = spanMoves p c 1 (· + 2) := rfl
theorem spanHold_eq (p : Part) (c : Chan) : spanHold p c = spanMoves p c 2 (· + rampTicks p + 2) := rfl

theorem spanMoves_due (ha : (outOf p c).spanAt = some a) (hs : (outOf p c).spanStage = stage) (hk : due a ≤ p.time.tick) :
    spanMoves p c stage due = setOut p c { outOf p c with spanStage := stage + 1 } := by
  unfold spanMoves
  rw [ha]
  exact if_pos ⟨hs, hk⟩

theorem spanMoves_waits (ha : (outOf p c).spanAt = some a) (h : (outOf p c).spanStage ≠ stage ∨ p.time.tick < due a) :
    spanMoves p c stage due = p := by
  unfold spanMoves
  rw [ha]
  exact if_neg fun ⟨hs, hk⟩ => h.elim (fun hn => hn hs) (Nat.not_lt.mpr hk)

theorem spanMoves_none (ha : (outOf p c).spanAt = none) : spanMoves p c stage due = p := by
  unfold spanMoves
  rw [ha]

/-- The output of a channel whose span-change sequence is complete (R221). -/
def OutSt.spanReady (o : OutSt) : OutSt := { o with spanAt := none, spanStage := 0, spanFrom := o.spanTo }
/-- The output of a channel whose span-change sequence for a further span begins in tick b (R223). -/
def OutSt.spanAgain (o : OutSt) (b next : Nat) : OutSt :=
  { o with spanAt := some b, spanStage := 1, spanFrom := o.spanTo, spanTo := next, spanNext := none }

theorem spanDone_ready (ha : (outOf p c).spanAt = some a) (hk : a + rampTicks p + 3 ≤ p.time.tick) (hn : (outOf p c).spanNext = none) :
    spanDone p c = putOutState (setOut p c (outOf p c).spanReady) c := by
  unfold spanDone
  dsimp only
  rw [ha]
  dsimp only
  rw [if_pos hk, OutSt.spanReady, hn]

theorem spanDone_again (ha : (outOf p c).spanAt = some a) (hk : a + rampTicks p + 3 ≤ p.time.tick) (hn : (outOf p c).spanNext = some next) :
    spanDone p c = takeSpan (setOut p c ((outOf p c).spanAgain (a + rampTicks p + 3) next)) c (a + rampTicks p + 3) := by
  unfold spanDone
  dsimp only
  rw [ha]
  dsimp only
  rw [if_pos hk, hn]
  rfl

theorem spanDone_waits (ha : (outOf p c).spanAt = some a) (hk : p.time.tick < a + rampTicks p + 3) : spanDone p c = p := by
  unfold spanDone
  dsimp only
  rw [ha]
  exact if_neg (Nat.not_le.mpr hk)

theorem spanDone_none (ha : (outOf p c).spanAt = none) : spanDone p c = p := by
  unfold spanDone
  dsimp only
  rw [ha]

theorem spanReady_spec (p : Part) (c : Chan) (o : OutSt) :
    let q := putOutState (setOut p c o) c
    outOf q c = o ∧ SameRegs p q [G.outState c] ∧ OthersStay c p q :=
  ⟨outOf_setOut_same .., SameRegs.setReg (q := setOut p c o) (fun _ _ => rfl) (List.mem_singleton_self _) _,
    ((OthersStay.refl c p).setOut o).setReg _ _⟩

theorem spanAgain_spec (p : Part) (c : Chan) (o : OutSt) (b next : Nat) :
    let q := takeSpan (setOut p c (o.spanAgain b next)) c b
    outOf q c = o.spanAgain b next ∧ reg q (G.outSpan c) = next ∧ SameRegs p q [G.outSpan c] ∧ OthersStay c p q := by
  have hout : outOf (setOut p c (o.spanAgain b next)) c = o.spanAgain b next := outOf_setOut_same ..
  obtain ⟨hspan, hregs⟩ := takeSpan_due (k := b) (congrArg OutSt.spanAt hout)
  exact ⟨(outOf_takeSpan ..).trans hout, hspan.trans (congrArg OutSt.spanTo hout), hregs,
    ((OthersStay.refl c p).setOut _).trans (takeSpan_othersStay ..)⟩

/-- A complete sequence ends, or the sequence that waited behind it begins; nothing of another channel changes (R221, R223). -/
theorem spanDone_spec (ha : (outOf p c).spanAt = some a) (hk : a + rampTicks p + 3 ≤ p.time.tick) :
    let q := spanDone p c
    q.seqs = p.seqs ∧ OthersStay c p q ∧ ((outOf p c).spanNext = none → outOf q c = (outOf p c).spanReady ∧ SameRegs p q [G.outState c]) ∧
      (∀ next, (outOf p c).spanNext = some next → reg q (G.outSpan c) = next ∧ SameRegs p q [G.outSpan c] ∧
        outOf q c = (outOf p c).spanAgain (a + rampTicks p + 3) next) := by
  refine ⟨seqs_of_restOf (spanDone_moves p c).rest, ?_⟩
  cases hn : (outOf p c).spanNext with
  | none =>
    rw [spanDone_ready ha hk hn]
    obtain ⟨hout, hregs, hothers⟩ := spanReady_spec p c (outOf p c).spanReady
    exact ⟨hothers, fun _ => ⟨hout, hregs⟩, nofun⟩
  | some x =>
    rw [spanDone_again ha hk hn]
    obtain ⟨hout, hspan, hregs, hothers⟩ := spanAgain_spec p c (outOf p c) (a + rampTicks p + 3) x
    refine ⟨hothers, nofun, ?_⟩
    rintro _ ⟨⟩
    exact ⟨hspan, hregs, hout⟩

/-! ## The owner of an output -/

/-- Who owns an output: whether the park task has parked it, and whether the DAC has it. -/
def ownerOf (o : OutSt) : Bool × Bool := (o.task, o.dac)

/-- A channel that the park task has parked is not the DAC's (R217). -/
theorem dacOwns_task (h : (outOf p c).task = true) : dacOwns p c k = false := by
  unfold dacOwns
  simp [h]

theorem outTick_owner (p : Part) (c : Chan) (k : Nat) :
    ownerOf (outOf (outTick p c k) c) = ((outOf p c).task, dacOwns (takeSpan p c k) c k) := by
  unfold outTick
  extract_lets p1 o dac wanted o' closed p2 p3
  have h2 : ownerOf (outOf p2 c) = ((outOf p c).task, dac) := by
    rw [show outOf p2 c = _ from outOf_setOut_same .., ← outOf_takeSpan p c k c]
    split
    next h => rw [h.1]; rfl
    next => rfl
  have h3 : outOf p3 c = outOf p2 c := by
    unfold p3
    split <;> rfl
  exact (congrArg ownerOf h3).trans h2

theorem outTick_othersStay (p : Part) (c : Chan) (k : Nat) : OthersStay c p (outTick p c k) := by
  unfold outTick
  extract_lets p1 o dac wanted o' closed p2 p3
  have h2 : OthersStay c p p2 := (takeSpan_othersStay p c k).setOut _
  have h3 : OthersStay c p2 p3 := by
    unfold p3
    split
    · exact .refl c p2
    · exact .of_units rfl rfl rfl rfl
  exact (h2.trans h3).setReg _ _

/-! ## The markers of a parked channel -/

theorem showLine_owner (p : Part) (c : Chan) (line n : Nat) (b : Bool) : ownerOf (outOf (showLine p c line n b) c) = ownerOf (outOf p c) := by
  unfold showLine
  dsimp only
  split_ifs
  · rfl
  · exact Eq.trans (b := ownerOf { outOf p c with lines := _ }) (congrArg ownerOf (outOf_setOut_same ..)) rfl
  · exact Eq.trans (b := ownerOf { outOf p c with lines := _ }) (congrArg ownerOf (outOf_setOut_same ..)) rfl

theorem showLine_othersStay (p : Part) (c : Chan) (line n : Nat) (b : Bool) : OthersStay c p (showLine p c line n b) := by
  unfold showLine
  dsimp only
  split_ifs
  · exact .refl c p
  · exact ((OthersStay.refl c p).setOut _).trans (.of_units rfl rfl rfl rfl)
  · exact (OthersStay.refl c p).setOut _

theorem cutEdges_outs (p : Part) (c : Chan) (n : Nat) : (cutEdges p c n).outs = p.outs := by
  unfold cutEdges
  dsimp only
  split <;> rfl

theorem cutEdges_othersStay (p : Part) (c : Chan) (n : Nat) : OthersStay c p (cutEdges p c n) := by
  unfold cutEdges
  dsimp only
  split
  · exact (OthersStay.refl c p).setDp _
  · exact ((OthersStay.refl c p).setDp _).setReg _ _

/-- The edges in flight of a channel are cut and both its lines are low at sample 0 of tick k (R233). -/
def lowerMarks (p : Part) (c : Chan) (k : Nat) : Part :=
  let p := cutEdges p c 0
  let p := setDp p c { dpOf p c with marks := 0 }
  setReg ([0, 1].foldl (fun q l => showLine q c l (250 * k) false) p) (G.mrkLevel c) 0

/-- The markers of a parked channel wait for a start that is due, and are low else (R233, Table 09-6). -/
theorem markTick_parked (hp : parkDue p c k = false) (hd : (outOf p c).dac = false) :
    markTick p c k = if startDue p c k then p else lowerMarks p c k := by
  unfold markTick
  rw [if_neg (by rw [hp]; exact Bool.false_ne_true), if_neg (by rw [hd]; exact Bool.false_ne_true)]
  rfl

theorem lowerMarks_owner (p : Part) (c : Chan) (k : Nat) : ownerOf (outOf (lowerMarks p c k) c) = ownerOf (outOf p c) := by
  refine (foldl_frame (v := fun q => ownerOf (outOf q c)) (fun q l => showLine_owner q c l _ false) [0, 1] _).trans ?_
  show ownerOf ((cutEdges p c 0).outs.get c) = _
  rw [cutEdges_outs, outOf]

theorem lowerMarks_othersStay (p : Part) (c : Chan) (k : Nat) : OthersStay c p (lowerMarks p c k) :=
  (((cutEdges_othersStay p c 0).setDp _).trans (.fold (fun q l => showLine_othersStay q c l _ false) _ _)).setReg _ _

theorem markTick_parked_spec (hp : parkDue p c k = false) (hd : (outOf p c).dac = false) :
    ownerOf (outOf (markTick p c k) c) = ownerOf (outOf p c) ∧ OthersStay c p (markTick p c k) := by
  rw [markTick_parked hp hd]
  split
  · exact ⟨rfl, .refl c p⟩
  · exact ⟨lowerMarks_owner .., lowerMarks_othersStay ..⟩

end Sys2Proof.Machine
end

section
/-!
SUPPORT. O44: the output park task (R217), the loss of VDDO (R218), and what a channel fault ends (R225).
-/

namespace Sys2Proof.Machine

theorem exec_outputPark (c : Chan) (s : State) : exec (.outputPark c) s = lift (fun p => taskPark p c) s := by unfold exec; rfl
theorem exec_spanRampStart (c : Chan) (s : State) : exec (.spanRampStart c) s = lift (fun p => spanRamp p c) s := by unfold exec; rfl
theorem exec_spanRampEnd (c : Chan) (s : State) : exec (.spanRampEnd c) s = lift (fun p => spanHold p c) s := by unfold exec; rfl
theorem exec_spanReady (c : Chan) (s : State) : exec (.spanReady c) s = lift (fun p => spanDone p c) s := by unfold exec; rfl
theorem exec_channelFault (c : Chan) (cause : Fin 5) (at_ : Cyc) (s : State) :
    exec (.channelFault c cause at_) s = lift (fun p => channelFault p c cause at_) s := by unfold exec; rfl
theorem exec_faultClear (path : Path) (c : Chan) (value : Nat) (s : State) :
    exec (.faultClear path c value) s = lift (fun p => commandWrite p path (0x2000 + c.val) 0x08 value) s := by unfold exec; rfl
theorem exec_vddoLow (s : State) : exec .vddoLow s = lift vddoFalls s := by unfold exec; rfl

variable {p q r : Part} {path : Path} {c d : Chan} {l : Latch} {m n k i cause cyc : Nat}

/-! ## The park task -/

/-- The park task has taken its pulse, and no output or marker has followed yet. -/
def parkTaken (p : Part) (c : Chan) : Part :=
  let p := dropLatch p (chLatch c 18)
  setOut p c { outOf p c with task := true }

/-- The output of a channel whose park task has taken its pulse in the present tick. -/
def parkedOut (p : Part) (c : Chan) : Part := outTick (parkTaken p c) c p.time.tick

theorem taskPark_due (hl : latchAt p (chLatch c 18) = some l) (hk : l.pulse.tick + 3 ≤ p.time.tick) :
    taskPark p c = markTick (parkedOut p c) c p.time.tick := by
  unfold taskPark
  rw [hl]
  exact if_pos hk

theorem taskPark_before (h : ∀ l, latchAt p (chLatch c 18) = some l → p.time.tick < l.pulse.tick + 3) : taskPark p c = p := by
  unfold taskPark
  cases hl : latchAt p (chLatch c 18) with
  | none => rfl
  | some l => exact if_neg (Nat.not_le.mpr (h l hl))

theorem latchAt_parkTaken (p : Part) (c : Chan) (i : Nat) :
    latchAt (parkTaken p c) i = if i = chLatch c 18 then none else latchAt p i := by
  show latchAt (dropLatch p (chLatch c 18)) i = _
  split
  next h => rw [h, latchAt_dropLatch_same]
  next h => exact latchAt_dropLatch_ne p h

/-- Pulses that assert fill no latch. -/
theorem Moves.latchAt {K : Nat → Prop} {l : List Producer} (h : Moves K l p q) (i : Nat) : latchAt q i = Machine.latchAt p i := by
  rw [Machine.latchAt, h.fab, Machine.latchAt]

theorem parkedOut_owner (p : Part) (c : Chan) : ownerOf (outOf (parkedOut p c) c) = (true, false) := by
  have htask : (outOf (parkTaken p c) c).task = true := congrArg OutSt.task (outOf_setOut_same ..)
  rw [parkedOut, outTick_owner, htask, dacOwns_task ((congrArg OutSt.task (outOf_takeSpan ..)).trans htask)]

theorem parkedOut_othersStay (p : Part) (c : Chan) : OthersStay c p (parkedOut p c) := by
  have h : OthersStay c p (dropLatch p (chLatch c 18)) := .of_units rfl rfl rfl rfl
  exact (h.setOut _).trans (outTick_othersStay ..)

theorem parkedOut_parkDue (p : Part) (c : Chan) : parkDue (parkedOut p c) c k = false := by
  unfold parkDue
  rw [parkedOut, (outTick_moves ..).latchAt, latchAt_parkTaken, if_pos rfl]
  rfl

/-- A due pulse of the park task parks its output and empties its latch (R217). -/
theorem taskPark_spec (hl : latchAt p (chLatch c 18) = some l) (hk : l.pulse.tick + 3 ≤ p.time.tick) :
    let q := taskPark p c
    (outOf q c).task = true ∧ (outOf q c).dac = false ∧ (∀ i, latchAt q i = if i = chLatch c 18 then none else latchAt p i) ∧
      q.seqs = p.seqs ∧ q.plans = p.plans ∧ OthersStay c p q := by
  dsimp only
  have howner := parkedOut_owner p c
  obtain ⟨hsame, hothers⟩ := markTick_parked_spec (k := p.time.tick) (parkedOut_parkDue p c) (congrArg Prod.snd howner)
  have hout := outTick_moves (parkTaken p c) c p.time.tick
  obtain ⟨_, hmark⟩ := markTick_moves (parkedOut p c) c p.time.tick
  have hmoves := hout.trans hmark
  rw [taskPark_due hl hk]
  exact ⟨congrArg Prod.fst (hsame.trans howner), congrArg Prod.snd (hsame.trans howner),
    fun i => (hmoves.latchAt i).trans (latchAt_parkTaken p c i), seqs_of_restOf hmoves.rest, plans_of_restOf hmoves.rest,
    (parkedOut_othersStay p c).trans hothers⟩

/-! ## The loss of VDDO -/

/-- Whether a hand-off switch is closed, and whether a low VDDO has opened it. -/
def switchOf (o : OutSt) : Bool × Bool := (o.closed, o.shut)

/-- A closed switch is noted as one that a low VDDO opens (R374). -/
def noteShut (q : Part) (c : Chan) : Part := if (outOf q c).closed then setOut q c { outOf q c with shut := true } else q

/-- A closed switch opens at once (R218). -/
def openSwitch (q : Part) (c : Chan) : Part :=
  if (outOf q c).closed then
    putOutState (emptyWindow (setOut q c { outOf q c with closed := false, changed := q.time.tick + 1 }) c) c
  else q

/-- VDDO has fallen, and is low for a number of ticks. -/
def vddoDown (p : Part) : Part :=
  { p with life := { p.life with vddoTo := p.time.tick + 1 + Config.vddoTicks p.time.tick % max 1 (rampTicks p) } }

theorem openSwitches_eq (p : Part) : openSwitches p = (List.finRange 256).foldl openSwitch p := rfl

theorem vddoFalls_eq (p : Part) : vddoFalls p = settleMarkers (openSwitches ((List.finRange 256).foldl noteShut (vddoDown p))) := by
  unfold vddoFalls
  rfl

theorem noteShut_same (q : Part) (c : Chan) :
    switchOf (outOf (noteShut q c) c) = ((switchOf (outOf q c)).1, (switchOf (outOf q c)).2 || (switchOf (outOf q c)).1) := by
  unfold noteShut
  split
  next h =>
    rw [outOf_setOut_same]
    simp [switchOf, h]
  next h => simp [switchOf, h]

theorem noteShut_ne (q : Part) (c d : Chan) (h : d ≠ c) : switchOf (outOf (noteShut q c) d) = switchOf (outOf q d) := by
  unfold noteShut
  split
  · rw [outOf_setOut_ne _ h]
  · rfl

theorem openSwitch_same (q : Part) (c : Chan) : switchOf (outOf (openSwitch q c) c) = (false, (switchOf (outOf q c)).2) := by
  unfold openSwitch
  split
  · exact congrArg switchOf (outOf_setOut_same ..)
  next h => simp [switchOf, h]

theorem openSwitch_ne (q : Part) (c d : Chan) (h : d ≠ c) : switchOf (outOf (openSwitch q c) d) = switchOf (outOf q d) := by
  unfold openSwitch
  split
  · exact congrArg switchOf (outOf_setOut_ne _ h _)
  · rfl

theorem noteShut_moves (q : Part) (c : Chan) : Moves outKey [] q (noteShut q c) := by
  unfold noteShut
  split
  · exact (Moves.refl _ q).setOut _ _
  · exact .refl _ q

theorem openSwitch_moves (q : Part) (c : Chan) : Moves outKey [] q (openSwitch q c) := by
  unfold openSwitch
  split
  · exact (((Moves.refl _ q).setOut _ _).emptyWindow c).quiet (putOutState_moves ..)
  · exact .refl _ q

theorem noteShut_vddoLow (q : Part) (c : Chan) : vddoLow (noteShut q c) = vddoLow q := by
  unfold noteShut
  split <;> rfl

theorem openSwitch_vddoLow (q : Part) (c : Chan) : vddoLow (openSwitch q c) = vddoLow q := by
  unfold openSwitch
  split <;> rfl

theorem vddoDown_low (p : Part) : vddoLow (vddoDown p) = true := decide_eq_true (by show p.time.tick < p.time.tick + 1 + _; omega)

theorem noteShuts_spec (p : Part) :
    let q := (List.finRange 256).foldl noteShut p
    vddoLow q = vddoLow p ∧ (∀ d, switchOf (outOf q d) = ((outOf p d).closed, (outOf p d).shut || (outOf p d).closed)) ∧ Moves outKey [] p q :=
  ⟨foldl_frame noteShut_vddoLow _ p,
    foldl_each (v := fun q c => switchOf (outOf q c)) (g := fun x => (x.1, x.2 || x.1)) noteShut_same noteShut_ne p,
    .fold noteShut_moves _ p⟩

theorem openSwitches_spec (p : Part) :
    vddoLow (openSwitches p) = vddoLow p ∧ (∀ d, switchOf (outOf (openSwitches p) d) = (false, (outOf p d).shut)) ∧
      Moves outKey [] p (openSwitches p) := by
  rw [openSwitches_eq]
  exact ⟨foldl_frame openSwitch_vddoLow _ p,
    foldl_each (v := fun q c => switchOf (outOf q c)) (g := fun x => (false, x.2)) openSwitch_same openSwitch_ne p,
    .fold openSwitch_moves _ p⟩

/-- Between p and q nothing has changed but whether the marker pins are driven, and what has left the part. -/
def OnlyMarkerPins (p q : Part) : Prop := q = { p with life := { p.life with marksOn := q.life.marksOn }, sent := q.sent }

theorem OnlyMarkerPins.say (h : OnlyMarkerPins p q) (o : Out) : OnlyMarkerPins p (say q o) := by
  unfold OnlyMarkerPins at h ⊢
  rw [h]
  rfl

theorem settleMarkers_only (p : Part) : OnlyMarkerPins p (settleMarkers p) := by
  unfold settleMarkers
  dsimp only
  split
  · rfl
  · split
    · refine List.foldlRecOn _ _ (motive := OnlyMarkerPins p) rfl fun q hq c _ => ?_
      refine List.foldlRecOn _ _ (motive := OnlyMarkerPins p) hq fun r hr line _ => ?_
      split
      · exact hr.say _
      · exact hr
    · rfl

theorem settleMarkers_spec (p : Part) :
    vddoLow (settleMarkers p) = vddoLow p ∧ (settleMarkers p).outs = p.outs ∧ restOf (settleMarkers p) = restOf p := by
  have h : OnlyMarkerPins p (settleMarkers p) := settleMarkers_only p
  generalize settleMarkers p = q at h ⊢
  rw [h]
  exact ⟨rfl, rfl, rfl⟩

/-- With VDDO low every switch is open, and those that were closed are noted (R218, R374). -/
theorem vddoFalls_spec (p : Part) :
    let q := vddoFalls p
    vddoLow q = true ∧ (∀ d, (outOf q d).closed = false ∧ (outOf q d).shut = ((outOf p d).shut || (outOf p d).closed)) ∧
      q.seqs = p.seqs ∧ q.mem = p.mem ∧ q.plans = p.plans := by
  dsimp only
  rw [vddoFalls_eq]
  obtain ⟨hlow, hnoted, hmoves⟩ := noteShuts_spec (vddoDown p)
  generalize (List.finRange 256).foldl noteShut (vddoDown p) = u at hlow hnoted hmoves ⊢
  obtain ⟨glow, hopen, gmoves⟩ := openSwitches_spec u
  generalize openSwitches u = v at glow hopen gmoves ⊢
  obtain ⟨slow, souts, srest⟩ := settleMarkers_spec v
  generalize settleMarkers v = w at slow souts srest ⊢
  have hrest : restOf w = restOf p := (srest.trans gmoves.rest).trans hmoves.rest
  have hswitch (d : Chan) : switchOf (outOf w d) = (false, (outOf p d).shut || (outOf p d).closed) := by
    have hshut : (outOf u d).shut = ((outOf p d).shut || (outOf p d).closed) := congrArg Prod.snd (hnoted d)
    rw [outOf, souts, ← outOf, hopen, hshut]
  exact ⟨((slow.trans glow).trans hlow).trans (vddoDown_low p), fun d => ⟨congrArg Prod.fst (hswitch d), congrArg Prod.snd (hswitch d)⟩,
    seqs_of_restOf hrest, mem_of_restOf hrest, plans_of_restOf hrest⟩

/-! ## FAULT_CLEAR -/

/-- FAULT_CLEAR (Table 09-7). -/
def entryFaultClear : Entry := ⟨8, 8, 1, .bool, .wo, .live, 0, .none, false, false, .any, .cmd⟩

theorem lookup_faultClear (c : Chan) : lookup (0x2000 + c.val) 0x08 = .entry entryFaultClear 0x08 :=
  lookup_of (by omega) (entriesAt_2000 (by omega) (by omega)) rfl

theorem write_faultClear (ht : Takes p path (G.faultClear c) 1) :
    commandWrite p path (0x2000 + c.val) 0x08 1 = tell (clearFault (cleared p path (G.faultClear c)) c) path 0 :=
  commandWrite_takes (e := entryFaultClear) (by decide) (lookup_faultClear c) rfl nofun (ne_bpCommit (by omega)) ht
    ((effect_faultClear c).trans (onTrue_one _)) (jobs_of_adm rfl)

/-! ## What a fault ends -/

/-- FAULT_CAUSE and FAULT_COUNT of channel c. -/
def faultKey (c : Chan) (k : Nat) : Prop := k = G.faultCause c ∨ k = G.faultCount c

/-- From p to q only what the program of channel c holds has gone: the other sequencers, all outputs and datapaths, memory, producers, and the
channel's record of its faults are as they were. -/
structure ProgramGoes (c : Chan) (p q : Part) : Prop where
  seqs  : ∀ d, d ≠ c → seqOf q d = seqOf p d
  units : (q.outs, q.dps, q.mem, q.fab.producers) = (p.outs, p.dps, p.mem, p.fab.producers)
  regs  : ∀ k, faultKey c k → reg q k = reg p k

theorem ProgramGoes.refl (c : Chan) (p : Part) : ProgramGoes c p p := ⟨fun _ _ => rfl, rfl, fun _ _ => rfl⟩

theorem ProgramGoes.trans (h : ProgramGoes c p q) (g : ProgramGoes c q r) : ProgramGoes c p r :=
  ⟨fun d hd => (g.seqs d hd).trans (h.seqs d hd), g.units.trans h.units, fun k hk => (g.regs k hk).trans (h.regs k hk)⟩

section
variable (h : ProgramGoes c p q)
include h
theorem ProgramGoes.outs : q.outs = p.outs := congrArg (·.1) h.units
theorem ProgramGoes.producers : q.fab.producers = p.fab.producers := congrArg (·.2.2.2) h.units
theorem ProgramGoes.othersStay : OthersStay c p q :=
  ⟨fun d hd => ⟨by rw [outOf, h.outs, outOf], h.seqs d hd, by rw [dpOf, show q.dps = p.dps from congrArg (·.2.1) h.units, dpOf]⟩,
    congrArg (·.2.2.1) h.units⟩
end

/-- From p to q the program of channel c goes, and of its plans only that of tick m has changed: values are to change in it as well. -/
structure ProgramStops (c : Chan) (m : Nat) (p q : Part) : Prop extends ProgramGoes c p q where
  plan  : ∃ cut, planOf q c m = { planOf p c m with ops := (planOf p c m).ops ++ cut }
  plans : ∀ k, k ≠ m → planOf q c k = planOf p c k

theorem ProgramStops.of_plans (h : ProgramGoes c p q) (hp : q.plans = p.plans) : ProgramStops c m p q := by
  have hplan (k : Nat) : planOf q c k = planOf p c k := by rw [planOf, hp, planOf]
  exact ⟨h, ⟨[], by rw [hplan, List.append_nil]⟩, fun k _ => hplan k⟩

theorem ProgramStops.refl (c : Chan) (m : Nat) (p : Part) : ProgramStops c m p p := .of_plans (.refl c p) rfl

theorem ProgramStops.trans (h : ProgramStops c m p q) (g : ProgramStops c m q r) : ProgramStops c m p r := by
  obtain ⟨hgoes, ⟨cut, hcut⟩, hplans⟩ := h
  obtain ⟨ggoes, ⟨cut', gcut⟩, gplans⟩ := g
  refine ⟨hgoes.trans ggoes, ⟨cut ++ cut', ?_⟩, fun k hk => (gplans k hk).trans (hplans k hk)⟩
  rw [gcut, hcut, List.append_assoc]

theorem ProgramStops.setReg (h : ProgramStops c m p q) (hk : ¬ faultKey c k) (v : Nat) : ProgramStops c m p (setReg q k v) :=
  h.trans (.of_plans ⟨fun _ _ => rfl, rfl, fun _ hj => reg_setReg_ne q (by rintro rfl; exact hk hj) v⟩ rfl)
theorem ProgramStops.addReg (h : ProgramStops c m p q) (hk : ¬ faultKey c k) (v : Nat) : ProgramStops c m p (addReg q k v) := h.setReg hk _
theorem ProgramStops.setSeq (h : ProgramStops c m p q) (x : Seq) : ProgramStops c m p (setSeq q c x) :=
  h.trans (.of_plans ⟨fun _ hd => seqOf_setSeq_ne q hd x, rfl, fun _ _ => rfl⟩ rfl)

theorem ProgramStops.fold {α : Type} {f : Part → α → Part} (hf : ∀ q x, ProgramStops c m q (f q x)) (l : List α) (p : Part) :
    ProgramStops c m p (l.foldl f p) :=
  List.foldlRecOn l f (motive := ProgramStops c m p) (.refl c m p) fun q hq x _ => hq.trans (hf q x)

theorem autoHandover_stops (p : Part) (c : Chan) (i row cyc m : Nat) : ProgramStops c m p (autoHandover p i row cyc) := by
  unfold autoHandover
  split
  · exact .of_plans ⟨fun _ _ => rfl, rfl, fun _ _ => rfl⟩ rfl
  · exact .refl c m p

theorem pairFault_stops (p : Part) (c : Chan) (cyc m : Nat) : ProgramStops c m p (pairFault p c cyc) := by
  unfold pairFault
  split_ifs
  · exact .refl c m p
  · exact (ProgramStops.refl c m p).setReg (by unfold faultKey G.faultCause G.faultCount G.pairFlags gkey; omega) _
  · exact .refl c m p
  · exact autoHandover_stops ..

theorem dropEdges_stops (p : Part) (c : Chan) (k m : Nat) : ProgramStops c m p (dropEdges p c k) := by
  unfold dropEdges
  dsimp only
  split
  · exact .refl c m p
  · exact (ProgramStops.refl c m p).addReg (by unfold faultKey G.faultCause G.faultCount G.mrkCut gkey; omega) _

theorem cutRest_stops (p : Part) (c : Chan) (m j : Nat) : ProgramStops c m p (cutRest p c m j) := by
  unfold cutRest
  split
  · exact .refl c m p
  · exact ⟨⟨fun _ _ => rfl, rfl, fun _ _ => rfl⟩, ⟨_, planOf_addOp ..⟩, fun k hk => planOf_putPlan_tick _ (by rwa [planOf_tick])⟩

theorem retractAll_stops (p : Part) (c : Chan) (n gen m : Nat) : ProgramStops c m p (retractAll p c n gen) :=
  ((ProgramStops.refl c m p).addReg (by unfold faultKey G.faultCause G.faultCount G.leadDropped gkey; omega) _).setSeq _

theorem dropAllJumps_stops (p : Part) (c : Chan) (m : Nat) : ProgramStops c m p (dropAllJumps p c) := by
  refine .fold (fun q j => ?_) _ p
  have h : ProgramStops c m q (dropLatch q (chLatch c (8 + j.input))) := .of_plans ⟨fun _ _ => rfl, rfl, fun _ _ => rfl⟩ rfl
  exact h.addReg (by unfold faultKey G.faultCause G.faultCount G.jmpDrops gkey; omega) 1

theorem endReservation_stops (p : Part) (c : Chan) (m : Nat) : ProgramStops c m p (endReservation p c) := by
  obtain ⟨q, ⟨hq, hregs⟩, he⟩ := endReservation_frame p c
  rw [he]
  refine .of_plans ⟨fun d _ => by rw [hq]; rfl, by rw [hq], fun k hk => hregs k ?_⟩ (by rw [hq])
  rintro ⟨i, rfl⟩
  unfold faultKey G.faultCause G.faultCount G.sqSkipped gkey at hk
  omega

theorem dropFetched_stops (p : Part) (c : Chan) (k m : Nat) : ProgramStops c m p (dropFetched p c k) := by
  unfold dropFetched
  extract_lets s gone src p1
  have h : ProgramStops c m p p1 := .of_plans ⟨fun _ _ => rfl, rfl, fun _ _ => rfl⟩ rfl
  exact (h.setSeq _).addReg (by unfold faultKey G.faultCause G.faultCount G.pfDiscarded gkey; omega) _

theorem stopChan_stops (p : Part) (c : Chan) (m gen : Nat) : ProgramStops c m p (stopChan p c m gen) := by
  unfold stopChan
  extract_lets p1 p2 p3
  have h2 : ProgramStops c m p1 p2 := ((retractAll_stops ..).trans (dropAllJumps_stops ..)).trans (endReservation_stops ..)
  exact (((cutRest_stops ..).trans h2).trans (dropFetched_stops ..)).setSeq _

/-! ## A channel fault -/

/-- A fault is recorded and told: its cause and count, and FAULT in the core cycle of detection (R225). -/
def faultTold (p : Part) (c : Chan) (cause cyc : Nat) : Part :=
  raiseAt (addReg (orReg (atCyc p cyc) (G.faultCause c) (2 ^ cause)) (G.faultCount c) 1) p.time.tick (10 * cyc) (0x600 + c.val) 0

/-- A fault as the pair knows it, with the marker edges counted that are planned after tick k (R233, R339). -/
def faultCuts (p : Part) (c : Chan) (k cyc : Nat) : Part := dropEdges (pairFault p c cyc) c k

/-- The plans of channel c for ticks after k are discarded (R225). -/
def plansUpTo (p : Part) (c : Chan) (k : Nat) : Part :=
  { p with plans := p.plans.set c.val ((p.plans.get c).filter fun t => decide (t.tick ≤ k)) c.isLt }

/-- Channel c parks, from tick k on (R225, Table 09-6). -/
def parkFaulted (p : Part) (c : Chan) (k : Nat) : Part :=
  let p := setSeq p c { seqOf p c with act := .parked }
  let p := setOut p c { outOf p c with faultAt := some ((outOf p c).faultAt.getD k) }
  let p := setDp p c { dpOf p c with next := [] }
  addOp p c k (.set (G.seqState c) 6)

/-- Channel c as a fault in tick k has ended its program. -/
def faultStops (p : Part) (c : Chan) (k cyc : Nat) : Part := stopChan (plansUpTo (faultCuts p c k cyc) c k) c (k + 1) 0

theorem channelFault_eq (p : Part) (c : Chan) (cause cyc : Nat) :
    channelFault p c cause cyc = parkFaulted (faultStops (faultTold p c cause cyc) c p.time.tick cyc) c (p.time.tick + 1) := rfl

theorem faultCause_ne_faultCount (c d : Nat) : G.faultCause c ≠ G.faultCount d := fun h => by
  cases (outputKey_inj (by decide) (by decide) h).2

theorem faultTold_spec (p : Part) (c : Chan) (cause cyc : Nat) :
    let q := faultTold p c cause cyc
    reg q (G.faultCause c) = reg p (G.faultCause c) ||| 2 ^ cause ∧
      reg q (G.faultCount c) = (reg p (G.faultCount c) + 1) % 2 ^ regWidth (G.faultCount c) ∧
      (⟨25 * p.time.tick + cyc, ⟨p.time.tick, 10 * cyc, 0x600 + c.val, 0⟩⟩ : Producer) ∈ q.fab.producers := by
  refine ⟨?_, ?_, ?_⟩
  · exact (reg_setReg_ne _ (faultCause_ne_faultCount c c) _).trans (reg_setReg_same ..)
  · refine (reg_setReg_same ..).trans ?_
    rw [orReg, reg_setReg_ne _ (faultCause_ne_faultCount c c).symm, reg_atCyc]
  · rw [faultTold, raiseAt_producers, Nat.mul_div_cancel_left _ (by decide)]
    exact List.mem_append_right _ (List.mem_singleton_self _)

/-- The plan of a tick for which nothing is planned. -/
def noPlan (m : Nat) : TickPlan := ⟨m, [], [], [], [], [], [], false⟩

theorem plansUpTo_goes (p : Part) (c : Chan) (k : Nat) : ProgramGoes c p (plansUpTo p c k) := ⟨fun _ _ => rfl, rfl, fun _ _ => rfl⟩

theorem planOf_plansUpTo (h : k < m) : planOf (plansUpTo p c k) c m = noPlan m := by
  unfold planOf plansUpTo
  rw [vget_set_same, List.find?_eq_none.mpr]
  · rfl
  · intro t ht
    have hk : t.tick ≤ k := of_decide_eq_true (List.mem_filter.mp ht).2
    simpa using (hk.trans_lt h).ne

theorem faultStops_goes (p : Part) (c : Chan) (k cyc : Nat) : ProgramGoes c p (faultStops p c k cyc) := by
  have hcuts : ProgramGoes c p (faultCuts p c k cyc) := ((pairFault_stops p c cyc k).trans (dropEdges_stops ..)).toProgramGoes
  exact (hcuts.trans (plansUpTo_goes ..)).trans (stopChan_stops ..).toProgramGoes

/-- Of what was planned for later ticks nothing is left; the count of the edges cut may be planned for the next one (R225, R233). -/
theorem faultStops_plans (p : Part) (c : Chan) (k cyc : Nat) :
    (∃ cut, planOf (faultStops p c k cyc) c (k + 1) = { noPlan (k + 1) with ops := cut }) ∧
      ∀ m, k + 1 < m → planOf (faultStops p c k cyc) c m = noPlan m := by
  obtain ⟨-, ⟨cut, hcut⟩, hplans⟩ := stopChan_stops (plansUpTo (faultCuts p c k cyc) c k) c (k + 1) 0
  refine ⟨⟨cut, ?_⟩, fun m hm => (hplans m hm.ne').trans (planOf_plansUpTo (Nat.lt_of_succ_lt hm))⟩
  rw [planOf_plansUpTo (Nat.lt_succ_self k)] at hcut
  exact hcut

/-- A channel that parks: its sequencer, output, datapath and plan; nothing of another channel, no value and no producer changes. -/
theorem parkFaulted_spec (p : Part) (c : Chan) (k : Nat) :
    let q := parkFaulted p c k
    (seqOf q c).act = .parked ∧ outOf q c = { outOf p c with faultAt := some ((outOf p c).faultAt.getD k) } ∧ (dpOf q c).next = [] ∧
      planOf q c k = { planOf p c k with ops := (planOf p c k).ops ++ [.set (G.seqState c) 6] } ∧
      (∀ m, m ≠ k → planOf q c m = planOf p c m) ∧ OthersStay c p q ∧ q.gz = p.gz ∧ q.fab = p.fab := by
  refine ⟨?_, outOf_setOut_same .., ?_, planOf_addOp .., fun m hm => ?_, ?_, rfl, rfl⟩
  · exact congrArg Seq.act (seqOf_setSeq_same ..)
  · exact congrArg Dp.next (dpOf_setDp_same ..)
  · exact planOf_putPlan_tick _ (by rwa [planOf_tick])
  · exact ((((OthersStay.refl c p).setSeq _).setOut _).setDp _).trans (.of_units rfl rfl rfl rfl)

/-- What a channel fault makes (R225). -/
theorem channelFault_spec (p : Part) (c : Chan) (cause cyc : Nat) :
    let q := channelFault p c cause cyc
    let k := p.time.tick
    reg q (G.faultCause c) = reg p (G.faultCause c) ||| 2 ^ cause ∧
      reg q (G.faultCount c) = (reg p (G.faultCount c) + 1) % 2 ^ regWidth (G.faultCount c) ∧ (seqOf q c).act = .parked ∧
      (⟨25 * k + cyc, ⟨k, 10 * cyc, 0x600 + c.val, 0⟩⟩ : Producer) ∈ q.fab.producers ∧
      outOf q c = { outOf p c with faultAt := some ((outOf p c).faultAt.getD (k + 1)) } ∧ (dpOf q c).next = [] ∧
      (∃ cut, planOf q c (k + 1) = { noPlan (k + 1) with ops := cut ++ [.set (G.seqState c) 6] }) ∧
      (∀ m, k + 1 < m → planOf q c m = noPlan m) ∧ OthersStay c p q := by
  dsimp only
  rw [channelFault_eq]
  obtain ⟨hcause, hcount, hraised⟩ := faultTold_spec p c cause cyc
  have htold : OthersStay c p (faultTold p c cause cyc) := .of_units rfl rfl rfl rfl
  have hout : outOf (faultTold p c cause cyc) c = outOf p c := rfl
  generalize faultTold p c cause cyc = u at hcause hcount hraised htold hout ⊢
  have hgoes := faultStops_goes u c p.time.tick cyc
  obtain ⟨⟨cut, hcut⟩, hlater⟩ := faultStops_plans u c p.time.tick cyc
  generalize faultStops u c p.time.tick cyc = v at hgoes hcut hlater ⊢
  obtain ⟨hact, hparks, hnext, hplan, hplans, hothers, hgz, hfab⟩ := parkFaulted_spec v c (p.time.tick + 1)
  have hkey (k : Nat) (hk : faultKey c k) : reg (parkFaulted v c (p.time.tick + 1)) k = reg u k := (reg_of_gz hgz k).trans (hgoes.regs k hk)
  have hv : outOf v c = outOf p c := by rw [outOf, hgoes.outs, ← hout, outOf]
  refine ⟨(hkey _ (.inl rfl)).trans hcause, (hkey _ (.inr rfl)).trans hcount, hact, ?_, by rw [hparks, hv], hnext, ⟨cut, ?_⟩,
    fun m hm => (hplans m hm.ne').trans (hlater m hm), (htold.trans hgoes.othersStay).trans hothers⟩
  · rw [hfab, hgoes.producers]
    exact hraised
  · rw [hplan, hcut]

/-- Settles O44: the park task, the stages of a span change, a channel fault and the loss of VDDO are each said by their lemma. -/
theorem outputsParkSpanAndFault : Obligations.OutputsParkSpanAndFault := by
  unfold Obligations.OutputsParkSpanAndFault
  intro s c hw p o k others
  have hothers {q : Part} (h : OthersStay c p q) : others q := ⟨h.chans, h.mem⟩
  refine ⟨fun l hl hk => ?_, fun h => exec_next (exec_outputPark c s) hw (taskPark_before h), fun a ha => ?_, fun ha => ?_,
    fun cause cyc => ?_, fun path ht => ?_, ?_⟩
  · obtain ⟨htask, hdac, hlatch, hseqs, hplans, hstay⟩ := taskPark_spec hl hk
    exact ⟨_, exec_next (exec_outputPark c s) hw rfl, htask, hdac, hlatch, hseqs, hplans, hothers hstay⟩
  · refine ⟨fun hs hk => ?_, fun h => ?_, fun hs hk => ?_, fun h => ?_, fun hk => ?_, fun hk => ?_⟩
    · exact exec_next (exec_spanRampStart c s) hw ((spanRamp_eq p c).trans (spanMoves_due ha hs hk))
    · exact exec_next (exec_spanRampStart c s) hw ((spanRamp_eq p c).trans (spanMoves_waits ha h))
    · exact exec_next (exec_spanRampEnd c s) hw ((spanHold_eq p c).trans (spanMoves_due ha hs hk))
    · exact exec_next (exec_spanRampEnd c s) hw ((spanHold_eq p c).trans (spanMoves_waits ha h))
    · obtain ⟨hseqs, hstay, hready, hagain⟩ := spanDone_spec ha hk
      exact ⟨_, exec_next (exec_spanReady c s) hw rfl, hseqs, hothers hstay, hready, hagain⟩
    · exact exec_next (exec_spanReady c s) hw (spanDone_waits ha hk)
  · exact ⟨exec_next (exec_spanRampStart c s) hw ((spanRamp_eq p c).trans (spanMoves_none ha)),
      exec_next (exec_spanRampEnd c s) hw ((spanHold_eq p c).trans (spanMoves_none ha)), exec_next (exec_spanReady c s) hw (spanDone_none ha)⟩
  · obtain ⟨hcause, hcount, hact, hraised, hout, hnext, hplan, hplans, hstay⟩ := channelFault_spec p c cause cyc
    exact ⟨channelFault p c cause cyc, exec_next (exec_channelFault c cause cyc s) hw rfl, hcause, hcount, hact, hraised, hout, hnext, hplan,
      hplans, hothers hstay⟩
  · exact ⟨_, exec_next (exec_faultClear path c 1 s) hw (write_faultClear ht), reg_setReg_same ..,
      (OnlyRegs.refl _ _).setReg (List.mem_singleton_self _) 0⟩
  · exact ⟨_, exec_next (exec_vddoLow s) hw rfl, vddoFalls_spec p⟩

end Sys2Proof.Machine
end

section
/-!
SUPPORT. O46: the readings of Output Watch (R236 to R238, R246): measured values, the part as the check of the reference leaves it, and what becomes
of a reading; and the write of WATCH_CAUSE (R245).
-/

namespace Sys2Proof.Machine

theorem exec_watchReading (w : Fin 16) (outP outN : Int) (refOk : Bool) (s : State) :
    exec (.watchReading w outP outN refOk) s = lift (fun p => watchRead p w outP outN refOk) s := by unfold exec; rfl
theorem exec_watchVerdict (c : Chan) (s : State) : exec (.watchVerdict c) s = lift (fun p => watchCompare p c) s := by unfold exec; rfl
theorem exec_watchCauseClear (path : Path) (c : Chan) (mask : Nat) (s : State) :
    exec (.watchCauseClear path c mask) s = lift (fun p => commandWrite p path (0x2500 + c.val) 0x08 mask) s := by unfold exec; rfl

variable {p q : Part} {path : Path} {c d : Chan} {k v mask : Nat}

/-- Entries of Output Watch with different subindices are different entries, of one channel or of two. -/
theorem watchKey_ne {c d s t : Nat} (hs : s < 256) (ht : t < 256) (h : s ≠ t) : gkey (0x2500 + c) s ≠ gkey (0x2500 + d) t := fun e => by
  unfold gkey at e
  omega

/-! ## Watch state -/

theorem watch_setWatch_same (p : Part) (c : Chan) (w : WatchSt) : (setWatch p c w).watch.get c = w := vget_set_same ..
theorem watch_setWatch_ne (p : Part) (h : d ≠ c) (w : WatchSt) : (setWatch p c w).watch.get d = p.watch.get d := vget_set_ne _ h w

theorem reg_setWatch (p : Part) (c : Chan) (w : WatchSt) (k : Nat) : reg (setWatch p c w) k = reg p k := rfl

/-! ## Measured values -/

theorem measured_dvd (x : Int) (d : Nat) : 500 ∣ measured x d := Dvd.intro_left _ rfl

/-- A measured value is within half a step of 0.5 mV (R238). -/
theorem measured_near (x : Int) {d : Nat} (hd : 0 < d) : |d * measured x d - x| ≤ 250 * d := by
  have hm : 0 < 2 * ((500 * d : Nat) : Int) := by omega
  have hlow := Int.mul_ediv_self_le (x := 2 * x + ((500 * d : Nat) : Int)) hm.ne'
  have hhigh := Int.lt_mul_ediv_self_add (x := 2 * x + ((500 * d : Nat) : Int)) hm
  unfold measured roundHalfUp
  generalize (2 * x + ((500 * d : Nat) : Int)) / (2 * ((500 * d : Nat) : Int)) = y at hlow hhigh ⊢
  push_cast at hlow hhigh
  rw [abs_le]
  constructor <;> linarith

/-! ## A reading -/

/-- The part once converter w has checked itself against its reference (R246). -/
def refChecked (p : Part) (w : Fin 16) (refOk : Bool) : Part := if refOk then p else setRegBit p G.watchConvOk w.val false

/-- What is read of channel c in tick k (R237 to R239). -/
def readingOf (p : Part) (c : Chan) (k : Nat) (outP outN : Int) : WatchRd :=
  let s := watchOffset p c k
  let span := reg p (G.outSpan c)
  ⟨k, s, watchBlanked p c k s, !(outOf p c).closed, intended p c k s, differential span outP outN, common span outP outN, watchThreshold p c⟩

/-- The part with a reading of channel c recorded. -/
def recordReading (p : Part) (c : Chan) (r : WatchRd) : Part := setReg p (G.watchLast c) (watchRecord r)

/-- A reading of channel c is recorded, and waits for its comparison or is counted as blanked (R240, R242). -/
def keepReading (p : Part) (c : Chan) (r : WatchRd) : Part :=
  let p := recordReading p c r
  if r.blank then addReg p (G.watchBlanked c) 1 else setWatch p c { p.watch.get c with reading := some r }

theorem refChecked_only (p : Part) (w : Fin 16) (refOk : Bool) : OnlyRegs p (refChecked p w refOk) [G.watchConvOk] := by
  unfold refChecked
  split
  · exact .refl p _
  · exact (OnlyRegs.refl p _).setReg (List.mem_singleton_self _) _

theorem refChecked_tick (p : Part) (w : Fin 16) (refOk : Bool) : (refChecked p w refOk).time.tick = p.time.tick := by
  rw [(refChecked_only p w refOk).1]

/-- While the sample clock runs and the part is up outside a self-test, a converter reads its channel where that is enabled. -/
theorem watchRead_running {w : Fin 16} {outP outN : Int} {refOk : Bool} (hc : reg p G.clockState ≠ 2) (ht : p.life.test = 0)
    (ha : p.life.applied = true) (hh : p.life.held = false) :
    watchRead p w outP outN refOk =
      let q := refChecked p w refOk
      let c := watchChan w p.time.tick
      if reg q (G.watchEnable c) = 0 then q else keepReading q c (readingOf q c p.time.tick outP outN) := by
  rw [← refChecked_tick p w refOk]
  unfold watchRead
  rw [if_neg (by simp [hc, ht, ha, hh])]
  rfl

theorem differential_eq (span : Nat) (outP outN : Int) : differential span outP outN = measured (if 4 ≤ span then outP else outP - outN) 1 := by
  simp [differential, unipolar]

theorem common_eq (span : Nat) (outP outN : Int) : common span outP outN = if 4 ≤ span then measured outN 1 else measured (outP + outN) 2 := by
  simp [common, unipolar]

/-- The two legs by the span in force (R238). -/
theorem readingOf_eq (p : Part) (c : Chan) (k : Nat) (outP outN : Int) :
    readingOf p c k outP outN =
      let s := watchOffset p c k
      let one := 4 ≤ reg p (G.outSpan c)
      ⟨k, s, watchBlanked p c k s, !(outOf p c).closed, intended p c k s, measured (if one then outP else outP - outN) 1,
        if one then measured outN 1 else measured (outP + outN) 2, watchThreshold p c⟩ := by
  dsimp only
  rw [← differential_eq, ← common_eq]
  rfl

/-- The channel that a converter reads is one of its own sixteen (R236). -/
theorem watchChan_conv (w : Fin 16) (k : Nat) : (watchChan w k).val / 16 = w.val := by
  have hw := w.isLt
  show (16 * w.val + k % 16) % 256 / 16 = w.val
  omega

/-- Readings of a converter without its reference are blanked (R246, Table 10-1). -/
theorem readingOf_blank {w : Fin 16} (h : regBit p G.watchConvOk w.val = false) (k : Nat) (outP outN : Int) :
    (readingOf p (watchChan w k) k outP outN).blank = true := by
  show watchBlanked p _ _ _ = true
  unfold watchBlanked
  rw [watchChan_conv, h]
  simp

theorem refChecked_failed (p : Part) (w : Fin 16) : regBit (refChecked p w false) G.watchConvOk w.val = false := by
  rw [refChecked, if_neg Bool.false_ne_true, regBit_setRegBit, if_pos rfl]

theorem watchBlanked_ne_watchLast (c d : Nat) : G.watchBlanked c ≠ G.watchLast d := watchKey_ne (by decide) (by decide) (by decide)

theorem recordReading_last (p : Part) (c : Chan) (r : WatchRd) : reg (recordReading p c r) (G.watchLast c) = watchRecord r := reg_setReg_same ..

theorem recordReading_only (p : Part) (c : Chan) (r : WatchRd) : OnlyRegs p (recordReading p c r) [G.watchLast c] :=
  (OnlyRegs.refl p _).setReg (List.mem_singleton_self _) _

/-- The units of which Output Watch moves none but by a verdict. -/
def quietUnits (p : Part) : MemSt × Vector (List TickPlan) 256 × Vector Seq 256 × Vector OutSt 256 × FabSt :=
  (p.mem, p.plans, p.seqs, p.outs, p.fab)

section
variable (h : quietUnits q = quietUnits p)
include h
theorem mem_of_quietUnits : q.mem = p.mem := congrArg (·.1) h
theorem plans_of_quietUnits : q.plans = p.plans := congrArg (·.2.1) h
theorem seqs_of_quietUnits : q.seqs = p.seqs := congrArg (·.2.2.1) h
theorem outs_of_quietUnits : q.outs = p.outs := congrArg (·.2.2.2.1) h
theorem fab_of_quietUnits : q.fab = p.fab := congrArg (·.2.2.2.2) h
end

theorem quietUnits_setWatch (p : Part) (c : Chan) (w : WatchSt) : quietUnits (setWatch p c w) = quietUnits p := rfl

theorem OnlyRegs.quietUnits {l : List Nat} (h : OnlyRegs p q l) : quietUnits q = Machine.quietUnits p := by rw [h.1]; rfl
theorem OnlyRegs.watch {l : List Nat} (h : OnlyRegs p q l) : q.watch = p.watch := by rw [h.1]

/-- A blanked reading is recorded and counted. -/
theorem keepReading_blanked {r : WatchRd} (h : r.blank = true) :
    keepReading p c r = addReg (recordReading p c r) (G.watchBlanked c) 1 := if_pos h

/-- A reading that is not blanked is recorded and waits for its comparison. -/
theorem keepReading_compared {r : WatchRd} (h : r.blank = false) :
    keepReading p c r = setWatch (recordReading p c r) c { p.watch.get c with reading := some r } := by
  rw [← (recordReading_only p c r).watch]
  exact if_neg (by rw [h]; exact Bool.false_ne_true)

/-- Every reading is recorded; nothing of another channel changes, and no value but WATCH_LAST and WATCH_BLANKED. -/
theorem keepReading_spec (p : Part) (c : Chan) (r : WatchRd) :
    let q := keepReading p c r
    reg q (G.watchLast c) = watchRecord r ∧ SameRegs p q [G.watchLast c, G.watchBlanked c] ∧ quietUnits q = quietUnits p ∧
      (∀ d, d ≠ c → q.watch.get d = p.watch.get d) ∧
      (r.blank = false → q.watch.get c = { p.watch.get c with reading := some r } ∧ reg q (G.watchBlanked c) = reg p (G.watchBlanked c)) ∧
      (r.blank = true → q.watch = p.watch ∧
        reg q (G.watchBlanked c) = (reg p (G.watchBlanked c) + 1) % 2 ^ regWidth (G.watchBlanked c)) := by
  have hne := watchBlanked_ne_watchLast c c
  have hlast := recordReading_last p c r
  have honly := recordReading_only p c r
  have hblanked : reg (recordReading p c r) (G.watchBlanked c) = reg p (G.watchBlanked c) := honly.2 _ (by simpa using hne)
  dsimp only
  cases hb : r.blank with
  | true =>
    rw [keepReading_blanked hb]
    generalize recordReading p c r = u at hlast honly hblanked ⊢
    have hcounts : OnlyRegs p (addReg u (G.watchBlanked c) 1) [G.watchLast c, G.watchBlanked c] := (honly.mono (by simp)).setReg (by simp) _
    refine ⟨(reg_setReg_ne _ hne.symm _).trans hlast, hcounts.2, hcounts.quietUnits, fun d _ => by rw [hcounts.watch],
      fun h => absurd h.symm Bool.false_ne_true, fun _ => ⟨hcounts.watch, ?_⟩⟩
    rw [reg_addReg, if_pos rfl, hblanked]
  | false =>
    rw [keepReading_compared hb]
    generalize recordReading p c r = u at hlast honly hblanked ⊢
    have hsame : SameRegs p u [G.watchLast c, G.watchBlanked c] := honly.2.mono (by simp)
    exact ⟨(reg_setWatch ..).trans hlast, fun k hk => (reg_setWatch ..).trans (hsame k hk),
      (quietUnits_setWatch ..).trans honly.quietUnits, fun d hd => by rw [watch_setWatch_ne _ hd, honly.watch],
      fun _ => ⟨watch_setWatch_same .., (reg_setWatch ..).trans hblanked⟩, fun h => absurd h Bool.false_ne_true⟩

/-! ## WATCH_CAUSE -/

/-- WATCH_CAUSE (Table 10-5). -/
def entryWatchCause : Entry := ⟨8, 8, 1, .bits32, .rw, .live, 0, .none, false, false, .any, .w1c⟩

theorem lookup_watchCause (c : Chan) : lookup (0x2500 + c.val) 0x08 = .entry entryWatchCause 0x08 :=
  lookup_of (by omega) (entriesAt_2500 (by omega) (by omega)) rfl

/-- Causes written as 1 are cleared, and their classes re-armed (R245). -/
theorem clearOnes_watchCause (p : Part) (c : Chan) (m : Nat) : clearOnes p (G.watchCause c) m = rearm (clrReg p (G.watchCause c) m) c m := by
  have hdiv : G.watchCause c / 256 = 0x2500 + c.val := gkey_div _ _ (by decide)
  have hmod : G.watchCause c % 256 = 0x08 := gkey_mod _ _ (by decide)
  have hchan : chan (0x2500 + c.val) = c := Fin.ext (by show (0x2500 + c.val) % 256 = c.val; omega)
  unfold clearOnes
  rw [hdiv, hmod, if_pos ⟨by omega, rfl⟩, hchan]
  rfl

theorem write_watchCause (ht : Takes p path (G.watchCause c) mask) :
    commandWrite p path (0x2500 + c.val) 0x08 mask =
      tell (rearm (clrReg (cleared p path (G.watchCause c)) (G.watchCause c) mask) c mask) path 0 := by
  have hne : G.watchCause c ≠ G.timeSticky := by unfold G.watchCause G.timeSticky gkey; omega
  rw [commandWrite_applies (by decide) (lookup_watchCause c) nofun nofun ht, applyWrite_w1c rfl]
  exact congrArg (tell · path 0) ((if_neg hne).trans (clearOnes_watchCause ..))

/-- What a taken write of WATCH_CAUSE leaves and changes (R245). -/
theorem watchCause_spec (p : Part) (path : Path) (c : Chan) (mask : Nat) :
    let q := rearm (clrReg (cleared p path (G.watchCause c)) (G.watchCause c) mask) c mask
    reg q (G.watchCause c) = reg p (G.watchCause c) ^^^ (reg p (G.watchCause c) &&& mask) ∧
      q.watch.get c = { p.watch.get c with fired := (p.watch.get c).fired ^^^ ((p.watch.get c).fired &&& mask) } ∧
      (∀ d, d ≠ c → q.watch.get d = p.watch.get d) ∧ SameRegs (cleared p path (G.watchCause c)) q [G.watchCause c] ∧
      q.mem = p.mem ∧ q.plans = p.plans ∧ q.seqs = p.seqs ∧ q.outs = p.outs ∧ q.fab = p.fab := by
  have hgz : OnlyGz p (cleared p path (G.watchCause c)) := cleared_onlyGz ..
  have hcause : reg (cleared p path (G.watchCause c)) (G.watchCause c) = reg p (G.watchCause c) :=
    cleared_reg p path _ (by rw [G.watchCause, gkey_div _ _ (by decide)]; omega)
  generalize cleared p path (G.watchCause c) = u at hgz hcause ⊢
  have hwatch : u.watch = p.watch := by rw [hgz]
  refine ⟨?_, ?_, fun d hd => ?_, SameRegs.setReg (p := u) (q := u) (fun _ _ => rfl) (by simp) _, ?_⟩
  · rw [← hcause]
    exact reg_setReg_same ..
  · rw [← hwatch]
    exact watch_setWatch_same ..
  · rw [← hwatch]
    exact watch_setWatch_ne u hd _
  · rw [hgz]
    exact ⟨rfl, rfl, rfl, rfl, rfl⟩

end Sys2Proof.Machine
end

section
/-!
SUPPORT. O46: the verdict of a reading (R241, R242, R244). A channel fault leaves Output Watch as it was; the comparison counts the reading and
judges its classes; and a verdict acts once for those that are new.
-/

namespace Sys2Proof.Machine

variable {p q u : Part} {c d : Chan} {k m : Nat}

/-! ## A channel fault leaves Output Watch -/

/-- The entries of the channels' Watch (Table 10-5). -/
def watchKey (k : Nat) : Prop := k / 65536 = 0x25 ∧ k % 256 ≤ 0x13

/-- From p to q Watch state and the entries of the channels' Watch are as they were. -/
structure WatchStands (p q : Part) : Prop where
  watch : q.watch = p.watch
  regs  : ∀ k, watchKey k → reg q k = reg p k

theorem WatchStands.refl (p : Part) : WatchStands p p := ⟨rfl, fun _ _ => rfl⟩

theorem WatchStands.trans (h : WatchStands p q) (g : WatchStands q u) : WatchStands p u :=
  ⟨g.watch.trans h.watch, fun k hk => (g.regs k hk).trans (h.regs k hk)⟩

/-- A change of neither Watch state nor the register file. -/
theorem WatchStands.upd (h : WatchStands p q) (hw : u.watch = q.watch) (hg : u.gz.regs = q.gz.regs) : WatchStands p u :=
  h.trans ⟨hw, fun k _ => by rw [reg, hg, reg]⟩

theorem WatchStands.setReg (h : WatchStands p q) (hk : ¬ watchKey k) (v : Nat) : WatchStands p (setReg q k v) :=
  h.trans ⟨setReg_watch .., fun _ hj => reg_setReg_ne q (by rintro rfl; exact hk hj) v⟩
theorem WatchStands.addReg (h : WatchStands p q) (hk : ¬ watchKey k) (v : Nat) : WatchStands p (addReg q k v) := h.setReg hk _
theorem WatchStands.setSeq (h : WatchStands p q) (c : Chan) (x : Seq) : WatchStands p (setSeq q c x) := h.upd rfl rfl

theorem WatchStands.fold {α : Type} {f : Part → α → Part} (hf : ∀ q x, WatchStands q (f q x)) (l : List α) (p : Part) :
    WatchStands p (l.foldl f p) :=
  List.foldlRecOn l f (motive := WatchStands p) (.refl p) fun q hq x _ => hq.trans (hf q x)

theorem gkey_notWatch {i s : Nat} (hs : s < 256) (h : i / 256 ≠ 0x25 ∨ 0x13 < s) : ¬ watchKey (gkey i s) := by
  rintro ⟨hi, hsub⟩
  rw [gkey_mod _ _ hs] at hsub
  unfold gkey at hi
  omega

theorem pairFault_watchStands (p : Part) (c : Chan) (cyc : Nat) : WatchStands p (pairFault p c cyc) := by
  unfold pairFault
  split_ifs
  · exact .refl p
  · exact (WatchStands.refl p).setReg (gkey_notWatch (by decide) (.inl (by decide))) _
  · exact .refl p
  · unfold autoHandover
    split
    · exact (WatchStands.refl p).upd rfl rfl
    · exact .refl p

theorem dropEdges_watchStands (p : Part) (c : Chan) (k : Nat) : WatchStands p (dropEdges p c k) := by
  unfold dropEdges
  dsimp only
  split
  · exact .refl p
  · exact (WatchStands.refl p).addReg (gkey_notWatch (by decide) (.inl (by omega))) _

theorem cutRest_watchStands (p : Part) (c : Chan) (m j : Nat) : WatchStands p (cutRest p c m j) := by
  unfold cutRest
  split
  · exact .refl p
  · exact (WatchStands.refl p).upd rfl rfl

theorem retractAll_watchStands (p : Part) (c : Chan) (n gen : Nat) : WatchStands p (retractAll p c n gen) :=
  ((WatchStands.refl p).addReg (gkey_notWatch (by decide) (.inl (by omega))) _).setSeq ..

theorem dropAllJumps_watchStands (p : Part) (c : Chan) : WatchStands p (dropAllJumps p c) := by
  refine .fold (fun q j => ?_) _ p
  have h : WatchStands q (dropLatch q (chLatch c (8 + j.input))) := (WatchStands.refl q).upd rfl rfl
  exact h.addReg (gkey_notWatch (by decide) (.inl (by omega))) 1

theorem endReservation_watchStands (p : Part) (c : Chan) : WatchStands p (endReservation p c) := by
  obtain ⟨q, ⟨hq, hregs⟩, he⟩ := endReservation_frame p c
  rw [he]
  refine WatchStands.upd (q := q) ⟨by rw [hq], fun k hk => hregs k ?_⟩ rfl rfl
  rintro ⟨i, rfl⟩
  exact gkey_notWatch (by decide) (.inr (by decide)) hk

theorem dropFetched_watchStands (p : Part) (c : Chan) (k : Nat) : WatchStands p (dropFetched p c k) := by
  unfold dropFetched
  extract_lets s gone src p1
  have h : WatchStands p p1 := (WatchStands.refl p).upd rfl rfl
  exact (h.setSeq _ _).addReg (gkey_notWatch (by decide) (.inl (by omega))) _

theorem stopChan_watchStands (p : Part) (c : Chan) (m gen : Nat) : WatchStands p (stopChan p c m gen) := by
  unfold stopChan
  extract_lets p1 p2 p3
  have h2 : WatchStands p1 p2 :=
    ((retractAll_watchStands ..).trans (dropAllJumps_watchStands ..)).trans (endReservation_watchStands ..)
  exact (((cutRest_watchStands ..).trans h2).trans (dropFetched_watchStands ..)).setSeq ..

theorem faultTold_watchStands (p : Part) (c : Chan) (cause cyc : Nat) : WatchStands p (faultTold p c cause cyc) := by
  have h : WatchStands p (atCyc p cyc) := (WatchStands.refl p).upd rfl rfl
  exact ((h.setReg (gkey_notWatch (by decide) (.inl (by omega))) _).addReg (gkey_notWatch (by decide) (.inl (by omega))) _).upd rfl rfl

theorem faultStops_watchStands (p : Part) (c : Chan) (k cyc : Nat) : WatchStands p (faultStops p c k cyc) := by
  have hcuts : WatchStands p (faultCuts p c k cyc) := (pairFault_watchStands ..).trans (dropEdges_watchStands ..)
  exact (hcuts.upd (u := plansUpTo (faultCuts p c k cyc) c k) rfl rfl).trans (stopChan_watchStands ..)

theorem parkFaulted_watchStands (p : Part) (c : Chan) (k : Nat) : WatchStands p (parkFaulted p c k) := by
  obtain ⟨-, -, -, -, -, -, hgz, -⟩ := parkFaulted_spec p c k
  refine ⟨?_, fun j _ => reg_of_gz hgz j⟩
  unfold parkFaulted
  simp only [addOp_watch, setDp_watch, setOut_watch, setSeq_watch]

/-- A channel fault parks its channel, and leaves Output Watch as it was (R225, R245). -/
theorem channelFault_watchStands (p : Part) (c : Chan) (cause cyc : Nat) : WatchStands p (channelFault p c cause cyc) := by
  rw [channelFault_eq]
  exact ((faultTold_watchStands ..).trans (faultStops_watchStands ..)).trans (parkFaulted_watchStands ..)

/-- A pulse that asserts before a channel fault asserts still. -/
theorem channelFault_asserted {x : Producer} (hx : x ∈ p.fab.producers) (c : Chan) (cause cyc : Nat) :
    x ∈ (channelFault p c cause cyc).fab.producers := by
  rw [channelFault_eq]
  obtain ⟨-, -, -, -, -, -, -, hfab⟩ := parkFaulted_spec (faultStops (faultTold p c cause cyc) c p.time.tick cyc) c (p.time.tick + 1)
  rw [hfab, (faultStops_goes ..).producers, faultTold, raiseAt_producers]
  exact List.mem_append_left _ hx

/-! ## A verdict -/

/-- WATCH_CAUSE, the counts of verdicts and WATCH_CLASS take a verdict of the classes m (R242). -/
def verdictNoted (p : Part) (c : Chan) (m : Nat) : Part :=
  setReg (addReg (addReg (orReg p (G.watchCause c) m) (G.watchVerdicts c) 1) G.watchVerdictsAll 1) (G.watchClass c) (topClass m)

/-- A verdict is noted, and WATCH asserts at core cycle 5 where its action a asks for that (R242, R244). -/
def verdictTold (p : Part) (c : Chan) (m a : Nat) : Part :=
  if 1 ≤ a then raiseAt (verdictNoted p c m) p.time.tick 50 (0x700 + c.val) 0 else verdictNoted p c m

/-- The entries that a verdict moves. -/
def verdictKeys (c : Chan) : List Nat := [G.watchCause c, G.watchVerdicts c, G.watchVerdictsAll, G.watchClass c]

theorem verdictNoted_only (p : Part) (c : Chan) (m : Nat) : OnlyRegs p (verdictNoted p c m) (verdictKeys c) := by
  unfold verdictNoted verdictKeys
  exact ((((OnlyRegs.refl p _).setReg (by simp) _).setReg (by simp) _).setReg (by simp) _).setReg (by simp) _

theorem watchVerdictsAll_ne {c s : Nat} (hs : s < 256) : gkey (0x2500 + c) s ≠ G.watchVerdictsAll := by
  unfold G.watchVerdictsAll gkey
  omega

/-- The entries of Output Watch that a verdict leaves, by their subindices. -/
theorem watchKey_notVerdict {c : Chan} {s : Nat} (h : s < 256 ∧ s ≠ 0x08 ∧ s ≠ 0x09 ∧ s ≠ 0x0D) : gkey (0x2500 + c.val) s ∉ verdictKeys c := by
  intro hk
  simp only [verdictKeys, List.mem_cons, List.not_mem_nil, or_false, G.watchCause, G.watchVerdicts, G.watchVerdictsAll, G.watchClass, gkey] at hk
  omega

theorem faultCause_notVerdict (c : Chan) : G.faultCause c ∉ verdictKeys c := by
  intro hk
  simp only [verdictKeys, List.mem_cons, List.not_mem_nil, or_false, G.faultCause, G.watchCause, G.watchVerdicts, G.watchVerdictsAll,
    G.watchClass, gkey] at hk
  omega

theorem verdictNoted_cause (p : Part) (c : Chan) (m : Nat) : reg (verdictNoted p c m) (G.watchCause c) = reg p (G.watchCause c) ||| m := by
  have h1 : G.watchCause c ≠ G.watchClass c := watchKey_ne (by decide) (by decide) (by decide)
  have h2 : G.watchCause c ≠ G.watchVerdicts c := watchKey_ne (by decide) (by decide) (by decide)
  have h3 : G.watchCause c ≠ G.watchVerdictsAll := watchVerdictsAll_ne (by decide)
  rw [verdictNoted, reg_setReg_ne _ h1, reg_addReg, if_neg h3, reg_addReg, if_neg h2, reg_orReg, if_pos rfl]

theorem verdictNoted_verdicts (p : Part) (c : Chan) (m : Nat) :
    reg (verdictNoted p c m) (G.watchVerdicts c) = (reg p (G.watchVerdicts c) + 1) % 2 ^ regWidth (G.watchVerdicts c) := by
  have h1 : G.watchVerdicts c ≠ G.watchClass c := watchKey_ne (by decide) (by decide) (by decide)
  have h2 : G.watchVerdicts c ≠ G.watchCause c := watchKey_ne (by decide) (by decide) (by decide)
  have h3 : G.watchVerdicts c ≠ G.watchVerdictsAll := watchVerdictsAll_ne (by decide)
  rw [verdictNoted, reg_setReg_ne _ h1, reg_addReg, if_neg h3, reg_addReg, if_pos rfl, reg_orReg, if_neg h2]

/-- The action of a verdict is the one in force before it. -/
theorem verdictNoted_action (p : Part) (c : Chan) (m : Nat) : reg (verdictNoted p c m) (G.watchAction c) = reg p (G.watchAction c) :=
  (verdictNoted_only p c m).2 _ (watchKey_notVerdict (by decide))

theorem verdict_eq (p : Part) (c : Chan) (m : Nat) :
    verdict p c m =
      let a := strongest (reg p (G.watchAction c)) m
      if a = 2 then channelFault (verdictTold p c m a) c 1 5 else verdictTold p c m a := by
  rw [← verdictNoted_action p c m]
  rfl

/-- The classes m that newly reach their verdict are acted on (R242). -/
def actOnClasses (p : Part) (c : Chan) (m : Nat) : Part := if m = 0 then p else verdict p c m

/-- From p to q channel c has its verdict of the classes m, where there are any, with the strongest of their actions (R242, R244). -/
structure Acted (c : Chan) (m : Nat) (p q : Part) : Prop where
  cause : reg q (G.watchCause c) = reg p (G.watchCause c) ||| m
  count : reg q (G.watchVerdicts c) =
    if m = 0 then reg p (G.watchVerdicts c) else (reg p (G.watchVerdicts c) + 1) % 2 ^ regWidth (G.watchVerdicts c)
  regs  : ∀ k, watchKey k → k ∉ verdictKeys c → reg q k = reg p k
  watch : q.watch = p.watch
  seqs  : ∀ d, d ≠ c → seqOf q d = seqOf p d
  mem   : q.mem = p.mem
  told  : m ≠ 0 → 1 ≤ strongest (reg p (G.watchAction c)) m →
    (⟨25 * p.time.tick + 5, ⟨p.time.tick, 50, 0x700 + c.val, 0⟩⟩ : Producer) ∈ q.fab.producers
  parks : m ≠ 0 → strongest (reg p (G.watchAction c)) m = 2 →
    (seqOf q c).act = .parked ∧ reg q (G.faultCause c) = reg p (G.faultCause c) ||| 2
  runs  : m = 0 ∨ strongest (reg p (G.watchAction c)) m < 2 → q.seqs = p.seqs ∧ q.plans = p.plans

theorem verdictTold_gz (p : Part) (c : Chan) (m a : Nat) : (verdictTold p c m a).gz = (verdictNoted p c m).gz := by
  unfold verdictTold
  split <;> rfl

theorem verdictTold_units (p : Part) (c : Chan) (m a : Nat) :
    (verdictTold p c m a).watch = p.watch ∧ (verdictTold p c m a).seqs = p.seqs ∧ (verdictTold p c m a).plans = p.plans ∧
      (verdictTold p c m a).mem = p.mem := by
  have h : OnlyRegs p (verdictNoted p c m) (verdictKeys c) := verdictNoted_only ..
  unfold verdictTold
  generalize verdictNoted p c m = u at h ⊢
  rw [h.1]
  split <;> exact ⟨rfl, rfl, rfl, rfl⟩

theorem verdictTold_asserts (p : Part) (c : Chan) (m : Nat) {a : Nat} (ha : 1 ≤ a) :
    (⟨25 * p.time.tick + 5, ⟨p.time.tick, 50, 0x700 + c.val, 0⟩⟩ : Producer) ∈ (verdictTold p c m a).fab.producers := by
  rw [verdictTold, if_pos ha, raiseAt_producers]
  exact List.mem_append_right _ (List.mem_singleton_self _)

/-- A verdict acts as the strongest action of its classes says: a park is a fault of the channel with cause bit 1 (R244). -/
theorem actOnClasses_acted (p : Part) (c : Chan) (m : Nat) : Acted c m p (actOnClasses p c m) := by
  unfold actOnClasses
  split
  next hm =>
    subst hm
    exact ⟨(Nat.or_zero _).symm, rfl, fun _ _ _ => rfl, rfl, fun _ _ => rfl, rfl, fun h => absurd rfl h, fun h => absurd rfl h, fun _ => ⟨rfl, rfl⟩⟩
  next hm =>
    rw [verdict_eq]
    dsimp only
    generalize ha : strongest (reg p (G.watchAction c)) m = a
    have hreg (k : Nat) : reg (verdictTold p c m a) k = reg (verdictNoted p c m) k := reg_of_gz (verdictTold_gz ..) k
    have hcause := (hreg _).trans (verdictNoted_cause p c m)
    have hcount := (hreg _).trans (verdictNoted_verdicts p c m)
    have hregs (k : Nat) (hk : k ∉ verdictKeys c) : reg (verdictTold p c m a) k = reg p k := (hreg k).trans ((verdictNoted_only p c m).2 k hk)
    obtain ⟨hwatch, hseqs, hplans, hmem⟩ := verdictTold_units p c m a
    have htold (h : 1 ≤ a) := verdictTold_asserts p c m h
    generalize verdictTold p c m a = u at hcause hcount hregs hwatch hseqs hplans hmem htold ⊢
    have hseq (d : Chan) : seqOf u d = seqOf p d := by rw [seqOf, hseqs, seqOf]
    have hkey {s : Nat} (hs : s ≤ 0x13) : watchKey (gkey (0x2500 + c) s) := by unfold watchKey gkey; omega
    split
    next h2 =>
      obtain ⟨hfault, -, hact, -, -, -, -, -, hstay⟩ := channelFault_spec u c 1 5
      have hstands := channelFault_watchStands u c 1 5
      exact {
        cause := (hstands.regs _ (hkey (by decide))).trans hcause
        count := (hstands.regs _ (hkey (by decide))).trans (hcount.trans (if_neg hm).symm)
        regs := fun k hk hn => (hstands.regs k hk).trans (hregs k hn)
        watch := hstands.watch.trans hwatch
        seqs := fun d hd => (hstay.chans d hd).2.1.trans (hseq d)
        mem := hstay.mem.trans hmem
        told := fun _ h => channelFault_asserted (htold (ha ▸ h)) c 1 5
        parks := fun _ _ => ⟨hact, by rw [hfault, hregs _ (faultCause_notVerdict c)]; rfl⟩
        runs := fun h => by omega }
    next h2 =>
      exact {
        cause := hcause
        count := hcount.trans (if_neg hm).symm
        regs := fun k _ hn => hregs k hn
        watch := hwatch
        seqs := fun d _ => hseq d
        mem := hmem
        told := fun _ h => htold (ha ▸ h)
        parks := fun _ h => absurd (ha ▸ h) h2
        runs := fun _ => ⟨hseqs, hplans⟩ }

end Sys2Proof.Machine
end

section
/-!
SUPPORT. O46: the comparison of a reading (R241, R242): what it counts, the classes it judges, and what channel c records of them.
-/

namespace Sys2Proof.Machine

variable {p q : Part} {r : WatchRd} {c : Chan} {k : Nat}

/-! ## The counts of a comparison -/

/-- The entries that count the compared readings of channel c. -/
def countKeys (c : Chan) : List Nat := [G.watchReadings c, G.watchDeviations c]

/-- At core cycle 5 a reading is counted, and one that deviates is counted as that (R241). -/
def readingCounted (p : Part) (c : Chan) (r : WatchRd) : Part :=
  let p := addReg (atCyc p 5) (G.watchReadings c) 1
  if decide (r.thresh < |r.vd - r.expv| ∨ r.thresh < |r.vc|) then addReg p (G.watchDeviations c) 1 else p

theorem readingCounted_only (p : Part) (c : Chan) (r : WatchRd) : OnlyRegs (atCyc p 5) (readingCounted p c r) (countKeys c) := by
  have h : OnlyRegs (atCyc p 5) (addReg (atCyc p 5) (G.watchReadings c) 1) (countKeys c) :=
    (OnlyRegs.refl _ _).setReg (List.mem_cons_self ..) _
  unfold readingCounted
  dsimp only
  split
  · exact h.setReg (List.mem_cons_of_mem _ (List.mem_singleton_self _)) _
  · exact h

theorem readingCounted_readings (p : Part) (c : Chan) (r : WatchRd) :
    reg (readingCounted p c r) (G.watchReadings c) = (reg p (G.watchReadings c) + 1) % 2 ^ regWidth (G.watchReadings c) := by
  have hne : G.watchReadings c ≠ G.watchDeviations c := watchKey_ne (by decide) (by decide) (by decide)
  unfold readingCounted
  dsimp only
  split
  · rw [reg_addReg, if_neg hne, reg_addReg, if_pos rfl, reg_atCyc]
  · rw [reg_addReg, if_pos rfl, reg_atCyc]

theorem readingCounted_deviations (p : Part) (c : Chan) (r : WatchRd) :
    reg (readingCounted p c r) (G.watchDeviations c) = if r.thresh < |r.vd - r.expv| ∨ r.thresh < |r.vc|
      then (reg p (G.watchDeviations c) + 1) % 2 ^ regWidth (G.watchDeviations c) else reg p (G.watchDeviations c) := by
  have hne : G.watchDeviations c ≠ G.watchReadings c := watchKey_ne (by decide) (by decide) (by decide)
  unfold readingCounted
  simp only [decide_eq_true_eq]
  split
  · rw [reg_addReg, if_pos rfl, reg_addReg, if_neg hne, reg_atCyc]
  · rw [reg_addReg, if_neg hne, reg_atCyc]

/-- Entries of another index or subindex count no reading of channel c. -/
theorem notCounted {c : Chan} (h : k / 256 ≠ 0x2500 + c.val ∨ k % 256 ≠ 0x0A ∧ k % 256 ≠ 0x0C) : k ∉ countKeys c := by
  intro hk
  simp only [countKeys, List.mem_cons, List.not_mem_nil, or_false, G.watchReadings, G.watchDeviations, gkey] at hk
  omega

theorem gkey_notCounted {c : Chan} {s : Nat} (h : s < 256 ∧ s ≠ 0x0A ∧ s ≠ 0x0C) : gkey (0x2500 + c.val) s ∉ countKeys c :=
  notCounted (.inr (by rw [gkey_mod _ _ h.1]; exact h.2))

/-! ## The classes of a comparison -/

/-- The classes are judged by the limits in force and by the output, which counting a reading leaves. -/
theorem judge_of_same (ho : q.outs = p.outs) (h : SameRegs p q (countKeys c)) (w : WatchSt) (t : Int) : judge q c w t = judge p c w t := by
  have hkey {s : Nat} (hs : s < 256 ∧ s ≠ 0x0A ∧ s ≠ 0x0C) : reg q (gkey (0x2500 + c.val) s) = reg p (gkey (0x2500 + c.val) s) :=
    h _ (gkey_notCounted hs)
  have hpersist : reg q (G.watchPersist c) = reg p (G.watchPersist c) := hkey (by decide)
  have hdrift : reg q (G.watchDriftThresh c) = reg p (G.watchDriftThresh c) := hkey (by decide)
  have htol : reg q (G.watchGainTol c) = reg p (G.watchGainTol c) := hkey (by decide)
  have hload : reg q (G.watchLoadGain c) = reg p (G.watchLoadGain c) := hkey (by decide)
  have hspan : reg q (G.outSpan c) = reg p (G.outSpan c) := h _ (notCounted (.inl (by rw [G.outSpan, gkey_div _ _ (by decide)]; omega)))
  have hsize : reg q G.watchWindow = reg p G.watchWindow := h _ (notCounted (.inl (by rw [G.watchWindow, gkey_div _ _ (by decide)]; omega)))
  unfold judge watchGain outOf
  rw [hpersist, hdrift, htol, hload, hspan, hsize, ho]

/-- The classes of Watch state w that are still reported once those that are re-armed are taken off (R242). -/
def stillFired (w : WatchSt) (j : WatchJudge) : Nat := w.fired ^^^ (w.fired &&& classMask j.arms)

/-- The classes that newly reach their verdict (R242). -/
def newClasses (w : WatchSt) (j : WatchJudge) : Nat := classMask j.holds ^^^ (classMask j.holds &&& stillFired w j)

/-- Channel c's Watch state and published statistics after a judgement j (R242, Table 10-5). -/
def judgedPart (p : Part) (c : Chan) (w : WatchSt) (j : WatchJudge) : Part :=
  let p := setWatch p c { w with fired := stillFired w j ||| classMask j.holds }
  setReg (setReg p (G.watchDriftNow c) (ofSigned 32 j.mean)) (G.watchGainNow c) (ofSigned 32 j.slope)

/-- A reading of an earlier tick is counted, judged, and acted on where classes newly reach their verdict. -/
theorem watchCompare_due (hr : (p.watch.get c).reading = some r) (hk : r.tick < p.time.tick) (ht : p.life.test = 0) :
    watchCompare p c =
      let w := takeReading (p.watch.get c) (reg p G.watchWindow) r
      let j := judge p c w r.thresh
      actOnClasses (judgedPart (readingCounted p c r) c w j) c (newClasses w j) := by
  have honly := readingCounted_only p c r
  have hregs : SameRegs p (readingCounted p c r) (countKeys c) := honly.2
  have houts : (readingCounted p c r).outs = p.outs := by rw [honly.1]; rfl
  have hsize : reg (readingCounted p c r) G.watchWindow = reg p G.watchWindow :=
    hregs _ (notCounted (.inl (by rw [G.watchWindow, gkey_div _ _ (by decide)]; omega)))
  rw [← hsize]
  simp only [← judge_of_same houts hregs]
  unfold watchCompare
  extract_lets w0
  rw [show w0.reading = some r from hr]
  exact if_neg (by omega)

/-! ## What a judgement records -/

/-- The entries that publish the statistics of channel c. -/
def statKeys (c : Chan) : List Nat := [G.watchDriftNow c, G.watchGainNow c]

theorem judgedPart_only (p : Part) (c : Chan) (w : WatchSt) (j : WatchJudge) :
    OnlyRegs (setWatch p c { w with fired := stillFired w j ||| classMask j.holds }) (judgedPart p c w j) (statKeys c) := by
  unfold judgedPart statKeys
  exact ((OnlyRegs.refl _ _).setReg (by simp) _).setReg (by simp) _

theorem judgedPart_drift (p : Part) (c : Chan) (w : WatchSt) (j : WatchJudge) :
    reg (judgedPart p c w j) (G.watchDriftNow c) = ofSigned 32 j.mean :=
  (reg_setReg_ne _ (watchKey_ne (by decide) (by decide) (by decide)) _).trans (reg_setReg_same ..)

theorem judgedPart_gain (p : Part) (c : Chan) (w : WatchSt) (j : WatchJudge) :
    reg (judgedPart p c w j) (G.watchGainNow c) = ofSigned 32 j.slope := reg_setReg_same ..

/-- Entries of another index or subindex publish no statistic of channel c. -/
theorem notStat {c : Chan} (h : k / 256 ≠ 0x2500 + c.val ∨ k % 256 ≠ 0x0E ∧ k % 256 ≠ 0x0F) : k ∉ statKeys c := by
  intro hk
  simp only [statKeys, List.mem_cons, List.not_mem_nil, or_false, G.watchDriftNow, G.watchGainNow, gkey] at hk
  omega

theorem gkey_notStat {c : Chan} {s : Nat} (h : s < 256 ∧ s ≠ 0x0E ∧ s ≠ 0x0F) : gkey (0x2500 + c.val) s ∉ statKeys c :=
  notStat (.inr (by rw [gkey_mod _ _ h.1]; exact h.2))

/-- What a part judged after the counting of a reading is beside the values it publishes. -/
theorem judged_spec (p : Part) (c : Chan) (r : WatchRd) (w : WatchSt) (j : WatchJudge) :
    let q := judgedPart (readingCounted p c r) c w j
    q.watch.get c = { w with fired := stillFired w j ||| classMask j.holds } ∧ (∀ d, d ≠ c → q.watch.get d = p.watch.get d) ∧
      quietUnits q = quietUnits p ∧ q.time.tick = p.time.tick ∧
      (∀ k, k ∉ statKeys c → reg q k = reg (readingCounted p c r) k) ∧ SameRegs p q (countKeys c ++ statKeys c) := by
  have hcounted := readingCounted_only p c r
  generalize readingCounted p c r = u at hcounted ⊢
  have hjudged := judgedPart_only u c w j
  generalize judgedPart u c w j = v at hjudged ⊢
  have hwatch : u.watch = p.watch := hcounted.watch
  have hreg (k : Nat) (hk : k ∉ statKeys c) : reg v k = reg u k := (hjudged.2 k hk).trans (reg_setWatch ..)
  refine ⟨?_, fun d hd => ?_, ?_, ?_, hreg, fun k hk => ?_⟩
  · rw [hjudged.watch, watch_setWatch_same]
  · rw [hjudged.watch, watch_setWatch_ne _ hd, hwatch]
  · exact (hjudged.quietUnits.trans (quietUnits_setWatch ..)).trans hcounted.quietUnits
  · rw [hjudged.1, hcounted.1]
    rfl
  · obtain ⟨hcount, hstat⟩ := not_or.mp (mt List.mem_append.mpr hk)
    exact (hreg k hstat).trans (hcounted.2 k hcount)

end Sys2Proof.Machine
end

section
/-! SUPPORT. O46: Output Watch reads, judges and acts (chapter 10). -/

namespace Sys2Proof.Machine

variable {p : Part} {r : WatchRd} {c : Chan}

/-- What the comparison of a reading of an earlier tick makes: counts, statistics, and one act for the classes that newly reach their verdict
(R241 to R244). -/
theorem watchCompare_spec (hr : (p.watch.get c).reading = some r) (hk : r.tick < p.time.tick) (ht : p.life.test = 0) :
    let w := takeReading (p.watch.get c) (reg p G.watchWindow) r
    let j := judge p c w r.thresh
    let new := newClasses w j
    let act := strongest (reg p (G.watchAction c)) new
    let q := watchCompare p c
    q.watch.get c = { w with fired := stillFired w j ||| classMask j.holds } ∧
      reg q (G.watchReadings c) = (reg p (G.watchReadings c) + 1) % 2 ^ regWidth (G.watchReadings c) ∧
      reg q (G.watchDeviations c) = (if r.thresh < |r.vd - r.expv| ∨ r.thresh < |r.vc|
        then (reg p (G.watchDeviations c) + 1) % 2 ^ regWidth (G.watchDeviations c) else reg p (G.watchDeviations c)) ∧
      reg q (G.watchCause c) = reg p (G.watchCause c) ||| new ∧ reg q (G.watchDriftNow c) = ofSigned 32 j.mean ∧
      reg q (G.watchGainNow c) = ofSigned 32 j.slope ∧
      reg q (G.watchVerdicts c) = (if new = 0 then reg p (G.watchVerdicts c) else (reg p (G.watchVerdicts c) + 1) % 2 ^ regWidth (G.watchVerdicts c)) ∧
      (new ≠ 0 → 1 ≤ act → (⟨25 * p.time.tick + 5, ⟨p.time.tick, 50, 0x700 + c.val, 0⟩⟩ : Producer) ∈ q.fab.producers) ∧
      (new ≠ 0 → act = 2 → (seqOf q c).act = .parked ∧ reg q (G.faultCause c) = reg p (G.faultCause c) ||| 2) ∧
      (new = 0 ∨ act < 2 → q.seqs = p.seqs ∧ q.plans = p.plans) ∧ (∀ d, d ≠ c → q.watch.get d = p.watch.get d ∧ seqOf q d = seqOf p d) ∧
      q.mem = p.mem := by
  extract_lets w j new act q
  have hq : q = actOnClasses (judgedPart (readingCounted p c r) c w j) c new := watchCompare_due hr hk ht
  have hreadings := readingCounted_readings p c r
  have hdeviations := readingCounted_deviations p c r
  have hdrift := judgedPart_drift (readingCounted p c r) c w j
  have hgain := judgedPart_gain (readingCounted p c r) c w j
  obtain ⟨hsame, hothers, hunits, htick, hcounted, hregs⟩ := judged_spec p c r w j
  generalize readingCounted p c r = b at *
  generalize judgedPart b c w j = u at *
  have hacted : Acted c new u q := hq ▸ actOnClasses_acted u c new
  have hleft {s : Nat} (h : s ≤ 0x13 ∧ s ≠ 0x08 ∧ s ≠ 0x09 ∧ s ≠ 0x0D) : reg q (gkey (0x2500 + c.val) s) = reg u (gkey (0x2500 + c.val) s) :=
    hacted.regs _ (by unfold watchKey gkey; omega) (watchKey_notVerdict (by omega))
  have hentry {s : Nat} (h : s < 0x0A ∨ s = 0x0D) : reg u (gkey (0x2500 + c.val) s) = reg p (gkey (0x2500 + c.val) s) :=
    hregs _ (by rw [List.mem_append, not_or]; exact ⟨gkey_notCounted (by omega), gkey_notStat (by omega)⟩)
  have haction : reg u (G.watchAction c) = reg p (G.watchAction c) := hentry (by decide)
  have hverdicts : reg u (G.watchVerdicts c) = reg p (G.watchVerdicts c) := hentry (by decide)
  have hcause : reg u (G.watchCause c) = reg p (G.watchCause c) := hentry (by decide)
  have hfault : reg u (G.faultCause c) = reg p (G.faultCause c) := hregs _ (by
    have hdiv : G.faultCause c / 256 ≠ 0x2500 + c.val := by rw [G.faultCause, gkey_div _ _ (by decide)]; omega
    rw [List.mem_append, not_or]
    exact ⟨notCounted (.inl hdiv), notStat (.inl hdiv)⟩)
  have hseqs := seqs_of_quietUnits hunits
  have hact : strongest (reg u (G.watchAction c)) new = act := by rw [haction]
  refine ⟨by rw [hacted.watch, hsame], ?_, ?_, by rw [hacted.cause, hcause], (hleft (by decide)).trans hdrift, (hleft (by decide)).trans hgain,
    by rw [hacted.count, hverdicts], fun hn ha => ?_, fun hn ha => ?_, fun h => ?_, fun d hd => ⟨by rw [hacted.watch, hothers d hd], ?_⟩,
    hacted.mem.trans (mem_of_quietUnits hunits)⟩
  · exact ((hleft (by decide)).trans (hcounted _ (gkey_notStat (by decide)))).trans hreadings
  · exact ((hleft (by decide)).trans (hcounted _ (gkey_notStat (by decide)))).trans hdeviations
  · rw [← htick]
    exact hacted.told hn (hact.symm ▸ ha)
  · rw [← hfault]
    exact hacted.parks hn (hact.trans ha)
  · obtain ⟨gseqs, gplans⟩ := hacted.runs (hact.symm ▸ h)
    exact ⟨gseqs.trans hseqs, gplans.trans (plans_of_quietUnits hunits)⟩
  · rw [hacted.seqs d hd, seqOf, hseqs, seqOf]

/-- Settles O46: a reading is recorded as its channel and reference say, a verdict is one act on the classes newly judged, and a write of WATCH_CAUSE
clears and re-arms. -/
theorem watchReadsAndJudges : Obligations.WatchReadsAndJudges := by
  unfold Obligations.WatchReadsAndJudges
  intro s hw p k frame
  refine ⟨fun x d hd => ⟨measured_dvd x d, measured_near x hd⟩, fun w outP outN refOk hclock htest happlied => ?_, fun c r hr hk ht => ?_,
    fun path c mask ht => ?_⟩
  · intro p' c off one vd vc r
    have hr : r = readingOf p' c k outP outN := (readingOf_eq ..).symm
    have hread : watchRead p w outP outN refOk = if reg p' (G.watchEnable c) = 0 then p' else keepReading p' c r :=
      hr ▸ watchRead_running hclock htest happlied hw
    have hexec := exec_next (exec_watchReading w outP outN refOk s) hw hread
    have hunits : quietUnits p' = quietUnits p := (refChecked_only p w refOk).quietUnits
    refine ⟨fun hf => ?_, fun he => by rw [hexec, if_pos he], fun he => ⟨keepReading p' c r, by rw [hexec, if_neg he], ?_⟩⟩
    · have hfail : regBit p' G.watchConvOk w.val = false := by
        subst hf
        exact refChecked_failed p w
      exact ⟨hr ▸ readingOf_blank hfail k outP outN, hfail⟩
    · obtain ⟨hlast, hregs, hframe, hothers, hcompared, hblanked⟩ := keepReading_spec p' c r
      have hq := hframe.trans hunits
      exact ⟨hlast, hregs, ⟨mem_of_quietUnits hq, plans_of_quietUnits hq, seqs_of_quietUnits hq, outs_of_quietUnits hq, fab_of_quietUnits hq⟩,
        hothers, hcompared, hblanked⟩
  · exact ⟨watchCompare p c, exec_next (exec_watchVerdict c s) hw rfl, watchCompare_spec hr hk ht⟩
  · obtain ⟨hcause, hsame, hothers, hregs, hframe⟩ := watchCause_spec p path c mask
    exact ⟨_, exec_next (exec_watchCauseClear path c mask s) hw (write_watchCause ht), hcause, hsame, hothers, hregs, hframe⟩

end Sys2Proof.Machine
end

section
/-!
SUPPORT. Ingress into a ring (R254): what bytes appended at SQ_WRITTEN leave as it was, whatever the memory makes of them.
-/

namespace Sys2Proof.Machine

variable {p q r : Part} {i j k s t : Nat} {bytes : List Byte}

/-- Two entries of one queue, by their subindices. -/
theorem sqKey_ne (i : Nat) {s t : Nat} (h : s ≠ t) : gkey (0x1B00 + i) s ≠ gkey (0x1B00 + i) t := fun e => h ((gkey_eq_iff ..).mp e)

/-- An entry of a queue and one of an index below those of the queues. -/
theorem sqKey_ne_low {m : Nat} (i s : Nat) (hm : m < 0x1B00) (ht : t < 256) : gkey (0x1B00 + i) s ≠ gkey m t := by
  unfold gkey
  omega

/-- The entries of queue i that ingress moves: SQ_WRITTEN, SQ_SKIPPED, SQ_PLAYPOS and SQ_AHEAD. -/
def ringKeys (i : Nat) : List Nat := [G.sqWritten i, G.sqSkipped i, G.sqPlaypos i, G.sqAhead i]

/-- An entry of queue i whose subindex is none of those of ringKeys. -/
theorem not_ringKey (i : Nat) (h : s ∉ [0x10, 0x14, 0x12, 0x13]) : gkey (0x1B00 + i) s ∉ ringKeys i := by
  simpa [ringKeys, G.sqWritten, G.sqSkipped, G.sqPlaypos, G.sqAhead, gkey_eq_iff] using h

/-- Between p and q only memory, pulses, the low marks that are armed and values have changed; of the values from the queues' indices on, those of
ringKeys alone. -/
structure RingFrame (i : Nat) (p q : Part) : Prop where
  units : q = { p with gz := { p.gz with regs := q.gz.regs }, fab := q.fab, mem := q.mem, strm := { p.strm with armed := q.strm.armed },
                       dram := q.dram }
  regs  : ∀ k, 0x1B00 * 256 ≤ k → k ∉ ringKeys i → reg q k = reg p k

theorem RingFrame.refl (i : Nat) (p : Part) : RingFrame i p p := ⟨rfl, fun _ _ _ => rfl⟩

theorem RingFrame.trans (h : RingFrame i p q) (g : RingFrame i q r) : RingFrame i p r := by
  refine ⟨?_, fun k hk hn => (g.regs k hk hn).trans (h.regs k hk hn)⟩
  have hr := g.units
  rw [h.units] at hr
  exact hr

theorem RingFrame.setReg (h : RingFrame i p q) (hk : k < 0x1B00 * 256 ∨ k ∈ ringKeys i) (v : Nat) : RingFrame i p (setReg q k v) :=
  h.trans ⟨rfl, fun j hj hn => reg_setReg_ne q (by rintro rfl; exact hk.elim (fun h => by omega) hn) v⟩

theorem RingFrame.addReg (h : RingFrame i p q) (hk : k < 0x1B00 * 256 ∨ k ∈ ringKeys i) (v : Nat) : RingFrame i p (addReg q k v) := h.setReg hk _

/-- What stands outside memory, pulses and values. -/
theorem RingFrame.kept (h : RingFrame i p q) : q.seqs = p.seqs ∧ q.plans = p.plans ∧ q.time = p.time ∧ q.strm.descs = p.strm.descs ∧
    q.strm.tail = p.strm.tail ∧ q.strm.wait = p.strm.wait ∧ q.strm.open_ = p.strm.open_ := by
  rw [h.units]
  exact ⟨rfl, rfl, rfl, rfl, rfl, rfl, rfl⟩

/-- An entry of queue i that ingress leaves. -/
theorem RingFrame.entry (h : RingFrame i p q) (hs : s ∉ [0x10, 0x14, 0x12, 0x13]) : reg q (gkey (0x1B00 + i) s) = reg p (gkey (0x1B00 + i) s) :=
  h.regs _ (by unfold gkey; omega) (not_ringKey i hs)

theorem raiseNow_ring (i : Nat) (p : Part) (d : DramSt) (src : Nat) : RingFrame i p (raiseNow { p with dram := d } src) := ⟨rfl, fun _ _ _ => rfl⟩

theorem recordUe_ring (i : Nat) (p : Part) (line port : Nat) : RingFrame i p (recordUe p line port) := by
  unfold recordUe
  extract_lets a rank p1 p2
  have h2 : RingFrame i p p2 := (((RingFrame.refl i p).addReg (.inl (by decide)) _).setReg (.inl (by decide)) _).setReg (.inl (by decide)) _
  split_ifs
  · exact h2
  · exact h2.trans (raiseNow_ring ..)

theorem writeLine_ring (i : Nat) (p : Part) (line : Nat) (l : List (Nat × Byte)) : RingFrame i p (writeLine p line l).1 := by
  unfold writeLine
  split_ifs
  · exact .refl i p
  · exact .refl i p
  · dsimp only
    rw [fillPage_onlyBytes _ (64 * line)]
    exact ⟨rfl, fun _ _ _ => rfl⟩

theorem writeBytes_ring (i : Nat) (p : Part) (port : Nat) (l : List (Nat × Byte)) : RingFrame i p (writeBytes p port l).1 := by
  rw [writeBytes_eq]
  split_ifs
  · exact .refl i p
  · refine List.foldlRecOn _ (writeOneLine port l) (motive := fun a : Part × Nat => RingFrame i p a.1) (.refl i p) fun a ha n _ => ?_
    unfold writeOneLine
    dsimp only
    split_ifs
    · exact (ha.trans (writeLine_ring ..)).trans (recordUe_ring ..)
    · exact ha.trans (writeLine_ring ..)

/-- Bringing SQ_PLAYPOS and SQ_AHEAD up to date leaves every other value. -/
theorem reg_settleQueue (p : Part) (i : Nat) (hp : k ≠ G.sqPlaypos i) (ha : k ≠ G.sqAhead i) : reg (settleQueue p i) k = reg p k := by
  have h : reg (setReg (setReg p (G.sqPlaypos i) (playPos p i)) (G.sqAhead i) (ofSigned 64 (aheadOf p i))) k = reg p k := by
    rw [reg_setReg_ne _ ha, reg_setReg_ne _ hp]
  unfold settleQueue
  dsimp only
  split_ifs <;> exact h

theorem settleQueue_ring (p : Part) (i : Nat) : RingFrame i p (settleQueue p i) := by
  refine ⟨?_, fun k _ hk => reg_settleQueue p i (fun e => hk (by simp [ringKeys, e])) fun e => hk (by simp [ringKeys, e])⟩
  unfold settleQueue
  dsimp only
  split_ifs <;> rfl

/-- What has left the part is not touched by a queue that is brought up to date. -/
theorem settleQueue_kept (p : Part) (i : Nat) : (settleQueue p i).mem = p.mem ∧ (settleQueue p i).sent = p.sent := by
  unfold settleQueue
  dsimp only
  split_ifs <;> exact ⟨rfl, rfl⟩

/-- The bytes of an append with their addresses, from SQ_WRITTEN on around the ring (R254). -/
def ringBytes (p : Part) (i : Nat) (bytes : List Byte) : List (Nat × Byte) :=
  bytes.zipIdx.map fun e => (reg p (G.sqRingBase i) + (reg p (G.sqWritten i) + e.2) % max 1 (reg p (G.sqRingSize i)), e.1)

/-- The part whose SQ_WRITTEN has passed n more bytes, of which some were due before they came. -/
def ringCounted (p q : Part) (i n : Nat) : Part :=
  addReg (setReg q (G.sqWritten i) (reg p (G.sqWritten i) + n)) (G.sqSkipped i) (min n (playPos p i - reg p (G.sqWritten i)))

/-- An append stores its bytes, counts them, and brings the queue up to date. -/
theorem appendRing_eq (h : bytes ≠ []) :
    appendRing p i bytes = settleQueue (ringCounted p (writeBytes p 1 (ringBytes p i bytes)).1 i bytes.length) i := by
  unfold appendRing storeRing
  rw [if_neg (by simpa using h)]
  rfl

theorem ringCounted_ring (h : RingFrame i p q) (n : Nat) : RingFrame i p (ringCounted p q i n) :=
  (h.setReg (.inr (by simp [ringKeys])) _).addReg (.inr (by simp [ringKeys])) _

/-- An append leaves what RingFrame says, and SQ_WRITTEN passes its bytes. -/
theorem appendRing_spec (p : Part) (i : Nat) (bytes : List Byte) :
    RingFrame i p (appendRing p i bytes) ∧ reg (appendRing p i bytes) (G.sqWritten i) = reg p (G.sqWritten i) + bytes.length := by
  by_cases h : bytes = []
  · subst h
    exact ⟨.refl i p, rfl⟩
  · rw [appendRing_eq h]
    refine ⟨(ringCounted_ring (writeBytes_ring i p 1 _) _).trans (settleQueue_ring ..), ?_⟩
    exact (reg_settleQueue _ _ (sqKey_ne i (by decide)) (sqKey_ne i (by decide))).trans
      ((reg_setReg_ne _ (sqKey_ne i (by decide)) _).trans (reg_setReg_same ..))

end Sys2Proof.Machine
end

section
/-!
SUPPORT. O48: descriptors are fetched (R255, R257), one by one, and what is taken of them.
-/

namespace Sys2Proof.Machine

variable {p q : Part} {i m : Nat} {d : StreamDesc} {bytes : List Byte}

theorem exec_streamDescFetch (i : Queue) (l : List StreamDesc) (c : Cyc) (s : State) :
    exec (.streamDescFetch i l c) s = lift (fun p => fetchDescs p i l c) s := by unfold exec; rfl

/-- The bytes of queue i that wait for room. -/
def waiting (p : Part) (i : Nat) : List Byte := kget (fun _ => []) p.strm.wait i

/-- The part in which no byte of queue i waits, with what has come in the last millisecond. -/
def drained (p : Part) (i : Nat) (moved : List (Nat × Nat)) : Part :=
  { p with strm := { p.strm with wait := kset (fun _ => []) p.strm.wait i [], moved := moved } }

@[simp] theorem waiting_drained (p : Part) (i : Nat) (moved : List (Nat × Nat)) : waiting (drained p i moved) i = [] := by
  show kget (fun _ => []) (kset (fun _ => []) p.strm.wait i []) i = []
  exact kget_kset_same ..

/-- Bytes that find room, where none wait, are appended whole. -/
theorem takeBytes_fits (hw : waiting p i = []) (hr : bytes.length ≤ ringRoom p i) :
    ∃ moved, takeBytes p i bytes = appendRing (drained p i moved) i bytes := by
  unfold waiting at hw
  unfold takeBytes
  extract_lets all n k moved p1
  have hall : all = bytes := by simp [all, hw]
  have hn : n = bytes.length := by simp [n, hall, hr]
  refine ⟨moved, ?_⟩
  rw [hn, hall, List.take_length]
  show appendRing { p with strm := { p.strm with wait := kset (fun _ => []) p.strm.wait i (all.drop n), moved := moved } } i bytes = _
  rw [hn, hall, List.drop_length]
  rfl

/-- A queue that fetches, with descriptors posted and no byte that waits. -/
structure Fetching (p : Part) (i : Nat) : Prop where
  state  : reg p (G.sqState i) = 2
  posted : reg p (G.sqDescHead i) ≠ tailOf p i
  room   : waiting p i = []

/-- A descriptor that Table 11-2 does not allow (R257). -/
theorem fetchOne_illegal (h : Fetching p i) (hd : streamDescOk d.raw = false) : fetchOne p i d = queueError p i 2 := by
  unfold fetchOne
  rw [if_neg (by simp [h.state, h.posted, show kget _ p.strm.wait i = _ from h.room]), hd]
  rfl

/-- A descriptor whose buffer could not be read (R257). -/
theorem fetchOne_failed (h : Fetching p i) (hd : streamDescOk d.raw = true) (hr : d.result = .error) : fetchOne p i d = queueError p i 3 := by
  unfold fetchOne
  rw [if_neg (by simp [h.state, h.posted, show kget _ p.strm.wait i = _ from h.room]), hd, hr]
  rfl

/-- The length of a descriptor's buffer (Table 11-2). -/
def bufferLen (d : StreamDesc) : Nat := bits d.raw 95 64

/-- What a buffer gave, of the length its descriptor tells. -/
def bufferBytes (d : StreamDesc) (bytes : List Byte) : List Byte := (bytes ++ List.replicate (bufferLen d - bytes.length) 0).take (bufferLen d)

theorem bufferBytes_length (d : StreamDesc) (bytes : List Byte) : (bufferBytes d bytes).length = bufferLen d := by
  simp only [bufferBytes, List.length_take, List.length_append, List.length_replicate]
  omega

/-- The part that holds the fetched descriptor d, which its last byte completes, and counts it in SQ_DESC_HEAD (R255). -/
def descHeld (p : Part) (i : Nat) (d : StreamDesc) : Part :=
  let q := addReg p (G.sqDescHead i) 1
  { q with strm := { q.strm with descs := q.strm.descs ++ [(i, reg p (G.sqWritten i) + bufferLen d, bit d.raw 96)], tmo := kdel i q.strm.tmo } }

theorem fetchOne_taken (h : Fetching p i) (hd : streamDescOk d.raw = true) (hr : d.result = .data bytes) :
    fetchOne p i d = takeBytes (descHeld p i d) i (bufferBytes d bytes) := by
  unfold fetchOne
  rw [if_neg (by simp [h.state, h.posted, show kget _ p.strm.wait i = _ from h.room]), hd, hr]
  rfl

/-- A value other than SQ_DESC_HEAD is not touched by a descriptor that is held. -/
theorem reg_descHeld (p : Part) (i : Nat) (d : StreamDesc) {s : Nat} (hs : s ≠ 0x1D) :
    reg (descHeld p i d) (gkey (0x1B00 + i) s) = reg p (gkey (0x1B00 + i) s) :=
  reg_setReg_ne p (sqKey_ne i hs) _

/-- After its descriptors a queue that fetches with none left is idle (R257). -/
def idleIfDone (p : Part) (i : Nat) : Part :=
  if reg p (G.sqState i) = 2 ∧ reg p (G.sqDescHead i) = tailOf p i ∧ (waiting p i).isEmpty then setReg p (G.sqState i) 1 else p

/-- A queue in host error stays so. -/
theorem idleIfDone_error (cause : Nat) : idleIfDone (queueError p i cause) i = queueError p i cause := by
  have hs : reg (queueError p i cause) (G.sqState i) = 3 := (reg_setReg_ne _ (sqKey_ne i (by decide)) _).trans (reg_setReg_same ..)
  exact if_neg fun h => absurd (hs.symm.trans h.1) (by decide)

/-- One descriptor of a host-fed queue that fetches. -/
theorem fetchDescs_one (h : Fetching p i) (he : reg p (G.sqEnable i) ≠ 0) (hs : reg p (G.sqSource i) = 0) (hl : reg p G.hostLink = 0)
    (hr : reg p G.pairRole ≠ 2) (ht : p.life.test = 0) (d : StreamDesc) (c : Nat) :
    ∃ moved, fetchDescs p i [d] c = idleIfDone (fetchOne (drained (atCyc p c) i moved) i d) i := by
  obtain ⟨moved, hm⟩ := takeBytes_fits (p := atCyc p c) (i := i) (bytes := []) h.room (Nat.zero_le _)
  refine ⟨moved, ?_⟩
  unfold fetchDescs
  rw [if_neg (by simp [he, hs, hl, ht, h.state, isShadow, hr]), hm]
  rfl

/-- A queue in host error: its state, its cause, and no byte stored (R257). -/
theorem queueError_spec (p : Part) (i cause : Nat) :
    reg (queueError p i cause) (G.sqState i) = 3 ∧ reg (queueError p i cause) (G.sqErrCause i) = cause ∧
      OnlyRegs p (queueError p i cause) [G.sqState i, G.sqErrCause i] :=
  ⟨(reg_setReg_ne _ (sqKey_ne i (by decide)) _).trans (reg_setReg_same ..), reg_setReg_same ..,
    ((OnlyRegs.refl p _).setReg (by simp) _).setReg (by simp) _⟩

/-- A descriptor that is taken: it is counted and held, its bytes are written, and the queue is idle when head equals tail (R255, R257). -/
theorem fetched_spec (h : Fetching p i) (hr : bufferLen d ≤ ringRoom p i) (bytes : List Byte) :
    let q := idleIfDone (takeBytes (descHeld p i d) i (bufferBytes d bytes)) i
    let head := (reg p (G.sqDescHead i) + 1) % 2 ^ regWidth (G.sqDescHead i)
    reg q (G.sqDescHead i) = head ∧ reg q (G.sqWritten i) = reg p (G.sqWritten i) + bufferLen d ∧
      q.strm.descs = p.strm.descs ++ [(i, reg p (G.sqWritten i) + bufferLen d, bit d.raw 96)] ∧
      reg q (G.sqState i) = (if head = tailOf p i then 1 else 2) ∧ q.seqs = p.seqs ∧ q.plans = p.plans := by
  intro q head
  have hroom : ringRoom (descHeld p i d) i = ringRoom p i := by
    have hw : reg (descHeld p i d) (G.sqWritten i) = reg p (G.sqWritten i) := reg_descHeld p i d (by decide)
    have hsize : reg (descHeld p i d) (G.sqRingSize i) = reg p (G.sqRingSize i) := reg_descHeld p i d (by decide)
    have hres : reg (descHeld p i d) (G.sqReserved i) = reg p (G.sqReserved i) := reg_descHeld p i d (by decide)
    rw [ringRoom, ringRoom, playPos, playPos, hw, hsize, hres]
    rfl
  obtain ⟨moved, htake⟩ := takeBytes_fits (p := descHeld p i d) (i := i) (bytes := bufferBytes d bytes) h.room
    (by rw [bufferBytes_length, hroom]; exact hr)
  obtain ⟨hframe, hwritten⟩ := appendRing_spec (drained (descHeld p i d) i moved) i (bufferBytes d bytes)
  have hq : q = idleIfDone (appendRing (drained (descHeld p i d) i moved) i (bufferBytes d bytes)) i := by rw [← htake]
  clear_value q
  generalize appendRing (drained (descHeld p i d) i moved) i (bufferBytes d bytes) = a at hframe hwritten hq
  obtain ⟨hseqs, hplans, -, hdescs, htail, hwait, -⟩ := hframe.kept
  have hhead : reg a (G.sqDescHead i) = head := (hframe.entry (by decide)).trans (reg_setReg_same p ..)
  have hstate : reg a (G.sqState i) = 2 := (hframe.entry (by decide)).trans ((reg_descHeld p i d (by decide)).trans h.state)
  have hdone : tailOf a i = tailOf p i := by rw [tailOf, htail]; rfl
  have hnone : waiting a i = [] := by rw [waiting, hwait]; exact waiting_drained ..
  have hlast : reg a (G.sqWritten i) = reg p (G.sqWritten i) + bufferLen d := by
    rw [hwritten, bufferBytes_length]
    exact congrArg (· + _) (reg_descHeld p i d (by decide))
  have hidle : q = if head = tailOf p i then setReg a (G.sqState i) 1 else a := by
    rw [hq, idleIfDone, hhead, hdone, hnone, hstate]
    simp
  rw [hidle]
  split_ifs
  · exact ⟨(reg_setReg_ne _ (sqKey_ne i (by decide)) _).trans hhead, (reg_setReg_ne _ (sqKey_ne i (by decide)) _).trans hlast, hdescs,
      reg_setReg_same .., hseqs, hplans⟩
  · exact ⟨hhead, hlast, hdescs, hstate, hseqs, hplans⟩

end Sys2Proof.Machine
end

section
/-!
SUPPORT. O48: the oldest descriptor of a queue completes (R258), with its write-back and its message.
-/

namespace Sys2Proof.Machine

variable {p : Part} {i status : Nat} {e : Nat × Nat × Bool}

theorem exec_streamDescComplete (i : Queue) (s : State) : exec (.streamDescComplete i) s = lift (fun p => completeDesc p i) s := by unfold exec; rfl

/-- The oldest descriptor that queue i holds. -/
def oldestDesc (p : Part) (i : Nat) : Option (Nat × Nat × Bool) := p.strm.descs.find? fun e => decide (e.1 = i)

/-- The part that has dropped descriptor e and counts it in SQ_DESC_DONE. -/
def descCounted (p : Part) (i : Nat) (e : Nat × Nat × Bool) : Part :=
  addReg { p with strm := { p.strm with descs := p.strm.descs.erase e } } (G.sqDescDone i) 1

/-- The part that remembers this tick as the one in which queue i raised its message (R102). -/
def messageNoted (p : Part) (i : Nat) : Part := { p with strm := { p.strm with msixAt := kput i (p.time.tick + 1) p.strm.msixAt } }

/-- The message of a completed descriptor that asks for one, once in a tick (R258). -/
def messageDone (p : Part) (i : Nat) (asks : Bool) : Part :=
  if asks ∧ kget (fun _ => 0) p.strm.msixAt i ≠ p.time.tick + 1 then raiseMsix (messageNoted p i) (reg p (G.sqMsix i)) else p

theorem completeDesc_none (h : oldestDesc p i = none) : completeDesc p i = p := by
  unfold oldestDesc at h
  unfold completeDesc
  rw [h]

theorem completeDesc_waits (h : oldestDesc p i = some e) (hw : reg p (G.sqWritten i) < e.2.1) : completeDesc p i = p := by
  unfold oldestDesc at h
  unfold completeDesc
  rw [h]
  exact if_pos hw

theorem completeDesc_done (h : oldestDesc p i = some e) (hw : e.2.1 ≤ reg p (G.sqWritten i)) :
    completeDesc p i = messageDone (writeBack (descCounted p i e) i (reg (descCounted p i e) (G.sqState i))) i e.2.2 := by
  unfold oldestDesc at h
  unfold completeDesc
  rw [h]
  exact if_neg hw.not_gt

theorem writeBack_only (p : Part) (i status : Nat) : writeBack p i status = { p with sent := (writeBack p i status).sent } := by
  unfold writeBack
  dsimp only
  split_ifs <;> rfl

/-- With an address set and the host present, the count and the status are written back (R258). -/
theorem writeBack_sends (ha : reg p (G.sqWbAddr i) ≠ 0) (hl : reg p G.hostLink = 0) : writeBack p i status =
    say p (.hostWrite (reg p (G.sqWbAddr i)) (toBytesLE 8 (reg p (G.sqDescDone i) + status * 2 ^ 32))) := if_neg (by simp [ha, hl])

/-- Raising a vector takes nothing back that has left the part. -/
theorem raiseMsix_sent (p : Part) (v : Nat) : p.sent ⊆ (raiseMsix p v).sent := by
  unfold raiseMsix
  split_ifs
  · exact List.Subset.refl _
  · exact List.subset_cons_self ..
  · exact List.Subset.refl _

theorem messageDone_only (p : Part) (i : Nat) (asks : Bool) : messageDone p i asks = { p with
    strm := { p.strm with msixAt := (messageDone p i asks).strm.msixAt, msixWait := (messageDone p i asks).strm.msixWait }
    sent := (messageDone p i asks).sent } := by
  unfold messageDone
  split_ifs
  · rw [raiseMsix_only]
    rfl
  · rfl

theorem messageDone_sent (p : Part) (i : Nat) (asks : Bool) : p.sent ⊆ (messageDone p i asks).sent := by
  unfold messageDone
  split_ifs
  · exact raiseMsix_sent (messageNoted p i) _
  · exact List.Subset.refl _

/-- A descriptor whose last byte is written is dropped and counted, and the count and state are written back where the host asks for it. -/
theorem completeDesc_spec (h : oldestDesc p i = some e) (hw : e.2.1 ≤ reg p (G.sqWritten i)) :
    let q := completeDesc p i
    q.strm.descs = p.strm.descs.erase e ∧
      reg q (G.sqDescDone i) = (reg p (G.sqDescDone i) + 1) % 2 ^ regWidth (G.sqDescDone i) ∧ SameRegs p q [G.sqDescDone i] ∧
      (reg p (G.sqWbAddr i) ≠ 0 → reg p G.hostLink = 0 →
        Out.hostWrite (reg p (G.sqWbAddr i)) (toBytesLE 8 (reg q (G.sqDescDone i) + reg p (G.sqState i) * 2 ^ 32)) ∈ q.sent) ∧
      q.mem = p.mem ∧ q.seqs = p.seqs := by
  intro q
  have hsame : SameRegs p (descCounted p i e) [G.sqDescDone i] := SameRegs.setReg (fun _ _ => rfl) (by simp) _
  have hregs : ∀ k, reg q k = reg (descCounted p i e) k := fun k => by
    show reg (completeDesc p i) k = _
    rw [completeDesc_done h hw, messageDone_only, writeBack_only]
    rfl
  have hstate : reg (descCounted p i e) (G.sqState i) = reg p (G.sqState i) := reg_setReg_ne _ (sqKey_ne i (by decide)) _
  have haddr : reg (descCounted p i e) (G.sqWbAddr i) = reg p (G.sqWbAddr i) := reg_setReg_ne _ (sqKey_ne i (by decide)) _
  have hlink : reg (descCounted p i e) G.hostLink = reg p G.hostLink := reg_setReg_ne _ (sqKey_ne_low i _ (by decide) (by decide)).symm _
  refine ⟨?_, (hregs _).trans (reg_setReg_same ..), fun k hk => (hregs k).trans (hsame k hk), fun ha hl => ?_, ?_, ?_⟩
  · show (completeDesc p i).strm.descs = _
    rw [completeDesc_done h hw, messageDone_only, writeBack_only]
    rfl
  · show _ ∈ (completeDesc p i).sent
    rw [hregs, completeDesc_done h hw, writeBack_sends (by rwa [haddr]) (by rwa [hlink]), haddr, hstate]
    exact messageDone_sent _ _ _ List.mem_cons_self
  · show (completeDesc p i).mem = _
    rw [completeDesc_done h hw, messageDone_only, writeBack_only]
    rfl
  · show (completeDesc p i).seqs = _
    rw [completeDesc_done h hw, messageDone_only, writeBack_only]
    rfl

end Sys2Proof.Machine
end

section
/-!
SUPPORT. O48: the host is lost and returns, and reads that receive no completion (R257, R268).
-/

namespace Sys2Proof.Machine

variable {p q : Part} {i k : Nat}

theorem exec_completionTimeout (i : Queue) (s : State) : exec (.completionTimeout i) s = lift (fun p => timeout p i) s := by unfold exec; rfl
theorem exec_hostLost (e : HostEvent) (s : State) : exec (.hostLost e) s = lift (fun p => hostEvent p e) s := by unfold exec; rfl

/-! ## Queues stop -/

/-- SQ_STATE of queue j, once the host is lost (R268): an enabled host-fed queue that is not mirrored stops. -/
def stoppedState (p : Part) (j : Nat) : Nat :=
  if reg p (G.sqEnable j) = 1 ∧ reg p (G.sqSource j) = 0 ∧ reg p (G.sqState j) ≠ 5 then 4 else reg p (G.sqState j)

/-- Queue j at the loss of the host. -/
def stopQueue (p : Part) (j : Nat) : Part :=
  if reg p (G.sqEnable j) = 1 ∧ reg p (G.sqSource j) = 0 ∧ reg p (G.sqState j) ≠ 5 then setReg p (G.sqState j) 4 else p

/-- SQ_STATE of every queue. -/
def stateKeys : List Nat := (List.range 64).map G.sqState

theorem mem_stateKeys (j : Queue) : G.sqState j ∈ stateKeys := List.mem_map.mpr ⟨j, List.mem_range.mpr j.isLt, rfl⟩

theorem not_stateKey (h : k % 256 ≠ 0x0F) : k ∉ stateKeys := by
  simp only [stateKeys, List.mem_map, not_exists, not_and, G.sqState, gkey]
  intro j _
  omega

theorem reg_stopQueue_ne (p : Part) {j : Nat} (h : k ≠ G.sqState j) : reg (stopQueue p j) k = reg p k := by
  unfold stopQueue
  split_ifs
  · exact reg_setReg_ne p h _
  · rfl

@[simp] theorem reg_stopQueue_state (p : Part) (j : Nat) : reg (stopQueue p j) (G.sqState j) = stoppedState p j := by
  unfold stopQueue stoppedState
  split_ifs
  · exact reg_setReg_same ..
  · rfl

theorem stopQueue_only (p : Part) {j : Nat} (hj : j < 64) : OnlyRegs p (stopQueue p j) stateKeys := by
  unfold stopQueue
  split
  · exact (OnlyRegs.refl p _).setReg (mem_stateKeys ⟨j, hj⟩) _
  · exact .refl p _

/-- The queues at the loss of the host, one after the other. -/
def stopQueues (p : Part) : Part := (List.range 64).foldl stopQueue p

theorem stopQueues_only (p : Part) : OnlyRegs p (stopQueues p) stateKeys :=
  List.foldlRecOn _ stopQueue (motive := fun q => OnlyRegs p q stateKeys) (.refl p _) fun _ hq _ hj =>
    hq.trans (stopQueue_only _ (List.mem_range.mp hj))

/-- What a queue's stop is told from: SQ_ENABLE, SQ_SOURCE and SQ_STATE. -/
def stopView (p : Part) (j : Queue) : Nat × Nat × Nat := (reg p (G.sqEnable j), reg p (G.sqSource j), reg p (G.sqState j))

/-- The view of a queue that has been visited. -/
def stoppedView (x : Nat × Nat × Nat) : Nat × Nat × Nat := (x.1, x.2.1, if x.1 = 1 ∧ x.2.1 = 0 ∧ x.2.2 ≠ 5 then 4 else x.2.2)

theorem stopView_self (p : Part) (j : Queue) : stopView (stopQueue p j) j = stoppedView (stopView p j) := by
  unfold stopView stoppedView
  rw [reg_stopQueue_ne p (k := G.sqEnable j) (sqKey_ne _ (by decide)), reg_stopQueue_ne p (k := G.sqSource j) (sqKey_ne _ (by decide)),
    reg_stopQueue_state]
  rfl

theorem stopView_other (p : Part) {i j : Queue} (h : j ≠ i) : stopView (stopQueue p i) j = stopView p j := by
  have hne : ∀ s, s < 256 → gkey (0x1B00 + j.val) s ≠ G.sqState i := fun s hs e => h (Fin.ext (by unfold G.sqState gkey at e; omega))
  unfold stopView
  rw [reg_stopQueue_ne p (k := G.sqEnable j) (hne _ (by decide)), reg_stopQueue_ne p (k := G.sqSource j) (hne _ (by decide)),
    reg_stopQueue_ne p (k := G.sqState j) (hne _ (by decide))]

/-- Each queue's state is settled by its own visit. -/
theorem reg_stopQueues (p : Part) (j : Queue) : reg (stopQueues p) (G.sqState j) = stoppedState p j := by
  have hfold : stopQueues p = (List.finRange 64).foldl (fun q j => stopQueue q j.val) p := by
    rw [stopQueues, ← List.map_coe_finRange_eq_range, List.foldl_map]
  have heach : stopView (stopQueues p) j = stoppedView (stopView p j) := by
    rw [hfold]
    exact foldl_each (v := stopView) stopView_self (fun q c d h => stopView_other q h) p j
  simp only [stopView, stoppedView, Prod.mk.injEq] at heach
  exact heach.2.2

/-! ## The host -/

/-- A load block that runs ends in LD_STATE 4 (R132). -/
theorem reg_abortLoad (p : Part) (k : Nat) : reg (abortLoad p) k = if k = G.ldState ∧ reg p G.ldState = 1 then 4 else reg p k := by
  unfold abortLoad
  dsimp only
  split_ifs with h hk hk
  · rw [hk.1, reg_setReg_same]
  · exact reg_setReg_ne _ (fun e => hk ⟨e, h⟩) _
  · exact absurd hk.2 h
  · rfl

theorem abortLoad_only (p : Part) :
    abortLoad p = { p with gz := { p.gz with regs := (abortLoad p).gz.regs }, mem := { p.mem with ldGo := false, load := none } } := by
  unfold abortLoad
  dsimp only
  split_ifs <;> rfl

/-- The part whose host is lost, before its queues stop: messages that wait are discarded, and what the block ran ends. -/
def hostGone (p : Part) : Part :=
  abortLoad (addReg (setReg { p with strm := { p.strm with msixWait := [] } } G.hostLink 1) G.hostLostCount 1)

theorem loseHost_gone (h : reg p G.hostLink ≠ 0) : loseHost p = p := if_pos h

theorem loseHost_present (h : reg p G.hostLink = 0) : loseHost p = stopQueues (hostGone p) := if_neg (not_not.mpr h)

theorem hostGone_only (p : Part) : hostGone p = { p with
    gz := { p.gz with regs := (hostGone p).gz.regs }, mem := { p.mem with ldGo := false, load := none }
    strm := { p.strm with msixWait := [] } } := by
  unfold hostGone
  rw [abortLoad_only]
  rfl

/-- The values that the loss of the host moves besides those of the queues. -/
theorem hostGone_regs (p : Part) : SameRegs p (hostGone p) [G.hostLink, G.hostLostCount, G.ldState] := fun k hk => by
  simp only [List.mem_cons, List.not_mem_nil, or_false, not_or] at hk
  obtain ⟨hl, hc, hs⟩ := hk
  rw [hostGone, reg_abortLoad, if_neg (fun h => hs h.1), addReg, reg_setReg_ne _ hc, reg_setReg_ne _ hl]
  rfl

/-- A queue stops as it would have before. -/
theorem stoppedState_hostGone (p : Part) (j : Nat) : stoppedState (hostGone p) j = stoppedState p j := by
  have hkey : ∀ s, gkey (0x1B00 + j) s ∉ [G.hostLink, G.hostLostCount, G.ldState] := fun s => by
    simp only [List.mem_cons, List.not_mem_nil, or_false, not_or]
    exact ⟨sqKey_ne_low j s (by decide) (by decide), sqKey_ne_low j s (by decide) (by decide), sqKey_ne_low j s (by decide) (by decide)⟩
  unfold stoppedState
  rw [hostGone_regs p (G.sqEnable j) (hkey _), hostGone_regs p (G.sqSource j) (hkey _), hostGone_regs p (G.sqState j) (hkey _)]

/-- The loss of a host that is present (R268). -/
theorem loseHost_spec (h : reg p G.hostLink = 0) :
    let q := loseHost p
    reg q G.hostLink = 1 ∧ reg q G.hostLostCount = (reg p G.hostLostCount + 1) % 2 ^ regWidth G.hostLostCount ∧
      q.mem = { p.mem with ldGo := false, load := none } ∧ reg q G.ldState = (if reg p G.ldState = 1 then 4 else reg p G.ldState) ∧
      (∀ j : Queue, reg q (G.sqState j) = stoppedState p j) ∧ q.seqs = p.seqs ∧ q.plans = p.plans ∧ q.strm.tmo = p.strm.tmo := by
  intro q
  have hq : q = stopQueues (hostGone p) := loseHost_present h
  obtain ⟨honly, hregs⟩ := stopQueues_only (hostGone p)
  have hgone := hostGone_only p
  refine ⟨?_, ?_, ?_, ?_, fun j => ?_, ?_, ?_, ?_⟩
  · rw [hq, hregs _ (not_stateKey (by decide)), hostGone, reg_abortLoad, if_neg (fun h => absurd h.1 (by decide)), addReg,
      reg_setReg_ne _ (by decide), reg_setReg_same]
  · rw [hq, hregs _ (not_stateKey (by decide)), hostGone, reg_abortLoad, if_neg (fun h => absurd h.1 (by decide)), reg_addReg, if_pos rfl,
      reg_setReg_ne _ (by decide)]
    rfl
  · rw [hq, honly, hgone]
  · rw [hq, hregs _ (not_stateKey (by decide)), hostGone, reg_abortLoad, addReg, reg_setReg_ne _ (by decide), reg_setReg_ne _ (by decide)]
    simp only [true_and]
    rfl
  · rw [hq, reg_stopQueues, stoppedState_hostGone]
  · rw [hq, honly, hgone]
  · rw [hq, honly, hgone]
  · rw [hq, honly, hgone]

/-- A lost link that returns makes HOST_LINK 0 and shows its speed and width (R268). -/
theorem linkReturned_spec (p : Part) (w : Nat) :
    let q := setReg (setReg p G.hostLink 0) G.pcieLink w
    reg q G.hostLink = 0 ∧ reg q G.pcieLink = w ∧ OnlyRegs p q [G.hostLink, G.pcieLink] :=
  ⟨(reg_setReg_ne _ (by decide) _).trans (reg_setReg_same ..), reg_setReg_same .., ((OnlyRegs.refl p _).setReg (by simp) _).setReg (by simp) _⟩

/-! ## Completion timeouts -/

/-- Timeouts of queue i's reads in a row. -/
def timeouts (p : Part) (i : Nat) : Nat := kget (fun _ => 0) p.strm.tmo i

/-- The part that has counted a timeout of queue i. -/
def timeoutCounted (p : Part) (i : Nat) : Part :=
  addReg { p with strm := { p.strm with tmo := kset (fun _ => 0) p.strm.tmo i (timeouts p i + 1) } } G.cplTimeouts 1

/-- A working queue is put into host error 4. -/
def failWorking (p : Part) (i : Nat) : Part := if reg p (G.sqState i) = 1 ∨ reg p (G.sqState i) = 2 then queueError p i 4 else p

theorem timeout_eq (p : Part) (i : Nat) : timeout p i =
    if 4 ≤ timeouts p i + 1 then loseHost (failWorking (timeoutCounted p i) i) else failWorking (timeoutCounted p i) i := rfl

/-- What a timeout counts, and what it makes of a working queue. -/
theorem failWorking_spec (p : Part) (i : Nat) :
    let q := failWorking (timeoutCounted p i) i
    timeouts q i = timeouts p i + 1 ∧ reg q G.cplTimeouts = (reg p G.cplTimeouts + 1) % 2 ^ regWidth G.cplTimeouts ∧
      (reg p (G.sqState i) = 1 ∨ reg p (G.sqState i) = 2 → reg q (G.sqErrCause i) = 4) ∧ reg q G.hostLink = reg p G.hostLink ∧
      reg q (G.sqState i) = (if reg p (G.sqState i) = 1 ∨ reg p (G.sqState i) = 2 then 3 else reg p (G.sqState i)) ∧ q.seqs = p.seqs := by
  have hstate : reg (timeoutCounted p i) (G.sqState i) = reg p (G.sqState i) := reg_setReg_ne _ (sqKey_ne_low i _ (by decide) (by decide)) _
  have hlink : reg (timeoutCounted p i) G.hostLink = reg p G.hostLink := reg_setReg_ne _ (by decide) _
  have hcount : reg (timeoutCounted p i) G.cplTimeouts = (reg p G.cplTimeouts + 1) % 2 ^ regWidth G.cplTimeouts := reg_setReg_same ..
  have htimeouts : timeouts (timeoutCounted p i) i = timeouts p i + 1 := by simp [timeouts, timeoutCounted, addReg]
  have hlow : ∀ {m t : Nat}, m < 0x1B00 → t < 256 → gkey m t ∉ [G.sqState i, G.sqErrCause i] := fun hm ht => by
    simp only [List.mem_cons, List.not_mem_nil, or_false, not_or]
    exact ⟨(sqKey_ne_low i _ hm ht).symm, (sqKey_ne_low i _ hm ht).symm⟩
  obtain ⟨herror, hcause, honly, hregs⟩ := queueError_spec (timeoutCounted p i) i 4
  unfold failWorking
  rw [hstate]
  split_ifs with h
  · refine ⟨?_, (hregs _ (hlow (by decide) (by decide))).trans hcount, fun _ => hcause, (hregs _ (hlow (by decide) (by decide))).trans hlink, herror,
      rfl⟩
    rw [timeouts, honly]
    exact htimeouts
  · exact ⟨htimeouts, hcount, fun hn => absurd hn h, hlink, hstate, rfl⟩

/-- What a loss of the host leaves, whether or not it was present. -/
theorem loseHost_kept (p : Part) : reg (loseHost p) G.hostLink ≠ 0 ∧ (loseHost p).strm.tmo = p.strm.tmo ∧ (loseHost p).seqs = p.seqs ∧
    ∀ k, k ∉ [G.hostLink, G.hostLostCount, G.ldState] → k ∉ stateKeys → reg (loseHost p) k = reg p k := by
  by_cases h : reg p G.hostLink = 0
  · obtain ⟨hlink, -, -, -, -, hseqs, -, htmo⟩ := loseHost_spec h
    refine ⟨by rw [hlink]; decide, htmo, hseqs, fun k hk hs => ?_⟩
    rw [loseHost_present h, (stopQueues_only _).2 k hs, hostGone_regs p k hk]
  · rw [loseHost_gone h]
    exact ⟨h, rfl, rfl, fun _ _ _ => rfl⟩

/-- A timeout is counted, fails a working queue, and as the fourth in a row loses the host (R257, R268). -/
theorem timeout_spec (p : Part) (i : Nat) :
    let q := timeout p i
    timeouts q i = timeouts p i + 1 ∧ reg q G.cplTimeouts = (reg p G.cplTimeouts + 1) % 2 ^ regWidth G.cplTimeouts ∧
      (reg p (G.sqState i) = 1 ∨ reg p (G.sqState i) = 2 → reg q (G.sqErrCause i) = 4) ∧
      (timeouts p i + 1 < 4 → reg q G.hostLink = reg p G.hostLink ∧
        reg q (G.sqState i) = (if reg p (G.sqState i) = 1 ∨ reg p (G.sqState i) = 2 then 3 else reg p (G.sqState i))) ∧
      (4 ≤ timeouts p i + 1 → reg q G.hostLink ≠ 0) ∧ q.seqs = p.seqs := by
  obtain ⟨htimeouts, hcount, hcause, hlink, hstate, hseqs⟩ := failWorking_spec p i
  intro q
  have hq : q = _ := timeout_eq p i
  generalize failWorking (timeoutCounted p i) i = a at *
  by_cases h : 4 ≤ timeouts p i + 1
  · rw [if_pos h] at hq
    obtain ⟨hlost, htmo, hkept, hregs⟩ := loseHost_kept a
    have herr : G.sqErrCause i ∉ [G.hostLink, G.hostLostCount, G.ldState] := by
      simp only [List.mem_cons, List.not_mem_nil, or_false, not_or]
      exact ⟨sqKey_ne_low i _ (by decide) (by decide), sqKey_ne_low i _ (by decide) (by decide), sqKey_ne_low i _ (by decide) (by decide)⟩
    rw [hq]
    refine ⟨by rw [timeouts, htmo]; exact htimeouts, (hregs _ (by decide) (not_stateKey (by decide))).trans hcount,
      fun hw => (hregs _ herr (not_stateKey ?_)).trans (hcause hw), fun hn => absurd h hn.not_ge, fun _ => hlost, hkept.trans hseqs⟩
    rw [G.sqErrCause, gkey_mod _ _ (by decide)]
    decide
  · rw [if_neg h] at hq
    rw [hq]
    exact ⟨htimeouts, hcount, hcause, fun _ => ⟨hlink, hstate⟩, fun hn => absurd hn h, hseqs⟩

/-- Settles O48: a descriptor that is fetched, the oldest that completes, a timeout and the loss of the host are each said by their lemma. -/
theorem descriptorsAreFetchedAndComplete : Obligations.DescriptorsAreFetchedAndComplete := by
  unfold Obligations.DescriptorsAreFetchedAndComplete
  intro s i hw p head wait
  refine ⟨fun d c he hs hl hr hstate ht hposted hwait => ?_, fun e he => ⟨fun hlt => ?_, fun hle => ?_⟩, fun hn => ?_, ?_,
    fun cause => ⟨fun hl => ?_, fun hl => ?_⟩, fun gen width => ⟨fun hl ha => ?_, fun h => ?_⟩⟩
  · obtain ⟨moved, hone⟩ := fetchDescs_one ⟨hstate, hposted, hwait⟩ he hs hl hr ht d c
    have hfetch : ∀ {q}, idleIfDone (fetchOne (drained (atCyc p c) i moved) i d) i = q →
        exec (.streamDescFetch i [d] c) s = .next { s with part := q } := fun h =>
      exec_next (exec_streamDescFetch i [d] c s) hw (hone.trans h)
    have hd : Fetching (drained (atCyc p c) i moved) i := ⟨hstate, hposted, waiting_drained ..⟩
    have herror : ∀ cause, let q := queueError (drained (atCyc p c) i moved) i cause
        reg q (G.sqState i) = 3 ∧ reg q (G.sqErrCause i) = cause ∧ q.mem = p.mem := fun cause => by
      obtain ⟨h3, hc, -⟩ := queueError_spec (drained (atCyc p c) i moved) i cause
      exact ⟨h3, hc, rfl⟩
    refine ⟨fun hbad => ⟨_, hfetch ?_, herror 2⟩, fun hok hres => ⟨_, hfetch ?_, herror 3⟩, fun bytes hok hres hroom =>
      ⟨_, hfetch (congrArg (idleIfDone · i) (fetchOne_taken hd hok hres)), fetched_spec hd hroom bytes⟩⟩
    · rw [fetchOne_illegal hd hbad, idleIfDone_error]
    · rw [fetchOne_failed hd hok hres, idleIfDone_error]
  · exact exec_next (exec_streamDescComplete i s) hw (completeDesc_waits he hlt)
  · exact ⟨_, exec_next (exec_streamDescComplete i s) hw rfl, completeDesc_spec he hle⟩
  · exact exec_next (exec_streamDescComplete i s) hw (completeDesc_none hn)
  · exact ⟨_, exec_next (exec_completionTimeout i s) hw rfl, timeout_spec p i⟩
  · obtain ⟨hlink, hcount, hmem, hld, hstate, hseqs, hplans, -⟩ := loseHost_spec hl
    refine ⟨_, exec_next (exec_hostLost _ s) hw rfl, hlink, hcount, ?_, ?_, hld, hstate, hseqs, hplans, ?_⟩
    · exact congrArg MemSt.ldGo hmem
    · exact congrArg MemSt.load hmem
    · show (loseHost p).mem.dram = _
      rw [hmem]
  · exact exec_next (exec_hostLost _ s) hw (loseHost_gone hl)
  · exact ⟨_, exec_next (exec_hostLost _ s) hw (if_pos ⟨hl, ha⟩), linkReturned_spec p _⟩
  · refine exec_next (exec_hostLost _ s) hw (if_neg fun ⟨hl, ha⟩ => ?_)
    rcases h with h | h
    · exact h hl
    · exact absurd (ha.symm.trans h) (by decide)

end Sys2Proof.Machine
end

section
/-!
SUPPORT. A queue is enabled and disabled (R252, R257): positions and counts, what it held, and the armed groups that read it, which are disarmed.
-/

namespace Sys2Proof.Machine

variable {p q r : Part} {path : Path} {i : Queue} {k n v : Nat}

theorem exec_sqEnable (path : Path) (i : Queue) (v : Nat) (s : State) :
    exec (.sqEnable path i v) s = lift (fun p => commandWrite p path (0x1B00 + i.val) 0x01 v) s := by unfold exec; rfl

/-! ## Groups that read a queue -/

/-- The entries of the stream queues. -/
def queueKey (k : Nat) : Prop := 0x1B00 ≤ k / 256 ∧ k / 256 < 0x1B40

theorem sq_queueKey (i : Queue) {s : Nat} (hs : s < 256) : queueKey (gkey (0x1B00 + i.val) s) := by
  unfold queueKey
  rw [gkey_div _ _ hs]
  omega

/-- Between p and q the queues, memory and the sequencers have not changed. -/
structure QueuesStand (p q : Part) : Prop where
  strm : q.strm = p.strm
  mem  : q.mem = p.mem
  seqs : q.seqs = p.seqs
  regs : ∀ k, queueKey k → reg q k = reg p k

theorem QueuesStand.refl (p : Part) : QueuesStand p p := ⟨rfl, rfl, rfl, fun _ _ => rfl⟩

theorem QueuesStand.trans (h : QueuesStand p q) (g : QueuesStand q r) : QueuesStand p r :=
  ⟨g.strm.trans h.strm, g.mem.trans h.mem, g.seqs.trans h.seqs, fun k hk => (g.regs k hk).trans (h.regs k hk)⟩

theorem QueuesStand.setReg (h : QueuesStand p q) (hk : ¬ queueKey k) (v : Nat) : QueuesStand p (setReg q k v) :=
  h.trans ⟨rfl, rfl, rfl, fun _ hj => reg_setReg_ne q (by rintro rfl; exact hk hj) v⟩

theorem QueuesStand.setOut (h : QueuesStand p q) (c : Chan) (x : OutSt) : QueuesStand p (setOut q c x) := h.trans ⟨rfl, rfl, rfl, fun _ _ => rfl⟩

theorem QueuesStand.fold {α : Type} {f : Part → α → Part} {l : List α} (hf : ∀ q, ∀ x ∈ l, QueuesStand q (f q x)) (p : Part) :
    QueuesStand p (l.foldl f p) :=
  List.foldlRecOn l f (motive := QueuesStand p) (.refl p) fun q hq x hx => hq.trans (hf q x hx)

/-- An entry of an index outside those of the queues. -/
theorem not_queueKey {m s : Nat} (hm : m < 0x1B00 ∨ 0x1B40 ≤ m) (hs : s < 256) : ¬ queueKey (gkey m s) := by
  unfold queueKey
  rw [gkey_div m s hs]
  omega

theorem endFreeze_queues (p : Part) (c : Chan) : QueuesStand p (endFreeze p c) := by
  unfold endFreeze
  dsimp only
  split_ifs
  · exact .refl p
  · exact (QueuesStand.refl p).setOut _ _
  · exact ((QueuesStand.refl p).setOut _ _).setReg (not_queueKey (by omega) (by decide)) _

theorem publishTotals_queues (p : Part) (regs : KMap Nat) : QueuesStand p (publishTotals p regs) :=
  (((QueuesStand.refl p).setReg (not_queueKey (.inl (by decide)) (by decide)) _).setReg (not_queueKey (.inl (by decide)) (by decide)) _).setReg
    (not_queueKey (.inl (by decide)) (by decide)) _

/-- Releasing reservations of the part's groups leaves the queues: ADM_G_DRAM and ADM_G_ARMED_TICK of such a group stand below them. -/
theorem releaseResv_queues (p : Part) {f : Resv → Bool} (hf : ∀ r, f r = true → r.group < 16) : QueuesStand p (releaseResv p f) := by
  unfold releaseResv
  extract_lets gone a p1 p2
  have h1 : QueuesStand p p1 := ⟨rfl, rfl, rfl, fun _ _ => rfl⟩
  split_ifs
  · exact h1
  · refine (h1.trans (publishTotals_queues ..)).trans (.fold (fun q r hr => ?_) _)
    have hg := hf r (List.mem_filter.mp hr).2
    split_ifs
    · exact .refl q
    · exact ((QueuesStand.refl q).setReg (not_queueKey (.inl (by omega)) (by decide)) _).setReg (not_queueKey (.inl (by omega)) (by decide)) _

theorem disarm_queues (p : Part) {g : Nat} (hg : g < 16) : QueuesStand p (disarm p g) := by
  unfold disarm
  dsimp only
  split_ifs
  · refine (((QueuesStand.refl p).setReg (not_queueKey (.inl (by omega)) (by decide)) _).trans
      (releaseResv_queues _ fun r hr => ?_)).trans (.fold (fun q c _ => endFreeze_queues q (chan c)) _)
    exact (of_decide_eq_true hr).symm ▸ hg
  · exact .refl p

/-- Every reservation is of one of the part's 16 load groups. -/
def RealGroups (p : Part) : Prop := ∀ r ∈ p.adm.resv, r.group < 16

theorem disarmReaders_queues (h : RealGroups p) (n : Nat) : QueuesStand p (disarmReaders p n) := by
  refine QueuesStand.fold (fun q g hg => disarm_queues q ?_) p
  rw [queueGroups, List.mem_eraseDups, List.mem_map] at hg
  obtain ⟨r, hr, rfl⟩ := hg
  exact h r (List.mem_filter.mp hr).1

/-! ## What a queue holds -/

/-- Queue i holds no descriptor, no reservation, no posted tail and no byte that waits. -/
def Emptied (i : Nat) (x : StrmSt) : Prop :=
  (∀ e ∈ x.descs, e.1 ≠ i) ∧ (∀ e ∈ x.open_, e.1 ≠ i) ∧ kfind i x.tail = none ∧ kfind i x.wait = none

theorem dropQueue_emptied (p : Part) (i : Nat) : Emptied i (dropQueue p i).strm :=
  ⟨fun _ he => of_decide_eq_true (List.mem_filter.mp he).2, fun _ he => of_decide_eq_true (List.mem_filter.mp he).2, kfind_kdel_same ..,
    kfind_kdel_same ..⟩

/-- The positions and counts of queue i (R257). -/
def positionKeys (i : Nat) : List Nat :=
  [G.sqWritten i, G.sqReserved i, G.sqPlaypos i, G.sqAhead i, G.sqSkipped i, G.sqUnderruns i, G.sqGapSamples i, G.sqSlip i, G.sqLateRefill i,
    G.sqDescHead i, G.sqDescDone i, G.sqErrCause i, G.sqMirrored i]

/-- Values made 0, one after the other. -/
theorem reg_zeroed (l : List Nat) (p : Part) (k : Nat) : reg (l.foldl (fun a j => setReg a j 0) p) k = if k ∈ l then 0 else reg p k := by
  induction l generalizing p with
  | nil => rfl
  | cons j l ih =>
    rw [List.foldl_cons, ih, reg_setReg]
    by_cases h : k = j <;> by_cases hl : k ∈ l <;> simp [h, hl]

theorem zeroed_only (l : List Nat) (p : Part) : OnlyRegs p (l.foldl (fun a j => setReg a j 0) p) l :=
  List.foldlRecOn l _ (motive := fun q => OnlyRegs p q l) (.refl p l) fun _ hq _ hj => hq.setReg hj _

theorem resetQueue_eq (p : Part) (i : Nat) : resetQueue p i = (positionKeys i).foldl (fun a j => setReg a j 0) (dropQueue p i) := rfl

/-- The queue's pages come first in the zero-fill, and nothing else changes. -/
theorem fillFirst_only (p : Part) (i : Nat) : ∃ d, fillFirst p i = { p with dram := d } := by
  unfold fillFirst
  split_ifs
  · exact ⟨p.dram, rfl⟩
  · exact ⟨_, rfl⟩

/-! ## SQ_ENABLE -/

/-- SQ_ENABLE (Table 11-7). -/
def entrySqEnable : Entry := ⟨1, 1, 1, .bool, .rw, .staged, 0, .none, false, false, .any, .cmd⟩

theorem lookup_sqEnable (i : Queue) : lookup (0x1B00 + i.val) 0x01 = .entry entrySqEnable 0x01 :=
  lookup_of (by omega) (entriesAt_1B00 (by omega) (by omega)) rfl

theorem resetQueue_adm (p : Part) (i : Nat) : (resetQueue p i).adm = p.adm := (zeroed_only (positionKeys i) (dropQueue p i)).adm

theorem enableQueue_adm (p : Part) (i v : Nat) : (enableQueue p i v).adm = p.adm := by
  unfold enableQueue
  split
  · rfl
  · split
    · obtain ⟨d, hd⟩ := fillFirst_only (setReg (setReg (resetQueue p i) (G.sqEnable i) 1) (G.sqState i) (if isShadow p then 5 else 1)) i
      have hadm := resetQueue_adm p i
      rw [hd]
      generalize resetQueue p i = a at hadm ⊢
      exact hadm
    · rfl

/-- A queue that was disabled is enabled: positions and counts read 0, and what it held is dropped (R257). -/
theorem enableQueue_on {i : Nat} (h : reg p (G.sqEnable i) ≠ 1) :
    let q := enableQueue p i 1
    reg q (G.sqEnable i) = 1 ∧ reg q (G.sqState i) = (if reg p G.pairRole = 2 then 5 else 1) ∧ Emptied i q.strm ∧ q.mem = p.mem ∧
      q.seqs = p.seqs ∧ ∀ k ∈ positionKeys i, reg q k = 0 := by
  intro q
  have hq : q = fillFirst (setReg (setReg (resetQueue p i) (G.sqEnable i) 1) (G.sqState i) (if isShadow p then 5 else 1)) i :=
    (if_neg h.symm).trans (if_pos rfl)
  obtain ⟨d, hd⟩ := fillFirst_only (setReg (setReg (resetQueue p i) (G.sqEnable i) 1) (G.sqState i) (if isShadow p then 5 else 1)) i
  have honly := (zeroed_only (positionKeys i) (dropQueue p i)).1
  have hzero : ∀ k ∈ positionKeys i, reg (resetQueue p i) k = 0 := fun k hk => (reg_zeroed ..).trans (if_pos hk)
  rw [← resetQueue_eq] at honly
  rw [hd] at hq
  generalize resetQueue p i = a at hq honly hzero
  rw [hq]
  refine ⟨?_, ?_, ?_, ?_, ?_, fun k hk => ?_⟩
  · exact (reg_setReg_ne _ (sqKey_ne i (by decide)) _).trans (reg_setReg_same ..)
  · refine (reg_setReg_same ..).trans ?_
    simp only [isShadow, decide_eq_true_eq]
  · show Emptied i a.strm
    rw [honly]
    exact dropQueue_emptied p i
  · show a.mem = p.mem
    rw [honly]
    rfl
  · show a.seqs = p.seqs
    rw [honly]
    rfl
  · have hne : k ≠ G.sqEnable i ∧ k ≠ G.sqState i := by
      constructor <;>
      · rintro rfl
        simp [positionKeys, G.sqEnable, G.sqState, G.sqWritten, G.sqReserved, G.sqPlaypos, G.sqAhead, G.sqSkipped, G.sqUnderruns, G.sqGapSamples,
          G.sqSlip, G.sqLateRefill, G.sqDescHead, G.sqDescDone, G.sqErrCause, G.sqMirrored, gkey_eq_iff] at hk
    exact (reg_setReg_ne _ hne.2 _).trans ((reg_setReg_ne _ hne.1 _).trans (hzero k hk))

/-- A queue that was enabled is disabled, and what it held is dropped (R252). -/
theorem enableQueue_off {i : Nat} (h : reg p (G.sqEnable i) ≠ 0) :
    let q := enableQueue p i 0
    reg q (G.sqEnable i) = 0 ∧ reg q (G.sqState i) = 0 ∧ Emptied i q.strm ∧ q.mem = p.mem ∧ q.seqs = p.seqs := by
  intro q
  have hq : q = { dropQueue (setReg (setReg p (G.sqEnable i) 0) (G.sqState i) 0) i with
      dram := { p.dram with first := p.dram.first.filter fun j => decide (j ≠ i) } } := (if_neg h.symm).trans (if_neg (by decide))
  rw [hq]
  exact ⟨(reg_setReg_ne (setReg p (G.sqEnable i) 0) (sqKey_ne i (by decide)) 0).trans (reg_setReg_same ..),
    reg_setReg_same (setReg p (G.sqEnable i) 0) .., dropQueue_emptied .., rfl, rfl⟩

/-- Discarding staged words moves no entry of a queue. -/
theorem sq_cleared (p : Part) (path : Path) (k i : Nat) {s : Nat} (hi : i < 64) (hs : s < 256) :
    reg (cleared p path k) (gkey (0x1B00 + i) s) = reg p (gkey (0x1B00 + i) s) := cleared_reg p path k (by rw [gkey_div _ _ hs]; omega)

/-- The part after a write of SQ_ENABLE that is taken. -/
def queueSwitched (p : Part) (path : Path) (i : Queue) (v : Nat) : Part := disarmReaders (enableQueue (cleared p path (G.sqEnable i)) i v) i

/-- A taken SQ_ENABLE enables or disables its queue and disarms the armed groups that name it (R252). -/
theorem write_sqEnable (ht : Takes p path (G.sqEnable i) v) : commandWrite p path (0x1B00 + i.val) 0x01 v =
    tell (queueSwitched p path i v) path 0 := by
  refine commandWrite_takes (e := entrySqEnable) (by decide) (lookup_sqEnable i) rfl nofun (ne_bpCommit (by omega)) ht (effect_sqEnable i) ?_
  rw [queueSwitched, disarmReaders_jobs, enableQueue_adm, cleared_adm]
  exact lt_irrefl _

/-- The armed groups that are disarmed with it leave the queue as the write made it. -/
theorem queueSwitched_stands (hg : RealGroups p) (path : Path) (i : Queue) (v : Nat) :
    QueuesStand (enableQueue (cleared p path (G.sqEnable i)) i v) (queueSwitched p path i v) :=
  disarmReaders_queues (by rw [RealGroups, enableQueue_adm, cleared_adm]; exact hg) i

theorem queueSwitched_on (hg : RealGroups p) (h : reg p (G.sqEnable i) ≠ 1) :
    let q := queueSwitched p path i 1
    reg q (G.sqEnable i) = 1 ∧ reg q (G.sqState i) = (if reg p G.pairRole = 2 then 5 else 1) ∧ Emptied i q.strm ∧ q.mem = p.mem ∧
      q.seqs = p.seqs ∧ ∀ k ∈ positionKeys i, reg q k = 0 := by
  have hc : reg (cleared p path (G.sqEnable i)) (G.sqEnable i) = reg p (G.sqEnable i) := sq_cleared p path _ i i.isLt (by decide)
  have hrole : reg (cleared p path (G.sqEnable i)) G.pairRole = reg p G.pairRole := cleared_reg _ _ _ (by decide)
  have hgz := cleared_onlyGz p path (G.sqEnable i)
  obtain ⟨hen, hst, hempty, hmem, hseqs, hzero⟩ := enableQueue_on (i := i.val) (hc.symm ▸ h)
  obtain ⟨gstrm, gmem, gseqs, gregs⟩ := queueSwitched_stands hg path i 1
  refine ⟨(gregs _ (sq_queueKey i (by decide))).trans hen, (gregs _ (sq_queueKey i (by decide))).trans (hst.trans (by rw [hrole])), ?_,
    gmem.trans (hmem.trans (by rw [hgz])), gseqs.trans (hseqs.trans (by rw [hgz])), fun k hk => (gregs k ?_).trans (hzero k hk)⟩
  · rw [gstrm]
    exact hempty
  · unfold positionKeys at hk
    simp only [List.mem_cons, List.not_mem_nil, or_false] at hk
    rcases hk with rfl | rfl | rfl | rfl | rfl | rfl | rfl | rfl | rfl | rfl | rfl | rfl | rfl <;> exact sq_queueKey i (by decide)

theorem queueSwitched_off (hg : RealGroups p) (h : reg p (G.sqEnable i) ≠ 0) :
    let q := queueSwitched p path i 0
    reg q (G.sqEnable i) = 0 ∧ reg q (G.sqState i) = 0 ∧ Emptied i q.strm ∧ q.mem = p.mem ∧ q.seqs = p.seqs := by
  have hc : reg (cleared p path (G.sqEnable i)) (G.sqEnable i) = reg p (G.sqEnable i) := sq_cleared p path _ i i.isLt (by decide)
  have hgz := cleared_onlyGz p path (G.sqEnable i)
  obtain ⟨hen, hst, hempty, hmem, hseqs⟩ := enableQueue_off (i := i.val) (hc.symm ▸ h)
  obtain ⟨gstrm, gmem, gseqs, gregs⟩ := queueSwitched_stands hg path i 0
  refine ⟨(gregs _ (sq_queueKey i (by decide))).trans hen, (gregs _ (sq_queueKey i (by decide))).trans hst, ?_,
    gmem.trans (hmem.trans (by rw [hgz])), gseqs.trans (hseqs.trans (by rw [hgz]))⟩
  rw [gstrm]
  exact hempty

end Sys2Proof.Machine
end

section
/-!
SUPPORT. BAR2 (R249, R252, R256, R257): doorbells, the MSI-X table and reads of a doorbell page.
-/

namespace Sys2Proof.Machine

variable {p q : Part} {i : Queue} {a n v o tail : Nat}

theorem exec_dbTail (off : Nat) (a : Bar2Access) (s : State) : exec (.dbTail off a) s = lift (fun p => bar2 p off a) s := by unfold exec; rfl

/-- An access of a host that is lost does not arrive (R268). -/
theorem bar2_lost (h : reg p G.hostLink ≠ 0) (off : Nat) (a : Bar2Access) : bar2 p off a = p := by
  cases a with
  | write n v => exact if_pos h
  | read n => exact if_pos h

theorem bar2_write (h : reg p G.hostLink = 0) (off n v : Nat) : bar2 p off (.write n v) = bar2Write p off n v := if_neg (not_not.mpr h)

theorem bar2_read (h : reg p G.hostLink = 0) (off n : Nat) :
    bar2 p off (.read n) = say p (.read (.bytes ((List.range n).map fun j => bar2Byte p (off + j)))) := if_neg (not_not.mpr h)

/-! ## Doorbells -/

/-- A whole write of DB_TAIL is a doorbell of its queue, but in a self-test and on a shadow (R256, R269, R356). -/
theorem bar2Write_doorbell (hn : n = 4 ∨ n = 8) : bar2Write p (4096 * i.val) n v =
    if p.life.test ≠ 0 ∨ reg p G.pairRole = 2 then addReg p G.bar2Bad 1 else doorbell p i (v % 2 ^ 32) := by
  have hwhole : (n = 4 ∨ n = 8) ∧ 4096 * i.val % n = 0 := ⟨hn, by rcases hn with rfl | rfl <;> omega⟩
  have hpage : 4096 * i.val < 0x40000 ∧ 4096 * i.val % 4096 = 0 := by omega
  have hqueue : 4096 * i.val / 4096 = i.val := Nat.mul_div_cancel_left _ (by decide)
  unfold bar2Write
  simp only [hwhole, hpage, hqueue, isShadow, decide_true, Bool.not_true, Bool.false_eq_true, or_false, true_and, and_self, Bool.not_eq_true',
    decide_eq_false_iff_not]
  by_cases ht : p.life.test ≠ 0
  · rw [if_pos ht, if_pos (.inl ht)]
  · by_cases hr : reg p G.pairRole = 2
    · rw [if_neg ht, if_neg (not_not.mpr hr), if_neg (by omega), if_pos (.inr hr)]
    · rw [if_neg ht, if_pos hr, if_neg (not_or.mpr ⟨ht, hr⟩)]

/-- A write that is narrow or misaligned, or to no listed place, is counted in BAR2_BAD (R256). -/
theorem bar2Write_bad (h : ¬ ((n = 4 ∨ n = 8) ∧ a % n = 0) ∨ (a < 0x40000 ∧ a % 4096 ≠ 0) ∨ 0x41000 ≤ a) :
    bar2Write p a n v = addReg p G.bar2Bad 1 := by
  unfold bar2Write
  simp only [Bool.not_eq_true', decide_eq_false_iff_not]
  split
  · rfl
  · rename_i hwhole
    rw [if_neg (by omega), if_neg (by omega)]

/-- A tail that posts no more than SQ_DESC_COUNT descriptors, on an enabled queue, is kept, and an idle queue fetches (R257). -/
def fed (p : Part) (i tail : Nat) : Part :=
  let q := { p with strm := { p.strm with tail := kset (fun _ => 0) p.strm.tail i tail } }
  if reg p (G.sqState i) = 1 ∧ tail ≠ reg p (G.sqDescHead i) then setReg q (G.sqState i) 2 else q

/-- The descriptors that a tail posts and that are not done (R257). -/
def postedBy (p : Part) (i tail : Nat) : Nat := (tail + 2 ^ 32 - reg p (G.sqDescDone i)) % 2 ^ 32

theorem doorbell_disabled {i : Nat} (h : reg p (G.sqEnable i) = 0) : doorbell p i tail = addReg p G.bar2Bad 1 := if_pos h

theorem doorbell_over {i : Nat} (h : reg p (G.sqEnable i) ≠ 0) (hn : reg p (G.sqDescCount i) < postedBy p i tail) :
    doorbell p i tail = queueError p i 1 := (if_neg h).trans (if_pos hn)

theorem doorbell_posts {i : Nat} (h : reg p (G.sqEnable i) ≠ 0) (hn : postedBy p i tail ≤ reg p (G.sqDescCount i)) :
    doorbell p i tail = fed p i tail := (if_neg h).trans (if_neg hn.not_gt)

theorem fed_spec (p : Part) (i tail : Nat) :
    let q := fed p i tail
    tailOf q i = tail ∧ SameRegs p q [G.sqState i] ∧
      q = { p with gz := { p.gz with regs := q.gz.regs }, strm := { p.strm with tail := q.strm.tail } } ∧
      reg q (G.sqState i) = (if reg p (G.sqState i) = 1 ∧ tail ≠ reg p (G.sqDescHead i) then 2 else reg p (G.sqState i)) := by
  have htail : kget (fun _ => 0) (kset (fun _ => 0) p.strm.tail i tail) i = tail := kget_kset_same ..
  unfold fed
  dsimp only
  split_ifs
  · exact ⟨htail, SameRegs.setReg (fun _ _ => rfl) (by simp) _, rfl, reg_setReg_same ..⟩
  · exact ⟨htail, fun _ _ => rfl, rfl, rfl⟩

/-! ## The MSI-X table -/

/-- Word w of the MSI-X table holds x (R249). -/
def vectorWritten (p : Part) (w x : Nat) : Part :=
  { p with strm := { p.strm with vectors := kset vectorDefault p.strm.vectors w (x % 2 ^ 32) } }

/-- No message of vector v waits. -/
def messageTaken (p : Part) (v : Nat) : Part := { p with strm := { p.strm with msixWait := kdel v p.strm.msixWait } }

/-- The mask of a vector is bit 0 of its last word. -/
theorem msixMasked_written (p : Part) (v x : Nat) (hx : x % 2 = 0) : msixMasked (vectorWritten p (4 * v + 3) x) v = false := by
  have hword : kget vectorDefault (vectorWritten p (4 * v + 3) x).strm.vectors (4 * v + 3) = x % 2 ^ 32 :=
    kget_kset_same vectorDefault p.strm.vectors _ _
  unfold msixMasked bit
  rw [hword, Nat.testBit_zero]
  exact decide_eq_false (by omega)

/-- Unmasking a vector whose message waits sends it (R249). -/
theorem writeVector_unmasks {x : Nat} (hl : reg p G.hostLink = 0) (hv : v < 256) (hw : kfind v p.strm.msixWait ≠ none) (hx : x % 2 = 0) :
    writeVector p (4 * v + 3) x = say (messageTaken (vectorWritten p (4 * v + 3) x) v) (.msix v) := by
  have hn : (4 * v + 3) / 4 = v := by omega
  have hmask := msixMasked_written p v x hx
  unfold writeVector
  simp only [hn]
  exact (if_pos ⟨Option.isSome_iff_ne_none.mpr hw, by rw [← vectorWritten, hmask]; rfl⟩).trans
    (raiseMsix_sends (p := messageTaken (vectorWritten p (4 * v + 3) x) v) hv hl hmask)

/-- The last word of a vector is at 0x4000C + 16 v in BAR2 (R249). -/
theorem bar2Write_vector (ht : p.life.test = 0) (hv : v < 256) (x : Nat) : bar2Write p (0x4000C + 16 * v) 4 x = writeVector p (4 * v + 3) x := by
  have hword : (0x4000C + 16 * v - 0x40000) / 4 = 4 * v + 3 := by omega
  have hwhole : (4 = 4 ∨ 4 = 8) ∧ (0x4000C + 16 * v) % 4 = 0 := ⟨.inl rfl, by omega⟩
  unfold bar2Write
  rw [if_neg (by simp [ht, hwhole]), if_neg (by omega), if_pos (by omega), hword]
  exact if_neg (by decide)

theorem bar2Write_unmasks {x : Nat} (ht : p.life.test = 0) (hl : reg p G.hostLink = 0) (hv : v < 256) (hw : kfind v p.strm.msixWait ≠ none)
    (hx : x % 2 = 0) :
    let q := bar2Write p (0x4000C + 16 * v) 4 x
    q.sent = .msix v :: p.sent ∧ kfind v q.strm.msixWait = none ∧ q.gz = p.gz ∧ q.mem = p.mem := by
  intro q
  have hq : q = say (messageTaken (vectorWritten p (4 * v + 3) x) v) (.msix v) := (bar2Write_vector ht hv x).trans (writeVector_unmasks hl hv hw hx)
  rw [hq]
  exact ⟨rfl, kfind_kdel_same v p.strm.msixWait, rfl, rfl⟩

/-! ## Reads -/

/-- The byte at offset o of queue i's doorbell page (Table 11-3). -/
def pageByte (p : Part) (i o : Nat) : Byte :=
  (((pageRegs p i).find? fun r => decide (r.1 ≤ o ∧ o < r.1 + r.2.1)).map fun r => BitVec.ofNat 8 (r.2.2 / 256 ^ (o - r.1))).getD 0

theorem bar2Byte_page (p : Part) (i : Queue) (ho : o < 4096) : bar2Byte p (4096 * i.val + o) = pageByte p i o := by
  have hpage : (4096 * i.val + o) / 4096 = i.val := by omega
  have hoff : (4096 * i.val + o) % 4096 = o := by omega
  unfold bar2Byte pageByte
  rw [if_pos (by omega), hpage, hoff]
  generalize (pageRegs p i).find? (fun r => decide (r.1 ≤ o ∧ o < r.1 + r.2.1)) = r
  cases r with
  | none => rfl
  | some r => rfl

/-- The registers of a page do not overlap: a byte of one shows that register. -/
theorem pageByte_reg {r : Nat × Nat × Nat} {i : Nat} (hr : r ∈ pageRegs p i) (h : r.1 ≤ o ∧ o < r.1 + r.2.1) :
    pageByte p i o = BitVec.ofNat 8 (r.2.2 / 256 ^ (o - r.1)) := by
  have hfind : (pageRegs p i).find? (fun r => decide (r.1 ≤ o ∧ o < r.1 + r.2.1)) = some r := by
    unfold pageRegs at hr ⊢
    simp only [List.mem_cons, List.not_mem_nil, or_false] at hr
    rcases hr with rfl | rfl | rfl | rfl | rfl <;> simp only [List.find?_cons] at h ⊢ <;> grind
  unfold pageByte
  rw [hfind]
  rfl

/-- A byte of no register reads 0. -/
theorem pageByte_none {i : Nat} (h : ∀ r ∈ pageRegs p i, ¬ (r.1 ≤ o ∧ o < r.1 + r.2.1)) : pageByte p i o = 0 := by
  have hfind : (pageRegs p i).find? (fun r => decide (r.1 ≤ o ∧ o < r.1 + r.2.1)) = none := by
    simpa only [List.find?_eq_none, decide_eq_true_eq] using h
  unfold pageByte
  rw [hfind]
  rfl

/-- A register of a page is shown byte by byte from its offset on. -/
theorem bar2Byte_reg {x n v : Nat} (hr : (x, n, v) ∈ pageRegs p i) (hx : x + n ≤ 4096) {j : Nat} (hj : j < n) :
    bar2Byte p (4096 * i.val + x + j) = BitVec.ofNat 8 (v / 256 ^ j) := by
  rw [Nat.add_assoc, bar2Byte_page p i (by omega), pageByte_reg hr ⟨Nat.le_add_right .., Nat.add_lt_add_left hj _⟩, Nat.add_sub_cancel_left]

/-- A byte of a page below its registers and above them reads 0. -/
theorem bar2Byte_unlisted (p : Part) (i : Queue) {x j : Nat} (h : x + j < 8 ∨ 0x2C ≤ x + j) (hx : x + j < 4096) :
    bar2Byte p (4096 * i.val + x + j) = BitVec.ofNat 8 (0 / 256 ^ j) := by
  rw [Nat.add_assoc, bar2Byte_page p i hx, Nat.zero_div]
  refine pageByte_none fun r hr => ?_
  unfold pageRegs at hr
  simp only [List.mem_cons, List.not_mem_nil, or_false] at hr
  rcases hr with rfl | rfl | rfl | rfl | rfl <;> dsimp only <;> omega

end Sys2Proof.Machine
end

section
/-!
SUPPORT. A network object enters a ring (R259), byte by byte around its end.
-/

namespace Sys2Proof.Machine

variable {p q : Part} {path : Path} {i : Queue} {data : List Byte} {x j : Nat} {b : Byte}

theorem exec_sqNetData (path : Path) (i : Queue) (data : List Byte) (s : State) :
    exec (.sqNetData path i data) s = lift (fun p => commandBulk p path (G.sqNetData i) data) s := by unfold exec; rfl

/-- The address at which byte j of an append to queue i is stored (R254). -/
def ringAt (p : Part) (i j : Nat) : Nat := reg p (G.sqRingBase i) + (reg p (G.sqWritten i) + j) % reg p (G.sqRingSize i)

/-- No two bytes of an object that fits the ring share an address. -/
theorem ringAt_inj {i j k n : Nat} (hn : n ≤ reg p (G.sqRingSize i)) (hj : j < n) (hk : k < n) (h : ringAt p i j = ringAt p i k) : j = k := by
  have hmod : reg p (G.sqWritten i) + j ≡ reg p (G.sqWritten i) + k [MOD reg p (G.sqRingSize i)] := Nat.add_left_cancel h
  exact Nat.ModEq.eq_of_lt_of_lt (Nat.ModEq.add_left_cancel' _ hmod) (hj.trans_le hn) (hk.trans_le hn)

/-- The byte of an object that is stored at address x. -/
def ringByte (p : Part) (i : Nat) (data : List Byte) (x : Nat) : Option Byte :=
  ((List.range data.length).find? fun j => decide (ringAt p i j = x)).map fun j => data.getD j 0

theorem ringByte_at {i : Nat} (hn : data.length ≤ reg p (G.sqRingSize i)) (hj : j < data.length) :
    ringByte p i data (ringAt p i j) = some (data.getD j 0) := by
  unfold ringByte
  cases hf : (List.range data.length).find? fun k => decide (ringAt p i k = ringAt p i j) with
  | none => exact absurd (decide_eq_true rfl) (List.find?_eq_none.mp hf j (List.mem_range.mpr hj))
  | some k =>
    have hk := List.mem_range.mp (List.mem_of_find?_eq_some hf)
    rw [ringAt_inj hn hk hj (of_decide_eq_true (List.find?_some (p := fun k => decide (ringAt p i k = ringAt p i j)) hf))]
    rfl

theorem ringByte_other {i : Nat} (h : ∀ j, j < data.length → x ≠ ringAt p i j) : ringByte p i data x = none := by
  unfold ringByte
  rw [List.find?_eq_none.mpr fun j hj hx => h j (List.mem_range.mp hj) (of_decide_eq_true hx).symm]
  rfl

/-- The bytes of an append, each at its address. -/
theorem mem_ringBytes {i : Nat} (hn : data.length ≤ reg p (G.sqRingSize i)) (h0 : data ≠ []) :
    (x, b) ∈ ringBytes p i data ↔ ringByte p i data x = some b := by
  have hlen : 0 < data.length := List.length_pos_iff.mpr h0
  have hsize : max 1 (reg p (G.sqRingSize i)) = reg p (G.sqRingSize i) := by omega
  simp only [ringBytes, hsize, List.mem_map, Prod.exists, List.mem_zipIdx_iff_getElem?, Prod.mk.injEq]
  constructor
  · rintro ⟨c, j, hc, hx, rfl⟩
    have hj := (List.getElem?_eq_some_iff.mp hc).1
    rw [← hx]
    refine (ringByte_at hn hj).trans ?_
    rw [List.getD_eq_getElem?_getD, hc]
    rfl
  · intro hx
    obtain ⟨j, hf, hb⟩ := Option.map_eq_some_iff.mp hx
    have hj := List.mem_range.mp (List.mem_of_find?_eq_some hf)
    refine ⟨b, j, ?_, of_decide_eq_true (List.find?_some (p := fun j => decide (ringAt p i j = x)) hf), rfl⟩
    rw [← hb, List.getD_eq_getElem?_getD, List.getElem?_eq_getElem hj]
    rfl

/-- An append where the memory has neither failed nor an uncorrectable line is in the ring at SQ_WRITTEN (R254). -/
theorem appendRing_stores {i : Nat} (hn : data.length ≤ reg p (G.sqRingSize i)) (h0 : data ≠ []) (hs : reg p G.memState ≠ 3) (hb : p.mem.bad = []) :
    (∀ j, j < data.length → dramByte (appendRing p i data).mem.dram (ringAt p i j) = data.getD j 0) ∧
      ∀ x, (∀ j, j < data.length → x ≠ ringAt p i j) → dramByte (appendRing p i data).mem.dram x = dramByte p.mem.dram x := by
  obtain ⟨q, hq, -, hm⟩ := writeBytes_clean hs hb 1 fun x b => mem_ringBytes (x := x) (b := b) hn h0
  have hmem : (appendRing p i data).mem = q.mem := by
    rw [appendRing_eq h0, (settleQueue_kept _ _).1, hq]
    rfl
  rw [hmem]
  refine ⟨fun j hj => ?_, fun x hx => ?_⟩
  · rw [hm, ringByte_at hn hj]
    rfl
  · rw [hm, ringByte_other hx]
    rfl

/-- A network object of a legal length, for a queue that is fed by the network and has room, is appended whole (R259). -/
theorem netData_taken {i : Nat} (he : reg p (G.sqEnable i) = 1) (hs : reg p (G.sqSource i) = 1) (hm : data.length % 64 = 0) (hlo : 64 ≤ data.length)
    (hhi : data.length ≤ 65536) (hr : data.length ≤ ringRoom p i) : netData p i data = (appendRing p i data, 0) := by
  unfold netData
  rw [if_neg (by omega), if_neg hr.not_gt]

theorem bulkEffect_sqNetData (i : Queue) : bulkEffect p (G.sqNetData i) data = netData p i data := by
  have hindex : G.sqNetData i / 256 = 0x1B00 + i.val := gkey_div _ _ (by decide)
  have hedge : G.sqNetData i ≠ G.edgeStore := sqKey_ne_low i _ (by decide) (by decide)
  have hup : G.sqNetData i ≠ G.upData := sqKey_ne_low i _ (by decide) (by decide)
  have hfw : G.sqNetData i ≠ G.fwImage := sqKey_ne_low i _ (by decide) (by decide)
  have hload : G.sqNetData i ≠ G.ecLoad := sqKey_ne_low i _ (by decide) (by decide)
  unfold bulkEffect
  rw [if_neg hedge, if_neg hup, if_neg hfw, if_neg hload, hindex, if_pos (by omega), Nat.add_sub_cancel_left]

/-- A taken network object whose effect is not refused (R84, R334): a queue's object is not forwarded. -/
theorem write_sqNetData (ht : TakesBulk p path (G.sqNetData i)) (ha : netData p i data = (q, 0)) :
    commandBulk p path (G.sqNetData i) data = tell q path 0 := by
  obtain ⟨e, he, hr, hc, -⟩ := ht
  have hindex : G.sqNetData i / 256 = 0x1B00 + i.val := gkey_div _ _ (by decide)
  have hchan : keyChan (G.sqNetData i) = none := if_neg (by rw [hindex]; omega)
  have hqueue : keyQueue (G.sqNetData i) = some i.val := by
    unfold keyQueue
    rw [hindex, if_pos (by omega), Nat.add_sub_cancel_left]
  have happly : applyBulk p e (G.sqNetData i) data = (q, 0) := (applyBulk_eq hchan).trans ((bulkEffect_sqNetData i).trans ha)
  unfold commandBulk writeBulk
  rw [he]
  simp only [hr, hc, happly, hqueue, Bool.not_true, Bool.false_eq_true, if_false, ne_eq, not_true_eq_false, Option.isNone_some, Bool.and_false,
    Bool.false_and]
  rfl

end Sys2Proof.Machine
end

section
/-!
SUPPORT. SQ_FLUSH (R254): positions go to SQ_WRITTEN, and what was posted counts as done.
-/

namespace Sys2Proof.Machine

variable {p q : Part} {path : Path} {i : Queue}

theorem exec_sqFlush (path : Path) (i : Queue) (v : Nat) (s : State) :
    exec (.sqFlush path i v) s = lift (fun p => commandWrite p path (0x1B00 + i.val) 0x20 v) s := by unfold exec; rfl

/-- The part without reservations of queue i, whose SQ_RESERVED is SQ_WRITTEN. -/
def positionsFlushed (p : Part) (i : Nat) : Part :=
  settleQueue (setReg { p with strm := { p.strm with open_ := p.strm.open_.filter fun e => decide (e.1 ≠ i) } } (G.sqReserved i)
    (reg p (G.sqWritten i))) i

/-- The descriptors of queue i that are posted and not fetched. -/
def unfetched (p : Part) (i : Nat) : Nat := (tailOf p i + 2 ^ 32 - reg p (G.sqDescHead i)) % 2 ^ 32

/-- Descriptors that are posted and not fetched count as done. -/
def unfetchedDone (p : Part) (i : Nat) : Part := addReg (setReg p (G.sqDescHead i) (tailOf p i)) (G.sqDescDone i) (unfetched p i)

/-- A queue that fetches, with no byte that waits, is idle. -/
def fetchesNone (p : Part) (i : Nat) : Part :=
  if reg p (G.sqState i) = 2 ∧ (waiting p i).isEmpty then setReg p (G.sqState i) 1 else p

theorem flushQueue_eq {i : Nat} (h : queueRuns p i = false) : flushQueue p i =
    (if unfetched (positionsFlushed p i) i = 0 then positionsFlushed p i
      else writeBack (fetchesNone (unfetchedDone (positionsFlushed p i) i) i) i 1, 0) := by
  unfold flushQueue
  rw [h, if_neg (by decide)]
  split_ifs with h0
  · exact if_pos h0
  · exact if_neg h0

theorem positionsFlushed_spec (p : Part) (i : Nat) :
    let q := positionsFlushed p i
    reg q (G.sqReserved i) = reg p (G.sqWritten i) ∧ reg q (G.sqWritten i) = reg p (G.sqWritten i) ∧
      reg q (G.sqDescHead i) = reg p (G.sqDescHead i) ∧ reg q (G.sqDescDone i) = reg p (G.sqDescDone i) ∧ (∀ e ∈ q.strm.open_, e.1 ≠ i) ∧
      tailOf q i = tailOf p i ∧ q.mem = p.mem ∧ q.seqs = p.seqs ∧ q.sent = p.sent ∧ q.adm = p.adm := by
  intro q
  have hring : RingFrame i _ q := settleQueue_ring ..
  obtain ⟨hmem, hsent⟩ : q.mem = p.mem ∧ q.sent = p.sent := settleQueue_kept ..
  obtain ⟨hseqs, -, -, -, htail, -, hopen⟩ := hring.kept
  refine ⟨(hring.entry (by decide)).trans (reg_setReg_same ..), ?_, (hring.entry (by decide)).trans (reg_setReg_ne _ (sqKey_ne i (by decide)) _),
    (hring.entry (by decide)).trans (reg_setReg_ne _ (sqKey_ne i (by decide)) _), ?_, by rw [tailOf, htail]; rfl, hmem, hseqs, hsent, ?_⟩
  · exact (reg_settleQueue _ _ (sqKey_ne i (by decide)) (sqKey_ne i (by decide))).trans (reg_setReg_ne _ (sqKey_ne i (by decide)) _)
  · rw [hopen]
    exact fun e he => of_decide_eq_true (List.mem_filter.mp he).2
  · rw [hring.units]
    rfl

theorem fetchesNone_only (p : Part) (i : Nat) : OnlyRegs p (fetchesNone p i) [G.sqState i] := by
  unfold fetchesNone
  split_ifs
  · exact (OnlyRegs.refl p _).setReg (by simp) _
  · exact .refl p _

/-- What the descriptors that count as done show. -/
theorem unfetchedDone_spec (p : Part) (i : Nat) :
    let q := unfetchedDone p i
    reg q (G.sqDescHead i) = tailOf p i ∧ reg q (G.sqDescDone i) = (reg p (G.sqDescDone i) + unfetched p i) % 2 ^ regWidth (G.sqDescDone i) ∧
      OnlyRegs p q [G.sqDescHead i, G.sqDescDone i] := by
  have hdone : reg (setReg p (G.sqDescHead i) (tailOf p i)) (G.sqDescDone i) = reg p (G.sqDescDone i) := reg_setReg_ne _ (sqKey_ne i (by decide)) _
  refine ⟨(reg_setReg_ne _ (sqKey_ne i (by decide)) _).trans (reg_setReg_same ..), ?_, ((OnlyRegs.refl p _).setReg (by simp) _).setReg (by simp) _⟩
  exact (reg_setReg_same ..).trans (by rw [hdone])

/-- The part after its unfetched descriptors count as done, idle where it can be, with the count written back. -/
def flushEnded (p : Part) (i : Nat) : Part := writeBack (fetchesNone (unfetchedDone p i) i) i 1

theorem flushEnded_only (p : Part) (i : Nat) :
    ∃ a sent, flushEnded p i = { a with sent := sent } ∧ OnlyRegs (unfetchedDone p i) a [G.sqState i] :=
  ⟨_, _, writeBack_only (fetchesNone (unfetchedDone p i) i) i 1, fetchesNone_only _ i⟩

theorem flushEnded_spec (p : Part) (i : Nat) :
    let q := flushEnded p i
    reg q (G.sqDescHead i) = tailOf p i ∧ reg q (G.sqDescDone i) = (reg p (G.sqDescDone i) + unfetched p i) % 2 ^ regWidth (G.sqDescDone i) ∧
      SameRegs p q [G.sqDescHead i, G.sqDescDone i, G.sqState i] ∧ q.strm = p.strm ∧ q.mem = p.mem ∧ q.seqs = p.seqs ∧ q.adm = p.adm := by
  intro q
  obtain ⟨hhead, hdone, hkeys⟩ := unfetchedDone_spec p i
  obtain ⟨a, sent, hq, hidle⟩ := flushEnded_only p i
  have honly : OnlyRegs p a [G.sqDescHead i, G.sqDescDone i, G.sqState i] := (hkeys.mono (by simp)).trans (hidle.mono (by simp))
  change q = _ at hq
  clear_value q
  have hregs : ∀ k, reg q k = reg a k := reg_of_gz (by rw [hq])
  have hkept : ∀ {s}, s ≠ 0x0F → reg q (gkey (0x1B00 + i) s) = reg (unfetchedDone p i) (gkey (0x1B00 + i) s) := fun hs =>
    (hregs _).trans (hidle.2 _ (List.mem_singleton.not.mpr (sqKey_ne i hs)))
  refine ⟨(hkept (by decide)).trans hhead, (hkept (by decide)).trans hdone, fun k hk => (hregs k).trans (honly.2 k hk), ?_⟩
  rw [hq, honly.1]
  exact ⟨rfl, rfl, rfl, rfl⟩

/-- A flush of a queue that no running group names (R254). -/
theorem flushQueue_spec {i : Nat} (h : queueRuns p i = false) : ∃ q, flushQueue p i = (q, 0) ∧
    reg q (G.sqReserved i) = reg p (G.sqWritten i) ∧ reg q (G.sqWritten i) = reg p (G.sqWritten i) ∧ (∀ e ∈ q.strm.open_, e.1 ≠ i) ∧
      q.mem = p.mem ∧ q.seqs = p.seqs ∧ q.adm = p.adm ∧
      (unfetched p i = 0 → reg q (G.sqDescDone i) = reg p (G.sqDescDone i) ∧ q.sent = p.sent) ∧
      (unfetched p i ≠ 0 → reg q (G.sqDescHead i) = tailOf p i ∧
        reg q (G.sqDescDone i) = (reg p (G.sqDescDone i) + unfetched p i) % 2 ^ regWidth (G.sqDescDone i)) := by
  obtain ⟨hres, hwritten, hhead, hdone, hopen, htail, hmem, hseqs, hsent, hadm⟩ := positionsFlushed_spec p i
  refine ⟨_, flushQueue_eq h, ?_⟩
  have hleft : unfetched (positionsFlushed p i) i = unfetched p i := by rw [unfetched, hhead, htail, unfetched]
  generalize positionsFlushed p i = a at *
  rw [hleft]
  split_ifs with h0
  · exact ⟨hres, hwritten, hopen, hmem, hseqs, hadm, fun _ => ⟨hdone, hsent⟩, fun hn => absurd h0 hn⟩
  · obtain ⟨ghead, gdone, gregs, gstrm, gmem, gseqs, gadm⟩ := flushEnded_spec a i
    have hkey : ∀ {s}, s ∉ [0x1D, 0x1E, 0x0F] → reg (flushEnded a i) (gkey (0x1B00 + i) s) = reg a (gkey (0x1B00 + i) s) := fun hs =>
      gregs _ (by simpa [G.sqDescHead, G.sqDescDone, G.sqState, gkey_eq_iff] using hs)
    refine ⟨(hkey (by decide)).trans hres, (hkey (by decide)).trans hwritten, ?_, gmem.trans hmem, gseqs.trans hseqs, gadm.trans hadm,
      fun hn => absurd hn h0, fun _ => ⟨ghead.trans htail, ?_⟩⟩
    · show ∀ e ∈ (flushEnded a i).strm.open_, _
      rw [gstrm]
      exact hopen
    · rw [← hleft, ← hdone]
      exact gdone

/-- SQ_FLUSH (Table 11-7). -/
def entrySqFlush : Entry := ⟨32, 32, 1, .bool, .wo, .live, 0, .none, false, false, .any, .cmd⟩

theorem lookup_sqFlush (i : Queue) : lookup (0x1B00 + i.val) 0x20 = .entry entrySqFlush 0x20 :=
  lookup_of (by omega) (entriesAt_1B00 (by omega) (by omega)) rfl

theorem queueRuns_cleared (p : Part) (path : Path) (k i : Nat) : queueRuns (cleared p path k) i = queueRuns p i := by
  have hgroups : queueGroups (cleared p path k) i = queueGroups p i := by rw [queueGroups, cleared_adm, queueGroups]
  have hruns : groupRuns (cleared p path k) = groupRuns p := funext fun g => by rw [groupRuns, lgState_cleared, groupRuns]
  rw [queueRuns, hgroups, hruns, queueRuns]

/-- A taken SQ_FLUSH TRUE of a queue that no running group names (R254). -/
theorem write_sqFlush (ht : Takes p path (G.sqFlush i) 1) (hr : queueRuns p i = false) :
    ∃ q, commandWrite p path (0x1B00 + i.val) 0x20 1 = tell q path 0 ∧
    reg q (G.sqReserved i) = reg p (G.sqWritten i) ∧ reg q (G.sqWritten i) = reg p (G.sqWritten i) ∧ (∀ e ∈ q.strm.open_, e.1 ≠ i.val) ∧
      q.mem = p.mem ∧ q.seqs = p.seqs ∧ (unfetched p i = 0 → reg q (G.sqDescDone i) = reg p (G.sqDescDone i) ∧ q.sent = p.sent) ∧
      (unfetched p i ≠ 0 → reg q (G.sqDescHead i) = tailOf p i ∧
        reg q (G.sqDescDone i) = (reg p (G.sqDescDone i) + unfetched p i) % 2 ^ regWidth (G.sqDescDone i)) := by
  have hgz := cleared_onlyGz p path (G.sqFlush i)
  have hwritten : reg (cleared p path (G.sqFlush i)) (G.sqWritten i) = reg p (G.sqWritten i) := sq_cleared p path _ i i.isLt (by decide)
  have hdone : reg (cleared p path (G.sqFlush i)) (G.sqDescDone i) = reg p (G.sqDescDone i) := sq_cleared p path _ i i.isLt (by decide)
  have hhead : reg (cleared p path (G.sqFlush i)) (G.sqDescHead i) = reg p (G.sqDescHead i) := sq_cleared p path _ i i.isLt (by decide)
  have htail : tailOf (cleared p path (G.sqFlush i)) i = tailOf p i := by rw [hgz]; rfl
  have hleft : unfetched (cleared p path (G.sqFlush i)) i = unfetched p i := by rw [unfetched, htail, hhead, unfetched]
  obtain ⟨q, hq, gres, gwritten, gopen, gmem, gseqs, gadm, gnone, gsome⟩ :=
    flushQueue_spec (i := i.val) ((queueRuns_cleared p path (G.sqFlush i) i).trans hr)
  rw [hwritten] at gres gwritten
  rw [hleft, hdone] at gnone gsome
  rw [htail] at gsome
  refine ⟨q, ?_, gres, gwritten, gopen, gmem.trans (by rw [hgz]), gseqs.trans (by rw [hgz]), fun h0 => ?_, gsome⟩
  · exact commandWrite_takes (e := entrySqFlush) (by decide) (lookup_sqFlush i) rfl nofun (ne_bpCommit (by omega)) ht
      ((effect_sqFlush i).trans ((onTrue_one _).trans hq)) (jobs_of_adm gadm)
  · obtain ⟨hd, hs⟩ := gnone h0
    exact ⟨hd, hs.trans (by rw [hgz])⟩

end Sys2Proof.Machine
end

section
/-!
SUPPORT. O47: a queue is enabled, fed and flushed (R249, R252, R254, R256, R257, R259). What O47 says holds of every part whose reservations are of
its 16 load groups; of a part with a reservation of another group its first clause fails.
-/

namespace Sys2Proof.Machine

/-- What O47 says, of a part whose reservations are of its 16 load groups (R309). The writes of SQ_ENABLE need that of the groups they disarm; no
other clause does. -/
theorem queuesAreEnabledAndFed_of_realGroups (s : State) (i : Queue) (path : Path) (hw : awake s) (hg : RealGroups s.part) :
    let p := s.part
    let dropped (q : Part) : Prop := (∀ e ∈ q.strm.descs, e.1 ≠ i.val) ∧ (∀ e ∈ q.strm.open_, e.1 ≠ i.val) ∧ kfind i q.strm.tail = none ∧
      kfind i q.strm.wait = none
    (Takes p path (G.sqEnable i) 1 → reg p (G.sqEnable i) ≠ 1 →
      ∃ q, exec (.sqEnable path i 1) s = .next { s with part := tell q path 0 } ∧ reg q (G.sqEnable i) = 1 ∧
        reg q (G.sqState i) = (if reg p G.pairRole = 2 then 5 else 1) ∧ dropped q ∧ q.mem = p.mem ∧ q.seqs = p.seqs ∧
        ∀ k ∈ [G.sqWritten i, G.sqReserved i, G.sqPlaypos i, G.sqAhead i, G.sqSkipped i, G.sqUnderruns i, G.sqGapSamples i, G.sqSlip i,
          G.sqLateRefill i, G.sqDescHead i, G.sqDescDone i, G.sqErrCause i, G.sqMirrored i], reg q k = 0) ∧
    (Takes p path (G.sqEnable i) 0 → reg p (G.sqEnable i) ≠ 0 →
      ∃ q, exec (.sqEnable path i 0) s = .next { s with part := tell q path 0 } ∧ reg q (G.sqEnable i) = 0 ∧ reg q (G.sqState i) = 0 ∧
        dropped q ∧ q.mem = p.mem ∧ q.seqs = p.seqs) ∧
    (∀ n v : Nat, reg p G.hostLink = 0 → (n = 4 ∨ n = 8) →
      let tail := v % 2 ^ 32
      let write : Instr := .dbTail (4096 * i.val) (.write n v)
      let posted := (tail + 2 ^ 32 - reg p (G.sqDescDone i)) % 2 ^ 32
      let bad := reg p (G.sqEnable i) = 0 ∨ reg p G.pairRole = 2 ∨ p.life.test ≠ 0
      (bad → exec write s = .next { s with part := addReg p G.bar2Bad 1 }) ∧
      (¬ bad → reg p (G.sqDescCount i) < posted → ∃ q, exec write s = .next { s with part := q } ∧
        OnlyRegs p q [G.sqState i, G.sqErrCause i] ∧ reg q (G.sqState i) = 3 ∧ reg q (G.sqErrCause i) = 1) ∧
      (¬ bad → posted ≤ reg p (G.sqDescCount i) → ∃ q, exec write s = .next { s with part := q } ∧ tailOf q i = tail ∧
        SameRegs p q [G.sqState i] ∧ q = { p with gz := { p.gz with regs := q.gz.regs }, strm := { p.strm with tail := q.strm.tail } } ∧
        reg q (G.sqState i) = (if reg p (G.sqState i) = 1 ∧ tail ≠ reg p (G.sqDescHead i) then 2 else reg p (G.sqState i)))) ∧
    (∀ off n v : Nat, reg p G.hostLink = 0 → (¬ ((n = 4 ∨ n = 8) ∧ off % n = 0) ∨ (off < 0x40000 ∧ off % 4096 ≠ 0) ∨ 0x41000 ≤ off) →
      exec (.dbTail off (.write n v)) s = .next { s with part := addReg p G.bar2Bad 1 }) ∧
    (∀ v x : Nat, reg p G.hostLink = 0 → p.life.test = 0 → v < 256 → kfind v p.strm.msixWait ≠ none → x % 2 = 0 →
      ∃ q, exec (.dbTail (0x4000C + 16 * v) (.write 4 x)) s = .next { s with part := q } ∧ q.sent = .msix v :: p.sent ∧
        kfind v q.strm.msixWait = none ∧ q.gz = p.gz ∧ q.mem = p.mem) ∧
    (reg p G.hostLink = 0 → ∀ off n : Nat,
      exec (.dbTail off (.read n)) s = .next { s with part := say p (.read (.bytes ((List.range n).map fun j => bar2Byte p (off + j)))) }) ∧
    (let shows (o n v : Nat) : Prop := ∀ j, j < n → bar2Byte p (4096 * i.val + o + j) = BitVec.ofNat 8 (v / 256 ^ j)
     shows 0x008 4 (reg p (G.sqDescHead i)) ∧ shows 0x010 4 (reg p (G.sqDescDone i)) ∧ shows 0x018 8 (reg p (G.sqWritten i)) ∧
       shows 0x020 8 (playPos p i) ∧ shows 0x028 4 (reg p (G.sqState i)) ∧ shows 0x000 8 0 ∧ ∀ o, 0x030 ≤ o → o < 0x1000 → shows o 1 0) ∧
    (reg p G.hostLink ≠ 0 → ∀ off a, exec (.dbTail off a) s = .next s) ∧
    (∀ data : List Byte, TakesBulk p path (G.sqNetData i) → reg p (G.sqEnable i) = 1 → reg p (G.sqSource i) = 1 → data.length % 64 = 0 →
      64 ≤ data.length → data.length ≤ 65536 → data.length ≤ ringRoom p i → data.length ≤ reg p (G.sqRingSize i) →
      reg p G.memState ≠ 3 → p.mem.bad = [] →
      let at_ (j : Nat) : Nat := reg p (G.sqRingBase i) + (reg p (G.sqWritten i) + j) % reg p (G.sqRingSize i)
      ∃ q, exec (.sqNetData path i data) s = .next { s with part := tell q path 0 } ∧ reg q (G.sqWritten i) = reg p (G.sqWritten i) + data.length ∧
        (∀ j, j < data.length → dramByte q.mem.dram (at_ j) = data.getD j 0) ∧
        (∀ x, (∀ j, j < data.length → x ≠ at_ j) → dramByte q.mem.dram x = dramByte p.mem.dram x) ∧ q.seqs = p.seqs ∧ q.plans = p.plans) ∧
    (Takes p path (G.sqFlush i) 1 → queueRuns p i = false →
      let n := (tailOf p i + 2 ^ 32 - reg p (G.sqDescHead i)) % 2 ^ 32
      ∃ q, exec (.sqFlush path i 1) s = .next { s with part := tell q path 0 } ∧ reg q (G.sqReserved i) = reg p (G.sqWritten i) ∧
        reg q (G.sqWritten i) = reg p (G.sqWritten i) ∧ (∀ e ∈ q.strm.open_, e.1 ≠ i.val) ∧ q.mem = p.mem ∧ q.seqs = p.seqs ∧
        (n = 0 → reg q (G.sqDescDone i) = reg p (G.sqDescDone i) ∧ q.sent = p.sent) ∧
        (n ≠ 0 → reg q (G.sqDescHead i) = tailOf p i ∧ reg q (G.sqDescDone i) = (reg p (G.sqDescDone i) + n) % 2 ^ regWidth (G.sqDescDone i))) := by
  intro p dropped
  have hdoorbell : ∀ {n v : Nat} {q : Part}, reg p G.hostLink = 0 → (n = 4 ∨ n = 8) →
      (if p.life.test ≠ 0 ∨ reg p G.pairRole = 2 then addReg p G.bar2Bad 1 else doorbell p i (v % 2 ^ 32)) = q →
        exec (.dbTail (4096 * i.val) (.write n v)) s = .next { s with part := q } := fun hl hn hq =>
    exec_next (exec_dbTail _ _ s) hw ((bar2_write hl ..).trans ((bar2Write_doorbell hn).trans hq))
  refine ⟨fun ht he => ?_, fun ht he => ?_, fun n v hl hn => ⟨fun hbad => ?_, fun hgood hover => ?_, fun hgood hfits => ?_⟩, fun off n v hl h => ?_,
    fun v x hl ht hv hm hx => ?_, fun hl off n => ?_, ?_, fun hl off a => ?_,
    fun data ht he hs hm hlo hhi hr hn hmem hbad => ?_, fun ht hr => ?_⟩
  · obtain ⟨hen, hst, hempty, hmem, hseqs, hzero⟩ := queueSwitched_on (path := path) hg he
    exact ⟨_, exec_next (exec_sqEnable path i 1 s) hw (write_sqEnable ht), hen, hst, hempty, hmem, hseqs, hzero⟩
  · obtain ⟨hen, hst, hempty, hmem, hseqs⟩ := queueSwitched_off (path := path) hg he
    exact ⟨_, exec_next (exec_sqEnable path i 0 s) hw (write_sqEnable ht), hen, hst, hempty, hmem, hseqs⟩
  · refine hdoorbell hl hn ?_
    split_ifs with hno
    · rfl
    · obtain ⟨htest, hrole⟩ := not_or.mp hno
      exact doorbell_disabled (hbad.resolve_right fun h => h.elim hrole htest)
  · obtain ⟨hen, hrole, htest⟩ := (by simpa only [not_or] using hgood : _ ∧ _ ∧ _)
    obtain ⟨hstate, hcause, honly⟩ := queueError_spec p i 1
    exact ⟨_, hdoorbell hl hn ((if_neg (not_or.mpr ⟨htest, hrole⟩)).trans (doorbell_over hen hover)), honly, hstate, hcause⟩
  · obtain ⟨hen, hrole, htest⟩ := (by simpa only [not_or] using hgood : _ ∧ _ ∧ _)
    exact ⟨_, hdoorbell hl hn ((if_neg (not_or.mpr ⟨htest, hrole⟩)).trans (doorbell_posts hen hfits)), fed_spec p i _⟩
  · exact exec_next (exec_dbTail _ _ s) hw ((bar2_write hl ..).trans (bar2Write_bad h))
  · exact ⟨_, exec_next (exec_dbTail _ _ s) hw (bar2_write hl ..), bar2Write_unmasks ht hl hv hm hx⟩
  · exact exec_next (exec_dbTail _ _ s) hw (bar2_read hl ..)
  · have hreg : ∀ {x n v}, (x, n, v) ∈ pageRegs p i → x + n ≤ 4096 → ∀ j, j < n → bar2Byte p (4096 * i.val + x + j) = BitVec.ofNat 8 (v / 256 ^ j) :=
      fun hr hx _ hj => bar2Byte_reg hr hx hj
    exact ⟨hreg (by simp [pageRegs]) (by decide), hreg (by simp [pageRegs]) (by decide), hreg (by simp [pageRegs]) (by decide),
      hreg (by simp [pageRegs]) (by decide), hreg (by simp [pageRegs]) (by decide),
      fun j hj => bar2Byte_unlisted p i (.inl (by omega)) (by omega),
      fun o hlo hhi j hj => bar2Byte_unlisted p i (.inr (by omega)) (by omega)⟩
  · exact exec_next (exec_dbTail _ _ s) hw (bar2_lost hl ..)
  · intro at_
    have h0 : data ≠ [] := fun h => by rw [h] at hlo; exact absurd hlo (by decide)
    obtain ⟨hframe, hwritten⟩ := appendRing_spec p i data
    obtain ⟨hstored, hothers⟩ := appendRing_stores hn h0 hmem hbad
    obtain ⟨hseqs, hplans, -⟩ := hframe.kept
    exact ⟨_, exec_next (exec_sqNetData path i data s) hw (write_sqNetData ht (netData_taken he hs hm hlo hhi hr)), hwritten, hstored, hothers, hseqs,
      hplans⟩
  · obtain ⟨q, hq, hflushed⟩ := write_sqFlush ht hr
    exact ⟨q, exec_next (exec_sqFlush path i 1 s) hw hq, hflushed⟩

/-- A group that the part does not have. Its ADM_G_DRAM would stand where queue 0 has its SQ_ENABLE. -/
def strayGroup : Nat := 0x4E0

theorem admGDram_strayGroup : G.admGDram strayGroup = G.sqEnable 0 := rfl

/-- A part in which the stray group is armed and holds a reservation that names queue 0. The state can be written down, but admission makes no such
reservation: no command that reserves for a group names one above 15. -/
def strayPart : Part :=
  let p := setReg Part.cold (G.lgState strayGroup) 1
  { p with adm := { p.adm with resv := [⟨strayGroup, none, [(0, ⟨0, [0], false⟩)], 0⟩] } }

theorem strayPart_takes : Takes strayPart .management (G.sqEnable 0) 1 := ⟨_, rfl, rfl, by decide, by decide⟩

/-- The enabling of queue 0 disarms the stray group, and its ADM_G_DRAM is cleared (R252, R309). -/
theorem strayPart_cleared : reg (queueSwitched strayPart .management 0 1) (G.admGDram strayGroup) = 0 := by decide

/-- Refutes O47: where a reservation is of a group that the part does not have, the enabling of a queue that the reservation names disarms that group,
and what clears the group's ADM_G_DRAM clears SQ_ENABLE. With reservations of the 16 groups alone, queuesAreEnabledAndFed_of_realGroups gives all that
O47 says. -/
theorem not_queuesAreEnabledAndFed : ¬ Obligations.QueuesAreEnabledAndFed := by
  unfold Obligations.QueuesAreEnabledAndFed
  intro h
  obtain ⟨henable, -⟩ := h ⟨[], strayPart⟩ 0 .management rfl
  obtain ⟨q, hq, hone, -⟩ := henable strayPart_takes (by decide)
  have hexec := exec_next (exec_sqEnable .management 0 1 ⟨[], strayPart⟩) rfl (write_sqEnable strayPart_takes)
  have hsame : q = queueSwitched strayPart .management 0 1 := by
    rw [hexec] at hq
    injection hq with hs
    injection hs with _ hp
    exact hp.symm
  have hzero : reg q (G.sqEnable 0) = 0 := by
    rw [hsame, ← admGDram_strayGroup]
    exact strayPart_cleared
  exact absurd (hzero.symm.trans hone) (by decide)

end Sys2Proof.Machine
end
